-- ==== Sys2Proof/Word.lean ====
section
/-! DEFINITION. The byte and word types, the keyed table type and the memory type of the model (plain data only). -/

namespace Sys2Proof

/-- One byte. -/
abbrev Byte := BitVec 8

/-- One 32-bit register (R66: every global register is 32 bits wide). -/
abbrev Word := BitVec 32

/-- A table keyed by a number, held as a list in rising key order. -/
abbrev Tbl (α : Type) := List (Nat × α)

/-- Sparse memory: (address, byte) pairs in rising address order, no listed byte equal to 0. -/
abbrev Mem := List (Nat × BitVec 8)

end Sys2Proof
end

