-- ==== Sys2Proof/Syntax.lean ====
section
/-! DEFINITION. The commands: one constructor of Instr per row of spec/opcode_table.json, with its operands.
A Stolp command carries its packet; every other row carries what the outside world supplies at that moment. -/

namespace Sys2Proof

/-- A Stolp packet as the command pair sees it (R74): who carries it and all its bytes, header included. -/
structure Pkt where
  /-- context whose ring or session carries the packet -/
  ctx : Nat
  /-- 0–7 a submission queue, 8 the network queue (R102) -/
  queue : Nat
  /-- session identifier when queue is 8, otherwise 0 -/
  session : Nat
  /-- the packet's bytes, byte 0 first -/
  bytes : List Byte
  deriving DecidableEq, Repr

/-- A datagram as received on an Ethernet port: where it came from and its bytes. -/
structure Dgram where
  /-- Ethernet port 0 or 1 -/
  port : Nat
  /-- peer IP address, 16 bytes (IPv4-mapped for IPv4) -/
  ip : List Byte
  /-- peer UDP port -/
  udp : Nat
  /-- UDP payload, byte 0 first -/
  data : List Byte
  deriving DecidableEq, Repr

/-- What holds a page that the migration engine copies (R302, R307): a memory object, a key-value pool, a paused stream. -/
inductive PageOwner where
  | object (slot : Nat)
  | pool (handle : Nat)
  | stream (slot : Nat)
  | firmware
  deriving DecidableEq, Repr

/-- The kinds of computation error of R394. -/
inductive ErrKind where
  | checksum | shadow | residue | tailWatchdog | scratchWord
  deriving DecidableEq, Repr

/-- One slice's disagreement in one attempt of a leg: the slice and its panel (or Kite array). -/
structure LegErr where
  slice : Nat
  panel : Nat
  kind : ErrKind
  deriving DecidableEq, Repr

/-- Bytes that an attempt of a leg with errors wrote: object index of the plan, byte offset, bytes. -/
structure LegWrite where
  obj : Nat
  off : Nat
  data : List Byte
  deriving DecidableEq, Repr

/-- What one leg adds to the statistics record `chan` of tag `tag` (R160): the sum of squared errors as the merged
binary64 bits, and the counts. -/
structure StatAdd where
  tag : Nat
  chan : Nat
  sum : Nat
  elements : Nat
  clipped : Nat
  saturated : Nat
  nonfinite : Nat
  maxErr : Nat
  deriving DecidableEq, Repr

/-- One stream's working state at the end of a leg with cell stages, and what its sentinel measured (R267, R273). -/
structure CellOut where
  stream : Nat
  state : List Byte
  norm : Nat
  /-- time steps at which a layer was found outside its band -/
  excursions : List Nat
  deriving DecidableEq, Repr

/-- How an attempt of a leg ended, other than by a computation error. -/
inductive LegFail where
  | none | lowerTier | transient | internal
  deriving DecidableEq, Repr

/-- Everything the outside supplies about the end of the leg that runs on a gang. What a sound attempt writes is computed by the model;
`writes`, `notes`, `stats`, `cells` and `emptyRows` are the values of an attempt with errors, and count only where its result is
delivered all the same (R396). -/
structure LegEnd where
  /-- gang 1–16, 0 for Kite -/
  gang : Nat
  /-- disagreements of this attempt, empty if it agreed -/
  errs : List LegErr
  fail : LegFail
  writes : List LegWrite
  /-- note bits that the leg's work raised: CLIPPED (R78) -/
  notes : Nat
  stats : List StatAdd
  cells : List CellOut
  /-- number of each padded attention row without an admitted key: sequence index in the step record × Q + row (R238, R248) -/
  emptyRows : List Nat
  /-- (panel, rows) that R388 did not compare -/
  unchecked : List (Nat × Nat)
  /-- execution time of the attempt, ns -/
  elapsed : Nat
  deriving DecidableEq, Repr

/-- How a transfer or an operation of a lower tier ended. -/
inductive Done where
  | ok | lowerTier | transient | internal
  deriving DecidableEq, Repr

/-- The kinds of link reset (R51). -/
inductive LinkReset where
  | perst | hotReset | flr | linkLoss
  deriving DecidableEq, Repr

/-- What the host writes to configuration space when it restores the function (R51–R53, R65). -/
structure CfgWrite where
  /-- Bus Master Enable is set -/
  busMaster : Bool := true
  /-- the PASID capability is enabled -/
  pasid : Bool := true
  /-- ATS is enabled -/
  ats : Bool := true
  /-- BAR0 and BAR1, 64 bits -/
  bar0 : Nat := 0
  /-- BAR2 and BAR3, 64 bits -/
  bar2 : Nat := 0
  deriving DecidableEq, Repr

/-- How a host-memory read failed (R65). -/
inductive ReadFail where
  | ur | ca | timeout
  deriving DecidableEq, Repr

/-- What a failed host-memory read was for (R65). -/
inductive ReadFor where
  | ringUnits | command (tag : Nat) | leg (gang : Nat)
  deriving DecidableEq, Repr

/-- The causes of a warm reset that come from a pin or the journal (R436). -/
inductive WarmCause where
  | sysreset | devReset | journal
  deriving DecidableEq, Repr

/-- One received CSI-2 packet's header outcome (R316). -/
inductive CsiEcc where
  | good | corrected | bad
  deriving DecidableEq, Repr

/-- A CSI-2 long packet: virtual channel, data type, header outcome, payload, whether its CRC-16 holds, its pixel count, and the nanoseconds
from the end of the port's image line before to its start (R316, R317). -/
structure CsiLine where
  port : Nat
  vc : Nat
  dt : Nat
  ecc : CsiEcc
  payload : List Byte
  crcOk : Bool
  pixels : Nat
  gap : Nat
  deriving DecidableEq, Repr

/-- What the converters and the I2S inputs gave during one 10 ms block, in sample codes: the high-quality channels at 48 kHz (24 bits) and
the low-power channels at 16 kHz (16 bits) by microphone (R337); a number that stands for the samples beyond the block which a filter takes
in as well; the I2S slots by source code (R342), loopback slots only for a ring at another rate than the port's; the ones density of each PDM
line in parts per thousand (R351); the measured rate offset and the working time of the block's first frame of a target-mode port
(R346). -/
structure AudioBlock where
  mics : List (Nat × List Int)
  lpMics : List (Nat × List Int)
  around : Nat
  slots : List (Nat × List Int)
  density : List (Nat × Nat)
  rateOffset : List (Nat × Int)
  firstFrame : List (Nat × Nat)
  deriving DecidableEq, Repr

/-- A Sync or Follow_Up as the Timekeeper evaluates it when the Sync has just been received (R356, R359, R361): the domain, the port, the domain
time that the message gives in 2^-16 ns, the grandmaster's interval in ns with the Sync receipt timeout as a number of intervals, and the
rate of the domain against the 25 MHz reference that it yields, in parts per 10^9. -/
structure SyncMsg where
  domain : Nat
  port : Nat
  domainTime : Nat
  interval : Nat
  receiptTimeout : Nat
  rate : Int := 0
  deriving DecidableEq, Repr

/-- What an Announce tells (R358, R359): the grandmaster's identity, and the priority vector that BMCA compares as one number, smaller being
better. -/
structure Announced where
  identity : Nat
  vector : Nat
  deriving DecidableEq, Repr

/-- A peer delay exchange (R358): one that this port began gives a mean link delay in ns, from timestamps without the adjustments of R356; one
that the neighbour begins brings a Pdelay_Req at a working time. -/
inductive Pdelay where
  | measured (delay : Nat) | request (time : Nat)
  deriving DecidableEq, Repr

/-- A received Ethernet frame, as far as the RY3 looks at it (R355, R373, R375). -/
inductive EthKind where
  | badFcs | fragment | gptp (intervalRequest : Option Int) | arpRequest (target : List Byte) | neighborSolicit (target : List Byte)
  | neighborReply (ip : List Byte) | echoRequest | tcp | macControl | stolp | gweug | udp
  deriving DecidableEq, Repr

structure EthFrame where
  port : Nat
  kind : EthKind
  /-- destination MAC address, 6 bytes -/
  dst : List Byte
  /-- IEEE 802.1Q tag -/
  tag : Option Nat
  /-- bytes of the frame, tag and FCS included -/
  length : Nat
  srcIp : List Byte
  srcUdp : Nat
  dstIp : List Byte
  dstUdp : Nat
  payload : List Byte
  /-- receive timestamp, working time ns (R356) -/
  time : Nat
  deriving DecidableEq, Repr

/-- A Gweug datagram: the device index of the member that it claims to come from, the address and UDP port that it comes from, and the payload. -/
structure GwMsg where
  peer : Nat
  srcIp : List Byte := []
  srcUdp : Nat := 0
  /-- version byte of its header -/
  version : Nat := 0x10
  session : Nat
  /-- type of R378 -/
  type : Nat
  counter : Nat
  authentic : Bool
  data : List Byte
  deriving DecidableEq, Repr

/-- The units whose watchdog of R389 can expire or fire early. -/
inductive Watched where
  | camera (port : Nat) | tail (panel : Nat) | kiteTail | dmaEarly (channel : Nat) | ethernet (port : Nat) | audio (ring : Nat)
  deriving DecidableEq, Repr

/-- The rails of R463. -/
inductive Rail where
  | aon | aonio | soc | sram | pll | io18 | vdd1 | vdd2h | vdd2l | vddq | bal | ser | hser | phy18
  deriving DecidableEq, Repr

/-- The clocked islands whose clock monitor may fire (R386). -/
inductive ClockUnit where
  | panel (n : Nat) | kite | camera (port : Nat) | presence | mooring | stateStore | audio | network | host | memory | bridle
  deriving DecidableEq, Repr

/-- The roles of the Bridle's lockstep pairs (R400). -/
inductive PairRole where
  | command | safety | standby
  deriving DecidableEq, Repr

/-- The outcome of one start step (R433, R434): pass with the units that failed in it, or fail with a status code. -/
structure StepOut where
  pass : Bool
  units : List Nat
  code : Nat
  detail : Nat
  deriving DecidableEq, Repr

/-- The commands of the block: one constructor per row of spec/opcode_table.json, in the table's order. -/
inductive Instr where
  /-- DEV_NOP (R100) -/
  | devNop (p : Pkt)
  /-- DEV_INFO (R101) -/
  | devInfo (p : Pkt)
  /-- DEV_STATS (R100) -/
  | devStats (p : Pkt)
  /-- DEV_REJECT_LOG (R102) -/
  | devRejectLog (p : Pkt)
  /-- DEV_RESET (R103) -/
  | devReset (p : Pkt)
  /-- DEV_RESET_GRACE_END (R103) -/
  | devResetGraceEnd (p : Pkt)
  /-- DEV_KEY_ENROLL (R104) -/
  | devKeyEnroll (p : Pkt)
  /-- DEV_KEY_REVOKE (R105) -/
  | devKeyRevoke (p : Pkt)
  /-- DEV_KEY_LIST (R105) -/
  | devKeyList (p : Pkt)
  /-- DEV_NET_CONFIG (R106) -/
  | devNetConfig (p : Pkt)
  /-- DEV_SESSIONS (R107) -/
  | devSessions (p : Pkt)
  /-- DEV_SESSION_CLOSE (R107) -/
  | devSessionClose (p : Pkt)
  /-- CASC_QUERY (R46) -/
  | cascQuery (p : Pkt)
  /-- CASC_SET_SOURCE (R47) -/
  | cascSetSource (p : Pkt)
  /-- CASC_BIND (R48) -/
  | cascBind (p : Pkt)
  /-- CASC_SET_HOLD (R46) -/
  | cascSetHold (p : Pkt)
  /-- CASC_LIFT (R46) -/
  | cascLift (p : Pkt)
  /-- CASC_BALLAST (R46) -/
  | cascBallast (p : Pkt)
  /-- CASC_READ_LOG (R46) -/
  | cascReadLog (p : Pkt)
  /-- CASC_READ_REEL (R31) -/
  | cascReadReel (p : Pkt)
  /-- CASC_COUNTERS (R46) -/
  | cascCounters (p : Pkt)
  /-- CASC_SET_TIMER (R46) -/
  | cascSetTimer (p : Pkt)
  /-- ENERGY_GATE_DECISION (R25) -/
  | energyGateDecision (level : Nat)
  /-- DETECTOR_DECISION (R33) -/
  | detectorDecision (reason score : Nat) (input : List Byte) (trigger frame : Nat)
  /-- SAMPLE_HOLD_END (R25) -/
  | sampleHoldEnd
  /-- UPDRAFT_WINDOW_END (R38) -/
  | updraftWindowEnd (tier : Nat)
  /-- WARM_UP_COMPLETE (R37) -/
  | warmUpComplete (tier : Nat)
  /-- ARMING_COMPLETE (R37) -/
  | armingComplete (tier : Nat)
  /-- IDLE_HOLD_END (R37) -/
  | idleHoldEnd (tier : Nat)
  /-- TIER_POWER_DOWN_COMPLETE (R39) -/
  | tierPowerDownComplete (tier : Nat)
  /-- REEL_SOURCE_HANDOVER (R30) -/
  | reelSourceHandover
  /-- REEL_READER_SUPPLY (R191) -/
  | reelReaderSupply (tier : Nat)
  /-- RTC_ALARM (R46) -/
  | rtcAlarm
  /-- AON_GPIO_EDGE (R417) -/
  | aonGpioEdge (pin : Nat) (level : Bool)
  /-- PRESENCE_FRAME (R331) -/
  | presenceFrame (payload : List Byte)
  /-- BAR0_UNSUPPORTED_ACCESS (R57) -/
  | bar0UnsupportedAccess (write : Bool)
  /-- REGISTER_WRITE (R66) -/
  | registerWrite (off width value : Nat)
  /-- GLB_TIME_LO_READ (R58) -/
  | glbTimeLoRead (wide : Bool)
  /-- GLB_EVENT_CLEAR (R73) -/
  | glbEventClear (value hwSets : Nat)
  /-- GLB_ERR_CLEAR (R73) -/
  | glbErrClear (value hwSets : Nat)
  /-- RESUME (R52) -/
  | resume
  /-- ABANDON (R52) -/
  | abandon
  /-- MGMT_RING_ENABLE (R72) -/
  | mgmtRingEnable (value : Nat)
  /-- MGMT_RING_DISABLE (R72) -/
  | mgmtRingDisable (value : Nat)
  /-- DB_SQ_WRITE (R62) -/
  | dbSqWrite (page queue value : Nat)
  /-- DB_SR_WRITE (R62) -/
  | dbSrWrite (page value : Nat)
  /-- BAR2_READ (R60) -/
  | bar2Read (off size : Nat)
  /-- BAR2_WRITE (R60) -/
  | bar2Write (off : Nat) (data : List Byte)
  /-- MSIX_ENTRY_UNMASK (R64) -/
  | msixEntryUnmask (vector : Option Nat)
  /-- LINK_RESET (R51) -/
  | linkReset (kind : LinkReset)
  /-- D3HOT_ENTRY (R53) -/
  | d3hotEntry
  /-- D0_RESUME (R53) -/
  | d0Resume (busMaster : Bool)
  /-- ATS_INVALIDATION (R65) -/
  | atsInvalidation (ctx page : Nat)
  /-- HOST_READ_FAILURE (R65) -/
  | hostReadFailure (ctx : Nat) (kind : ReadFail) (what : ReadFor)
  /-- ROOT_PORT_LINK_DOWN (R55) -/
  | rootPortLinkDown
  /-- ROOT_PORT_RETRAIN (R55) -/
  | rootPortRetrain (up : Bool) (speed width : Nat)
  /-- PACKET_FETCH (R81) -/
  | packetFetch (p : Pkt) (chain : List Pkt)
  /-- PACKET_DISPATCH (R87) -/
  | packetDispatch (ctx tag : Nat)
  /-- DEPENDENCY_TIMEOUT (R89) -/
  | dependencyTimeout (ctx tag : Nat)
  /-- STOLP_HELLO (R96) -/
  | stolpHello (d : Dgram)
  /-- STOLP_FINISH (R95) -/
  | stolpFinish (d : Dgram)
  /-- STOLP_DATA (R93) -/
  | stolpData (d : Dgram)
  /-- STOLP_CLOSE (R99) -/
  | stolpClose (d : Dgram)
  /-- HANDSHAKE_TIMEOUT (R96) -/
  | handshakeTimeout (session : Nat)
  /-- SESSION_IDLE_TIMEOUT (R99) -/
  | sessionIdleTimeout (session : Nat)
  /-- CREDIT_TIMER (R97) -/
  | creditTimer (session : Nat)
  /-- REPLY_BATCH_TIMEOUT (R99) -/
  | replyBatchTimeout (session : Nat)
  /-- CTX_OPEN (R110) -/
  | ctxOpen (p : Pkt)
  /-- CTX_CLOSE (R134) -/
  | ctxClose (p : Pkt)
  /-- CTX_CLOSE_GRACE_END (R134) -/
  | ctxCloseGraceEnd (ctx : Nat)
  /-- CTX_QUERY (R136) -/
  | ctxQuery (p : Pkt)
  /-- CTX_SET_QUOTA (R117) -/
  | ctxSetQuota (p : Pkt)
  /-- CTX_SEAL (R118) -/
  | ctxSeal (p : Pkt)
  /-- CTX_QUEUE_CREATE (R122) -/
  | ctxQueueCreate (p : Pkt)
  /-- CTX_QUEUE_DESTROY (R122) -/
  | ctxQueueDestroy (p : Pkt)
  /-- GANG_CREATE (R124) -/
  | gangCreate (p : Pkt)
  /-- GANG_DESTROY (R124) -/
  | gangDestroy (p : Pkt)
  /-- GANG_QUERY (R136) -/
  | gangQuery (p : Pkt)
  /-- CTX_LEASES (R138) -/
  | ctxLeases (p : Pkt)
  /-- CTX_XLATE (R136) -/
  | ctxXlate (p : Pkt)
  /-- LEASE_LIMIT_EXPIRY (R130) -/
  | leaseLimitExpiry (lease : Nat)
  /-- RIPCORD_SCRUB_COMPLETE (R132) -/
  | ripcordScrubComplete (ctx : Nat)
  /-- LEG_ACCESS_FAULT (R115) -/
  | legAccessFault (ctx : Nat) (gang : Option Nat) (channel : Option Nat) (command : Option Nat := none)
  /-- LEG_END (R125) -/
  | legEnd (e : LegEnd)
  /-- PREFETCH_COMPLETE (R196) -/
  | prefetchComplete (gang stall : Nat)
  /-- STALL_LIMIT_EXPIRY (R197) -/
  | stallLimitExpiry (gang : Nat)
  /-- LEG_LATE_LIMIT (R198) -/
  | legLateLimit (gang : Nat)
  /-- PAGE_RECLAIM (R255) -/
  | pageReclaim (page : Nat)
  /-- STRIPE_GROUP_START (R224) -/
  | stripeGroupStart (gang stripe : Nat) (tiles : List Nat := [])
  /-- PIPELINE_STAGE_STEP (R270) -/
  | pipelineStageStep (gang stage : Nat)
  /-- QSTAT_ARM (R164) -/
  | qstatArm (p : Pkt)
  /-- QSTAT_DISARM (R165) -/
  | qstatDisarm (p : Pkt)
  /-- QSTAT_READ (R165) -/
  | qstatRead (p : Pkt)
  /-- QSTAT_QUERY (R163) -/
  | qstatQuery (p : Pkt)
  /-- QCONVERT (R166) -/
  | qconvert (p : Pkt)
  /-- DMA_TRANSFER_COMPLETE (R312) -/
  | dmaTransferComplete (channel : Nat) (outcome : Done)
  /-- PLAN_LOAD (R185) -/
  | planLoad (p : Pkt)
  /-- PLAN_UNLOAD (R207) -/
  | planUnload (p : Pkt)
  /-- PLAN_QUERY (R207) -/
  | planQuery (p : Pkt)
  /-- PLAN_RUN (R187) -/
  | planRun (p : Pkt)
  /-- PLAN_STOP (R190) -/
  | planStop (p : Pkt)
  /-- PLAN_FEED (R188) -/
  | planFeed (p : Pkt)
  /-- PLAN_BIND_EVENT (R192) -/
  | planBindEvent (p : Pkt)
  /-- PLAN_UNBIND (R207) -/
  | planUnbind (p : Pkt)
  /-- GANG_STATS (R207) -/
  | gangStats (p : Pkt)
  /-- PANEL_QUERY (R207) -/
  | panelQuery (p : Pkt)
  /-- PLAN_RELOAD (R207) -/
  | planReload (p : Pkt)
  /-- MOOR_LOAD (R206) -/
  | moorLoad (p : Pkt)
  /-- MOOR_QUERY (R207) -/
  | moorQuery (p : Pkt)
  /-- KV_POOL_CREATE (R229) -/
  | kvPoolCreate (p : Pkt)
  /-- KV_POOL_DESTROY (R256) -/
  | kvPoolDestroy (p : Pkt)
  /-- KV_SEQ_CREATE (R233) -/
  | kvSeqCreate (p : Pkt)
  /-- KV_FORK (R235) -/
  | kvFork (p : Pkt)
  /-- KV_TRUNCATE (R234) -/
  | kvTruncate (p : Pkt)
  /-- KV_FREE (R256) -/
  | kvFree (p : Pkt)
  /-- KV_SEQ_QUERY (R254) -/
  | kvSeqQuery (p : Pkt)
  /-- KV_PAGE_QUERY (R231) -/
  | kvPageQuery (p : Pkt)
  /-- KV_READ (R256) -/
  | kvRead (p : Pkt)
  /-- KV_WAIT (R253) -/
  | kvWait (p : Pkt)
  /-- KV_POOL_QUERY (R256) -/
  | kvPoolQuery (p : Pkt)
  /-- KV_EXPORT (R256) -/
  | kvExport (p : Pkt)
  /-- KV_IMPORT (R256) -/
  | kvImport (p : Pkt)
  /-- STRM_SET_CREATE (R259) -/
  | strmSetCreate (p : Pkt)
  /-- STRM_SET_DESTROY (R281) -/
  | strmSetDestroy (p : Pkt)
  /-- STRM_START (R261) -/
  | strmStart (p : Pkt)
  /-- STRM_PAUSE (R261) -/
  | strmPause (p : Pkt)
  /-- STRM_RESUME (R261) -/
  | strmResume (p : Pkt)
  /-- STRM_END (R281) -/
  | strmEnd (p : Pkt)
  /-- STRM_QUERY (R268) -/
  | strmQuery (p : Pkt)
  /-- STRM_SENTINEL (R273) -/
  | strmSentinel (p : Pkt)
  /-- STRM_READ (R281) -/
  | strmRead (p : Pkt)
  /-- STRM_EXPORT (R274) -/
  | strmExport (p : Pkt)
  /-- STRM_IMPORT (R277) -/
  | strmImport (p : Pkt)
  /-- STRM_PEER (R281) -/
  | strmPeer (p : Pkt)
  /-- MEM_ALLOC (R303) -/
  | memAlloc (p : Pkt)
  /-- MEM_FREE (R312) -/
  | memFree (p : Pkt)
  /-- MEM_MAP_HOST (R312) -/
  | memMapHost (p : Pkt)
  /-- MEM_PROTECT (R312) -/
  | memProtect (p : Pkt)
  /-- MEM_COPY (R312) -/
  | memCopy (p : Pkt)
  /-- MEM_PLACE (R304) -/
  | memPlace (p : Pkt)
  /-- MEM_PIN (R301) -/
  | memPin (p : Pkt)
  /-- MEM_QUERY (R312) -/
  | memQuery (p : Pkt)
  /-- MEM_CHANNELS (R312) -/
  | memChannels (p : Pkt)
  /-- MEM_CHANNEL_RETIRE (R307) -/
  | memChannelRetire (p : Pkt)
  /-- MEM_COLD_IO (R312) -/
  | memColdIo (p : Pkt)
  /-- MEM_MOVE_PAGE_COMPLETE (R302) -/
  | memMovePageComplete (owner : PageOwner) (readable : Bool)
  /-- FIRMWARE_PLACEMENT (R303) -/
  | firmwarePlacement
  /-- COLD_TIER_COMPLETION (R305) -/
  | coldTierCompletion (object : Nat) (ok : Bool)
  /-- COLD_TIER_DEADLINE (R306) -/
  | coldTierDeadline (object : Nat)
  /-- CHANNEL_RETIREMENT_COMPLETE (R308) -/
  | channelRetirementComplete
  /-- PATROL_SCRUB (R298) -/
  | patrolScrub (word : Nat)
  /-- CAM_QUERY (R332) -/
  | camQuery (p : Pkt)
  /-- CAM_ASSIGN (R332) -/
  | camAssign (p : Pkt)
  /-- CAM_PORT (R332) -/
  | camPort (p : Pkt)
  /-- CAM_PARAMS (R320) -/
  | camParams (p : Pkt)
  /-- CAM_OUTPUT (R321) -/
  | camOutput (p : Pkt)
  /-- CAM_START (R332) -/
  | camStart (p : Pkt)
  /-- CAM_STOP (R332) -/
  | camStop (p : Pkt)
  /-- CAM_POWER (R332) -/
  | camPower (p : Pkt)
  /-- CAM_SYNC (R327) -/
  | camSync (p : Pkt)
  /-- CAM_WINDOW (R328) -/
  | camWindow (p : Pkt)
  /-- CAM_ATTACH (R328) -/
  | camAttach (p : Pkt)
  /-- CAM_WAIT (R332) -/
  | camWait (p : Pkt)
  /-- CAM_PRESENCE (R331) -/
  | camPresence (p : Pkt)
  /-- CSI_FRAME_START (R322) -/
  | csiFrameStart (port vc : Nat) (ecc : CsiEcc)
  /-- CSI_LINE (R316) -/
  | csiLine (l : CsiLine)
  /-- CSI_FRAME_END (R316) -/
  | csiFrameEnd (port vc : Nat) (ecc : CsiEcc)
  /-- SLOT_COMPLETE (R322) -/
  | slotComplete (port : Nat)
  /-- FRAME_INTERVAL_TIMEOUT (R332) -/
  | frameIntervalTimeout (port : Nat)
  /-- MUTED_FRAME_TIMER (R330) -/
  | mutedFrameTimer (port : Nat)
  /-- PRIV_CAM_ASSERT (R329) -/
  | privCamAssert
  /-- PRIV_CAM_RELEASE (R329) -/
  | privCamRelease
  /-- AUD_QUERY (R352) -/
  | audQuery (p : Pkt)
  /-- AUD_ASSIGN (R352) -/
  | audAssign (p : Pkt)
  /-- AUD_CLOCK (R352) -/
  | audClock (p : Pkt)
  /-- AUD_LP (R352) -/
  | audLp (p : Pkt)
  /-- AUD_BEAM (R341) -/
  | audBeam (p : Pkt)
  /-- AUD_CAPTURE (R342) -/
  | audCapture (p : Pkt)
  /-- AUD_START (R352) -/
  | audStart (p : Pkt)
  /-- AUD_STOP (R352) -/
  | audStop (p : Pkt)
  /-- AUD_I2S (R345) -/
  | audI2s (p : Pkt)
  /-- AUD_PLAY (R347) -/
  | audPlay (p : Pkt)
  /-- AUD_WAIT (R352) -/
  | audWait (p : Pkt)
  /-- AUDIO_BLOCK_END (R344) -/
  | audioBlockEnd (b : AudioBlock)
  /-- PLAYBACK_BLOCK_FETCH (R348) -/
  | playbackBlockFetch (port : Nat)
  /-- I2S_CLOCK_LOSS (R346) -/
  | i2sClockLoss (port : Nat)
  /-- PRIV_MIC_ASSERT (R349) -/
  | privMicAssert
  /-- PRIV_MIC_RELEASE (R349) -/
  | privMicRelease
  /-- TK_QUERY (R382) -/
  | tkQuery (p : Pkt)
  /-- TK_CONFIG (R382) -/
  | tkConfig (p : Pkt)
  /-- TK_SELECT (R362) -/
  | tkSelect (p : Pkt)
  /-- EV_ASSIGN (R372) -/
  | evAssign (p : Pkt)
  /-- EV_CONFIG (R371) -/
  | evConfig (p : Pkt)
  /-- EV_QUERY (R382) -/
  | evQuery (p : Pkt)
  /-- EV_READ_CAPTURE (R370) -/
  | evReadCapture (p : Pkt)
  /-- EVENT_TRIGGER_FIRE (R369) -/
  | eventTriggerFire (channel : Nat)
  /-- EVENT_CAPTURE_EDGE (R370) -/
  | eventCaptureEdge (channel : Nat) (rising : Bool) (time : Nat)
  /-- GPTP_SYNC (R359) -/
  | gptpSync (m : SyncMsg)
  /-- GPTP_ANNOUNCE (R359) -/
  | gptpAnnounce (domain port : Nat) (grandmaster : Announced) (receiptTimeout : Nat)
  /-- GPTP_PDELAY (R358) -/
  | gptpPdelay (port : Nat) (delay : Pdelay)
  /-- SYNC_RECEIPT_TIMEOUT (R359) -/
  | syncReceiptTimeout (domain : Nat)
  /-- REVERTIVE_TIMER (R362) -/
  | revertiveTimer
  /-- NET_CONFIG (R373) -/
  | netConfig (p : Pkt)
  /-- NET_QUERY (R382) -/
  | netQuery (p : Pkt)
  /-- NET_BIND (R375) -/
  | netBind (p : Pkt)
  /-- NET_SEND (R376) -/
  | netSend (p : Pkt)
  /-- ETH_FRAME_RECEIVE (R355) -/
  | ethFrameReceive (f : EthFrame)
  /-- ETH_FRAME_DEPART (R357) -/
  | ethFrameDepart (port time : Nat)
  /-- ETH_LINK_CHANGE (R355) -/
  | ethLinkChange (port : Nat) (up : Bool)
  /-- NEIGHBOR_RESOLUTION_TIMEOUT (R373) -/
  | neighborResolutionTimeout (port : Nat) (ip : List Byte)
  /-- GW_FLEET (R377) -/
  | gwFleet (p : Pkt)
  /-- GW_INBOX (R381) -/
  | gwInbox (p : Pkt)
  /-- GW_SEND (R380) -/
  | gwSend (p : Pkt)
  /-- GW_QUERY (R382) -/
  | gwQuery (p : Pkt)
  /-- GW_HANDSHAKE_MESSAGE (R378) -/
  | gwHandshakeMessage (m : GwMsg)
  /-- GW_OFFER (R379) -/
  | gwOffer (m : GwMsg)
  /-- GW_ANSWER (R380) -/
  | gwAnswer (m : GwMsg)
  /-- GW_DATA (R380) -/
  | gwData (m : GwMsg)
  /-- GW_ACK (R380) -/
  | gwAck (m : GwMsg)
  /-- GW_CLOSE (R378) -/
  | gwClose (m : GwMsg)
  /-- GW_ACK_TIMER (R380) -/
  | gwAckTimer (session transfer : Nat)
  /-- GW_CHUNK_RETRANSMIT (R380) -/
  | gwChunkRetransmit (session transfer chunk : Nat)
  /-- GW_TRANSFER_DEADLINE (R380) -/
  | gwTransferDeadline (session transfer : Nat) (sender : Bool)
  /-- GW_SESSION_IDLE_TIMEOUT (R378) -/
  | gwSessionIdleTimeout (session : Nat)
  /-- SAFE_QUERY (R408) -/
  | safeQuery (p : Pkt)
  /-- SAFE_LOG_READ (R408) -/
  | safeLogRead (p : Pkt)
  /-- SAFE_CHANNELS (R410) -/
  | safeChannels (p : Pkt)
  /-- SAFE_CONFIG (R409) -/
  | safeConfig (p : Pkt)
  /-- SAFE_RETIRE (R408) -/
  | safeRetire (p : Pkt)
  /-- SAFE_CLEAR (R408) -/
  | safeClear (p : Pkt)
  /-- SAFE_INJECT (R408) -/
  | safeInject (p : Pkt)
  /-- SAFE_E2E (R391) -/
  | safeE2e (p : Pkt)
  /-- SAFE_ENTER (R407) -/
  | safeEnter (p : Pkt)
  /-- SAFE_SELFTEST (R408) -/
  | safeSelftest (p : Pkt)
  /-- SPARE_READY (R199) -/
  | spareReady (panel : Nat) (passed : Bool)
  /-- SCORE_LEAK (R393) -/
  | scoreLeak
  /-- SELF_TEST_DEADLINE (R403) -/
  | selfTestDeadline (type index : Nat)
  /-- WINDOW_WATCHDOG_LATE (R389) -/
  | windowWatchdogLate (unit : Watched)
  /-- LOCKSTEP_MISMATCH (R400) -/
  | lockstepMismatch (role : PairRole)
  /-- STANDBY_TAKEOVER (R400) -/
  | standbyTakeover (passed : Bool)
  /-- SUPPLY_EXCURSION (R463) -/
  | supplyExcursion (rail : Rail) (below50 : Bool)
  /-- CLOCK_MONITOR_FAULT (R386) -/
  | clockMonitorFault (unit : ClockUnit)
  /-- PWR_QUERY (R429) -/
  | pwrQuery (p : Pkt)
  /-- PWR_CAP (R423) -/
  | pwrCap (p : Pkt)
  /-- PWR_POLICY (R414) -/
  | pwrPolicy (p : Pkt)
  /-- PWR_WAKE (R417) -/
  | pwrWake (p : Pkt)
  /-- PWR_ENTER (R429) -/
  | pwrEnter (p : Pkt)
  /-- PWR_ENTER_DEADLINE (R429) -/
  | pwrEnterDeadline
  /-- PADS_RELEASE (R421) -/
  | padsRelease (p : Pkt)
  /-- PWR_PADS (R421) -/
  | pwrPads (p : Pkt)
  /-- MOOR_ENTRY (R415) -/
  | moorEntry
  /-- DORMANT_DELAY_EXPIRY (R413) -/
  | dormantDelayExpiry
  /-- I2C0_ADDRESS_MATCH (R418) -/
  | i2c0AddressMatch (address : Nat) (argument : Option Nat)
  /-- PE_PERST0_DEASSERT (R419) -/
  | pePerst0Deassert
  /-- PE_WAKE_N_SENSE (R419) -/
  | peWakeNSense
  /-- GOVERNOR_TICK (R425) -/
  | governorTick (power roomed : Nat)
  /-- THERMAL_CAP_TICK (R427) -/
  | thermalCapTick (others : Int) (panels : List (Nat × Int) := [])
  /-- THERMAL_TRIP (R428) -/
  | thermalTrip (hottest : Int)
  /-- THERMAL_TRIP_RELEASE (R428) -/
  | thermalTripRelease (hottest : Int)
  /-- POWER_ON_RESET (R466) -/
  | powerOnReset
  /-- WARM_RESET (R481) -/
  | warmReset (cause : WarmCause)
  /-- START_STEP_COMPLETE (R433) -/
  | startStepComplete (o : StepOut)
  /-- START_STEP_LIMIT (R433) -/
  | startStepLimit
  /-- HOST_BOOT_DESCRIPTOR_POLL (R432) -/
  | hostBootDescriptorPoll
  /-- BOOT_JOURNAL (R450) -/
  | bootJournal (p : Pkt)
  /-- BOOT_RETRY (R435) -/
  | bootRetry (p : Pkt)
  /-- SEC_CERT (R445) -/
  | secCert (p : Pkt)
  /-- SEC_ATTEST (R446) -/
  | secAttest (p : Pkt)
  /-- SEC_PAIR (R442) -/
  | secPair (p : Pkt)
  /-- SEC_OWNER (R450) -/
  | secOwner (p : Pkt)
  /-- SEC_CONFIG (R441) -/
  | secConfig (p : Pkt)
  /-- SEC_FLOOR (R443) -/
  | secFloor (p : Pkt)
  /-- UPD_STAGE (R439) -/
  | updStage (p : Pkt)
  /-- UPD_ACTIVATE (R448) -/
  | updActivate (p : Pkt)
  /-- UPD_CANCEL (R449) -/
  | updCancel (p : Pkt)
  /-- UPD_QUERY (R450) -/
  | updQuery (p : Pkt)
  /-- UPDATE_STAGE_COMPLETE (R448) -/
  | updateStageComplete (passed : Bool)
  /-- REEL_READER_COPY_COMPLETE (R31) -/
  | reelReaderCopyComplete
  /-- BUS_MASTER_ENABLE_SET (R52) -/
  | busMasterEnableSet (write : CfgWrite := {})
  /-- SCRATCHPAD_SCRUB_COMPLETE (R171) -/
  | scratchpadScrubComplete (panel : Nat)
  /-- SELF_TEST_SLICE_COMPLETE (R401) -/
  | selfTestSliceComplete (type index : Nat) (passed : Bool)
  /-- I2S_CLOCK_RESUME (R346) -/
  | i2sClockResume (port : Nat)
  /-- OUTPUT_PULSE_END (R369) -/
  | outputPulseEnd (channel : Option Nat) (camera : Option Nat)
  /-- POWER_STATE_MOVE_COMPLETE (R413) -/
  | powerStateMoveComplete
  /-- BOOT_ROM_START (R477) -/
  | bootRomStart (bootSrc : Nat)
  deriving DecidableEq, Repr

end Sys2Proof
end

