-- ==== Sys2Proof/Decode.lean ====
section
/-! DEFINITION. The decoder of table words. No row of spec/opcode_table.json carries bits: the commands reach the RY3 as
packets, register accesses, datagrams and events, not as words. -/

namespace Sys2Proof

/-- The command that a word spells by the table's bits: none, for no row gives bits (log 2). -/
def decodeTableWord (nbits w : Nat) : Option Instr :=
  match nbits, w with
  | _, _ => none

end Sys2Proof
end

