-- ==== Sys2Proof/Config.lean ====
section
/-! DEFINITION. What one part or one implementation fixes, and the values the spec leaves open: opaque constants, of which
nothing can be proved but what holds for every value. -/

namespace Sys2Proof.Config

/-- GLB_ID.MEM: true for the 64 GiB codes, false for the 32 GiB codes (R1, R67). -/
opaque mem64 : Bool

/-- GLB_ID.GRADE: true for grade I (Tj_max +115 °C), false for grade A (+125 °C) (R1, R67). -/
opaque gradeI : Bool

/-- The running Bridle firmware image that step 0x05 loads from slot n: its GLB_FWVER (R66, R438). -/
opaque imageFwver : Nat → Nat

/-- The security version of the image in slot n (R438). -/
opaque imageSecver : Nat → Nat

/-- SHA-512 of header and body of the image in slot n as NOR holds it (R446). -/
opaque imageDigest : Nat → BitVec 512

/-- The Pyrivizia firmware key digest held in boot ROM (R439). -/
opaque firmwareKey : BitVec 512

/-- SHA-512 (R96, R119, R184): the function itself is not given by the spec. -/
opaque sha512 : List (BitVec 8) → BitVec 512

/-- Whether 133 bytes are an uncompressed P-521 point on the curve (R96, R104). -/
opaque onCurve : List (BitVec 8) → Bool

/-- ECDSA P-521 verification: public key, message, signature r then s (R95, R184, R274, R438). -/
opaque ecdsaVerify : List (BitVec 8) → List (BitVec 8) → List (BitVec 8) → Bool

/-- Whether a signature over a message verifies under the public key of the owner of a key ID (R450): the secure element holds the
key ID alone, and the spec does not say where the key stands. -/
opaque ownerVerify : Nat → List (BitVec 8) → List (BitVec 8) → Bool

/-- The device's ECDSA signature with its identity key over a message (R95, R274, R446); the n-th signature made. -/
opaque ecdsaSign : Nat → List (BitVec 8) → BitVec 1056

/-- The device identity public key (R444): 133 bytes as one number. -/
opaque identityKey : BitVec 1064

/-- The cold-tier key of a context, which the root of trust derives from the device seed and the random value chosen at CTX_OPEN (R305, R444). -/
opaque coldKey : Nat → BitVec 256

/-- AES-256-GCM decryption (R92, R275, R305): key, nonce, additional data, ciphertext with its tag; none when the tag fails. -/
opaque gcmOpen : List (BitVec 8) → List (BitVec 8) → List (BitVec 8) → List (BitVec 8) → Option (List (BitVec 8))

/-- AES-256-GCM encryption (R92, R275, R305): key, nonce, additional data, plaintext; the ciphertext with its tag. -/
opaque gcmSeal : List (BitVec 8) → List (BitVec 8) → List (BitVec 8) → List (BitVec 8) → List (BitVec 8)

/-- Fresh random numbers of the Anchor (R95, R275, R442); the n-th drawn. -/
opaque fresh : Nat → BitVec 1064

/-- X and Y of the n-th ephemeral public key, 66 bytes each (R95). -/
opaque pubKey : Nat → BitVec 1056

/-- The ECDH secret Z of the n-th ephemeral private key and a peer's point: 66 bytes (R95). -/
opaque ecdh : Nat → List (BitVec 8) → BitVec 528

/-- HKDF-SHA-512: salt, input key material, info; its first 72 bytes (R95, R275). -/
opaque hkdf : List (BitVec 8) → List (BitVec 8) → List (BitVec 8) → BitVec 576

/-- The ECDH secret Z of the identity private key and a peer's point: 66 bytes (R275). -/
opaque identityEcdh : List (BitVec 8) → BitVec 528

/-- How the stream record of a parcel spells a set shape (R276 leaves the layout open): layer count, format, flags, widths. -/
opaque shapeCode : List Nat → BitVec 256

/-- The bytes of the identity certificate chain in NOR (R445). -/
opaque certChain : List (BitVec 8)

/-- A value of an operation that the spec leaves undefined or open; the n-th such value. -/
opaque free : Nat → Nat

/-- A byte that the spec calls undefined after a failed operation; the n-th such byte. -/
opaque freeByte : Nat → BitVec 8

/-- Whether step n of an external part's transaction answers with a good MAC (R442): the n-th transaction. -/
opaque seAnswers : Nat → Bool

/-- Whether the n-th write to NOR verifies (R451). -/
opaque norVerifies : Nat → Bool

/-- HMAC over the journal mirror holds at the n-th power-on reset (R436). -/
opaque mirrorHolds : Nat → Bool

/-- Hard sigmoid and hard swish of R173, whose formulas the spec does not give: function code, FP32 operand. -/
opaque tailFn : Nat → BitVec 32 → BitVec 32

/-- A choice that the spec leaves open inside one leg: orders of sums, errors within a stated bound, values without a stated result.
The key names the place of the choice: the leg's number, then stage, row, column and step. -/
opaque pick : List Nat → Nat

/-- Whether the fade of R341 has left the old beam by one step at its first sample already; the spec says linear over 1 ms. -/
opaque fadeAhead : Bool

/-- The interpolator of R339, given by its response: number of phases, phase, the channel's samples with the block's at the end, the
samples beyond the block, and the place in the list that a delay by whole samples takes. -/
opaque interp : Nat → Nat → List Int → Nat → Nat → Int

/-- Further decimation of the 48 kHz grid (R337, R342), given by its response: rate code, the block's samples, those beyond the block, and the
index of the output sample. -/
opaque decimate : Nat → List Int → Nat → Nat → Int

/-- The first-order DC block with its corner at 10 Hz (R337): the output before the block, the block's samples, those beyond it, the index. -/
opaque dcBlock : List Int → List Int → Nat → Nat → Int

/-- What the servo noise of the selected domain takes off a residual below 100 ns (R361): the residual and the ns that pass. -/
opaque servo : Int → Nat → Nat

/-- The rate of the servo noise (R361), parts per 10^9, at a residual below 100 ns. -/
opaque servoRate : Int → Nat

/-- Whether the RY3 fills the UDP checksum of the IPv4 datagrams it sends (R357 knows the checksum 0); R376 does not say. -/
opaque udp4Sum : Bool

/-- MTU of the other port of the path to a fleet member (R379): the spec does not say how the RY3 learns it. -/
opaque peerMtu : Nat → Nat

/-- Whether a 16-bit I2S source stands in the upper bits of an INT24 sample (R342 does not say). -/
opaque i2sLeft : Bool

/-- The payload of a NaN that a conversion writes where the spec fixes none (R155, R166), from the source's bits. -/
opaque nanBits : Nat → Nat

/-- Device address bits [39:14] of the table that serves a context (first argument) from a level 1 or level 2 entry (level, index): where
the RY3 puts its tables is its own choice (R112, R113). -/
opaque tableAt : Nat → Nat → Nat → BitVec 26

/-- Number of 64 KiB extents of the cold namespaces (R305): given by the drives. -/
opaque coldExtents : Nat

/-- Bytes of a logical block of a drive (R312): given by the drive of controller n. -/
opaque lbaBytes : Nat → Nat

/-- The scalers of R323: 6-tap polyphase filters with 64 phases, whose coefficients and alignment the spec does not give: the crop window of one
plane, the output's width and height, and x and y of the sample. -/
opaque scaler : List (List Nat) → Nat → Nat → Nat → Nat → BitVec 16

/-- The chroma sample of NV12 and P010 (R323): one colour of the pixels of a 2 × 2 group; where the sample lies is open. -/
opaque chromaDown : List Nat → BitVec 16

/-- A gradient of demosaicing (R318): horizontal or not, over a 5 × 5 window of samples, row by row; none beyond the frame. -/
opaque gradient : Bool → List (Option Nat) → Nat

/-- Green interpolated along one direction (R318): horizontal or not, from the greens of a 5 × 5 window; none elsewhere. -/
opaque greenAlong : Bool → List (Option Nat) → BitVec 16

/-- A colour difference with green interpolated from those of a 5 × 5 window (R318); none where the window holds none. -/
opaque diffAt : List (Option Int) → Int

/-- The fixed 3 × 3 luma filter of the presence port (R331): the pattern position of the pixel and its window, row by row. -/
opaque presFilter : Nat → List (Option Nat) → BitVec 16

end Sys2Proof.Config
end

