-- ==== Sys2Proof/Machine/State.lean ====
section
/-! DEFINITION. The state of the RY3 as plain data, and its value right after power-on reset. Every field's docstring gives
its width and the rule of spec/ that names it. A field's default value is its reset value where the field exists at reset; a record
that a table or an option holds exists only once a command has made it. -/

namespace Sys2Proof.Machine

/-- Why the block stops: only for events that no RY3 can see. -/
inductive Fault where
  /-- an event row names a unit the part does not have (a 14th camera port, a 35th panel): raised by the event rows; safe, since the spec gives the part no such unit -/
  | noSuchUnit
  deriving DecidableEq, Repr

/-- Why a command has no meaning in this model. -/
inductive Refusal where
  /-- the command's meaning is not written yet: raised by an arm of exec; safe -/
  | notModelled (mnemonic : String)
  deriving DecidableEq, Repr

/-- Status codes of R79. -/
inductive Code where
  | ok | okNotes | eOpcode | eLength | eReserved | eVersion | eRange | eAlign | eHandle | eCombination
  | eState | eOrder | eBusy | eNomem | eNoslot | eQuota | eDenied | eSignature | eRollback | eMuted
  | eTimeout | eLowerTier | eTransient | eCheck | eRetired | eTornDown | eInternal
  deriving DecidableEq, Repr, Inhabited

/-- One 32-byte status reply (R77), without its PHASE bit. -/
structure Reply where
  /-- status code, 8 bits; 04 R77 -/
  code : Code := .ok
  /-- opcode, 16 bits; 04 R77 -/
  opcode : Nat := 0
  /-- tag, 32 bits; 04 R77 -/
  tag : Nat := 0
  /-- working time of completion, 64 bits; 04 R77 -/
  time : Nat := 0
  /-- note bits, 8 bits; 04 R77 -/
  notes : Nat := 0
  /-- result word 0, 32 bits; 04 R77 -/
  w0 : Nat := 0
  /-- result word 1, 32 bits; 04 R77 -/
  w1 : Nat := 0
  /-- result word 2, 32 bits; 04 R77 -/
  w2 : Nat := 0
  deriving DecidableEq, Repr, Inhabited

/-- What leaves the device, in the order in which it leaves. -/
inductive Out where
  /-- a status entry at free-running index `index` of a context's status ring, with its PHASE bit (R84) -/
  | status (ctx index : Nat) (phase : Bool) (r : Reply)
  /-- bytes written to host memory at a key of Store.host (R65) -/
  | hostWrite (key : Nat) (data : List Byte)
  /-- one MSI-X message (R64) -/
  | msix (vector : Nat)
  /-- a read completion of BAR0 or BAR2: its bytes and whether it is poisoned (R57, R58, R60) -/
  | completion (data : List Byte) (poisoned : Bool)
  /-- a frame on an Ethernet port: service (0 Stolp, 1 Gweug, 2 socket, 3 gPTP, 4 ARP/ND/ICMP), peer address, UDP port, bytes, IEEE 802.1Q tag
  (R354), and the UDP checksum of a socket's datagram (R357) -/
  | dgram (service port : Nat) (ip : List Byte) (udp : Nat) (data : List Byte) (tag : Option Nat := none) (sum : Nat := 0)
  /-- an NVMe command of the firmware on the root port: object, direction (0 read, 1 write, 2 deallocate), extents (R305, R312) -/
  | nvme (object dir : Nat) (extents : List Nat)
  /-- one 10 ms block of samples played on an I2S port (R348) -/
  | played (port : Nat) (data : List Byte)
  /-- one ATS invalidation completed (R65) -/
  | atsDone (ctx page : Nat)
  deriving DecidableEq, Repr

/-! ### Host attachment (03) -/

/-- The hold of host-memory requests after a link reset (R52). -/
inductive Hold where
  | none
  /-- after a link reset: whether RESUME was written -/
  | linkReset (resumed : Bool)
  deriving DecidableEq, Repr, Inhabited

/-- The global registers that hold a value of their own (R66). GLB_ID, GLB_STATUS, GLB_LINK and GLB_TIME_LO are read from
the part, the link and the machine. -/
structure Glb where
  /-- GLB_FWVER, 32 bits; 03 R66; reset 0 -/
  fwver : Word := 0
  /-- GLB_STATUS.READY, 1 bit; 03 R68; reset 0 -/
  ready : Bool := false
  /-- GLB_EVENT, 32 bits W1C; 03 R70; reset 0 -/
  event : Word := 0
  /-- GLB_EVENT_EN, 32 bits; 03 R66; reset 0 -/
  eventEn : Word := 0
  /-- GLB_ERR, 32 bits W1C; 03 R71; reset 0 -/
  err : Word := 0
  /-- GLB_ERR_EN, 32 bits; 03 R66; reset 0 -/
  errEn : Word := 0
  /-- the ten 16-bit counters of GLB_EVCNT0-4, by event bit; 03 R66 R73; reset 0 -/
  evCnt : Tbl (BitVec 16) := []
  /-- the eight 16-bit counters of GLB_ERRCNT0-3, by error bit; 03 R66 R73; reset 0 -/
  errCnt : Tbl (BitVec 16) := []
  /-- GLB_TIME_HI, 32 bits; 03 R66; reset 0 -/
  timeHi : Word := 0
  /-- GLB_WIN_BASE_LO, 32 bits; 03 R66; reset 0 -/
  winLo : Word := 0
  /-- GLB_WIN_BASE_HI, 32 bits; 03 R66; reset 0 -/
  winHi : Word := 0
  /-- GLB_MQ_BASE_LO, 32 bits; 03 R66; reset 0 -/
  mqLo : Word := 0
  /-- GLB_MQ_BASE_HI, 32 bits; 03 R66; reset 0 -/
  mqHi : Word := 0
  /-- GLB_MS_BASE_LO, 32 bits; 03 R66; reset 0 -/
  msLo : Word := 0
  /-- GLB_MS_BASE_HI, 32 bits; 03 R66; reset 0 -/
  msHi : Word := 0
  /-- GLB_MRING_CFG, 32 bits; 03 R72; reset 0 -/
  mring : Word := 0
  /-- GLB_SCRATCH, 32 bits; 03 R66; reset 0 -/
  scratch : Word := 0
  deriving DecidableEq, Repr, Inhabited

/-- The PCIe endpoint, the root port and the MSI-X structures. -/
structure Link where
  /-- PE_PERST0_N asserted, 1 bit (input pin); 03 R51; reset DESIGN CHOICE true (log 4) -/
  perst0 : Bool := true
  /-- endpoint link up, 1 bit; 03 R69; reset 0 (speed code 0: down) -/
  up : Bool := false
  /-- GLB_LINK.EP_SPEED, 3 bits; 03 R69; reset 0 -/
  speed : Nat := 0
  /-- GLB_LINK.EP_WIDTH, 4 bits; 03 R69; reset 0 -/
  width : Nat := 0
  /-- Bus Master Enable, 1 bit; 03 R52 R481; reset 0 -/
  bme : Bool := false
  /-- Memory Space Enable, 1 bit; 03 R481; reset 0 -/
  mse : Bool := false
  /-- PASID capability enabled, 1 bit; 03 R65; reset 0 (configuration space reset) -/
  pasid : Bool := false
  /-- ATS enabled, 1 bit; 03 R65; reset 0 (configuration space reset) -/
  ats : Bool := false
  /-- function in D3hot, 1 bit; 03 R53; reset 0 -/
  d3hot : Bool := false
  /-- BAR0 as assigned, 64 bits: bits 24:0 are 0; 03 R51 R56; reset 0 -/
  bar0 : Nat := 0
  /-- BAR2 as assigned, 64 bits: bits 29:0 are 0; 03 R51 R56; reset 0 -/
  bar2 : Nat := 0
  /-- the hold of host-memory requests after a link reset; 03 R52 (GLB_STATUS.HELD); reset none -/
  hold : Hold := .none
  /-- the hold of host-memory requests of D3hot, 1 bit; 03 R53 (GLB_STATUS.HELD); reset 0 -/
  d3hold : Bool := false
  /-- AER uncorrectable error status, 32 bits; 03 R50; reset 0 -/
  aer : Nat := 0
  /-- working time at which the hold in force began, 64 bits; 03 R482; reset 0 -/
  heldFrom : Nat := 0
  /-- what is kept while the hold is in force, oldest first; 03 R52 R482; reset empty -/
  held : List Out := []
  /-- working time at which the link went down, 64 bits; 16 R414; reset 0 (POR) -/
  downSince : Nat := 0
  /-- MSI-X function mask, 1 bit; 03 R64; reset 0 -/
  funcMask : Bool := false
  /-- MSI-X table words that differ from reset, by word index (4 per entry); 03 R57; reset: vector control 1, others 0 (R481) -/
  msixTable : Tbl Word := []
  /-- MSI-X pending bits that are set, 1,024 bits; 03 R57 R64; reset none -/
  msixPending : List Nat := []
  /-- link mode X4X4, 1 bit; 03 R49; reset X8 (no valid record) -/
  x4x4 : Bool := false
  /-- root-port link up, 1 bit; 03 R69; reset 0 -/
  rpUp : Bool := false
  /-- GLB_LINK.RP_SPEED, 3 bits; 03 R69; reset 0 -/
  rpSpeed : Nat := 0
  /-- GLB_LINK.RP_WIDTH, 4 bits; 03 R69; reset 0 -/
  rpWidth : Nat := 0
  /-- PE_PERST1_N driven low, 1 bit; 03 R54; reset driven low -/
  perst1Low : Bool := true
  /-- PE_WAKE_N driven low by the RY3, 1 bit; 16 R419; reset released -/
  wakeDriven : Bool := false
  deriving DecidableEq, Repr, Inhabited

/-! ### Contexts and the command protocol (04, 05) -/

/-- A submission queue: its ring and its counts (R82, R83, R121). -/
structure Queue where
  /-- level 0–3; 05 R121 -/
  level : Nat := 1
  /-- ring base in host memory, 64 bits; 05 R136 -/
  base : Nat := 0
  /-- SQ_LOG2; 05 R136 -/
  log2 : Nat := 8
  /-- DB_SQ: last accepted tail count, 32 bits; 03 R61; reset 0 (R83) -/
  tail : Word := 0
  /-- units fetched, 32-bit free-running; 04 R82; reset 0 (R83) -/
  fetched : Word := 0
  /-- in the middle of a chain that breaks the rules: its next packets are rejected; 04 R91; reset false -/
  badChain : Bool := false
  deriving DecidableEq, Repr, Inhabited

/-- A status ring (R84, R85). -/
structure Ring where
  /-- host address, 64 bits; 04 R84 R85; reset 0 -/
  base : Nat := 0
  /-- base-2 logarithm of its entries, 7–15; 04 R84 R85; reset 7 DESIGN CHOICE (log 5) -/
  log2 : Nat := 7
  /-- entries written, 32-bit free-running; 04 R84; reset 0 (R83) -/
  written : Word := 0
  /-- DB_SR: last accepted head count, 32 bits; 03 R61; reset 0 (R83) -/
  head : Word := 0
  deriving DecidableEq, Repr, Inhabited

/-- The quota record of R116. -/
structure Quota where
  /-- DRAM bytes, 64 bits; 05 R116 -/
  memory : Nat := 0
  /-- state store bytes, 32 bits; 05 R116 -/
  stateStore : Nat := 0
  /-- key-value pages, 32 bits; 05 R116 -/
  pages : Nat := 0
  /-- idle streams, 32 bits; 05 R116 -/
  idleStreams : Nat := 0
  /-- active streams, 32 bits; 05 R116 -/
  activeStreams : Nat := 0
  /-- panels, 8 bits; 05 R116 -/
  panels : Nat := 0
  /-- gangs, 8 bits; 05 R116 -/
  gangs : Nat := 0
  /-- DMA channels, 8 bits; 05 R116 -/
  dma : Nat := 1
  /-- priority ceiling, 2 bits; 05 R116 -/
  ceiling : Nat := 0
  /-- may use shared gangs, 1 bit; 05 R116 -/
  shared : Bool := false
  /-- may use Kite, 1 bit; 05 R116 -/
  kite : Bool := false
  /-- weight, 8 bits; 05 R116 -/
  weight : Nat := 1
  /-- cap of a P0 and P1 window in percent, 8 bits; 05 R116 -/
  cap : Nat := 1
  /-- largest leg budget in µs, 32 bits; 05 R116 -/
  legBudget : Nat := 1
  /-- plans, 16 bits; 05 R116 -/
  plans : Nat := 1
  deriving DecidableEq, Repr, Inhabited

/-- Context states of R108; the codes are those of CTX_QUERY (R136). -/
inductive CtxState where
  | closed | opened | sealed | tornDown | closing
  deriving DecidableEq, Repr, Inhabited

/-- One record of a reject log (R102): the 16 header bytes, code, queue, offset, time. -/
structure RejRec where
  /-- the 16 header bytes; 04 R102 -/
  header : List Byte := []
  /-- status code, 8 bits; 04 R102 -/
  code : Code := .ok
  /-- queue, 8 the network queue, 8 bits; 04 R102 -/
  queue : Nat := 0
  /-- offset of the failing field, 16 bits; 04 R102 -/
  off : Nat := 0
  /-- working time, 64 bits; 04 R102 -/
  time : Nat := 0
  deriving DecidableEq, Repr, Inhabited

/-- A completed packet in the tag record (R89, R98): its tag, its reply, its bytes, its transport queue and session. -/
structure TagRec where
  /-- tag, 32 bits; 04 R89 R98 -/
  tag : Nat := 0
  /-- its reply; 04 R89 R98 -/
  reply : Reply := {}
  /-- the packet's bytes; 04 R89 R98 -/
  bytes : List Byte := []
  /-- its queue, 8 the network queue; 04 R89 R98 -/
  queue : Nat := 0
  /-- its session, 32 bits; 04 R89 R98 -/
  session : Nat := 0
  /-- its fetch order, device-wide; 04 R89 -/
  order : Nat := 0
  /-- it only repeated a tag in flight: it counts as a completed packet and names nothing; 04 R90 -/
  repeated : Bool := false
  deriving DecidableEq, Repr, Inhabited

/-- A level 3 leaf (R113): the permissions, whether the page is host memory, and FRAME (address bits from 16 up). -/
structure Leaf where
  /-- READ, 1 bit; 05 R113 -/
  read : Bool := false
  /-- WRITE, 1 bit; 05 R113 -/
  write : Bool := false
  /-- HOST, 1 bit; 05 R113 -/
  host : Bool := false
  /-- FRAME, address bits 63:16; 05 R113 -/
  frame : Nat := 0
  deriving DecidableEq, Repr, Inhabited

/-- A CTX_CLOSE that is being carried out (R134): its packet and the graceful limit (working time). -/
structure Closing where
  /-- the CTX_CLOSE packet; 05 R134 -/
  pkt : Pkt
  /-- end of its graceful limit, working time; 05 R134 -/
  graceEnd : Option Nat := none
  deriving DecidableEq, Repr

/-- One context: management (handle 0) or tenant (1–512). -/
structure Ctx where
  /-- state code; 05 R108; reset Closed (handle 0: open, its ring enabled by GLB_MRING_CFG) -/
  state : CtxState := .closed
  /-- SEALED as it was before a teardown, 1 bit; 05 R108; reset 0 -/
  wasSealed : Bool := false
  /-- PASID, 20 bits; 03 R65; reset 0 -/
  pasid : Nat := 0
  /-- quota record; 05 R116; reset minimum of each range (set by CTX_OPEN) -/
  quota : Quota := {}
  /-- level of the network queue, 2 bits; 05 R110; reset 0 -/
  netLevel : Nat := 0
  /-- queues that exist, by number 0–7; 05 R122; reset none -/
  queues : Tbl Queue := []
  /-- status ring; 04 R84; reset counts 0 -/
  ring : Ring := {}
  /-- DB_REJECT, 16 bits; 03 R61; reset 0 -/
  dbReject : BitVec 16 := 0
  /-- Ripcord cause, 8 bits; 05 R131 R136; reset 0 -/
  cause : Nat := 0
  /-- later causes counted; 05 R133; reset 0 -/
  causesMore : Nat := 0
  /-- runs pre-empted, 16 bits wrapping; 05 R136; reset 0 -/
  preempted : BitVec 16 := 0
  /-- measurement register m, 512 bits; 05 R119; reset 0 at CTX_OPEN -/
  measure : BitVec 512 := 0
  /-- extensions of m; 05 R119 R136; reset 0 -/
  extensions : Nat := 0
  /-- packets accepted, 32 bits wrapping; 04 R100; reset 0 -/
  accepted : Word := 0
  /-- packets rejected, 32 bits wrapping; 04 R100; reset 0 -/
  rejected : Word := 0
  /-- dependency waits that ended with E_ORDER, 32 bits; 04 R100; reset 0 -/
  depOrder : Word := 0
  /-- fetch pauses, 32 bits; 04 R100; reset 0 -/
  pauses : Word := 0
  /-- discarded datagrams and hellos (handle 0 only), 32 bits; 04 R94 R96 R100; reset 0 -/
  discards : Word := 0
  /-- reject log, oldest first, at most 64; 04 R102; reset empty -/
  rejLog : List RejRec := []
  /-- reject records lost since the last read, 32 bits; 04 R102; reset 0 -/
  rejLost : Nat := 0
  /-- completed tags, newest first, at most 1,024; 04 R89; reset empty -/
  tags : List TagRec := []
  /-- working times of leg overruns in the last 10 s; 15 R390, 05 R131; reset empty -/
  overruns : List Nat := []
  /-- translation: virtual page (address bits 47:16) to leaf; 05 R111 R113; reset empty -/
  pages : Tbl Leaf := []
  /-- recipient key of the peer record, empty meaning the own identity key; 10 R274 R281; reset empty -/
  peerTo : List Byte := []
  /-- accepted sender key of the peer record, empty meaning the own identity key; 10 R274 R281; reset empty -/
  peerFrom : List Byte := []
  /-- random value of the cold-tier key chosen at CTX_OPEN; 17 R444; reset none -/
  coldKey : Option Nat := none
  /-- packets of a chain on its network queue that wait for the rest of the chain, oldest first; 04 R91; reset empty -/
  netChain : List Pkt := []
  /-- in the middle of a chain of more than 16 packets on its network queue; 04 R91; reset false -/
  netBad : Bool := false
  /-- positions in that chain of the members whose tag another packet holds; 04 R91 R98; reset none -/
  netTaken : List Nat := []
  /-- the CTX_CLOSE in progress; 05 R134; reset none -/
  closing : Option Closing := none
  /-- frames scrubbed so far by its teardown or closing; 05 R132; reset 0 -/
  frames : Nat := 0
  deriving DecidableEq, Repr, Inhabited

/-- A packet in flight (R85): from fetch until its status entry is written. -/
structure Flight where
  /-- the packet; 04 R85 -/
  pkt : Pkt
  /-- fetch order, device-wide -/
  order : Nat := 0
  /-- order of the packet before it in its chain, for members after the first (R91) -/
  chainPrev : Option Nat := none
  /-- dispatched (R87) -/
  dispatched : Bool := false
  /-- holds a dispatch slot (R483) -/
  slot : Bool := false
  /-- working time since which its dependency names no fetched packet (R89) -/
  depSince : Option Nat := none
  /-- handed on: its work runs elsewhere or waits (R483) -/
  handed : Bool := false
  /-- it waits at a held host-memory request (R482) -/
  hostWait : Bool := false
  /-- recipient and accepted sender of parcels as its context had them when it was dispatched; 10 R281; reset none -/
  peers : Option (List Byte × List Byte) := none
  deriving DecidableEq, Repr

/-- The command pair's own state. -/
structure Cmd where
  /-- packets in flight, in fetch order; 04 R85; reset empty -/
  flights : List Flight := []
  /-- next fetch order number; reset 0 -/
  nextOrder : Nat := 0
  /-- fetching stopped by DEV_RESET step 1; 04 R103; reset false -/
  stopped : Bool := false
  /-- the DEV_RESET in progress: kind 1, end of its graceful limit; 04 R103; reset none -/
  devReset : Option (Bool × Nat) := none
  /-- chain members failed: fetch orders whose successors end with E_ORDER; 04 R91; reset empty -/
  chainFailed : List Nat := []
  /-- a read of units of the management ring failed, and no DB_SQ0 write came since; 03 R65; reset false -/
  ringFailed : Bool := false
  deriving DecidableEq, Repr, Inhabited

/-- An enrolled client key (R104, R105). -/
structure ClientKey where
  /-- key ID, 64 bits (R96) -/
  keyId : Nat := 0
  /-- public key, 133 bytes; 04 R104 R105 -/
  point : List Byte := []
  /-- true: tenant role -/
  tenant : Bool := false
  /-- contexts a tenant key may name, at most 16; 04 R104 R105 -/
  ctxs : List Nat := []
  /-- installed by the configuration record -/
  fromRecord : Bool := false
  deriving DecidableEq, Repr, Inhabited

/-- An unfinished handshake (R95, R96). -/
structure Handshake where
  /-- client key ID, 64 bits; 04 R95 R96 -/
  keyId : Nat := 0
  /-- client nonce, 32 bytes; 04 R95 R96 -/
  nonce : List Byte := []
  /-- the hello, 192 bytes; 04 R95 R96 -/
  hello : List Byte := []
  /-- the device's answer; 04 R95 R96 -/
  reply : List Byte := []
  /-- which ephemeral key and nonce were drawn -/
  draw : Nat := 0
  /-- Ethernet port, 1 bit; 04 R95 R96 -/
  port : Nat := 0
  /-- peer address, 16 bytes; 04 R95 R96 -/
  ip : List Byte := []
  /-- peer UDP port, 16 bits; 04 R95 R96 -/
  udp : Nat := 0
  /-- working time of the hello; 04 R95 R96 -/
  started : Nat := 0
  deriving DecidableEq, Repr, Inhabited

/-- An open Stolp session (R92–R99). -/
structure Session where
  /-- client key ID, 64 bits; 04 R92 R97 R99 -/
  keyId : Nat := 0
  /-- Ethernet port, 1 bit; 04 R92 R97 R99 -/
  port : Nat := 0
  /-- peer address, 16 bytes; 04 R92 R97 R99 -/
  ip : List Byte := []
  /-- peer UDP port, 16 bits; 04 R92 R97 R99 -/
  udp : Nat := 0
  /-- the 72 bytes of the key schedule: keys and salts of both directions; 04 R95 -/
  secret : List Byte := []
  /-- newest received counter and the counters seen in its window of 1,024 (R94) -/
  rxMax : Nat := 0
  /-- counters seen in the window; 04 R92 R97 R99 -/
  rxSeen : List Nat := []
  /-- next counter of the RY3's datagrams -/
  tx : Nat := 0
  /-- packets accepted, 32 bits; 04 R92 R97 R99 -/
  accepted : Word := 0
  /-- packets answered, 32 bits; 04 R92 R97 R99 -/
  answered : Word := 0
  /-- working time of the last authenticated datagram -/
  lastRx : Nat := 0
  /-- idle timeout in force for this session, s (R106) -/
  idle : Nat := 60
  /-- batching delay in force for this session, µs (R106) -/
  batchUs : Nat := 100
  /-- replies waiting for the batching delay (R99) -/
  batch : List Reply := []
  deriving DecidableEq, Repr, Inhabited

/-- The Stolp Ethernet transport. -/
structure Stolp where
  /-- Stolp UDP port, 16 bits; 04 R106; reset 47,008 -/
  udpPort : Nat := 47008
  /-- enable bits of ETH0, ETH1; 04 R106; reset 0b00 (no record enables the service) -/
  enable : Nat := 0
  /-- session limit, 8 bits; 04 R106; reset 16 -/
  limit : Nat := 16
  /-- idle timeout, s; 04 R106; reset 60 -/
  idle : Nat := 60
  /-- batching delay, µs; 04 R106; reset 100 -/
  batchUs : Nat := 100
  /-- client keys, at most 32; 04 R104; reset none (no valid record) -/
  keys : List ClientKey := []
  /-- working times of the hellos of the last second; 04 R96; reset empty -/
  hellos : List Nat := []
  /-- pending handshakes, by session identifier; 04 R96; reset empty -/
  pending : Tbl Handshake := []
  /-- open sessions, by identifier; 04 R92; reset empty -/
  sessions : Tbl Session := []
  /-- next session identifier, 32 bits; 04 R92; reset 1 -/
  nextId : Nat := 1
  deriving DecidableEq, Repr, Inhabited

/-! ### The cascade (02) -/

/-- A binding of CASC_BIND (R48). -/
structure CascBind where
  /-- context, 10 bits; 02 R48 -/
  ctx : Nat := 0
  /-- plan handle, 32 bits; 02 R48 -/
  plan : Nat := 0
  /-- gang, 5 bits; 02 R48 -/
  gang : Nat := 0
  /-- priority level, 2 bits; 02 R48 -/
  level : Nat := 0
  /-- creation number of the gang that it names, by which a gang created anew under that handle is told apart; 02 R40 -/
  made : Nat := 0
  deriving DecidableEq, Repr, Inhabited

/-- The Lift record of R35. -/
structure LiftRec where
  /-- source tier, 8 bits; 02 R35 -/
  source : Nat := 0
  /-- target tier, 8 bits; 02 R35 -/
  target : Nat := 1
  /-- reason, 8 bits; 02 R35 -/
  reason : Nat := 0
  /-- flags, 8 bits; 02 R35 -/
  flags : Nat := 0
  /-- score, 16 bits; 02 R35 -/
  score : Nat := 0
  /-- threshold, 16 bits; 02 R35 -/
  threshold : Nat := 0
  /-- working time, 64 bits; 02 R35 -/
  time : Nat := 0
  /-- trigger sample, from which R41 and R43 judge -/
  trigger : Nat := 0
  /-- rewind sample index, 64 bits; 02 R35 -/
  rewind : Nat := 0
  /-- sequence number, 32 bits; 02 R35 -/
  seq : Nat := 0
  /-- presence frame, 32 bits; 02 R35 -/
  frame : Nat := 0
  /-- aux word, 32 bits; 02 R35 -/
  aux : Nat := 0
  /-- merged Lifts, 16 bits; 02 R35 -/
  merged : Nat := 0
  /-- the binding that serves it, taken when it was raised (R48) -/
  bind : Option CascBind := none
  deriving DecidableEq, Repr, Inhabited

/-- The Ballast record of R42. -/
structure BallastRec where
  /-- source tier, 8 bits; 02 R42 -/
  src : Nat := 1
  /-- destination tier, 8 bits; 02 R42 -/
  dst : Nat := 0
  /-- cause, 8 bits; 02 R42 -/
  cause : Nat := 1
  /-- sequence number of the Lift released, 32 bits; 02 R42 -/
  lift : Nat := 0
  /-- consumed sample index, 64 bits; 02 R42 -/
  consumed : Nat := 0
  /-- working time, 64 bits; 02 R42 -/
  time : Nat := 0
  deriving DecidableEq, Repr, Inhabited

/-- The settings of one source and reason (R47). -/
structure SourceCfg where
  /-- ENABLE, 1 bit; 02 R47; reset 0 -/
  enable : Bool := false
  /-- UPDRAFT, 1 bit; 02 R47; reset 0 -/
  updraft : Bool := false
  /-- reach, 8 bits; 02 R47; reset 1 -/
  reach : Nat := 1
  /-- aux word, 32 bits; 02 R47; reset 0 -/
  aux : Nat := 0
  /-- Lift threshold, 16 bits; 02 R47; reset 65,535 -/
  lift : Nat := 65535
  /-- Updraft threshold, 16 bits; 02 R47; reset 0 -/
  pre : Nat := 0
  /-- Updraft window, ms; 02 R38; reset 400 -/
  window : Nat := 400
  /-- pre-roll, ms; 02 R36; reset 200 -/
  preroll : Nat := 200
  deriving DecidableEq, Repr, Inhabited

/-- Tier states of R37; the codes are 0–7 in this order. -/
inductive TierState where
  | off | warming | warm | arming | active | idle | falling | sinking
  deriving DecidableEq, Repr, Inhabited

/-- One tier: Kite (key 0) or a cascade gang (key 1–16). -/
structure Tier where
  /-- tier state; 02 R37; reset Off -/
  state : TierState := .off
  /-- working time at which it entered that state; 02 R38 R44; reset 0 -/
  since : Nat := 0
  /-- the Lift that raised it or waits for warm-up; 02 R37; reset none -/
  lift : Option LiftRec := none
  /-- Lift records queued for its plan, at most 8; 02 R41; reset empty -/
  queue : List LiftRec := []
  /-- queued Lift records that its plan has received, oldest first; 02 R37 R41; reset empty -/
  taken : List LiftRec := []
  /-- plan whose first leg's weights it has prefetched or is prefetching; 02 R37 R44; reset none -/
  prefetch : Option Nat := none
  /-- Lifts held while Falling or Sinking, in order of arrival; 02 R39; reset none -/
  held : List LiftRec := []
  /-- working time of the end of its Updraft window; 02 R38; reset none -/
  windowEnd : Option Nat := none
  /-- which source holds the window; 02 R38; reset 0 -/
  windowBy : Nat := 0
  /-- length of that window, ns; 02 R38; reset 0 -/
  windowNs : Nat := 0
  /-- working time of the first Updraft or cold Lift of this warm-up; 02 R44; reset none -/
  warmFrom : Option Nat := none
  /-- run of the bound plan while Arming, Active or Idle; 07 R191; reset none -/
  run : Option Nat := none
  /-- ignored events, 32 bits; 02 R37; reset 0 -/
  ignored : Nat := 0
  /-- next presence frame to supply; 02 R34; reset 0 -/
  nextFrame : Nat := 0
  /-- its run has ended by itself: whether with OK, and the consumed index; its Ballast is due; 07 R191; reset none -/
  ended : Option (Bool × Nat) := none
  deriving DecidableEq, Repr, Inhabited

/-- The cascade's settings, tiers and logs. -/
structure Casc where
  /-- settings by source × 8 + reason; 02 R47; reset DESIGN CHOICE disabled, thresholds as in SourceCfg (log 5) -/
  sources : Tbl SourceCfg := []
  /-- bindings by tier × 8 + reason; 02 R48; reset none -/
  binds : Tbl CascBind := []
  /-- Kite's cascade partition: by plan handle, the bytes of the plan's objects of kinds 1 to 3, by object number; 07 R200; reset empty -/
  partition : Tbl (Tbl (List Byte)) := []
  /-- tiers by key; 02 R37; reset all Off -/
  tiers : Tbl Tier := []
  /-- refractory reasons by source × 8 + reason; 02 R33 07 R201; reset none -/
  refractory : List Nat := []
  /-- Lift number issued last, 32 bits; 02 R35; reset 0 -/
  liftSeq : Nat := 0
  /-- Updraft count, 32 bits reported; 02 R46; reset 0 -/
  updrafts : Nat := 0
  /-- ignored events; 02 R46; reset 0 -/
  ignored : Nat := 0
  /-- suppressed Lifts; 02 R43; reset 0 -/
  suppressed : Nat := 0
  /-- Lift overflows, 16 bits; 02 R41; reset 0 -/
  overflow : Nat := 0
  /-- last 64 Lift records, oldest first; 02 R46; reset empty -/
  liftLog : List LiftRec := []
  /-- last 64 Ballast records, oldest first; 02 R46; reset empty -/
  ballastLog : List BallastRec := []
  /-- Kite idle hold, ms; 02 R43; reset 1,500 -/
  kiteHold : Nat := 1500
  /-- gang idle hold, ms; 02 R43; reset 5,000 -/
  gangHold : Nat := 5000
  /-- Sample hold, ms; 02 R25; reset 2,000 -/
  sampleHold : Nat := 2000
  /-- HQ settle time, ms; 02 R30; reset 12 -/
  hqSettle : Nat := 12
  /-- notify on Lift, 1 bit; 02 R46; reset DESIGN CHOICE 0 (log 5) -/
  notifyLift : Bool := false
  /-- notify on Ballast, 1 bit; 02 R46; reset DESIGN CHOICE 0 (log 5) -/
  notifyBallast : Bool := false
  /-- Sample enabled, 1 bit; 02 R46; reset DESIGN CHOICE 0 (log 5) -/
  sampleEn : Bool := false
  /-- real-time clock alarm, working time; 02 R46; reset none -/
  alarm : Option Nat := none
  /-- alarm period, ns; 02 R46; reset 0 -/
  period : Nat := 0
  /-- consumed index below which detector Lifts are suppressed; 02 R43; reset none -/
  consumed : Option Nat := none
  /-- working time since which the energy has stayed below the gate in Moor; 02 R25; reset 0 -/
  gateFrom : Nat := 0
  /-- completion of the newest Lift by its source (0 Mooring, 1 Kite, 3 host): the record's flags, BIND_FAIL among them, and the
  notes; 02 R40; reset none -/
  answers : Tbl (Nat × Nat) := []
  deriving DecidableEq, Repr, Inhabited

/-- One Reel block: its number, first-sample time, source, MUTED and its 1,280 sample bytes (R27, R28). -/
structure ReelBlock where
  /-- block number, 64 bits; 02 R27 R28 -/
  num : Nat := 0
  /-- working time of its first sample, 64 bits; 02 R27 R28 -/
  time : Nat := 0
  /-- source, 8 bits; 02 R27 R28 -/
  source : Nat := 0
  /-- MUTED, 1 bit; 02 R27 R28 -/
  muted : Bool := false
  /-- sample bytes, 1,280; 02 R27 R28 -/
  data : List Byte := []
  deriving DecidableEq, Repr, Inhabited

/-- A Reel reader: the next block number it reads and its overrun counter (R31). -/
structure ReelReader where
  /-- next block number, 64 bits; 02 R31 -/
  next : Nat := 0
  /-- overrun count, 32 bits; 02 R31 -/
  overruns : Nat := 0
  deriving DecidableEq, Repr, Inhabited

/-- A CASC_READ_REEL that is copying (R31): packet, destination, first block, blocks, copied. -/
structure ReelCopy where
  /-- the CASC_READ_REEL packet; 02 R31 -/
  pkt : Pkt
  /-- destination, virtual address; 02 R31 -/
  dest : Nat := 0
  /-- first block number; 02 R31 -/
  first : Nat := 0
  /-- blocks to copy; 02 R31 -/
  count : Nat := 0
  deriving DecidableEq, Repr

/-- A presence frame: its number, its 307,200 bytes of luma and its seal (R34, R331). -/
structure PresFrame where
  /-- frame number, 32 bits; 02 R34, 12 R331 -/
  number : Nat := 0
  /-- luma, 307,200 bytes; 02 R34, 12 R331 -/
  luma : List Byte := []
  /-- its seal; 02 R34, 12 R331 -/
  sealBytes : List Byte := []
  deriving DecidableEq, Repr, Inhabited

/-- The Reel and Mooring's presence frames. -/
structure Reel where
  /-- sample index of the block being written, 64 bits; 02 R28; reset 0 -/
  index : Nat := 0
  /-- newest complete blocks, oldest first, 1,000 kept; 02 R27; reset empty -/
  blocks : List ReelBlock := []
  /-- source of the block being written, 0–2; 02 R28; reset DESIGN CHOICE 0, the low-power path (log 6) -/
  source : Nat := 0
  /-- new sources and the sample indices of their handover boundaries, in that order; 02 R29 R30; reset none -/
  handover : List (Nat × Nat) := []
  /-- sample index up to which blocks stay muted after a release; 13 R350; reset none -/
  mutedTo : Option Nat := none
  /-- the Reel is stopped (Dormant) or restarts at this sample index; 16 R416; reset running -/
  stopped : Bool := false
  /-- sample index at which the Reel starts again; 02 R30; reset none -/
  restart : Option Nat := none
  /-- readers by tier key 0–16, 17 for CASC_READ_REEL; 02 R31; reset none open -/
  readers : Tbl ReelReader := []
  /-- the command copy in progress; 02 R31; reset none -/
  copy : Option ReelCopy := none
  /-- Reel overruns, 16 bits; 02 R46; reset 0 -/
  overruns : Nat := 0
  /-- the newest two presence frames, oldest first; 02 R34; reset empty -/
  frames : List PresFrame := []
  /-- presence frame number issued last, 64 bits; 12 R325 R331; reset 0 -/
  frameNo : Nat := 0
  deriving DecidableEq, Repr, Inhabited

/-! ### Panels, gangs, plans and runs (05, 07) -/

/-- Panel states of R168; the codes are those of PANEL_QUERY. -/
inductive PanelState where
  | spare | free | inGang | retired
  deriving DecidableEq, Repr, Inhabited

/-- One physical panel. -/
structure Panel where
  /-- state, 2 bits; 07 R168; reset spare for panels 8 and 17, otherwise free -/
  state : PanelState := .free
  /-- gang it belongs to, 0 none -/
  gang : Nat := 0
  /-- panel it replaces (R207) -/
  replaces : Option Nat := none
  /-- panel number whose position in gang order it holds, none its own (R176, R199) -/
  place : Option Nat := none
  /-- powered (R168) -/
  powered : Bool := false
  /-- its scratchpad is being scrubbed before its next leg (R171) -/
  scrub : Bool := false
  /-- junction temperature, 0.25 °C units (R426) -/
  temp : Int := 0
  deriving DecidableEq, Repr, Inhabited

/-- How far the committed leg of a gang has come. -/
inductive LegPhase where
  /-- committed, prefetch incomplete (R196) -/
  | stalled
  | executing
  /-- a self-test slice holds the gang at the boundary (R401) -/
  | held
  deriving DecidableEq, Repr, Inhabited

/-- The committed leg of a gang. -/
structure Cur where
  /-- the run; 07 R189 R196 -/
  run : Nat := 0
  /-- leg number, 16 bits; 07 R189 R196 -/
  leg : Nat := 0
  /-- level at which it was committed (R126) -/
  level : Nat := 0
  /-- stalled, executing or held; 07 R189 R196 -/
  phase : LegPhase := .stalled
  /-- committed at, executing since (working time) -/
  commitAt : Nat := 0
  /-- start of the attempt, working time; 07 R189 R196 -/
  startAt : Nat := 0
  /-- attempt 0–2 and the disagreements of the earlier attempts (R394, R395) -/
  attempt : Nat := 0
  /-- disagreements of the attempts before; 07 R189 R196 -/
  earlier : List (List LegErr) := []
  /-- its prefetch was incomplete when the previous leg on the gang ended (R196) -/
  missed : Bool := false
  /-- the action word was nonzero when the leg started (R195) -/
  branch : Bool := false
  /-- number of the last QSTAT_ARM before the leg started: the model's own; 06 R162 -/
  arms : Nat := 0
  /-- key-value pages that the leg holds page locks on; 05 R129, 09 R243 -/
  locks : List Nat := []
  /-- number on which the open choices of the attempt depend, drawn when it started: the model's own; 06 R158 -/
  draw : Nat := 0
  /-- the action word of its BRANCH, if it has one, was read when it started: false while host-memory requests held that read; 03 R482, 07 R195 -/
  sampled : Bool := true
  deriving DecidableEq, Repr, Inhabited

/-- A gang: handles 1–16, and 0 for Kite (R123, R200). -/
structure Gang where
  /-- kind 0 shared, 1 exclusive, 2 reserved; 05 R123 -/
  kind : Nat := 0
  /-- owning context, 10 bits; 05 R123 R125, 07 R207; reset 0 -/
  owner : Nat := 0
  /-- size it was created with; 07 R177 -/
  size : Nat := 2
  /-- its creation number, 0 for Kite: the model's own; 02 R40 -/
  made : Nat := 0
  /-- panels in service, in gang order; 07 R176 -/
  panels : List Nat := []
  /-- misses, stall time in ns, legs committed; 07 R207 -/
  misses : Nat := 0
  /-- stall time in ns, 64 bits; 05 R123 R125, 07 R207; reset 0 -/
  stall : Nat := 0
  /-- legs committed, 32 bits; 05 R123 R125, 07 R207; reset 0 -/
  committed : Nat := 0
  /-- the committed leg; 05 R123 R125, 07 R207; reset none -/
  cur : Option Cur := none
  /-- the prefetched leg: run and leg; 07 R195 -/
  prefetched : Option (Nat × Nat) := none
  /-- contexts in round-robin order; 05 R125 -/
  ring : List Nat := []
  /-- queue served last by context × 4 + level; 05 R125 -/
  lastQ : Tbl Nat := []
  /-- declared P0 and P1 time by context in the window, µs, and the contexts over their cap; 05 R126 -/
  used : Tbl Nat := []
  /-- contexts over their cap in the window; 05 R123 R125, 07 R207; reset none -/
  capped : List Nat := []
  /-- number of the 100 ms window; 05 R126 -/
  window : Nat := 0
  /-- operating point in force since the last commit, 0–6; 16 R424 -/
  point : Nat := 6
  /-- spares powering up for it: (spare panel, retired panel, panel number of the place in gang order); 07 R199 -/
  awaiting : List (Nat × Nat × Nat) := []
  /-- spares that are ready and serve from the next boundary, likewise; 07 R199 -/
  ready : List (Nat × Nat × Nat) := []
  /-- progress of a stripe leg: the group that each stripe works on and the rows of it that it has written; 08 R223 -/
  stripes : Tbl (Nat × Nat) := []
  /-- progress of a pipelined leg: time steps done per stage; 10 R270 -/
  stages : Tbl Nat := []
  /-- nothing but a self-test slice or a scrub has come between the last leg and the boundary that is due: the model's own; 07 R196 -/
  behind : Bool := false
  deriving DecidableEq, Repr, Inhabited

/-- A lease (R129). -/
structure Lease where
  /-- kind 1–4, 8 bits; 05 R129 R138 -/
  kind : Nat := 1
  /-- being revoked, 1 bit; 05 R129 R138 -/
  revoking : Bool := false
  /-- owning context, 10 bits; 05 R129 R138 -/
  owner : Nat := 0
  /-- resource number, 32 bits; 05 R129 R138 -/
  resource : Nat := 0
  /-- acquired at, working time; 05 R129 R138 -/
  acquired : Nat := 0
  /-- limit, working time, 0 for none; 05 R129 R138 -/
  limit : Nat := 0
  deriving DecidableEq, Repr, Inhabited

/-- An entry of a plan's object table (R179). -/
structure PlanObj where
  /-- virtual address, 64 bits; 07 R179 -/
  addr : Nat := 0
  /-- bytes, 64 bits; 07 R179 -/
  size : Nat := 0
  /-- kind, 8 bits; 07 R179 -/
  kind : Nat := 0
  /-- access, 8 bits; 07 R179 -/
  access : Nat := 0
  deriving DecidableEq, Repr, Inhabited

/-- A loaded plan (R186): handle bits 15:0 are its key, gen the bits 31:16. -/
structure Plan where
  /-- generation, 16 bits; 07 R178 R186 -/
  gen : Nat := 1
  /-- owning context, 10 bits; 07 R178 R186 -/
  ctx : Nat := 0
  /-- engine, 8 bits; 07 R178 R186 -/
  engine : Nat := 0
  /-- panels, 8 bits; 07 R178 R186 -/
  gangSize : Nat := 1
  /-- SIGNED, 1 bit; 07 R178 R186 -/
  signed : Bool := false
  /-- entry leg, 16 bits; 07 R178 R186 -/
  entry : Nat := 0
  /-- cascade input object, 16 bits; 07 R178 R186 -/
  cascIn : Nat := 65535
  /-- object table; 07 R178 R186 -/
  objs : List PlanObj := []
  /-- leg descriptors: the 64-byte leg header followed by its stage records (R180) -/
  legs : List (List Byte) := []
  /-- descriptor area (R178) -/
  descs : List (List Byte) := []
  /-- 64 KiB pages of the plan store charged (R186) -/
  store : Nat := 0
  /-- reload count, 32 bits; 07 R178 R186 -/
  reloads : Nat := 0
  deriving DecidableEq, Repr, Inhabited

/-- Where a run comes from. -/
inductive RunKind where
  | packet (p : Pkt)
  | bound (binding : Nat)
  | cascade (tier : Nat)
  deriving DecidableEq, Repr

/-- States of a run (R187, R188, R127). -/
inductive RunState where
  /-- its next leg is ready -/
  | ready
  /-- waiting for input (R188) -/
  | idle
  /-- pre-empted, with its resume record (R127) -/
  | preempted
  /-- its leg is committed on its gang -/
  | committed
  deriving DecidableEq, Repr, Inhabited

/-- The input ring of a run (R188, R191). -/
structure InRing where
  /-- virtual address, 64 bits; 07 R188 R191 -/
  addr : Nat := 0
  /-- bytes of an item, 32 bits; 07 R188 R191 -/
  itemSize : Nat := 0
  /-- items, 32 bits; 07 R188 R191 -/
  items : Nat := 1
  /-- items consumed, 32 bits; 07 R188 R191 -/
  head : Nat := 0
  /-- items supplied, 32 bits; 07 R188 R191 -/
  tail : Nat := 0
  deriving DecidableEq, Repr, Inhabited

/-- A step in progress of a run (R237, R240, R267). -/
structure StepInfo where
  /-- address of the attention step record, if the plan has attention stages -/
  attn : Option Nat := none
  /-- address of the recurrent step record, if the plan has cell stages -/
  cell : Option Nat := none
  /-- pool or set handle, 8 bits; 09 R237 R240, 10 R267 -/
  pool : Nat := 0
  /-- step epoch, 32 bits; 09 R237 R240, 10 R267 -/
  epoch : Nat := 0
  /-- sequences claimed, in record order, and their lengths at step start -/
  seqs : List Nat := []
  /-- streams claimed, in record order -/
  streams : List Nat := []
  /-- pages that step start allocated (R253) -/
  fresh : List Nat := []
  /-- working copies by stream (R267) -/
  work : Tbl (List Byte) := []
  /-- working copies as the step started: the committed states, or zeros (R267, R268) -/
  first : Tbl (List Byte) := []
  /-- its start resumed a stream, whose copy is a boundary stall (R261) -/
  resumed : Bool := false
  /-- largest norm by stream, and the time steps at which the sentinel found a layer outside its band (R269) -/
  norms : Tbl Nat := []
  /-- time steps outside the band, by stream; 09 R237 R240, 10 R267 -/
  excs : Tbl (List Nat) := []
  /-- padded-row numbers of the real rows that admitted no key (R253) -/
  empties : List Nat := []
  /-- note bits of its own legs (R253) -/
  notes : Nat := 0
  /-- failed words, by physical word address, that its start met in the states that it copied; 10 R267, 11 R297 -/
  bad : List Nat := []
  deriving DecidableEq, Repr, Inhabited

/-- A run of a plan (R187). -/
structure Run where
  /-- packet, binding or tier that started it; 07 R187 R190 -/
  kind : RunKind
  /-- context, 10 bits; 07 R187 R190 -/
  ctx : Nat := 0
  /-- tag, 32 bits; 07 R187 R190 -/
  tag : Nat := 0
  /-- plan handle, 32 bits; 07 R187 R190 -/
  plan : Nat := 0
  /-- gang, 5 bits; 07 R187 R190 -/
  gang : Nat := 0
  /-- priority level, 2 bits; 07 R187 R190 -/
  level : Nat := 0
  /-- queue it was dispatched from (0–8), or 16 + binding for bound runs, 15 for cascade runs (R125, R192) -/
  queue : Nat := 0
  /-- dispatch order (R125) -/
  order : Nat := 0
  /-- start leg given, none meaning the entry (R207) -/
  start : Option Nat := none
  /-- plan counter (R127, R182) -/
  counter : Nat := 0
  /-- the plan as it stood when the first leg was committed (R187) -/
  snap : Option Plan := none
  /-- seed, 32 bits; 07 R187 R190 -/
  seed : Nat := 0
  /-- its input ring; 07 R187 R190 -/
  ring : Option InRing := none
  /-- ready, idle, pre-empted or committed; 07 R187 R190 -/
  state : RunState := .ready
  /-- begins a step with its next commit (R237) -/
  stepDue : Bool := true
  /-- the step in progress; 07 R187 R190 -/
  step : Option StepInfo := none
  /-- steps completed, counting rejected ones (R253) -/
  steps : Nat := 0
  /-- note bits, 8 bits; 07 R187 R190 -/
  notes : Nat := 0
  /-- legs done, 32 bits; 07 R187 R190 -/
  legs : Nat := 0
  /-- deadline misses, 16 bits; 07 R187 R190 -/
  misses : Nat := 0
  /-- retries, 16 bits; 07 R187 R190 -/
  retries : Nat := 0
  /-- PLAN_STOP packets that wait for its boundary (R190) -/
  stops : List Pkt := []
  /-- camera slots held for it: (port, slot) (R328) -/
  windows : List (Nat × Nat) := []
  /-- the Lift that raised it (cascade runs, R183) -/
  lift : Option LiftRec := none
  /-- run number of its binding (R194) -/
  number : Nat := 0
  /-- Reel sample index up to which its plan has released items (R42) -/
  consumed : Nat := 0
  /-- numbers of the Reel blocks that its input ring holds, oldest first (R191) -/
  blocks : List Nat := []
  deriving DecidableEq, Repr

/-- An event binding (R192). -/
structure EvBind where
  /-- context, 10 bits; 07 R192 R193 -/
  ctx : Nat := 0
  /-- plan handle, 32 bits; 07 R192 R193 -/
  plan : Nat := 0
  /-- gang, 5 bits; 07 R192 R193 -/
  gang : Nat := 0
  /-- event channel, 5 bits; 07 R192 R193 -/
  channel : Nat := 0
  /-- true: QUEUE, false: SKIP -/
  queue : Bool := false
  /-- priority level, 2 bits; 07 R192 R193 -/
  level : Nat := 0
  /-- start limit in µs, 32 bits; 07 R192 R193 -/
  limit : Nat := 0
  /-- tag, 32 bits; 07 R192 R193 -/
  tag : Nat := 0
  /-- runs started, 32 bits; 07 R192 R193 -/
  started : Nat := 0
  /-- events dropped, 32 bits; 07 R192 R193 -/
  drops : Nat := 0
  /-- a start waits, 1 bit; 07 R192 R193 -/
  pending : Bool := false
  /-- the active run; 07 R192 R193 -/
  active : Option Nat := none
  /-- ended by its run limit or PLAN_UNBIND, kept until its run ends -/
  ended : Bool := false
  /-- attached windows (R328), and by window the completion order of the slot that its last run took -/
  windows : List Nat := []
  /-- by port the count of completed slots when the binding's previous run started; 12 R328 -/
  lastDone : Tbl Nat := []
  /-- by window the frame number that its previous run read; the maximum age in µs (R391) -/
  lastFrame : Tbl Nat := []
  /-- greatest end-to-end age in µs, 32 bits; 07 R192 R193 -/
  maxAge : Nat := 0
  deriving DecidableEq, Repr, Inhabited

/-- A Mooring detector model (R203–R206). -/
structure MoorModel where
  /-- bytes, 32 bits; 07 R203 R204 -/
  size : Nat := 0
  /-- cycles, 32 bits; 07 R203 R204 -/
  cycles : Nat := 0
  /-- outputs, 8 bits; 07 R203 R204 -/
  outputs : Nat := 1
  /-- the record's bytes; 07 R203 R204 -/
  record : List Byte := []
  deriving DecidableEq, Repr, Inhabited

/-- Panels, gangs, plans, runs. -/
structure Sched where
  /-- the 34 panels that differ from the state at shipment, by number; 07 R167 R168; reset: 8 and 17 spare, the others free -/
  panels : Tbl Panel := []
  /-- gangs by handle; gang 0 is Kite; 05 R123 07 R200; reset Kite only -/
  gangs : Tbl Gang := []
  /-- creation number given last: the model's own; 02 R40; reset 0 -/
  gangSeq : Nat := 0
  /-- deficits by context × 4 + level, µs; 05 R125; reset 0 -/
  deficits : Tbl Nat := []
  /-- leases by number, oldest first; 05 R129; reset none -/
  leases : Tbl Lease := []
  /-- number of the next lease: the model's own; 05 R129, 07 R187; reset 0 -/
  nextLease : Nat := 0
  /-- plans by slot; 07 R186; reset none -/
  plans : Tbl Plan := []
  /-- next plan generation; 07 R186; reset 1 -/
  planGen : Nat := 1
  /-- runs by number; 07 R187; reset none -/
  runs : Tbl Run := []
  /-- number of the next run: the model's own; 05 R129, 07 R187; reset 0 -/
  nextRun : Nat := 0
  /-- event bindings by handle 1–64; 07 R192; reset none -/
  binds : Tbl EvBind := []
  /-- Mooring models by slot 1–2; 07 R206; reset none -/
  models : Tbl MoorModel := []
  deriving DecidableEq, Repr, Inhabited

/-! ### Quantisation statistics (06) -/

/-- A statistics record (R161). -/
structure StatRec where
  /-- sum of squared errors, binary64; 06 R161 -/
  sum : Nat := 0
  /-- elements, 64 bits; 06 R161 -/
  elements : Nat := 0
  /-- clipped, 32 bits; 06 R161 -/
  clipped : Nat := 0
  /-- saturated, 32 bits; 06 R161 -/
  saturated : Nat := 0
  /-- non-finite, 32 bits; 06 R161 -/
  nonfinite : Nat := 0
  /-- greatest error, FP32; 06 R161 -/
  maxErr : Nat := 0
  deriving DecidableEq, Repr, Inhabited

/-- A statistics slot (R162). -/
structure QSlot where
  /-- context, 10 bits; 06 R162 R163 -/
  ctx : Nat := 0
  /-- plan handle, 0 for QCONVERT only -/
  plan : Nat := 0
  /-- tag, 16 bits; 06 R162 R163 -/
  tag : Nat := 0
  /-- channels, 16 bits; 06 R162 R163 -/
  channels : Nat := 1
  /-- records by channel; 06 R162 R163 -/
  recs : Tbl StatRec := []
  /-- orphaned, 1 bit; 06 R162 R163 -/
  orphaned : Bool := false
  /-- legs since it was armed, 32 bits; 06 R162 R163 -/
  legsArm : Nat := 0
  /-- legs since it was cleared, 32 bits; 06 R162 R163 -/
  legsClear : Nat := 0
  /-- elements since it was cleared, 64 bits; 06 R162 R163 -/
  elements : Nat := 0
  /-- number of the QSTAT_ARM that armed it: legs and conversions that started before it give it nothing; 06 R162 -/
  arm : Nat := 0
  deriving DecidableEq, Repr, Inhabited

/-! ### Key-value cache (09) and streams (10) -/

/-- A key-value pool (R229). -/
structure KvPool where
  /-- context, 10 bits; 09 R229 -/
  ctx : Nat := 0
  /-- D_l, 16 bits; 09 R229 -/
  dl : Nat := 16
  /-- latent format, 8 bits; 09 R229 -/
  fmt : Nat := 0x20
  /-- D_pe, 16 bits; 09 R229 -/
  dpe : Nat := 0
  /-- layers, 8 bits; 09 R229 -/
  layers : Nat := 1
  /-- pages, 32 bits; 09 R229 -/
  cap : Nat := 64
  /-- latent second scale, FP32 bits -/
  scale : Nat := 0x3F800000
  /-- step epoch issued last, and the epochs of steps not yet ended -/
  epoch : Nat := 0
  /-- epochs of the active steps; 09 R229 -/
  active : List Nat := []
  /-- its DRAM frames, in order: page `i` lies at `i` times the page size, the page-table space after the pages; 09 R229 R230 -/
  frames : List Nat := []
  deriving DecidableEq, Repr, Inhabited

/-- A page of the registry (R231); its rows lie in its pool's memory (R230). -/
structure KvPage where
  /-- pool, 8 bits; 09 R231 -/
  pool : Nat := 0
  /-- layer, 8 bits; 09 R231 -/
  layer : Nat := 0
  /-- references, 16 bits; 09 R231 -/
  refs : Nat := 1
  /-- 1 writable, 2 full, 3 awaiting reclamation -/
  state : Nat := 1
  /-- pool step epoch at which refs reached 0 -/
  freeEpoch : Nat := 0
  /-- its place in its pool's memory, 20 bits; 09 R230 -/
  index : Nat := 0
  deriving DecidableEq, Repr, Inhabited

/-- A sequence of a key-value pool (R233). -/
structure KvSeq where
  /-- generation, 16 bits; 09 R233 -/
  gen : Nat := 1
  /-- pool, 8 bits; 09 R233 -/
  pool : Nat := 0
  /-- context, 10 bits; 09 R233 -/
  ctx : Nat := 0
  /-- length in tokens, 32 bits; 09 R233 -/
  len : Nat := 0
  /-- one table of page numbers per layer -/
  tables : List (List Nat) := []
  /-- run whose step claims it -/
  claimed : Option Nat := none
  /-- its tables as they were when that step began, which KV_SEQ_QUERY reports; 09 R254 -/
  before : List (List Nat) := []
  deriving DecidableEq, Repr, Inhabited

/-- A stream set (R259). -/
structure StrmSet where
  /-- context, 10 bits; 10 R259 -/
  ctx : Nat := 0
  /-- (hidden width, vectors) per layer -/
  layers : List (Nat × Nat) := []
  /-- state format, 8 bits; 10 R259 -/
  fmt : Nat := 1
  /-- RESIDUE, 1 bit; 10 R259 -/
  residue : Bool := false
  /-- STOCHASTIC, 1 bit; 10 R259 -/
  stochastic : Bool := false
  /-- 4 KiB units of the state store that it leases, by their place in the set's space; 10 R260 -/
  units : Tbl Nat := []
  deriving DecidableEq, Repr, Inhabited

/-- A stream (R260, R273). Its committed state lies in memory: first in its frames while it is Paused, first in its footprint of the set's
space while it is Active. -/
structure Stream where
  /-- generation, 16 bits; 10 R260 R273 -/
  gen : Nat := 1
  /-- set, 8 bits; 10 R260 R273 -/
  set : Nat := 0
  /-- context, 10 bits; 10 R260 R273 -/
  ctx : Nat := 0
  /-- Active rather than Paused, 1 bit; 10 R260 R273 -/
  active : Bool := true
  /-- place of its footprint in its set's space while Active; 10 R260 -/
  place : Nat := 0
  /-- its DRAM frames while Paused; 10 R260 -/
  frames : List Nat := []
  /-- seed, 32 bits; 10 R260 R273 -/
  seed : Nat := 0
  /-- step count, 64 bits; 10 R260 R273 -/
  steps : Nat := 0
  /-- sentinel (R273) -/
  enable : Bool := false
  /-- sentinel PAUSE, 1 bit; 10 R260 R273 -/
  pause : Bool := false
  /-- sentinel low bound, FP32; 10 R260 R273 -/
  lo : Nat := 0
  /-- sentinel high bound, FP32; 10 R260 R273 -/
  hi : Nat := 0
  /-- excursions, 16 bits; 10 R260 R273 -/
  excursions : Nat := 0
  /-- run that claims it; 10 R260 R273 -/
  claimed : Option Nat := none
  deriving DecidableEq, Repr, Inhabited

/-- The key-value cache and the recurrent streams. -/
structure Models where
  /-- statistics slots by handle 1–256; 06 R162; reset none -/
  qslots : Tbl QSlot := []
  /-- QSTAT_ARM commands carried out: the model's own order of arming; 06 R162; reset 0 -/
  arms : Nat := 0
  /-- pools by handle 1–255; 09 R229; reset none -/
  pools : Tbl KvPool := []
  /-- page registry by page number; 09 R231; reset all free (not listed) -/
  kvPages : Tbl KvPage := []
  /-- sequences by slot; 09 R233; reset none -/
  seqs : Tbl KvSeq := []
  /-- commands queued behind a step, in dispatch order: (sequence or stream key, packet); 09 R254 10 R268; reset empty -/
  kvQueue : List (Nat × Pkt) := []
  /-- commands that wait for a step's end, by set; 10 R268; reset empty -/
  strmQueue : List (Nat × Pkt) := []
  /-- ranges that the queued commands will write, for the pins that they hold: (packet, address, bytes), the model's own; 11 R301; reset empty -/
  queuePins : List (Pkt × Nat × Nat) := []
  /-- KV_WAIT packets waiting: (run, head count, packet); 09 R253; reset empty -/
  kvWaits : List (Nat × Nat × Pkt) := []
  /-- stream sets by handle 1–255; 10 R259; reset none -/
  sets : Tbl StrmSet := []
  /-- streams by slot; 10 R261; reset none -/
  streams : Tbl Stream := []
  /-- next generation of sequences and streams; reset 1 -/
  gen : Nat := 1
  /-- parcels exported, 64 bits, never reused; 10 R274; reset 0 -/
  exports : Nat := 0
  /-- last 4,096 imported (sender key ID, parcel number) pairs, newest first; 10 R277; reset empty -/
  imported : List (Nat × Nat) := []
  deriving DecidableEq, Repr, Inhabited

/-! ### Memory (11) -/

/-- A device or host memory object (R299). -/
structure MemObj where
  /-- generation, 16 bits; 11 R299 R301 -/
  gen : Nat := 1
  /-- context, 10 bits; 11 R299 R301 -/
  ctx : Nat := 0
  /-- virtual address, 48 bits; 11 R299 R301 -/
  va : Nat := 0
  /-- size in 64 KiB pages -/
  pages : Nat := 1
  /-- host object, 1 bit; 11 R299 R301 -/
  host : Bool := false
  /-- host address, 64 bits; 11 R299 R301 -/
  hostAddr : Nat := 0
  /-- home tier: 0 DRAM, 1 state store -/
  home : Nat := 0
  /-- manual rather than auto, 1 bit; 11 R299 R301 -/
  manual : Bool := false
  /-- READ, 1 bit; 11 R299 R301 -/
  read : Bool := true
  /-- WRITE, 1 bit; 11 R299 R301 -/
  write : Bool := false
  /-- tier in which its data lie: 0 DRAM, 1 state store, 2 cold, 3 host -/
  tier : Nat := 0
  /-- 0 Resident, 1 Promoting, 2 Demoting, 3 Evicting -/
  mstate : Nat := 0
  /-- pins of MEM_PIN; 11 R299 R301 -/
  pinsMem : Nat := 0
  /-- pins of plans; 11 R299 R301 -/
  pinsPlan : Nat := 0
  /-- pins of commands; 11 R299 R301 -/
  pinsCmd : Nat := 0
  /-- DRAM frames and state store frames, in page order (physical address / 65,536) -/
  dram : List Nat := []
  /-- state store frames; 11 R299 R301 -/
  store : List Nat := []
  /-- cold extents, in page order; 11 R305 -/
  extents : List Nat := []
  /-- what the drives hold of it: the ciphertext of each page, in page order; 11 R305 -/
  coldData : List (List Byte) := []
  /-- the 16-byte tags that the firmware's extent map keeps, in page order; 11 R305 -/
  coldTags : List (List Byte) := []
  /-- pages that a promotion out of the cold tier which gave way has moved into its DRAM frames already; 11 R304 -/
  lifted : Nat := 0
  /-- number of its creation; 11 R299 R301 -/
  created : Nat := 0
  deriving DecidableEq, Repr, Inhabited

/-- A request to move an object (R302, R304). -/
structure Move where
  /-- object slot -/
  obj : Nat := 0
  /-- target tier 0–2, or 3 to hand the object to the firmware -/
  target : Nat := 0
  /-- packets that complete with it: joined requests (R304); none for a firmware move -/
  pkts : List Pkt := []
  /-- deadline of a cold-tier operation, ms (R306) -/
  ms : Nat := 1000
  /-- pages moved for this request -/
  moved : Nat := 0
  /-- it is under way (otherwise it waits behind another move of the object) -/
  running : Bool := false
  /-- an eviction deferred behind a promotion (R304) -/
  deferred : Bool := false
  /-- a firmware promotion that gives way after its current page (R304) -/
  stopping : Bool := false
  /-- the MEM_FREE that stops it after its current page (R304) -/
  freeing : Option Pkt := none
  /-- code of the first failed word that it moved (R297) -/
  code : Option Code := none
  deriving DecidableEq, Repr, Inhabited

/-- A DRAM channel (R308, R312). -/
structure DramCh where
  /-- 0 in service, 1 retiring, 2 retired -/
  state : Nat := 0
  /-- corrected words, 32 bits; 11 R308 R312; reset 0 -/
  corrected : Nat := 0
  /-- uncorrectable words, 32 bits; 11 R308 R312; reset 0 -/
  uncorrectable : Nat := 0
  /-- address errors, 32 bits; 11 R308 R312; reset 0 -/
  address : Nat := 0
  deriving DecidableEq, Repr, Inhabited

/-- A channel retirement in progress (R307). -/
structure Retiring where
  /-- channel, 4 bits; 11 R307 -/
  channel : Nat := 0
  /-- packets that complete with it -/
  pkts : List Pkt := []
  /-- frames migrated, 32 bits; 11 R307 -/
  migrated : Nat := 0
  /-- frames poisoned, 32 bits; 11 R307 -/
  poisoned : Nat := 0
  /-- objects touched; 11 R307 -/
  objects : List Nat := []
  /-- frames of the firmware region in the channel that have not migrated yet; 11 R307 -/
  firmware : List Nat := []
  deriving DecidableEq, Repr, Inhabited

/-- A transfer on a DMA channel (R312, R166). -/
structure Dma where
  /-- the packet; 11 R312, 06 R166 -/
  pkt : Pkt
  /-- context, 10 bits; 11 R312, 06 R166 -/
  ctx : Nat := 0
  /-- its lease; 11 R312, 06 R166 -/
  lease : Nat := 0
  /-- start, working time; 11 R312, 06 R166 -/
  start : Nat := 0
  /-- true: QCONVERT -/
  convert : Bool := false
  /-- number of the last QSTAT_ARM before the conversion started: the model's own; 06 R162 -/
  arms : Nat := 0
  deriving DecidableEq, Repr

/-- An operation of the cold tier in flight (R305, R306, R312). -/
structure ColdOp where
  /-- object slot, none for MEM_COLD_IO -/
  obj : Option Nat := none
  /-- the MEM_COLD_IO packet, none for an eviction or a promotion; 11 R305 R312 -/
  pkt : Option Pkt := none
  /-- working time of its deadline (R306) -/
  deadline : Nat := 0
  /-- extents that have completed -/
  done : Nat := 0
  deriving DecidableEq, Repr, Inhabited

/-- The exchange areas and group outputs of a stripe leg that runs, and whether other work of its context has written them (R226). -/
structure Guard where
  /-- context of the leg -/
  ctx : Nat := 0
  /-- guarded virtual ranges: address and bytes -/
  ranges : List (Nat × Nat) := []
  /-- other work has written one of them since the leg started -/
  hit : Bool := false
  deriving DecidableEq, Repr, Inhabited

/-- Memory tiers. -/
structure Store where
  /-- device physical memory, 40-bit byte addresses; 11 R284; reset nothing listed: every byte reads 0 DESIGN CHOICE (log 7) -/
  mem : Mem := []
  /-- host memory as the RY3's requests find it, by space × 2^64 + address; 03 R65; reset nothing listed (log 8) -/
  host : Mem := []
  /-- the 144 bits of stored words that are not the encoding of what `mem` holds, by physical address / 16; `mem` holds the data that
  their consumer takes; 11 R291 R294; reset none -/
  words : Tbl Nat := []
  /-- frames in use: physical address / 65,536 to owner context; 11 R284 R285 R288; reset none beyond the firmware region -/
  frames : Tbl Nat := []
  /-- guarded ranges of the stripe legs that run, by gang: the model's own; 08 R226; reset none -/
  guards : Tbl Guard := []
  /-- the LPDDR5X went back to self-refresh with the power-down of a cascade gang, and nothing has used it since, 1 bit; 02 R38; reset 0 -/
  rest : Bool := false
  /-- channel after the last one used by an allocation; 11 R288; reset 0 -/
  nextCh : Nat := 0
  /-- 4 KiB units of the state store that stream sets lease, with their owner; 10 R260, 11 R290; reset none -/
  regions : Tbl Nat := []
  /-- DRAM channels that differ from reset; 11 R308; reset in service, counts 0 -/
  channels : Tbl DramCh := []
  /-- the channel retirement in progress; 11 R299 R307; reset none -/
  retiring : Option Retiring := none
  /-- channel retirements that wait, with their packets; 11 R299 R307; reset empty -/
  retireQueue : List (Nat × Option Pkt) := []
  /-- objects by slot; 11 R299; reset none -/
  objs : Tbl MemObj := []
  /-- number of the next object: the model's own; 11 R299 R307; reset 0 -/
  nextObj : Nat := 0
  /-- next generation, 16 bits; 11 R299 R307; reset 1 -/
  objGen : Nat := 1
  /-- moves in request order; 11 R302 R304; reset none -/
  moves : List Move := []
  /-- transfers by channel 0–30; 11 R312; reset none -/
  dma : Tbl Dma := []
  /-- extents in use: extent to (owner, write count); 11 R305; reset none -/
  extents : Tbl (Nat × Nat) := []
  /-- write count of every extent ever written; 11 R305; reset none -/
  extentWrites : Tbl Nat := []
  /-- cold-tier operations in flight; 11 R306; reset none -/
  cold : List ColdOp := []
  /-- contexts whose memory is being scrubbed, in order of cause, with their 64 KiB pages of the firmware region; 05 R132 R135; reset none -/
  scrubs : List (Nat × Nat) := []
  deriving DecidableEq, Repr, Inhabited

/-! ### Cameras (12) -/

/-- Configuration of CAM_PORT (R332). -/
structure CamPort where
  /-- lanes, 3 bits; 12 R332 -/
  lanes : Nat := 1
  /-- data type, 6 bits; 12 R332 -/
  dt : Nat := 0
  /-- virtual channel, 2 bits; 12 R332 -/
  vc : Nat := 0
  /-- pixels, 16 bits; 12 R332 -/
  width : Nat := 0
  /-- lines, 16 bits; 12 R332 -/
  height : Nat := 0
  /-- Bayer pattern, 2 bits; 12 R332 -/
  pattern : Nat := 0
  /-- lane map, 8 bits; 12 R332 -/
  laneMap : Nat := 0
  /-- lane polarity, 5 bits; 12 R332 -/
  polarity : Nat := 0
  /-- EMBEDDED, 1 bit; 12 R332 -/
  embedded : Bool := false
  /-- lane rate in Mb/s, 16 bits; 12 R332 -/
  rate : Nat := 0
  /-- shortest frame interval in µs, 32 bits; 12 R332 -/
  minUs : Nat := 0
  /-- longest frame interval in µs, 32 bits; 12 R332 -/
  maxUs : Nat := 0
  deriving DecidableEq, Repr, Inhabited

/-- Configuration of CAM_OUTPUT (R332). -/
structure CamOut where
  /-- slots, 8 bits; 12 R332 -/
  slots : Nat := 3
  /-- flags, 8 bits; 12 R332 -/
  flags : Nat := 0
  /-- display format, 8 bits; 12 R332 -/
  dispFmt : Nat := 1
  /-- virtual address, 64 bits; 12 R332 -/
  ring : Nat := 0
  /-- display width, 16 bits; 12 R332 -/
  dispW : Nat := 0
  /-- display height, 16 bits; 12 R332 -/
  dispH : Nat := 0
  /-- tensor width, 16 bits; 12 R332 -/
  tensW : Nat := 0
  /-- tensor height, 16 bits; 12 R332 -/
  tensH : Nat := 0
  /-- tensor order, 8 bits; 12 R332 -/
  order : Nat := 0
  /-- tensor format, 8 bits; 12 R332 -/
  fmt : Nat := 0x10
  /-- bytes of a slot, 32 bits; 12 R332 -/
  size : Nat := 65536
  /-- crop windows x, y, width, height of the display and of the tensor output -/
  dispCrop : List Nat := []
  /-- tensor crop, 4 × 16 bits; 12 R332 -/
  tensCrop : List Nat := []
  /-- FP32 bits of the three means and the three scales -/
  means : List Nat := []
  /-- tensor scales, 3 × FP32; 12 R332 -/
  scales : List Nat := []
  deriving DecidableEq, Repr, Inhabited

/-- A frame in progress (R316, R322, R325). -/
structure CamFrame where
  /-- frame number, 64 bits; 12 R316 R322 -/
  number : Nat := 0
  /-- the slot that it is written into, none if no slot was free -/
  slot : Option Nat := none
  /-- start, working time; 12 R316 R322 -/
  start : Nat := 0
  /-- lines received, 16 bits; 12 R316 R322 -/
  lines : Nat := 0
  /-- flags of the frame record (R324) -/
  flags : Nat := 0
  /-- parameter set, enable mask and pixels of the statistics window in force (R319, R320) -/
  params : Nat := 0
  /-- stage enables, 16 bits; 12 R316 R322 -/
  enable : Nat := 0
  /-- pixels that statistics counted; 12 R316 R322 -/
  statPixels : Nat := 0
  /-- the parameter sections and tables in force (R320) -/
  sections : Tbl (List Byte) := []
  /-- tables in force by section; 12 R316 R322 -/
  tables : Tbl (List Byte) := []
  /-- samples of the lines received, 16 bits each (R318) -/
  rows : List (List Nat) := []
  /-- payload bytes of the image data type so far -/
  payload : List Byte := []
  /-- embedded data captured, at most 1,024 bytes (R315) -/
  embedded : List Byte := []
  /-- the rest of the frame is discarded (R317) -/
  cut : Bool := false
  /-- the frame end has come; the slot is being completed -/
  ended : Option Nat := none
  /-- its lateness has been charged (R389) -/
  late : Bool := false
  /-- the settings of CAM_PORT that it was started under (R332) -/
  cfg : CamPort := {}
  /-- the settings of CAM_OUTPUT that it was started under (R332) -/
  out : CamOut := {}
  deriving DecidableEq, Repr, Inhabited

/-- A completed slot: frame number, completion order, MUTED, start time. -/
structure CamSlot where
  /-- frame number, 64 bits; 12 R322 R325 -/
  number : Nat := 0
  /-- order of completion; 12 R322 R325 -/
  order : Nat := 0
  /-- MUTED, 1 bit; 12 R322 R325 -/
  muted : Bool := false
  /-- start, working time; 12 R322 R325 -/
  start : Nat := 0
  /-- runs that hold it (R328) -/
  holds : Nat := 0
  deriving DecidableEq, Repr, Inhabited

/-- A main camera port. -/
structure Cam where
  /-- owner context, 10 bits; 12 R332; reset 0 -/
  owner : Nat := 0
  /-- 0 Off, 1 Configured, 2 Streaming; 12 R332; reset 0 -/
  state : Nat := 0
  /-- CAM_PORT configuration; 12 R332; reset none -/
  port : Option CamPort := none
  /-- CAM_OUTPUT configuration; 12 R332; reset none -/
  out : Option CamOut := none
  /-- the nine parameter sections as loaded (80 to 16 bytes each) by section, the enable mask, and the set number; 12 R319 R320; reset identity (empty) -/
  sections : Tbl (List Byte) := []
  /-- stage enables of the next frame, 16 bits; 12 R332; reset 0 -/
  enableMask : Nat := 0
  /-- parameter set number, 32 bits; 12 R332; reset 0 -/
  paramSet : Nat := 0
  /-- tables copied at dispatch, by section; 12 R319 -/
  tables : Tbl (List Byte) := []
  /-- frame number issued last, 64 bits; 12 R325; reset 0 -/
  frameNo : Nat := 0
  /-- the frame in progress; 12 R332; reset none -/
  frame : Option CamFrame := none
  /-- frames that ended and whose slot is not complete yet, oldest first -/
  finishing : List CamFrame := []
  /-- completed slots by number; 12 R332; reset none -/
  slots : Tbl CamSlot := []
  /-- completions so far, for the order of R322 -/
  doneCount : Nat := 0
  /-- working time of the last frame start and the last frame interval; 12 R330 R332; reset none -/
  lastStart : Option Nat := none
  /-- last frame interval in µs; 12 R332; reset none -/
  interval : Option Nat := none
  /-- truncated frames, dropped packets, 16 bits saturating; 12 R332; reset 0 -/
  truncated : Nat := 0
  /-- frames dropped, 32 bits; 12 R332; reset 0 -/
  dropped : Nat := 0
  /-- level last set by CAM_POWER; 12 R329; reset inactive -/
  power : Bool := false
  /-- PWR_EN at the ball; 12 R329 16 R422; reset inactive -/
  pwrEn : Bool := false
  /-- level latched while its pad group is held; 16 R422; reset inactive -/
  latched : Bool := false
  /-- pixels received and not yet taken by the pipeline; 12 R317; reset 0 -/
  backlog : Nat := 0
  /-- frame sync: event channel; 12 R327; reset unbound -/
  sync : Option Nat := none
  /-- polarity of FSYNC: active high; 12 R327; reset 1 DESIGN CHOICE (log 29) -/
  syncHigh : Bool := true
  /-- width of the FSYNC pulse in µs, 16 bits; 12 R327; reset 0 DESIGN CHOICE (log 29) -/
  syncWidth : Nat := 0
  /-- FSYNC pulse being driven; 12 R327; reset no -/
  fsync : Bool := false
  /-- working time at which the pulse ends; 12 R327; reset 0 -/
  fsyncEnd : Nat := 0
  /-- CAM_STOP packets waiting for the frame end; 12 R332; reset none -/
  stop : List Pkt := []
  /-- CAM_WAIT packets: (frame number, packet); 12 R332; reset none -/
  waits : List (Nat × Pkt) := []
  deriving DecidableEq, Repr, Inhabited

/-- A window (R328). -/
structure CamWin where
  /-- port, 4 bits; 12 R328 -/
  port : Nat := 0
  /-- context, 10 bits; 12 R328 -/
  ctx : Nat := 0
  /-- virtual address, 48 bits; 12 R328 -/
  va : Nat := 0
  /-- slot, 8 bits; 12 R328 -/
  slot : Nat := 0
  /-- attached binding, 7 bits; 12 R328 -/
  binding : Option Nat := none
  deriving DecidableEq, Repr, Inhabited

/-- Cameras and the camera gate. -/
structure Cams where
  /-- ports 0–11 that differ from reset; 12 R332; reset Off, owner 0 -/
  ports : Tbl Cam := []
  /-- windows by handle; 12 R328; reset none -/
  windows : Tbl CamWin := []
  /-- presence settings: byte 16 flags, black level, gain, rate, curve bytes; 12 R331; reset disabled, others DESIGN CHOICE 0 (log 5) -/
  presFlags : Nat := 0
  /-- presence black level, 16 bits; 12 R331; reset DESIGN CHOICE 0 (log 5) -/
  presBlack : Nat := 0
  /-- presence gain, 16 bits; 12 R331; reset DESIGN CHOICE 0 (log 5) -/
  presGain : Nat := 0
  /-- presence frame rate, 8 bits; 12 R331; reset DESIGN CHOICE 0 (log 5) -/
  presRate : Nat := 0
  /-- presence curve bytes; 12 R331; reset DESIGN CHOICE empty (log 5) -/
  presCurve : List Byte := []
  /-- PRIV_CAM_N asserted (pin); 12 R329 18 R457; reset DESIGN CHOICE deasserted (log 4) -/
  pin : Bool := false
  /-- the camera gate is held (CAM_LED active); 12 R329; reset released -/
  gate : Bool := false
  deriving DecidableEq, Repr, Inhabited

/-! ### Audio (13) -/

/-- A capture ring (R342). -/
structure Capture where
  /-- context, 10 bits; 13 R342 R343 -/
  owner : Nat := 0
  /-- channels, 8 bits; 13 R342 R343 -/
  channels : Nat := 1
  /-- rate code, 8 bits; 13 R342 R343 -/
  rate : Nat := 0
  /-- format, 8 bits; 13 R342 R343 -/
  fmt : Nat := 0
  /-- blocks, 16 bits; 13 R342 R343 -/
  blocks : Nat := 4
  /-- virtual address, 64 bits; 13 R342 R343 -/
  addr : Nat := 0
  /-- source codes by channel; 13 R342 R343 -/
  sources : List Nat := []
  /-- running, 1 bit; 13 R342 R343 -/
  running : Bool := false
  /-- starts at the next block boundary -/
  starting : Bool := false
  /-- block number of the newest complete block -/
  block : Nat := 0
  /-- flags of the newest complete block -/
  lastFlags : Nat := 0
  /-- the block being written carries RESTEERED (R341) -/
  resteered : Bool := false
  /-- number of the newest block that the window watchdog has reported as late; 13 R344; reset 0 -/
  late : Nat := 0
  /-- AUD_STOP packets waiting for the block boundary -/
  stop : List Pkt := []
  /-- AUD_WAIT packets and their block numbers; 13 R342 R343 -/
  waits : List (Nat × Pkt) := []
  deriving DecidableEq, Repr, Inhabited

/-- A playback ring (R347). -/
structure Play where
  /-- virtual address, 64 bits; 13 R347 R348 -/
  addr : Nat := 0
  /-- blocks, 16 bits; 13 R347 R348 -/
  blocks : Nat := 2
  /-- output point, working time, and the start time given -/
  point : Nat := 0
  /-- running, 1 bit; 13 R347 R348 -/
  running : Bool := false
  /-- blocks consumed, 32 bits; 13 R347 R348 -/
  head : Nat := 0
  /-- underruns, 32 bits; 13 R347 R348 -/
  underruns : Nat := 0
  /-- late blocks, 32 bits; 13 R347 R348 -/
  late : Nat := 0
  /-- the LAST block has been taken -/
  last : Bool := false
  deriving DecidableEq, Repr, Inhabited

/-- An I2S/TDM port (R345). -/
structure I2s where
  /-- context, 10 bits; 13 R345; reset 0 -/
  owner : Nat := 0
  /-- configured, 1 bit; 13 R345; reset 0 -/
  configured : Bool := false
  /-- mode, 8 bits; 13 R345; reset 0 -/
  mode : Nat := 0
  /-- target rather than controller, 1 bit; 13 R345; reset 0 -/
  target : Bool := false
  /-- rate code, 8 bits; 13 R345; reset 0 -/
  rate : Nat := 0
  /-- slots, 8 bits; 13 R345; reset 2 DESIGN CHOICE (log 5) -/
  slots : Nat := 2
  /-- slot width, 8 bits; 13 R345; reset 16 DESIGN CHOICE (log 5) -/
  width : Nat := 16
  /-- data width, 8 bits; 13 R345; reset 16 DESIGN CHOICE (log 5) -/
  dataWidth : Nat := 16
  /-- flags, 8 bits; 13 R345; reset 0 -/
  flags : Nat := 0
  /-- sticky until a warm reset (R350) -/
  micClass : Bool := false
  /-- clock lost in target mode (R346) -/
  lost : Bool := false
  /-- working time from which no frame has arrived, while the clock is lost; 13 R346; reset 0 -/
  since : Nat := 0
  /-- earlier losses within the block in progress: from, and the time the port resumed at; 13 R346; reset none -/
  gaps : List (Nat × Nat) := []
  /-- measured rate less nominal, parts per 10^9 (target mode); 13 R343 R346; reset 0 -/
  offset : Int := 0
  /-- runs of frames played that the block in progress may still loop back: working time of the first frame, the sample codes of each
  frame by slot; 13 R342 R348; reset none -/
  played : List (Nat × List (List Int)) := []
  /-- playback ring; 13 R345; reset none -/
  play : Option Play := none
  deriving DecidableEq, Repr, Inhabited

/-- The audio block and Mooring's microphone path. -/
structure Audio where
  /-- PRIV_MIC_N asserted (pin); 13 R349 18 R457; reset DESIGN CHOICE deasserted (log 4) -/
  pin : Bool := false
  /-- the microphone gate is held (MIC_LED active); 13 R349; reset released -/
  gate : Bool := false
  /-- PDM_CLK0 code; 13 R336; reset 0 (0.768 MHz) -/
  clk0 : Nat := 0
  /-- PDM_CLK1 code and the code that takes effect at the next boundary; 13 R336 R352; reset DESIGN CHOICE 0 (log 5) -/
  clk1 : Nat := 0
  /-- PDM_CLK1 code from the next boundary; 13 R336 R341; reset none -/
  clk1Next : Option Nat := none
  /-- high-quality path running; 13 R352; reset no -/
  hq : Bool := false
  /-- working time from which the high-quality channels of PDM_CLK0 have settled; 13 R337; reset none -/
  settle0 : Option Nat := none
  /-- working time from which the high-quality channels of PDM_CLK1 have settled; 13 R337 R352; reset none -/
  settle1 : Option Nat := none
  /-- working time from which the low-power path has settled; 13 R337; reset none -/
  lpSettle : Option Nat := none
  /-- delay lines of the high-quality path by microphone: the newest 512 samples before the block; 13 R339; reset empty -/
  hist : Tbl (List Int) := []
  /-- delay lines of the low-power path by microphone: the newest 171 samples before the block; 13 R339; reset empty -/
  lpHist : Tbl (List Int) := []
  /-- Reel sample index up to which capture blocks stay muted after a release; 13 R350; reset none -/
  mutedTo : Option Nat := none
  /-- low-power record and a record that waits for a boundary (64 bytes); 13 R352; reset DESIGN CHOICE empty (log 5) -/
  lp : List Byte := []
  /-- low-power record from the next boundary; 13 R336 R341; reset none -/
  lpNext : Option (List Byte) := none
  /-- beam records in force and waiting, by beam; 13 R341; reset none -/
  beams : Tbl (List Byte) := []
  /-- beam records from the next boundary; 13 R336 R341; reset none -/
  beamsNext : Tbl (List Byte) := []
  /-- records that the block being written fades from, by beam, and the low-power one; 13 R341; reset none -/
  beamsOld : Tbl (List Byte) := []
  /-- low-power record that fades out; 13 R336 R341; reset none -/
  lpOld : Option (List Byte) := none
  /-- DC block of the low-power path, 1 bit; 13 R336 R341; reset DESIGN CHOICE 0 (log 5) -/
  dcBlock : Bool := false
  /-- DC block from the next boundary; 13 R336 R341; reset none -/
  dcNext : Option Bool := none
  /-- owner of the microphone array; 13 R352; reset 0 -/
  arrayOwner : Nat := 0
  /-- capture rings by id; 13 R342; reset none -/
  rings : Tbl Capture := []
  /-- I2S ports 0–1 that differ from reset; 13 R345; reset owner 0 -/
  i2s : Tbl I2s := []
  deriving DecidableEq, Repr, Inhabited

/-! ### Time and network (14) -/

/-- A time domain (R359): its state code, grandmaster, changes, time at the last Sync, offsets of the stable run. -/
structure Domain where
  /-- 0 Disabled, 1 No grandmaster, 2 Acquiring, 3 Locked; 14 R359; reset 0 -/
  state : Nat := 0
  /-- domain number, 8 bits; 14 R359; reset 0 -/
  number : Nat := 0
  /-- ports, 2 bits; 14 R359; reset 0 -/
  ports : Nat := 0
  /-- grandmaster identity, 64 bits; 14 R359; reset none -/
  grandmaster : Option Nat := none
  /-- grandmaster changes, 16 bits; 14 R359; reset 0 -/
  changes : BitVec 16 := 0
  /-- offset D − W, 2^-16 ns; 14 R359 R360; reset 0 -/
  offset : Int := 0
  /-- the offset estimates of the newest nine Syncs, newest first, 2^-16 ns; 14 R359; reset empty -/
  recent : List Int := []
  /-- working time of the last Sync, and the Sync receipt timeout, ns -/
  lastSync : Nat := 0
  /-- Sync receipt timeout, ns; 14 R359; reset 0 -/
  timeout : Nat := 0
  /-- working time at which the Announce receipt timeout expires; 14 R359; reset none -/
  announceDue : Option Nat := none
  /-- the newest Announce by port: priority vector, grandmaster identity, when its receipt timeout expires; 14 R358; reset none -/
  heard : Tbl (Nat × Nat × Nat) := []
  /-- rate of the domain against the 25 MHz reference, parts per 10^9; 14 R361; reset 0 -/
  rate : Int := 0
  /-- Locked since, working time; 14 R359; reset 0 -/
  lockedSince : Nat := 0
  deriving DecidableEq, Repr, Inhabited

/-- The Timekeeper. One counter of working time stands for those of all islands, which R16 lets deviate by up to 4 ns (DESIGN CHOICE,
log 1). -/
structure Time where
  /-- working time W, ns, 64 bits; 00 R9 14 R360; reset 0 (power-on reset) -/
  now : Nat := 0
  /-- ticks of the 32.768 kHz oscillator since power-on reset; 01 R17; reset 0 -/
  ticks : Nat := 0
  /-- ns since the last of those ticks, kept while the Timekeeper carries working time; 01 R17; reset 0 -/
  phase : Nat := 0
  /-- base b, in 2^-16 ns, none when cleared; 14 R360; reset cleared -/
  base : Option Int := none
  /-- domain A; 14 R359 R362; reset Disabled -/
  domA : Domain := {}
  /-- domain B; 14 R359 R362; reset Disabled -/
  domB : Domain := {}
  /-- selection: 0 A, 1 B, 2 holdover, 3 none; 14 R382; reset 3 -/
  sel : Nat := 3
  /-- forced selection, 1 bit; 14 R359 R362; reset 0 -/
  forced : Bool := false
  /-- preferred domain B, REVERTIVE; 14 R382; reset DESIGN CHOICE 0 (log 5) -/
  preferB : Bool := false
  /-- REVERTIVE, 1 bit; 14 R359 R362; reset DESIGN CHOICE 0 (log 5) -/
  revertive : Bool := false
  /-- a switch away from the preferred domain has occurred; 14 R362; reset no -/
  switched : Bool := false
  /-- residual e, ns; 14 R360; reset 0 -/
  residual : Int := 0
  /-- ingress and egress adjustments of ETH0 and ETH1, ns; 14 R382; reset DESIGN CHOICE 0 (log 5) -/
  adjust : List Int := [0, 0, 0, 0]
  /-- rate that working time keeps in holdover, parts per 10^9 of the 25 MHz reference; 14 R363; reset 0 -/
  rate : Int := 0
  /-- mean link delay per port, ns; 14 R358; reset 0 -/
  delay : Tbl Nat := []
  deriving DecidableEq, Repr, Inhabited

/-- An event channel (R364–R366). -/
structure Ev where
  /-- TK_EVCTLn, 32 bits; 14 R365; reset 0 -/
  ctl : Word := 0
  /-- TK_EVSTATn, 32 bits W1C; 14 R366; reset 0 -/
  stat : Word := 0
  /-- TK_EVCMPn, 48 bits; 14 R364; reset 0 -/
  cmp : BitVec 48 := 0
  /-- TK_EVPERn, 48 bits; 14 R364; reset 0 -/
  per : BitVec 48 := 0
  /-- TK_EVWIDn, 32 bits; 14 R364; reset 0 -/
  wid : Word := 0
  /-- TK_EVCNTn.FIRED and .CAPTURED, 16 bits each; 14 R364; reset 0 -/
  fired : BitVec 16 := 0
  /-- edges captured, 16 bits; 14 R364 R366; reset 0 -/
  captured : BitVec 16 := 0
  /-- TK_EVLOSTn.MISSED and .OVERFLOW, 16 bits each; 14 R364; reset 0 -/
  missed : BitVec 16 := 0
  /-- edges lost, 16 bits; 14 R364 R366; reset 0 -/
  lost : BitVec 16 := 0
  /-- TK_EVCAPn, 64 bits; 14 R364; reset 0 -/
  cap : BitVec 64 := 0
  /-- TK_EVNEXTn, 48 bits; 14 R364; reset 0 -/
  next : BitVec 48 := 0
  /-- capture FIFO, oldest first, at most 16; 14 R370; reset empty -/
  fifo : List Nat := []
  /-- time of the last captured edge; 14 R370; reset none -/
  lastEdge : Option Nat := none
  /-- owner context, 10 bits; 14 R372; reset 0 -/
  owner : Nat := 0
  /-- output pulse being driven; 14 R369; reset no -/
  pulse : Bool := false
  /-- working time at which the pulse ends; 14 R369; reset 0 -/
  pulseEnd : Nat := 0
  deriving DecidableEq, Repr, Inhabited

/-- A NET_SEND under way (R357, R376): its packet and level, when it was dispatched, its payload and next hop. -/
structure Sending where
  /-- the NET_SEND packet; 14 R357 R376 -/
  pkt : Pkt
  /-- its priority level, 2 bits; 14 R357 R376 -/
  level : Nat := 1
  /-- when it was dispatched, working time; 14 R357 R376 -/
  time : Nat := 0
  /-- payload; 14 R357 R376 -/
  data : List Byte := []
  /-- next hop, 16 bytes; 14 R357 R376 -/
  hop : List Byte := []
  /-- UDP checksum of the datagram as built, 16 bits, 0 where it carries none; 14 R357 -/
  sum : Nat := 0
  /-- its window watchdog has fired, 1 bit; 14 R357 R376 -/
  late : Bool := false
  deriving DecidableEq, Repr

/-- A gPTP frame that waits to depart (R358, R376). -/
inductive GptpFrame where
  /-- Pdelay_Resp with the working time at which the request came in -/
  | pdelayResp (received : Nat)
  /-- Pdelay_Resp_Follow_Up with the departure time of the response -/
  | followUp (departed : Nat)
  deriving DecidableEq, Repr

/-- An Ethernet port (R354, R382): its 256-byte port record and its link. -/
structure Eth where
  /-- ENABLE, 1 bit; 14 R354 R382; reset 0 -/
  enable : Bool := false
  /-- 10 Gb/s rather than 1 Gb/s, 1 bit; 14 R354 R382; reset 0 -/
  tenG : Bool := false
  /-- AUTONEG, 1 bit; 14 R354 R382; reset 0 -/
  autoneg : Bool := false
  /-- VLAN, 1 bit; 14 R354 R382; reset 0 -/
  vlan : Bool := false
  /-- FEC, 2 bits; 14 R354 R382; reset 0 -/
  fec : Nat := 0
  /-- MTU; 14 R354; reset DESIGN CHOICE 1,500 (log 5) -/
  mtu : Nat := 1500
  /-- MAC address, 6 bytes; 14 R354 R382; reset DESIGN CHOICE empty (log 5) -/
  mac : List Byte := []
  /-- VLAN tag, 16 bits; 14 R354 R382; reset 0 -/
  tci : Nat := 0
  /-- address bytes 16–127 of the record: IPv4 addresses, prefixes, gateway, IPv6 likewise -/
  addrs : List Byte := []
  /-- link up, 1 bit; 14 R354 R382; reset 0 -/
  up : Bool := false
  /-- auto-negotiation done, 1 bit; 14 R354 R382; reset 0 -/
  anDone : Bool := false
  /-- frames discarded, 32 bits; socket datagrams dropped; 14 R382; reset 0 -/
  discards : Nat := 0
  /-- datagrams without a socket slot, 32 bits; 14 R354 R382; reset 0 -/
  sockDrops : Nat := 0
  /-- echoes answered in the second that began at the time given; 14 R373; reset 0 -/
  echoes : Nat := 0
  /-- start of the echo budget's second, working time; 14 R354 R382; reset 0 -/
  echoFrom : Nat := 0
  /-- sends that wait to depart, oldest first; 14 R376; reset empty -/
  sending : List Sending := []
  /-- sends that wait for neighbour resolution, oldest first; 14 R373; reset empty -/
  resolving : List Sending := []
  /-- resolved neighbours -/
  neighbors : List (List Byte) := []
  /-- gPTP frames that wait to depart, oldest first; 14 R358 R376; reset empty -/
  gptp : List GptpFrame := []
  /-- logPdelayReqInterval; 14 R358; reset 0 -/
  pdelayLog : Int := 0
  /-- sending queues (context, queue) in the order in which they last had a frame depart; 14 R376; reset empty -/
  served : List (Nat × Nat) := []
  deriving DecidableEq, Repr, Inhabited

/-- A UDP socket (R375). -/
structure Sock where
  /-- context, 10 bits; 14 R375 -/
  ctx : Nat := 0
  /-- Ethernet port, 1 bit; 14 R375 -/
  port : Nat := 0
  /-- address index, 8 bits, 0xFF any; 14 R375 -/
  addr : Nat := 0xFF
  /-- UDP port, 16 bits; 14 R375 -/
  udp : Nat := 0
  /-- slots, 16 bits; 14 R375 -/
  slots : Nat := 2
  /-- bytes of a slot, 32 bits; 14 R375 -/
  size : Nat := 128
  /-- virtual address, 64 bits; 14 R375 -/
  ring : Nat := 0
  /-- slot to fill next, datagrams delivered -/
  next : Nat := 0
  /-- datagrams, 32 bits; 14 R375 -/
  count : Nat := 0
  deriving DecidableEq, Repr, Inhabited

/-- A Gweug inbox (R381). -/
structure Inbox where
  /-- context, 10 bits; 14 R381 -/
  ctx : Nat := 0
  /-- slots, 8 bits; 14 R381 -/
  slots : Nat := 1
  /-- bytes of a slot, 32 bits; 14 R381 -/
  size : Nat := 65536
  /-- virtual address, 64 bits; 14 R381 -/
  addr : Nat := 0
  /-- slots occupied by a delivered parcel, and slots reserved by a transfer -/
  full : List Nat := []
  /-- slots that a transfer fills; 14 R381 -/
  busy : List Nat := []
  deriving DecidableEq, Repr, Inhabited

/-- A Gweug session (R378), open or being opened. -/
structure GwSession where
  /-- peer index, 16 bits; 14 R378 -/
  peer : Nat := 0
  /-- session identifier of its datagrams, assigned by the responder (R92) -/
  wire : Nat := 0
  /-- 1 hello sent, 2 reply sent, 3 open -/
  phase : Nat := 1
  /-- the hello and the reply sent or received so far (R95) -/
  hello : List Byte := []
  /-- the answer, while it opens; 14 R378 -/
  reply : List Byte := []
  /-- which ephemeral key was drawn (R95) -/
  draw : Nat := 0
  /-- the 72 bytes of the key schedule; 04 R95, 14 R378 -/
  secret : List Byte := []
  /-- this device sent the hello: its datagrams take the keys of the client; 14 R378 -/
  first : Bool := false
  /-- highest counter received, 64 bits; 14 R378 -/
  rxMax : Nat := 0
  /-- counters seen in the window; 14 R378 -/
  rxSeen : List Nat := []
  /-- next counter, 64 bits; 14 R378 -/
  tx : Nat := 0
  /-- last datagram received, working time; 14 R378 -/
  lastRx : Nat := 0
  /-- next transfer number, 32 bits; 14 R378 -/
  nextTransfer : Nat := 1
  deriving DecidableEq, Repr, Inhabited

/-- A transfer that this device sends (R380). -/
structure GwOut where
  /-- the GW_SEND packet; 14 R380 -/
  pkt : Pkt
  /-- session; 14 R380 -/
  session : Nat := 0
  /-- transfer number, 32 bits; 14 R380 -/
  id : Nat := 0
  /-- inbox, 8 bits; 14 R380 -/
  inbox : Nat := 0
  /-- the parcel's bytes; 14 R380 -/
  parcel : List Byte := []
  /-- chunk bytes, 32 bits; 14 R380 -/
  chunk : Nat := 1024
  /-- 0 to be offered, 1 offered, 2 streaming -/
  phase : Nat := 0
  /-- next chunk and bitmap of the last ack; chunks sent; chunks sent again -/
  acked : Nat := 0
  /-- selective acknowledgement, 64 bits; 14 R380 -/
  bitmap : Nat := 0
  /-- chunks sent, 32 bits; 14 R380 -/
  sent : Nat := 0
  /-- chunks sent again, 32 bits; 14 R380 -/
  again : Nat := 0
  /-- working time at which each chunk was last sent; 14 R380 -/
  times : Tbl Nat := []
  /-- working time of the last advance, and the deadline -/
  last : Nat := 0
  /-- deadline in ms, 32 bits; 14 R380 -/
  deadlineMs : Nat := 2000
  deriving DecidableEq, Repr

/-- A transfer that this device receives (R380). -/
structure GwIn where
  /-- session; 14 R380 -/
  session : Nat := 0
  /-- transfer number, 32 bits; 14 R380 -/
  id : Nat := 0
  /-- inbox, 8 bits; 14 R380 -/
  inbox : Nat := 0
  /-- slot, 8 bits; 14 R380 -/
  slot : Nat := 0
  /-- parcel bytes, 32 bits; 14 R380 -/
  bytes : Nat := 0
  /-- number of the parcel in its inbox, 32 bits; 14 R380 -/
  number : Nat := 0
  /-- chunk bytes, 32 bits; 14 R380 -/
  chunk : Nat := 1024
  /-- chunks received -/
  chunks : Tbl (List Byte) := []
  /-- chunks since the last ack -/
  unacked : Nat := 0
  /-- working time of the first of them; 14 R380 -/
  since : Nat := 0
  /-- working time of the last new chunk, or of the answer; 14 R380 -/
  last : Nat := 0
  deriving DecidableEq, Repr, Inhabited

/-- The network block. -/
structure Net where
  /-- event channels that differ from reset; 14 R364; reset all 0, owner 0 -/
  evs : Tbl Ev := []
  /-- Ethernet ports that differ from reset; 14 R354; reset down -/
  eths : Tbl Eth := []
  /-- device-wide Gweug port, 16 bits; 14 R374; reset 47,009 -/
  gwPort : Nat := 47009
  /-- sockets by handle 1–256; 14 R375; reset none -/
  socks : Tbl Sock := []
  /-- own index, 12 bits; 14 R377; reset unset -/
  own : Option Nat := none
  /-- fleet entries by index, 160 bytes each; 14 R377; reset none -/
  fleet : Tbl (List Byte) := []
  /-- inboxes by number; 14 R381; reset none -/
  inboxes : Tbl Inbox := []
  /-- Gweug sessions by identifier; 14 R378; reset none -/
  gws : Tbl GwSession := []
  /-- next Gweug session number, 32 bits; 14 R378 R380; reset 1 DESIGN CHOICE (log 9) -/
  nextGw : Nat := 1
  /-- transfers that this device sends; 14 R378 R380; reset none -/
  gwOut : List GwOut := []
  /-- transfers that it receives; 14 R378 R380; reset none -/
  gwIn : List GwIn := []
  deriving DecidableEq, Repr, Inhabited

/-! ### Safety (15) -/

/-- One safety event record (R405). -/
structure SafeRec where
  /-- working time, 64 bits; 15 R405 -/
  time : Nat := 0
  /-- event sequence, 32 bits; 15 R405 -/
  seq : Nat := 0
  /-- kind, 8 bits; 15 R405 -/
  kind : Nat := 0
  /-- channel type, 8 bits; 15 R405 -/
  ctype : Nat := 0
  /-- channel index, 8 bits; 15 R405 -/
  index : Nat := 0
  /-- action, 8 bits; 15 R405 -/
  action : Nat := 0
  /-- context, 16 bits; 15 R405 -/
  ctx : Nat := 0xFFFF
  /-- score after the event, 8 bits; 15 R405 -/
  score : Nat := 0
  /-- detail, 32 bits; 15 R405 -/
  detail : Nat := 0
  /-- location, 64 bits; 15 R405 -/
  location : Nat := 0
  deriving DecidableEq, Repr, Inhabited

/-- A fault channel, keyed by type × 64 + index (R392). -/
structure FaultCh where
  /-- contributions to the score: (weight, working time at which it leaks away); 15 R393; reset none -/
  contrib : List (Nat × Nat) := []
  /-- transients, 16 bits; 15 R392 R393 R410; reset 0 -/
  transients : Nat := 0
  /-- unchecked rows, 16 bits; 15 R392 R393 R410; reset 0 -/
  unchecked : Nat := 0
  /-- last event, working time; 15 R392 R393 R410; reset 0 -/
  last : Nat := 0
  /-- retired, 1 bit; 15 R392 R393 R410; reset 0 -/
  retired : Bool := false
  /-- SAFE_RETIRE packets and retirement due at the end of the leg or transfer in progress (R397) -/
  due : Bool := false
  /-- SAFE_RETIRE packets that wait; 15 R392 R393 R410; reset none -/
  retirePkts : List Pkt := []
  deriving DecidableEq, Repr, Inhabited

/-- The settings of SAFE_CONFIG (R409). -/
structure SafeCfg where
  /-- self-test interval in ms, 16 bits; 15 R409; reset 100 -/
  intervalMs : Nat := 100
  /-- leak time in s, 16 bits; 15 R409; reset 10 -/
  leakS : Nat := 10
  /-- retirement threshold, 8 bits; 15 R409; reset 48 -/
  threshold : Nat := 48
  /-- retry once, 1 bit; 15 R409; reset 1 -/
  retry : Bool := true
  /-- weight of a computation error, 8 bits; 15 R409; reset 16 -/
  wCompute : Nat := 16
  /-- weight of a corrected word, 8 bits; 15 R409; reset 1 -/
  wCorrected : Nat := 1
  /-- weight of an uncorrectable word, 8 bits; 15 R409; reset 16 -/
  wUncorrectable : Nat := 16
  /-- weight of a soft link error, 8 bits; 15 R409; reset 1 -/
  wSoft : Nat := 1
  /-- weight of a hard link error, 8 bits; 15 R409; reset 4 -/
  wHard : Nat := 4
  /-- weight of a watchdog, 8 bits; 15 R409; reset 16 -/
  wWatchdog : Nat := 16
  /-- weight of a loss, 8 bits; 15 R409; reset 16 -/
  wLoss : Nat := 16
  /-- signal mask, 32 bits; 15 R409; reset 0x00347404 -/
  mask : Nat := 0x00347404
  deriving DecidableEq, Repr, Inhabited

/-- The self-test pass of a unit (R401–R403), keyed as its fault channel. -/
structure SelfTest where
  /-- slices done in the pass under way -/
  slice : Nat := 0
  /-- a slice runs now -/
  running : Bool := false
  /-- completion time of the previous pass -/
  last : Nat := 0
  /-- a pass is due at the next admissible point whatever the interval (R395) -/
  forced : Bool := false
  /-- its interval has run out, 1 bit; 15 R401 R403; reset 0 -/
  degraded : Bool := false
  /-- SAFE_SELFTEST packets that wait for the pass -/
  pkts : List Pkt := []
  deriving DecidableEq, Repr, Inhabited

/-- The safety pair's state. -/
structure Safe where
  /-- fault channels that differ from reset; 15 R392; reset score 0, in service -/
  chans : Tbl FaultCh := []
  /-- contributions to the device score; 15 R399; reset none -/
  device : List (Nat × Nat) := []
  /-- newest 1,024 event records, oldest first; 15 R405; reset empty -/
  log : List SafeRec := []
  /-- event number issued last, 32 bits; 15 R405; reset 0 (the next is 1) -/
  seq : Nat := 0
  /-- the SAFE_CONFIG record; 15 R400 R409; reset R409's defaults -/
  cfg : SafeCfg := {}
  /-- self-test passes by unit; 15 R401; reset none -/
  tests : Tbl SelfTest := []
  /-- SAFE_INJECT packets that wait for the unit's boundary; 15 R408; reset none -/
  injects : List Pkt := []
  /-- safe state; 15 R407; reset no -/
  safeState : Bool := false
  /-- SAFE_FAULT_N asserted by an event of the mask; 15 R406; reset no -/
  signalled : Bool := false
  /-- working time of the last assertion; 15 R406; reset 0 -/
  signalledAt : Nat := 0
  /-- available standby pair, and pairs taken out of use; 15 R400; reset true, 0 -/
  standby : Bool := true
  /-- lockstep pairs out of use, 0–3; 15 R400 R409; reset 0 -/
  pairsOut : Nat := 0
  /-- a takeover in progress: true of the safety role; 15 R400; reset none -/
  takeover : Option Bool := none
  /-- the page that was moving when the safe state was entered has moved; 15 R407; reset no -/
  moveDone : Bool := false
  /-- working times of mismatches of the last 10 s by pair (0 command, 1 safety, 2 standby); 15 R400; reset none -/
  mismatches : List (Nat × Nat) := []
  deriving DecidableEq, Repr, Inhabited

/-! ### Power (16), start-up and security (17), pins (18) -/

/-- Power states of R412; the codes are 0–4 in this order. -/
inductive PState where
  | run | trim | moor | sample | dormant
  deriving DecidableEq, Repr, Inhabited

/-- A move between power states under way (R413, R415). -/
structure PMove where
  /-- target state; 16 R413 R415 -/
  target : PState := .run
  /-- state it left; 16 R413 R415 -/
  origin : PState := .run
  deriving DecidableEq, Repr, Inhabited

/-- Power states, wake sources and the governor. -/
structure Power where
  /-- power state code; 16 R412; reset Run (0) -/
  state : PState := .run
  /-- the move under way (R413); 16; reset none -/
  move : Option PMove := none
  /-- moves since power-on reset, 64 bits; 16 R429; reset 0 -/
  moves : Nat := 0
  /-- wake record: time, source, aux, state left; 16 R429; reset 0 -/
  wakeTime : Nat := 0
  /-- wake source, 8 bits (R429); 16; reset 0 -/
  wakeSrc : Nat := 0
  /-- wake aux word, 32 bits (R429); 16; reset 0 -/
  wakeAux : Nat := 0
  /-- state before the wake, 3 bits (R429); 16; reset 0 -/
  wakeFrom : Nat := 0
  /-- floor of PWR_POLICY (code 0, 2, 3, 4); 16 R414; reset Run (0) -/
  floor : Nat := 0
  /-- NET_DROP, 1 bit (R414); 16; reset DESIGN CHOICE 0 (log 5) -/
  netDrop : Bool := false
  /-- dormant delay, s, 0 never; 16 R429; reset DESIGN CHOICE 0 (log 5) -/
  dormantS : Nat := 0
  /-- PWR_WAKE bytes 16–21; 16 R429; reset DESIGN CHOICE 0 (log 5) -/
  i2c : Nat := 0
  /-- NACK, 1 bit (R418); 16; reset DESIGN CHOICE 0 (log 5) -/
  nack : Bool := false
  /-- AON_GPIO wake enables, 8 bits (R417); 16; reset DESIGN CHOICE 0 (log 5) -/
  gpioEn : Nat := 0
  /-- AON_GPIO polarities, 8 bits (R417); 16; reset DESIGN CHOICE 0 (log 5) -/
  gpioPol : Nat := 0
  /-- AON_GPIO edge rather than level, 8 bits (R417); 16; reset DESIGN CHOICE 0 (log 5) -/
  gpioEdge : Nat := 0
  /-- PWR_WAKE flags, 4 bits (R419, R429); 16; reset DESIGN CHOICE 0 (log 5) -/
  wakeFlags : Nat := 0
  /-- AON_GPIO0–7 levels (pins); 18 R457; reset 0 (pull-down) -/
  gpio : Nat := 0
  /-- PWR_ENTER pending: state code and deadline; ENTER_LAPSED; 16 R429; reset none -/
  enter : Option (Nat × Nat) := none
  /-- the last PWR_ENTER lapsed, 1 bit (R429); 16; reset 0 -/
  lapsed : Bool := false
  /-- cap of PWR_CAP, W; 16 R423; reset DESIGN CHOICE 60 (log 5) -/
  cap : Nat := 60
  /-- P0 floor point; 16 R425; reset 6 -/
  p0Floor : Nat := 6
  /-- thermal cap, W; 16 R427; reset 60 -/
  thermal : Nat := 60
  /-- power of each of the last 100 ms, mW, oldest first; 16 R423 R429; reset empty (nothing measured) -/
  samples : List Nat := []
  /-- hottest reading, 0.25 °C; 16 R426; reset 0 (nothing measured) -/
  hottest : Int := 0
  /-- throttling steps in force: P3 shed, and the points of levels P2, P1, P0; 16 R425; reset none -/
  p3Shed : Bool := false
  /-- operating point of P2, 0–6 (R426); 16; reset 6 -/
  pt2 : Nat := 6
  /-- operating point of P1, 0–6 (R426); 16; reset 6 -/
  pt1 : Nat := 6
  /-- operating point of P0, 0–6 (R426); 16; reset 6 -/
  pt0 : Nat := 6
  /-- critical step in force, 1 bit (R428); 16; reset 0 -/
  critical : Bool := false
  /-- thermal trip in force, 1 bit (R428); 16; reset 0 -/
  tripped : Bool := false
  /-- a trip since power-on reset, 1 bit (R428); 16; reset 0 -/
  trippedEver : Bool := false
  /-- 100 ms windows above the cap, 32 bits wrapping; 16 R425 R429; reset 0 -/
  excess : Nat := 0
  /-- ms of the running 100 ms window, and the sum of their power, mW; 16 R423; reset 0 -/
  winMs : Nat := 0
  /-- power sum of the window in mW (R425); 16; reset 0 -/
  winSum : Nat := 0
  /-- working time since which Moor or Sample has seen no wake; 16 R413; reset 0 -/
  quietFrom : Nat := 0
  /-- held pad groups, 6 bits; auto-release mask; 16 R420 R421; reset none held, DESIGN CHOICE 0 (log 5) -/
  held : Nat := 0
  /-- automatic release mask, 6 bits (R421); 16; reset DESIGN CHOICE 0 (log 5) -/
  autoPads : Nat := 0
  deriving DecidableEq, Repr, Inhabited

/-- One entry of the start journal (R436). -/
structure JEntry where
  /-- step, 8 bits; 17 R436 -/
  step : Nat := 1
  /-- method, 8 bits; 17 R436 -/
  method : Nat := 0
  /-- result, 8 bits; 17 R436 -/
  result : Nat := 0
  /-- failed units, 32 bits; 17 R436 -/
  units : Nat := 0
  /-- status code, 8 bits; 17 R436 -/
  status : Nat := 0
  /-- detail, 32 bits; 17 R436 -/
  detail : Nat := 0
  /-- working time, 64 bits; 17 R436 -/
  time : Nat := 0
  deriving DecidableEq, Repr, Inhabited

/-- One start of the journal (R436). -/
structure Start where
  /-- start number, 32 bits; 17 R436 -/
  number : Nat := 0
  /-- cause, 8 bits; 17 R436 -/
  cause : Nat := 0
  /-- boot source, 8 bits; 17 R436 -/
  source : Nat := 0
  /-- slot, 8 bits; 17 R436 -/
  slot : Nat := 0
  /-- failed starts before it, 8 bits; 17 R436 -/
  failed : Nat := 0
  /-- result, 8 bits; 17 R436 -/
  result : Nat := 0
  /-- working time, 64 bits; 17 R436 -/
  time : Nat := 0
  /-- its entries; 17 R436 -/
  entries : List JEntry := []
  deriving DecidableEq, Repr, Inhabited

/-- Where a start stands. -/
inductive BootPhase where
  /-- in reset, or waiting for the 25 MHz count (R477) -/
  | reset
  /-- step under way (R433) -/
  | step (n : Nat)
  /-- waits for a host image (R432, R435) -/
  | hostWait
  | ready
  deriving DecidableEq, Repr, Inhabited

/-- A Bridle image in a slot (R438). -/
structure Image where
  /-- firmware version, 32 bits; 17 R438; reset that of the NOR (Config) -/
  fwver : Nat := 0
  /-- security version, 32 bits; 17 R438; reset that of the NOR (Config) -/
  secver : Nat := 0
  /-- SHA-512 of header and body; 17 R438; reset that of the NOR (Config) -/
  digest : BitVec 512 := 0
  deriving DecidableEq, Repr, Inhabited

/-- A configuration record (R440). -/
structure Record where
  /-- version, 32 bits; 17 R440 -/
  version : Nat := 0
  /-- policies, 16 bits; 17 R440 -/
  policies : Nat := 0
  /-- link mode, 8 bits; 17 R440 -/
  linkMode : Nat := 0
  /-- PDM_CLK0 code, 8 bits; 17 R440 -/
  clk0 : Nat := 0
  /-- secure element address, 8 bits; 17 R440 -/
  seAddr : Nat := 0
  /-- boot source, 8 bits, 0xFF the strap; 17 R440 -/
  bootSrc : Nat := 0xFF
  /-- binding, 8 bits; 17 R440 -/
  binding : Nat := 0
  /-- cold namespaces: controller and namespace; 17 R440 -/
  cold : List (Nat × Nat) := []
  /-- client keys, at most 32; 17 R440 -/
  keys : List ClientKey := []
  /-- key ID of the signer, 64 bits; 17 R440 -/
  signer : Nat := 0
  /-- SHA-512 of the record; 17 R440 -/
  digest : BitVec 512 := 0
  deriving DecidableEq, Repr, Inhabited

/-- Start-up, identity and update. -/
structure Boot where
  /-- where the start stands (R433); 17; reset reset -/
  phase : BootPhase := .reset
  /-- cause of the reset under way (R436 code); 17 R436; reset 0 -/
  cause : Nat := 0
  /-- method of the step under way: 0 primary, 1 alternate, 2 second alternate; 17 R435 -/
  method : Nat := 0
  /-- BOOT_SRC as sampled, source used, recovery; 17 R431 R435 R436; reset 0 -/
  strap : Nat := 0
  /-- the source is the host, 1 bit (R432); 17; reset 0 -/
  hostSrc : Bool := false
  /-- recovery start, 1 bit (R435); 17; reset 0 -/
  recovery : Bool := false
  /-- starts kept, newest last, at most 8; 17 R436; reset empty -/
  journal : List Start := []
  /-- mirror of the journal in NOR; 17 R436; reset as NOR holds it: empty -/
  mirror : List Start := []
  /-- start number, 32 bits (R436); 17; reset 0 -/
  startNo : Nat := 0
  /-- consecutive failed starts; 17 R435; reset 0 -/
  failed : Nat := 0
  /-- steps that BOOT_RETRY or a committed update named, until each has run again; 17 R435; reset none -/
  retry : List Nat := []
  /-- running image slot: 0 A, 1 B, 2 host; 03 R68; reset 0 -/
  slot : Nat := 0
  /-- preferred slot of the slot selector in NOR; 17 R437; reset 0 (as NOR holds it) -/
  prefer : Nat := 0
  /-- images in NOR by slot that an update has written; 17 R437; reset none: Config gives the contents -/
  images : Tbl Image := []
  /-- configuration record copies in NOR; 17 R437; reset none (as NOR holds it) -/
  copies : Tbl Record := []
  /-- record in force; 17 R441; reset none: defaults -/
  record : Option Record := none
  /-- REQUIRE_SE of the record last accepted; 17 R443; reset false -/
  requireSe : Bool := false
  /-- secure element: paired, floors, owner key ID; 17 R442 R443; reset unpaired, 0, 0 -/
  paired : Bool := false
  /-- firmware floor, 32 bits, in the secure element (R443); 17; reset 0 DESIGN CHOICE (log 5) -/
  fwFloor : Nat := 0
  /-- configuration floor, 32 bits, in the secure element (R443); 17; reset 0 DESIGN CHOICE (log 5) -/
  cfgFloor : Nat := 0
  /-- owner key ID, 64 bits, in the secure element (R442); 17; reset 0 DESIGN CHOICE (log 5) -/
  owner : Nat := 0
  /-- working time at which the step under way began; 17 R433; reset 0 -/
  stepFrom : Nat := 0
  /-- the image that runs; 17 R446 R448; reset none -/
  running : Image := {}
  /-- live update: the stage reached 0–5, whether it is still under way, the slot written, the image staged, and the UPD_STAGE or
  UPD_ACTIVATE that waits for it; 17 R448; reset 0 -/
  updStage : Nat := 0
  /-- a stage is under way, 1 bit (R448); 17; reset 0 -/
  updBusy : Bool := false
  /-- slot of the update, 1 bit (R448); 17; reset 0 -/
  updSlot : Nat := 0
  /-- staged image (R448); 17; reset none -/
  updImage : Image := {}
  /-- UPD_ACTIVATE that waits (R448); 17; reset none -/
  updPkt : Option Pkt := none
  /-- mode X4X4 selected by LINK_MODE since the last power-on reset: none until start step 0x03 has read it; 03 R49; reset none -/
  linkSel : Option Bool := none
  /-- units whose start step failed or was skipped (step identifiers); 17 R434; reset none -/
  missing : List Nat := []
  deriving DecidableEq, Repr, Inhabited

/-- Pins that the RY3 drives and the reset inputs. -/
structure Pins where
  /-- PORESET_N and SYSRESET_N asserted; 18 R476; reset PORESET_N just released -/
  sysreset : Bool := false
  /-- RST_OUT_N driven low; 18 R476; reset low -/
  rstOutLow : Bool := true
  /-- SAFE_STATE high; 18 R471; reset high -/
  safeState : Bool := true
  /-- SAFE_FAULT_N low; 18 R471; reset low -/
  safeFaultLow : Bool := true
  /-- PDM_CLK0 and PDM_CLK1 running, MIC_PWR_EN active; 13 R336 R349 18 R457; reset driven low -/
  pdm0 : Bool := false
  /-- PDM_CLK1 runs, 1 bit; 18 R454; reset 0 -/
  pdm1 : Bool := false
  /-- MIC_PWR_EN, 1 bit; 18 R454; reset 0 -/
  micPwr : Bool := false
  /-- I2C0 SCL held low by STRETCH; 16 R418; reset no -/
  stretch : Bool := false
  deriving DecidableEq, Repr, Inhabited

/-- The whole state of the RY3. -/
structure State where
  /-- commands that wait, first in first out: the model's queue (reset empty) -/
  pending : List Instr := []
  /-- global registers; 03 R66 -/
  glb : Glb := {}
  /-- PCIe; 03 R49–R65 -/
  link : Link := {}
  /-- contexts by handle; handle 0 is the management context; 05 R108; reset: 0 exists, tenants Closed (not listed) -/
  ctxs : Tbl Ctx := [(0, { state := .opened })]
  /-- command pair; 04 -/
  cmd : Cmd := {}
  /-- Stolp Ethernet; 04 -/
  stolp : Stolp := {}
  /-- cascade; 02 -/
  casc : Casc := {}
  /-- the Reel; 02 -/
  reel : Reel := {}
  /-- panels, gangs, plans, runs; 05, 07 -/
  sched : Sched := {}
  /-- key-value cache, streams, statistics; 06, 09, 10 -/
  models : Models := {}
  /-- memory; 11 -/
  store : Store := {}
  /-- cameras; 12 -/
  cams : Cams := {}
  /-- audio; 13 -/
  audio : Audio := {}
  /-- Timekeeper; 14 -/
  time : Time := {}
  /-- network; 14 -/
  net : Net := {}
  /-- safety pair; 15 -/
  safe : Safe := {}
  /-- power; 16 -/
  power : Power := {}
  /-- start, identity, update; 17 -/
  boot : Boot := {}
  /-- pins; 18 -/
  pins : Pins := {}
  /-- what has left the device, oldest first: the model's own trace of its outputs (reset empty) -/
  out : List Out := []
  /-- number of the next free value: the model's own counter (reset DESIGN CHOICE 0, log 3) -/
  freeCtr : Nat := 0
  deriving DecidableEq, Repr, Inhabited

/-- The machine right after power-on reset, before boot ROM starts (R466, R477): every field at its default. -/
def State.reset : State :=
  { sched := { gangs := [(0, {})] } }

end Sys2Proof.Machine
end

