-- ==== Sys2Proof/Machine/Bits.lean ====
section
/-! DEFINITION. Byte strings, bit fields and keyed tables: the helpers that every later file uses. -/

namespace Sys2Proof.Machine

/-- The number that bytes spell, byte 0 least significant (R7). -/
def leNat : List Byte → Nat
  | [] => 0
  | b :: t => b.toNat + 256 * leNat t

/-- `n` bytes of `k`, byte 0 least significant (R7). -/
def toLE : Nat → Nat → List Byte
  | 0, _ => []
  | n + 1, k => BitVec.ofNat 8 k :: toLE n (k / 256)

/-- The number that bytes spell, first byte most significant. -/
def beNat (bs : List Byte) : Nat := leNat bs.reverse

/-- `n` bytes from offset `off`; bytes past the end read as 0. -/
def slice (bs : List Byte) (off n : Nat) : List Byte :=
  let t := (bs.drop off).take n
  t ++ List.replicate (n - t.length) 0

/-- The little-endian number of `n` bytes at offset `off`. -/
def num (bs : List Byte) (off n : Nat) : Nat := leNat (slice bs off n)

/-- Bits `hi` down to `lo` of `k`. -/
def bits (k hi lo : Nat) : Nat := (k >>> lo) % 2 ^ (hi + 1 - lo)

/-- 1 for true. -/
def b2n (b : Bool) : Nat := if b then 1 else 0

/-- The integer that the `w` low bits of `k` spell in two's complement. -/
def signed (w k : Nat) : Int := if k.testBit (w - 1) then (k % 2 ^ w : Int) - (2 ^ w : Int) else (k % 2 ^ w : Int)

/-- The `w` low bits of the two's complement of `i`. -/
def unsigned (w : Nat) (i : Int) : Nat := (i % (2 ^ w : Int)).toNat

/-- `n` saturated at the largest value of `w` bits. -/
def sat (w n : Nat) : Nat := min n (2 ^ w - 1)

/-- The mask with the bits of `l` set. -/
def maskOf (l : List Nat) : Nat := l.foldl (fun m i => m ||| (1 <<< i)) 0

/-- The bits below `w` that are set in `m`. -/
def bitsOf (w m : Nat) : List Nat := (List.range w).filter fun i => m.testBit i

/-- Replaces `new` at offset `off` of `bs`. -/
def patch (bs : List Byte) (off : Nat) (new : List Byte) : List Byte :=
  bs.take off ++ new ++ bs.drop (off + new.length)

/-- `bs` made exactly `n` bytes long: cut, or filled with zeros. -/
def fit (n : Nat) (bs : List Byte) : List Byte := slice bs 0 n

/-- Bytes rounded up to a multiple of `k`. -/
def roundUp (n k : Nat) : Nat := (n + k - 1) / k * k

/-! ### Tensor layouts (R141, R148–R150) -/

/-- Bits of a format code; 0 for a code not in the table (R141). -/
def codeBits (f : Nat) : Nat :=
  match f with
  | 0x01 => 32 | 0x02 => 16 | 0x10 => 8 | 0x11 => 4 | 0x20 => 8 | 0x21 => 8 | 0x30 => 4 | 0x31 => 3 | _ => 0

/-- Bytes of a row of `n` codes of `w` bits, padded to 16 bytes (R148). -/
def rowBytes (n w : Nat) : Nat := 16 * ((n * w + 127) / 128)

/-- Block size of a block byte: 0 none, 32, 64 or 128 (R181). -/
def blockOf (b : Nat) : Nat := if bits b 1 0 = 0 then 0 else 16 * 2 ^ bits b 1 0

/-- Bytes of a scale tensor of `r` rows of `k` elements for a block byte (R149, R150). -/
def scaleBytes (r k b : Nat) : Nat :=
  if blockOf b = 0 then 0 else r * roundUp (((k + blockOf b - 1) / blockOf b) * (if bits b 3 2 = 1 then 2 else 1)) 16

/-! ### Keyed tables -/

/-- The entry of key `k`. -/
def tget {α : Type} (t : Tbl α) (k : Nat) : Option α :=
  match t with
  | [] => none
  | (j, v) :: r => if j = k then some v else tget r k

/-- Sets the entry of key `k`, keeping the keys in rising order. -/
def tput {α : Type} (t : Tbl α) (k : Nat) (v : α) : Tbl α :=
  match t with
  | [] => [(k, v)]
  | (j, w) :: r =>
    if k < j then (k, v) :: (j, w) :: r
    else if k = j then (k, v) :: r
    else (j, w) :: tput r k v

/-- Removes the entry of key `k`. -/
def tdel {α : Type} (t : Tbl α) (k : Nat) : Tbl α := t.filter fun e => e.1 != k

/-- Whether key `k` has an entry. -/
def thas {α : Type} (t : Tbl α) (k : Nat) : Bool := (tget t k).isSome

/-- The entry of key `k`, or the default (the reset value of a field's type). -/
def tgetD {α : Type} [Inhabited α] (t : Tbl α) (k : Nat) : α := (tget t k).getD default

/-- Changes the entry of key `k`, starting from the default where it has none. -/
def tmod {α : Type} [Inhabited α] (t : Tbl α) (k : Nat) (f : α → α) : Tbl α := tput t k (f (tgetD t k))

/-- Changes the entry of key `k` where it has one. -/
def tupd {α : Type} (t : Tbl α) (k : Nat) (f : α → α) : Tbl α :=
  match tget t k with
  | some v => tput t k (f v)
  | none => t

/-- The keys in rising order. -/
def tkeys {α : Type} (t : Tbl α) : List Nat := t.map Prod.fst

/-- The lowest key from `k` up to `hi` that has no entry, looking at `fuel` keys. -/
def freeKeyFrom {α : Type} (t : Tbl α) (hi : Nat) : Nat → Nat → Option Nat
  | 0, _ => none
  | fuel + 1, k => if hi < k then none else if thas t k then freeKeyFrom t hi fuel (k + 1) else some k

/-- The lowest key from `lo` up to `hi` that has no entry (DESIGN CHOICE, log 9: the spec leaves open which is taken). -/
def freeKey {α : Type} (t : Tbl α) (lo hi : Nat) : Option Nat := freeKeyFrom t hi (t.length + 1) lo

/-- Maps every entry. -/
def tmap {α β : Type} (t : Tbl α) (f : Nat → α → β) : Tbl β := t.map fun e => (e.1, f e.1 e.2)

/-- Keeps the entries that satisfy `f`. -/
def tkeep {α : Type} (t : Tbl α) (f : Nat → α → Bool) : Tbl α := t.filter fun e => f e.1 e.2

/-! ### Sparse memory -/

/-- The byte at address `a`; an unlisted byte is 0 (log 7). -/
def memGet (m : Mem) (a : Nat) : Byte := (tget m a).getD 0

/-- Stores one byte, keeping the canonical form. -/
def memSet (m : Mem) (a : Nat) (b : Byte) : Mem := if b = 0 then tdel m a else tput m a b

/-- `n` bytes from address `a`. -/
def memRead (m : Mem) (a n : Nat) : List Byte := (List.range n).map fun i => memGet m (a + i)

/-- Stores bytes from address `a` up. -/
def memWrite (m : Mem) (a : Nat) : List Byte → Mem
  | [] => m
  | b :: t => memWrite (memSet m a b) (a + 1) t

/-- Fills `n` bytes from address `a` with zeros. -/
def memZero (m : Mem) (a n : Nat) : Mem := m.filter fun c => c.1 < a || a + n ≤ c.1

/-- The cells of `n` bytes from `a`, as cells from `b`. -/
def memCells (m : Mem) (a n b : Nat) : Mem :=
  (m.filter fun c => a ≤ c.1 && c.1 < a + n).map fun c => (c.1 - a + b, c.2)

/-- Puts cells into memory. -/
def memPutCells (m : Mem) : Mem → Mem
  | [] => m
  | (a, b) :: t => memPutCells (memSet m a b) t

/-- Copies `n` bytes from address `a` of `src` to address `b` of `m`. -/
def memCopyFrom (src m : Mem) (a n b : Nat) : Mem := memPutCells (memZero m b n) (memCells src a n b)

/-- Puts `x` before the first entry that it may precede. -/
def insertBy {α : Type} (le : α → α → Bool) (x : α) : List α → List α
  | [] => [x]
  | y :: t => if le x y then x :: y :: t else y :: insertBy le x t

/-- A list in rising order; equal entries keep their order. -/
def sortBy {α : Type} (le : α → α → Bool) : List α → List α
  | [] => []
  | x :: t => insertBy le x (sortBy le t)

/-- The canonical form: addresses strictly rising, no listed byte equal to 0. -/
def Memory.wf (m : Mem) : Bool :=
  match m with
  | [] => true
  | [(_, b)] => b != 0
  | (a, b) :: (a', b') :: t => b != 0 && a < a' && Memory.wf ((a', b') :: t)

end Sys2Proof.Machine
end

