-- ==== Sys2Proof/Machine/WordCode.lean ====
section
/-! DEFINITION. The word code of every memory and link (11, R291–R296). -/

namespace Sys2Proof.Machine

/-- XOR of a list of bits. -/
def parity (l : List Bool) : Bool := l.foldl xor false

/-- Address tag of a word by its word address, the physical address bits 39:4 (R292). -/
def wordTag (w : Nat) : Nat := ((List.range 7).map fun i =>
    if parity (((List.range 36).filter (· % 7 == i)).map w.testBit) then 2 ^ i else 0).foldl (· + ·) 0

/-- Hamming position of covered bit `k` (R293). -/
def hamPos (k : Nat) : Nat :=
  if k = 0 then 3 else if k ≤ 3 then k + 4 else if k ≤ 10 then k + 5 else if k ≤ 25 then k + 6 else if k ≤ 56 then k + 7
  else if k ≤ 119 then k + 8 else k + 9

/-- Check bits c0 to c7 of the 135 covered bits (R293). -/
def wordCheck (cov : Nat) : Nat := ((List.range 135).filter cov.testBit).foldl (fun s k => s ^^^ hamPos k) 0

/-- Parity of the low `n` bits of a number. -/
def parityOf (n x : Nat) : Bool := parity ((List.range n).map x.testBit)

/-- The stored word of 128 data bits at a word address: data, tag, complemented check bits and parity (R291–R293). -/
def wordEnc (d w : Nat) : Nat :=
  let cov := d % 2 ^ 128 + wordTag w * 2 ^ 128
  let c := wordCheck cov
  let p := parityOf 143 (cov + c * 2 ^ 135)
  cov + (255 - c) * 2 ^ 135 + b2n (!p) * 2 ^ 143

/-- What a consumer finds in a stored word (R294). -/
inductive WordState where
  | clean | corrected | uncorrectable | address
  deriving DecidableEq, Repr

/-- The syndrome of a stored word and the parity of its 144 uncomplemented bits (R294). -/
def wordSyndrome (x : Nat) : Nat × Bool :=
  let y := x ^^^ (511 * 2 ^ 135)
  (y / 2 ^ 135 % 256 ^^^ wordCheck (y % 2 ^ 135), parityOf 144 y)

/-- The covered bits of a stored word with a wrong bit put right, where its syndrome names one (R294). -/
def wordCovBits (x : Nat) : Nat :=
  let (s, q) := wordSyndrome x
  let y := x % 2 ^ 135
  if q && s != 0 then
    match (List.range 135).find? fun k => hamPos k == s with
    | some k => y ^^^ 2 ^ k
    | none => y
  else y

/-- What the consumer of a stored word read at word address `w` finds (R294): the tag is compared after a correction. -/
def wordDec (x w : Nat) : WordState :=
  let (s, q) := wordSyndrome x
  let ok := wordCovBits x / 2 ^ 128 == wordTag w
  if s == 0 && !q then (if ok then .clean else .address)
  else if q && s ≤ 143 then (if ok then .corrected else .address)
  else .uncorrectable

/-- The poisoned word of a word address: data 0, its tag, c0 and c1 inverted (R296). -/
def poisonWord (w : Nat) : Nat := wordEnc 0 w ^^^ (3 * 2 ^ 135)

/-- A word as an engine places it at a new address: its tag, C and P change by what the tags' difference gives (R295). -/
def wordMoved (x w w' : Nat) : Nat := x ^^^ wordEnc 0 w ^^^ wordEnc 0 w'

/-! ### Where a word lies in its channel's LPDDR5X (R12, R287) -/

/-- Byte of the channel's LPDDR5X that holds data byte `x` of its data space: blocks of 512 data bytes occupy 576 bytes each (R287). -/
def inlineByte (x : Nat) : Nat := x / 512 * 576 + x % 512

/-- Byte of the channel's LPDDR5X from which the 16 check bits of the word at data byte `x` lie: word k of a block has bits 16k+15 to 16k of
its check burst (R287). -/
def inlineCheck (x : Nat) : Nat := x / 512 * 576 + 512 + 2 * (x % 512 / 16)

/-- The check burst of a block of 32 stored words, as a number of 512 bits (R287). -/
def checkBurst (ws : List Nat) : Nat := (ws.mapIdx fun k x => x / 2 ^ 128 * 2 ^ (16 * k)).sum

end Sys2Proof.Machine
end

