-- ==== Sys2Proof/Machine/Ops.lean ====
section
/-! DEFINITION. The shared operations of the block: contexts, translation, memory, event flags, messages, status replies. -/

namespace Sys2Proof.Machine

/-- Outcome of one command. -/
abbrev Res := Host.Outcome State Fault Refusal

/-! ### Contexts -/

/-- The context of handle `h`; a handle never opened reads as Closed (R108). -/
def ctxOf (s : State) (h : Nat) : Ctx := tgetD s.ctxs h

/-- Changes context `h`. -/
def modCtx (h : Nat) (f : Ctx → Ctx) (s : State) : State := { s with ctxs := tmod s.ctxs h f }

/-- Open or Sealed (R108); the management context exists at handle 0. -/
def ctxLive (s : State) (h : Nat) : Bool := (ctxOf s h).state == .opened || (ctxOf s h).state == .sealed

/-- Torn down or Closing (R108). -/
def ctxDown (s : State) (h : Nat) : Bool := (ctxOf s h).state == .tornDown || (ctxOf s h).state == .closing

/-- State code of CTX_QUERY (R136). -/
def ctxStateCode : CtxState → Nat
  | .closed => 0 | .opened => 1 | .sealed => 2 | .tornDown => 3 | .closing => 4

/-- Management ring enabled (R72). -/
def mringOn (s : State) : Bool := s.glb.mring.getLsbD 31

/-- Level of a packet of queue `q` of context `h`: the queue's level, lowered to the ceiling (R117, R121); management P1. -/
def queueLevel (s : State) (h q : Nat) : Nat :=
  let c := ctxOf s h
  if h = 0 then 1
  else max c.quota.ceiling (if q = 8 then c.netLevel else ((tget c.queues q).map Queue.level).getD 3)

/-- The Timekeeper and the other islands of Run are powered (R412). -/
def keeperOn (s : State) : Bool := s.power.state == .run || s.power.state == .trim

/-- Working time after `k` ticks of the 32.768 kHz oscillator, counted from its first: ⌊k × 10^9 / 32,768⌋ ns (R17). -/
def oscNs (k : Nat) : Nat := k * 10 ^ 9 / 32768

/-- The size of what `d` ns take off a residual of `e` ns (R361): 100 ppm of the time down to 100 ns, below that what the domain's servo noise
makes of it, which is open; never more than the residual. -/
def slewSize (e d : Nat) : Nat :=
  let m := d / 10000
  if e = 0 then 0
  else if e < m + 100 then (e - 99) + Config.servo e d % (min m e - (e - 99) + 1)
  else m

/-- The part of residual `e` that `d` ns remove: at most 100 ppm, never past 0 (R361). -/
def slewOf (e : Int) (d : Nat) : Int := if e < 0 then -(slewSize e.natAbs d : Int) else (slewSize e.natAbs d : Int)

/-- Rate of working time against the 25 MHz reference, parts per 10^9, but for the removal of a residual (R361, R363): that of the selected
domain; in holdover the last one; the reference's own before the first selection. -/
def baseRate (s : State) : Int := if s.time.sel = 0 then s.time.domA.rate else if s.time.sel = 1 then s.time.domB.rate else s.time.rate

/-- A domain's offset against working time after `d` ns in which working time ran at rate `r` and gained `x` ns besides: both move it. The
estimates from which its lock is judged go along, so that neither slewing nor another domain's rate unlocks a domain (DEDUCED, log 31). -/
def slewDomain (x r : Int) (d : Nat) (o : Domain) : Domain :=
  let by_ := 65536 * (d : Int) * (o.rate - r) / 10 ^ 9 - 65536 * x
  { o with offset := o.offset + by_, recent := o.recent.map (· + by_) }

/-- Slews while `d` ns pass: while a domain is selected, its residual shrinks by what working time gains on both domains (R361). -/
def slewFor (d : Nat) (s : State) : State :=
  let x := if s.time.sel < 2 then slewOf s.time.residual d else 0
  { s with
    time.residual := s.time.residual - x
    time.domA := slewDomain x (baseRate s) d s.time.domA
    time.domB := slewDomain x (baseRate s) d s.time.domB }

/-- Working time moves forward to `t` if it is earlier (a timed event comes no earlier than its time). The oscillator's ticks on the
way are counted; while Mooring carries working time, it moves by whole ticks alone, to the first one at or after `t` (R17). -/
def elapseTo (t : Nat) (s : State) : State :=
  if s.time.now < t then
    let d := t - s.time.now
    let from_ := oscNs s.time.ticks
    if keeperOn s then
      let goal := from_ + s.time.phase + d
      let k := ((goal + 1) * 32768 - 1) / 10 ^ 9
      slewFor d { s with time.now := t, time.ticks := k, time.phase := goal - oscNs k }
    else
      let k := ((from_ + d) * 32768 + 10 ^ 9 - 1) / 10 ^ 9
      { s with time.now := s.time.now + (oscNs k - from_), time.ticks := k, time.phase := 0 }
  else s

/-- Takes the next free value (log 3). -/
def takeFree (s : State) : Nat × State := (Config.free s.freeCtr, { s with freeCtr := s.freeCtr + 1 })

/-! ### Device memory (R284, R285) -/

/-- Frames per DRAM channel (R284). -/
def framesPerChannel : Nat := if Config.mem64 then 58254 else 29127

/-- Base of DRAM channel windows (R284). -/
def dramBase : Nat := 0x1000000000

/-- DRAM channel of a physical address, if it lies in a channel window (R284). -/
def dramChannel (a : Nat) : Option Nat :=
  if dramBase ≤ a ∧ a < dramBase + 16 * 0x100000000 then some ((a - dramBase) / 0x100000000) else none

/-- Frame of a physical address within its channel (R284). -/
def dramFrame (a : Nat) : Nat := ((a - dramBase) % 0x100000000) / 65536

/-- Bytes of the leasable state store (R284). -/
def storeBytes : Nat := 24320 * 1024

/-- Whether channel `c` is retired (R308). -/
def chRetired (s : State) (c : Nat) : Bool := (tgetD s.store.channels c).state == 2

/-- Owner under which the table of frames keeps the frames to which the firmware region has migrated (R307); no context has this handle. -/
def fwOwner : Nat := 1024

/-- Whether a BAR2 access reaches physical byte `a` (R285): neither the firmware region nor a firmware-only, reserved or
retired address. -/
def windowUsable (s : State) (a : Nat) : Bool :=
  match dramChannel a with
  | some c =>
    128 ≤ dramFrame a && dramFrame a < framesPerChannel && !chRetired s c && tget s.store.frames (a / 65536) != some fwOwner
  | none => a < storeBytes

/-- Whether the map of R284 gives physical address `a` no contents: an access is an address fault. -/
def addrReserved (a : Nat) : Bool :=
  match dramChannel a with
  | some _ => framesPerChannel ≤ dramFrame a
  | none =>
    !(a < 0x1800000 || (0x2000000 ≤ a && a < 0x6400000) || (0x8000000 ≤ a && a < 0x8800000) || (0x9000000 ≤ a && a < 0x9200000))

/-- What a consumer of the word at physical byte `a` finds (R294). -/
def wordAt (s : State) (a : Nat) : WordState :=
  match tget s.store.words (a / 16) with
  | none => .clean
  | some x => wordDec x (a / 16)

/-- Whether a consumer of the word finds it uncorrectable or with an address error (R296). -/
def wordBad (s : State) (a : Nat) : Bool := wordAt s a == .uncorrectable || wordAt s a == .address

/-- Whether the 16-byte word of byte `a` lies wholly in the `n` bytes from `from_`. -/
def wordCovered (from_ n a : Nat) : Bool := from_ ≤ a / 16 * 16 && a / 16 * 16 + 16 ≤ from_ + n

/-- Physical bytes that a consumer reads: a poisoned word reads as zeros of undefined use; the caller checks `physBad`. -/
def physRead (s : State) (a n : Nat) : List Byte := memRead s.store.mem a n

/-- The failed words that `n` bytes from `a` touch (R297). -/
def physBad (s : State) (a n : Nat) : List Nat :=
  (tkeys s.store.words).filter fun w => w * 16 < a + n && a < w * 16 + 16 && wordBad s (w * 16)

/-- The corrected words that `n` bytes from `a` touch (R297). -/
def physCorrected (s : State) (a n : Nat) : List Nat :=
  (tkeys s.store.words).filter fun w => w * 16 < a + n && a < w * 16 + 16 && wordAt s (w * 16) == .corrected

/-- Writes physical bytes (R296): a write that covers part of a failed word is discarded for that word; every other write
stores its bytes, and a word that it covers whole, or reads corrected and rewrites, is good from then on. -/
def physWrite (a : Nat) (bs : List Byte) (s : State) : State :=
  let n := bs.length
  let keep := fun x => !(wordBad s x) || wordCovered a n x
  let cells := (List.range n).filter fun i => keep (a + i)
  let mem := cells.foldl (fun m i => memSet m (a + i) (bs.getD i 0)) s.store.mem
  let touched := fun w => decide (w * 16 < a + n) && decide (a < w * 16 + 16)
  { s with
    store.mem := mem
    store.words := tkeep s.store.words fun w _ => !(touched w) || (wordBad s (w * 16) && !wordCovered a n (w * 16)) }

/-- Zeros over `n` physical bytes (R120): every word of them is good afterwards. -/
def physZero (a n : Nat) (s : State) : State :=
  { s with
    store.mem := memZero s.store.mem a n
    store.words := tkeep s.store.words fun w _ => !(decide (a ≤ w * 16) && decide (w * 16 + 16 ≤ a + n)) }

/-! ### Translation (R111–R115) -/

/-- Where a context-virtual byte lies. -/
inductive Loc where
  | dev (a : Nat)
  | host (key : Nat)
  deriving DecidableEq, Repr

/-- Key of a host address in the host memory of context `h`: requests of a tenant carry its PASID (R65). -/
def hostKey (s : State) (h a : Nat) : Nat := if h = 0 then a % 2 ^ 64 else ((ctxOf s h).pasid + 1) * 2 ^ 64 + a % 2 ^ 64

/-- The leaf that maps virtual address `va` of context `h` (R113). -/
def leafOf (s : State) (h va : Nat) : Option Leaf := tget (ctxOf s h).pages (va / 65536)

/-- Translation of one byte (R111). -/
def locate (s : State) (h va : Nat) : Option Loc :=
  (leafOf s h va).map fun l =>
    if l.host then .host (hostKey s h (l.frame * 65536 + va % 65536)) else .dev (l.frame * 65536 + va % 65536)

/-- The virtual pages that `n` bytes from `va` touch. -/
def pagesOf (va n : Nat) : List Nat :=
  if n = 0 then [] else (List.range ((va + n - 1) / 65536 + 1 - va / 65536)).map (· + va / 65536)

/-- Every page of the range is mapped, and the address has 48 bits (R111, R114). -/
def rangeMapped (s : State) (h va n : Nat) : Bool :=
  va < 2 ^ 48 && (pagesOf va n).all fun p => thas (ctxOf s h).pages p

/-- Every mapped page of the range carries the permission (R114). -/
def rangePermits (s : State) (h va n : Nat) (write : Bool) : Bool :=
  (pagesOf va n).all fun p =>
    match tget (ctxOf s h).pages p with
    | some l => if write then l.write else l.read
    | none => true

/-- Whether a page of the range is host memory (R113). -/
def rangeHost (s : State) (h va n : Nat) : Bool :=
  (pagesOf va n).any fun p => match tget (ctxOf s h).pages p with | some l => l.host | none => false

/-- One byte of a context's memory; an unmapped byte reads 0 (its access has faulted before, R115). -/
def vbyte (s : State) (h va : Nat) : Byte :=
  match locate s h va with
  | some (.dev a) => memGet s.store.mem a
  | some (.host k) => memGet s.store.host k
  | none => 0

/-- `n` bytes of a context's memory. -/
def vread (s : State) (h va n : Nat) : List Byte := (List.range n).map fun i => vbyte s h (va + i)

/-- The pieces of a virtual range, one for each page: the page's leaf, the virtual start, the length. -/
def vpieces (s : State) (h va n : Nat) : List (Leaf × Nat × Nat) :=
  (pagesOf va n).filterMap fun p =>
    (tget (ctxOf s h).pages p).map fun l =>
      let lo := max va (p * 65536)
      (l, lo, min (va + n) ((p + 1) * 65536) - lo)

/-- The failed words that a virtual range holds, by physical word address (R297). -/
def vbad (s : State) (h va n : Nat) : List Nat :=
  ((vpieces s h va n).map fun (l, lo, k) => if l.host then [] else physBad s (l.frame * 65536 + lo % 65536) k).flatten

/-- The corrected words of a virtual range. -/
def vcorrected (s : State) (h va n : Nat) : List Nat :=
  ((vpieces s h va n).map fun (l, lo, k) => if l.host then [] else physCorrected s (l.frame * 65536 + lo % 65536) k).flatten

/-- The failed words of which a write of the range covers only a part: it reads them as a consumer does (R296). -/
def vedge (s : State) (h va n : Nat) : List Nat :=
  ((vpieces s h va n).map fun (l, lo, k) =>
    let a := l.frame * 65536 + lo % 65536
    if l.host then [] else (physBad s a k).filter fun w => !wordCovered a k (w * 16)).flatten

/-- Code of the request that consumes the word at physical word address `w` (R297). -/
def wordCode (w : Nat) : Code := if (dramChannel (w * 16)).isSome then .eLowerTier else .eTransient

/-! ### Messages and event flags (R63, R64, R70, R71, R73) -/

/-- Word `i` of the MSI-X table; vector control resets to 1, masked (R481). -/
def msixWord (s : State) (i : Nat) : Word := (tget s.link.msixTable i).getD (if i % 4 = 3 then 1 else 0)

/-- Host-memory requests are held, after a link reset or by D3hot (R52, R53). -/
def held (s : State) : Bool := s.link.hold != .none || s.link.d3hold

/-- The vector's entry or the function is masked, or messages are held (R52, R53, R64). After a link reset a vector stays pending until
the hold ends even where the host has unmasked its entry before (DESIGN CHOICE, log 50). -/
def vecMasked (s : State) (v : Nat) : Bool := s.link.funcMask || (msixWord s (4 * v + 3)).getLsbD 0 || held s

/-- Makes vector `v` pending; it sends one message at once if nothing masks it (R64). While PE_PERST0_N is asserted, PE_WAKE_N
is driven low for it (R419). -/
def raiseVec (v : Nat) (s0 : State) : State :=
  let s := { s0 with link.wakeDriven := s0.link.wakeDriven || s0.link.perst0 }
  if vecMasked s v then
    { s with link.msixPending := if v ∈ s.link.msixPending then s.link.msixPending else s.link.msixPending ++ [v] }
  else { s with out := s.out ++ [.msix v], link.msixPending := s.link.msixPending.filter (· != v) }

/-- Sends the messages of the pending vectors that nothing masks any more (R64). -/
def sendPending (s : State) : State :=
  let go := s.link.msixPending.filter fun v => !vecMasked s v
  { s with
    out := s.out ++ go.map Out.msix
    link.msixPending := s.link.msixPending.filter fun v => vecMasked s v }

/-- A hardware set of GLB_EVENT bit `k` (R70, R73): the counter rises, the flag is set, and an enabled bit makes its vector
pending. -/
def glbEvent (k : Nat) (s : State) : State :=
  let s1 := { s with
    glb.event := s.glb.event ||| (BitVec.ofNat 32 (1 <<< k) &&& 0x3FF)
    glb.evCnt := tmod s.glb.evCnt k (· + 1) }
  if s.glb.eventEn.getLsbD k then raiseVec k s1 else s1

/-- A hardware set of GLB_ERR bit `k` (R71, R73); an enabled bit sets GLB_EVENT.ERR. -/
def glbErr (k : Nat) (s : State) : State :=
  let s1 := { s with
    glb.err := s.glb.err ||| (BitVec.ofNat 32 (1 <<< k) &&& 0xFF)
    glb.errCnt := tmod s.glb.errCnt k (· + 1) }
  if s.glb.errEn.getLsbD k then glbEvent 9 s1 else s1

/-! ### Status replies (R77–R86) -/

/-- Value of a status code (R79). -/
def codeVal : Code → Nat
  | .ok => 0x0000 | .okNotes => 0x0001
  | .eOpcode => 0x0101 | .eLength => 0x0102 | .eReserved => 0x0103 | .eVersion => 0x0104
  | .eRange => 0x0201 | .eAlign => 0x0202 | .eHandle => 0x0203 | .eCombination => 0x0204
  | .eState => 0x0301 | .eOrder => 0x0302 | .eBusy => 0x0303
  | .eNomem => 0x0401 | .eNoslot => 0x0402 | .eQuota => 0x0403
  | .eDenied => 0x0501 | .eSignature => 0x0502 | .eRollback => 0x0503 | .eMuted => 0x0504
  | .eTimeout => 0x0601 | .eLowerTier => 0x0602 | .eTransient => 0x0603 | .eCheck => 0x0604
  | .eRetired => 0x0701 | .eTornDown => 0x0702 | .eInternal => 0x0703

/-- OK or OK_NOTES. -/
def codeOk (c : Code) : Bool := c == .ok || c == .okNotes

/-- The code is of the classes 0x01xx to 0x05xx: the packet counts as rejected (R102). -/
def codeRejects (c : Code) : Bool := 0x0100 ≤ codeVal c && codeVal c < 0x0600

/-- The 32 bytes of a status reply (R77). -/
def replyBytes (r : Reply) (phase : Bool) : List Byte :=
  toLE 2 (codeVal r.code) ++ toLE 2 (r.opcode % 0x8000 + (if phase then 0x8000 else 0)) ++ toLE 4 r.tag ++ toLE 8 r.time
    ++ toLE 4 r.notes ++ toLE 4 r.w0 ++ toLE 4 r.w1 ++ toLE 4 r.w2

/-- Base and SR_LOG2 of the status ring of context `h` (R72, R110). -/
def statusRing (s : State) (h : Nat) : Nat × Nat :=
  if h = 0 then (s.glb.msLo.toNat + 2 ^ 32 * s.glb.msHi.toNat, bits s.glb.mring.toNat 12 8)
  else ((ctxOf s h).ring.base, (ctxOf s h).ring.log2)

/-- PHASE of the entry with free-running index `i` (R84). -/
def phaseOf (i log2 : Nat) : Bool := 1 - (i >>> log2) % 2 == 1

/-- Lets one output leave the device. A status entry and a record write change host memory; the message of a held status entry becomes
pending once the entry is written (R63). -/
def perform (o : Out) (s : State) : State :=
  match o with
  | .status h i ph r =>
    let (base, log2) := statusRing s h
    { s with
      store.host := memWrite s.store.host (hostKey s h (base + 32 * (i % 2 ^ log2))) (replyBytes r ph)
      out := s.out ++ [o] }
  | .hostWrite k d => { s with store.host := memWrite s.store.host k d, out := s.out ++ [o] }
  | .msix v => raiseVec v s
  | _ => { s with out := s.out ++ [o] }

/-- Issues a host-memory write: at once, or kept while the hold of a link reset or of D3hot is in force (R52, R53). -/
def emitHost (o : Out) (s : State) : State :=
  if held s then { s with link.held := s.link.held ++ [o] } else perform o s

/-- A write of context `h` to `n` bytes at `va` is noted where it meets what a stripe leg of the context guards (R226). -/
def touchGuards (h va n : Nat) (s : State) : State :=
  { s with store.guards := tmap s.store.guards fun _ g =>
      { g with hit := g.hit || (g.ctx == h && g.ranges.any fun x => decide (va < x.1 + x.2) && decide (x.1 < va + n)) } }

/-- Writes bytes at a virtual address of context `h`, page by page (R113, R226). -/
def vwrite (h va : Nat) (bs : List Byte) (s : State) : State :=
  touchGuards h va bs.length <| (vpieces s h va bs.length).foldl (fun t (l, lo, k) =>
    let part := (bs.drop (lo - va)).take k
    if l.host then emitHost (.hostWrite (hostKey s h (l.frame * 65536 + lo % 65536)) part) t
    else physWrite (l.frame * 65536 + lo % 65536) part t) s

/-- The status entries of a context torn down with cause 0x02 or 0x07 are discarded (R132). -/
def entriesDiscarded (s : State) (h : Nat) : Bool :=
  h != 0 && ctxDown s h && ((ctxOf s h).cause == 2 || (ctxOf s h).cause == 7)

/-- The message for a status entry of context `h` that was due (R63): its vector becomes pending once the entry is written; PE_WAKE_N is
driven low for it at once while PE_PERST0_N is asserted (R419). -/
def statusMsg (h : Nat) (s : State) : State :=
  if held s then
    { s with link.held := s.link.held ++ [.msix (64 + h)], link.wakeDriven := s.link.wakeDriven || s.link.perst0 }
  else raiseVec (64 + h) s

/-- Writes the next status entry of context `h`, and makes its vector pending for NOTIFY (R84, R63). -/
def statusWrite (h : Nat) (r : Reply) (notify : Bool) (s : State) : State :=
  if entriesDiscarded s h then s else
  let i := (ctxOf s h).ring.written.toNat
  let s1 := emitHost (.status h i (phaseOf i (statusRing s h).2) r) s
  let s2 := modCtx h (fun c => { c with ring.written := c.ring.written + 1 }) s1
  if notify then statusMsg h s2 else s2

/-- Payload room of a datagram on port `e` to address `ip` (R93): MTU less IP, UDP, session header and tag. -/
def payloadRoom (s : State) (e : Nat) (ip : List Byte) : Nat :=
  (tgetD s.net.eths e).mtu - (if ip.take 12 = List.replicate 10 0 ++ [0xFF, 0xFF] then 20 else 40) - 8 - 32

/-- Session header of R92. -/
def sessHeader (type id counter : Nat) : List Byte := toLE 1 type ++ [0x10, 0, 0] ++ toLE 4 id ++ toLE 8 counter

/-- The GCM nonce of a datagram (R92): the salt of the sending direction and the counter of the header. -/
def gcmNonce (salt hdr : List Byte) : List Byte := salt ++ slice hdr 8 8

/-- Seals a payload with the keys of one direction (R95): from the client to the device where `up` holds. -/
def sealDir (up : Bool) (keys hdr payload : List Byte) : List Byte :=
  if up then Config.gcmSeal (slice keys 0 32) (gcmNonce (slice keys 64 4) hdr) hdr payload
  else Config.gcmSeal (slice keys 32 32) (gcmNonce (slice keys 68 4) hdr) hdr payload

/-- Opens a payload from the client (R95). -/
def openUp (keys hdr data : List Byte) : Option (List Byte) :=
  Config.gcmOpen (slice keys 0 32) (gcmNonce (slice keys 64 4) hdr) hdr data

/-- The transcript hash T of a hello and a reply (R95). -/
def transcript (hello reply : List Byte) : List Byte := toLE 64 (Config.sha512 (hello ++ slice reply 0 184)).toNat

/-- The 72 bytes of the key schedule (R95), from the own ephemeral key and the peer's. -/
def keySchedule (draw : Nat) (peer hello reply : List Byte) : List Byte :=
  toLE 72 (Config.hkdf (slice hello 24 32 ++ slice reply 16 32) (toLE 66 (Config.ecdh draw peer).toNat) (transcript hello reply)).toNat

/-- The ephemeral public key drawn as number `n`: an uncompressed point (R95). -/
def ephemeral (n : Nat) : List Byte := 0x04 :: toLE 132 (Config.pubKey n).toNat

/-- Closes a Stolp session (R99): its waiting replies are discarded. The packets of an unfinished chain that it sent wait on, and the context's
next packet may end their chain (DESIGN CHOICE, log 58). -/
def closeSession (id : Nat) (s : State) : State := { s with stolp.sessions := tdel s.stolp.sessions id }

/-- The IEEE 802.1Q tag of the frames of an Ethernet port, gPTP frames apart (R354). -/
def vlanTag (s : State) (n : Nat) : Option Nat :=
  let e := tgetD s.net.eths n
  if e.vlan then some e.tci else none

/-- Sends one encrypted datagram of `type` in session `id` (R92); a session whose counter reaches 2^32 closes (R99). -/
def sendSess (id type : Nat) (payload : List Byte) (s : State) : State :=
  match tget s.stolp.sessions id with
  | none => s
  | some q =>
    let hdr := sessHeader type id q.tx
    let s1 := { s with
      out := s.out ++ [.dgram 0 q.port q.ip q.udp (hdr ++ sealDir false q.secret hdr payload) (vlanTag s q.port)]
      stolp.sessions := tput s.stolp.sessions id { q with tx := q.tx + 1 } }
    if 2 ^ 32 ≤ q.tx + 1 then closeSession id s1 else s1

/-- Cuts replies into lists of at most `k`. -/
def chunk {α : Type} (k : Nat) : Nat → List α → List (List α)
  | 0, _ => []
  | _, [] => []
  | f + 1, l => l.take (k + 1) :: chunk k f (l.drop (k + 1))

/-- Sends the waiting replies of session `id` in data datagrams (R93, R99); each counts as answered now (R97). -/
def flushBatch (id : Nat) (s : State) : State :=
  match tget s.stolp.sessions id with
  | none => s
  | some q =>
    let room := payloadRoom s q.port q.ip / 32
    let s1 := { s with stolp.sessions := tput s.stolp.sessions id { q with batch := [], answered := q.answered + BitVec.ofNat 32 q.batch.length } }
    (chunk (room - 1) q.batch.length q.batch).foldl
      (fun t rs => sendSess id 1 ((rs.map fun r => replyBytes r false).flatten) t) s1

/-- Answers a packet in its session: batched, or at once with NOTIFY or no batching delay (R99); a closed session's replies
are discarded. -/
def sessReply (id : Nat) (r : Reply) (now : Bool) (s : State) : State :=
  match tget s.stolp.sessions id with
  | none => s
  | some q =>
    let s1 := { s with stolp.sessions := tput s.stolp.sessions id { q with batch := q.batch ++ [r] } }
    if now || q.batchUs == 0 then flushBatch id s1 else s1

/-! ### Packets -/

/-- Little-endian field of `n` bytes at byte `off` of a packet (R74). -/
def fld (p : Pkt) (off n : Nat) : Nat := num p.bytes off n

/-- Opcode (R74). -/
def pOp (p : Pkt) : Nat := fld p 0 2
/-- Length in units: 0 means 256 (R74). -/
def pLen (p : Pkt) : Nat := if fld p 2 1 = 0 then 256 else fld p 2 1
/-- Flags (R74). -/
def pFlags (p : Pkt) : Nat := fld p 3 1
/-- FENCE (R74). -/
def pFence (p : Pkt) : Bool := (pFlags p).testBit 0
/-- NOTIFY (R74). -/
def pNotify (p : Pkt) : Bool := (pFlags p).testBit 1
/-- CHAIN (R74). -/
def pChain (p : Pkt) : Bool := (pFlags p).testBit 2
/-- Sequence tag (R74). -/
def pTag (p : Pkt) : Nat := fld p 4 4
/-- Context handle field (R74). -/
def pCtx (p : Pkt) : Nat := fld p 8 2 % 1024
/-- Dependency tag (R74). -/
def pDep (p : Pkt) : Nat := fld p 12 4

/-- The flight of a packet. -/
def flightOf (s : State) (p : Pkt) : Option Flight := s.cmd.flights.find? fun f => f.pkt == p

/-- Recipient and accepted sender of the parcels of packet `p`: those that its context had when it was dispatched (R281). -/
def peersOf (s : State) (p : Pkt) : List Byte × List Byte :=
  ((flightOf s p).bind Flight.peers).getD ((ctxOf s p.ctx).peerTo, (ctxOf s p.ctx).peerFrom)

/-- The packets of context `h` in flight (R85). -/
def inFlight (s : State) (h : Nat) : List Flight := s.cmd.flights.filter fun f => f.pkt.ctx == h

/-- Takes a packet out of flight; if it failed, the rest of its chain fails after it (R91). -/
def landFlight (p : Pkt) (ok : Bool) (s : State) : State :=
  match flightOf s p with
  | none => s
  | some f =>
    { s with
      cmd.flights := s.cmd.flights.filter fun g => g.order != f.order
      cmd.chainFailed :=
        if ok then s.cmd.chainFailed
        else if s.cmd.flights.any (fun g => g.chainPrev == some f.order) then s.cmd.chainFailed ++ [f.order] else s.cmd.chainFailed }

/-- The status reply of a packet: OK becomes OK_NOTES with a note (R78), the opcode is echoed (R77). -/
def mkReply (p : Pkt) (code : Code) (notes w0 w1 w2 : Nat) (s : State) : Reply :=
  { code := if code = .ok ∧ notes ≠ 0 then .okNotes else code
    opcode := pOp p % 0x8000, tag := pTag p, time := s.time.now, notes := notes
    w0 := w0 % 2 ^ 32, w1 := w1 % 2 ^ 32, w2 := w2 % 2 ^ 32 }

/-- Delivers a reply where its packet came from (R77, R84, R99). -/
def deliver (p : Pkt) (r : Reply) (s : State) : State :=
  if p.queue = 8 then sessReply p.session r (pNotify p) s else statusWrite p.ctx r (pNotify p) s

/-- Puts a packet's end into the tag record of its context: 1,024 completions are remembered (R89, R98). -/
def recordTag (p : Pkt) (r : Reply) (repeated : Bool) (s : State) : State :=
  let o := ((flightOf s p).map Flight.order).getD (s.cmd.nextOrder - 1)
  modCtx p.ctx (fun c =>
    { c with tags := ({ tag := pTag p, reply := r, bytes := p.bytes, queue := p.queue, session := p.session, order := o,
                        repeated := repeated } :: c.tags).take 1024 }) s

/-- Answers a packet: one status reply, its tag record, its flight ends (R77, R85, R89). -/
def answerPkt (p : Pkt) (code : Code) (notes w0 w1 w2 : Nat) (s : State) : State :=
  let r := mkReply p code notes w0 w1 w2 s
  deliver p r (landFlight p (codeOk code) (recordTag p r false s))

/-- Completes with OK, or OK_NOTES where a note is set. -/
def completeOk (p : Pkt) (w0 w1 w2 : Nat) (s : State) : State := answerPkt p .ok 0 w0 w1 w2 s

/-- A failed check: its code and the byte offset of the field that failed (R102). -/
structure Fail where
  code : Code
  off : Nat := 0xFFFF
  /-- physical word address of the failed word that the command met (R297) -/
  word : Option Nat := none
  deriving DecidableEq, Repr

/-- Adds a record to the reject log of the packet's context: the newest 64 are kept, the lost ones counted (R102). -/
def logReject (p : Pkt) (f : Fail) (s : State) : State :=
  let e : RejRec := { header := fit 16 p.bytes, code := f.code, queue := p.queue, off := f.off, time := s.time.now }
  modCtx p.ctx (fun c =>
    { c with
      rejected := c.rejected + 1
      rejLog := (c.rejLog ++ [e]).drop (c.rejLog.length + 1 - 64)
      rejLost := c.rejLost + (c.rejLog.length + 1 - 64) }) s

/-- Completes a packet that acted; a code of the rejecting classes enters the reject log (R102). -/
def complete (p : Pkt) (code : Code) (notes w0 w1 w2 : Nat) (s : State) : State :=
  answerPkt p code notes w0 w1 w2 (if codeRejects code then logReject p { code := code } s else s)

/-- Ends a packet with a failing check: only its status reply, the reject log and the counters change (R80, R102). -/
def reject (p : Pkt) (f : Fail) (w2 : Nat) (s : State) : State :=
  answerPkt p f.code 0 0 0 w2 (if codeRejects f.code then logReject p f s else s)

/-- The first failing check of a list, in the order of the list (R81). -/
def firstFail : List (Bool × Code × Nat) → Option Fail
  | [] => none
  | (bad, code, off) :: t => if bad then some { code := code, off := off } else firstFail t

/-- The packet's flight is marked handed on: it holds no dispatch slot any more (R483). -/
def handOn (p : Pkt) (s : State) : State :=
  { s with cmd.flights := s.cmd.flights.map fun f => if f.pkt == p then { f with handed := true, slot := false } else f }

/-- The working time that tick `k + 1` of the 32.768 kHz oscillator adds: 30,517 or 30,518 ns (R17). -/
def tickNs (k : Nat) : Nat := oscNs (k + 1) - oscNs k

/-- One tick of the oscillator: working time advances by R17's increment, while the Timekeeper carries it at its rate (R361, R363); and while a
domain is selected its residual is slewed away, so that working time gains or loses that much against both domains (R361). -/
def tick (s : State) : State :=
  let d := tickNs s.time.ticks
  let x := if s.time.sel < 2 then slewOf s.time.residual d else 0
  let r := if keeperOn s then (d : Int) * baseRate s / 10 ^ 9 else 0
  slewFor d { s with time.ticks := s.time.ticks + 1, time.now := s.time.now + (d + r + x).toNat }

end Sys2Proof.Machine
end

