-- ==== Sys2Proof/Machine/SafeOps.lean ====
section
/-! DEFINITION. The safety pair's shared operations: the event log, fault scores and the SAFE_FAULT_N pin. -/

namespace Sys2Proof.Machine

/-- Key of the fault channel of type `ty` and index `ix` (R392). -/
def chKey (ty ix : Nat) : Nat := ty * 64 + ix

/-- The fault channel of a type and index. -/
def chanOf (s : State) (ty ix : Nat) : FaultCh := tgetD s.safe.chans (chKey ty ix)

/-- Whether the channel is retired (R397). -/
def chanRetired (s : State) (ty ix : Nat) : Bool := (chanOf s ty ix).retired

/-- Number of indices of channel type `ty` (R392). -/
def chanCount (ty : Nat) : Nat :=
  match ty with
  | 1 => 34 | 2 => 1 | 3 => 16 | 4 => 13 | 5 => 8 | 6 => 2 | 7 => 2 | _ => 0

/-- The sum of the contributions that have not leaked away (R393); each is kept with the time at which it leaks away. -/
def scoreOf (s : State) (l : List (Nat × Nat)) : Nat :=
  (l.filter fun e => s.time.now < e.2).foldl (fun a e => a + e.1) 0

/-- Adds a contribution that leaks away after the leak time in force (R393, R409); a weight of 0 adds nothing. -/
def contribute (s : State) (weight : Nat) (l : List (Nat × Nat)) : List (Nat × Nat) :=
  (if weight = 0 then l else l ++ [(weight, s.time.now + s.safe.cfg.leakS * 10 ^ 9)]).filter fun e => s.time.now < e.2

/-- Score of a channel (R393). -/
def chanScore (s : State) (ty ix : Nat) : Nat := scoreOf s (chanOf s ty ix).contrib

/-- Device score (R399). -/
def deviceScore (s : State) : Nat := scoreOf s s.safe.device

/-- The SAFETY pad group is held (R420, R471). -/
def safetyHeld (s : State) : Bool := s.power.held.testBit 5

/-- Asserts SAFE_FAULT_N (R406). While its pad group is held the pin keeps its latched level, unless the assertion is one that
hardware makes (R471). -/
def assertFault (hardware : Bool) (s : State) : State :=
  { s with
    safe.signalled := true, safe.signalledAt := s.time.now
    pins.safeFaultLow := s.pins.safeFaultLow || hardware || !safetyHeld s }

/-- Levels of SAFE_FAULT_N and SAFE_STATE by R406 and R471: SAFE_FAULT_N is low until start step 0x11 passes, while a fault is
signalled and for 1 ms from its assertion; SAFE_STATE is high in reset, in recovery and in the safe state. -/
def safetyPins (s : State) : State :=
  if safetyHeld s then s
  else
    { s with
      pins.safeFaultLow := s.boot.phase != .ready || s.safe.signalled || decide (s.safe.signalledAt != 0 ∧ s.time.now < s.safe.signalledAt + 1000000)
      pins.safeState := s.boot.phase == .reset || s.boot.recovery || s.safe.safeState }

/-- What a step on an empty queue does: one tick of the oscillator, and SAFE_FAULT_N is released once its 1 ms has passed (R406). -/
def idle (s : State) : State := safetyPins (tick s)

/-- Adds an event record to the log (R405) and sets GLB_EVENT.SAFE; a kind of the signal mask, or kind 0x15, asserts
SAFE_FAULT_N (R406). -/
def logEvent (kind ty ix action ctx score detail loc : Nat) (s : State) : State :=
  let e : SafeRec := { time := s.time.now, seq := s.safe.seq + 1, kind := kind, ctype := ty, index := ix, action := action,
                       ctx := ctx, score := sat 8 score, detail := detail, location := loc }
  let s1 := { s with
    safe.seq := s.safe.seq + 1
    safe.log := (s.safe.log ++ [e]).drop (s.safe.log.length + 1 - 1024) }
  let s2 := glbEvent 2 s1
  if s.safe.cfg.mask.testBit kind || kind == 0x15 then assertFault (kind == 0x15) s2 else s2

/-- Adds a contribution to a channel's score and notes its last event (R393, R410); a score that reaches the threshold makes the
channel due for retirement. -/
def addScore (ty ix weight : Nat) (transient : Bool) (s : State) : State :=
  { s with safe.chans := tmod s.safe.chans (chKey ty ix) fun c =>
    { c with
      contrib := contribute s weight c.contrib
      due := c.due || (weight != 0 && !c.retired && decide (s.safe.cfg.threshold ≤ scoreOf s (contribute s weight c.contrib)))
      transients := if transient then sat 16 (c.transients + 1) else c.transients
      last := s.time.now } }

/-- A scored event of a channel: its score, then its record (R393, R405). -/
def chanEvent (kind ty ix action ctx weight detail loc : Nat) (s : State) : State :=
  let s1 := addScore ty ix weight (kind == 1) s
  logEvent kind ty ix action ctx (chanScore s1 ty ix) detail loc s1

/-- Logs kind 0x12 where the device score has reached the threshold (R399). -/
def deviceLimit (before : Nat) (s : State) : State :=
  if before < s.safe.cfg.threshold ∧ s.safe.cfg.threshold ≤ deviceScore s then
    logEvent 0x12 0 0 0 0xFFFF (deviceScore s) 0 0 s
  else s

/-- A scored event that lies in no channel (R399). -/
def deviceEvent (kind action ctx weight detail loc : Nat) (s : State) : State :=
  let s1 := { s with safe.device := contribute s weight s.safe.device }
  deviceLimit (deviceScore s) (logEvent kind 0 0 action ctx (deviceScore s1) detail loc s1)

/-- Logs one corrected word: one summary record per channel and second (R405). -/
def correctedLog (ty ix sc : Nat) (s : State) : State :=
  let same : SafeRec → Bool := fun e =>
    e.kind == 4 && e.ctype == ty && e.index == ix && e.time / 10 ^ 9 == s.time.now / 10 ^ 9
  if s.safe.log.any same then
    { s with safe.log := s.safe.log.map fun e => if same e then { e with detail := e.detail + 1, score := sat 8 sc } else e }
  else logEvent 4 ty ix 0 0xFFFF sc 1 0 s

/-- A corrected word of a channel: scored and logged (R393, R405). -/
def correctedEvent (ty ix : Nat) (s : State) : State :=
  let s1 := addScore ty ix s.safe.cfg.wCorrected false s
  correctedLog ty ix (chanScore s1 ty ix) s1

/-- A corrected word of the state store: the device score (R399). -/
def correctedDevice (s : State) : State :=
  let s1 := { s with safe.device := contribute s s.safe.cfg.wCorrected s.safe.device }
  deviceLimit (deviceScore s) (correctedLog 0 0 (deviceScore s1) s1)

/-- A failed word that a consumer met, by its physical word address: charged to its DRAM channel, or to the device for the
state store (R297, R399). -/
def wordEvent (w ctx : Nat) (s : State) : State :=
  let kind := if wordAt s (w * 16) == .address then 0x06 else 0x05
  match dramChannel (w * 16) with
  | some c =>
    let s1 := { s with store.channels := tmod s.store.channels c fun d =>
      if kind = 6 then { d with address := sat 32 (d.address + 1) } else { d with uncorrectable := sat 32 (d.uncorrectable + 1) } }
    chanEvent kind 3 c 0 ctx s.safe.cfg.wUncorrectable 0 (w * 16) s1
  | none => deviceEvent kind 0 ctx s.safe.cfg.wUncorrectable 0 (w * 16) s

/-- The corrected words of a range that a consumer read: each counts against its channel (R297, R308). -/
def correctedWords (ws : List Nat) (s : State) : State :=
  ws.foldl (fun t w =>
    match dramChannel (w * 16) with
    | some c =>
      correctedEvent 3 c { t with store.channels := tmod t.store.channels c fun d => { d with corrected := sat 32 (d.corrected + 1) } }
    | none => correctedDevice t) s

/-- A command reads a range of memory: the words that it finds corrected are counted (R297). A command that fails changes nothing and counts
none (R80). -/
def readWords (h va n : Nat) (s : State) : State :=
  if n = 0 ∨ s.store.words.isEmpty then s else correctedWords (vcorrected s h va n) s

/-- A command reads the 16-byte words at these physical addresses. -/
def readPhys (as : List Nat) (s : State) : State :=
  if s.store.words.isEmpty then s else correctedWords ((as.filter fun a => wordAt s a == .corrected).map (· / 16)) s

/-- An access to a reserved address, by a context's work or none (0xFFFF), is reported as an address fault; it lies in no channel
(R284, R399). -/
def addressFault (a ctx : Nat) (s : State) : State := deviceEvent 0x06 0 ctx s.safe.cfg.wUncorrectable 0 a s

/-- Ends a packet with E_INTERNAL, logged as a safety event (R80). -/
def internalEvent (ctx : Nat) (s : State) : State := logEvent 0x10 0 0 0 ctx (deviceScore s) 0 0 s

/-! ### Panels -/

/-- A panel as at shipment: 8 and 17 are the spares (R167). -/
def shipPanel (n : Nat) : Panel := { state := if n = 8 ∨ n = 17 then .spare else .free }

/-- Physical panel `n`. -/
def panelOf (s : State) (n : Nat) : Panel := (tget s.sched.panels n).getD (shipPanel n)

/-- Changes panel `n`. -/
def modPanel (n : Nat) (f : Panel → Panel) (s : State) : State :=
  { s with sched.panels := tput s.sched.panels n (f (panelOf s n)) }

/-- Panels in a state. -/
def panelsIn (s : State) (f : PanelState → Bool) : List Nat := (List.range 34).filter fun n => f (panelOf s n).state

/-- Panels in service: free or in a gang (R168). -/
def inService (s : State) : List Nat := panelsIn s fun st => st == .free || st == .inGang

/-- Spare panels (R168). -/
def spares (s : State) : List Nat := panelsIn s (· == .spare)

/-- Quadrant of a panel (R167). -/
def quadrant (n : Nat) : Nat := if n < 9 then 0 else if n < 18 then 1 else if n < 26 then 2 else 3

/-- Gang `g`, if the handle names one. -/
def gangOf (s : State) (g : Nat) : Option Gang := tget s.sched.gangs g

/-- Changes gang `g` where it exists. -/
def modGang (g : Nat) (f : Gang → Gang) (s : State) : State := { s with sched.gangs := tupd s.sched.gangs g f }

/-- Kite retired (R202), or left out of service by its start step (R434). -/
def kiteRetired (s : State) : Bool := chanRetired s 2 0 || s.boot.missing.contains 0x0C

/-- Panels (or Kite arrays) in service on gang `g` (R176, R200). -/
def gangSize (s : State) (g : Nat) : Nat :=
  if g = 0 then (if kiteRetired s then 0 else 2) else ((gangOf s g).map fun x => x.panels.length).getD 0

/-! ### Leases (R129) -/

/-- Takes a lease. -/
def takeLease (kind owner res limit : Nat) (s : State) : State :=
  { s with
    sched.leases := tput s.sched.leases s.sched.nextLease
      { kind := kind, owner := owner, resource := res, acquired := s.time.now, limit := limit }
    sched.nextLease := s.sched.nextLease + 1 }

/-- Releases the leases of a kind on a resource. -/
def dropLease (kind res : Nat) (s : State) : State :=
  { s with sched.leases := tkeep s.sched.leases fun _ l => !(l.kind == kind && l.resource == res) }

end Sys2Proof.Machine
end

