-- ==== Sys2Proof/Machine/Commands.lean ====
section
/-! DEFINITION. The opcode tables as far as the checks of R81 need them: each opcode's lengths, who may issue it, and its
reserved bytes and bits; and the checks made from them. -/

namespace Sys2Proof.Machine

/-- What the checks of R81 know of an opcode. -/
structure Spec where
  op : Nat
  /-- lengths in units; empty for every length (R75) -/
  lens : List Nat
  /-- management context only (R76) -/
  mgmt : Bool
  /-- reserved bytes: start and count -/
  rsv : List (Nat × Nat)
  /-- reserved bits: byte and mask (a flag bit that its table does not define is reserved, DEDUCED from R8, log 10) -/
  masks : List (Nat × Nat)
  deriving DecidableEq, Repr

/-- Opcodes 0x00xx (R100). -/
def specDev : List Spec := [
  -- DEV_NOP
  ⟨0x0000, [], false, [], []⟩,
  -- DEV_INFO
  ⟨0x0001, [1, 2], false, [(24, 8)], []⟩,
  -- DEV_STATS
  ⟨0x0002, [2], false, [(19, 13)], [(18, 0xFE)]⟩,
  -- DEV_REJECT_LOG
  ⟨0x0003, [2], false, [(20, 4)], []⟩,
  -- DEV_RESET
  ⟨0x0004, [2], true, [(17, 3), (24, 8)], []⟩,
  -- DEV_KEY_ENROLL
  ⟨0x0005, [2], true, [(24, 8)], []⟩,
  -- DEV_KEY_REVOKE
  ⟨0x0006, [2], true, [(24, 8)], []⟩,
  -- DEV_KEY_LIST
  ⟨0x0007, [2], true, [(24, 8)], []⟩,
  -- DEV_NET_CONFIG
  ⟨0x0008, [2], true, [(24, 8)], [(18, 0xFC)]⟩,
  -- DEV_SESSIONS
  ⟨0x0009, [2], true, [(24, 8)], []⟩,
  -- DEV_SESSION_CLOSE
  ⟨0x000A, [2], true, [(20, 12)], []⟩]

/-- Opcodes 0x01xx (R136). -/
def specCtx : List Spec := [
  -- CTX_OPEN
  ⟨0x0100, [4], true, [(18, 2), (44, 4), (56, 8)], [(22, 0xF0), (23, 0xFF)]⟩,
  -- CTX_CLOSE
  ⟨0x0101, [2], true, [(19, 1), (24, 8)], []⟩,
  -- CTX_QUERY
  ⟨0x0102, [2], false, [(18, 14)], []⟩,
  -- CTX_SET_QUOTA
  ⟨0x0103, [2], true, [(18, 6)], []⟩,
  -- CTX_SEAL
  ⟨0x0104, [4], false, [(18, 14)], []⟩,
  -- CTX_QUEUE_CREATE
  ⟨0x0105, [2], false, [(21, 3)], []⟩,
  -- CTX_QUEUE_DESTROY
  ⟨0x0106, [2], false, [(19, 13)], []⟩,
  -- GANG_CREATE
  ⟨0x0107, [2], true, [(19, 1), (22, 10)], []⟩,
  -- GANG_DESTROY
  ⟨0x0108, [2], true, [(17, 15)], []⟩,
  -- GANG_QUERY
  ⟨0x0109, [2], false, [(17, 15)], []⟩,
  -- CTX_LEASES
  ⟨0x010A, [2], false, [(20, 4)], []⟩,
  -- CTX_XLATE
  ⟨0x010B, [2], false, [(18, 6)], []⟩]

/-- Opcodes 0x02xx (R312). -/
def specMem : List Spec := [
  -- MEM_ALLOC
  ⟨0x0200, [3], false, [(34, 6)], [(32, 0xF0)]⟩,
  -- MEM_FREE
  ⟨0x0201, [2], false, [(20, 12)], []⟩,
  -- MEM_MAP_HOST
  ⟨0x0202, [3], false, [(41, 7)], [(40, 0xFC)]⟩,
  -- MEM_PROTECT
  ⟨0x0203, [2], false, [(21, 11)], [(20, 0xFC)]⟩,
  -- MEM_COPY
  ⟨0x0204, [4], false, [(41, 7)], [(40, 0xFE)]⟩,
  -- MEM_PLACE
  ⟨0x0205, [2], false, [(21, 1), (24, 8)], []⟩,
  -- MEM_PIN
  ⟨0x0206, [2], false, [(21, 11)], [(20, 0xFE)]⟩,
  -- MEM_QUERY
  ⟨0x0207, [2], false, [(20, 12)], []⟩,
  -- MEM_CHANNELS
  ⟨0x0208, [2], true, [(25, 7)], [(24, 0xFE)]⟩,
  -- MEM_CHANNEL_RETIRE
  ⟨0x0209, [2], true, [(17, 15)], []⟩,
  -- MEM_COLD_IO
  ⟨0x020A, [3], true, [(18, 2), (36, 4)], []⟩]

/-- Opcodes 0x03xx (R207). -/
def specPlan : List Spec := [
  -- PLAN_LOAD
  ⟨0x0300, [2], false, [(28, 4)], []⟩,
  -- PLAN_UNLOAD
  ⟨0x0301, [2], false, [(20, 12)], []⟩,
  -- PLAN_QUERY
  ⟨0x0302, [2], false, [(20, 12)], []⟩,
  -- PLAN_RUN
  ⟨0x0303, [3], false, [(21, 3)], []⟩,
  -- PLAN_STOP
  ⟨0x0304, [2], false, [(20, 12)], []⟩,
  -- PLAN_FEED
  ⟨0x0305, [2], false, [(24, 8)], []⟩,
  -- PLAN_BIND_EVENT
  ⟨0x0306, [2], false, [(28, 4)], []⟩,
  -- PLAN_UNBIND
  ⟨0x0307, [2], false, [(17, 15)], []⟩,
  -- GANG_STATS
  ⟨0x0308, [2], false, [(18, 14)], [(17, 0xFE)]⟩,
  -- PANEL_QUERY
  ⟨0x0309, [2], true, [(24, 8)], []⟩,
  -- PLAN_RELOAD
  ⟨0x030A, [3], false, [(32, 16)], []⟩,
  -- MOOR_LOAD
  ⟨0x030B, [2], true, [(29, 3)], []⟩,
  -- MOOR_QUERY
  ⟨0x030C, [2], true, [(16, 16)], []⟩]

/-- Opcodes 0x04xx (R256). -/
def specKv : List Spec := [
  -- KV_POOL_CREATE
  ⟨0x0400, [2], false, [(21, 3)], []⟩,
  -- KV_POOL_DESTROY
  ⟨0x0401, [2], false, [(17, 15)], []⟩,
  -- KV_SEQ_CREATE
  ⟨0x0402, [2], false, [(17, 15)], []⟩,
  -- KV_FORK
  ⟨0x0403, [2], false, [(24, 8)], []⟩,
  -- KV_TRUNCATE
  ⟨0x0404, [2], false, [(24, 8)], []⟩,
  -- KV_FREE
  ⟨0x0405, [2], false, [(20, 12)], []⟩,
  -- KV_SEQ_QUERY
  ⟨0x0406, [2], false, [(21, 3)], []⟩,
  -- KV_PAGE_QUERY
  ⟨0x0407, [2], false, [(20, 12)], []⟩,
  -- KV_READ
  ⟨0x0408, [3], false, [(21, 3), (40, 8)], []⟩,
  -- KV_WAIT
  ⟨0x0409, [2], false, [(24, 8)], []⟩,
  -- KV_POOL_QUERY
  ⟨0x040A, [2], false, [(17, 15)], []⟩,
  -- KV_EXPORT
  ⟨0x040B, [3], false, [(40, 8)], []⟩,
  -- KV_IMPORT
  ⟨0x040C, [2], false, [(25, 7)], []⟩]

/-- Opcodes 0x05xx (R281). -/
def specStrm : List Spec := [
  -- STRM_SET_CREATE
  ⟨0x0500, [2], false, [(19, 5)], [(18, 0xFC)]⟩,
  -- STRM_SET_DESTROY
  ⟨0x0501, [2], false, [(17, 15)], []⟩,
  -- STRM_START
  ⟨0x0502, [2], false, [(18, 2)], [(17, 0xFE)]⟩,
  -- STRM_PAUSE
  ⟨0x0503, [2], false, [(20, 12)], []⟩,
  -- STRM_RESUME
  ⟨0x0504, [2], false, [(20, 12)], []⟩,
  -- STRM_END
  ⟨0x0505, [2], false, [(20, 12)], []⟩,
  -- STRM_QUERY
  ⟨0x0506, [2], false, [(20, 12)], []⟩,
  -- STRM_SENTINEL
  ⟨0x0507, [2], false, [(29, 3)], [(28, 0xFC)]⟩,
  -- STRM_READ
  ⟨0x0508, [2], false, [(20, 4)], []⟩,
  -- STRM_EXPORT
  ⟨0x0509, [3], false, [(21, 3), (40, 8)], [(20, 0xFE)]⟩,
  -- STRM_IMPORT
  ⟨0x050A, [2], false, [(26, 6)], [(25, 0xFE)]⟩,
  -- STRM_PEER
  ⟨0x050B, [2], false, [(24, 8)], []⟩]

/-- Opcodes 0x06xx (R332). -/
def specCam : List Spec := [
  -- CAM_QUERY
  ⟨0x0600, [2], false, [(17, 15)], []⟩,
  -- CAM_ASSIGN
  ⟨0x0601, [2], true, [(17, 1), (20, 12)], []⟩,
  -- CAM_PORT
  ⟨0x0602, [3], false, [(30, 2), (40, 8)], [(26, 0xE0), (27, 0xFE)]⟩,
  -- CAM_PARAMS
  ⟨0x0603, [2], false, [(17, 1), (22, 2)], [(19, 0xFE), (21, 0xFE)]⟩,
  -- CAM_OUTPUT
  ⟨0x0604, [5], false, [(54, 2)], [(18, 0xF8)]⟩,
  -- CAM_START
  ⟨0x0605, [2], false, [(17, 15)], []⟩,
  -- CAM_STOP
  ⟨0x0606, [2], false, [(17, 15)], []⟩,
  -- CAM_POWER
  ⟨0x0607, [2], false, [(18, 14)], []⟩,
  -- CAM_SYNC
  ⟨0x0608, [2], false, [(19, 1), (22, 10)], []⟩,
  -- CAM_WINDOW
  ⟨0x0609, [2], false, [(20, 4)], [(17, 0xFE)]⟩,
  -- CAM_ATTACH
  ⟨0x060A, [2], false, [(19, 13)], []⟩,
  -- CAM_WAIT
  ⟨0x060B, [2], false, [(17, 7)], []⟩,
  -- CAM_PRESENCE
  ⟨0x060C, [2], true, [(17, 1)], [(16, 0xF0)]⟩]

/-- Opcodes 0x07xx (R352). -/
def specAud : List Spec := [
  -- AUD_QUERY
  ⟨0x0700, [2], false, [(16, 16)], []⟩,
  -- AUD_ASSIGN
  ⟨0x0701, [2], true, [(17, 1), (20, 12)], []⟩,
  -- AUD_CLOCK
  ⟨0x0702, [2], false, [(17, 15)], []⟩,
  -- AUD_LP
  ⟨0x0703, [2], true, [(24, 8)], []⟩,
  -- AUD_BEAM
  ⟨0x0704, [2], false, [(18, 6)], [(17, 0xFE)]⟩,
  -- AUD_CAPTURE
  ⟨0x0705, [4], false, [(56, 8)], []⟩,
  -- AUD_START
  ⟨0x0706, [2], false, [(17, 15)], []⟩,
  -- AUD_STOP
  ⟨0x0707, [2], false, [(17, 15)], []⟩,
  -- AUD_I2S
  ⟨0x0708, [2], false, [(24, 8)], [(23, 0xF0)]⟩,
  -- AUD_PLAY
  ⟨0x0709, [3], false, [(18, 2), (40, 8)], [(17, 0xFE)]⟩,
  -- AUD_WAIT
  ⟨0x070A, [2], false, [(17, 7)], []⟩]

/-- Opcodes 0x08xx (R382). -/
def specNet : List Spec := [
  -- TK_QUERY
  ⟨0x0800, [2], false, [(24, 8)], []⟩,
  -- TK_CONFIG
  ⟨0x0801, [2], true, [(28, 4)], [(18, 0xF0), (19, 0xF0)]⟩,
  -- TK_SELECT
  ⟨0x0802, [2], true, [(17, 15)], []⟩,
  -- EV_ASSIGN
  ⟨0x0803, [2], true, [(17, 1), (20, 12)], []⟩,
  -- EV_CONFIG
  ⟨0x0804, [3], false, [(17, 3), (21, 3), (25, 3), (34, 2), (42, 2)], [(24, 0xE0)]⟩,
  -- EV_QUERY
  ⟨0x0805, [2], false, [(17, 7)], []⟩,
  -- EV_READ_CAPTURE
  ⟨0x0806, [2], false, [(18, 6)], []⟩,
  -- NET_CONFIG
  ⟨0x0807, [2], true, [(17, 7)], []⟩,
  -- NET_QUERY
  ⟨0x0808, [2], false, [(18, 14)], [(17, 0xFE)]⟩,
  -- NET_BIND
  ⟨0x0809, [3], false, [(19, 1), (26, 2), (40, 8)], [(16, 0xFE)]⟩,
  -- NET_SEND
  ⟨0x080A, [4], false, [(50, 14)], []⟩,
  -- GW_FLEET
  ⟨0x080B, [2], true, [(17, 1)], []⟩,
  -- GW_INBOX
  ⟨0x080C, [3], false, [(17, 1), (28, 4), (40, 8)], []⟩,
  -- GW_SEND
  ⟨0x080D, [3], false, [(36, 12)], []⟩,
  -- GW_QUERY
  ⟨0x080E, [2], false, [(16, 16)], []⟩]

/-- Opcodes 0x09xx (R408). -/
def specSafe : List Spec := [
  -- SAFE_QUERY
  ⟨0x0900, [2], false, [(16, 16)], []⟩,
  -- SAFE_LOG_READ
  ⟨0x0901, [2], true, [(22, 2)], []⟩,
  -- SAFE_CHANNELS
  ⟨0x0902, [2], true, [(24, 8)], []⟩,
  -- SAFE_CONFIG
  ⟨0x0903, [2], true, [(24, 8)], []⟩,
  -- SAFE_RETIRE
  ⟨0x0904, [2], true, [(18, 14)], []⟩,
  -- SAFE_CLEAR
  ⟨0x0905, [2], true, [(16, 16)], []⟩,
  -- SAFE_INJECT
  ⟨0x0906, [2], true, [(19, 13)], []⟩,
  -- SAFE_E2E
  ⟨0x0907, [2], false, [(17, 3), (24, 8)], []⟩,
  -- SAFE_ENTER
  ⟨0x0908, [2], true, [(16, 16)], []⟩,
  -- SAFE_SELFTEST
  ⟨0x0909, [2], true, [(18, 14)], []⟩]

/-- Opcodes 0x0Axx (R46). -/
def specCasc : List Spec := [
  -- CASC_QUERY
  ⟨0x0A00, [1], false, [], []⟩,
  -- CASC_SET_SOURCE
  ⟨0x0A01, [2], true, [(28, 4)], [(18, 0xF0)]⟩,
  -- CASC_BIND
  ⟨0x0A02, [2], true, [(26, 6)], []⟩,
  -- CASC_SET_HOLD
  ⟨0x0A03, [2], true, [(28, 4)], [(27, 0xF8)]⟩,
  -- CASC_LIFT
  ⟨0x0A04, [2], true, [(17, 3)], []⟩,
  -- CASC_BALLAST
  ⟨0x0A05, [2], true, [(17, 7)], []⟩,
  -- CASC_READ_LOG
  ⟨0x0A06, [2], true, [], []⟩,
  -- CASC_READ_REEL
  ⟨0x0A07, [3], true, [(36, 12)], []⟩,
  -- CASC_COUNTERS
  ⟨0x0A08, [2], true, [(17, 15)], [(16, 0xFE)]⟩,
  -- CASC_SET_TIMER
  ⟨0x0A09, [2], true, [], []⟩]

/-- Opcodes 0x0Bxx (R429). -/
def specPwr : List Spec := [
  -- PWR_QUERY
  ⟨0x0B00, [2], false, [(24, 8)], []⟩,
  -- PWR_CAP
  ⟨0x0B01, [2], true, [(18, 14)], []⟩,
  -- PWR_POLICY
  ⟨0x0B02, [2], true, [(20, 12)], [(17, 0xFE)]⟩,
  -- PWR_WAKE
  ⟨0x0B03, [2], true, [(22, 10)], [(17, 0xFE), (21, 0xF0)]⟩,
  -- PWR_ENTER
  ⟨0x0B04, [2], true, [(17, 1), (20, 12)], []⟩,
  -- PADS_RELEASE
  ⟨0x0B05, [2], true, [(17, 15)], [(16, 0xC0)]⟩,
  -- PWR_PADS
  ⟨0x0B06, [2], true, [(17, 15)], [(16, 0xC0)]⟩]

/-- Opcodes 0x0Cxx (R450). -/
def specSec : List Spec := [
  -- BOOT_JOURNAL
  ⟨0x0C00, [2], true, [(17, 7)], []⟩,
  -- BOOT_RETRY
  ⟨0x0C01, [2], true, [(20, 12)], []⟩,
  -- SEC_CERT
  ⟨0x0C02, [2], false, [(24, 8)], []⟩,
  -- SEC_ATTEST
  ⟨0x0C03, [4], false, [(18, 6)], []⟩,
  -- SEC_PAIR
  ⟨0x0C04, [2], true, [(16, 16)], []⟩,
  -- SEC_OWNER
  ⟨0x0C05, [2], true, [(24, 8)], []⟩,
  -- SEC_CONFIG
  ⟨0x0C06, [2], true, [(28, 4)], []⟩,
  -- SEC_FLOOR
  ⟨0x0C07, [2], true, [(17, 15)], [(16, 0xFC)]⟩,
  -- UPD_STAGE
  ⟨0x0C08, [2], true, [(28, 4)], []⟩,
  -- UPD_ACTIVATE
  ⟨0x0C09, [2], true, [(16, 16)], []⟩,
  -- UPD_CANCEL
  ⟨0x0C0A, [2], true, [(16, 16)], []⟩,
  -- UPD_QUERY
  ⟨0x0C0B, [2], true, [(16, 16)], []⟩]

/-- Opcodes 0x0Dxx (R165). -/
def specQuant : List Spec := [
  -- QSTAT_ARM
  ⟨0x0D00, [2], false, [(21, 1), (24, 8)], []⟩,
  -- QSTAT_DISARM
  ⟨0x0D01, [2], false, [(18, 14)], []⟩,
  -- QSTAT_READ
  ⟨0x0D02, [2], false, [(19, 1)], [(18, 0xFE)]⟩,
  -- QSTAT_QUERY
  ⟨0x0D03, [2], false, [(18, 14)], []⟩,
  -- QCONVERT
  ⟨0x0D04, [4], false, [(54, 2), (60, 4)], [(50, 0xF0), (51, 0xFC)]⟩]

/-- Every opcode of the RY3. -/
def specs : List Spec :=
  specDev ++ specCtx ++ specMem ++ specPlan ++ specKv ++ specStrm ++ specCam ++ specAud ++ specNet ++ specSafe ++ specCasc ++ specPwr ++ specSec ++ specQuant

/-- The entry of an opcode; none for an unknown opcode (R81 check 1). -/
def specOf (op : Nat) : Option Spec := specs.find? fun c => c.op == op

/-- A length that the opcode accepts (R75). -/
def lenOk (c : Spec) (n : Nat) : Bool := c.lens.isEmpty || c.lens.contains n

/-- First nonzero reserved byte or bit of the parameters (R81 check 7). -/
def rsvFail (c : Spec) (p : Pkt) : Option Nat :=
  let len := 16 * pLen p
  let bad := fun off => off < len &&
    ((c.rsv.any fun (a, n) => a ≤ off && off < a + n && fld p off 1 != 0)
      || (c.masks.any fun (a, m) => a == off && (fld p off 1 &&& m) != 0))
  (List.range 80).find? bad

/-- The header checks 1 to 4 of R81: opcode, length, reserved header bits, context and permission. The context of a packet from a session
is one that its key permits, so that another handle fails here (R76). -/
def hdrFail (p : Pkt) : Option Fail :=
  match specOf (pOp p) with
  | none => some { code := .eOpcode, off := 0 }
  | some c =>
    firstFail [
      (!lenOk c (pLen p), .eLength, 2),
      (8 ≤ pFlags p, .eReserved, 3),
      (1024 ≤ fld p 8 2, .eReserved, 8),
      (fld p 10 2 != 0, .eReserved, 10),
      (pCtx p != p.ctx, .eDenied, 8),
      (c.mgmt && p.ctx != 0, .eDenied, 0)]

/-- Opcodes that the safe state still serves (R407). -/
def safeServed (op : Nat) : Bool := op == 0x0900 || op == 0x0901

/-- The checks that every command shares when it acts: the header checks of fetch, the safe state (R407), the state of the
issuing context, and the reserved parameter bytes (R81 checks 1 to 4 and 7). -/
def cmdGate (p : Pkt) (s : State) : Option Fail :=
  match hdrFail p with
  | some f => some f
  | none =>
    if s.safe.safeState && !safeServed (pOp p) then some { code := .eState }
    else if p.ctx != 0 && !ctxLive s p.ctx then some { code := .eHandle, off := 8 }
    else match specOf (pOp p) with
      | none => none
      | some c => (rsvFail c p).map fun o => { code := .eReserved, off := o }

/-- Marks a packet as waiting at a held host-memory request (R482). -/
def hostWait (p : Pkt) (s : State) : State :=
  { s with cmd.flights := s.cmd.flights.map fun f => if f.pkt == p then { f with hostWait := true } else f }

/-- The start step whose units a command needs (R433, R434): cameras, Mooring, audio, network and time, panels for a new gang, the
cold tier. -/
def needsStep (p : Pkt) : Option Nat :=
  let op := pOp p
  if op = 0x060C ∨ op = 0x0703 ∨ op = 0x030B ∨ op = 0x030C ∨ op = 0x0A07 then some 0x0D
  else if op / 256 = 6 then some 0x0E
  else if op / 256 = 7 then some 0x0F
  else if op / 256 = 8 then some 0x10
  else if op = 0x0107 then some 0x0B
  else if op = 0x020A ∨ (op = 0x0205 ∧ fld p 20 1 = 2) then some 0x0A
  else none

/-- The command needs units that an optional start step left out of service: it ends with E_RETIRED (R434). -/
def unitsOut (p : Pkt) (s : State) : Bool :=
  match needsStep p with
  | some n => s.boot.missing.contains n
  | none => false

/-- The control complex serves commands: in Run and Trim, until an entry to Moor begins (R15, R412, R415). -/
def bridleOn (s : State) : Bool := keeperOn s && (s.power.move.map PMove.target) != some .moor

/-- A packet in flight acts once it has been dispatched (R87, R88, R91), and only until it is handed on to the work that it started;
a packet that no fetch has put in flight acts at once (DESIGN CHOICE, log 10). The control complex that runs it is powered in Run and
Trim, and takes no new work once it is told to power down (R15, R412). -/
def mayAct (p : Pkt) (s : State) : Bool :=
  bridleOn s && (flightOf s p).all fun f => f.dispatched && !f.handed

/-- The host-memory writes that are held (R482). -/
def heldWrites (s : State) : Nat :=
  (s.link.held.filter fun o => match o with | .hostWrite _ _ => true | _ => false).length

/-- Ends a packet with a failing check; a failed word that it met is charged to its channel (R102, R297). -/
def refuse (p : Pkt) (f : Fail) (s : State) : State :=
  reject p f 0 (match f.word with | some w => wordEvent w p.ctx s | none => s)

/-- Runs a command: the shared checks, the command's own checks in the order of R81, then its effect. A failing check ends
the packet and changes nothing else (R80); a command whose units a failed start step left out of service ends last (R434). A packet in
flight that has not been dispatched waits. -/
def runCmd (p : Pkt) (s : State) (chk : Option Fail) (act : State → State) : Res :=
  if !mayAct p s then .next s
  else match cmdGate p s with
  | some f => .next (reject p f 0 s)
  | none =>
    match chk with
    | some f => .next (refuse p f s)
    | none => if unitsOut p s then .next (reject p { code := .eRetired } 0 s) else .next (act s)

/-- The effect of a command that may write host memory: while host-memory requests are held, it waits at that write and has done nothing
(R482). -/
def actHost (p : Pkt) (act : State → State) (s : State) : State :=
  let t := act s
  if held s && heldWrites s < heldWrites t then hostWait p s else t

/-- The effect of a queued command from the state `s` without it; where it would write held host memory, it stays queued in `t` (R482). -/
def actServed (act : State → State) (s t : State) : State :=
  let u := act s
  if held s && heldWrites s < heldWrites u then t else u

/-- As runCmd, for a command that reads host memory where `host` holds, or may write it: it waits at that request while host-memory
requests are held (R482), and its command row comes again when they resume. -/
def runHost (p : Pkt) (s : State) (host : Bool) (chk : Option Fail) (act : State → State) : Res :=
  if host && held s && mayAct p s && (cmdGate p s).isNone then .next (hostWait p s)
  else runCmd p s chk (actHost p act)

/-! ### Checks on addresses -/

/-- The checks of a destination or source in the issuing context: alignment and mapping in byte order (R81 check 9). -/
def addrChk (s : State) (h va n align off : Nat) : List (Bool × Code × Nat) :=
  [(2 ^ 48 ≤ va, .eRange, off), (va % align != 0, .eAlign, off), (!rangeMapped s h va n, .eRange, off)]

/-- The permission check of a range (R114, R81 check 11). -/
def permChk (s : State) (h va n : Nat) (write : Bool) (off : Nat) : List (Bool × Code × Nat) :=
  [(!rangePermits s h va n write, .eDenied, off)]

/-- A tenant handle of 1–512 that is not Closed (R139). -/
def tenantChk (s : State) (h off : Nat) : List (Bool × Code × Nat) :=
  [(h = 0 || 512 < h, .eRange, off), ((ctxOf s h).state == .closed, .eHandle, off)]

/-- The failure of a command that meets the failed word `w` (R297). -/
def badWord (off w : Nat) : Fail := { code := wordCode w, off := off, word := some w }

/-- The failure of a command that reads a range with a failed word (R297). -/
def wordFail (s : State) (h va n off : Nat) : Option Fail := (vbad s h va n).head?.map (badWord off)

/-- The first failing check of several lists, in order (R81). -/
def firstFails (l : List (List (Bool × Code × Nat))) : Option Fail := firstFail l.flatten

/-- The first of two failures. -/
def orFail (a b : Option Fail) : Option Fail := match a with | some f => some f | none => b

/-- Key ID of a public key (R96). -/
def keyIdOf (pt : List Byte) : Nat := (Config.sha512 pt).toNat % 2 ^ 64

/-- The 133 bytes of the device identity public key (R444). -/
def identityPoint : List Byte := toLE 133 Config.identityKey.toNat

/-- Key ID of the device (R101). -/
def deviceId : Nat := keyIdOf identityPoint

/-- Checks of a destination of `n` bytes at the packet's byte `off`: 64-byte aligned, mapped, writable. -/
def destChk (p : Pkt) (s : State) (n off : Nat) : List (Bool × Code × Nat) := addrChk s p.ctx (fld p off 8) n 64 off

end Sys2Proof.Machine
end

