-- ==== Sys2Proof/Machine/MemOps.lean ====
section
/-! DEFINITION. What contexts hold of the memory tiers: quotas, free space, allocation and release. -/

namespace Sys2Proof.Machine

/-- DRAM channels in service (R308). -/
def channelsUp (s : State) : List Nat := (List.range 16).filter fun c => !chRetired s c

/-- Usable DRAM bytes with the channels now in service (R1, R24, R284). -/
def usableDram (s : State) : Nat := (channelsUp s).length * framesPerChannel * 65536

/-- Distinct values of a list. -/
def distinct (l : List Nat) : List Nat := l.foldl (fun a x => if a.contains x then a else a ++ [x]) []

/-- Bytes of translation tables of a context (R111, R113): one level 1 table, and a 16 KiB table for each level 2 and level 3
entry that some mapping needs. -/
def tableBytes (pages : List Nat) : Nat :=
  8192 + 16384 * (distinct (pages.map (· / 2 ^ 22))).length + 16384 * (distinct (pages.map (· / 2 ^ 11))).length

/-- 64 KiB pages of device memory of a statistics slot with `n` channels (R162). -/
def slotPages (n : Nat) : Nat := (32 * n + 65535) / 65536

/-- Bytes of the firmware region in use by tables, plan stores and statistics records (R285, R113, R162, R186), those of contexts that are
still being scrubbed among them (R132). -/
def firmwareUsed (s : State) : Nat :=
  ((s.ctxs.map fun e => if e.2.state == .closed then 0 else tableBytes (tkeys e.2.pages)).foldl (· + ·) 0)
    + (s.sched.plans.map fun e => e.2.store * 65536).foldl (· + ·) 0
    + (s.models.qslots.map fun e => slotPages e.2.channels * 65536).foldl (· + ·) 0
    + (s.store.scrubs.map fun e => e.2 * 65536).foldl (· + ·) 0

/-- Frames of the firmware region that have migrated off a retired or retiring channel (R307). -/
def fwMoved (s : State) : Nat := (s.store.frames.filter fun e => e.2 == fwOwner).length

/-- Frames 0 to 127 of channel `c` that the firmware region occupies: all of them, those that have not migrated yet while the channel retires,
none once it is retired (R285, R307). -/
def fwFrames (s : State) (c : Nat) : Nat :=
  match s.store.retiring with
  | some r => if r.channel = c then (r.firmware.filter fun f => dramFrame (f * 65536) < 128).length else if chRetired s c then 0 else 128
  | none => if chRetired s c then 0 else 128

/-- Bytes of the firmware region (R285): its frames in every channel, and those to which frames of it have migrated (R307). -/
def firmwareSize (s : State) : Nat := (((List.range 16).map (fwFrames s)).foldl (· + ·) 0 + fwMoved s) * 65536

/-- Whether the firmware region has room for the tables of context `h` with these further pages mapped (R113). -/
def tablesFit (s : State) (h : Nat) (new : List Nat) : Bool :=
  let old := tkeys (ctxOf s h).pages
  let before := if (ctxOf s h).state == .closed then 0 else tableBytes old
  firmwareUsed s - before + tableBytes (old ++ new) ≤ firmwareSize s

/-- Element width in bits of a stored format: FP32 32, BF16 16, FP8 8 (R230, R260). -/
def fmtBits (f : Nat) : Nat := if f = 0x01 then 32 else if f = 0x02 then 16 else 8

/-- Residue bytes of a layer's vector (R260). -/
def resBytes (st : StrmSet) (h : Nat) : Nat := if st.residue then 16 * ((h + 15) / 16) else 0

/-- State bytes of one stream of a set (R260). -/
def strmBytes (st : StrmSet) : Nat :=
  (st.layers.map fun (h, v) => v * (16 * ((h * fmtBits st.fmt + 127) / 128) + resBytes st h)).foldl (· + ·) 0

/-- Active footprint of one stream (R260). -/
def strmFoot (st : StrmSet) : Nat := roundUp (2 * strmBytes st + 64) 64

/-- DRAM frames of a paused stream of a set (R260). -/
def strmFrames (st : StrmSet) : Nat := (strmBytes st + 64 + 65535) / 65536

/-- Places that the active streams of a set hold in its space. -/
def strmPlaces (s : State) (set : Nat) : List Nat :=
  (s.models.streams.filter fun e => e.2.set == set && e.2.active).map fun e => e.2.place

/-- The places that `n` more active streams of a set take: the lowest free ones (DESIGN CHOICE, log 38). -/
def newPlaces (s : State) (set n : Nat) : List Nat :=
  let used := strmPlaces s set
  ((List.range (used.length + n)).filter fun p => !used.contains p).take n

/-- The 4 KiB units of a set's space that the footprint at place `p` touches (R260). -/
def placeUnits (st : StrmSet) (p : Nat) : List Nat :=
  let foot := strmFoot st
  (List.range ((p * foot + foot - 1) / 4096 + 1 - p * foot / 4096)).map (· + p * foot / 4096)

/-- The units that a set must lease for `n` more active streams (R260). -/
def moreUnits (s : State) (set n : Nat) : List Nat :=
  let st := tgetD s.models.sets set
  distinct (((newPlaces s set n).map (placeUnits st)).flatten.filter fun u => !thas st.units u)

/-- Sum of a measure over a table. -/
def tsum {α : Type} (t : Tbl α) (f : Nat → α → Nat) : Nat := (t.map fun e => f e.1 e.2).foldl (· + ·) 0

/-- Bytes charged to the memory quota of context `h` (R162, R186, R229, R260, R299). -/
def memCharged (s : State) (h : Nat) : Nat :=
  tsum s.store.objs (fun _ o => if o.ctx = h ∧ !o.host then o.pages * 65536 else 0)
  + tsum s.sched.plans (fun _ p => if p.ctx = h then p.store * 65536 else 0)
  + tsum s.models.pools (fun _ p => if p.ctx = h then p.frames.length * 65536 else 0)
  + tsum s.models.streams (fun _ t => if t.ctx = h ∧ !t.active then strmBytes (tgetD s.models.sets t.set) + 64 else 0)
  + tsum s.models.qslots (fun _ q => if q.ctx = h then 65536 * slotPages q.channels else 0)

/-- Bytes charged to the state store quota of context `h` (R260, R290, R299). -/
def storeCharged (s : State) (h : Nat) : Nat :=
  tsum s.store.objs (fun _ o => if o.ctx = h then o.store.length * 65536 else 0)
  + tsum s.models.sets (fun _ t => if t.ctx = h then t.units.length * 4096 else 0)

/-- Channels that take new frames: neither retiring nor retired (R307). -/
def channelsOpen (s : State) : List Nat := (List.range 16).filter fun c => (tgetD s.store.channels c).state == 0

/-- Frames of channel `c` in use beyond the firmware region (R285, R312). -/
def framesUsed (s : State) (c : Nat) : Nat := (s.store.frames.filter fun e => dramChannel (e.1 * 65536) == some c).length

/-- DRAM frames free in all channels (R288, R312): neither used by an object, a pool or a paused stream, nor being scrubbed. -/
def freeFrames (s : State) : Nat :=
  ((channelsOpen s).map fun c => framesPerChannel - 128 - framesUsed s c).foldl (· + ·) 0

/-- State store frames in use. -/
def storeUsed (s : State) : List Nat := (tkeys s.store.frames).filter fun f => f < storeBytes / 65536

/-- State store bytes free in whole 64 KiB frames (R290). -/
def freeStore (s : State) : Nat :=
  storeBytes - 65536 * (distinct (storeUsed s ++ (tkeys s.store.regions).map (· / 16))).length

/-- 4 KiB units of the state store that are free (R290). -/
def freeUnits (s : State) : Nat := storeBytes / 4096 - 16 * (storeUsed s).length - s.store.regions.length

/-- First free frame of channel `c`: the lowest (DESIGN CHOICE, log 9). -/
def freeFrameOf (s : State) (c : Nat) : Option Nat :=
  let base := (dramBase + c * 0x100000000) / 65536
  freeKey s.store.frames (base + 128) (base + framesPerChannel - 1)

/-- Allocates `n` DRAM frames for context `h`, round robin over the in-service channels from the one after the last used
(R288). The caller has checked `freeFrames`. -/
def allocFrames (h : Nat) : Nat → State → List Nat × State
  | 0, s => ([], s)
  | n + 1, s =>
    let order := (List.range 16).map fun i => (s.store.nextCh + i) % 16
    match (order.filter fun c => (channelsOpen s).contains c).findSome? fun c => (freeFrameOf s c).map fun f => (c, f) with
    | none => ([], s)
    | some (c, f) =>
      let s1 := { s with store.frames := tput s.store.frames f h, store.nextCh := (c + 1) % 16 }
      let (fs, s2) := allocFrames h n s1
      (f :: fs, s2)

/-- The lowest free state store frame from `f` up, looking at `fuel` frames. -/
def freeStoreFrom (s : State) : Nat → Nat → Option Nat
  | 0, _ => none
  | fuel + 1, f =>
    if storeBytes / 65536 ≤ f then none
    else if thas s.store.frames f || s.store.regions.any (fun e => e.1 / 16 == f) then freeStoreFrom s fuel (f + 1)
    else some f

/-- The lowest free 4 KiB unit of the state store from `u` up, looking at `fuel` units. -/
def freeUnitFrom (s : State) : Nat → Nat → Option Nat
  | 0, _ => none
  | fuel + 1, u =>
    if storeBytes / 4096 ≤ u then none
    else if thas s.store.frames (u / 16) || thas s.store.regions u then freeUnitFrom s fuel (u + 1)
    else some u

/-- Allocates `n` state store frames, lowest first (DESIGN CHOICE, log 9). -/
def allocStore (h : Nat) : Nat → State → List Nat × State
  | 0, s => ([], s)
  | n + 1, s =>
    match freeStoreFrom s (s.store.frames.length + s.store.regions.length + 1) 0 with
    | none => ([], s)
    | some f =>
      let (fs, s2) := allocStore h n { s with store.frames := tput s.store.frames f h }
      (f :: fs, s2)

/-- Scrubs frames and returns them to the free pool (R120). -/
def freeFramesOf (fs : List Nat) (s : State) : State :=
  fs.foldl (fun t f => let t1 := physZero (f * 65536) 65536 t; { t1 with store.frames := tdel t1.store.frames f }) s

/-! ### Regions that lie in scattered units -/

/-- Physical address of byte `o` of a region that lies in `us`, units of `u` bytes. -/
def spanAt (us : List Nat) (u o : Nat) : Nat := us.getD (o / u) 0 * u + o % u

/-- Copies `n` bytes from physical `a` to physical `b`, word by word (R295): corrected words become good, failed words stay failed at
their new address. -/
def moveWords (a b n : Nat) (s : State) : State :=
  let bad := (tkeep s.store.words fun w _ => a ≤ w * 16 && w * 16 < a + n && wordBad s (w * 16)).map fun e =>
    (e.1 - a / 16 + b / 16, wordMoved e.2 e.1 (e.1 - a / 16 + b / 16))
  let clean := tkeep s.store.words fun w _ => !(b ≤ w * 16 && w * 16 < b + n)
  { s with
    store.mem := memCopyFrom s.store.mem s.store.mem a n b
    store.words := bad.foldl (fun t e => tput t e.1 e.2) clean }

/-- An object's handle (R299): slot in bits 15:0, generation in bits 31:16; the same form names plans, sequences, streams. -/
def mkHandle (gen slot : Nat) : Nat := gen % 65536 * 65536 + slot

/-- The slot that a handle names, if its generation is current. -/
def slotOf {α : Type} (t : Tbl α) (gen : α → Nat) (h : Nat) : Option (Nat × α) :=
  match tget t (h % 65536) with
  | some v => if h ≠ 0 ∧ gen v % 65536 = h / 65536 then some (h % 65536, v) else none
  | none => none

/-- The next generation: 1 to 65,535 in turn, so that no handle is 0. -/
def nextGen (g : Nat) : Nat := g % 65535 + 1

/-- The plan of a handle that belongs to context `c` (R186). -/
def planOf (s : State) (c h : Nat) : Option (Nat × Plan) := (slotOf s.sched.plans Plan.gen h).filter fun e => e.2.ctx == c

/-- The object of a handle (R299). -/
def objOf (s : State) (h : Nat) : Option (Nat × MemObj) := slotOf s.store.objs MemObj.gen h

/-- The sequence of a handle that belongs to context `c` (R233). -/
def seqOf (s : State) (c h : Nat) : Option (Nat × KvSeq) := (slotOf s.models.seqs KvSeq.gen h).filter fun e => e.2.ctx == c

/-- The stream of a handle that belongs to context `c` (R261). -/
def strmOf (s : State) (c h : Nat) : Option (Nat × Stream) := (slotOf s.models.streams Stream.gen h).filter fun e => e.2.ctx == c

/-- Objects that the range touches (R299). -/
def objsIn (s : State) (h va n : Nat) : List Nat :=
  (s.store.objs.filter fun e => e.2.ctx == h && decide (e.2.va < va + n) && decide (va < e.2.va + e.2.pages * 65536)).map Prod.fst

/-- Pin count of an object (R301). -/
def pinCount (o : MemObj) : Nat := o.pinsMem + o.pinsPlan + o.pinsCmd

/-- Changes object `k` where it exists. -/
def modObj (k : Nat) (f : MemObj → MemObj) (s : State) : State := { s with store.objs := tupd s.store.objs k f }

/-- Adds or removes plan pins on every object that a plan's table touches (R186). -/
def pinPlan (h : Nat) (objs : List PlanObj) (up : Bool) (s : State) : State :=
  (objs.map fun o => objsIn s h o.addr o.size).flatten.foldl
    (fun t k => modObj k (fun o => { o with pinsPlan := if up then o.pinsPlan + 1 else o.pinsPlan - 1 }) t) s

/-- Adds or removes command pins on the objects that a range touches (R301). -/
def pinRange (h va n : Nat) (up : Bool) (s : State) : State :=
  (objsIn s h va n).foldl
    (fun t k => modObj k (fun o => { o with pinsCmd := if up then o.pinsCmd + 1 else o.pinsCmd - 1 }) t) s

/-- A queued command pins what it will write, until it is served or ends (R301). -/
def pinQueued (p : Pkt) (va n : Nat) (s : State) : State :=
  pinRange p.ctx va n true { s with models.queuePins := s.models.queuePins ++ [(p, va, n)] }

/-- The pins of the queued commands that a test names end (R301). -/
def unpinQueued (go : Pkt → Bool) (s : State) : State :=
  (s.models.queuePins.filter fun e => go e.1).foldl (fun t (p, va, n) => pinRange p.ctx va n false t)
    { s with models.queuePins := s.models.queuePins.filter fun e => !go e.1 }

/-- Extends the measurement register of context `h` with an event (R119). -/
def extend (h kind : Nat) (body : List Byte) (s : State) : State :=
  modCtx h (fun c =>
    { c with
      measure := Config.sha512 (toLE 64 c.measure.toNat ++ toLE 8 kind ++ fit 56 body)
      extensions := c.extensions + 1 }) s

/-- The event of the kinds that carry a hash: the first 56 bytes of the SHA-512 of the named bytes (R119). -/
def extendHash (h kind : Nat) (bs : List Byte) (s : State) : State :=
  extend h kind (toLE 64 (Config.sha512 bs).toNat) s

end Sys2Proof.Machine
end

