-- ==== Sys2Proof/Machine/StepOps.lean ====
section
/-! DEFINITION. Steps: the start and the end of an attention step on the key-value cache (09) and of a recurrent step on
streams (10). -/

namespace Sys2Proof.Machine

/-! ### Legs, stages and descriptors (R180, R181) -/

/-- The plan that a run executes: its snapshot once its first leg is committed (R187), before that the plan as loaded. -/
def runPlan (s : State) (r : Run) : Plan :=
  match r.snap with
  | some p => p
  | none => tgetD s.sched.plans (r.plan % 65536)

/-- Leg `i` of a plan: its header and stage records. -/
def legOf (p : Plan) (i : Nat) : List Byte := p.legs.getD i []

/-- Stage records of a leg. -/
def stagesOf (leg : List Byte) : List (List Byte) :=
  (List.range (num leg 0 1)).map fun i => slice leg (64 + 176 * i) 176

/-- All stages of a plan. -/
def planStages (p : Plan) : List (List Byte) := (p.legs.map stagesOf).flatten

/-- The stages with op `op`. -/
def stagesWith (p : Plan) (op : Nat) : List (List Byte) := (planStages p).filter fun st => num st 0 1 == op

/-- Descriptor of a stage. -/
def descOf (p : Plan) (st : List Byte) : List Byte := p.descs.getD (num st 20 2) []

/-- A reference: object index and byte offset (R181). -/
def refOf (bs : List Byte) (off : Nat) : Nat × Nat := (num bs off 2, num bs (off + 4) 4)

/-- Address and remaining size of a reference of run `r`: an object of the table, or the current input item 0xFFFE (R179,
R188). -/
def refAddr (r : Run) (p : Plan) (x : Nat × Nat) : Option (Nat × Nat) :=
  if x.1 = 0xFFFE then r.ring.map fun g => (g.addr + g.head % g.items * g.itemSize + x.2, g.itemSize - x.2)
  else (p.objs[x.1]?).map fun o => (o.addr + x.2, o.size - x.2)

/-- The step source of the plan's attention descriptors (R237). -/
def attnSource (p : Plan) : Option (Nat × Nat) := ((stagesWith p 3).head?).map fun st => refOf (descOf p st) 16

/-- The step source of the plan's cell descriptors (R264). -/
def cellSource (p : Plan) : Option (Nat × Nat) := ((stagesWith p 4).head?).map fun st => refOf (descOf p st) 56

/-- Whether the plan's runs take steps (R237). -/
def hasSteps (p : Plan) : Bool := (attnSource p).isSome || (cellSource p).isSome

/-- Whether a step source of the plan is the run's current input item (R237, R264). -/
def itemSource (p : Plan) : Bool :=
  ((attnSource p).map fun x => x.1 == 0xFFFE).getD false || ((cellSource p).map fun x => x.1 == 0xFFFE).getD false

/-! ### The page registry (R231–R236, R255) -/

/-- Bytes of a latent row (R230). -/
def latentRow (p : KvPool) : Nat := 16 * ((p.dl * fmtBits p.fmt + 127) / 128)

/-- Bytes of a positional row (R230). -/
def posRow (p : KvPool) : Nat := 16 * ((p.dpe + 7) / 8)

/-- Bytes of a page as occupied (R230). -/
def pageBytes (p : KvPool) : Nat := roundUp (64 * (latentRow p + posRow p)) 4096

/-- Physical address of byte `o` of the memory of a pool (R229, R230). -/
def poolAt (p : KvPool) (o : Nat) : Nat := spanAt p.frames 65536 o

/-- Offsets in its pool's memory of the latent and the positional row of slot `j` of the page at place `i` (R230). -/
def latentAt (p : KvPool) (i j : Nat) : Nat := i * pageBytes p + j * latentRow p
/-- The positional block follows the latent block (R230). -/
def posAt (p : KvPool) (i j : Nat) : Nat := i * pageBytes p + 64 * latentRow p + j * posRow p

/-- Physical word addresses of a slot's rows, latent words first. -/
def slotWords (p : KvPool) (i j : Nat) : List Nat :=
  ((List.range (latentRow p / 16)).map fun x => poolAt p (latentAt p i j + 16 * x))
    ++ (List.range (posRow p / 16)).map fun x => poolAt p (posAt p i j + 16 * x)

/-- Pages of a pool that are not free: in use, or awaiting reclamation. -/
def poolPages (s : State) (k : Nat) : List Nat := (s.models.kvPages.filter fun e => e.2.pool == k).map Prod.fst

/-- Free pages of a pool (R255, R256). -/
def poolFree (s : State) (k : Nat) : Nat := (tgetD s.models.pools k).cap - (poolPages s k).length

/-- Committed slots of a page: the largest count below the committed length of a sequence that names it (R232). -/
def pageFill (s : State) (pg : Nat) : Nat :=
  (s.models.seqs.map fun e => (e.2.tables.map fun t =>
    ((t.zipIdx).map fun (q, i) => if q = pg then min 64 (e.2.len - 64 * i) else 0).foldl max 0).foldl max 0).foldl max 0

/-- The lowest place of a pool's memory that no page holds. -/
def freePlace (s : State) (pool : Nat) : Nat :=
  let used := (s.models.kvPages.filter fun e => e.2.pool == pool).map fun e => e.2.index
  ((List.range (used.length + 1)).find? fun i => !used.contains i).getD 0

/-- Allocates a writable page of a layer, the lowest free number and place (DESIGN CHOICE, log 9). -/
def allocPage (pool layer : Nat) (s : State) : Nat × State :=
  match freeKey s.models.kvPages 0 0xFFFFF with
  | none => (0, s)
  | some k => (k, { s with models.kvPages := tput s.models.kvPages k { pool := pool, layer := layer, index := freePlace s pool } })

/-- Copies slot `j` of page `old` into page `new`, both of pool `p` (R236). -/
def copySlot (p : KvPool) (old new : KvPage) (j : Nat) (s : State) : State :=
  ((slotWords p old.index j).zip (slotWords p new.index j)).foldl (fun t (a, b) => moveWords a b 16 t) s

/-- Adds a reference to a page. -/
def refPage (pg : Nat) (s : State) : State :=
  { s with models.kvPages := tupd s.models.kvPages pg fun q => { q with refs := q.refs + 1 } }

/-- Drops a reference: at 0 the page awaits reclamation with the pool's current epoch (R255). -/
def unrefPage (pg : Nat) (s : State) : State :=
  { s with models.kvPages := tupd s.models.kvPages pg fun q =>
      if q.refs ≤ 1 then { q with refs := 0, state := 3, freeEpoch := (tgetD s.models.pools q.pool).epoch }
      else { q with refs := q.refs - 1 } }

/-- Whether a page in state 3 may return to the free list (R255): every step of the pool at or below its free epoch has
ended. -/
def reclaimable (s : State) (q : KvPage) : Bool :=
  q.state == 3 && (tgetD s.models.pools q.pool).active.all fun e => q.freeEpoch < e

/-- Changes sequence `k`. -/
def modSeq (k : Nat) (f : KvSeq → KvSeq) (s : State) : State := { s with models.seqs := tupd s.models.seqs k f }

/-- Sets entry `i` of the layer table `layer` of a sequence. -/
def setEntry (q : KvSeq) (layer i pg : Nat) : KvSeq :=
  { q with tables := q.tables.mapIdx fun l t =>
      if l = layer then (if i < t.length then t.set i pg else t ++ [pg]) else t }

/-- Whether entry `i` of layer `layer` of sequence `k` needs a new page before it is written (R236). -/
def entryNew (s : State) (k layer i : Nat) : Bool :=
  match ((tgetD s.models.seqs k).tables.getD layer [])[i]? with
  | none => true
  | some old => let o := tgetD s.models.kvPages old; 1 < o.refs || o.state == 2

/-- Prepares entry `i` of layer `layer` of sequence `k` for writing (R236), and says whether a page was allocated fresh. -/
def prepEntry (k layer i : Nat) (s : State) : Option Nat × State :=
  let q := tgetD s.models.seqs k
  let t := q.tables.getD layer []
  match t[i]? with
  | none =>
    let (pg, s1) := allocPage q.pool layer s
    (some pg, modSeq k (fun q => setEntry q layer i pg) s1)
  | some old =>
    if entryNew s k layer i then
      let (pg, s1) := allocPage q.pool layer s
      let slots := List.range (q.len % 64)
      let s2 := slots.foldl (fun t j =>
        copySlot (tgetD s.models.pools q.pool) (tgetD s.models.kvPages old) (tgetD s1.models.kvPages pg) j t) s1
      (none, modSeq k (fun q => setEntry q layer i pg) (unrefPage old s2))
    else (none, s)

/-- The table entries, as layer and index, that a step of `n` rows writes for a sequence (R240). -/
def stepEntries (q : KvSeq) (n : Nat) : List (Nat × Nat) :=
  if n = 0 then [] else
  ((List.range q.tables.length).map fun l =>
    (List.range ((q.len + n - 1) / 64 + 1 - q.len / 64)).map fun j => (l, q.len / 64 + j)).flatten

/-- Prepares every page that the step will write for sequence `k` (R236, R240). -/
def prepSeq (k n : Nat) (s : State) : List Nat × State :=
  (stepEntries (tgetD s.models.seqs k) n).foldl
    (fun (fs, t) (l, i) => let (f, t1) := prepEntry k l i t; (fs ++ f.toList, t1)) ([], s)

/-- Pages that a step would allocate for its sequences, each with its number of rows: they are prepared in order, so that a tail that two of
them share is copied once (R236, R240). -/
def pagesNeeded (s : State) (seqs : List (Nat × Nat)) : Nat :=
  (seqs.foldl (fun (c : Nat × State) e =>
    (stepEntries (tgetD c.2.models.seqs e.1) e.2).foldl
      (fun (c : Nat × State) x => (c.1 + b2n (entryNew c.2 e.1 x.1 x.2), (prepEntry e.1 x.1 x.2 c.2).2)) c) (0, s)).1

/-- Marks as full the pages whose slot 63 lies below the committed length of sequence `k` (R232). -/
def markFull (k : Nat) (s : State) : State :=
  let q := tgetD s.models.seqs k
  q.tables.foldl (fun t tb => (tb.zipIdx).foldl (fun t (pg, i) =>
    if 64 * i + 64 ≤ q.len then
      { t with models.kvPages := tupd t.models.kvPages pg fun p => if p.state = 1 then { p with state := 2 } else p }
    else t) t) s

/-- Drops the table entries at or beyond `⌈n / 64⌉` of sequence `k` (R234, R252): the state and the references dropped. -/
def dropBeyond (k n : Nat) (s : State) : Nat × State :=
  let q := tgetD s.models.seqs k
  let cut := (n + 63) / 64
  let gone := (q.tables.map fun t => t.drop cut).flatten
  (gone.length, gone.foldl (fun t pg => unrefPage pg t) (modSeq k (fun q => { q with tables := q.tables.map fun t => t.take cut }) s))

/-! ### Where streams lie (R260, R261) -/

/-- Changes stream `k`. -/
def modStrm (k : Nat) (f : Stream → Stream) (s : State) : State := { s with models.streams := tupd s.models.streams k f }

/-- Physical address of byte `o` of the committed state of a stream: in its frames, or in its footprint of its set's units. -/
def strmAt (s : State) (x : Stream) (o : Nat) : Nat :=
  let st := tgetD s.models.sets x.set
  if x.active then
    let a := x.place * strmFoot st + o
    (tget st.units (a / 4096)).getD 0 * 4096 + a % 4096
  else spanAt x.frames 65536 o

/-- Physical word addresses of the committed state of a stream. -/
def strmWords (s : State) (x : Stream) : List Nat :=
  (List.range (strmBytes (tgetD s.models.sets x.set) / 16)).map fun i => strmAt s x (16 * i)

/-- Committed state of a stream (R260). -/
def strmState (s : State) (x : Stream) : List Byte := ((strmWords s x).map fun a => physRead s a 16).flatten

/-- The failed words of the committed state of a stream, by word address (R297). -/
def strmBad (s : State) (x : Stream) : List Nat := ((strmWords s x).filter (wordBad s)).map (· / 16)

/-- Stores the committed state of a stream. -/
def strmPut (x : Stream) (bs : List Byte) (s : State) : State :=
  ((strmWords s x).zipIdx).foldl (fun t (a, i) => physWrite a (slice bs (16 * i) 16) t) s

/-- Takes a 4 KiB unit of the state store with its region lease for unit `u` of the space of set `k` (R129, R260, R290). -/
def takeUnit (k u : Nat) (s : State) : State :=
  let h := (tgetD s.models.sets k).ctx
  match freeUnitFrom s (16 * s.store.frames.length + s.store.regions.length + 1) 0 with
  | none => s
  | some n =>
    takeLease 4 h n 0 { s with
      store.regions := tput s.store.regions n h
      models.sets := tupd s.models.sets k fun q => { q with units := tput q.units u n } }

/-- Returns the units of set `k` that no active stream needs any more: scrubbed and free, their leases gone (R120, R260). -/
def trimSet (k : Nat) (s : State) : State :=
  let st := tgetD s.models.sets k
  let need := ((strmPlaces s k).map (placeUnits st)).flatten
  (tkeep st.units fun u _ => !need.contains u).foldl (fun t (u, n) =>
    let t1 := dropLease 4 n (physZero (n * 4096) 4096 t)
    { t1 with
      store.regions := tdel t1.store.regions n
      models.sets := tupd t1.models.sets k fun q => { q with units := tdel q.units u } }) s

/-- Gives stream `k`, which has none, its footprint in its set's space, and makes it Active (R260). -/
def seatStrm (k : Nat) (s : State) : State :=
  let x := tgetD s.models.streams k
  let s1 := (moreUnits s x.set 1).foldl (fun t u => takeUnit x.set u t) s
  modStrm k (fun y => { y with active := true, place := (newPlaces s x.set 1).headD 0 }) s1

/-- Moves the committed state of stream `k` from where `old` has it to where it lies now. -/
def moveStrm (old : List Nat) (k : Nat) (s : State) : State :=
  (old.zip (strmWords s (tgetD s.models.streams k))).foldl (fun t (a, b) => moveWords a b 16 t) s

/-- STRM_RESUME's effect (R261): the committed state of a Paused stream moves to the state store, its frames are scrubbed and free. -/
def resumeStrm (k : Nat) (s : State) : State :=
  let x := tgetD s.models.streams k
  if x.active then s
  else
    let s1 := moveStrm (strmWords s x) k (seatStrm k s)
    modStrm k (fun y => { y with frames := [] }) (freeFramesOf x.frames s1)

/-- Gives stream `k` its DRAM frames, and makes it Paused (R260). -/
def parkStrm (k : Nat) (s : State) : State :=
  let x := tgetD s.models.streams k
  let a := allocFrames x.ctx (strmFrames (tgetD s.models.sets x.set)) s
  modStrm k (fun y => { y with active := false, frames := a.1 }) a.2

/-- STRM_PAUSE's effect (R261): the committed state of an Active stream moves to DRAM, its space is scrubbed and free. -/
def pauseStrm (k : Nat) (s : State) : State :=
  let x := tgetD s.models.streams k
  trimSet x.set (moveStrm (strmWords s x) k (parkStrm k s))

/-- Ends stream `k`: what it holds is scrubbed and free (R120, R281). -/
def endStrm (k : Nat) (s : State) : State :=
  let x := tgetD s.models.streams k
  trimSet x.set { freeFramesOf x.frames s with models.streams := tdel s.models.streams k }

/-! ### The attention step record (R238–R241) -/

/-- Sequence entry `i` of a step record. -/
def attnEntry (rec : List Byte) (i : Nat) : List Byte := slice rec (64 + 32 * i) 32

/-- Depth of each node of a candidate tree (R249). -/
def nodeDepths (parents : List Nat) : List Nat :=
  parents.foldl (fun ds p => ds ++ [ds.getD p 0 + 1]) [0]

/-- Parents of nodes 1 to `c` of an entry. -/
def entryParents (e : List Byte) : List Nat := (List.range (num e 7 1)).map fun i => num e (16 + i) 1

/-- Whether the Tail program of a stage holds SMAX with a mask aux, and that aux (R173, R485). -/
def smaxAux (st : List Byte) : Option Nat :=
  ((List.range 8).map fun i => slice st (120 + 4 * i) 4).findSome? fun w =>
    if num w 0 1 = 7 ∧ num w 2 1 ≠ 0xFF then some (num w 2 1) else none

/-- The first failing check of an attention step record (R241, R485), for a record at `size` bytes of room. -/
def attnCheck (s : State) (r : Run) (p : Plan) (rec : List Byte) (size : Nat) : Option Code :=
  let mode := num rec 1 1
  let S := num rec 2 2
  let Q := num rec 4 2
  let es := (List.range (min S 64)).map (attnEntry rec)
  let zero := fun off n => num rec off n == 0
  let seq := fun (e : List Byte) => seqOf s r.ctx (num e 0 4)
  let len := fun (e : List Byte) => ((seq e).map fun q => q.2.len).getD 0
  let stages := stagesWith p 3
  let kmax := (es.map fun e => len e + num e 4 2).foldl max 0
  let offs := [num rec 8 4, num rec 12 4, num rec 16 4]
    ++ (es.map fun e => [num e 8 4, num e 12 4]).flatten
  let pool := tget s.models.pools (num rec 0 1)
  let poolOk := (pool.map fun q => q.ctx == r.ctx).getD false
  let P := pool.getD {}
  (firstFail [
    (!(zero 6 2 && zero 20 44), .eReserved, 0),
    (size < 64 + 32 * S, .eRange, 0),
    (1 < mode || S = 0 || 64 < S, .eRange, 0),
    (if mode = 0 then Q = 0 || 4096 < Q else Q < 2 || 17 < Q, .eRange, 0),
    (es.any fun e => num e 4 2 = 0 || Q < num e 4 2 || 3 < num e 6 1, .eRange, 0),
    (es.any fun e => if mode = 0 then num e 7 1 ≠ 0 else num e 7 1 = 0 || 16 < num e 7 1, .eRange, 0),
    (es.any fun e => (entryParents e).any fun x => num e 7 1 < x, .eRange, 0),
    (size < num rec 8 4 + 4 * S * Q || (mode = 1 && size < num rec 12 4 + 4 * S * Q) || size < num rec 16 4 + 32 + 16 * S, .eRange, 0),
    (es.any fun e => 2 ≤ num e 6 1 && size < num e 8 4 + num e 4 2 * (16 * ((len e + num e 4 2 + 127) / 128)), .eRange, 0),
    (es.any fun e => mode = 1 && size < num e 12 4 + 4 * num e 7 1, .eRange, 0),
    (stages.any fun st => num st 8 4 < S * Q, .eRange, 0),
    (es.any fun e => 1048576 < len e + num e 4 2, .eRange, 0),
    (stages.any fun st => match smaxAux st with
      | none => false
      | some a => match refAddr r p (refOf st (88 + 8 * a)) with
        | none => true
        | some (_, room) => room < S * Q * (16 * ((kmax + 127) / 128)), .eRange, 0),
    (offs.any fun o => o % 16 ≠ 0, .eAlign, 0),
    (!poolOk, .eHandle, 0),
    (es.any fun e => match seq e with | none => true | some q => q.2.pool ≠ num rec 0 1, .eHandle, 0),
    ((distinct (es.map fun e => num e 0 4)).length ≠ es.length, .eCombination, 0),
    (es.any fun e => mode = 1 && num e 4 2 ≠ 1 + num e 7 1, .eCombination, 0),
    (es.any fun e => (entryParents e).zipIdx.any fun (x, i) => i + 1 ≤ x, .eCombination, 0),
    (stages.any fun st => let d := descOf p st
      num d 3 1 ≠ P.fmt || num d 10 2 ≠ P.dl || num d 12 1 ≠ P.dpe || P.layers ≤ num d 2 1, .eCombination, 0),
    (poolFree s (num rec 0 1) < pagesNeeded s (es.filterMap fun e => (seq e).map fun q => (q.1, num e 4 2)),
      .eNomem, 0)]).map Fail.code

/-- Reads the step record of a reference: its base address, its room, its bytes. -/
def stepRecord (s : State) (r : Run) (p : Plan) (x : Nat × Nat) (hdr per : Nat) : Nat × Nat × List Byte :=
  match refAddr r p x with
  | none => (0, 0, [])
  | some (a, n) => (a, n, vread s r.ctx a (min n (hdr + per * num (vread s r.ctx (a + 2) 2) 0 2)))

/-- The sequences of an attention record that exist, in record order. -/
def attnSeqs (s : State) (r : Run) (rec : List Byte) : List Nat :=
  (List.range (min (num rec 2 2) 64)).filterMap fun i => (seqOf s r.ctx (num (attnEntry rec i) 0 4)).map Prod.fst

/-! ### The recurrent step record (R266, R267) -/

/-- Stream entry `i` of a recurrent step record. -/
def cellEntry (rec : List Byte) (i : Nat) : List Byte := slice rec (32 + 16 * i) 16

/-- The first failing check of a recurrent step record (R267 with the codes of R241). -/
def cellCheck (s : State) (r : Run) (p : Plan) (rec : List Byte) (size : Nat) : Option Code :=
  let S := num rec 2 2
  let T := num rec 4 2
  let es := (List.range (min S 64)).map (cellEntry rec)
  let set := num rec 0 1
  let st := tget s.models.sets set
  let strm := fun (e : List Byte) => strmOf s r.ctx (num e 0 4)
  let paused := (es.filter fun e => match strm e with | some q => !q.2.active | none => false).length
  let stages := stagesWith p 4
  let need := (moreUnits s set paused).length
  (firstFail [
    (num rec 1 1 ≠ 0 || num rec 6 2 ≠ 0 || num rec 12 20 ≠ 0
      || es.any fun e => 2 ≤ num e 6 1 || num e 7 9 ≠ 0, .eReserved, 0),
    (size < 32 + 16 * S || S = 0 || 64 < S || T = 0 || 4096 < T, .eRange, 0),
    (es.any fun e => num e 4 2 = 0 || T < num e 4 2, .eRange, 0),
    (size < num rec 8 4 + 16 + 16 * S, .eRange, 0),
    (stages.any fun x => num x 8 4 < S * T, .eRange, 0),
    (num rec 8 4 % 16 ≠ 0, .eAlign, 0),
    ((st.map fun q => q.ctx != r.ctx).getD true, .eHandle, 0),
    (es.any fun e => match strm e with | none => true | some q => q.2.set ≠ set, .eHandle, 0),
    ((distinct (es.map fun e => num e 0 4)).length ≠ es.length, .eCombination, 0),
    (stages.any fun x => let d := descOf p x
      match (st.getD {}).layers[num d 4 1]? with | none => true | some l => l.1 ≠ num d 12 2 || l.2 ≠ (if num d 2 1 = 2 then 2 else 1), .eCombination, 0),
    (0 < paused && freeUnits s < need, .eNomem, 0),
    (0 < paused && 2048 < (s.models.streams.filter fun e => e.2.active).length + paused, .eNoslot, 0),
    (0 < paused && r.ctx ≠ 0 && ((ctxOf s r.ctx).quota.activeStreams
      < (s.models.streams.filter fun e => e.2.ctx == r.ctx && e.2.active).length + paused
      || (ctxOf s r.ctx).quota.stateStore < storeCharged s r.ctx + need * 4096), .eQuota, 0)]).map Fail.code

/-- The streams of a recurrent record that exist, in record order. -/
def cellStreams (s : State) (r : Run) (rec : List Byte) : List Nat :=
  (List.range (min (num rec 2 2) 64)).filterMap fun i => (strmOf s r.ctx (num (cellEntry rec i) 0 4)).map Prod.fst

/-! ### Step start (R240, R267) -/

/-- What a step start comes to. -/
inductive StartOut where
  /-- a sequence or stream of the record is claimed: the run is not ready -/
  | notReady
  | rejected (c : Code)
  | started
  deriving DecidableEq, Repr

/-- Whether the step record that run `r` would read lies in host memory while its requests are held: the step waits (R52, R53, R482). -/
def stepHeld (s : State) (r : Run) : Bool :=
  held s && [attnSource (runPlan s r), cellSource (runPlan s r)].any fun x =>
    match x.bind (refAddr r (runPlan s r)) with
    | some (a, n) => rangeHost s r.ctx a (min n 2112)
    | none => false

/-- Whether run `r` can start its step: its record can be read, and the sequences and streams that it would claim are free (R240, R267,
R482). -/
def stepClaimable (s : State) (r : Run) : Bool :=
  let p := runPlan s r
  !stepHeld s r && (match attnSource p with
    | none => true
    | some x =>
      let (_, _, rec) := stepRecord s r p x 64 32
      (attnSeqs s r rec).all fun k => (tgetD s.models.seqs k).claimed.isNone)
  && (match cellSource p with
    | none => true
    | some x =>
      let (_, _, rec) := stepRecord s r p x 32 16
      (cellStreams s r rec).all fun k => (tgetD s.models.streams k).claimed.isNone)

/-- The position of each padded row (R240): `n + r`, or `n` plus the node's depth in verification, 0 for padding. -/
def attnPositions (s : State) (r : Run) (rec : List Byte) : List Nat :=
  let mode := num rec 1 1
  let Q := num rec 4 2
  ((List.range (num rec 2 2)).map fun i =>
    let e := attnEntry rec i
    let n := ((seqOf s r.ctx (num e 0 4)).map fun q => q.2.len).getD 0
    let d := nodeDepths (entryParents e)
    (List.range Q).map fun j => if num e 4 2 ≤ j then 0 else if mode = 1 then n + d.getD j 0 else n + j).flatten

/-- The attention part of a step start: claims, pages, positions, epoch (R240). -/
def attnStart (k : Nat) (r : Run) (base : Nat) (rec : List Byte) (st : StepInfo) (s : State) : StepInfo × State :=
  let seqs := attnSeqs s r rec
  let pool := num rec 0 1
  let pos := attnPositions s r rec
  let s1 := seqs.foldl (fun t q => modSeq q (fun x => { x with claimed := some k, before := x.tables }) t) s
  let (fresh, s2) := (seqs.zipIdx).foldl (fun (fs, t) (q, i) =>
    let (f, t1) := prepSeq q (num (attnEntry rec i) 4 2) t; (fs ++ f, t1)) ([], s1)
  let s3 := vwrite r.ctx (base + num rec 8 4) (pos.map (toLE 4)).flatten s2
  let ep := (tgetD s3.models.pools pool).epoch + 1
  ({ st with attn := some base, pool := pool, epoch := ep, seqs := seqs, fresh := fresh, empties := [] },
   { s3 with models.pools := tupd s3.models.pools pool fun q => { q with epoch := ep, active := q.active ++ [ep] } })

/-- The recurrent part of a step start: claims, resumes, working copies (R267). -/
def cellStart (k : Nat) (r : Run) (base : Nat) (rec : List Byte) (st : StepInfo) (s : State) : StepInfo × State :=
  let strms := cellStreams s r rec
  let resumed := strms.any fun q => !(tgetD s.models.streams q).active
  let s1 := strms.foldl (fun t q => modStrm q (fun x => { x with claimed := some k }) (resumeStrm q t)) s
  let work := (strms.zipIdx).foldl (fun w (q, i) =>
    let x := tgetD s1.models.streams q
    let old := strmState s1 x
    tput w q (if (num (cellEntry rec i) 6 1).testBit 0 then List.replicate old.length 0 else old)) []
  let read := (strms.zipIdx).filter fun (_, i) => !(num (cellEntry rec i) 6 1).testBit 0
  let bad := (read.map fun (q, _) => strmBad s1 (tgetD s1.models.streams q)).flatten
  ({ st with cell := some base, streams := strms, work := work, first := work, resumed := resumed, norms := [], excs := [], bad := bad }, s1)

/-- Step start of run `k` (R240, R267): claims first, then the records' checks, then the preparation. -/
def stepStart (k : Nat) (s : State) : StartOut × State :=
  match tget s.sched.runs k with
  | none => (.notReady, s)
  | some r =>
    let p := runPlan s r
    if !stepClaimable s r then (.notReady, s)
    else
      let a := (attnSource p).map fun x => stepRecord s r p x 64 32
      let c := (cellSource p).map fun x => stepRecord s r p x 32 16
      let bad := match a with | some (_, n, rec) => attnCheck s r p rec n | none => none
      let bad2 := match bad with
        | some b => some b
        | none => match c with | some (_, n, rec) => cellCheck s r p rec n | none => none
      match bad2 with
      | some b => (.rejected b, s)
      | none =>
        let (st1, s1) := match a with | some (b, _, rec) => attnStart k r b rec {} s | none => ({}, s)
        let (st2, s2) := match c with | some (b, _, rec) => cellStart k r b rec st1 s1 | none => (st1, s1)
        (.started, { s2 with sched.runs := tupd s2.sched.runs k fun x => { x with step := some st2, stepDue := false } })

/-! ### What attention and cell legs do to the caches -/

/-- Writes the rows of slot `j` of the page at place `i` (R230, R243). -/
def writeSlot (p : KvPool) (i j : Nat) (bs : List Byte) (s : State) : State :=
  ((slotWords p i j).zipIdx).foldl (fun t (a, x) => physWrite a (slice bs (16 * x) 16) t) s

/-- Writes the new rows of an attention stage into the pages of its layer (R243 phase 1). -/
def attnRows (r : Run) (p : Plan) (st : StepInfo) (stage : List Byte) (s : State) : State :=
  match st.attn with
  | none => s
  | some base =>
    let d := descOf p stage
    let rec_ := vread s r.ctx base (64 + 32 * st.seqs.length)
    let Q := num rec_ 4 2
    let P := tgetD s.models.pools st.pool
    let lat := refAddr r p (refOf d 24)
    let pos := if P.dpe = 0 then none else refAddr r p (refOf d 32)
    let layer := num d 2 1
    (st.seqs.zipIdx).foldl (fun t (q, i) =>
      let x := tgetD t.models.seqs q
      let tb := x.tables.getD layer []
      (List.range (num (attnEntry rec_ i) 4 2)).foldl (fun t j =>
        let row := i * Q + j
        let l := (lat.map fun a => vread s r.ctx (a.1 + row * latentRow P) (latentRow P)).getD []
        let o := (pos.map fun a => vread s r.ctx (a.1 + row * posRow P) (posRow P)).getD []
        let slot := x.len + j
        writeSlot P (tgetD t.models.kvPages (tb.getD (slot / 64) 0)).index (slot % 64)
          (fit (latentRow P) l ++ fit (posRow P) o) t) t) s

/-- Physical word addresses of the rows of token `tok` of a layer of a sequence. -/
def tokenWords (s : State) (q : KvSeq) (layer tok : Nat) : List Nat :=
  match tget s.models.kvPages ((q.tables.getD layer []).getD (tok / 64) 0) with
  | some g => slotWords (tgetD s.models.pools q.pool) g.index (tok % 64)
  | none => []

/-- Row of token `tok` of a layer of a sequence: its latent row followed by its positional row. -/
def kvRow (s : State) (q : KvSeq) (layer tok : Nat) : List Byte :=
  ((tokenWords s q layer tok).map fun a => physRead s a 16).flatten

/-- The failed words, by word address, in the rows of `n` tokens from token `from_` of a layer of a sequence (R297). -/
def kvBad (s : State) (q : KvSeq) (layer from_ n : Nat) : List Nat :=
  if s.store.words.isEmpty then [] else
  (((List.range n).map fun i => tokenWords s q layer (from_ + i)).flatten.filter (wordBad s)).map (· / 16)

/-- The corrected words in those rows are counted (R297). -/
def kvFound (q : KvSeq) (layer from_ n : Nat) (s : State) : State :=
  readPhys (((List.range n).map fun i => tokenWords s q layer (from_ + i)).flatten) s

/-- The pages of layer `layer` that an attention step writes: its sequences' entries for their new rows (R243). -/
def pagesWritten (s : State) (rec : List Byte) (seqs : List Nat) (layer : Nat) : List Nat :=
  ((seqs.zipIdx).map fun (k, i) =>
    let q := tgetD s.models.seqs k
    ((stepEntries q (num (attnEntry rec i) 4 2)).filter fun e => e.1 == layer).map fun e => (q.tables.getD layer []).getD e.2 0).flatten

/-- Moves the row of slot `a` to slot `b` in every layer of sequence `k` (R252). -/
def moveRow (k a b : Nat) (s : State) : State :=
  let q := tgetD s.models.seqs k
  (List.range q.tables.length).foldl (fun t l =>
    ((tokenWords s q l a).zip (tokenWords s q l b)).foldl (fun t (x, y) => moveWords x y 16 t) t) s

/-! ### Acceptance (R251) -/

/-- Which nodes are accepted: node 0, and each node whose parent is accepted and whose draft token is its parent's
prediction (R251). -/
def acceptedNodes (parents tokens preds : List Nat) : List Bool :=
  (parents.zip tokens).foldl (fun acc (p, tok) => acc ++ [acc.getD p false && tok == preds.getD p 0]) [true]

/-- The path from node 0 that follows the lowest-numbered accepted child (R251). -/
def acceptPath (parents : List Nat) (acc : List Bool) : Nat → Nat → List Nat
  | 0, i => [i]
  | f + 1, i =>
    match (List.range parents.length).find? fun j => parents.getD j 0 == i && acc.getD (j + 1) false with
    | none => [i]
    | some j => i :: acceptPath parents acc f (j + 1)

/-- Accepted path of an entry, given its draft tokens and the predictions of its rows. -/
def entryPath (parents tokens preds : List Nat) : List Nat :=
  acceptPath parents (acceptedNodes parents tokens preds) parents.length 0

/-- Commits one sequence of a step: its new length, accepted count and bonus token (R251–R253). -/
def commitSeq (mode n Q i : Nat) (e : List Byte) (k ctx base : Nat) (preds toks : Nat) (s : State) : (Nat × Nat × Nat) × State :=
  if mode = 0 then
    let s1 := markFull k (modSeq k (fun q => { q with len := n + num e 4 2 }) s)
    ((n + num e 4 2, 0, 0), s1)
  else
    let parents := entryParents e
    let rd := fun a => num (vread s ctx a 4) 0 4
    let ps := (List.range (num e 4 2)).map fun j => rd (base + preds + 4 * (i * Q + j))
    let ts := (List.range (num e 7 1)).map fun j => rd (base + toks + 4 * j)
    let path := entryPath parents ts ps
    let d := nodeDepths parents
    let s1 := path.foldl (fun t x => if x = d.getD x 0 then t else moveRow k (n + x) (n + d.getD x 0) t) s
    let len := n + path.length
    let s2 := modSeq k (fun q => { q with len := len }) s1
    let (_, s3) := dropBeyond k len s2
    ((len, path.length - 1, ps.getD (path.getLast?.getD 0) 0), markFull k s3)

/-- Step end of the attention part of a run (R253 actions 1 to 4 and the release of the claims of 5), with the code that the
step's result carries. The done count is written last. -/
def attnEnd (k : Nat) (r : Run) (st : StepInfo) (code : Code) (failed : Bool) (notes : Nat) (s : State) : State :=
  match st.attn with
  | none => s
  | some base =>
    let rec_ := vread s r.ctx base (64 + 32 * st.seqs.length)
    let mode := num rec_ 1 1
    let Q := num rec_ 4 2
    let (rows, s1) := (st.seqs.zipIdx).foldl (fun (acc, t) (q, i) =>
      let e := attnEntry rec_ i
      let n := (tgetD t.models.seqs q).len
      if failed then
        let (_, t1) := dropBeyond q n t
        (acc ++ [(n, 0, 0)], t1)
      else
        let (x, t1) := commitSeq mode n Q i e q r.ctx base (num rec_ 12 4) (num e 12 4) t
        (acc ++ [x], t1)) ([], s)
    let out := base + num rec_ 16 4
    let body := ((rows.zipIdx).map fun ((len, a, b), i) =>
      toLE 4 len ++ toLE 1 a ++ [0] ++ toLE 2 (sat 16 (st.empties.filter fun m => m / Q == i).length) ++ toLE 4 b ++ toLE 4 0).flatten
    let s2 := vwrite r.ctx out (toLE 2 (codeVal code) ++ toLE 2 0 ++ toLE 4 notes ++ toLE 8 s1.time.now) s1
    let s3 := vwrite r.ctx (out + 20) (toLE 12 0 ++ body) s2
    let s4 := vwrite r.ctx (out + 16) (toLE 4 (r.steps + 1)) s3
    let s5 := st.seqs.foldl (fun t q => modSeq q (fun x => if x.claimed = some k then { x with claimed := none, before := [] } else x) t) s4
    { s5 with models.pools := tupd s5.models.pools st.pool fun q => { q with active := q.active.filter (· != st.epoch) } }

/-- Step end of the recurrent part of a run (R268, R269, R273). -/
def cellEnd (k : Nat) (r : Run) (st : StepInfo) (code : Code) (failed : Bool) (notes : Nat) (s : State) : State :=
  match st.cell with
  | none => s
  | some base =>
    let rec_ := vread s r.ctx base (32 + 16 * st.streams.length)
    let (rows, s1) := (st.streams.zipIdx).foldl (fun (acc, t) (q, i) =>
      let x := tgetD t.models.streams q
      let steps := if failed then x.steps else x.steps + num (cellEntry rec_ i) 4 2
      let ex := ((tget st.excs q).getD []).length
      let drift := ex ≠ 0
      let paused := drift && x.enable && x.pause && !failed && strmFrames (tgetD t.models.sets x.set) ≤ freeFrames t
      let t0 := if failed then t else strmPut x ((tget st.work q).getD []) t
      let t1 := modStrm q (fun y =>
        { y with
          steps := steps
          excursions := y.excursions + ex
          claimed := if y.claimed = some k then none else y.claimed }) t0
      (acc ++ [toLE 8 steps ++ toLE 4 ((tget st.norms q).getD 0) ++ toLE 2 (sat 16 ex)
        ++ toLE 1 (b2n drift + 2 * b2n paused) ++ [0]], if paused then pauseStrm q t1 else t1)) ([], s)
    let out := base + num rec_ 8 4
    let s2 := vwrite r.ctx out (toLE 2 (codeVal code) ++ toLE 2 0 ++ toLE 4 notes) s1
    let s3 := vwrite r.ctx (out + 12) (toLE 4 0 ++ rows.flatten) s2
    vwrite r.ctx (out + 8) (toLE 4 (r.steps + 1)) s3

/-- The result header of a step that its record's check rejected (R241, R253, R269): its code, its done count, and its reserved bytes
as 0 (R8). -/
def rejectedResult (r : Run) (p : Plan) (code : Code) (s : State) : State :=
  let wr := fun (x : Nat × Nat) (hdr per at_ done : Nat) (t : State) =>
    let (base, size, rec) := stepRecord t r p x hdr per
    let out := num rec at_ 4
    if size < out + 2 * done || rec.isEmpty then t
    else
      let t1 := vwrite r.ctx (base + out) (toLE 2 (codeVal code) ++ toLE 2 0 ++ toLE 4 0 ++ (if done = 16 then toLE 8 t.time.now else [])) t
      let t2 := vwrite r.ctx (base + out + done + 4) (toLE (if done = 16 then 12 else 4) 0) t1
      vwrite r.ctx (base + out + done) (toLE 4 (r.steps + 1)) t2
  let s1 := match attnSource p with | some x => wr x 64 32 16 16 s | none => s
  match cellSource p with | some x => wr x 32 16 8 8 s1 | none => s1

end Sys2Proof.Machine
end

