-- ==== Sys2Proof/Machine/Parcels.lean ====
section
/-! DEFINITION. State parcels (10, R274–R277): the envelope of streams and key-value bundles. -/

namespace Sys2Proof.Machine

/-- Bytes of a parcel with a payload of `n` bytes (R274). -/
def parcelSize (n : Nat) : Nat := 192 + n + 16 + 132

/-- Recipient key of the peer record of context `h`, or the own identity key (R281). -/
def recipientOf (s : State) (p : Pkt) : List Byte := if (peersOf s p).1.isEmpty then identityPoint else (peersOf s p).1

/-- The 192-byte parcel header (R274). -/
def parcelHead (type size recip num time : Nat) (eph : List Byte) : List Byte :=
  toLE 4 0x33505250 ++ toLE 2 0x0100 ++ toLE 1 type ++ [0] ++ toLE 4 size ++ toLE 4 0 ++ toLE 8 deviceId ++ toLE 8 recip
    ++ toLE 8 num ++ toLE 8 time ++ fit 133 eph ++ toLE 11 0

/-- The 44 bytes that HKDF derives from a parcel's ECDH secret and its header (R275). -/
def parcelKey (z : BitVec 528) (hdr : List Byte) : List Byte :=
  (toLE 72 (Config.hkdf (slice hdr 16 24) (toLE 66 z.toNat) (hdr.take 48)).toNat).take 44

/-- Seals a parcel's payload: bytes 0–31 of the derived 44 are the key, bytes 32–43 the nonce (R275). -/
def sealParcel (k hdr payload : List Byte) : List Byte := Config.gcmSeal (slice k 0 32) (slice k 32 12) hdr payload

/-- Makes the next parcel for packet `p` (R274, R275, R281): header, sealed payload, signature; the export count grows. -/
def makeParcel (p : Pkt) (type : Nat) (payload : List Byte) (s : State) : List Byte × State :=
  let n := s.models.exports + 1
  let to_ := recipientOf s p
  let hdr := parcelHead type (parcelSize payload.length) (keyIdOf to_) n s.time.now (ephemeral s.freeCtr)
  let body := hdr ++ fit (payload.length + 16) (sealParcel (parcelKey (Config.ecdh s.freeCtr to_) hdr) hdr payload)
  (body ++ toLE 132 (Config.ecdsaSign (s.freeCtr + 1) body).toNat,
   { s with models.exports := n, freeCtr := s.freeCtr + 2 })

/-- The signature of a parcel is the own device's or the accepted sender's (R277). -/
def parcelSigned (s : State) (p : Pkt) (b : List Byte) : Bool :=
  let body := b.take (b.length - 132)
  let sig := b.drop (b.length - 132)
  let ok := fun (k : List Byte) => keyIdOf k == num b 16 8 && Config.ecdsaVerify k body sig
  ok identityPoint || (!(peersOf s p).2.isEmpty && ok (peersOf s p).2)

/-- The payload of a parcel, if its tag holds under the keys that the identity private key gives (R275). -/
def parcelOpen (b : List Byte) : Option (List Byte) :=
  let hdr := b.take 192
  let k := parcelKey (Config.identityEcdh (slice b 48 133)) hdr
  Config.gcmOpen (slice k 0 32) (slice k 32 12) hdr ((b.drop 192).take (b.length - 324))

/-- The pair of R277 check 7. -/
def parcelPair (b : List Byte) : Nat × Nat := (num b 16 8, num b 32 8)

/-- The whole parcel at address `a` of context `h`. -/
def parcelAt (s : State) (h a : Nat) : List Byte := vread s h a (num (vread s h a 12) 8 4)

/-- Reserved bytes of a parcel header (R274). -/
def parcelRsv (b : List Byte) : Bool := num b 7 1 != 0 || num b 12 4 != 0 || num b 181 11 != 0

/-- Checks 1 to 7 of R277 on the parcel at the address of parameter byte `off`; `shape` says whether a payload has the shape of
the target. -/
def parcelChk (s : State) (p : Pkt) (off type : Nat) (shape : List Byte → Bool) : List (List (Bool × Code × Nat)) :=
  let h := p.ctx
  let a := fld p off 8
  let size := num (vread s h a 12) 8 4
  let b := parcelAt s h a
  let pl := (parcelOpen b).getD []
  [addrChk s h a 192 64 off, permChk s h a 192 false off, [
    (num b 0 4 != 0x33505250 || num b 4 2 / 256 != 1, .eVersion, off),
    (size < parcelSize 32 || !rangeMapped s h a size || num b 6 1 != type, .eRange, off),
    (parcelRsv b, .eReserved, off),
    (!rangePermits s h a size false, .eDenied, off),
    (!parcelSigned s p b, .eSignature, off),
    (num b 24 8 != deviceId, .eDenied, off),
    ((parcelOpen b).isNone, .eSignature, off),
    (!shape pl, .eCombination, off),
    (s.models.imported.contains (parcelPair b), .eState, off)]]

/-- Notes a parcel as imported: the last 4,096 pairs are kept (R277); the context's measurement takes the whole parcel (R119). -/
def noteImport (h kind : Nat) (b : List Byte) (s : State) : State :=
  extendHash h kind b { s with models.imported := (parcelPair b :: s.models.imported).take 4096 }

end Sys2Proof.Machine
end

