-- ==== Sys2Proof/Machine/KvEdits.lean ====
section
/-! DEFINITION. The key-value commands that a step can hold back (09, R254): KV_FORK, KV_TRUNCATE, KV_FREE and KV_READ. -/

namespace Sys2Proof.Machine

/-- Slot and sequence that parameter byte 16 names. -/
def pSeq (p : Pkt) (s : State) : Option (Nat × KvSeq) := seqOf s p.ctx (fld p 16 4)

/-- The sequence that parameter byte 16 names, for the checks after its own. -/
def pSeqD (p : Pkt) (s : State) : KvSeq := ((pSeq p s).map Prod.snd).getD {}

/-- An unknown sequence (R257). -/
def seqChk (p : Pkt) (s : State) : List (Bool × Code × Nat) := [((pSeq p s).isNone, .eHandle, 16)]

/-- Sequences of context `h`. -/
def seqCount (s : State) (h : Nat) : Nat := (s.models.seqs.filter fun e => e.2.ctx == h).length

/-- Limits on a new sequence (R257). -/
def newSeqChk (p : Pkt) (s : State) : List (Bool × Code × Nat) :=
  [(4096 ≤ seqCount s p.ctx, .eQuota, 0xFFFF), (65536 ≤ s.models.seqs.length, .eNoslot, 0xFFFF)]

/-- Makes a sequence; its handle (R233). -/
def newSeq (q : KvSeq) (s : State) : Nat × State :=
  let k := (freeKey s.models.seqs 0 65535).getD 0
  let g := s.models.gen
  (mkHandle g k, { s with models.seqs := tput s.models.seqs k { q with gen := g }, models.gen := nextGen g })

/-- Length that a fork takes: the source's for 0xFFFFFFFF (R235). -/
def forkLen (p : Pkt) (s : State) : Nat := if fld p 20 4 = 0xFFFFFFFF then (pSeqD p s).len else fld p 20 4

/-- Checks of KV_FORK (R235, R257). -/
def chkKvFork (p : Pkt) (s : State) : Option Fail :=
  firstFails [seqChk p s, [((pSeqD p s).len < forkLen p s, .eRange, 20)], newSeqChk p s]

/-- KV_FORK (R235): the first entries of the source's tables are shared, each page gains a reference. -/
def actKvFork (p : Pkt) (s : State) : State :=
  let q := pSeqD p s
  let n := forkLen p s
  let tables := q.tables.map fun t => t.take ((n + 63) / 64)
  let s1 := tables.flatten.foldl (fun t pg => refPage pg t) s
  let (hd, s2) := newSeq { pool := q.pool, ctx := p.ctx, len := n, tables := tables } s1
  completeOk p hd tables.flatten.length 0 s2

/-- Checks of KV_TRUNCATE (R234). -/
def chkKvTruncate (p : Pkt) (s : State) : Option Fail :=
  firstFails [seqChk p s, [((pSeqD p s).len < fld p 20 4, .eRange, 20)]]

/-- KV_TRUNCATE (R234). -/
def actKvTruncate (p : Pkt) (s : State) : State :=
  let k := ((pSeq p s).map Prod.fst).getD 0
  let n := fld p 20 4
  let (gone, s1) := dropBeyond k n s
  completeOk p n gone 0 (modSeq k (fun q => { q with len := n }) s1)

/-- Checks of KV_FREE. -/
def chkKvFree (p : Pkt) (s : State) : Option Fail := firstFails [seqChk p s]

/-- KV_FREE (R256): every entry is dropped and the sequence ends. -/
def actKvFree (p : Pkt) (s : State) : State :=
  let k := ((pSeq p s).map Prod.fst).getD 0
  let (gone, s1) := dropBeyond k 0 s
  completeOk p gone 0 0 { s1 with models.seqs := tdel s1.models.seqs k }

/-- Bytes that KV_READ writes for each token (R230, R256). -/
def kvRowBytes (s : State) (q : KvSeq) : Nat := latentRow (tgetD s.models.pools q.pool) + posRow (tgetD s.models.pools q.pool)

/-- Checks of KV_READ that no step can change: the sequence, layer and count in range, the destination. -/
def readStatic (p : Pkt) (s : State) : List (List (Bool × Code × Nat)) :=
  let q := pSeqD p s
  let n := fld p 28 4
  let bytes := kvRowBytes s q * min n 65536
  [seqChk p s, [
    ((tgetD s.models.pools q.pool).layers ≤ fld p 20 1, .eRange, 20),
    (n = 0 || 65536 < n, .eRange, 28)], addrChk s p.ctx (fld p 32 8) bytes 64 32, permChk s p.ctx (fld p 32 8) bytes true 32]

/-- Checks of KV_READ (R256, R257, R297). -/
def chkKvRead (p : Pkt) (s : State) : Option Fail :=
  orFail (firstFails (readStatic p s ++ ([[((pSeqD p s).len < fld p 24 4 + fld p 28 4, .eRange, 24)]] : List (List (Bool × Code × Nat)))))
    ((kvBad s (pSeqD p s) (fld p 20 1) (fld p 24 4) (fld p 28 4)).head?.map (badWord 16))

/-- KV_READ (R256): each token's latent row followed by its positional row. -/
def actKvRead (p : Pkt) (s : State) : State :=
  let s := kvFound (pSeqD p s) (fld p 20 1) (fld p 24 4) (fld p 28 4) s
  let q := pSeqD p s
  let n := fld p 28 4
  let rows := (List.range n).map fun i => fit (kvRowBytes s q) (kvRow s q (fld p 20 1) (fld p 24 4 + i))
  completeOk p n 0 0 (vwrite p.ctx (fld p 32 8) rows.flatten s)

/-- Whether a sequence is claimed by an active step. -/
def seqClaimed (s : State) (k : Nat) : Bool := (tgetD s.models.seqs k).claimed.isSome

/-- Queued commands of a pool (R254). -/
def kvQueued (s : State) (pool : Nat) : Nat := (s.models.kvQueue.filter fun e => (tgetD s.models.seqs e.1).pool == pool).length

/-- Applies a queued command: its checks against the state after the step, then its effect (R254). -/
def kvApply (p : Pkt) (s : State) : State :=
  let go := fun (c : Option Fail) (f : Pkt → State → State) => match c with | some x => refuse p x s | none => f p s
  match pOp p with
  | 0x0403 => go (chkKvFork p s) actKvFork
  | 0x0404 => go (chkKvTruncate p s) actKvTruncate
  | 0x0405 => go (chkKvFree p s) actKvFree
  | _ => go (chkKvRead p s) actKvRead

/-- Applies the queued commands whose sequence no step claims any more, in dispatch order (R253 action 5, R254); one that writes host memory
waits while such writes are held (R482). -/
def serveKv (s : State) : State :=
  s.models.kvQueue.foldl (fun t e =>
    if seqClaimed t e.1 then t
    else actServed (kvApply e.2) (unpinQueued (· == e.2) { t with models.kvQueue := t.models.kvQueue.filter fun x => !(x.2 == e.2) }) t) s

/-- A KV_READ that waits pins the memory that it will write (R301). -/
def pinKv (p : Pkt) (s : State) : State :=
  if pOp p = 0x0408 then pinQueued p (fld p 32 8) (kvRowBytes s (pSeqD p s) * fld p 28 4) s else s

/-- A command on a claimed sequence waits for the end of the step; a 65th of the pool fails with E_BUSY (R254). Other commands
act at once. -/
def kvOrQueue (p : Pkt) (s : State) (host : Bool) (static : List (List (Bool × Code × Nat))) (chk : Option Fail)
    (act : State → State) : Res :=
  match pSeq p s with
  | some (k, q) =>
    if q.claimed.isSome then
      runHost p s host (firstFails (static ++ ([[(64 ≤ kvQueued s q.pool, .eBusy, 0xFFFF)]] : List (List (Bool × Code × Nat))))) fun t =>
        handOn p (pinKv p { t with models.kvQueue := t.models.kvQueue ++ [(k, p)] })
    else runHost p s host chk act
  | none => runHost p s host chk act

end Sys2Proof.Machine
end

