-- ==== Sys2Proof/Machine/StrmEdits.lean ====
section
/-! DEFINITION. The stream commands that a step can hold back (10, R268): STRM_PAUSE, STRM_END, STRM_READ and STRM_EXPORT. -/

namespace Sys2Proof.Machine

/-- Slot and stream that parameter byte 16 names. -/
def pStrm (p : Pkt) (s : State) : Option (Nat × Stream) := strmOf s p.ctx (fld p 16 4)
/-- The stream that parameter byte 16 names, for the checks after its own. -/
def pStrmD (p : Pkt) (s : State) : Stream := ((pStrm p s).map Prod.snd).getD {}
/-- Its slot. -/
def pStrmK (p : Pkt) (s : State) : Nat := ((pStrm p s).map Prod.fst).getD 0
/-- An unknown stream (R282). -/
def strmChk (p : Pkt) (s : State) : List (Bool × Code × Nat) := [((pStrm p s).isNone, .eHandle, 16)]
/-- Its set. -/
def setOf (s : State) (x : Stream) : StrmSet := tgetD s.models.sets x.set

/-- Streams of context `h`, active or paused. -/
def strmCount (s : State) (h : Nat) (active : Bool) : Nat :=
  (s.models.streams.filter fun e => e.2.ctx == h && e.2.active == active).length

/-- Whether one more paused stream of set `st` breaks a quota or the capacity of DRAM (R260, R282). -/
def idleLimits (s : State) (h : Nat) (st : StrmSet) : List (Bool × Code × Nat) :=
  let q := (ctxOf s h).quota
  [(h != 0 && q.idleStreams ≤ strmCount s h false, .eQuota, 0xFFFF),
   (h != 0 && q.memory < memCharged s h + strmBytes st + 64, .eQuota, 0xFFFF),
   (freeFrames s < strmFrames st, .eNomem, 0xFFFF)]

/-- Whether one more active stream of set `k` breaks a quota, the device's limit or the Gondola's space (R260, R282). -/
def activeLimits (s : State) (h k : Nat) : List (Bool × Code × Nat) :=
  let q := (ctxOf s h).quota
  let more := (moreUnits s k 1).length
  [(h != 0 && q.activeStreams ≤ strmCount s h true, .eQuota, 0xFFFF),
   (h != 0 && q.stateStore < storeCharged s h + more * 4096, .eQuota, 0xFFFF),
   (2048 ≤ (s.models.streams.filter fun e => e.2.active).length, .eNoslot, 0xFFFF),
   (freeUnits s < more, .eNomem, 0xFFFF)]

/-- A failed word in the committed state that a command reads (R297). -/
def stateFail (p : Pkt) (s : State) : Option Fail := (strmBad s (pStrmD p s)).head?.map (badWord 16)

/-- Checks of STRM_PAUSE (R261, R282). -/
def chkStrmPause (p : Pkt) (s : State) : Option Fail :=
  firstFails [strmChk p s, [(!(pStrmD p s).active, .eState, 16)], idleLimits s p.ctx (setOf s (pStrmD p s))]

/-- STRM_PAUSE (R261): the committed state moves to DRAM. -/
def actStrmPause (p : Pkt) (s : State) : State :=
  completeOk p (strmBytes (setOf s (pStrmD p s))) 0 0 (pauseStrm (pStrmK p s) s)

/-- Checks of STRM_END. -/
def chkStrmEnd (p : Pkt) (s : State) : Option Fail := firstFails [strmChk p s]

/-- STRM_END (R281). -/
def actStrmEnd (p : Pkt) (s : State) : State :=
  let n := (pStrmD p s).steps
  completeOk p n (n / 2 ^ 32) 0 (endStrm (pStrmK p s) s)

/-- Checks of STRM_READ. -/
def chkStrmRead (p : Pkt) (s : State) : Option Fail :=
  let n := strmBytes (setOf s (pStrmD p s))
  orFail (firstFails [strmChk p s, destChk p s n 24, permChk s p.ctx (fld p 24 8) n true 24]) (stateFail p s)

/-- STRM_READ (R281): the committed state as it stands. -/
def actStrmRead (p : Pkt) (s : State) : State :=
  let s := readPhys (strmWords s (pStrmD p s)) s
  let x := pStrmD p s
  let n := strmBytes (setOf s x)
  completeOk p n 0 0 (vwrite p.ctx (fld p 24 8) (fit n (strmState s x)) s)

/-- The numbers that spell a set's shape (R259). -/
def shapeNums (st : StrmSet) : List Nat :=
  st.layers.length :: st.fmt :: b2n st.residue :: b2n st.stochastic :: (st.layers.map fun e => [e.1, e.2]).flatten

/-- The 64-byte stream record of a parcel (R276; its layout is the model's, log 24). -/
def strmRecord (st : StrmSet) (x : Stream) : List Byte :=
  toLE 32 (Config.shapeCode (shapeNums st)).toNat ++ toLE 4 x.seed ++ toLE 4 (b2n x.enable + 2 * b2n x.pause) ++ toLE 8 x.steps
    ++ toLE 4 x.lo ++ toLE 4 x.hi ++ toLE 8 0

/-- Bytes of the parcel of a stream. -/
def strmParcel (s : State) (x : Stream) : Nat := parcelSize (64 + strmBytes (setOf s x))

/-- Checks of STRM_EXPORT (R281, R282). -/
def chkStrmExport (p : Pkt) (s : State) : Option Fail :=
  let n := strmParcel s (pStrmD p s)
  orFail (firstFails [strmChk p s, destChk p s n 24, [(fld p 32 8 < n, .eRange, 32)], permChk s p.ctx (fld p 24 8) n true 24])
    (stateFail p s)

/-- STRM_EXPORT (R274–R277): the parcel, and the end of the stream where END_AFTER asks for it. -/
def actStrmExport (p : Pkt) (s : State) : State :=
  let s := readPhys (strmWords s (pStrmD p s)) s
  let x := pStrmD p s
  let st := setOf s x
  let (b, s1) := makeParcel p 1 (strmRecord st x ++ fit (strmBytes st) (strmState s x)) s
  let s2 := vwrite p.ctx (fld p 24 8) b s1
  let s3 := if (fld p 20 1).testBit 0 then endStrm (pStrmK p s) s2 else s2
  completeOk p b.length s1.models.exports 0 s3

/-- Whether a stream is claimed by an active step. -/
def strmClaimed (s : State) (k : Nat) : Bool := (tgetD s.models.streams k).claimed.isSome

/-- Queued commands of a set (R268). -/
def strmQueued (s : State) (set : Nat) : Nat := (s.models.strmQueue.filter fun e => (tgetD s.models.streams e.1).set == set).length

/-- Applies a queued command (R268). -/
def strmApply (p : Pkt) (s : State) : State :=
  let go := fun (c : Option Fail) (f : Pkt → State → State) => match c with | some x => refuse p x s | none => f p s
  match pOp p with
  | 0x0503 => go (chkStrmPause p s) actStrmPause
  | 0x0505 => go (chkStrmEnd p s) actStrmEnd
  | 0x0508 => go (chkStrmRead p s) actStrmRead
  | _ => go (chkStrmExport p s) actStrmExport

/-- Applies the queued commands whose stream no step claims any more, in dispatch order (R268). -/
def serveStrm (s : State) : State :=
  s.models.strmQueue.foldl (fun t e =>
    if strmClaimed t e.1 then t
    else actServed (strmApply e.2) (unpinQueued (· == e.2) { t with models.strmQueue := t.models.strmQueue.filter fun x => !(x.2 == e.2) }) t) s

/-- A STRM_READ or a STRM_EXPORT that waits pins the memory that it will write (R301). -/
def pinStrm (p : Pkt) (s : State) : State :=
  let x := pStrmD p s
  if pOp p = 0x0508 then pinQueued p (fld p 24 8) (strmBytes (setOf s x)) s
  else if pOp p = 0x0509 then pinQueued p (fld p 24 8) (strmParcel s x) s
  else s

/-- A command on a claimed stream waits for the end of the step; a 65th of the set fails with E_BUSY (R268). -/
def strmOrQueue (p : Pkt) (s : State) (host : Bool) (chk : Option Fail) (act : State → State) : Res :=
  match pStrm p s with
  | some (k, x) =>
    if x.claimed.isSome then
      runHost p s host (firstFails [[(64 ≤ strmQueued s x.set, .eBusy, 0xFFFF)]]) fun t =>
        handOn p (pinStrm p { t with models.strmQueue := t.models.strmQueue ++ [(k, p)] })
    else runHost p s host chk act
  | none => runHost p s host chk act

end Sys2Proof.Machine
end

