-- ==== Sys2Proof/Machine/Layout.lean ====
section
/-! DEFINITION. How legs lie in memory (07, 08): extents of tensors, what Tail programs and windows take, and the ranges that a leg
writes, which hold undefined values when it is stopped (R189). -/

namespace Sys2Proof.Machine

/-- Bytes of `m` rows of `n` codes of `w` bits at row stride `st`. -/
def tensorBytes (m n w st : Nat) : Nat := (m - 1) * st + rowBytes n w

/-! ### Tail programs (R173, R485) -/

/-- Op words of a stage up to and including END. -/
def tailWords (st : List Byte) : List (List Byte) := (List.range 8).map fun i => slice st (120 + 4 * i) 4

/-- Ops before END. -/
def tailBody (st : List Byte) : List (List Byte) := (tailWords st).takeWhile fun w => num w 0 1 != 0

/-- Bits of an output element: those of STORE's format or of the output format (R173). -/
def outBits (st : List Byte) : Nat :=
  match (tailBody st).getLast? with
  | some w => if num w 0 1 = 0x0A then codeBits (num w 1 1) else codeBits (num st 3 1)
  | none => codeBits (num st 3 1)

/-- The program ends with CONVERT. -/
def tailConverts (st : List Byte) : Bool := ((tailBody st).getLast?.map fun w => num w 0 1) == some 9

/-- Format of the elements that a stage writes. -/
def outFmt (st : List Byte) : Nat :=
  match (tailBody st).getLast? with
  | some w => if num w 0 1 = 0x0A then num w 1 1 else num st 3 1
  | none => num st 3 1

/-- Aux uses of the program: aux number and extent (R485). -/
def tailAux (st : List Byte) (attn : Bool) : List (Nat × Nat) :=
  let m := num st 8 4
  let n := num st 12 4
  (tailBody st).filterMap fun w =>
    let a := num w 1 1
    let b := num w 2 1
    match num w 0 1 with
    | 0x01 => some (a, 4 * n)
    | 0x03 => some (a, tensorBytes m n (codeBits b) (num st 116 4))
    | 0x04 => some (a, tensorBytes m n (codeBits b) (num st 116 4))
    | 0x07 => if b = 0xFF ∨ attn then none else some (b, m * rowBytes n 1)
    | 0x08 => some (num w 3 1, 4 * m)
    | _ => none

/-- Reference `i` of a stage record: A, A scales, B, B scales, output, output scales, aux 1, aux 2, sums (R181). -/
def sref (st : List Byte) (i : Nat) : Nat × Nat := refOf st (40 + 8 * i)

/-! ### Windows (08, R209–R217) -/

/-- Window pooling. -/
def isPool (st : List Byte) : Bool := num st 0 1 == 2 && num st 23 1 == 0x0B

/-- A windowed product or window pooling. -/
def isWin (st : List Byte) : Bool := num st 0 1 == 1 || isPool st

/-- Index of a windowed stage's descriptor (R181, R216). -/
def winIndex (st : List Byte) : Nat := if isPool st then num st 24 4 % 65536 else num st 20 2

/-- A window descriptor with what follows from it (R211, R213, R217). -/
structure Win where
  fuse : Bool
  s2d : Bool
  d2s : Bool
  planar : Bool
  exch : Bool
  f : Nat
  hIn : Nat
  wIn : Nat
  cIn : Nat
  cOut : Nat
  groups : Nat
  kh : Nat
  kw : Nat
  sh : Nat
  sw : Nat
  dh : Nat
  dw : Nat
  pt : Nat
  pb : Nat
  pl : Nat
  pr : Nat
  hOut : Nat
  wOut : Nat
  tRows : Nat
  tCols : Nat
  plane : Nat
  batchStride : Nat
  batch : Nat
  deriving Repr

/-- Reads a window descriptor (R211). -/
def winOf (d : List Byte) : Win :=
  let fl := num d 1 1
  { fuse := fl.testBit 0, s2d := fl.testBit 1, d2s := fl.testBit 2, planar := fl.testBit 3, exch := fl.testBit 4, f := num d 2 1
    hIn := num d 4 2, wIn := num d 6 2, cIn := num d 8 4, cOut := num d 12 4, groups := num d 16 2, kh := num d 18 1, kw := num d 19 1
    sh := num d 20 1, sw := num d 21 1, dh := num d 22 1, dw := num d 23 1, pt := num d 24 1, pb := num d 25 1, pl := num d 26 1
    pr := num d 27 1, hOut := num d 32 2, wOut := num d 34 2, tRows := num d 36 2, tCols := num d 38 2, plane := num d 40 4
    batchStride := num d 44 4, batch := num d 48 2 }

/-- Pixel bytes of `c` channels of a format of `w` bits (R209). -/
def pixBytes (c w : Nat) : Nat := rowBytes c w

/-- Bytes of the input tensor of a windowed stage as stored (R209). -/
def winInBytes (st : List Byte) (w : Win) : Nat :=
  let b := codeBits (num st 1 1)
  let rs := num st 112 4
  if w.planar then (w.batch - 1) * w.batchStride + (w.cIn - 1) * w.plane + (w.hIn - 1) * rs + rowBytes w.wIn b
  else (w.batch - 1) * w.batchStride + (w.hIn - 1) * rs + w.wIn * pixBytes w.cIn b

/-- Bytes of the output tensor of a windowed stage: images at the batch stride, their rows at the output row stride, with D2S f times as
many rows (R209, R217). -/
def winOutBytes (st : List Byte) (w : Win) : Nat :=
  let b := outBits st
  let rs := num st 116 4
  (w.batch - 1) * w.batchStride
    + (if w.d2s then (w.hOut * w.f - 1) * rs + w.wOut * w.f * pixBytes (w.cOut / (w.f * w.f)) b
       else (w.hOut - 1) * rs + w.wOut * pixBytes w.cOut b)

/-- The window descriptor of a stage, empty for a stage without one (R181, R216). -/
def winDescOf (p : Plan) (st : List Byte) : List Byte :=
  if num st 0 1 = 1 then p.descs.getD (num st 20 2) []
  else if num st 0 1 = 2 ∧ num st 23 1 = 0x0B then p.descs.getD (num st 24 4 % 65536) []
  else []

/-! ### What a leg writes (R189, R396) -/

/-- A use of a reference: the reference, its extent in bytes. -/
abbrev RefUse := (Nat × Nat) × Nat

/-- A use where its condition holds. -/
def useIf (c : Bool) (x : Nat × Nat) (n : Nat) : List RefUse := if c && x.1 != 0xFFFF && n != 0 then [(x, n)] else []

/-- Rows and columns that a stage writes. -/
def outShape (st : List Byte) : Nat × Nat := (num st 8 4, num st 12 4)

/-- Whether stage `j` of a leg takes its input from the tile of the stage before it, and whether it feeds the next (R219). -/
def fusedAt (p : Plan) (leg : List Byte) (j : Nat) : Bool :=
  match (stagesOf leg)[j]? with
  | some st => isWin st && (num (winDescOf p st) 1 1).testBit 0
  | none => false

/-- What stage `j` of a leg writes: its output and the scales of a dynamic output block, and a carry. -/
def stageWrites (p : Plan) (leg : List Byte) (j : Nat) : List RefUse :=
  let st := (stagesOf leg).getD j []
  let d := descOf p st
  let ob := num st 6 1
  let scales := blockOf ob != 0 && ob.testBit 4 && tailConverts st
  if isWin st then
    let w := winOf (winDescOf p st)
    if fusedAt p leg (j + 1) then []
    else useIf true (sref st 4) (winOutBytes st w) ++ useIf scales (sref st 5) (scaleBytes (w.batch * w.hOut * w.wOut) w.cOut ob)
  else
    let (m, n) := outShape st
    let rows := if num st 0 1 = 5 then num d 8 2 * num d 2 2 else m
    let cols := if num st 0 1 = 4 then num d 12 2 else if num st 0 1 = 5 then num d 4 4 else n
    useIf true (sref st 4) (tensorBytes rows cols (outBits st) (num st 116 4))
      ++ useIf scales (sref st 5) (scaleBytes rows cols ob)
      ++ useIf (num st 0 1 == 5 && (num d 1 1).testBit 1) (refOf d 24) (num d 8 2 * rowBytes (num d 4 4) 32)

/-- Aux uses of a vector op: aux number and extent (R175, R280). -/
def vecAux (st : List Byte) : List (Nat × Nat) :=
  let m := num st 8 4
  let k := num st 16 4
  match num st 23 1 with
  | 0x01 => [(0, 4 * k)]
  | 0x02 => [(0, 4 * k), (1, 4 * k)]
  | 0x05 => [(0, 4 * m)]
  | 0x06 => [(0, 4 * m)]
  | 0x07 => [(0, tensorBytes m k (codeBits (num st 1 1)) (num st 112 4))]
  | 0x08 => [(0, 257 * 4)]
  | 0x0A => if (num st 24 4).testBit 3 then [(0, m * rowBytes k 1)] else []
  | _ => []

/-- The regrouping factor of the input, 1 without S2D. -/
def Win.inF (w : Win) : Nat := if w.s2d then max 1 w.f else 1
/-- The regrouping factor of the output, 1 without D2S. -/
def Win.outF (w : Win) : Nat := if w.d2s then max 1 w.f else 1

/-- The stored positions of an axis of extent `x` that some output reads, in rising order (R213, R215): `f` is the regrouping factor, `y`
outputs at stride `s` take `k` taps at dilation `d` after `lo` positions of padding. -/
def tapped (x f y s k d lo : Nat) : List Nat :=
  (List.range x).filter fun p => (List.range k).any fun j =>
    j * d ≤ p / f + lo && (p / f + lo - j * d) % s == 0 && (p / f + lo - j * d) / s < y

/-- The contiguous runs of a rising list: first position and length. -/
def runsOf (l : List Nat) : List (Nat × Nat) :=
  l.foldr (fun p rs => match rs with
    | (q, n) :: t => if p + 1 = q then (p, n + 1) :: t else (p, 1) :: rs
    | [] => [(p, 1)]) []

/-- Image rows that the outputs of a windowed stage read (R215). -/
def Win.rowsRead (w : Win) : List Nat := tapped w.hIn w.inF w.hOut (max 1 w.sh) w.kh w.dh w.pt
/-- Runs of columns that the outputs of a windowed stage read (R215). -/
def Win.colsRead (w : Win) : List (Nat × Nat) := runsOf (tapped w.wIn w.inF w.wOut (max 1 w.sw) w.kw w.dw w.pl)

/-- What a windowed stage reads of its input: the positions that some output reads, and no other (R209, R215). -/
def winReads (st : List Byte) (w : Win) : List RefUse :=
  let b := codeBits (num st 1 1)
  let rs := num st 112 4
  let at_ := fun (o n : Nat) => useIf true ((sref st 0).1, (sref st 0).2 + o) n
  let rows := w.rowsRead
  let cols := w.colsRead
  ((List.range w.batch).map fun i => (rows.map fun y =>
    if w.planar then
      ((List.range w.cIn).map fun c => (cols.map fun (x, n) =>
        at_ (i * w.batchStride + c * w.plane + y * rs + x * b / 8) (((x + n) * b + 7) / 8 - x * b / 8)).flatten).flatten
    else
      let bp := pixBytes w.cIn b
      (cols.map fun (x, n) => at_ (i * w.batchStride + y * rs + x * bp) (n * bp)).flatten).flatten).flatten

/-- The scales of the pixels that a windowed stage reads (R150, R210). -/
def winScaleReads (st : List Byte) (w : Win) : List RefUse :=
  let row := scaleBytes 1 w.cIn (num st 4 1)
  ((List.range w.batch).map fun i => (w.rowsRead.map fun y => (w.colsRead.map fun (x, n) =>
    useIf true ((sref st 1).1, (sref st 1).2 + ((i * w.hIn + y) * w.wIn + x) * row) (n * row)).flatten).flatten).flatten

/-- What stage `j` of a leg reads: operands, scales, sums, aux objects and what its descriptor names. -/
def stageReads (p : Plan) (leg : List Byte) (j : Nat) : List RefUse :=
  let st := (stagesOf leg).getD j []
  let d := descOf p st
  let m := num st 8 4
  let n := num st 12 4
  let k := num st 16 4
  let fa := codeBits (num st 1 1)
  let bA := blockOf (num st 4 1) != 0
  let bB := blockOf (num st 5 1) != 0
  let aux := fun attn => ((tailAux st attn).map fun (a, e) => useIf true (sref st (6 + a)) e).flatten
  let wts := useIf true (sref st 2) (n * rowBytes k (codeBits (num st 2 1))) ++ useIf bB (sref st 3) (scaleBytes n k (num st 5 1))
    ++ useIf true (sref st 8) (4 * k)
  if isWin st then
    let w := winOf (winDescOf p st)
    (if fusedAt p leg j then [] else winReads st w ++ if bA then winScaleReads st w else [])
      ++ (if isPool st then [] else wts) ++ aux false
  else
    let a := useIf true (sref st 0) (tensorBytes m k fa (num st 112 4))
    match num st 0 1 with
    | 0 => a ++ useIf bA (sref st 1) (scaleBytes m k (num st 4 1)) ++ wts ++ aux false
    | 2 => a ++ ((vecAux st).map fun (x, e) => useIf true (sref st (6 + x)) e).flatten
        ++ (if num st 23 1 = 0x06 then stageWrites p leg j else []) ++ aux false
    | 3 => a ++ useIf bA (sref st 1) (scaleBytes m k (num st 4 1)) ++ useIf true (refOf d 24) (m * rowBytes (num d 10 2) (codeBits (num d 3 1)))
        ++ useIf (num d 12 1 != 0) (refOf d 32) (m * rowBytes (num d 12 1) 16)
        ++ useIf true (refOf d 40) (num d 4 2 * num d 6 2 * rowBytes (num d 10 2) (codeBits (num d 13 1)))
        ++ useIf true (refOf d 48) (num d 4 2 * num d 8 2 * rowBytes (num d 10 2) (codeBits (num d 13 1))) ++ aux true
    | 4 =>
      let gh := num d 3 1 * num d 12 2
      useIf true (sref st 0) (tensorBytes m (num d 8 4) fa (num st 112 4)) ++ useIf bA (sref st 1) (scaleBytes m k (num st 4 1))
        ++ useIf true (refOf d 16) (gh * rowBytes (num d 8 4) (codeBits (num d 5 1)))
        ++ useIf true (refOf d 24) (gh * rowBytes (num d 12 2) (codeBits (num d 6 1)))
        ++ useIf true (refOf d 32) (scaleBytes gh (num d 8 4) (num d 7 1)) ++ useIf true (refOf d 40) (scaleBytes gh (num d 12 2) (num d 7 1))
        ++ useIf true (refOf d 48) (4 * num d 12 2 * (if num d 2 1 = 1 then 4 else num d 3 1)) ++ aux false
    | _ =>
      let bt := num d 8 2 * num d 2 2
      let t := tensorBytes bt (num d 4 4) fa (num st 112 4)
      useIf true (sref st 0) t ++ useIf true (sref st 6) t
        ++ useIf ((num d 1 1).testBit 0) (refOf d 16) (num d 8 2 * rowBytes (num d 4 4) 32)
        ++ useIf ((num d 1 1).testBit 2) (refOf d 32) (num d 8 2 * rowBytes (num d 2 2) 1)

/-- Uses of a whole leg. -/
def legUses (f : Plan → List Byte → Nat → List RefUse) (p : Plan) (leg : List Byte) : List RefUse :=
  ((List.range (num leg 0 1)).map (f p leg)).flatten

/-- The virtual range of a use of run `r`, cut at the end of its object. -/
def useRange (r : Run) (p : Plan) (u : RefUse) : Option (Nat × Nat) :=
  (refAddr r p u.1).map fun (a, room) => (a, min u.2 room)

/-- Virtual ranges that a leg reads or writes. -/
def legRanges (f : Plan → List Byte → Nat → List RefUse) (r : Run) (p : Plan) (leg : List Byte) : List (Nat × Nat) :=
  (legUses f p leg).filterMap (useRange r p)

/-- `n` bytes that the spec calls undefined, from the counter on (log 3). -/
def freeBytes (n : Nat) (s : State) : List Byte × State :=
  ((List.range n).map fun i => Config.freeByte (s.freeCtr + i), { s with freeCtr := s.freeCtr + n })

/-- A range of a context's memory then holds undefined data (R115, R130): free bytes. -/
def undefine (h va n : Nat) (s : State) : State :=
  let (bs, s1) := freeBytes n s
  vwrite h va bs s1

/-- The outputs of a failing leg hold undefined values (R189). -/
def undefineLeg (r : Run) (p : Plan) (leg : List Byte) (s : State) : State :=
  (legRanges stageWrites r p leg).foldl (fun t (a, n) => undefine r.ctx a n t) s

end Sys2Proof.Machine
end

