-- ==== Sys2Proof/Machine/Sched.lean ====
section
/-! DEFINITION. Runs, legs and tiers: choosing and committing the next leg, ending a run, starting a bound run, the end of a
step, and the cascade's Lift, Updraft and Ballast. -/

namespace Sys2Proof.Machine

/-! ### Legs -/

/-- Clock of an operating point, MHz (R424). -/
def pointMhz (p : Nat) : Nat :=
  match p with
  | 6 => 1500 | 5 => 1350 | 4 => 1200 | 3 => 1000 | 2 => 800 | 1 => 600 | _ => 400

/-- Supply of an operating point, mV (R424). -/
def pointMv (p : Nat) : Nat := 550 + 50 * min p 6

/-- A declared time of a leg in µs, scaled for the gang's clock and panels (R198), in ns, as a fraction: numerator and
denominator. For Kite the factor is 1. -/
def scaledFrac (s : State) (g : Nat) (leg : List Byte) (us : Nat) : Nat × Nat :=
  match gangOf s g with
  | none => (us * 1000, 1)
  | some x =>
    let sl := num leg 2 2
    let p := gangSize s g
    if g = 0 ∨ sl = 0 ∨ p = 0 then (us * 1000, 1)
    else (us * 1000 * 1500 * ((sl + p - 1) / p) * x.size, pointMhz x.point * sl)

/-- The scaled time in whole ns, cut. -/
def scaledNs (s : State) (g : Nat) (leg : List Byte) (us : Nat) : Nat :=
  (scaledFrac s g leg us).1 / (scaledFrac s g leg us).2

/-- Whether `ns` lies below the scaled time. -/
def belowScaled (s : State) (g : Nat) (leg : List Byte) (us ns : Nat) : Bool :=
  ns * (scaledFrac s g leg us).2 < (scaledFrac s g leg us).1

/-- Whether `ns` lies above the scaled time. -/
def aboveScaled (s : State) (g : Nat) (leg : List Byte) (us ns : Nat) : Bool :=
  (scaledFrac s g leg us).1 < ns * (scaledFrac s g leg us).2

/-- Note bits (R78). -/
def nSuspect : Nat := 1
/-- CLIPPED -/
def nClipped : Nat := 2
/-- PREFETCH_MISS -/
def nMiss : Nat := 4
/-- EMPTY_ROW -/
def nEmpty : Nat := 8
/-- DEGRADED -/
def nDegraded : Nat := 16
/-- SUBSTITUTED -/
def nSubst : Nat := 32
/-- MUTED -/
def nMuted : Nat := 64
/-- DEFERRED -/
def nDeferred : Nat := 128
/-- DRIFT -/
def nDrift : Nat := 256

/-- Run `k`. -/
def runOf (s : State) (k : Nat) : Option Run := tget s.sched.runs k

/-- Changes run `k` where it exists. -/
def modRun (k : Nat) (f : Run → Run) (s : State) : State := { s with sched.runs := tupd s.sched.runs k f }

/-- A run with note bits added to it and to the step that it has in progress (R189, R253). -/
def Run.noted (r : Run) (bits : Nat) : Run :=
  { r with notes := r.notes ||| bits, step := r.step.map fun st => { st with notes := st.notes ||| bits } }

/-- Adds note bits to run `k`. -/
def noteRun (k bits : Nat) (s : State) : State := modRun k (Run.noted · bits) s

/-- DEGRADED while the gang is short of panels, SUBSTITUTED while one of its panels stands in for a retired one (R177, R199). -/
def gangNotes (s : State) (g : Nat) : Nat :=
  match gangOf s g with
  | none => 0
  | some x =>
    (if g ≠ 0 ∧ x.panels.length < x.size then nDegraded else 0)
      ||| (if x.panels.any fun n => (panelOf s n).replaces.isSome then nSubst else 0)

/-! ### Choosing the next leg (R125, R126) -/

/-- The leg that run `r` would commit. -/
def nextLeg (s : State) (r : Run) : List Byte := legOf (runPlan s r) r.counter

/-- The run has a ready leg: it waits at a boundary, its input is there (R188), its step's claims are free (R240). -/
def runReady (s : State) (r : Run) : Bool :=
  (r.state == .ready || r.state == .preempted) && r.stops.isEmpty
    && (match r.ring with | none => true | some q => r.snap.isSome || q.head < q.tail)
    && (!r.stepDue || !hasSteps (runPlan s r) || stepClaimable s r)
    && (r.ctx == 0 || ctxLive s r.ctx)

/-- Weight of a context; the management context has no quota, its weight is 1 (DESIGN CHOICE, log 11). -/
def weightOf (s : State) (h : Nat) : Nat := if h = 0 then 1 else (ctxOf s h).quota.weight

/-- Used P0 and P1 time of a context in the present window of a gang (R126). -/
def usedIn (s : State) (g : Gang) (h : Nat) : Nat :=
  if g.window = s.time.now / 100000000 then (tget g.used h).getD 0 else 0

/-- Whether the context is over its cap on this shared gang (R126). -/
def cappedIn (s : State) (g : Gang) (h : Nat) : Bool := g.window == s.time.now / 100000000 && g.capped.contains h

/-- Whether a leg of `budget` at P0 or P1 would take the context above its cap (R126). -/
def overCap (s : State) (g : Gang) (h budget : Nat) : Bool :=
  g.kind == 0 && h != 0 && (cappedIn s g h || (ctxOf s h).quota.cap * 1000 < usedIn s g h + budget)

/-- Level at which a run's next leg competes on a gang (R126). -/
def effLevel (s : State) (g : Gang) (r : Run) : Nat :=
  if r.level ≤ 1 ∧ overCap s g r.ctx (num (nextLeg s r) 4 4) then 2 else r.level

/-- The ready runs on gang `g`: with their effective level; P3 is left out while the governor sheds it (R425). -/
def readyRuns (s : State) (g : Nat) : List (Nat × Run × Nat) :=
  match gangOf s g with
  | none => []
  | some x =>
    (s.sched.runs.filterMap fun (k, r) =>
      if r.gang = g && runReady s r then some (k, r, effLevel s x r) else none).filter fun e =>
        !((s.power.p3Shed && e.2.2 == 3) || (s.power.critical && 2 ≤ e.2.2))

/-- The queue that a context's round robin takes next: the lowest number above the last served, or the lowest (R125). -/
def nextQueue (last : Nat) (qs : List Nat) : Option Nat :=
  match (qs.filter (last < ·)).min? with
  | some q => some q
  | none => qs.min?

/-- The run of a context that comes next at a level: queues in round robin, runs in dispatch order (R125). -/
def nextOf (x : Gang) (h p : Nat) (rs : List (Nat × Run × Nat)) : Option (Nat × Run) :=
  let mine := rs.filter fun e => e.2.1.ctx == h
  match nextQueue ((tget x.lastQ (h * 4 + p)).getD 1000) (mine.map fun e => e.2.1.queue) with
  | none => none
  | some q =>
    let ofQ := mine.filter fun e => e.2.1.queue == q
    (ofQ.find? fun e => ofQ.all fun f => e.2.1.order ≤ f.2.1.order).map fun e => (e.1, e.2.1)

/-- Deficit round robin over the contexts of a level (R125): `fuel` rounds, on the gang's ring of contexts and the contexts'
deficits. -/
def drr (s : State) (p : Nat) (rs : List (Nat × Run × Nat)) : Nat → Gang → Tbl Nat → Option (Nat × Run) × Gang × Tbl Nat
  | 0, x, ds => (none, x, ds)
  | fuel + 1, x, ds =>
    match x.ring.find? fun h => rs.any fun e => e.2.1.ctx == h with
    | none => (none, x, ds)
    | some h =>
      match nextOf x h p rs with
      | none => (none, x, ds)
      | some (k, r) =>
        let b := num (nextLeg s r) 4 4
        let d := (tget ds (h * 4 + p)).getD 0
        if b ≤ d then (some (k, r), { x with lastQ := tput x.lastQ (h * 4 + p) r.queue }, tput ds (h * 4 + p) (d - b))
        else drr s p rs fuel { x with ring := x.ring.filter (· != h) ++ [h] } (tput ds (h * 4 + p) (d + weightOf s h * 100))

/-- The deficits of the contexts that have a ready leg at their level on some gang; the others are 0 (R125; a context has one deficit
per level over all gangs, as the rule's short form has it, DEDUCED, log 49). -/
def liveDeficits (s : State) : Tbl Nat :=
  let ready := ((tkeys s.sched.gangs).map fun g => (readyRuns s g).map fun e => e.2.1.ctx * 4 + e.2.2).flatten
  tkeep s.sched.deficits fun k _ => ready.contains k

/-- The next leg of gang `g` by R125: the run and its level, and the state with the deficits and the gang's round robin moved on. -/
def pickLeg (s : State) (g : Nat) : Option (Nat × Run × Nat) × State :=
  match gangOf s g with
  | none => (none, s)
  | some x =>
    let rs := readyRuns s g
    let x1 := { x with ring := x.ring ++ (distinct (rs.map fun e => e.2.1.ctx)).filter fun h => !x.ring.contains h }
    let ds := liveDeficits s
    match (List.range 4).find? fun p => rs.any fun e => e.2.2 == p with
    | none => (none, { s with sched.gangs := tput s.sched.gangs g x1, sched.deficits := ds })
    | some p =>
      let at_ := rs.filter fun e => e.2.2 == p
      let (r, x2, ds2) := drr s p at_ (600 * (at_.length + 1) + 600) x1 ds
      (r.map fun (k, r) => (k, r, p), { s with sched.gangs := tput s.sched.gangs g x2, sched.deficits := ds2 })

/-! ### Kept state of finished runs -/

/-- Changes a camera port. -/
def modCam (n : Nat) (f : Cam → Cam) (s : State) : State := { s with cams.ports := tmod s.cams.ports n f }

/-- Releases the camera slots that a run holds, by port and slot (R328). -/
def releaseSlots (w : List (Nat × Nat)) (s : State) : State :=
  w.foldl (fun t (port, slot) =>
    modCam port (fun c => { c with slots := tupd c.slots slot fun x => { x with holds := x.holds - 1 } }) t) s

/-- Writes the status entry of a bound run (R194). -/
def boundStatus (b : EvBind) (r : Run) (code : Code) (w0 w1 : Nat) (s : State) : State :=
  statusWrite b.ctx
    { code := if code = .ok ∧ r.notes ≠ 0 then .okNotes else code
      opcode := 0x0306, tag := b.tag, time := s.time.now, notes := r.notes
      w0 := w0 % 2 ^ 32, w1 := w1 % 2 ^ 32, w2 := r.number % 2 ^ 32 } false s

/-- A run's outcome words w1 and w2 (R189). -/
def runWords (r : Run) (stopped : Bool) : Nat × Nat :=
  (r.misses % 65536 + r.retries % 65536 * 65536, r.counter % 2 ^ 24 + (if stopped then 2 ^ 31 else 0))

/-- Ends the step that run `k` has in progress, with the run's or the step's code (R253, R268). -/
def endStep (k : Nat) (code : Code) (s : State) : State :=
  match runOf s k with
  | none => s
  | some r =>
    match r.step with
    | none => s
    | some st =>
      let failed := !codeOk code
      let shown := if code = .ok ∧ st.notes ≠ 0 then Code.okNotes else code
      let s1 := cellEnd k r st shown failed st.notes (attnEnd k r st shown failed st.notes s)
      serveStrm (serveKv (modRun k (fun r => { r with step := none, stepDue := true, steps := r.steps + 1 }) s1))

/-- Completes the KV_WAIT packets of a run: those whose head count is reached, or all when the run has ended (R253, R256). -/
def kvWake (k head : Nat) (ended : Bool) (s : State) : State :=
  let go := s.models.kvWaits.filter fun (r, n, _) => r == k && (ended || n ≤ head)
  go.foldl (fun t (_, _, p) => completeOk p head (b2n ended) 0 t)
    { s with models.kvWaits := s.models.kvWaits.filter fun (r, n, _) => !(r == k && (ended || n ≤ head)) }

/-- The units whose scratchpads serve gang `g`: its panels, or 34 for Kite's working area (R171, R200). -/
def scrubUnits (s : State) (g : Nat) : List Nat := if g = 0 then [34] else ((gangOf s g).map Gang.panels).getD []

/-- The scratchpads of gang `g` need a scrub before its next leg (R171). -/
def scrubGang (g : Nat) (s : State) : State :=
  (scrubUnits s g).foldl (fun t n => modPanel n (fun q => { q with scrub := true }) t) s

/-- A committed leg that has begun: it executes, or waits for the prefetch of a retry, which is no boundary (R394). -/
def Cur.inside (c : Cur) : Bool := c.phase == .executing || c.attempt != 0

/-- Whether run `k` is inside a leg. -/
def legExecutes (s : State) (k : Nat) (r : Run) : Bool :=
  match (gangOf s r.gang).bind Gang.cur with | some c => c.run == k && c.inside | none => false

/-- Releases the page locks of the leg on gang `g` (R129, R243). -/
def dropLocks (g : Nat) (s : State) : State :=
  match (gangOf s g).bind Gang.cur with
  | none => s
  | some c =>
    c.locks.foldl (fun t pg => dropLease 3 pg t) (modGang g (fun x => { x with cur := x.cur.map fun c => { c with locks := [] } }) s)

/-- The leg on gang `g` guards nothing any more. -/
def unguard (g : Nat) (s : State) : State := { s with store.guards := tdel s.store.guards g }

/-- The leg on gang `g` takes a page lock on each page that its attention stages write (R129, R243). It holds them until it ends (DESIGN
CHOICE, log 54: the phases inside a leg are no steps of this model). -/
def takeLocks (g : Nat) (s : State) : State :=
  match (gangOf s g).bind Gang.cur with
  | none => s
  | some c =>
    match runOf s c.run with
    | none => s
    | some r =>
      match r.step.bind fun st => st.attn.map fun base => (st, base) with
      | none => s
      | some (st, base) =>
        let p := runPlan s r
        let rec_ := vread s r.ctx base (64 + 32 * st.seqs.length)
        let layers := ((stagesOf (legOf p r.counter)).filter fun x => num x 0 1 == 3).map fun x => num (descOf p x) 2 1
        let pages := distinct (layers.map (pagesWritten s rec_ st.seqs)).flatten
        pages.foldl (fun t pg => takeLease 3 r.ctx pg (t.time.now + 10000000) t)
          (modGang g (fun x => { x with cur := x.cur.map fun c => { c with locks := pages } }) s)

/-- A panel is powered while its gang has a run that is committed, pre-empted or waiting, while its gang serves a cascade tier that is up,
or while it powers up as a spare (R37, R168, R199). -/
def panelPowered (s : State) (n : Nat) : Bool :=
  let q := panelOf s n
  q.state == .inGang && (s.sched.runs.any (fun e => e.2.gang == q.gang && e.2.state != .idle)
    || (tgetD s.casc.tiers q.gang).state != .off || ((gangOf s q.gang).map fun x => x.awaiting.any fun a => a.1 == n).getD false)

/-- The power switches of the panels of gang `g` follow what its work needs (R11, R168). -/
def settlePower (g : Nat) (s : State) : State :=
  if g = 0 then s
  else (((gangOf s g).map Gang.panels).getD []).foldl (fun t n => modPanel n (fun q => { q with powered := panelPowered s n }) t) s

/-- A stall of leg `c` on gang `g` has ended after `ns`, however it ended: a miss is counted (R196). -/
def countMiss (g : Nat) (c : Cur) (ns : Nat) (s : State) : State :=
  if c.missed then
    modRun c.run (fun r => Run.noted { r with misses := r.misses + 1 } nMiss)
      (modGang g (fun x => { x with misses := x.misses + 1, stall := x.stall + ns }) s)
  else s

/-- The stall of leg `c`, if it is in one, ends without the leg's execution (R196). -/
def endStall (g : Nat) (c : Cur) (s : State) : State :=
  if c.phase = .stalled then countMiss g c (s.time.now - c.commitAt) s else s

/-- Removes run `k` from its gang: a stall that it was in has ended (R196). A leg that it was inside is stopped before its boundary: the
scratchpads need a scrub (R171), and the leg's outputs hold undefined values (R189). -/
def leaveGang (k : Nat) (r : Run) (s : State) : State :=
  match gangOf s r.gang with
  | none => s
  | some x =>
    let mine := match x.cur with | some c => c.run == k | none => false
    let s := match x.cur with | some c => if mine then endStall r.gang c s else s | none => s
    let s1 := modGang r.gang (fun x =>
      { x with
        cur := if mine then none else x.cur
        prefetched := match x.prefetched with | some (a, _) => if a = k then none else x.prefetched | none => none })
      (if mine then unguard r.gang (dropLocks r.gang s) else s)
    if legExecutes s k r then undefineLeg r (runPlan s r) (legOf (runPlan s r) r.counter) (scrubGang r.gang s1) else s1

/-- What the end of run `k` leaves of its tier: its Ballast is due (R191). -/
def tierRunEnded (k : Nat) (ok : Bool) (consumed : Nat) (x : Tier) : Tier :=
  if x.run = some k then { x with run := none, ended := some (ok, consumed) } else x

/-- Ends run `k` with a code (R189): the step in progress ends, the run's reply is written before the replies of its
PLAN_STOP packets (R190), KV_WAIT packets complete, its camera slot and input objects are released. A cascade run writes no
status entry (R191). -/
def endRun (k : Nat) (code : Code) (stopped : Bool) (s : State) : State :=
  match runOf s k with
  | none => s
  | some r0 =>
    let s0 := endStep k code (leaveGang k r0 s)
    match runOf s0 k with
    | none => s0
    | some r =>
      let (w1, w2) := runWords r stopped
      let s1 := releaseSlots r.windows { s0 with sched.runs := tdel s0.sched.runs k }
      let s2 := match r.ring with
        | some q => pinRange r.ctx q.addr (q.items * q.itemSize) false s1
        | none => s1
      let s3 := match r.kind with
        | .packet p => complete p code r.notes r.legs w1 w2 s2
        | .bound b =>
          let s := boundStatus (tgetD s2.sched.binds b) r code r.legs w1 s2
          { s with sched.binds := tupd s.sched.binds b fun x => { x with active := none } }
        | .cascade c => { s2 with casc.tiers := tupd s2.casc.tiers c (tierRunEnded k (codeOk code) r.consumed) }
      let s4 := kvWake k (match r.ring with | some q => q.head | none => 0) true s3
      let s5 := settlePower r.gang (r.stops.foldl (fun t p => completeOk p r.counter 0 0 t) s4)
      if code = .eInternal then internalEvent r.ctx s5 else s5

/-- PLAN_STOP takes effect once run `k` is at a boundary, unless the run has ended by itself (R190). -/
def takeStops (k : Nat) (s : State) : State :=
  match runOf s k with
  | some r => if r.stops.isEmpty then s else endRun k .ok true s
  | none => s

/-! ### Tiers (R37) -/

/-- Tier of key `k`: 0 Kite, otherwise the cascade gang. -/
def tierOf (s : State) (k : Nat) : Tier := tgetD s.casc.tiers k

/-- Changes tier `k`. -/
def modTier (k : Nat) (f : Tier → Tier) (s : State) : State := { s with casc.tiers := tmod s.casc.tiers k f }

/-- Tier `k` enters a state now, with a further change of it (R37). -/
def enterTier (k : Nat) (st : TierState) (f : Tier → Tier) (s : State) : State :=
  modTier k (fun t => { f t with state := st, since := s.time.now }) s

/-- Run `k` releases its current item and goes on at leg `target`: in state `go` where the next item is there, otherwise idle until it
is (R188, R241). A cascade run has consumed the item's block (R42), and idle it makes its Active tier Idle (R37). -/
def releaseItem (k : Nat) (go : RunState) (target : Nat) (s : State) : State :=
  match runOf s k with
  | none => s
  | some r =>
    match r.ring with
    | none => modRun k (fun r => { r with counter := target, state := go }) s
    | some q =>
      let head := q.head + 1
      let s1 := modRun k (fun r =>
        { r with ring := some { q with head := head }, counter := target
                 state := if head < q.tail then go else .idle
                 consumed := match r.blocks with | b :: _ => (b + 1) * 160 | [] => r.consumed
                 blocks := r.blocks.tail }) s
      let s2 := settlePower r.gang (kvWake k head false s1)
      match r.kind with
      | .cascade t => if head < q.tail ∨ (tierOf s2 t).state ≠ .active then s2 else enterTier t .idle id s2
      | _ => s2

/-! ### Committing a leg (R125, R187, R196, R240) -/

/-- Charges a leg's declared time to the cap window (R126): a leg that would pass the cap runs at P2 and caps its context, from its commit on
(DESIGN CHOICE, log 49). -/
def chargeCap (s : State) (x : Gang) (r : Run) (budget : Nat) : Gang :=
  if x.kind ≠ 0 ∨ r.ctx = 0 ∨ 1 < r.level then x
  else
    let w := s.time.now / 100000000
    let y := if x.window = w then x else { x with window := w, used := [], capped := [] }
    if overCap s y r.ctx budget then { y with capped := if y.capped.contains r.ctx then y.capped else y.capped ++ [r.ctx] }
    else { y with used := tput y.used r.ctx ((tget y.used r.ctx).getD 0 + budget) }

/-- The action word of a leg of run `r` (R182): `n` bytes at its action object and offset. -/
def actionWord (s : State) (r : Run) (leg : List Byte) (n : Nat) : List Byte :=
  match refAddr r (runPlan s r) (num leg 32 2, num leg 36 4) with
  | some a => vread s r.ctx a.1 n
  | none => List.replicate n 0

/-- Whether the action word of a BRANCH is nonzero. -/
def branchTaken (s : State) (r : Run) (leg : List Byte) : Bool := num (actionWord s r leg 4) 0 4 != 0

/-- The virtual range of the action word that a leg's end action reads: 4 bytes of a BRANCH, 32 of a SCORE (R182, R183). -/
def actionRange (s : State) (r : Run) (leg : List Byte) : List (Nat × Nat) :=
  let n := match num leg 25 1 with | 2 => 4 | 5 => 32 | _ => 0
  if n = 0 then [] else ((refAddr r (runPlan s r) (num leg 32 2, num leg 36 4)).map fun a => (a.1, n)).toList

/-- Whether the action word of a leg of run `r` cannot be read now, since it lies in host memory and its requests are held (R482). -/
def actionHeld (s : State) (r : Run) (leg : List Byte) : Bool :=
  held s && (actionRange s r leg).any fun x => rangeHost s r.ctx x.1 x.2

/-- The exchange areas of a stripe leg are zero before any of its slices executes (R223, R226). -/
def zeroExch (r : Run) (p : Plan) (leg : List Byte) (s : State) : State :=
  if num leg 24 1 ≠ 3 then s
  else
    (stagesOf leg).foldl (fun t st =>
      let d := winDescOf p st
      if (num d 1 1).testBit 4 then
        match refAddr r p (refOf d 52) with
        | some a => vwrite r.ctx a.1 (List.replicate (8 * (num leg 2 2 - 1)) 0) t
        | none => t
      else t) s

/-- Range of the whole object, or of the current item, that a reference of run `r` names. -/
def refWhole (r : Run) (p : Plan) (x : Nat × Nat) : Option (Nat × Nat) := refAddr r p (x.1, 0)

/-- What a stripe leg guards while it runs: its exchange areas and the output objects of its groups (R223, R226). -/
def guardRanges (r : Run) (p : Plan) (leg : List Byte) : List (Nat × Nat) :=
  ((stagesOf leg).map fun st =>
    let d := winDescOf p st
    (refWhole r p (sref st 4)).toList
      ++ if (num d 1 1).testBit 4 then ((refAddr r p (refOf d 52)).map fun a => (a.1, 8 * (num leg 2 2 - 1))).toList else []).flatten

/-- A leg of run `r` starts on gang `g`: a stripe leg guards its areas from its first attempt on (R226). -/
def guardLeg (g : Nat) (r : Run) (p : Plan) (leg : List Byte) (first : Bool) (s : State) : State :=
  if num leg 24 1 ≠ 3 ∨ first = false then s
  else { s with store.guards := tput s.store.guards g { ctx := r.ctx, ranges := guardRanges r p leg } }

/-- A write `f` of the leg on gang `g` itself: it counts as none of other work (R226). -/
def ownWrite (g : Nat) (f : State → State) (s : State) : State :=
  match tget s.store.guards g with
  | none => f s
  | some q => let t := f s; { t with store.guards := tput t.store.guards g q }

/-- Operating point at which a leg of level `p` is committed (R424, R425, R427). -/
def levelPoint (s : State) (p : Nat) : Nat :=
  let b := match p with | 0 => s.power.pt0 | 1 => s.power.pt1 | _ => s.power.pt2
  if s.power.critical then min b 2 else b

/-- What starts with a leg on gang `g` besides its own record: its guards, and the number that its open choices depend on (R158, R226). -/
def legBegins (g : Nat) (s : State) : State :=
  match (gangOf s g).bind Gang.cur with
  | none => s
  | some c =>
    match runOf s c.run with
    | none => s
    | some r => guardLeg g r (runPlan s r) (legOf (runPlan s r) r.counter) (c.attempt == 0) { s with freeCtr := s.freeCtr + 1 }

/-- The committed leg of gang `g` starts to execute: what depends on its start is fixed, the action word of a BRANCH (R195), which waits
while host-memory requests are held (R482), and the statistics slots that it may give to (R162). -/
def startLeg (g : Nat) (s : State) : State :=
  takeLocks g <| modGang g (fun x => { x with cur := x.cur.map fun c =>
    { c with phase := .executing, startAt := s.time.now
             arms := if c.attempt = 0 then s.models.arms else c.arms
             branch := match runOf s c.run with
               | some r => if c.attempt = 0 then !actionHeld s r (legOf (runPlan s r) r.counter) && branchTaken s r (legOf (runPlan s r) r.counter)
                           else c.branch
               | none => c.branch
             sampled := match runOf s c.run with
               | some r => if c.attempt = 0 then !actionHeld s r (legOf (runPlan s r) r.counter) else c.sampled
               | none => c.sampled
             draw := s.freeCtr } }) (legBegins g (dropLocks g s))

/-- Commits the next leg of run `k` on gang `g` at level `p`. A leg whose prefetch is complete, or that has none, executes at
once; otherwise it stalls, and the stall is a miss if the prefetch was incomplete and the gang was not idle (R196). `resumes`: its step's
start has resumed a stream, whose copy makes a stall too (R261). -/
def commitLeg (g k p : Nat) (afterLeg resumes : Bool) (s : State) : State :=
  match runOf s k, gangOf s g with
  | some r, some x =>
    let plan := runPlan s r
    let leg := legOf plan r.counter
    let fetched := num leg 20 4 = 0 ∨ x.prefetched = some (k, r.counter)
    let ready := fetched ∧ resumes = false
    let y := chargeCap s x r (num leg 4 4)
    let cur : Cur := { run := k, leg := r.counter, level := p, phase := .stalled, commitAt := s.time.now, startAt := s.time.now
                       missed := !(decide fetched) && afterLeg }
    let y1 := { y with
      cur := some cur, prefetched := none, behind := false, committed := y.committed + 1
      point := levelPoint s p, stripes := [], stages := [] }
    let s1 := { s with sched.gangs := tput s.sched.gangs g y1, store.rest := false }
    let s2 := y.panels.foldl (fun t n => modPanel n (fun q => { q with powered := true }) t) s1
    let s3 := zeroExch r plan leg
      (modRun k (fun r => Run.noted { r with state := .committed, snap := some plan } (gangNotes s g)) s2)
    if ready then startLeg g s3 else s3
  | _, _ => s

/-- Whether the step that run `k` has begun resumed a stream (R261). -/
def stepResumed (s : State) (k : Nat) : Bool := (((runOf s k).bind Run.step).map StepInfo.resumed).getD false

/-- The leg boundary of gang `g`: if nothing is committed, the next leg is chosen by R125 and committed. A run whose step
record is rejected ends, or releases its item and goes on (R241); a later step without an item to release leaves the run
idle (DEDUCED, log 13). A leg waits while the power state, the safe state or an
immediate DEV_RESET lets none run (R103, R407, R412). -/
def boundaryF : Nat → Nat → Bool → State → State
  | 0, _, _, s => s
  | fuel + 1, g, afterLeg, s =>
    match gangOf s g with
    | none => s
    | some x0 =>
      if x0.cur.isSome || s.safe.safeState || s.power.tripped || gangSize s g = 0 || (s.cmd.devReset.map Prod.fst).getD false
          || !(s.power.state == .run || s.power.state == .trim) then s
      else
        match pickLeg s g with
        | (none, s1) => s1
        | (some (k, r, p), s0) =>
          let plan := runPlan s r
          if r.snap.isNone ∧ plan.legs.length ≤ r.counter then
            boundaryF fuel g afterLeg (endRun k .eRange false s)
          else if r.stepDue ∧ hasSteps plan then
            match stepStart k s with
            | (.started, s1) => commitLeg g k p afterLeg (stepResumed s1 k) { s1 with sched.deficits := s0.sched.deficits, sched.gangs := s0.sched.gangs }
            | (.notReady, s1) => s1
            | (.rejected c, s1) =>
              match r.ring with
              | none =>
                if r.legs = 0 then boundaryF fuel g afterLeg (endRun k c false (rejectedResult r plan c s1))
                else modRun k (fun r => { r with state := .idle, steps := r.steps + 1 }) (rejectedResult r plan c s1)
              | some _ =>
                let s2 := modRun k (fun r => { r with steps := r.steps + 1, snap := some plan }) (rejectedResult r plan c s1)
                boundaryF fuel g afterLeg (releaseItem k r.state r.counter s2)
          else commitLeg g k p afterLeg false s0

/-! ### What else happens at a boundary (R197, R199, R401, R402) -/

/-- One more run of context `h` pre-empted (R127, R136). -/
def countPreempted (h : Nat) (s : State) : State := modCtx h (fun c => { c with preempted := c.preempted + 1 }) s

/-- Whether the stalled leg of a gang gives way to a leg at a higher level that has become ready (R197). A stall before a retry is no
boundary (R394). -/
def stallYields (s : State) (g : Nat) : Option Cur :=
  ((gangOf s g).bind Gang.cur).filter fun c => c.phase == .stalled && c.attempt == 0 && (readyRuns s g).any (fun e => e.2.2 < c.level)

/-- The stalled leg `c` gives way: its stall so far is its own, its fetched words are cleared and its run is pre-empted (R197). -/
def yieldStall (g : Nat) (c : Cur) (s : State) : State :=
  let s1 := countMiss g c (s.time.now - c.commitAt) s
  countPreempted (((runOf s c.run).map Run.ctx).getD 0)
    (modRun c.run (fun r => { r with state := .preempted }) (modGang g (fun x => { x with cur := none }) s1))

/-- Keys of the units whose self-test runs on gang `g` (R401). -/
def testUnits (s : State) (g : Nat) : List Nat :=
  if g = 0 then [chKey 2 0] else (((gangOf s g).map Gang.panels).getD []).map (chKey 1)

/-- A self-test slice holds the gang (R401). -/
def gangHeld (s : State) (g : Nat) : Bool := (testUnits s g).any fun k => (tgetD s.safe.tests k).running

/-- Working time of the next fire of an armed trigger channel (R367, R369). -/
def nextTrigger (s : State) (ch : Nat) : Option Nat :=
  let e := tgetD s.net.evs ch
  if e.ctl.toNat % 4 = 1 ∧ e.ctl.toNat.testBit 7 then
    let d := (e.next.toNat + 2 ^ 48 - s.time.now % 2 ^ 48) % 2 ^ 48
    some (if d < 2 ^ 47 then s.time.now + d else s.time.now)
  else none

/-- A P0 leg is ready for gang `g`. -/
def p0Ready (s : State) (g : Nat) : Bool := (readyRuns s g).any fun e => e.2.2 == 0

/-- Whether the next P0 release of gang `g` lies at least `need` ns away (R402). -/
def p0Slack (s : State) (g need : Nat) : Bool :=
  !p0Ready s g && s.sched.binds.all fun e =>
    e.2.gang != g || e.2.level != 0 || e.2.ended
      || (match nextTrigger s e.2.channel with | some t => decide (s.time.now + need ≤ t) | none => true)

/-- Whether a pass of unit `k` is due or under way (R395, R401, R408). -/
def sliceDue (s : State) (k : Nat) : Bool :=
  let t := tgetD s.safe.tests k
  t.forced || !t.pkts.isEmpty || t.slice != 0 || t.last + s.safe.cfg.intervalMs * 500000 ≤ s.time.now

/-- Whether the safety pair admits a slice on gang `g` now: 200 µs and 50 µs of slack; none while the safety role is taken over
(R400, R402). -/
def sliceAdmit (s : State) (g : Nat) : Bool :=
  s.safe.takeover != some true && (testUnits s g).any (sliceDue s) && p0Slack s g 250000

/-- Changes the self-test pass of unit `k`. -/
def modTest (k : Nat) (f : SelfTest → SelfTest) (s : State) : State := { s with safe.tests := tmod s.safe.tests k f }

/-- Slices start on all units of the gang whose pass is due (R401). -/
def startSlice (g : Nat) (s : State) : State :=
  ((testUnits s g).filter (sliceDue s)).foldl (fun t k => modTest k (fun x => { x with running := true }) t) s

/-- The slice on gang `g` is abandoned and counts as deferred (R402); the scratchpads are scrubbed after it (R401). -/
def dropSlice (g : Nat) (s : State) : State :=
  scrubGang g ((testUnits s g).foldl (fun t k => modTest k (fun x => { x with running := false }) t) s)

/-- Panel number whose position in gang order panel `n` holds (R176). -/
def placeOf (s : State) (n : Nat) : Nat := (panelOf s n).place.getD n

/-- Ready spares take the places of the panels that they replace in gang order (R176, R199). -/
def joinSpares (g : Nat) (s : State) : State :=
  match gangOf s g with
  | none => s
  | some x =>
    x.ready.foldl (fun t (k, n, pos) =>
      let before := fun m => decide (placeOf t m < pos)
      let t1 := modGang g (fun y => { y with panels := y.panels.filter before ++ [k] ++ y.panels.filter fun m => !before m }) t
      logEvent 0x0B 1 n 4 0xFFFF (chanScore t1 1 n) 0 0 t1) (modGang g (fun y => { y with ready := [] }) s)

/-- A scratchpad of gang `g` is being scrubbed (R171). -/
def scrubbing (s : State) (g : Nat) : Bool := (scrubUnits s g).any fun n => (panelOf s n).scrub

/-- A boundary of gang `g` that a slice or a scrub takes: the next leg still comes right behind the last one (R196). -/
def markBehind (g : Nat) (after : Bool) (s : State) : State := modGang g (fun x => { x with behind := after }) s

/-- The leg boundary of gang `g`: spares join, a due self-test slice takes precedence over P1 to P3 and gives way to a P0 run, the
scratchpads must be clean, then R125 chooses. -/
def boundary (g : Nat) (afterLeg : Bool) (s : State) : State :=
  let y := stallYields s g
  let s0 := match y with | some c => yieldStall g c s | none => s
  match gangOf s0 g with
  | none => s0
  | some x =>
    if x.cur.isSome || s0.safe.safeState || s0.power.tripped || !(s0.power.state == .run || s0.power.state == .trim) then s0
    else
      let after := afterLeg || (y.map Cur.missed).getD false || x.behind
      let s1 := markBehind g after (joinSpares g s0)
      if gangHeld s1 g then (if p0Ready s1 g then dropSlice g s1 else s1)
      else if gangSize s1 g != 0 && sliceAdmit s1 g then startSlice g s1
      else if scrubbing s1 g then s1
      else boundaryF 64 g after (markBehind g false s1)

/-- The leg boundary of every idle gang. -/
def boundaries (s : State) : State := (tkeys s.sched.gangs).foldl (fun t g => boundary g false t) s

/-! ### Bound runs (R192, R193, R328, R391) -/

/-- The newest completed slot of a port. -/
def newestSlot (c : Cam) : Option (Nat × CamSlot) :=
  c.slots.find? fun e => 0 < e.2.order && c.slots.all fun f => f.2.order ≤ e.2.order

/-- Points a window at slot `slot` of its port's ring: its pages map the slot's pages, read only (R328). -/
def mapWindow (win slot : Nat) (s : State) : State :=
  let w := tgetD s.cams.windows win
  let o := ((tgetD s.cams.ports w.port).out).getD {}
  let src := o.ring / 65536 + slot * (o.size / 65536)
  let s1 := { s with cams.windows := tput s.cams.windows win { w with slot := slot } }
  (List.range (o.size / 65536)).foldl (fun t i =>
    match tget (ctxOf t w.ctx).pages (src + i) with
    | none => t
    | some l => modCtx w.ctx (fun c => { c with pages := tput c.pages (w.va / 65536 + i) { l with read := true, write := false } }) t) s1

/-- Whether the checks of R391 hold for a slot taken for a bound run. -/
def e2eOk (s : State) (b : EvBind) (win slot : Nat) : Bool :=
  let w := tgetD s.cams.windows win
  let o := ((tgetD s.cams.ports w.port).out).getD {}
  let rec_ := vread s w.ctx (o.ring + slot * o.size) 256
  num rec_ 252 4 == num rec_ 0 4 && num rec_ 20 1 == w.port && tgetD b.lastFrame win < num rec_ 0 8
    && (b.maxAge == 0 || s.time.now - num rec_ 8 8 ≤ b.maxAge * 1000)

/-- Bound runs of context `h` and pending starts, whose room is reserved at the trigger (R192). -/
def boundStarts (s : State) (h : Nat) : Nat :=
  (s.sched.runs.filter fun e => e.2.ctx == h && (match e.2.kind with | .bound _ => true | _ => false)).length
    + (s.sched.binds.filter fun e => e.2.ctx == h && e.2.pending).length

/-- Room for `k` more packets or bound runs of context `h`: in flight, and in its status ring (R85, R192). -/
def flightRoom (s : State) (h k : Nat) : Bool :=
  let r := (ctxOf s h).ring
  let ringed := ((inFlight s h).filter fun f => f.pkt.queue < 8).length + boundStarts s h
  (inFlight s h).length + boundStarts s h + k ≤ 1024
    && (r.written.toNat + ringed + k + 2 ^ 32 - r.head.toNat) % 2 ^ 32 ≤ 2 ^ (statusRing s h).2

/-- Runs of gang `g`, of which it holds at most 64 (R187). -/
def gangRuns (s : State) (g : Nat) : Nat := (s.sched.runs.filter fun e => e.2.gang == g).length

/-- Drops a trigger of binding `b` (R193). -/
def dropTrigger (b : Nat) (s : State) : State :=
  { s with sched.binds := tupd s.sched.binds b fun x => { x with drops := x.drops + 1 } }

/-- A binding ends, by its run limit or by PLAN_UNBIND (R207): its handle is free and its window detached; the run that it has
started is left to finish, under a key that no handle can name. A pending start is discarded. -/
def endBind (b : Nat) (s : State) : State :=
  match tget s.sched.binds b with
  | none => s
  | some x =>
    let s1 := { s with
      cams.windows := tmap s.cams.windows fun _ w => if w.binding = some b then { w with binding := none } else w
      sched.binds := tdel s.sched.binds b }
    match x.active with
    | none => s1
    | some k =>
      let b2 := 65 + k
      modRun k (fun r => { r with kind := .bound b2 })
        { s1 with sched.binds := tput s1.sched.binds b2 { x with ended := true, pending := false } }

/-- The attached windows of a binding with their ports and the newest completed slot of each (R328). -/
def takeSlots (s : State) (x : EvBind) : List (Nat × Nat × Option (Nat × CamSlot)) :=
  x.windows.map fun w =>
    let port := (tgetD s.cams.windows w).port
    (w, port, newestSlot (tgetD s.cams.ports port))

/-- Takes the newest slot of one window for a run of binding `b`: the checks of R391, then the switch and the hold of R328; a
failed check is charged to the port. Says whether the checks held. -/
def takeSlot (b : Nat) (x : EvBind) (w port n : Nat) (c : CamSlot) (s : State) : Bool × State :=
  let ok := e2eOk s x w n
  let s1 := modCam port (fun q => { q with slots := tupd q.slots n fun y => { y with holds := y.holds + 1 } }) (mapWindow w n s)
  let s2 := { s1 with sched.binds := tupd s1.sched.binds b fun y =>
    { y with lastFrame := tput y.lastFrame w c.number } }
  (ok, if ok then s2 else chanEvent 0x11 4 port 2 x.ctx s2.safe.cfg.wWatchdog 0 c.number s2)

/-- Starts a run of binding `b`: a free status slot, the newest slot of each attached window, then the run (R192, R328, R391);
with several windows every one needs a new slot. While host-memory requests are held, a start whose slots lie in host memory waits
(R482). -/
def beginBound (b : Nat) (s : State) : State :=
  match tget s.sched.binds b with
  | none => s
  | some x =>
    let plan := tgetD s.sched.plans (x.plan % 65536)
    let slots := takeSlots s x
    let fresh := fun (port : Nat) (e : Option (Nat × CamSlot)) => match e with
      | some (_, c) => decide (tgetD x.lastDone port < c.order)
      | none => false
    if !flightRoom s x.ctx 1 || (gangOf s x.gang).isNone || 64 ≤ gangRuns s x.gang then dropTrigger b s
    else if slots.any fun (_, port, _) => chanRetired s 4 port then dropTrigger b s
    else if slots.any fun (_, port, e) => !fresh port e then dropTrigger b s
    else if held s && slots.any fun (w, port, _) => rangeHost s (tgetD s.cams.windows w).ctx (((tgetD s.cams.ports port).out).getD {}).ring 1 then
      { s with sched.binds := tput s.sched.binds b { x with pending := true } }
    else
      let (ok, muted, held, s1) := slots.foldl (fun (ok, muted, held, t) (w, port, e) =>
        match e with
        | none => (ok, muted, held, t)
        | some (n, c) =>
          let (k, t1) := takeSlot b x w port n c t
          (ok && k, muted || c.muted, held ++ [(port, n)], t1)) (true, false, [], s)
      let run : Run :=
        { kind := .bound b, ctx := x.ctx, tag := x.tag, plan := x.plan, gang := x.gang, level := x.level, queue := 16 + b
          order := s1.cmd.nextOrder, counter := plan.entry, number := x.started + 1
          notes := (if ok then 0 else nSuspect) ||| (if muted then nMuted else 0)
          windows := held }
      let n := s1.sched.nextRun
      let s2 := { s1 with
        sched.runs := tput s1.sched.runs n run
        sched.nextRun := n + 1
        cmd.nextOrder := s1.cmd.nextOrder + 1
        sched.binds := tupd s1.sched.binds b fun y =>
          { y with started := y.started + 1, active := some n, lastDone := tmap s1.cams.ports fun _ c => c.doneCount } }
      if x.limit ≠ 0 ∧ x.limit ≤ x.started + 1 then endBind b s2 else s2

/-- A trigger or capture arrives for binding `b` (R193). -/
def triggerBind (b : Nat) (s : State) : State :=
  match tget s.sched.binds b with
  | none => s
  | some x =>
    if x.ended then s
    else if x.active.isNone then beginBound b s
    else if x.queue && !x.pending && flightRoom s x.ctx 1 then { s with sched.binds := tput s.sched.binds b { x with pending := true } }
    else dropTrigger b s

/-- After the runs of a binding end: its pending start begins, or an ended binding goes (R193, R207). -/
def afterBound (s : State) : State :=
  (tkeys s.sched.binds).foldl (fun t b =>
    match tget t.sched.binds b with
    | none => t
    | some x =>
      if x.active.isSome then t
      else if x.ended then { t with sched.binds := tdel t.sched.binds b }
      else if x.pending then beginBound b { t with sched.binds := tput t.sched.binds b { x with pending := false } }
      else t) s

/-- Every trigger of event channel `n`: the runs of the plans bound to it start (R369, R370). -/
def startBoundRuns (n : Nat) (s : State) : State :=
  let bs := (s.sched.binds.filter fun e => e.2.channel == n && !e.2.ended).map Prod.fst
  boundaries (bs.foldl (fun t b => triggerBind b t) s)

/-! ### Wakes (R25, R413, R417, R429) -/

/-- Power state code (R412). -/
def pCode : PState → Nat
  | .run => 0 | .trim => 1 | .moor => 2 | .sample => 3 | .dormant => 4

/-- Records a wake (R429); the dormant delay counts from it (R413). -/
def wakeRec (src aux : Nat) (s : State) : State :=
  { s with
    power.wakeTime := s.time.now, power.wakeSrc := src, power.wakeAux := aux, power.wakeFrom := pCode s.power.state
    power.quietFrom := s.time.now }

/-- Nanoseconds of one 10 ms block. -/
def blockNs : Nat := 10000000

/-- Sample index of the first block boundary at or after a working time (R28, R30). -/
def boundaryAt (t : Nat) : Nat := (t + blockNs - 1) / blockNs * 160

/-- An entry to Moor is given up while the high-quality path runs (R29, R30, R415): a handover to the low-power path that it had begun
is dropped; where that handover has come already, the high-quality path, which has stayed settled, takes the Reel back at the first
block boundary at or after now, or 20 ms after it settles (DEDUCED, log 46). -/
def keepHq (s : State) : State :=
  if s.reel.source = 2 then { s with reel.handover := [] }
  else if s.audio.hq && !(s.reel.handover.any fun h => h.1 == 2) then
    { s with reel.handover := s.reel.handover ++ [(2, boundaryAt (max s.time.now (s.audio.settle0.getD 0 + 20000000)))] }
  else s

/-- Starts a move to `target` from a low-power state; a wake that meets an entry under way turns it round (R413, R415). A wake whose
target is Moor leaves the RY3 in Moor, and counts (R417); one that meets a move from Sample to Dormant makes its own move from
Sample (R25). -/
def wakeTo (target : PState) (src aux : Nat) (s : State) : State :=
  match s.power.move with
  | some m =>
    if m.target = .moor ∧ (m.origin = .run ∨ m.origin = .trim) then
      wakeRec src aux (keepHq { s with power.move := some { target := m.origin, origin := m.origin } })
    else if target = .run then wakeRec src aux { s with power.move := some { m with target := .run } }
    else if m.target = .sample ∨ m.target = .dormant then
      wakeRec src aux { s with
        power.move := if s.power.state = .moor then none else some { target := target, origin := s.power.state } }
    else s
  | none =>
    if s.power.state = .run ∨ s.power.state = .trim then s
    else if target = .moor ∧ s.power.state = .moor then wakeRec src aux s
    else wakeRec src aux { s with power.move := some { target := target, origin := s.power.state } }

/-! ### The cascade (R35–R45) -/

/-- An event that the tier's state does not pair with (R37). -/
def ignoreTier (k : Nat) (s : State) : State :=
  { modTier k (fun t => { t with ignored := t.ignored + 1 }) s with casc.ignored := s.casc.ignored + 1 }

/-- Binding of a reason at target tier 1 or 2 (R48). -/
def bindOf (s : State) (target reason : Nat) : Option CascBind := tget s.casc.binds (target * 8 + reason)

/-- Whether a binding can be served (R40, R202). -/
def bindValid (s : State) (target : Nat) (b : CascBind) : Bool :=
  ctxLive s b.ctx && (planOf s b.ctx b.plan).isSome && (gangOf s b.gang).map Gang.made == some b.made && !(target == 1 && kiteRetired s)

/-- Tier key of a target and reason: Kite, or the bound gang. -/
def tierKey (s : State) (target reason : Nat) : Option Nat :=
  match bindOf s target reason with
  | some b => if bindValid s target b then some (if target = 1 then 0 else b.gang) else none
  | none => none

/-- Settings of a source and reason (R47). -/
def srcCfg (s : State) (source reason : Nat) : SourceCfg := tgetD s.casc.sources (source * 8 + reason)

/-- Sample index of the oldest kept Reel sample (R27); with nothing kept, the block being written. -/
def reelOldest (s : State) : Nat := ((s.reel.blocks.head?).map fun b => b.num * 160).getD s.reel.index

/-- The 48 bytes of a Lift record (R35). -/
def liftBytes (l : LiftRec) : List Byte :=
  toLE 1 l.source ++ toLE 1 l.target ++ toLE 1 l.reason ++ toLE 1 l.flags ++ toLE 2 l.score ++ toLE 2 l.threshold
    ++ toLE 8 l.time ++ toLE 8 l.rewind ++ toLE 4 l.seq ++ toLE 8 l.frame ++ toLE 2 l.aux ++ toLE 2 l.merged ++ toLE 8 0

/-- The 24 bytes of a Ballast record (R42). -/
def ballastBytes (b : BallastRec) : List Byte :=
  toLE 1 b.src ++ toLE 1 b.dst ++ toLE 1 b.cause ++ [0] ++ toLE 4 b.lift ++ toLE 8 b.consumed ++ toLE 8 b.time

/-- Notifies the host of a Lift or a Ballast: GLB_EVENT.CASC, and PE_WAKE_N while the link is in a low-power state (R46). -/
def cascNotify (on : Bool) (s : State) : State :=
  if on then glbEvent 1 { s with link.wakeDriven := s.link.wakeDriven || s.link.perst0 || s.link.d3hot } else s

/-- Appends a Lift record to the cascade log: the last 64 are kept (R35, R46). -/
def logLift (l : LiftRec) (s : State) : State :=
  cascNotify s.casc.notifyLift { s with casc.liftLog := (s.casc.liftLog ++ [l]).drop (s.casc.liftLog.length + 1 - 64) }

/-- Whether the Reel's block that starts at sample index `i` is muted (R350): while the gate is held, and until the path that writes it
has settled once more. -/
def reelMuted (s : State) (i : Nat) : Bool :=
  s.audio.gate || decide (i < (if s.reel.source = 2 then s.audio.mutedTo else s.reel.mutedTo).getD 0)

/-- Whether a muted block lies between two sample indices (R35). -/
def mutedBetween (s : State) (a b : Nat) : Bool :=
  (s.reel.blocks.any fun k => k.muted && a < k.num * 160 + 160 && k.num * 160 ≤ b)
    || (s.reel.index ≤ b && reelMuted s s.reel.index)

/-- Inserts a Lift record in order of trigger time, then reason (R41). -/
def insertLift (l : LiftRec) : List LiftRec → List LiftRec
  | [] => [l]
  | q :: t => if l.time < q.time ∨ (l.time = q.time ∧ l.reason < q.reason) then l :: q :: t else q :: insertLift l t

/-- Whether Lift `l` merges into the Lift `q`, queued or running: the same reason, and a rewind at or before the trigger sample
of the running Lift (R41). -/
def mergesInto (running l q : LiftRec) : Bool := l.reason == q.reason && l.rewind ≤ running.trigger

/-- One more Lift merged into Lift number `n`, in its record and in the log's copy (R41). The 16-bit counts of merged Lifts, of Lift
overflows and of Reel overruns stay at their largest value (DESIGN CHOICE, log 46: the rules give their width alone). -/
def addMerged (n : Nat) (l : LiftRec) : LiftRec := if l.seq = n then { l with merged := sat 16 (l.merged + 1) } else l

/-- A Lift reaches a tier that already holds one: merged, queued, or dropped as the ninth (R41). The running Lifts are the one that
raised the tier and those that its plan has received since; the newest of them is judged by. -/
def queueLift (k : Nat) (l : LiftRec) (s : State) : State :=
  let t := tierOf s k
  let running := t.lift.toList ++ t.taken
  match (running ++ t.queue).find? (mergesInto (running.getLastD l) l) with
  | some q =>
    let s1 := modTier k (fun t =>
      { t with lift := t.lift.map (addMerged q.seq), taken := t.taken.map (addMerged q.seq), queue := t.queue.map (addMerged q.seq) }) s
    { s1 with casc.liftLog := s1.casc.liftLog.map (addMerged q.seq) }
  | none =>
    if t.queue.length < 8 then modTier k (fun t => { t with queue := insertLift l t.queue }) s
    else { s with casc.overflow := sat 16 (s.casc.overflow + 1) }

/-- The bytes that the cascade partition takes of a plan of context `h`: its objects of kinds 1 to 3 (R200). -/
def planCopy (s : State) (h : Nat) (q : Plan) : Tbl (List Byte) :=
  (q.objs.zipIdx.filter fun x => 1 ≤ x.1.kind && x.1.kind ≤ 3).map fun x => (x.2, vread s h x.1.addr x.1.size)

/-- Copies a plan into the cascade partition, and drops the plans that no tier-1 binding names any more (R200). -/
def copyPlan (h plan : Nat) (s : State) : State :=
  let bound := fun (n : Nat) => s.casc.binds.any fun e => e.1 < 16 && e.2.plan == n
  let kept := tkeep s.casc.partition fun n _ => bound n
  { s with casc.partition := match planOf s h plan with
      | some q => if bound plan then tput kept plan (planCopy s h q.2) else kept
      | none => kept }

/-- The copy of object `i` that the runs of a plan on Kite read in place of memory (R200). -/
def partObj (s : State) (r : Run) (i : Nat) : Option (List Byte) :=
  if r.gang = 0 then (tget s.casc.partition r.plan).bind fun t => tget t i else none

/-- Item size of a cascade run's ring (R191). -/
def cascItem (reason : Nat) : Nat := if reason = 2 ∨ reason = 3 then 307200 else 1344

/-- The prefetch that the warm-up of tier `k` has made serves as the prefetch of run `n`'s first leg (R37, R44). -/
def armPrefetch (k g plan n entry : Nat) (s : State) : State :=
  if (tierOf s k).prefetch = some plan then
    modGang g (fun x => { x with prefetched := if x.prefetched.isSome then x.prefetched else some (n, entry) }) s
  else s

/-- Discards a tier's prefetch and closes its reader. -/
def closeReader (k : Nat) (s : State) : State := { s with reel.readers := tdel s.reel.readers k }

/-- A detector Lift whose trigger sample lies at or before `c` (R43). -/
def liftCovered (c : Nat) (l : LiftRec) : Bool := l.source == 0 && l.reason ≤ 3 && l.trigger ≤ c

/-- Discards every detector Lift, queued for a plan or held for a power-down, that lies at or before the consumed index, and counts each
as suppressed (R43). The Lift that another tier is warming or arming for is no longer queued, and stays (DESIGN CHOICE, log 46). -/
def discardCovered (c : Nat) (s : State) : State :=
  let gone := ((s.casc.tiers.map fun e => ((e.2.queue ++ e.2.held).filter (liftCovered c)).length)).sum
  let keep := fun (l : LiftRec) => !liftCovered c l
  { s with
    casc.suppressed := s.casc.suppressed + gone
    casc.tiers := tmap s.casc.tiers fun _ t => { t with queue := t.queue.filter keep, held := t.held.filter keep } }

/-- Ballast of tier `k` (R42, R43): the record, the suppression up to the consumed index, the end of its run. Lifts still
queued that it does not cover are held for after the power-down (DEDUCED, log 12). -/
def ballast (k cause consumed : Nat) (s : State) : State :=
  let t := tierOf s k
  let kite := (tierOf s 0).state
  let rec_ : BallastRec :=
    { src := if k = 0 then 1 else 2
      dst := if k ≠ 0 ∧ (kite = .active ∨ kite = .idle) then 1 else 0
      cause := cause, lift := (t.lift.map LiftRec.seq).getD 0, consumed := consumed, time := s.time.now }
  let s1 := match t.run with | some r => endRun r .ok false s | none => s
  let s2 := discardCovered consumed (closeReader k (enterTier k .sinking (fun t =>
    { t with lift := none, run := none, windowEnd := none, ended := none, prefetch := none
             held := t.held ++ t.queue, queue := [], taken := [] }) s1))
  let s3 := { s2 with
    casc.ballastLog := (s2.casc.ballastLog ++ [rec_]).drop (s2.casc.ballastLog.length + 1 - 64)
    casc.consumed := some (max consumed (s2.casc.consumed.getD 0)) }
  cascNotify s3.casc.notifyBallast s3

/-- The tier enters Arming for Lift `l`: the run of the bound plan is created at the binding's priority, with the plan's cascade
input object as its ring, and the Reel reader is opened at the block that holds the rewind (R37, R191; DESIGN CHOICE, log 46: items are
whole blocks, and R36 does not say where a rewind inside a block starts). A gang that holds 64 runs takes no other (R187): the tier
ballasts with cause 0x06 (DESIGN CHOICE, log 46). -/
def armTier (k : Nat) (l : LiftRec) (s : State) : State :=
  let b := l.bind.getD {}
  if 64 ≤ gangRuns s b.gang then ballast k 6 l.rewind (modTier k (fun t => { t with lift := some l }) s)
  else
    let plan := tgetD s.sched.plans (b.plan % 65536)
    let obj := plan.objs.getD plan.cascIn {}
    let item := cascItem l.reason
    let ring : InRing := { addr := obj.addr, itemSize := item, items := obj.size / item }
    let run : Run :=
      { kind := .cascade k, ctx := b.ctx, plan := b.plan, gang := b.gang, level := b.level, queue := 15
        order := s.cmd.nextOrder, counter := plan.entry, ring := some ring, lift := some l, consumed := l.rewind }
    let n := s.sched.nextRun
    let s1 := { s with sched.runs := tput s.sched.runs n run, sched.nextRun := n + 1, cmd.nextOrder := s.cmd.nextOrder + 1 }
    let s2 := pinRange b.ctx ring.addr (ring.items * item) true s1
    let s3 := if item = 1344 then { s2 with reel.readers := tput s2.reel.readers k { next := l.rewind / 160 } } else s2
    enterTier k .arming (fun t => { t with lift := some l, run := some n, windowEnd := none, nextFrame := l.frame, prefetch := none })
      (armPrefetch k b.gang b.plan n plan.entry s3)

/-- A tier that was Off starts to warm: its panels and the DRAM come up (R37, R38). -/
def raiseTier (k : Nat) (f : Tier → Tier) (s : State) : State :=
  settlePower k { enterTier k .warming f s with store.rest := false }

/-- A tier's answer to a Lift (R37, R39, R41). -/
def tierLift (k : Nat) (l : LiftRec) (s : State) : State :=
  match (tierOf s k).state with
  | .off => raiseTier k (fun t =>
      { t with lift := some l, warmFrom := some (t.warmFrom.getD s.time.now), prefetch := l.bind.map CascBind.plan }) s
  | .warming =>
    if (tierOf s k).lift.isSome then queueLift k l s
    else modTier k (fun t => { t with lift := some l, windowEnd := none }) s
  | .warm => armTier k l s
  | .arming => queueLift k l s
  | .active => queueLift k l s
  | .idle => enterTier k .active id (queueLift k l s)
  | .falling => modTier k (fun t => { t with held := t.held ++ [l] }) s
  | .sinking => modTier k (fun t => { t with held := t.held ++ [l] }) s

/-- A detector Lift at or before the consumed index is discarded (R43). -/
def liftSuppressed (s : State) (l : LiftRec) : Bool := (s.casc.consumed.map (liftCovered · l)).getD false

/-- What the completion of a Lift tells the tier below: the record's flags, and DEGRADED for a bound gang that has lost panels (R40). -/
def liftAnswer (s : State) (key : Option Nat) (flags : Nat) : Nat × Nat :=
  (flags, match key with | some g => if g = 0 then 0 else gangNotes s g &&& nDegraded | none => 0)

/-- Restarts the windows that a source holds at tier 2, each with its own length (R38). -/
def renewWindows (source : Nat) (s : State) : State :=
  { s with casc.tiers := tmap s.casc.tiers fun k t =>
      if k ≠ 0 ∧ t.windowEnd.isSome ∧ t.windowBy = source then { t with windowEnd := some (s.time.now + t.windowNs) } else t }

/-- Raises a Lift with rewind `rewind`, which may lie before the first sample (R35–R41): the record gets its number, its rewind is
clamped, its flags are set, it is logged, the tier below is told and the record is passed to the target tier; a low-power state is left
for Run (R25, R417). -/
def raiseLift (rewind : Int) (l : LiftRec) (s : State) : State :=
  if liftSuppressed s l then { s with casc.suppressed := s.casc.suppressed + 1 }
  else
    let old := reelOldest s
    let key := tierKey s l.target l.reason
    let st := match key with | some k => (tierOf s k).state | none => .off
    let flags :=
      b2n (st == .warm) + 2 * b2n (rewind < old) + 4 * b2n (mutedBetween s (max rewind.toNat old) l.trigger)
        + 8 * b2n key.isNone + 16 * b2n (st == .falling || st == .sinking)
    let bnd := if key.isSome then bindOf s l.target l.reason else none
    let r := { l with rewind := max rewind.toNat old, flags := flags, seq := s.casc.liftSeq + 1, bind := bnd }
    let s1 := logLift r { s with
      casc.liftSeq := s.casc.liftSeq + 1
      casc.answers := tput s.casc.answers l.source (liftAnswer s key flags) }
    let s2 := wakeTo .run 2 l.reason s1
    let s3 := if l.target = 1 then renewWindows l.source s2 else s2
    match key with
    | none => s3
    | some k => tierLift k r s3

/-- A tier's answer to an Updraft for bound plan `plan` (R37, R38): a cold tier starts to warm and to prefetch, and the window is
started or restarted. -/
def tierUpdraft (k source window plan : Nat) (s : State) : State :=
  let ns := window * 1000000
  let hold := fun (t : Tier) =>
    { t with windowEnd := if t.lift.isSome then t.windowEnd else some (s.time.now + ns), windowBy := source, windowNs := ns }
  match (tierOf s k).state with
  | .off => raiseTier k (fun t =>
      { hold t with warmFrom := some (t.warmFrom.getD s.time.now), prefetch := some plan }) s
  | .warming => modTier k hold s
  | .warm => modTier k hold s
  | _ => ignoreTier k s

/-- Raises an Updraft of a source and reason (R38, R45): the next tier, and with reach 2 also the tier-2 gang. -/
def raiseUpdraft (source reason : Nat) (s : State) : State :=
  let c := srcCfg s source reason
  let s1 := wakeTo .run 2 reason { s with casc.updrafts := s.casc.updrafts + 1 }
  let targets := if source = 1 then [2] else if c.reach = 2 then [1, 2] else [1]
  targets.foldl (fun t g => match tierKey t g reason with
    | some k => tierUpdraft k source c.window (((bindOf t g reason).map CascBind.plan).getD 0) t
    | none => t) s1

/-- Sample index up to which the tier has consumed audio: the end of the last block that its plan released, at first the
rewind (R42). -/
def tierConsumed (s : State) (k : Nat) : Nat :=
  let t := tierOf s k
  match t.run.bind (runOf s) with
  | some r => r.consumed
  | none => (t.lift.map LiftRec.rewind).getD 0

/-- Sample index that the tier's reader has reached (R46). -/
def readerPos (s : State) (k : Nat) : Nat :=
  match tget s.reel.readers k with
  | some r => r.next * 160
  | none => tierConsumed s k

/-- Tier `k`, which no Lift has reached, falls: its prefetched weights are discarded (R37). -/
def fallTier (k : Nat) (s : State) : State := enterTier k .falling (fun t => { t with windowEnd := none, prefetch := none }) s

/-- CASC_BALLAST, a power-state change or a channel fault reaches tier `k` (R37). -/
def releaseTier (k cause : Nat) (consumed : Option Nat) (s : State) : State :=
  let t := tierOf s k
  match t.state with
  | .active => ballast k cause (consumed.getD (tierConsumed s k)) s
  | .idle => ballast k cause (consumed.getD (tierConsumed s k)) s
  | .warming | .warm | .arming =>
    match t.lift with
    | none => fallTier k s
    | some l => ballast k cause l.rewind s
  | _ => ignoreTier k s

/-- The Ballast of every tier whose run has ended by itself: cause 0x01 after OK, otherwise 0x06 (R42, R191; DEDUCED, log 22). -/
def settleTiers (s : State) : State :=
  (s.casc.tiers.filterMap fun (k, t) => t.ended.map fun e => (k, e)).foldl
    (fun t (k, ok, c) => ballast k (if ok then 1 else 6) c t) s

/-- Whether gang `g` is not idle: a leg is inside it, or stalls right after another, or a slice or a scrub comes right after one (R196). -/
def notIdle (s : State) (g : Nat) : Bool :=
  match (gangOf s g).bind Gang.cur with
  | some c => c.inside || c.missed
  | none => ((gangOf s g).map Gang.behind).getD false

/-- Ends run `k`, lets its binding go on, and takes the boundary of its gang. -/
def finishRun (k : Nat) (code : Code) (stopped : Bool) (s : State) : State :=
  match runOf s k with
  | none => s
  | some r => boundary r.gang (notIdle s r.gang) (afterBound (settleTiers (endRun k code stopped s)))

/-- Tiers above Mooring that are in service (R25): neither Off nor powering down. -/
def tiersUp (s : State) : Bool :=
  s.casc.tiers.any fun e => !(e.2.state == .off || e.2.state == .falling || e.2.state == .sinking)

end Sys2Proof.Machine
end

