-- ==== Sys2Proof/Machine/Teardown.lean ====
section
/-! DEFINITION. Taking a context down: the Ripcord (R131, R132), the end of its scrub, and leases revoked at their limit. -/

namespace Sys2Proof.Machine

/-- Panels of a gang go back to the free pool; a retired panel stays retired (R124, R168). -/
def freePanels (g : Nat) (s : State) : State :=
  (List.range 34).foldl (fun t n =>
    let q := panelOf t n
    if q.gang = g ∧ q.state = .inGang then modPanel n (fun q => { q with state := .free, gang := 0, powered := false }) t else t) s

/-- A gang ceases to exist (R124, R130). -/
def removeGang (g : Nat) (s : State) : State :=
  let s1 := freePanels g s
  dropLease 2 g { s1 with sched.gangs := tdel s1.sched.gangs g }

/-- Ends every run that satisfies `f` with a code, in run order. -/
def endRuns (f : Nat → Run → Bool) (code : Code) (s : State) : State :=
  ((s.sched.runs.filter fun e => f e.1 e.2).map Prod.fst).foldl (fun t k => endRun k code false t) s

/-- The tiers whose run or Lift belongs to bindings that satisfy `f` ballast with cause 0x06 (R42). -/
def failTiers (f : Nat → Tier → Bool) (s : State) : State :=
  ((s.casc.tiers.filter fun e => f e.1 e.2).map Prod.fst).foldl (fun t k => releaseTier k 6 none t) s

/-- Whether tier `k` works for context `h`: its run is one of the context's, or its waiting Lift is bound to it. -/
def tierOfCtx (s : State) (h _k : Nat) (t : Tier) : Bool :=
  (match t.run with | some r => ((runOf s r).map fun x => x.ctx == h).getD false | none => false)
    || (match t.lift with
        | some l => (l.bind.map fun b => b.ctx == h).getD false && t.state != .off
        | none => false)

/-- Takes the waiting packets of context `h` out of every unit's list. -/
def purgeWaits (h : Nat) (s0 : State) : State :=
  let keep := fun (p : Pkt) => p.ctx != h
  let s := unpinQueued (fun p => p.ctx == h) s0
  { s with
    models.kvQueue := s.models.kvQueue.filter fun e => keep e.2
    models.strmQueue := s.models.strmQueue.filter fun e => keep e.2
    models.kvWaits := s.models.kvWaits.filter fun e => keep e.2.2
    store.moves := s.store.moves.map fun m => { m with pkts := m.pkts.filter keep, freeing := m.freeing.filter keep }
    store.cold := s.store.cold.map fun c => { c with pkt := c.pkt.filter keep }
    store.dma := tkeep s.store.dma fun _ d => keep d.pkt
    cams.ports := tmap s.cams.ports fun _ c =>
      { c with waits := c.waits.filter fun e => keep e.2, stop := c.stop.filter keep }
    audio.rings := tmap s.audio.rings fun _ c =>
      { c with waits := c.waits.filter fun e => keep e.2, stop := c.stop.filter keep }
    net.eths := tmap s.net.eths fun _ e =>
      { e with sending := e.sending.filter fun x => keep x.pkt, resolving := e.resolving.filter fun x => keep x.pkt }
    net.gwOut := s.net.gwOut.filter fun g => keep g.pkt
    sched.runs := tmap s.sched.runs fun _ r => { r with stops := r.stops.filter keep }
    reel.copy := s.reel.copy.filter fun c => keep c.pkt }

/-- A packet that ended while it waited leaves the lists of the units that hold it. -/
def unlist (p : Pkt) (s0 : State) : State :=
  let s := unpinQueued (· == p) s0
  { s with
    models.kvQueue := s.models.kvQueue.filter fun e => e.2 != p
    models.strmQueue := s.models.strmQueue.filter fun e => e.2 != p
    reel.copy := s.reel.copy.filter fun c => c.pkt != p }

/-- Ends every packet of context `h` in flight with a code, in fetch order (R132 step 4, R103 step 4). -/
def endFlights (h : Nat) (code : Code) (s : State) : State :=
  (inFlight s h).foldl (fun t f => complete f.pkt code 0 0 0 0 t) s

/-- The key-value cache and streams of context `h` are released (R132 step 5). -/
def dropModels (h : Nat) (s : State) : State :=
  let mine := (s.models.pools.filter fun e => e.2.ctx == h).map Prod.fst
  { s with
    models.pools := tkeep s.models.pools fun _ p => p.ctx != h
    models.kvPages := tkeep s.models.kvPages fun _ p => !mine.contains p.pool
    models.seqs := tkeep s.models.seqs fun _ q => q.ctx != h
    models.sets := tkeep s.models.sets fun _ q => q.ctx != h
    models.streams := tkeep s.models.streams fun _ q => q.ctx != h
    models.qslots := tkeep s.models.qslots fun _ q => q.ctx != h }

/-- The camera ports of context `h` return to the management context, Off, with PWR_EN inactive (12, after R332); the frame
number continues (R325). -/
def dropCams (h : Nat) (s : State) : State :=
  { s with
    cams.ports := tmap s.cams.ports fun _ c => if c.owner = h then { frameNo := c.frameNo } else c
    cams.windows := tkeep s.cams.windows fun _ w => w.ctx != h }

/-- The audio units of context `h` stop and return to the management context (13, after R352); MIC_CLASS is sticky (R350). -/
def dropAudio (h : Nat) (s : State) : State :=
  { s with
    audio.rings := tkeep s.audio.rings fun _ c => c.owner != h
    audio.i2s := tmap s.audio.i2s fun _ p => if p.owner = h then { micClass := p.micClass } else p
    audio.arrayOwner := if s.audio.arrayOwner = h then 0 else s.audio.arrayOwner }

/-! ### Routes (R373) -/

/-- An IPv4-mapped address. -/
def isV4 (ip : List Byte) : Bool := ip.take 12 == List.replicate 10 0 ++ [0xFF, 0xFF]

/-- Whether the first `n` bits of two addresses agree. -/
def prefixEq (n w : Nat) (a b : List Byte) : Bool := beNat a >>> (w - n) == beNat b >>> (w - n)

/-- The link-local address of a port: fe80::/64 with the modified EUI-64 of its MAC address (R373). -/
def linkLocal (e : Eth) : List Byte :=
  let m := fit 6 e.mac
  [0xFE, 0x80] ++ List.replicate 6 0 ++ [(m.getD 0 0) ^^^ 2, m.getD 1 0, m.getD 2 0, 0xFF, 0xFE, m.getD 3 0, m.getD 4 0, m.getD 5 0]

/-- The IPv6 addresses of the record, by index 4–7 (R373, R382). -/
def v6Held (e : Eth) : List Nat := (List.range 4).filter fun i => num e.addrs (24 + 16 * i) 16 != 0

/-- Address `i` of a port, IPv4 as an IPv4-mapped one (R382): 0–3 IPv4, 4–7 IPv6, 8 link-local on a port with IPv6; none where unused. -/
def addrOf (e : Eth) (i : Nat) : Option (List Byte) :=
  if i < 4 then (if num e.addrs (4 * i) 4 = 0 then none else some (List.replicate 10 0 ++ [0xFF, 0xFF] ++ slice e.addrs (4 * i) 4))
  else if i < 8 then (if num e.addrs (24 + 16 * (i - 4)) 16 = 0 then none else some (slice e.addrs (24 + 16 * (i - 4)) 16))
  else if i = 8 ∧ !(v6Held e).isEmpty then some (linkLocal e) else none

/-- The index of a port's address that `ip` is. -/
def addrIndex (e : Eth) (ip : List Byte) : Option Nat := (List.range 9).find? fun i => addrOf e i == some ip

/-- Whether `ip` lies on the subnet of an address of the port (R373); with IPv6 every port has its link-local subnet. -/
def onSubnet (e : Eth) (ip : List Byte) : Bool :=
  if isV4 ip then
    (List.range 4).any fun i => let a := slice e.addrs (4 * i) 4
      leNat a != 0 && prefixEq (num e.addrs (16 + i) 1) 32 a (ip.drop 12)
  else
    let v6 := v6Held e
    (v6.any fun i => prefixEq (num e.addrs (88 + i) 1) 128 (slice e.addrs (24 + 16 * i) 16) ip)
      || (!v6.isEmpty && beNat (ip.take 8) == 0xFE80000000000000)

/-- The gateway of a port for the family of `ip`, as an address; none if it has none. -/
def gatewayOf (e : Eth) (ip : List Byte) : Option (List Byte) :=
  if isV4 ip then
    (if num e.addrs 20 4 = 0 then none else some (List.replicate 10 0 ++ [0xFF, 0xFF] ++ slice e.addrs 20 4))
  else if num e.addrs 96 16 = 0 then none else some (slice e.addrs 96 16)

/-- The port through which a destination leaves (R373). -/
def routePort (s : State) (ip : List Byte) : Nat :=
  let e0 := tgetD s.net.eths 0
  let e1 := tgetD s.net.eths 1
  if onSubnet e0 ip then 0 else if onSubnet e1 ip then 1
  else if (gatewayOf e0 ip).isSome then 0 else if (gatewayOf e1 ip).isSome then 1 else 0

/-- The port that a port field names: 0 or 1, or the route (R382). -/
def egress (s : State) (field : Nat) (ip : List Byte) : Nat := if field < 2 then field else routePort s ip

/-- Record of fleet member `k` (R377). -/
def memberOf (s : State) (k : Nat) : List Byte := (tget s.net.fleet k).getD []

/-- Sends Gweug bytes to fleet member `k`. -/
def gwEmit (k : Nat) (bs : List Byte) (s : State) : State :=
  let e := memberOf s k
  let n := egress s (num e 152 1) (slice e 136 16)
  { s with out := s.out ++ [.dgram 1 n (slice e 136 16) (num e 134 2) bs (vlanTag s n)] }

/-- Closes a Gweug session (R378). -/
def gwDrop (id : Nat) (s : State) : State := { s with net.gws := tdel s.net.gws id }

/-- Sends one encrypted Gweug datagram of a session (R378, R379); a counter that reaches 2^32 closes it. -/
def gwSend (id type : Nat) (payload : List Byte) (s : State) : State :=
  match tget s.net.gws id with
  | none => s
  | some q =>
    let hdr := sessHeader type q.wire q.tx
    let s1 := gwEmit q.peer (hdr ++ sealDir q.first q.secret hdr payload) { s with net.gws := tput s.net.gws id { q with tx := q.tx + 1 } }
    if 2 ^ 32 ≤ q.tx + 1 then gwDrop id s1 else s1

/-- The ack payload of R379. -/
def ackBytes (id next bitmap flags : Nat) : List Byte := toLE 4 id ++ toLE 4 next ++ toLE 8 bitmap ++ toLE 4 flags

/-- An inbox closes: ABORT is sent for each transfer into it (R380). -/
def closeInbox (n : Nat) (s : State) : State :=
  let mine := s.net.gwIn.filter fun t => t.inbox == n
  let s1 := mine.foldl (fun t x => gwSend x.session 5 (ackBytes x.id 0 0 2) t) s
  { s1 with net.inboxes := tdel s1.net.inboxes n, net.gwIn := s1.net.gwIn.filter fun t => t.inbox != n }

/-- The sockets, inboxes and event channels of context `h` (R372, and 14 after R383). -/
def dropNet (h : Nat) (s : State) : State :=
  let s1 := ((s.net.inboxes.filter fun e => e.2.ctx == h).map Prod.fst).foldl (fun t n => closeInbox n t) s
  { s1 with
    net.socks := tkeep s1.net.socks fun _ k => k.ctx != h
    net.evs := tmap s1.net.evs fun _ e =>
      if e.owner = h then { e with owner := 0, ctl := e.ctl &&& 0xFFFFFF7C, pulse := false } else e }

/-- 64 KiB pages of the firmware region that context `h` holds: its plan stores and statistics records (R132). -/
def sideFrames (s : State) (h : Nat) : Nat :=
  tsum s.sched.plans (fun _ p => if p.ctx = h then p.store else 0)
    + tsum s.models.qslots (fun _ q => if q.ctx = h then slotPages q.channels else 0)

/-- Releases everything that context `h` holds and queues the scrub of its memory (R132 step 5); its frames, its state store units and its
pages of the firmware region stay in use until they are scrubbed, and its region leases are being revoked until then (R130, R138). Its
cold extents are deallocated (R305); a request of the management context to move one of its objects ends with E_TORN_DOWN. -/
def releaseAll (h : Nat) (s : State) : State :=
  let side := sideFrames s h
  let gangs := (s.sched.gangs.filter fun e => e.1 != 0 && e.2.kind != 0 && e.2.owner == h).map Prod.fst
  let s1 := gangs.foldl (fun t g => removeGang g t) s
  let s2 := dropNet h (dropAudio h (dropCams h (dropModels h s1)))
  let mine := fun (k : Nat) => ((tget s2.store.objs k).map fun o => o.ctx == h).getD false
  let others := ((s2.store.moves.filter fun m => mine m.obj).map fun m => m.pkts ++ m.freeing.toList).flatten
  let gone := (s2.store.extents.filter fun e => e.2.1 == h).map Prod.fst
  let s2 := others.foldl (fun t p => complete p .eTornDown 0 0 0 0 t)
    { s2 with out := if gone.isEmpty then s2.out else s2.out ++ [.nvme 0 2 gone] }
  let s3 := { s2 with
    sched.plans := tkeep s2.sched.plans fun _ p => p.ctx != h
    sched.binds := tkeep s2.sched.binds fun _ b => b.ctx != h
    sched.leases := tmap (tkeep s2.sched.leases fun _ l => l.owner != h || l.kind == 4) fun _ l =>
      if l.owner = h then { l with revoking := true } else l
    store.objs := tkeep s2.store.objs fun _ o => o.ctx != h
    store.moves := s2.store.moves.filter fun m => thas (tkeep s2.store.objs fun _ o => o.ctx != h) m.obj
    store.cold := s2.store.cold.filter fun c => match c.obj with
      | some k => thas (tkeep s2.store.objs fun _ o => o.ctx != h) k
      | none => true
    store.extents := tkeep s2.store.extents fun _ e => e.1 != h
    store.scrubs := s2.store.scrubs ++ [(h, side)] }
  modCtx h (fun c => { c with pages := [], coldKey := none }) s3

/-- The Ripcord of tenant context `h` with a cause (R131–R133): a second one only counts its cause; the management context is
never torn down. `st` is the state that the context enters: Torn down, or Closing for CTX_CLOSE. -/
def ripcordTo (st : CtxState) (h cause : Nat) (s : State) : State :=
  if h = 0 ∨ (ctxOf s h).state = .closed then s
  else if (ctxOf s h).state = .tornDown then modCtx h (fun c => { c with causesMore := c.causesMore + 1 }) s
  else
    let s1 := modCtx h (fun c =>
      { c with state := st, wasSealed := c.wasSealed || c.state == .sealed, cause := cause }) s
    let s2 := failTiers (tierOfCtx s1 h) s1
    let s3 := endRuns (fun _ r => r.ctx == h) .eTornDown (purgeWaits h s2)
    let s4 := endFlights h .eTornDown s3
    let s5 := releaseAll h s4
    boundaries (afterBound (logEvent 0x0F 0 0 6 h (deviceScore s5) cause 0 s5))

/-- The Ripcord with a fault's cause: the context becomes Torn down; one that is Closing already only counts (R133). -/
def ripcord (h cause : Nat) (s : State) : State :=
  if (ctxOf s h).state = .closing then modCtx h (fun c => { c with causesMore := c.causesMore + 1 }) s
  else ripcordTo .tornDown h cause s

/-- Scrubs the memory of a torn-down context: every frame and state store unit that it held is zero and free, and its region leases are gone
(R120, R130, R132). -/
def scrubCtx (h side : Nat) (s : State) : State :=
  let fs := (s.store.frames.filter fun e => e.2 == h).map Prod.fst
  let us := (s.store.regions.filter fun e => e.2 == h).map Prod.fst
  let s1 := us.foldl (fun t u => physZero (u * 4096) 4096 t) (freeFramesOf fs s)
  modCtx h (fun c => { c with frames := c.frames + fs.length + (us.length + 15) / 16 + side })
    { s1 with
      store.regions := tkeep s1.store.regions fun _ o => o != h
      sched.leases := tkeep s1.sched.leases fun _ l => l.owner != h
      store.scrubs := s1.store.scrubs.filter fun e => e.1 != h }

/-- A Closing context whose scrubs have ended becomes Closed, and its CTX_CLOSE completes (R109, R134). -/
def closeIfDone (h : Nat) (s : State) : State :=
  let c := ctxOf s h
  if c.state = .closing ∧ !(s.store.scrubs.any fun e => e.1 == h) ∧ (inFlight s h).isEmpty ∧ !(s.sched.runs.any fun e => e.2.ctx == h) then
    let s1 := { s with ctxs := tdel s.ctxs h }
    match c.closing with
    | some k => completeOk k.pkt (sat 32 c.frames) 0 0 s1
    | none => s1
  else s

/-- Destination ranges of a DMA command: MEM_COPY's destination, QCONVERT's destination and the scales that it writes (R166, R312). -/
def dmaDest (p : Pkt) : List (Nat × Nat) :=
  if pOp p = 0x0204 then [(fld p 24 8, fld p 32 8)]
  else
    (fld p 24 8, fld p 44 4 * rowBytes (fld p 40 4) (codeBits (fld p 49 1)))
      :: if (fld p 51 1).testBit 0 then [(fld p 32 8, scaleBytes (fld p 44 4) (fld p 40 4) (fld p 50 1))] else []

/-- Source ranges of a DMA command. -/
def dmaSrc (p : Pkt) : List (Nat × Nat) :=
  if pOp p = 0x0204 then (if (fld p 40 1).testBit 0 then [] else [(fld p 16 8, fld p 32 8)])
  else
    (fld p 16 8, fld p 44 4 * rowBytes (fld p 40 4) (codeBits (fld p 48 1)))
      :: if (fld p 51 1).testBit 0 then [] else [(fld p 32 8, scaleBytes (fld p 44 4) (fld p 40 4) (fld p 50 1))]

/-- Adds or removes the command pins of a transfer (R301). -/
def pinDma (p : Pkt) (up : Bool) (s : State) : State :=
  (dmaSrc p ++ dmaDest p).foldl (fun t (a, n) => if n = 0 then t else pinRange p.ctx a n up t) s

/-- Bytes of a MEM_COLD_IO. -/
def ioBytes (p : Pkt) : Nat := fld p 32 4 * Config.lbaBytes (fld p 16 1)

/-- Adds or removes the command pins of a MEM_COLD_IO (R301). -/
def pinIo (p : Pkt) (up : Bool) (s : State) : State := pinRange 0 (fld p 40 8) (ioBytes p) up s

/-- Takes the transfer off channel `c`: its lease and its pins end. -/
def dropDma (c : Nat) (s : State) : State :=
  match tget s.store.dma c with
  | none => s
  | some d => pinDma d.pkt false { s with store.dma := tdel s.store.dma c, sched.leases := tdel s.sched.leases d.lease }

/-- The ranges that a stopped transfer was writing hold undefined data. -/
def undefineDest (d : Dma) (s : State) : State := (dmaDest d.pkt).foldl (fun t (a, n) => undefine d.ctx a n t) s

/-- The transfer on channel `c` is stopped: its lease ends, its destination holds undefined data, and its command ends with
a code, where the context still exists (R115, R130). -/
def stopDma (c : Nat) (code : Code) (s : State) : State :=
  match tget s.store.dma c with
  | none => s
  | some d => complete d.pkt code 0 0 0 0 (undefineDest d (dropDma c s))

end Sys2Proof.Machine
end

