-- ==== Sys2Proof/Machine/Resets.lean ====
section
/-! DEFINITION. The two resets of the device: what a warm reset and a power-on reset keep (00 R10, R103, R167, R360, R397,
R405, R436, R466, R481); and what waits for the end of work: a DEV_RESET and a graceful CTX_CLOSE (R103, R134). -/

namespace Sys2Proof.Machine

/-- Fault channels after a warm reset: scores and counts return to 0, retirements stay (R405). -/
def keptChans (t : Tbl FaultCh) : Tbl FaultCh :=
  (tkeep t fun _ c => c.retired).map fun e => (e.1, { retired := true, last := e.2.last })

/-- Panels after a warm reset: the assignment of spares, the substitutions and the retirements stay, no gang exists (R167, R397). -/
def keptPanels (t : Tbl Panel) : Tbl Panel :=
  t.map fun e => (e.1, { e.2 with state := match e.2.state with | .inGang => .free | st => st, gang := 0, powered := false, scrub := false })

/-- DRAM channels after a warm reset: a retired channel stays retired (R307). -/
def keptChannels (t : Tbl DramCh) : Tbl DramCh := (tkeep t fun _ c => c.state == 2).map fun e => (e.1, { state := 2 })

/-- Camera ports after a reset: the frame number counts from power-on reset (R325). -/
def keptCams (t : Tbl Cam) : Tbl Cam := t.map fun e => (e.1, { frameNo := e.2.frameNo })

/-- What the NOR, the secure element and the boot state keep through any reset (R435–R443). -/
def keptBoot (b : Boot) (cause : Nat) : Boot :=
  { cause := cause, journal := b.journal, mirror := b.mirror, startNo := b.startNo, failed := b.failed,
    retry := b.retry, linkSel := b.linkSel, prefer := b.prefer, images := b.images, copies := b.copies, requireSe := b.requireSe,
    paired := b.paired, fwFloor := b.fwFloor, cfgFloor := b.cfgFloor, owner := b.owner }

/-- A warm reset with a cause of R436. Kept: working time and the tick count, the base of R360, the safety log with its
sequence, retirements and the spare assignment, the journal, the counts that run from power-on reset, the pins, what lies
outside the device. The link goes down (R481); everything else returns to its reset value. -/
def warmState (cause : Nat) (s : State) : State :=
  let c := if s.safe.safeState then 4 else cause
  { State.reset with
    pending := s.pending
    out := s.out
    freeCtr := s.freeCtr
    link := { perst0 := s.link.perst0, x4x4 := s.link.x4x4, downSince := if s.link.up then s.time.now else s.link.downSince }
    casc := { liftSeq := s.casc.liftSeq }
    reel := { index := s.reel.index, frameNo := s.reel.frameNo }
    sched := { gangs := [(0, {})], panels := keptPanels s.sched.panels }
    models := { exports := s.models.exports, imported := s.models.imported }
    store := { host := s.store.host, channels := keptChannels s.store.channels, extentWrites := s.store.extentWrites }
    cams := { ports := keptCams s.cams.ports, pin := s.cams.pin, gate := s.cams.gate }
    audio := { pin := s.audio.pin, gate := s.audio.gate }
    time := { now := s.time.now, ticks := s.time.ticks, phase := s.time.phase, base := s.time.base, sel := if s.time.sel = 3 then 3 else 2 }
    safe := { chans := keptChans s.safe.chans, log := s.safe.log, seq := s.safe.seq }
    power := { moves := s.power.moves, wakeTime := s.power.wakeTime, wakeSrc := s.power.wakeSrc, wakeAux := s.power.wakeAux,
               wakeFrom := s.power.wakeFrom, gpio := s.power.gpio, trippedEver := s.power.trippedEver }
    boot := keptBoot s.boot c
    pins := { sysreset := s.pins.sysreset } }

/-- A power-on reset: everything returns to its reset value but the pins that others drive and what lies outside the device:
host memory, the NOR, the secure element, the counts that are never reused (R274, R305). -/
def powerState (s : State) : State :=
  { State.reset with
    pending := s.pending
    out := s.out
    freeCtr := s.freeCtr
    link := { perst0 := s.link.perst0 }
    models := { exports := s.models.exports }
    store := { host := s.store.host, extentWrites := s.store.extentWrites }
    cams := { pin := s.cams.pin, gate := s.cams.gate }
    audio := { pin := s.audio.pin, gate := s.audio.gate }
    power := { gpio := s.power.gpio }
    boot := { keptBoot s.boot 0 with journal := [], linkSel := none }
    pins := { sysreset := s.pins.sysreset } }

/-- Every packet in flight in every context ends with E_TORN_DOWN (R103 step 4). -/
def endAllFlights (s : State) : State :=
  s.cmd.flights.foldl (fun t f => complete f.pkt .eTornDown 0 0 0 0 t) s

/-- DEV_RESET steps 4 and 5 (R103): packets in flight end, sessions close, the device resets. -/
def finishReset (s : State) : State :=
  let s1 := (tkeys s.stolp.sessions).foldl (fun t id => flushBatch id t) (endAllFlights s)
  warmState 2 { s1 with stolp.sessions := [] }

/-- Running work that a graceful DEV_RESET waits for (R103): legs and runs, DMA transfers, moves and cold-tier requests, a channel's
retirement, a copy of the Reel, sends to the network and to the fleet. -/
def workRuns (s : State) : Bool :=
  s.sched.gangs.any (fun e => e.2.cur.isSome) || !s.store.dma.isEmpty || !s.sched.runs.isEmpty
    || s.store.moves.any (fun m => m.running) || !s.store.cold.isEmpty || s.store.retiring.isSome || s.reel.copy.isSome
    || s.net.eths.any (fun e => !e.2.sending.isEmpty || !e.2.resolving.isEmpty) || !s.net.gwOut.isEmpty

/-- Whether a leg executes on any gang. -/
def legActive (s : State) : Bool :=
  s.sched.gangs.any fun e => match e.2.cur with | some c => c.phase == .executing | none => false

/-- A DEV_RESET in progress goes on once its work has ended, or, with kind 1, at the next leg boundary (R103). -/
def resetCheck (s : State) : State :=
  match s.cmd.devReset with
  | some (immediate, _) =>
    if immediate then (if legActive s then s else finishReset s) else (if workRuns s then s else finishReset s)
  | none => s

/-! ### A graceful CTX_CLOSE (R134) -/

/-- Whether a leg of context `h` runs now. -/
def legRuns (s : State) (h : Nat) : Bool :=
  s.sched.gangs.any fun e => match e.2.cur with
    | some c => (c.phase == .executing || c.attempt != 0) && ((runOf s c.run).map fun r => r.ctx == h).getD false
    | none => false

/-- The Ripcord of a Closing context with a cause (R132, R134). -/
def closeWith (cause h : Nat) (s : State) : State :=
  closeIfDone h (ripcordTo .closing h cause (modCtx h (fun c => { c with closing := c.closing.map fun k => { k with graceEnd := none } }) s))

/-- The Ripcord of a Closing context with cause 0x06 (R134). -/
def closeRipcord (h : Nat) (s : State) : State := closeWith 6 h s

/-- A context that closes gracefully is torn down as soon as none of its legs runs (R134). -/
def gracefulCheck (h : Nat) (s : State) : State :=
  match (ctxOf s h).closing with
  | some k => if (ctxOf s h).state = .closing ∧ k.graceEnd.isSome ∧ !legRuns s h then closeRipcord h s else s
  | none => s

/-- Work has ended, or may have: every graceful CTX_CLOSE whose last leg it was goes on (R134), and a DEV_RESET that waits for it
(R103). -/
def workEnded (s : State) : State := resetCheck ((tkeys s.ctxs).foldl (fun t h => gracefulCheck h t) s)

end Sys2Proof.Machine
end

