-- ==== Sys2Proof/Machine/Contexts.lean ====
section
/-! DEFINITION. The context and gang commands (05, R108–R139) and the events of contexts and leases. -/

namespace Sys2Proof.Machine

/-- A check list entry: the handle of another context than the issuer's, from a tenant. -/
def ownOnly (p : Pkt) (h off : Nat) : Bool × Code × Nat := (p.ctx != 0 && p.ctx != h, .eDenied, off)

/-- A context that is Torn down or Closing (R139). -/
def downChk (s : State) (h off : Nat) : Bool × Code × Nat := (ctxDown s h, .eState, off)

/-! ### The quota record (R116) -/

/-- The quota that a record holds. -/
def quotaOf (b : List Byte) : Quota :=
  { memory := num b 0 8, stateStore := num b 8 4, pages := num b 12 4, idleStreams := num b 16 4, activeStreams := num b 20 2
    panels := num b 22 1, gangs := num b 23 1, dma := num b 24 1, ceiling := num b 25 1
    shared := (num b 26 1).testBit 0, kite := (num b 26 1).testBit 1, weight := num b 27 1, cap := num b 28 1
    legBudget := num b 32 4, plans := num b 36 4 }

/-- Reserved bytes and bits of the quota record (R116, R484). -/
def quotaRsv (b : List Byte) : Bool := 4 ≤ num b 26 1 || num b 29 3 != 0 || num b 40 24 != 0

/-- A field of the quota record out of its range (R116). -/
def quotaRange (s : State) (b : List Byte) : Bool :=
  let q := quotaOf b
  q.memory % 65536 != 0 || usableDram s < q.memory || q.stateStore % 4096 != 0 || 24903680 < q.stateStore
    || 1048576 < q.pages || 65536 < q.idleStreams || 2048 < q.activeStreams || 32 < q.panels || 16 < q.gangs
    || q.dma == 0 || 31 < q.dma || 3 < q.ceiling || q.weight == 0 || q.cap == 0 || 100 < q.cap
    || q.legBudget == 0 || 50000 < q.legBudget || q.plans == 0 || 256 < q.plans

/-- Checks of a quota record at address `a` of the management context, in the place of the packet parameter at `off`. -/
def quotaChk (s : State) (a off : Nat) : List (Bool × Code × Nat) :=
  let b := vread s 0 a 64
  addrChk s 0 a 64 1 off ++ ([(quotaRsv b, .eReserved, off), (quotaRange s b, .eRange, off)] : List (Bool × Code × Nat))

/-! ### CTX_OPEN (R110) -/

/-- Checks of CTX_OPEN. -/
def chkCtxOpen (p : Pkt) (s : State) : Option Fail :=
  let h := fld p 16 2
  let a := fld p 48 8
  let q := quotaOf (vread s 0 a 64)
  orFail (firstFails [[
    (h = 0 || 512 < h, .eRange, 16),
    (fld p 24 8 % 4096 != 0, .eAlign, 24),
    (fld p 32 8 % 4096 != 0, .eAlign, 32),
    (fld p 40 1 < 7 || 15 < fld p 40 1, .eRange, 40),
    (fld p 41 1 < 8 || 16 < fld p 41 1, .eRange, 41),
    (3 < fld p 42 1, .eRange, 42),
    (3 < fld p 43 1, .eRange, 43)], quotaChk s a 48, [
    (s.ctxs.any fun e => e.1 != 0 && e.1 != h && e.2.state != .closed && e.2.pasid == fld p 20 4, .eCombination, 20)], permChk s 0 a 64 false 48, [
    (fld p 42 1 < q.ceiling, .eDenied, 42),
    (fld p 43 1 < q.ceiling, .eDenied, 43),
    ((ctxOf s h).state != .closed, .eState, 16),
    (!s.link.pasid, .eState, 20),
    (!tablesFit s h [], .eNomem, 0xFFFF)]])
    (wordFail s 0 a 64 48)

/-- CTX_OPEN: both rings start with counts 0, memory is empty, the measurement register is 0 (R83, R110, R119). DB_REJECT of the
tenant's page counts anew (DESIGN CHOICE, log 50). -/
def actCtxOpen (p : Pkt) (s : State) : State :=
  let s := readWords 0 (fld p 48 8) 64 s
  let h := fld p 16 2
  let c : Ctx :=
    { state := .opened, pasid := fld p 20 4, quota := quotaOf (vread s 0 (fld p 48 8) 64), netLevel := fld p 43 1
      queues := [(0, { level := fld p 42 1, base := fld p 32 8, log2 := fld p 41 1 })]
      ring := { base := fld p 24 8, log2 := fld p 40 1 }
      coldKey := some ((Config.fresh s.freeCtr).toNat % 2 ^ 128) }
  completeOk p h 0 0 { s with ctxs := tput s.ctxs h c, freeCtr := s.freeCtr + 1 }

/-- CTX_OPEN (R110). -/
def execCtxOpen (p : Pkt) (s : State) : Res := runHost p s (rangeHost s 0 (fld p 48 8) 64) (chkCtxOpen p s) (actCtxOpen p)

/-! ### CTX_CLOSE (R134) -/

/-- Checks of CTX_CLOSE. -/
def chkCtxClose (p : Pkt) (s : State) : Option Fail :=
  let h := fld p 16 2
  firstFails [tenantChk s h 16, [
    (1 < fld p 18 1, .eRange, 18),
    (10000 < fld p 20 4, .eRange, 20),
    ((ctxOf s h).state == .closing, .eState, 16)]]

/-- CTX_CLOSE: the context is Closing from now on; it is torn down at once, or when its legs have reached their boundaries,
or when the graceful limit ends. A torn-down context starts the closing step (R134). -/
def actCtxClose (p : Pkt) (s : State) : State :=
  let h := fld p 16 2
  let limit := if fld p 20 4 = 0 then 1000 else fld p 20 4
  let down := (ctxOf s h).state == .tornDown
  let k : Closing := { pkt := p, graceEnd := if down || fld p 18 1 = 1 then none else some (s.time.now + limit * 1000000) }
  let s1 := modCtx h (fun c =>
    { c with state := .closing, wasSealed := c.wasSealed || c.state == .sealed, closing := some k }) (handOn p s)
  if down then closeIfDone h s1
  else if fld p 18 1 = 1 then workEnded (closeRipcord h s1)
  else workEnded s1

/-- CTX_CLOSE (R134). -/
def execCtxClose (p : Pkt) (s : State) : Res := runCmd p s (chkCtxClose p s) (actCtxClose p)

/-- CTX_CLOSE_GRACE_END: the graceful limit of a CTX_CLOSE ends (R134). -/
def execCtxCloseGraceEnd (ctx : Nat) (s : State) : Res :=
  if 512 < ctx then .fault .noSuchUnit
  else
    match (ctxOf s ctx).closing with
    | some k =>
      match k.graceEnd with
      | some t => .next (workEnded (closeRipcord ctx (elapseTo t s)))
      | none => .next s
    | none => .next s

/-! ### Queries and settings -/

/-- Mask of a context's created queues (R61, R136). -/
def queueMask (c : Ctx) : Nat := maskOf (tkeys c.queues)

/-- Checks of CTX_QUERY. -/
def chkCtxQuery (p : Pkt) (s : State) : Option Fail :=
  firstFails [tenantChk s (fld p 16 2) 16, [ownOnly p (fld p 16 2) 16]]

/-- CTX_QUERY (R136). -/
def actCtxQuery (p : Pkt) (s : State) : State :=
  let h := fld p 16 2
  let c := ctxOf s h
  completeOk p (ctxStateCode c.state + 8 * queueMask c + 2048 * (c.cause % 256)) c.pages.length
    (sat 16 (inFlight s h).length + 65536 * c.preempted.toNat) s

/-- CTX_QUERY (R136). -/
def execCtxQuery (p : Pkt) (s : State) : Res := runCmd p s (chkCtxQuery p s) (actCtxQuery p)

/-- Checks of CTX_SET_QUOTA. -/
def chkCtxSetQuota (p : Pkt) (s : State) : Option Fail :=
  let h := fld p 16 2
  let a := fld p 24 8
  orFail (firstFails [tenantChk s h 16, quotaChk s a 24, permChk s 0 a 64 false 24, [downChk s h 16]])
    (wordFail s 0 a 64 24)

/-- CTX_SET_QUOTA replaces the whole record (R117). -/
def actCtxSetQuota (p : Pkt) (s : State) : State :=
  let s := readWords 0 (fld p 24 8) 64 s
  completeOk p 0 0 0 (modCtx (fld p 16 2) (fun c => { c with quota := quotaOf (vread s 0 (fld p 24 8) 64) }) s)

/-- CTX_SET_QUOTA (R117). -/
def execCtxSetQuota (p : Pkt) (s : State) : Res :=
  runHost p s (rangeHost s 0 (fld p 24 8) 64) (chkCtxSetQuota p s) (actCtxSetQuota p)

/-- Checks of CTX_SEAL: only the context itself (R118). -/
def chkCtxSeal (p : Pkt) (s : State) : Option Fail :=
  let h := fld p 16 2
  firstFails [tenantChk s h 16, [
    (p.ctx != h, .eDenied, 16),
    ((ctxOf s h).state != .opened, .eState, 16)]]

/-- Whether a command of the management context on an object of context `h` is in progress: MEM_PLACE or MEM_FREE (R118). -/
def mgmtTouches (s : State) (h : Nat) : Bool :=
  s.store.moves.any fun m => ((tget s.store.objs m.obj).map MemObj.ctx).getD 0 == h && (m.pkts ++ m.freeing.toList).any fun p => p.ctx == 0

/-- CTX_SEAL: the measurement is extended with the nonce, and the context is Sealed for the rest of its life (R118, R119,
R137). The count reported includes this extension (DEDUCED, log 15). While a command of the management context touches the context's memory, the
seal waits, and the command's row comes again. -/
def actCtxSeal (p : Pkt) (s : State) : State :=
  let h := fld p 16 2
  let s1 := modCtx h (fun c => { c with state := .sealed }) (extend h 5 (slice p.bytes 32 32) s)
  if mgmtTouches s h then s else completeOk p (sat 32 (ctxOf s1 h).extensions) 0 0 s1

/-- CTX_SEAL (R118). -/
def execCtxSeal (p : Pkt) (s : State) : Res := runCmd p s (chkCtxSeal p s) (actCtxSeal p)

/-- Checks of CTX_QUEUE_CREATE. -/
def chkCtxQueueCreate (p : Pkt) (s : State) : Option Fail :=
  let h := fld p 16 2
  let q := fld p 18 1
  firstFails [tenantChk s h 16, [
    (q = 0 || 7 < q, .eRange, 18),
    (3 < fld p 19 1, .eRange, 19),
    (fld p 20 1 < 8 || 16 < fld p 20 1, .eRange, 20),
    (fld p 24 8 % 4096 != 0, .eAlign, 24),
    ownOnly p h 16,
    (fld p 19 1 < (ctxOf s h).quota.ceiling, .eDenied, 19),
    downChk s h 16,
    (thas (ctxOf s h).queues q, .eState, 18)]]

/-- CTX_QUEUE_CREATE: the queue exists, its counts are 0 (R83, R122). -/
def actCtxQueueCreate (p : Pkt) (s : State) : State :=
  completeOk p 0 0 0 (modCtx (fld p 16 2) (fun c =>
    { c with queues := tput c.queues (fld p 18 1) { level := fld p 19 1, base := fld p 24 8, log2 := fld p 20 1 } }) s)

/-- CTX_QUEUE_CREATE (R122). -/
def execCtxQueueCreate (p : Pkt) (s : State) : Res := runCmd p s (chkCtxQueueCreate p s) (actCtxQueueCreate p)

/-- Checks of CTX_QUEUE_DESTROY. -/
def chkCtxQueueDestroy (p : Pkt) (s : State) : Option Fail :=
  let h := fld p 16 2
  let q := fld p 18 1
  firstFails [tenantChk s h 16, [
    (7 < q, .eRange, 18),
    ownOnly p h 16,
    downChk s h 16,
    (q = 0 || !thas (ctxOf s h).queues q || (p.ctx == h && p.queue == q), .eState, 18),
    ((inFlight s h).any fun f => f.pkt.queue == q, .eBusy, 18)]]

/-- CTX_QUEUE_DESTROY: units before the tail that were not fetched are dropped without replies (R122). -/
def actCtxQueueDestroy (p : Pkt) (s : State) : State :=
  let h := fld p 16 2
  let q := tgetD (ctxOf s h).queues (fld p 18 1)
  completeOk p (q.tail - q.fetched).toNat 0 0 (modCtx h (fun c => { c with queues := tdel c.queues (fld p 18 1) }) s)

/-- CTX_QUEUE_DESTROY (R122). -/
def execCtxQueueDestroy (p : Pkt) (s : State) : Res := runCmd p s (chkCtxQueueDestroy p s) (actCtxQueueDestroy p)

/-! ### Gangs (R123, R124) -/

/-- Free in-service panels of a quadrant, lowest first. -/
def freeIn (s : State) (q : Nat) : List Nat := (List.range 34).filter fun n => quadrant n == q && (panelOf s n).state == .free

/-- The quadrant among `qs` that comes first by `lt` on the count of free panels, the lowest-numbered among equals. -/
def bestQuadrant (s : State) (lt : Nat → Nat → Bool) (qs : List Nat) : Option Nat :=
  qs.foldl (fun b q => match b with
    | none => some q
    | some x => if lt (freeIn s q).length (freeIn s x).length then some q else some x) none

/-- Takes panels from the fullest quadrants first (R124, second rule). -/
def takeQuadrants (s : State) : Nat → List Nat → Nat → List Nat
  | 0, _, _ => []
  | f + 1, qs, n =>
    if n = 0 then []
    else match bestQuadrant s (fun a b => b < a) qs with
      | none => []
      | some q =>
        let t := (freeIn s q).take n
        t ++ takeQuadrants s f (qs.filter (· != q)) (n - t.length)

/-- The panels that GANG_CREATE takes (R124). -/
def choosePanels (s : State) (n : Nat) : List Nat :=
  let enough := (List.range 4).filter fun q => n ≤ (freeIn s q).length
  match (if n ≤ 8 then bestQuadrant s (fun a b => a < b) enough else none) with
  | some q => (freeIn s q).take n
  | none => takeQuadrants s 4 (List.range 4) n

/-- Exclusive and reserved gangs that a context owns (R116). -/
def ownedGangs (s : State) (h : Nat) : List (Nat × Gang) := s.sched.gangs.filter fun e => e.1 != 0 && e.2.kind != 0 && e.2.owner == h

/-- Checks of GANG_CREATE. -/
def chkGangCreate (p : Pkt) (s : State) : Option Fail :=
  let g := fld p 16 1
  let n := fld p 17 1
  let kind := fld p 18 1
  let o := fld p 20 2
  let q := (ctxOf s o).quota
  firstFail [
    (g = 0 || 16 < g, .eRange, 16),
    (!([1, 2, 4, 8, 16, 32].contains n), .eRange, 17),
    (2 < kind, .eRange, 18),
    (512 < o, .eRange, 20),
    (o != 0 && !ctxLive s o, .eHandle, 20),
    ((kind == 0) != (o == 0), .eCombination, 20),
    ((gangOf s g).isSome, .eState, 16),
    ((panelsIn s (· == .free)).length < n, .eBusy, 17),
    (o != 0 && (q.gangs ≤ (ownedGangs s o).length
      || q.panels < ((ownedGangs s o).map fun e => e.2.size).foldl (· + ·) 0 + n), .eQuota, 20)]

/-- GANG_CREATE: the panels chosen by R124 join the gang, in gang order (R176); an owned gang is a lease (R129). Each panel's
self-test pass has run when it was powered (R398; that it passed is assumed, log 25). -/
def actGangCreate (p : Pkt) (s : State) : State :=
  let g := fld p 16 1
  let ps := sortBy (fun a b => placeOf s a ≤ placeOf s b) (choosePanels s (fld p 17 1))
  let x : Gang := { kind := fld p 18 1, owner := fld p 20 2, size := fld p 17 1, panels := ps, made := s.sched.gangSeq + 1 }
  let s1 := { s with sched.gangs := tput s.sched.gangs g x, sched.gangSeq := s.sched.gangSeq + 1 }
  let s2 := ps.foldl (fun t n =>
    modPanel n (fun q => { q with state := .inGang, gang := g }) (modTest (chKey 1 n) (fun x => { x with last := t.time.now }) t)) s1
  let s3 := if fld p 20 2 = 0 then s2 else takeLease 2 (fld p 20 2) g 0 s2
  completeOk p (maskOf ps % 2 ^ 32) (maskOf ps / 2 ^ 32) 0 s3

/-- GANG_CREATE (R124). -/
def execGangCreate (p : Pkt) (s : State) : Res := runCmd p s (chkGangCreate p s) (actGangCreate p)

/-- Checks of GANG_DESTROY. -/
def chkGangDestroy (p : Pkt) (s : State) : Option Fail :=
  let g := fld p 16 1
  firstFail [
    (g = 0 || 16 < g, .eRange, 16),
    ((gangOf s g).isNone, .eHandle, 16),
    (s.sched.runs.any fun e => e.2.gang == g, .eBusy, 16)]

/-- GANG_DESTROY: the handle and the panels are free (R124). -/
def actGangDestroy (p : Pkt) (s : State) : State := completeOk p 0 0 0 (removeGang (fld p 16 1) s)

/-- GANG_DESTROY (R124). -/
def execGangDestroy (p : Pkt) (s : State) : Res := runCmd p s (chkGangDestroy p s) (actGangDestroy p)

/-- Checks of GANG_QUERY. -/
def chkGangQuery (p : Pkt) (s : State) : Option Fail :=
  firstFail [(16 < fld p 16 1, .eRange, 16), ((gangOf s (fld p 16 1)).isNone, .eHandle, 16)]

/-- GANG_QUERY (R136): for gang 0 only the arrays in service. -/
def actGangQuery (p : Pkt) (s : State) : State :=
  let g := fld p 16 1
  let x := tgetD s.sched.gangs g
  if g = 0 then completeOk p (gangSize s 0) 0 0 s
  else
    let m := maskOf x.panels
    completeOk p (x.panels.length + 64 * x.kind + 256 * x.owner) (m % 2 ^ 32) (m / 2 ^ 32) s

/-- GANG_QUERY (R136). -/
def execGangQuery (p : Pkt) (s : State) : Res := runCmd p s (chkGangQuery p s) (actGangQuery p)

/-! ### Leases and translation -/

/-- The 32 bytes of a lease record (R138). -/
def leaseBytes (l : Lease) : List Byte :=
  toLE 1 l.kind ++ toLE 1 (b2n l.revoking) ++ toLE 2 l.owner ++ toLE 4 l.resource ++ toLE 8 l.acquired ++ toLE 8 l.limit ++ toLE 8 0

/-- Leases of a context, oldest first (R138). -/
def leasesOf (s : State) (h : Nat) : List Lease := (s.sched.leases.filter fun e => e.2.owner == h).map Prod.snd

/-- Checks of CTX_LEASES. -/
def chkCtxLeases (p : Pkt) (s : State) : Option Fail :=
  let h := fld p 16 2
  let n := fld p 18 2
  firstFails [tenantChk s h 16, [(n = 0 || 256 < n, .eRange, 18)], addrChk s p.ctx (fld p 24 8) (32 * n) 64 24, [ownOnly p h 16],
    permChk s p.ctx (fld p 24 8) (32 * n) true 24]

/-- CTX_LEASES (R138). -/
def actCtxLeases (p : Pkt) (s : State) : State :=
  let ls := leasesOf s (fld p 16 2)
  let w := ls.take (fld p 18 2)
  completeOk p w.length ls.length 0 (vwrite p.ctx (fld p 24 8) (w.map leaseBytes).flatten s)

/-- CTX_LEASES (R138). -/
def execCtxLeases (p : Pkt) (s : State) : Res := runHost p s false (chkCtxLeases p s) (actCtxLeases p)

/-- Checks of CTX_XLATE. -/
def chkCtxXlate (p : Pkt) (s : State) : Option Fail :=
  let h := fld p 16 2
  firstFails [tenantChk s h 16, [
    (2 ^ 48 ≤ fld p 24 8, .eRange, 24),
    ownOnly p h 16,
    (p.ctx == 0 && (ctxOf s h).state == .sealed, .eDenied, 16),
    downChk s h 16]]

/-- The 64 bits of a valid leaf (R113). -/
def leafBits (l : Leaf) : Nat := 1 + 2 * b2n l.read + 4 * b2n l.write + 8 * b2n l.host + 65536 * l.frame

/-- The level 1 or level 2 entry of context `h` for index `i`, counted over all tables of its level (R112): it points to a table while some
page of its span is mapped; an invalid entry reads 0 (R113, DEDUCED, log 14). -/
def tableEntry (s : State) (h level i : Nat) : Nat :=
  let span := if level = 1 then 2 ^ 22 else 2 ^ 11
  if (tkeys (ctxOf s h).pages).any fun p => p / span == i then 1 + 2 ^ 14 * (Config.tableAt h level i).toNat else 0

/-- The leaf entry of context `h` for a virtual page (R113). -/
def leafEntry (s : State) (h page : Nat) : Nat := match tget (ctxOf s h).pages page with | some l => leafBits l | none => 0

/-- The walk of a virtual address: the level at which it stops, 0 for a valid leaf, and the last entry read (R111–R113, R136). -/
def walk (s : State) (h va : Nat) : Nat × Nat :=
  let e1 := tableEntry s h 1 (va / 2 ^ 38)
  let e2 := tableEntry s h 2 (va / 2 ^ 27)
  let e3 := leafEntry s h (va / 2 ^ 16)
  if e1 % 2 = 0 then (1, e1) else if e2 % 2 = 0 then (2, e2) else if e3 % 2 = 0 then (3, e3) else (0, e3)

/-- CTX_XLATE (R136). -/
def actCtxXlate (p : Pkt) (s : State) : State :=
  let (lvl, e) := walk s (fld p 16 2) (fld p 24 8)
  completeOk p (e % 2 ^ 32) (e / 2 ^ 32) lvl s

/-- CTX_XLATE (R136). -/
def execCtxXlate (p : Pkt) (s : State) : Res := runCmd p s (chkCtxXlate p s) (actCtxXlate p)

/-! ### Events -/

/-- Whether a DMA transfer touches host memory (R482). -/
def dmaHost (s : State) (d : Dma) : Bool := (dmaSrc d.pkt ++ dmaDest d.pkt).any fun x => rangeHost s d.ctx x.1 x.2

/-- The virtual ranges that a leg reads from memory: not those that Kite's cascade partition holds (R200). -/
def memReads (s : State) (r : Run) (p : Plan) (leg : List Byte) : List (Nat × Nat) :=
  ((legUses stageReads p leg).filter fun u => (partObj s r u.1.1).isNone).filterMap (useRange r p)

/-- Whether the leg of a run reads or writes a HOST page, its action word among them. -/
def legHost (s : State) (r : Run) : Bool :=
  let p := runPlan s r
  let leg := legOf p r.counter
  (memReads s r p leg ++ legRanges stageWrites r p leg ++ actionRange s r leg).any fun x => rangeHost s r.ctx x.1 x.2

/-- Whether the leg of a run waits at a held host-memory request (R482). -/
def legWaits (s : State) (r : Run) : Bool := held s && legHost s r

/-- The run whose leg holds the page lock on page `pg`. -/
def lockRun (s : State) (pg : Nat) : Option Nat :=
  (s.sched.gangs.findSome? fun e => e.2.cur.filter fun c => c.locks.contains pg).map Cur.run

/-- Whether a lease belongs to a transfer or a leg on host memory. -/
def leaseHost (s : State) (l : Lease) : Bool :=
  (l.kind == 1 && (match tget s.store.dma l.resource with | some d => dmaHost s d | none => false))
    || (l.kind == 3 && ((((lockRun s l.resource).bind (runOf s)).map (legHost s)).getD false))

/-- Whether what holds a lease waits at a held host-memory request: that time does not count against its limit (R482). -/
def leaseWaits (s : State) (l : Lease) : Bool := held s && leaseHost s l

/-- LEASE_LIMIT_EXPIRY: a lease still held at its limit is revoked and its owner torn down with cause 0x03; a management transfer, or the
management run that holds a page lock, ends with E_TIMEOUT, logged as a watchdog too late (R130). A revoked page lock is released, and its
page keeps what was written. A Ripcord that only counts, since its context closes already, revokes the lease all the same: its transfer is
stopped (R130, R133). While the safety role is being taken over a limit is enforced late, after it (R400). Time held by a hold of host
memory does not count (R482). -/
def execLeaseLimitExpiry (lease : Nat) (s : State) : Res :=
  match tget s.sched.leases lease with
  | none => .next s
  | some l =>
    if l.limit = 0 ∨ leaseWaits s l ∨ s.safe.takeover = some true then .next s
    else
      let s1 := elapseTo l.limit s
      if l.owner = 0 then
        let s2 := match l.kind, lockRun s l.resource with
          | 1, _ => stopDma l.resource .eTimeout s1
          | 3, some k => finishRun k .eTimeout false s1
          | _, _ => s1
        .next (workEnded (logEvent 0x07 0 0 0 0 (deviceScore s2) 0 0 { s2 with sched.leases := tdel s2.sched.leases lease }))
      else
        let s2 := if l.kind = 1 ∧ !ctxLive s1 l.owner then stopDma l.resource .eTornDown s1 else s1
        .next (workEnded (ripcord l.owner 3 { s2 with sched.leases := tdel s2.sched.leases lease }))

/-- RIPCORD_SCRUB_COMPLETE: the scrub of the first context in the queue ends: its frames are free, and a Closing context
becomes Closed (R132, R134, R135). -/
def execRipcordScrubComplete (ctx : Nat) (s : State) : Res :=
  if 512 < ctx then .fault .noSuchUnit
  else
    match s.store.scrubs.head? with
    | some (h, side) => if h = ctx then .next (closeIfDone h (scrubCtx h side s)) else .next s
    | none => .next s

/-- The memory that a command of the management context was writing while its work ran: the buffer of MEM_COLD_IO from the drive, the
destination of CASC_READ_REEL (R115). -/
def commandDest (p : Pkt) : List (Nat × Nat) :=
  if pOp p = 0x020A ∧ fld p 17 1 = 0 then [(fld p 40 8, ioBytes p)]
  else if pOp p = 0x0A07 then [(fld p 16 8, 1296 * fld p 32 4)] else []

/-- The waiting command `p` ends with a code, E_TRANSIENT where an access fails (R115), and leaves the unit that served it. -/
def stopCommand (p : Pkt) (s : State) (code : Code := .eTransient) : State :=
  let io := s.store.cold.any fun c => c.pkt == some p
  let s1 := { s with store.cold := s.store.cold.filter fun c => c.pkt != some p }
  let s2 := if io then pinIo p false s1 else s1
  unlist p (complete p code 0 0 0 0 ((commandDest p).foldl (fun t (a, n) => undefine 0 a n t) s2))

/-- LEG_ACCESS_FAULT: an access of running work finds no translation or permission: it is not completed, and the context is
torn down with cause 0x01, which only counts where it closes already (R133); for the management context its run or command ends with
E_TRANSIENT, and the memory that the command was writing holds undefined data (R115). -/
def execLegAccessFault (ctx : Nat) (gang : Option Nat) (channel : Option Nat) (s : State) (command : Option Nat := none) : Res :=
  if 512 < ctx ∨ 16 < gang.getD 0 ∨ 31 < channel.getD 0 then .fault .noSuchUnit
  else if ctx ≠ 0 then .next (workEnded (ripcord ctx 1 s))
  else
    let run := gang.bind fun g => (gangOf s g).bind fun x => x.cur.bind fun c =>
      if ((runOf s c.run).map fun r => r.ctx == 0).getD false then some c.run else none
    match run, channel with
    | some k, _ => .next (workEnded (finishRun k .eTransient false s))
    | none, some c =>
      match tget s.store.dma c with
      | some d => if d.ctx = 0 then .next (workEnded (stopDma c .eTransient s)) else .next s
      | none => .next s
    | none, none =>
      match command.bind fun t => (inFlight s 0).find? fun f => pTag f.pkt == t with
      | some f => .next (workEnded (stopCommand f.pkt s))
      | none => .next s

end Sys2Proof.Machine
end

