-- ==== Sys2Proof/Machine/Arith.lean ====
section
/-! DEFINITION. Number formats (06, R140–R158): exact values, rounding, scales, encoding and decoding, and the conversion of a
block. -/

namespace Sys2Proof.Machine

/-! ### Values -/

/-- What a code or a binary word spells: a finite value is ±m × 2^e. -/
inductive Val where
  | nan (neg : Bool)
  | inf (neg : Bool)
  | fin (neg : Bool) (m : Nat) (e : Int)
  deriving DecidableEq, Repr, Inhabited

/-- Neither infinite nor NaN. -/
def Val.finite : Val → Bool
  | .fin _ _ _ => true
  | _ => false

/-- Sign of a value. -/
def Val.sign : Val → Bool
  | .nan n => n
  | .inf n => n
  | .fin n _ _ => n

/-- The value without its sign. -/
def Val.abs : Val → Val
  | .nan _ => .nan false
  | .inf _ => .inf false
  | .fin _ m e => .fin false m e

/-- The value with the other sign. -/
def Val.neg : Val → Val
  | .nan n => .nan (!n)
  | .inf n => .inf (!n)
  | .fin n m e => .fin (!n) m e

/-- Signed integer and exponent of a sum of two finite values, exactly. -/
def sumExact (n1 : Bool) (m1 : Nat) (e1 : Int) (n2 : Bool) (m2 : Nat) (e2 : Int) : Int × Int :=
  let e := min e1 e2
  let a : Int := (m1 * 2 ^ (e1 - e).toNat : Nat)
  let b : Int := (m2 * 2 ^ (e2 - e).toNat : Nat)
  ((if n1 then -a else a) + (if n2 then -b else b), e)

/-- Exact sum (R157): opposite infinities give NaN; a zero sum is negative only from two negative zeros (IEEE 754, RNE). -/
def Val.add : Val → Val → Val
  | .nan n, _ => .nan n
  | _, .nan n => .nan n
  | .inf a, .inf b => if a = b then .inf a else .nan false
  | .inf a, .fin _ _ _ => .inf a
  | .fin _ _ _, .inf b => .inf b
  | .fin n1 m1 e1, .fin n2 m2 e2 =>
    let (k, e) := sumExact n1 m1 e1 n2 m2 e2
    if k = 0 then .fin (n1 && n2) 0 e else .fin (k < 0) k.natAbs e

/-- Exact product. -/
def Val.mul : Val → Val → Val
  | .nan n, _ => .nan n
  | _, .nan n => .nan n
  | .inf a, .inf b => .inf (a != b)
  | .inf a, .fin b m _ => if m = 0 then .nan false else .inf (a != b)
  | .fin a m _, .inf b => if m = 0 then .nan false else .inf (a != b)
  | .fin a m1 e1, .fin b m2 e2 => .fin (a != b) (m1 * m2) (e1 + e2)

/-! ### Binary formats -/

/-- A binary interchange format: precision, exponent of the least subnormal, largest biased exponent. -/
structure Bin where
  p : Nat
  lo : Int
  top : Nat
  deriving DecidableEq, Repr

/-- IEEE 754 binary32. -/
def fp32 : Bin := ⟨24, -149, 255⟩
/-- BF16 (R141). -/
def bf16 : Bin := ⟨8, -133, 255⟩
/-- IEEE 754 binary64, for the sums of statistics (R160). -/
def fp64 : Bin := ⟨53, -1074, 2047⟩

/-- Rounding modes: to nearest with ties to even, to nearest with ties away from zero (R144), or stochastic with 16 random bits
(R156). -/
inductive Rnd where
  | even | away | stoch (u : Nat)
  deriving DecidableEq, Repr

/-- Whether a magnitude `n` units with remainder `rem` of `2^d` rounds up. -/
def roundsUp (r : Rnd) (n rem d : Nat) : Bool :=
  match r with
  | .even => 2 ^ d < 2 * rem || (2 * rem == 2 ^ d && n % 2 == 1)
  | .away => 2 ^ d ≤ 2 * rem
  | .stoch u => decide (u < 65536 * rem / 2 ^ d)

/-- Magnitude bits (no sign) of `m × 2^e` rounded into a binary format; overflow gives infinity. -/
def roundMag (f : Bin) (r : Rnd) (m : Nat) (e : Int) : Nat :=
  if m = 0 then 0
  else
    let q := max ((Nat.log2 m : Int) + e - (f.p - 1 : Nat)) f.lo
    let n :=
      if q ≤ e then m * 2 ^ (e - q).toNat
      else
        let d := (q - e).toNat
        m / 2 ^ d + b2n (roundsUp r (m / 2 ^ d) (m % 2 ^ d) d)
    min ((q - f.lo).toNat * 2 ^ (f.p - 1) + n) (f.top * 2 ^ (f.p - 1))

/-- Place of a format's sign bit. -/
def Bin.signBit (f : Bin) : Nat := 2 ^ (f.p - 1) * (f.top + 1)

/-- Bits of a value rounded into a binary format. A NaN keeps its sign; its fraction is open (`payload`). -/
def toBin (f : Bin) (r : Rnd) (payload : Nat) (v : Val) : Nat :=
  let s := b2n v.sign * f.signBit
  match v with
  | .nan _ => s + f.top * 2 ^ (f.p - 1) + 1 + payload % (2 ^ (f.p - 1) - 1)
  | .inf _ => s + f.top * 2 ^ (f.p - 1)
  | .fin _ m e => s + roundMag f r m e

/-- The value of a binary word. -/
def ofBin (f : Bin) (b : Nat) : Val :=
  let n := b / f.signBit % 2 == 1
  let E := b % f.signBit / 2 ^ (f.p - 1)
  let F := b % 2 ^ (f.p - 1)
  if E = f.top then (if F = 0 then .inf n else .nan n)
  else if E = 0 then .fin n F f.lo
  else .fin n (F + 2 ^ (f.p - 1)) (f.lo + (E - 1 : Nat))

/-- A value rounded to binary32 with ties to even, the rule of every FP32 result (R144). -/
def f32 (v : Val) : Val := ofBin fp32 (toBin fp32 .even 0 v)

/-- Sum of two binary64 words (R160). -/
def add64 (a b : Nat) : Nat := toBin fp64 .even 0 ((ofBin fp64 a).add (ofBin fp64 b))

/-! ### Codes (R141, R145–R148) -/

/-- The finite magnitudes of a code format in rising order, in units of 2^−u: their index is the magnitude field of the code. -/
structure Grid where
  u : Nat
  mags : List Nat
  deriving DecidableEq, Repr

/-- Magnitudes of an FP8 format with `fb` fraction bits, for the codes below `n`. -/
def fp8Mags (fb n : Nat) : List Nat :=
  (List.range n).map fun c =>
    let E := c / 2 ^ fb
    let F := c % 2 ^ fb
    if E = 0 then F else (F + 2 ^ fb) * 2 ^ (E - 1)

/-- The grid of a code format: INT8 and INT4 symmetric (R152), the FP8 formats, Bell4 and Bell3. -/
def gridOf (f : Nat) : Grid :=
  match f with
  | 0x10 => ⟨0, List.range 128⟩
  | 0x11 => ⟨0, List.range 8⟩
  | 0x20 => ⟨9, fp8Mags 3 127⟩
  | 0x21 => ⟨16, fp8Mags 2 124⟩
  | 0x30 => ⟨7, [0, 11, 23, 36, 51, 68, 90, 128]⟩
  | _ => ⟨7, [0, 28, 60, 128]⟩

/-- Width of a code in bits (R141). -/
def codeWidth (f : Nat) : Nat :=
  match f with
  | 0x01 => 32 | 0x02 => 16 | 0x11 => 4 | 0x30 => 4 | 0x31 => 3 | _ => 8

/-- A narrow code: neither FP32 nor BF16. -/
def isCode (f : Nat) : Bool := f != 0x01 && f != 0x02

/-- The value of a code of format `f`. The Bell codes 0b1000 and 0b100 decode to 0, taken as the negative zero whose bits they are (R145, R146;
DESIGN CHOICE, log 27). -/
def decodeVal (f c : Nat) : Val :=
  let w := codeWidth f
  let top := c.testBit (w - 1)
  let low := c % 2 ^ (w - 1)
  match f with
  | 0x01 => ofBin fp32 c
  | 0x02 => ofBin bf16 c
  | 0x10 => .fin top (if top then 128 - low else low) 0
  | 0x11 => .fin top (if top then 8 - low else low) 0
  | 0x20 => if low = 0x7F then .nan top else .fin top ((gridOf f).mags.getD low 0) (-9)
  | 0x21 => if low = 0x7C then .inf top else if 0x7C < low then .nan top else .fin top ((gridOf f).mags.getD low 0) (-16)
  | _ => .fin top ((gridOf f).mags.getD low 0) (-7)

/-- The code of magnitude index `i` with a sign: FP8 keeps the sign of zero, integers and Bell codes write zero with sign 0
(R147, R152). -/
def codeOf (f i : Nat) (neg : Bool) : Nat :=
  let w := codeWidth f
  match f with
  | 0x10 => if neg ∧ i ≠ 0 then 2 ^ w - i else i
  | 0x11 => if neg ∧ i ≠ 0 then 2 ^ w - i else i
  | 0x20 => b2n neg * 128 + i
  | 0x21 => b2n neg * 128 + i
  | _ => if neg ∧ i ≠ 0 then 2 ^ (w - 1) + i else i

/-- Largest magnitude of a grid, qmax (R152). -/
def Grid.qmax (g : Grid) : Nat := g.mags.getLast?.getD 0

/-- Index of the grid magnitude nearest to `num / den`, ties to the larger one (R144, R147). -/
def Grid.nearest (g : Grid) (num den : Nat) : Nat :=
  ((g.mags.zip (g.mags.drop 1)).filter fun (a, b) => (a + b) * den ≤ 2 * num * 2 ^ g.u).length

/-- Index of the largest grid magnitude at or below `num / den`. -/
def Grid.below (g : Grid) (num den : Nat) : Nat := ((g.mags.drop 1).filter fun b => b * den ≤ num * 2 ^ g.u).length

/-- Index by stochastic rounding with 16 random bits (R156). -/
def Grid.stoch (g : Grid) (u num den : Nat) : Nat :=
  let i := g.below num den
  let a := g.mags.getD i 0
  let b := g.mags.getD (i + 1) a
  if b ≤ a then i
  else if u < 65536 * (num * 2 ^ g.u - a * den) / ((b - a) * den) then i + 1 else i

/-! ### Block scales (R149) -/

/-- Bytes of a scale: E8M0 1, E8M3 2. -/
def scaleSize (m3 : Bool) : Nat := if m3 then 2 else 1

/-- The value of a stored scale. -/
def scaleVal (m3 : Bool) (k : Nat) : Val :=
  if m3 then
    let e := k / 8 % 256
    if e = 255 then .nan false else .fin false (8 + k % 8) ((e : Int) - 130)
  else if k % 256 = 255 then .nan false else .fin false 1 ((k % 256 : Nat) - 127)

/-- The NaN scale (R155). -/
def nanScale (m3 : Bool) : Nat := if m3 then 0x07F8 else 0xFF

/-- Whether `k × 2^x` is at most `num / den`. -/
def leRatio (k : Nat) (x : Int) (num den : Nat) : Bool :=
  if 0 ≤ x then k * 2 ^ x.toNat * den ≤ num else k * den ≤ num * 2 ^ (-x).toNat

/-- The largest scale of a format that does not exceed `num / den`, at least 2^−127 (R153). -/
def scaleFor (m3 : Bool) (num den : Nat) : Nat :=
  let e := ((List.range 255).filter fun e => leRatio 1 ((e : Int) - 127) num den).length - 1
  if m3 then 8 * e + (((List.range 8).filter fun m => leRatio (8 + m) ((e : Int) - 130) num den).length - 1) else e

/-- The quotient of a finite magnitude by a scale, as a fraction. -/
def quotient (m : Nat) (e : Int) (sm : Nat) (se : Int) : Nat × Nat :=
  let x := e - se
  if 0 ≤ x then (m * 2 ^ x.toNat, sm) else (m, sm * 2 ^ (-x).toNat)

/-! ### Encoding one element -/

/-- One encoded element: its code, and whether it counts as clipped or saturated, or as non-finite. -/
structure Enc where
  code : Nat := 0
  beyond : Bool := false
  nonfinite : Bool := false
  deriving DecidableEq, Repr, Inhabited

/-- A random draw of stochastic rounding, or none for R144. -/
abbrev Draw := Option Nat

/-- Encodes a value under a scale (R152, R155): `dynamic` tells that its block's scale was chosen for it. -/
def encodeVal (f : Nat) (draw : Draw) (v s : Val) : Enc :=
  let g := gridOf f
  match s with
  | .fin _ sm se =>
    match v with
    | .nan n => { code := match f with | 0x20 => b2n n * 128 + 0x7F | 0x21 => b2n n * 128 + 0x7E | _ => 0, nonfinite := true }
    | .inf n => { code := if f = 0x21 then b2n n * 128 + 0x7C else codeOf f (g.mags.length - 1) n, nonfinite := true }
    | .fin n m e =>
      let (a, b) := quotient m e sm se
      if g.qmax * b < a * 2 ^ g.u then { code := codeOf f (g.mags.length - 1) n, beyond := true }
      else { code := codeOf f (match draw with | none => g.nearest a b | some u => g.stoch u a b) n }
  | _ => { code := 0, nonfinite := true }

/-! ### Stochastic state (R156) -/

/-- One xorshift32 step. -/
def xorshift (v : Nat) : Nat :=
  let a := (v ^^^ (v <<< 13)) % 2 ^ 32
  let b := a ^^^ (a >>> 17)
  (b ^^^ (b <<< 5)) % 2 ^ 32

/-- First state of lane `l`. -/
def laneInit (seed l : Nat) : Nat :=
  let v := seed ^^^ ((l + 1) * 0x9E3779B9 % 2 ^ 32)
  if v = 0 then 1 else v

/-! ### A block and a row -/

/-- Counts of a conversion (R160). -/
structure ConvStat where
  elements : Nat := 0
  clipped : Nat := 0
  saturated : Nat := 0
  nonfinite : Nat := 0
  maxErr : Nat := 0
  /-- FP32 bits of the sums of squared errors, by lane -/
  lanes : List Nat := List.replicate 64 0
  deriving DecidableEq, Repr, Inhabited

/-- Adds one element's error to the statistics: e = x − y, e² and the lane sum in FP32 (R160). -/
def statElem (lane : Nat) (x y : Val) (beyond nonfinite dynamic : Bool) (t : ConvStat) : ConvStat :=
  let e := f32 (x.add y.neg)
  let sq := f32 (e.mul e)
  let sum := toBin fp32 .even 0 ((ofBin fp32 (t.lanes.getD lane 0)).add sq)
  let t1 : ConvStat :=
    { t with elements := t.elements + 1
             clipped := t.clipped + b2n (beyond && !dynamic), saturated := t.saturated + b2n (beyond && dynamic)
             nonfinite := t.nonfinite + b2n nonfinite }
  if nonfinite then t1
  else { t1 with lanes := t1.lanes.set lane sum, maxErr := max t1.maxErr (toBin fp32 .even 0 e.abs) }

/-- The binary64 sum of the lane sums (R160). -/
def laneTotal (t : ConvStat) : Nat :=
  t.lanes.foldl (fun a l => add64 a (toBin fp64 .even 0 (ofBin fp32 l))) 0

/-- What a conversion does to one element. -/
structure Conv where
  src : Nat := 1
  dst : Nat := 1
  dynamic : Bool := false
  stochastic : Bool := false
  m3 : Bool := false
  deriving DecidableEq, Repr

/-- The scale that dynamic scaling writes for the values of a block (R153–R155). -/
def dynScale (f : Nat) (m3 : Bool) (vs : List Val) : Nat :=
  if vs.any fun v => !v.finite then nanScale m3
  else
    let g := gridOf f
    let ge := fun (a b : Nat × Int) => decide (b.1 * 2 ^ (b.2 - min a.2 b.2).toNat ≤ a.1 * 2 ^ (a.2 - min a.2 b.2).toNat)
    let amax := vs.foldl (fun (a : Nat × Int) v => match v with
      | .fin _ m e => if ge a (m, e) then a else (m, e)
      | _ => a) (0, 0)
    if amax.1 = 0 then 0
    else
      let (num, den) := quotient amax.1 amax.2 g.qmax (-(g.u : Int))
      scaleFor m3 num den

/-- The values of a block as its conversion takes them: in a block of zeros under dynamic scaling a negative zero counts as zero, since
every element gets code 0 (R154). -/
def blockVals (dynamic : Bool) (vs : List Val) : List Val :=
  let zero := fun (v : Val) => match v with | .fin _ m _ => m == 0 | _ => false
  if dynamic && vs.all zero then vs.map Val.abs else vs

/-- Converts one element: the code or word written, the value that it spells, and what it counts as. `pay` is the payload of a
NaN result. -/
def convElem (c : Conv) (draw : Draw) (pay : Nat) (s v : Val) : Nat × Val × Bool × Bool :=
  let rnd := match draw with | some u => Rnd.stoch u | none => Rnd.away
  if isCode c.dst then
    let e := encodeVal c.dst draw v s
    (e.code, (decodeVal c.dst e.code).mul s, e.beyond, e.nonfinite)
  else
    let x := v.mul s
    let b := if c.dst = 0x01 then toBin fp32 .even pay x else toBin bf16 rnd pay x
    (b, decodeVal c.dst b, false, !x.finite)

/-- State of a conversion that runs through rows: lane states, statistics, codes written. -/
structure ConvRun where
  rng : List Nat := []
  stat : ConvStat := {}
  codes : List Nat := []
  deriving Repr, Inhabited

/-- Converts element `i` of a row: its source code and its value. -/
def convStep (c : Conv) (i : Nat) (code : Nat) (v s : Val) (t : ConvRun) : ConvRun :=
  let lane := i % 64
  let st := xorshift (t.rng.getD lane 1)
  let draw : Draw := if c.stochastic then some (st / 65536) else none
  let (out, y, beyond, nf) := convElem c draw (Config.nanBits code) s v
  let x := if isCode c.src then f32 (v.mul s) else v
  { rng := if c.stochastic then t.rng.set lane st else t.rng
    stat := statElem lane x (f32 y) beyond nf c.dynamic t.stat
    codes := t.codes ++ [out] }

/-- Converts one block under a scale value. -/
def convBlock (c : Conv) (start : Nat) (codes : List Nat) (s : Val) (t : ConvRun) : ConvRun :=
  ((codes.zip (blockVals c.dynamic (codes.map (decodeVal c.src)))).zipIdx).foldl (fun t (k, i) => convStep c (start + i) k.1 k.2 s t) t

/-- Elements of a row, from its bytes (R148). -/
def unpackRow (f n : Nat) (bs : List Byte) : List Nat :=
  let w := codeWidth f
  let all := leNat bs
  (List.range n).map fun i => all / 2 ^ (w * i) % 2 ^ w

/-- The bytes of a row of codes, padded with zeros to a 16-byte boundary (R148). -/
def packRow (f : Nat) (codes : List Nat) : List Byte :=
  let w := codeWidth f
  let v := (codes.zipIdx).foldl (fun a (k, i) => a + k * 2 ^ (w * i)) 0
  toLE (16 * ((codes.length * w + 127) / 128)) v

/-- Blocks of a row: start and length. -/
def blocksOf (n b : Nat) : List (Nat × Nat) :=
  if b = 0 then [(0, n)] else (List.range ((n + b - 1) / b)).map fun j => (j * b, min b (n - j * b))

end Sys2Proof.Machine
end

