-- ==== Sys2Proof/Machine/Fp.lean ====
section
/-! DEFINITION. FP32 arithmetic of the array, the Tail and the vector unit (R144, R157, R158, R174): rounded operations, sums in an
open order, the functions of R173 within their stated error. -/

namespace Sys2Proof.Machine

/-! ### Open choices -/

/-- Place of an open choice inside a leg. -/
abbrev Key := List Nat

/-- An open choice below `n`. -/
def pick (k : Key) (n : Nat) : Nat := Config.pick k % max n 1

/-- An FP32 value that the spec does not state. -/
def freeVal (k : Key) : Val := ofBin fp32 (pick k (2 ^ 32))

/-- The FP32 word of a value; the payload of a NaN is open (R158). -/
def f32Word (k : Key) (v : Val) : Nat := toBin fp32 .even (Config.pick k) v

/-- Combines the elements of a list in an open order: any two are combined next, until one is left. -/
def foldAny {α : Type} [Inhabited α] (op : Key → α → α → α) (k : Key) : Nat → List α → α
  | 0, l => l.headD default
  | f + 1, l =>
    match l with
    | [] => default
    | [x] => x
    | _ =>
      let i := pick (0 :: f :: k) l.length
      let rest := l.eraseIdx i
      let j := pick (1 :: f :: k) rest.length
      foldAny op k f (op (2 :: f :: k) (l.getD i default) (rest.getD j default) :: rest.eraseIdx j)

/-- Combines neighbours of a list in an open order, keeping left and right: any division into parts. -/
def foldAdj {α : Type} [Inhabited α] (op : α → α → α) (k : Key) : Nat → List α → α
  | 0, l => l.headD default
  | f + 1, l =>
    match l with
    | [] => default
    | [x] => x
    | _ =>
      let i := 1 + pick (f :: k) (l.length - 1)
      op (foldAdj op (0 :: k) f (l.take i)) (foldAdj op (1 :: k) f (l.drop i))

/-! ### Rounded operations -/

/-- Positive zero. -/
def vZero : Val := .fin false 0 0
/-- One. -/
def vOne : Val := .fin false 1 0

/-- FP32 sum (R144: ties to even). -/
def fadd (a b : Val) : Val := f32 (a.add b)
/-- FP32 difference. -/
def fsub (a b : Val) : Val := f32 (a.add b.neg)
/-- FP32 product. -/
def fmul (a b : Val) : Val := f32 (a.mul b)

/-- FP32 quotient: the quotient is cut after at least 31 bits and its remainder kept as a last bit, which rounds as the exact value. -/
def fdiv (a b : Val) : Val :=
  match a, b with
  | .nan n, _ => .nan n
  | _, .nan n => .nan n
  | .inf _, .inf _ => .nan false
  | .inf x, .fin y _ _ => .inf (x != y)
  | .fin x _ _, .inf y => .fin (x != y) 0 0
  | .fin x m e, .fin y k g =>
    if k = 0 then (if m = 0 then .nan false else .inf (x != y))
    else
      let sh := Nat.log2 k + 32
      let q := m * 2 ^ sh / k
      let rest := b2n (m * 2 ^ sh % k != 0)
      f32 (.fin (x != y) (2 * q + rest) (e - g - (sh + 1 : Nat)))

/-- Integer square root, bit by bit, for numbers below 2^(2b). -/
def isqrt (b n : Nat) : Nat :=
  (List.range b).foldl (fun r i => let c := r + 2 ^ (b - 1 - i); if c * c ≤ n then c else r) 0

/-- FP32 square root, rounded from its exact value; of a negative value NaN. -/
def fsqrt (v : Val) : Val :=
  match v with
  | .nan n => .nan n
  | .inf n => if n then .nan false else .inf false
  | .fin n m e =>
    if m = 0 then .fin n 0 0
    else if n then .nan false
    else
      let sh := 80 + (e % 2).toNat
      let w := m * 2 ^ sh
      let r := isqrt 128 w
      f32 (.fin false (2 * r + b2n (r * r != w)) ((e - (sh : Nat)) / 2 - 1))

/-- The order of values; false where one is NaN. -/
def Val.lt (a b : Val) : Bool :=
  match a, b with
  | .nan _, _ => false
  | _, .nan _ => false
  | .inf x, .inf y => x && !y
  | .inf x, .fin _ _ _ => x
  | .fin _ _ _, .inf y => !y
  | .fin n1 m1 e1, .fin n2 m2 e2 => (sumExact n1 m1 e1 (!n2) m2 e2).1 < 0

/-- Not a number. -/
def Val.isNan : Val → Bool
  | .nan _ => true
  | _ => false

/-- The larger value; NaN if one is NaN (R216). -/
def fmax (a b : Val) : Val := if a.isNan then a else if b.isNan then b else if a.lt b then b else a
/-- The smaller value; NaN if one is NaN. -/
def fmin (a b : Val) : Val := if a.isNan then a else if b.isNan then b else if b.lt a then b else a

/-- An FP32 sum in an open order (R157, R158), with or without a zero accumulator to start from. -/
def sumAny (k : Key) (l : List Val) : Val :=
  let l1 := if pick (3 :: k) 2 = 0 ∧ l ≠ [] then l else vZero :: l
  foldAny (fun _ a b => fadd a b) k l1.length l1

/-- Key of an FP32 word in value order. -/
def wordOrder (w : Nat) : Int := if w.testBit 31 then -((w % 2 ^ 31 : Nat) : Int) else (w % 2 ^ 31 : Nat)

/-- A natural number as FP32 value. -/
def vNat (n : Nat) : Val := f32 (.fin false n 0)

/-! ### Real functions in fixed point, 256 bits after the point -/

/-- ln 2. -/
def ln2Fx : Int := 80260960185991308862233904206310070533990667611589946606122867505419956976171
/-- π. -/
def piFx : Nat := 363771576891766324280234942777729862653393377328392429958772151117938894466185
/-- One. -/
def oneFx : Int := 2 ^ 256

/-- A finite value in fixed point, exact for every FP32 value. -/
def toFx : Val → Int
  | .fin n m e =>
    let a : Int := if 0 ≤ e + 256 then (m * 2 ^ (e + 256).toNat : Nat) else (m / 2 ^ (-(e + 256)).toNat : Nat)
    if n then -a else a
  | _ => 0

/-- Product and quotient in fixed point. -/
def mulFx (a b : Int) : Int := a * b / oneFx
/-- Quotient in fixed point. -/
def divFx (a b : Int) : Int := a * oneFx / b

/-- The exponential function; arguments beyond ±400 are cut, where its FP32 result is infinite or smaller than the error bound. -/
def expFx (x0 : Int) : Int :=
  let x := max (-400 * oneFx) (min (400 * oneFx) x0)
  let k := x / ln2Fx
  let r := x - k * ln2Fx
  let s := ((List.range 64).foldl (fun (ts : Int × Int) i => let t := mulFx ts.1 r / ((i : Int) + 1); (t, ts.2 + t)) (oneFx, oneFx)).2
  if 0 ≤ k then s * 2 ^ k.toNat else s / 2 ^ (-k).toNat

/-- 1 / (1 + e^(−x)). -/
def sigmoidFx (x : Int) : Int := divFx oneFx (oneFx + expFx (-x))
/-- The hyperbolic tangent. -/
def tanhFx (x : Int) : Int := 2 * sigmoidFx (2 * x) - oneFx

/-- ln (1 + y) for y from 0 to 1. -/
def ln1pFx (y : Int) : Int :=
  let z := divFx y (2 * oneFx + y)
  let z2 := mulFx z z
  2 * ((List.range 90).foldl (fun (ts : Int × Int) i => (mulFx ts.1 z2, ts.2 + ts.1 / (2 * (i : Int) + 1))) (z, 0)).2

/-- ln x of a positive finite value (R173 ROTATE). -/
def lnFx (m : Nat) (e : Int) : Int :=
  let k := Nat.log2 m
  ln1pFx ((m : Int) * oneFx / 2 ^ k - oneFx) + (e + (k : Int)) * ln2Fx

/-- Cosine and sine of an angle, by their series on the angle reduced by whole turns (R173 ROTATE). -/
def cosSinFx (x : Int) : Int × Int :=
  let r := x % (2 * (piFx : Int))
  let r2 := mulFx r r
  let series := fun (t0 : Int) (d : Int) => ((List.range 60).foldl (fun (ts : Int × Int) i =>
    let t := -(mulFx ts.1 r2) / ((2 * (i : Int) + 1 + d) * (2 * (i : Int) + 2 + d))
    (t, ts.2 + t)) (t0, t0)).2
  (series oneFx 0, series r 1)

/-- The error function: its series up to magnitude 6, ±1 beyond. -/
def erfFx (u : Int) : Int :=
  if 6 * oneFx < u then oneFx else if u < -6 * oneFx then -oneFx
  else
    let u2 := mulFx u u
    let s := ((List.range 240).foldl (fun (ts : Int × Int) i =>
      (-(mulFx ts.1 u2) / ((i : Int) + 1), ts.2 + ts.1 / (2 * (i : Int) + 1))) (u, 0)).2
    mulFx s (isqrt 260 (4 * 2 ^ 768 / piFx) : Nat)

/-- The functions of R173 with codes 4 to 10: sigmoid, tanh, SiLU, GELU (erf), GELU (tanh form), softplus, exp. -/
def fnFx (code : Nat) (x : Int) : Int :=
  match code with
  | 4 => sigmoidFx x
  | 5 => tanhFx x
  | 6 => mulFx x (sigmoidFx x)
  | 7 => mulFx x (oneFx + erfFx (mulFx x (isqrt 260 (2 ^ 511) : Nat))) / 2
  | 8 =>
    let c : Int := (isqrt 260 (2 * 2 ^ 768 / piFx) : Nat)
    let y := mulFx c (x + mulFx (44715 * oneFx / 1000000) (mulFx x (mulFx x x)))
    mulFx x (oneFx + tanhFx y) / 2
  | 9 => max x 0 + ln1pFx (expFx (-(x.natAbs : Int)))
  | _ => expFx x

/-- Some FP32 value within the error of R174 of a real number: relative 2^−20 or absolute 2^−30, whichever is larger. -/
def nearFx (k : Key) (y : Int) : Val :=
  let b := max (y.natAbs / 2 ^ 20) (2 ^ 226)
  let z := y + (pick k (2 * b + 1) : Nat) - (b : Nat)
  f32 (.fin (z < 0) z.natAbs (-256))

/-- Value of a function of R173 with codes 4 to 10 at an infinity: its limit; open where the spec and the limit give none. -/
def fnLimit (k : Key) (code : Nat) (neg : Bool) : Val :=
  match code, neg with
  | 4, true => vZero | 4, false => vOne
  | 5, n => .fin n 1 0
  | 9, true => vZero | 10, true => vZero
  | _, false => .inf false
  | _, true => freeVal k

/-- e^x within the error of R174, exactly 1 at 0. -/
def fexp (k : Key) (v : Val) : Val :=
  match v with
  | .nan n => .nan n
  | .inf n => fnLimit k 10 n
  | .fin _ m _ => if m = 0 then vOne else nearFx k (expFx (toFx v))

/-- The activation functions of R173; `b` and `c` are the constants that the arguments name. Codes 11 and 12 are not given by a formula. -/
def actFn (k : Key) (code : Nat) (b c x : Val) : Val :=
  if x.isNan then x
  else
    match code with
    | 0 => x
    | 1 => if x.lt vZero then vZero else x
    | 2 => if x.lt vZero then fmul x b else x
    | 3 => fmin (fmax x b) c
    | 11 => ofBin fp32 (Config.tailFn 11 (BitVec.ofNat 32 (f32Word k x))).toNat
    | 12 => ofBin fp32 (Config.tailFn 12 (BitVec.ofNat 32 (f32Word k x))).toNat
    | n =>
      match x with
      | .fin _ _ _ => nearFx k (fnFx n (toFx x))
      | .inf neg => fnLimit k n neg
      | .nan s => .nan s

/-! ### Softmax (R173 SMAX) -/

/-- A part of a softmax: the largest value seen, and the sum of exponentials relative to it. -/
structure SoftPart where
  top : Val := vZero
  sum : Val := vZero
  deriving Inhabited

/-- Joins two parts: sums are rescaled to the larger maximum. -/
def SoftPart.join (k : Key) (a b : SoftPart) : SoftPart :=
  let m := fmax a.top b.top
  { top := m, sum := fadd (fmul a.sum (fexp (0 :: k) (fsub a.top m))) (fmul b.sum (fexp (1 :: k) (fsub b.top m))) }

/-- Softmax of the admitted elements, the others 0; none where no element is admitted (R248). -/
def softmax (k : Key) (xs : List (Val × Bool)) : Option (List Val) :=
  match xs.filter Prod.snd with
  | [] => none
  | l =>
    let t := foldAny SoftPart.join (0 :: k) l.length (l.map fun x => ({ top := x.1, sum := vOne } : SoftPart))
    some (xs.zipIdx.map fun (x, i) => if x.2 then fdiv (fexp (1 :: i :: k) (fsub x.1 t.top)) t.sum else vZero)

end Sys2Proof.Machine
end

