-- ==== Sys2Proof/Machine/Mooring.lean ====
section
/-! DEFINITION. The Mooring engine (R159, R203–R205): the layers of a detector model, in 32-bit sums of INT8 activations and INT8 or INT4
weights, and the score of a decision. Where the record's layout, the padding and the unit of a code are open, log 47 says what stands
here. -/

namespace Sys2Proof.Machine

/-! ### Layer records (R205) -/

/-- Layer record `i` of a model record. -/
def moorLayer (r : List Byte) (i : Nat) : List Byte := slice r (64 + 32 * i) 32

/-- Shape of a layer's activations: rows, columns, channels. -/
abbrev Shape := Nat × Nat × Nat

/-- Shape of the model's input (R203, R204): log-mel bands by blocks, or the scaled luma. -/
def moorInput (r : List Byte) : Shape :=
  match num r 8 1 with | 0 => (num r 9 1, 40, 1) | 1 => (120, 160, 1) | _ => (60, 80, 1)

/-- Kernel or stride of a layer: height, width (R205). -/
def hw (b : Nat) : Nat × Nat := (b % 16, b / 16)

/-- Output shape of a layer on an input, `none` where they do not chain (R205; DEDUCED, log 23). -/
def moorOut (l : List Byte) (x : Shape) (earlier : List Shape) : Option Shape :=
  let ci := num l 6 2
  let co := num l 8 2
  let (sh, sw) := hw (num l 3 1)
  let spatial : Shape := ((x.1 + sh - 1) / max sh 1, (x.2.1 + sw - 1) / max sw 1, co)
  match num l 0 1 with
  | 1 => if ci = x.1 * x.2.1 * x.2.2 then some (1, 1, co) else none
  | 2 => if ci = x.2.2 then some spatial else none
  | 6 => match earlier[num l 5 1]? with
    | some y => if y = x ∧ ci = x.2.2 ∧ co = ci then some x else none
    | none => none
  | _ => if ci = x.2.2 ∧ co = ci then some spatial else none

/-- Whether a layer has weights (R205). -/
def hasWeights (l : List Byte) : Bool := num l 0 1 ≤ 3

/-- Weight bytes of a layer (R148, R205). -/
def moorWeights (l : List Byte) : Nat :=
  let (kh, kw) := hw (num l 2 1)
  let w := if num l 4 1 = 0x11 then 4 else 8
  let n := match num l 0 1 with
    | 1 => num l 6 2 * num l 8 2 | 2 => kh * kw * num l 6 2 * num l 8 2 | _ => kh * kw * num l 8 2
  (n * w + 7) / 8

/-! ### Sums and codes (R159) -/

/-- A sum in the 32-bit signed accumulator, which saturates at −2^31 and 2^31 − 1. -/
def satAcc (x : Int) : Int := max (-2147483648) (min 2147483647 x)

/-- The sum of an output: exact while no partial sum can leave 32 bits, otherwise saturated in an open order (R159). -/
def moorSum (k : Key) (l : List Int) : Int :=
  if (l.map Int.natAbs).sum < 2 ^ 31 then l.sum else foldAny (fun _ a b => satAcc (a + b)) k l.length l

/-- An INT8 code as an integer. -/
def int8 (b : Nat) : Int := signed 8 b

/-- An integer as an exact value. -/
def intVal (x : Int) : Val := .fin (x < 0) x.natAbs 0

/-- Requantises a sum to INT8 with an FP32 multiplier: R144 and the clipping of R152 (R159). -/
def moorQuant (x : Int) (mult : Nat) : Int :=
  int8 (encodeVal 0x10 none ((intVal x).mul (ofBin fp32 mult)) vOne).code

/-- The activation of a layer on a code (R205): the sigmoid of a last layer is that of R203 (DEDUCED, log 47). -/
def moorAct (act : Nat) (x : Int) : Int :=
  match act with
  | 1 => max x 0
  | 2 => min (max x 0) 6
  | _ => x

/-! ### Layers (R205) -/

/-- Activations: a shape and the INT8 codes by row, column and channel. -/
structure Maps where
  shape : Shape := (1, 1, 1)
  codes : List Int := []
  deriving Repr, Inhabited

/-- The code at a row, column and channel; zero outside the rows and columns (R205). -/
def Maps.at_ (m : Maps) (y x : Int) (c : Nat) : Int :=
  if y < 0 ∨ x < 0 ∨ (m.shape.1 : Int) ≤ y ∨ (m.shape.2.1 : Int) ≤ x then 0
  else m.codes.getD ((y.toNat * m.shape.2.1 + x.toNat) * m.shape.2.2 + c) 0

/-- Weight `i` of a layer: INT8, or INT4 with two to a byte, the lower half first (R148; DESIGN CHOICE, log 47: rows are packed without
padding, in the order output channel, kernel row, kernel column, input channel). -/
def moorWeight (r l : List Byte) (i : Nat) : Int :=
  if num l 4 1 = 0x11 then signed 4 (num r (num l 12 4 + i / 2) 1 / (if i % 2 = 0 then 1 else 16) % 16)
  else int8 (num r (num l 12 4 + i) 1)

/-- Bias of output channel `c`, INT32 (R205). -/
def moorBias (r l : List Byte) (c : Nat) : Int := signed 32 (num r (num l 16 4 + 4 * c) 4)

/-- Multiplier of output channel `c`, FP32 (R159). -/
def moorMult (r l : List Byte) (c : Nat) : Nat := num r (num l 20 4 + 4 * c) 4

/-- First input row or column of an output's kernel: the padding stands half before and half after (DESIGN CHOICE, log 47). -/
def padFrom (size kernel stride o : Nat) : Int :=
  (o * stride : Nat) - ((((size + stride - 1) / stride - 1) * stride + kernel - size) / 2 : Nat)

/-- The kernel's taps of an output at row `y` and column `x`: tap number, input row, input column. -/
def kernelTaps (l : List Byte) (s : Shape) (y x : Nat) : List (Nat × Int × Int) :=
  let (kh, kw) := hw (num l 2 1)
  let (sh, sw) := hw (num l 3 1)
  (List.range (kh * kw)).map fun t =>
    (t, padFrom s.1 kh (max sh 1) y + (t / max kw 1 : Nat), padFrom s.2.1 kw (max sw 1) x + (t % max kw 1 : Nat))

/-- One output code of a layer at row `y`, column `x`, channel `c` (R159, R205); `earlier` holds the outputs of the layers before. A pool
and an add need no multiplier: an average is rounded by R144 over all taps of its kernel, and an add is clipped by R152 (DESIGN CHOICE,
log 47). -/
def moorCell (k : Key) (r l : List Byte) (m : Maps) (earlier : List Maps) (y x c : Nat) : Int :=
  let taps := kernelTaps l m.shape y x
  let ci := num l 6 2
  let quant := fun (ps : List Int) => moorQuant (moorSum k (moorBias r l c :: ps)) (moorMult r l c)
  let v := match num l 0 1 with
    | 1 => quant ((List.range ci).map fun i => m.codes.getD i 0 * moorWeight r l (c * ci + i))
    | 2 => quant ((taps.map fun (t, ty, tx) =>
        (List.range ci).map fun i => m.at_ ty tx i * moorWeight r l ((c * taps.length + t) * ci + i)).flatten)
    | 3 => quant (taps.map fun (t, ty, tx) => m.at_ ty tx c * moorWeight r l (c * taps.length + t))
    | 4 =>
      let n := max 1 taps.length
      let z : Int := (taps.map fun (_, ty, tx) => m.at_ ty tx c).sum
      let q : Int := ((2 * z.natAbs + n) / (2 * n) : Nat)
      if z < 0 then -q else q
    | 5 => (taps.map fun (_, ty, tx) => m.at_ ty tx c).foldl max (-128)
    | _ => max (-127) (min 127 (m.at_ y x c + (earlier.getD (num l 5 1) default).at_ y x c))
  moorAct (num l 1 1) v

/-- The output of a layer. -/
def moorApply (k : Key) (r l : List Byte) (m : Maps) (earlier : List Maps) : Maps :=
  let s := (moorOut l m.shape (earlier.map Maps.shape)).getD (1, 1, 1)
  { shape := s
    codes := (List.range (s.1 * s.2.1 * s.2.2)).map fun n =>
      moorCell (n :: k) r l m earlier (n / (s.2.1 * s.2.2)) (n / s.2.2 % s.2.1) (n % s.2.2) }

/-- The outputs of a model on its input codes (R203, R205): layer after layer. -/
def moorRun (k : Key) (r : List Byte) (input : List Byte) : List Int :=
  let m0 : Maps := { shape := moorInput r, codes := input.map fun b => int8 b.toNat }
  ((List.range (num r 3 1)).foldl (fun (acc : Maps × List Maps) i =>
    let y := moorApply (i :: k) r (moorLayer r i) acc.1 acc.2
    (y, acc.2 ++ [y])) (m0, [])).1.codes

/-! ### The score of a decision (R203) -/

/-- round(65,536 × σ) of a model's first output, saturated at 65,535; a code stands for its integer (DEDUCED, log 47). -/
def moorScore (x : Int) : Nat := min 65535 ((2 * 65536 * sigmoidFx (x * oneFx) + oneFx) / (2 * oneFx)).toNat

/-- The score of a model, and the number of blocks back to the phrase start that a second output gives (R203). -/
def moorDecide (k : Key) (r : List Byte) (input : List Byte) : Nat × Option Nat :=
  let o := moorRun k r input
  (moorScore (o.getD 0 0), if num r 10 1 = 2 then some (o.getD 1 0).toNat else none)

end Sys2Proof.Machine
end

