-- ==== Sys2Proof/Machine/MemMoves.lean ====
section
/-! DEFINITION. Memory objects on the move (11): mapping and releasing an object, the migration engine (R302), requests that meet a move
(R304), the cold tier (R305, R306) and the firmware's placement (R303). -/

namespace Sys2Proof.Machine

/-! ### Mapping and releasing -/

/-- The virtual pages of windows of context `h` through which page `p` of a ring shows now: those of the windows that point at its slot (R328). -/
def windowPages (s : State) (h p : Nat) : List Nat :=
  s.cams.windows.filterMap fun e =>
    let o := ((tgetD s.cams.ports e.2.port).out).getD {}
    let n := o.size / 65536
    let src := o.ring / 65536 + e.2.slot * n
    if e.2.ctx = h ∧ src ≤ p ∧ p < src + n then some (e.2.va / 65536 + (p - src)) else none

/-- Maps page `i` of object `k` to a frame (R113); a window that shows the page keeps showing it, read only (R302, R328). -/
def mapPage (k i frame : Nat) (s : State) : State :=
  match tget s.store.objs k with
  | none => s
  | some o =>
    let leaf : Leaf := { read := o.read, write := o.write, host := o.host, frame := frame }
    let shown := windowPages s o.ctx (o.va / 65536 + i)
    modCtx o.ctx (fun c =>
      { c with pages := shown.foldl (fun t q => tput t q { leaf with read := true, write := false }) (tput c.pages (o.va / 65536 + i) leaf) }) s

/-- Maps every page of an object to a list of frames. -/
def mapPages (k : Nat) (frames : List Nat) (s : State) : State :=
  (frames.zipIdx).foldl (fun t (f, i) => mapPage k i f t) s

/-- Removes the mappings of an object's pages, those through windows too (R115, R300, R328). -/
def unmapObj (o : MemObj) (s : State) : State :=
  let shown := ((List.range o.pages).map fun i => windowPages s o.ctx (o.va / 65536 + i)).flatten
  modCtx o.ctx (fun c =>
    { c with pages := tkeep c.pages fun p _ => (p < o.va / 65536 || o.va / 65536 + o.pages ≤ p) && !shown.contains p }) s

/-- First frames of the contiguous runs of a list of frames (R290). -/
def runStarts (fs : List Nat) : List Nat := fs.filter fun f => f = 0 || !fs.contains (f - 1)

/-- Takes the region leases of an object's state store frames: one per contiguous run, named by its first 4 KiB unit (R129, R290). -/
def leaseStore (h : Nat) (fs : List Nat) (s : State) : State := (runStarts fs).foldl (fun t f => takeLease 4 h (16 * f) 0 t) s

/-- Takes `n` state store frames for an object of context `h` with their leases. -/
def takeStore (k h n : Nat) (s : State) : State :=
  let (fs, s1) := allocStore h n s
  leaseStore h fs (modObj k (fun o => { o with store := fs }) s1)

/-- Releases the state store frames of object `k`: scrubbed and free, their leases gone (R120, R290). -/
def dropStore (k : Nat) (s : State) : State :=
  match tget s.store.objs k with
  | none => s
  | some o =>
    let s1 := (runStarts o.store).foldl (fun t f => dropLease 4 (16 * f) t) (freeFramesOf o.store s)
    modObj k (fun o => { o with store := [] }) s1

/-- Releases the DRAM frames of object `k`. -/
def dropDram (k : Nat) (s : State) : State :=
  match tget s.store.objs k with
  | none => s
  | some o => modObj k (fun o => { o with dram := [], lifted := 0 }) (freeFramesOf o.dram s)

/-- Frees the cold extents of object `k` (R305). -/
def dropExtents (k : Nat) (s : State) : State :=
  match tget s.store.objs k with
  | none => s
  | some o =>
    if o.extents.isEmpty then s
    else
      modObj k (fun o => { o with extents := [], coldData := [], coldTags := [] })
        { s with store.extents := tkeep s.store.extents (fun x _ => !o.extents.contains x), out := s.out ++ [.nvme k 2 o.extents] }

/-- Removes object `k`: its moves end with E_HANDLE, its mappings, frames, leases and extents go (R304, R312). -/
def releaseObj (k : Nat) (s : State) : State :=
  match tget s.store.objs k with
  | none => s
  | some o =>
    let ps := ((s.store.moves.filter fun m => m.obj == k).map Move.pkts).flatten
    let s1 := { s with store.moves := s.store.moves.filter (fun m => m.obj != k), store.cold := s.store.cold.filter fun c => c.obj != some k }
    let s2 := ps.foldl (fun t p => complete p .eHandle 0 0 0 0 t) s1
    let s3 := dropExtents k (dropDram k (dropStore k (unmapObj o s2)))
    { s3 with store.objs := tdel s3.store.objs k }

/-! ### Words on the move (R295, R297) -/

/-- Charges the words that a copy of `n` bytes from `a` met to their channels (R297, R308). -/
def chargeWords (a n ctx : Nat) (s : State) : State :=
  correctedWords (physCorrected s a n) ((physBad s a n).foldl (fun t w => wordEvent w ctx t) s)

/-! ### The cold tier (R305, R306) -/

/-- Cold namespaces of the configuration record: controller and namespace (R305). -/
def coldNs (s : State) : List (Nat × Nat) := (s.boot.record.map Record.cold).getD []

/-- The cold tier exists: link mode X4X4 and an assigned namespace (R306). -/
def coldReady (s : State) : Bool := s.link.x4x4 && !(coldNs s).isEmpty

/-- `n` free extents, lowest first (DESIGN CHOICE, log 9). -/
def freeExtents (s : State) (n : Nat) : List Nat :=
  ((List.range (s.store.extents.length + n)).filter fun x => x < Config.coldExtents && !thas s.store.extents x).take n

/-- Whether `n` extents are free. -/
def extentsFree (s : State) (n : Nat) : Bool := s.store.extents.length + n ≤ Config.coldExtents

/-! ### Moves (R302, R304) -/

/-- First move of object `k`. -/
def moveOf (s : State) (k : Nat) : Option Move := s.store.moves.find? fun m => m.obj == k

/-- Changes the first move of object `k`. -/
def modMove (k : Nat) (f : Move → Move) (s : State) : State :=
  match s.store.moves.findIdx? fun m => m.obj == k with
  | none => s
  | some i => { s with store.moves := s.store.moves.modify i f }

/-- Removes the first move of object `k`. -/
def popMove (k : Nat) (s : State) : State :=
  match s.store.moves.findIdx? fun m => m.obj == k with
  | none => s
  | some i => { s with store.moves := s.store.moves.eraseIdx i }

/-- Tier that the step under way leads to: DRAM on the way from the cold tier to the state store (R300). -/
def stepTier (o : MemObj) (target : Nat) : Nat := if target = 1 ∧ o.tier = 2 then 0 else target

/-- Whether the step is an operation of the cold tier. -/
def coldStep (o : MemObj) (target : Nat) : Bool := target == 2 || o.tier == 2

/-- Frame of page `i` of an object in tier 0 or 1. -/
def homeFrame (o : MemObj) (tier i : Nat) : Nat := if tier = 1 then o.store.getD i 0 else o.dram.getD i 0

/-- Frame to which page `i` of an object is mapped now. -/
def pageFrame (s : State) (o : MemObj) (i : Nat) : Option Nat := (tget (ctxOf s o.ctx).pages (o.va / 65536 + i)).map Leaf.frame

/-- The first page of an object that does not lie in the tier: pages already there take no engine time (R304). -/
def nextPage (s : State) (o : MemObj) (tier : Nat) : Option Nat :=
  (List.range o.pages).find? fun i => match pageFrame s o i with | some f => f != homeFrame o tier i | none => false

/-- Refusals of the resources that a step needs (R303, R306, R313), for an object `o`. -/
def stepChk (s : State) (o : MemObj) (target off : Nat) : List (Bool × Code × Nat) :=
  let cold := coldStep o target
  let t := stepTier o target
  [ (cold && !coldReady s, .eState, off),
    (t = 0 && o.tier = 2 && o.dram.isEmpty && freeFrames s < o.pages, .eNomem, off),
    (t = 1 && o.store.isEmpty && freeStore s < o.pages * 65536, .eNomem, off),
    (t = 2 && !extentsFree s o.pages, .eNomem, off),
    (t = 1 && o.store.isEmpty && o.ctx != 0 && (ctxOf s o.ctx).quota.stateStore < storeCharged s o.ctx + o.pages * 65536, .eQuota, off),
    (cold && chanRetired s 7 1, .eRetired, off),
    (cold && !s.link.rpUp, .eLowerTier, off)]

/-- State code of a step (R300): out of the cold tier and into the state store is up; a step to DRAM from elsewhere takes pages down. -/
def stepState (o : MemObj) (target : Nat) : Nat :=
  if target = 2 then 3 else if stepTier o target = 0 ∧ o.tier ≠ 2 then 2 else 1

/-- Starts a step whose resources are there: frames or extents are taken, the object's state changes; a cold-tier operation goes to
the drives (R300, R302, R305). -/
def startStep (k : Nat) (m : Move) (o : MemObj) (s : State) : State :=
  let t := stepTier o m.target
  let s1 := modObj k (fun x => { x with mstate := stepState o m.target }) { s with store.rest := false }
  let op : ColdOp := { obj := some k, deadline := s.time.now + m.ms * 1000000 }
  if t = 1 then (if o.store.isEmpty then takeStore k o.ctx o.pages s1 else s1)
  else if t = 2 then
    let xs := freeExtents s1 o.pages
    let taken := xs.foldl (fun e x => tput e x (o.ctx, (tget s1.store.extentWrites x).getD 0 + 1)) s1.store.extents
    let writes := xs.foldl (fun e x => tput e x ((tget e x).getD 0 + 1)) s1.store.extentWrites
    modObj k (fun x => { x with extents := xs })
      { s1 with store.extents := taken, store.extentWrites := writes, store.cold := s1.store.cold ++ [op], out := s1.out ++ [.nvme k 1 xs] }
  else if o.tier = 2 then
    let (fs, s2) := if o.dram.isEmpty then allocFrames o.ctx o.pages s1 else (o.dram, s1)
    modObj k (fun x => { x with dram := fs })
      { s2 with
        store.cold := s2.store.cold ++ [{ op with done := o.lifted }]
        out := s2.out ++ [.nvme k 0 (o.extents.drop o.lifted)] }
  else s1

/-- Completes the requests of a move: with a failing code, or with the tier reached and the pages moved (R312). -/
def endMove (k : Nat) (m : Move) (code : Option Code) (s : State) : State :=
  let s1 := popMove k (modObj k (fun o => { o with mstate := 0 }) s)
  let tier := ((tget s1.store.objs k).map MemObj.tier).getD 0
  let note := if m.deferred then nDeferred else 0
  m.pkts.foldl (fun t p =>
    match code with
    | some c => complete p c note 0 0 0 t
    | none => complete p .ok note tier m.moved 0 t) s1

/-- Goes on with the moves of object `k` (R304): starts the first one where it waits, ends a step whose last page has moved, starts
the next step, completes the move, and turns to the next. No transfer starts in the safe state (R407). -/
def runMoves : Nat → Nat → State → State
  | 0, _, s => s
  | fuel + 1, k, s =>
    match moveOf s k, tget s.store.objs k with
    | some m, some o =>
      if !m.running then
        if s.safe.safeState then s
        else if m.target = 3 then runMoves fuel k (endMove k m none (modObj k (fun x => { x with manual := false }) s))
        else if m.target = 2 ∧ pinCount o ≠ 0 then runMoves fuel k (endMove k m (some .eBusy) s)
        else
          let s1 := if m.pkts.isEmpty then s else modObj k (fun x => { x with manual := true }) s
          if o.tier = 2 ∧ m.target = 2 then runMoves fuel k (endMove k m none (dropDram k s1))
          else if o.tier = m.target ∧ (nextPage s1 o m.target).isNone then runMoves fuel k (endMove k m none s1)
          else
            match firstFail (stepChk s o m.target 20) with
            | some f => runMoves fuel k (endMove k m (some f.code) s)
            | none => runMoves fuel k (startStep k m o (modMove k (fun x => { x with running := true }) s1))
      else if s.store.cold.any fun c => c.obj == some k then s
      else
        let t := stepTier o m.target
        if t ≠ 2 ∧ (nextPage s o t).isSome then s
        else
          let s1 := modObj k (fun x => { x with tier := t }) s
          let s2 := if t = 0 then dropStore k s1 else s1
          if t = m.target then runMoves fuel k (endMove k m m.code s2)
          else if s2.safe.safeState then s2
          else
            match tget s2.store.objs k with
            | none => s2
            | some o2 =>
              match firstFail (stepChk s2 o2 m.target 20) with
              | some f => runMoves fuel k (endMove k m (some f.code) s2)
              | none => startStep k m o2 s2
    | _, _ => s

/-- Goes on with the moves of object `k`. -/
def serveMoves (k : Nat) (s : State) : State := runMoves (4 * s.store.moves.length + 8) k s

/-- The object whose page is on the migration engine: moves are served in request order (R302). -/
def engineObj (s : State) : Option Nat :=
  (s.store.moves.find? fun m =>
    m.running && (match tget s.store.objs m.obj with | some o => !coldStep o m.target | none => false)).map Move.obj

/-- The MEM_FREE that waited for the page completes: the object is freed (R304). -/
def finishFree (k : Nat) (p : Pkt) (s : State) : State :=
  let n := ((tget s.store.objs k).map MemObj.pages).getD 0
  completeOk p n 0 0 (releaseObj k s)

/-- Page `i` of object `k` is copied to its frame in tier `t` and its leaf switched (R295, R302). -/
def movePage (k i t : Nat) (o : MemObj) (s : State) : State :=
  match pageFrame s o i with
  | none => s
  | some f =>
    let g := homeFrame o t i
    let bad := (physBad s (f * 65536) 65536).head?.map wordCode
    let s1 := mapPage k i g (moveWords (f * 65536) (g * 65536) 65536 (chargeWords (f * 65536) 65536 o.ctx s))
    modMove k (fun m => { m with moved := m.moved + 1, code := match m.code with | some c => some c | none => bad }) s1

/-- What follows a page or an extent of the first move of object `k`: a MEM_FREE, a manual request to which a firmware move gives
way, or the rest of the move (R304). -/
def afterPage (k : Nat) (s : State) : State :=
  match moveOf s k with
  | none => s
  | some m =>
    match m.freeing with
    | some p => finishFree k p s
    | none => if m.stopping then serveMoves k (popMove k (modObj k (fun o => { o with mstate := 0 }) s)) else serveMoves k s

/-- A cold-tier operation of object `k` fails: what it moved is discarded, the object stays in the tier that it left (R306). -/
def failColdOp (k : Nat) (code : Code) (s : State) : State :=
  match moveOf s k, tget s.store.objs k with
  | some m, some o =>
    let s1 := { s with store.cold := s.store.cold.filter fun c => c.obj != some k }
    let s2 := if o.tier = 2 then dropDram k s1
      else
        modObj k (fun x => { x with extents := [] })
          { s1 with store.extents := tkeep s1.store.extents fun x _ => !o.extents.contains x }
    match m.freeing with
    | some p => finishFree k p s2
    | none => serveMoves k (endMove k m (some code) s2)
  | _, _ => { s with store.cold := s.store.cold.filter fun c => c.obj != some k }

/-- The 12-byte nonce of an extent: its number, then its write count (R305); the split 8 and 4 bytes is the model's (log 9). -/
def coldNonce (s : State) (x : Nat) : List Byte := toLE 8 x ++ toLE 4 ((tget s.store.extents x).getD (0, 0)).2

/-- Key of a context's cold extents, from the random value chosen when the context opened (R305, R444). -/
def coldKeyOf (s : State) (h : Nat) : List Byte := toLE 32 (Config.coldKey ((ctxOf s h).coldKey.getD 0)).toNat

/-- Each page of an object encrypted for its extent: the ciphertext, then the tag (R305). -/
def sealPages (s : State) (o : MemObj) : List (List Byte) :=
  (o.extents.zipIdx).map fun (x, i) =>
    Config.gcmSeal (coldKeyOf s o.ctx) (coldNonce s x) [] (((pageFrame s o i).map fun f => physRead s (f * 65536) 65536).getD [])

/-- The pages of an object in the cold tier, each decrypted and checked against its tag; none where a tag fails (R305). -/
def openPages (s : State) (o : MemObj) : List (Option (List Byte)) :=
  (o.extents.zipIdx).map fun (x, i) =>
    Config.gcmOpen (coldKeyOf s o.ctx) (coldNonce s x) [] (o.coldData.getD i [] ++ o.coldTags.getD i [])

/-- The last extent of an eviction is written: the object lies in the cold tier, its leaves are invalid, its frames free (R300, R305).
A failed word that it met, or a page that is lost (R308), fails the operation (R297). -/
def finishEvict (k : Nat) (o : MemObj) (s : State) : State :=
  let fs := (List.range o.pages).filterMap fun i => pageFrame s o i
  let bad := (fs.map fun f => physBad s (f * 65536) 65536).flatten
  let s1 := fs.foldl (fun t f => chargeWords (f * 65536) 65536 o.ctx t) s
  match bad.head? with
  | some w => failColdOp k (wordCode w) s1
  | none =>
    if fs.length < o.pages then failColdOp k .eLowerTier s1 else
    let data := sealPages s1 o
    let s2 := { s1 with store.cold := s1.store.cold.filter fun c => c.obj != some k }
    let s3 := dropDram k (dropStore k (unmapObj o s2))
    afterPage k (modMove k (fun m => { m with moved := m.moved + o.pages }) 
      (modObj k (fun x => { x with tier := 2, coldData := data.map (·.take 65536), coldTags := data.map (·.drop 65536) }) s3))

/-- The last extent of a promotion is decrypted: the object lies in DRAM, mapped again; a tag that fails ends the operation (R305, R306). -/
def finishPromote (k : Nat) (o : MemObj) (s : State) : State :=
  let pages := openPages s o
  if pages.any Option.isNone then failColdOp k .eLowerTier s
  else
    let s1 := { s with store.cold := s.store.cold.filter fun c => c.obj != some k }
    let s2 := (o.dram.zipIdx).foldl (fun t (f, i) => physWrite (f * 65536) (fit 65536 ((pages.getD i none).getD [])) t) s1
    let s3 := dropExtents k (mapPages k o.dram s2)
    afterPage k (modMove k (fun m => { m with moved := m.moved + (o.pages - o.lifted) }) (modObj k (fun x => { x with tier := 0, lifted := 0 }) s3))

/-- A firmware promotion out of the cold tier gives way after an extent: the pages that it has moved stay in their DRAM frames (R304). -/
def pausePromote (k done : Nat) (s : State) : State :=
  afterPage k (modObj k (fun x => { x with lifted := done }) { s with store.cold := s.store.cold.filter fun c => c.obj != some k })

/-- The cold-tier operations pending end with a code (R55, R306). -/
def failCold (s : State) : State :=
  let ios := s.store.cold.filter fun c => c.obj.isNone
  let s1 := { s with store.cold := s.store.cold.filter fun c => c.obj.isSome }
  let s2 := (ios.filterMap ColdOp.pkt).foldl (fun t p => complete p .eLowerTier 0 0 0 0 (pinIo p false t)) s1
  (s2.store.cold.filterMap ColdOp.obj).foldl (fun t k => failColdOp k .eLowerTier t) s2

/-! ### Firmware placement (R303) -/

/-- Ceiling of a context; the management context runs at P1 (R121). -/
def ceilingOf (s : State) (h : Nat) : Nat := if h = 0 then 1 else (ctxOf s h).quota.ceiling

/-- Auto objects without a move, by ceiling and then creation. -/
def autoObjs (s : State) (f : MemObj → Bool) : List Nat :=
  let mine := s.store.objs.filter fun e => !e.2.manual && !e.2.host && f e.2 && (moveOf s e.1).isNone
  let key := fun (e : Nat × MemObj) => ceilingOf s e.2.ctx * 2 ^ 64 + e.2.created
  (sortBy (fun a b => decide (key a ≤ key b)) mine).map Prod.fst

/-- Starts a firmware move. -/
def firmwareMove (k target : Nat) (s : State) : State :=
  serveMoves k { s with store.moves := s.store.moves ++ [{ obj := k, target := target }] }

/-- Demotes auto objects of a context whose state store quota lies below its use, the youngest first (DESIGN CHOICE, log 28). -/
def shrinkStore (h : Nat) (s : State) : State :=
  ((autoObjs s fun o => o.ctx == h && o.tier == 1).reverse).foldl (fun t k =>
    let leaving := tsum t.store.objs (fun j o => if o.ctx = h ∧ ((moveOf t j).map fun m => m.target == 0).getD false then o.store.length * 65536 else 0)
    if (ctxOf t h).quota.stateStore + leaving < storeCharged t h then firmwareMove k 0 t else t) s

/-- Promotes waiting object `k`, or makes room for it by demoting auto objects of lower ceilings, the lowest first. -/
def promoteAuto (k : Nat) (s : State) : State :=
  match tget s.store.objs k with
  | none => s
  | some o =>
    if !o.store.isEmpty then firmwareMove k 1 s
    else if o.ctx ≠ 0 ∧ (ctxOf s o.ctx).quota.stateStore < storeCharged s o.ctx + o.pages * 65536 then s
    else if o.pages * 65536 ≤ freeStore s then firmwareMove k 1 s
    else
      let low := (autoObjs s fun x => x.tier == 1 && decide (ceilingOf s o.ctx < ceilingOf s x.ctx)).reverse
      let sum := (low.map fun j => ((tget s.store.objs j).map fun x => x.store.length * 65536).getD 0).foldl (· + ·) 0
      if freeStore s + sum < o.pages * 65536 then s
      else
        (low.foldl (fun (acc : Nat × State) j =>
          if o.pages * 65536 ≤ freeStore acc.2 + acc.1 then acc
          else (acc.1 + ((tget acc.2.store.objs j).map fun x => x.store.length * 65536).getD 0, firmwareMove j 0 acc.2)) (0, s)).2

/-- The firmware's placement (R303): contexts over their quota shrink, then waiting objects at home in the state store are promoted in
order. -/
def placeAuto (s : State) : State :=
  let above := (tkeys s.ctxs).filter fun h => h != 0 && (ctxOf s h).quota.stateStore < storeCharged s h
  let s1 := above.foldl (fun t h => shrinkStore h t) s
  (autoObjs s1 fun o => o.home == 1 && o.tier != 1 && (o.ctx == 0 || ctxLive s1 o.ctx)).foldl (fun t k => promoteAuto k t) s1

end Sys2Proof.Machine
end

