-- ==== Sys2Proof/Machine/Retire.lean ====
section
/-! DEFINITION. Retiring a channel (R392–R399, R199, R202, R307, R351) and entering the safe state (R407). -/

namespace Sys2Proof.Machine

/-! ### The safe state (R407) -/

/-- Stops the leg that runs on gang `g` without an end: its panels need a scrub (R171), a stall that it was in has ended (R196), its run
waits, or ends where PLAN_STOP has named it (R190). -/
def stopLeg (g : Nat) (s : State) : State :=
  match gangOf s g with
  | none => s
  | some x =>
    match x.cur with
    | none => s
    | some c =>
      let s1 := if c.inside then scrubGang g s else endStall g c s
      takeStops c.run (modRun c.run (fun r => { r with state := .preempted })
        (modGang g (fun x => { x with cur := none, prefetched := none }) (unguard g (dropLocks g s1))))

/-- Entry of the safe state: SAFE_STATE high, every leg stopped, event outputs, I2S outputs and frame syncs inactive, kind 0x15
logged, which asserts SAFE_FAULT_N (R406, R407). -/
def enterSafe (s : State) : State :=
  if s.safe.safeState then s
  else
    let s1 := (tkeys s.sched.gangs).foldl (fun t g => stopLeg g t) s
    let s2 := { s1 with
      safe.safeState := true, safe.moveDone := false
      pins.safeState := s1.pins.safeState || !safetyHeld s1
      net.evs := tmap s1.net.evs fun _ e => { e with pulse := false }
      cams.ports := tmap s1.cams.ports fun _ c => { c with fsync := false } }
    logEvent 0x15 0 0 7 0xFFFF (deviceScore s2) 0 0 s2

/-! ### What retiring a channel does -/

/-- Marks a channel retired and logs it, kind 0x0A (R397). -/
def markRetired (ty ix action : Nat) (s : State) : State :=
  let s1 := { s with safe.chans := tmod s.safe.chans (chKey ty ix) fun c => { c with retired := true, due := false } }
  logEvent 0x0A ty ix action 0xFFFF (chanScore s1 ty ix) 0 0 s1

/-- Completes the SAFE_RETIRE packets that wait for a channel (R408). -/
def retireReplies (ty ix : Nat) (s : State) : State :=
  let ps := (chanOf s ty ix).retirePkts
  ps.foldl (fun t p => completeOk p 0 0 0 t)
    { s with safe.chans := tmod s.safe.chans (chKey ty ix) fun c => { c with retirePkts := [] } }

/-- The spare that takes the place of panel `n`: the lowest-numbered one of its quadrant, or else the lowest-numbered (R199). -/
def spareFor (s : State) (n : Nat) : Option Nat :=
  match (spares s).find? fun k => quadrant k == quadrant n with
  | some k => some k
  | none => (spares s).head?

/-- The runs of a gang that has no panel in service, and none to come, end with E_RETIRED (R189). -/
def emptyGang (g : Nat) (s : State) : State :=
  match gangOf s g with
  | none => s
  | some x =>
    if g ≠ 0 ∧ x.panels.isEmpty ∧ x.awaiting.isEmpty ∧ x.ready.isEmpty then
      endRuns (fun _ r => r.gang == g) .eRetired (failTiers (fun k _ => k == g) s)
    else s

/-- Asks for a spare in the place of panel `n` of gang `g`, the position of panel number `pos` in gang order: it powers up (R199). -/
def callSpare (g n pos : Nat) (s : State) : State :=
  match spareFor s n with
  | none => emptyGang g s
  | some k =>
    modPanel k (fun q => { q with state := .inGang, gang := g, powered := true, replaces := some n, place := some pos })
      (modGang g (fun x => { x with awaiting := x.awaiting ++ [(k, n, pos)] }) s)

/-- Retires panel `n` (R199): it leaves its gang or the free pool, stands in for no other panel any more (R207), and a spare is called for its
place. -/
def retirePanel (n : Nat) (s : State) : State :=
  let q := panelOf s n
  let g := q.gang
  let left := q.state == .inGang && (spareFor s n).isNone
  let s1 := markRetired 1 n (if left then 5 else 3) s
  let s2 := modPanel n (fun q => { q with state := .retired, gang := 0, powered := false, replaces := none }) s1
  if q.state == .inGang then
    let x := (gangOf s g).getD {}
    let pos := placeOf s n
    let keep := fun (e : Nat × Nat × Nat) => e.1 != n
    let s3 := modGang g (fun x =>
      { x with panels := x.panels.filter (· != n), awaiting := x.awaiting.filter keep, ready := x.ready.filter keep }) s2
    match (x.awaiting ++ x.ready).find? fun e => e.1 == n with
    | some (_, k, _) => callSpare g k pos s3
    | none => callSpare g n pos s3
  else s2

/-- Retires Kite (R202): its tier ballasts with cause 0x06, its runs end with E_RETIRED. -/
def retireKite (s : State) : State :=
  let s1 := failTiers (fun k _ => k == 0) s
  endRuns (fun _ r => r.gang == 0) .eRetired (markRetired 2 0 3 s1)

/-- The frames of the firmware region in channel `c`: its first 128, and those to which frames of another channel have migrated (R285, R307). -/
def fwIn (s : State) (c : Nat) : List Nat :=
  (List.range 128).map (fun i => (dramBase + c * 0x100000000) / 65536 + i)
    ++ (s.store.frames.filter fun e => e.2 == fwOwner && dramChannel (e.1 * 65536) == some c).map Prod.fst

/-- Starts the retirement of DRAM channel `c` for a packet or the firmware, or queues it behind the one that runs (R307). -/
def startRetire (c : Nat) (p : Option Pkt) (s : State) : State :=
  match s.store.retiring with
  | none =>
    { s with
      store.retiring := some { channel := c, pkts := p.toList, firmware := fwIn s c }
      store.channels := tmod s.store.channels c fun d => { d with state := 1 } }
  | some r =>
    if r.channel = c then { s with store.retiring := some { r with pkts := r.pkts ++ p.toList } }
    else { s with store.retireQueue := s.store.retireQueue ++ [(c, p)] }

/-- A camera port stops (R332): waits end with E_STATE, a CAM_STOP completes with the newest completed frame. -/
def stopCam (n : Nat) (s : State) : State :=
  let c := tgetD s.cams.ports n
  let newest := ((newestSlot c).map fun e => e.2.number).getD 0
  let s1 := modCam n (fun c =>
    { c with state := if c.state = 2 then 1 else c.state, frame := none, finishing := [], stop := [], waits := [] }) s
  let s2 := c.stop.foldl (fun t p => completeOk p (newest % 2 ^ 32) 0 0 t) s1
  c.waits.foldl (fun t (_, p) => complete p .eState 0 0 0 0 t) s2

/-- Retires a camera port (R392): it stops, its PWR_EN goes inactive; a retired presence port ends the tiers that presence or
motion raised. -/
def retireCam (n : Nat) (s : State) : State :=
  if n = 12 then
    failTiers (fun _ t => match t.lift with | some l => l.source == 0 && (l.reason == 2 || l.reason == 3) | none => false)
      (markRetired 4 12 3 s)
  else modCam n (fun c => { c with power := false, pwrEn := false }) (stopCam n (markRetired 4 n 3 s))

/-- Retires a PDM line (R351): with PDM_D0 and PDM_D1 both gone, the tiers that a keyword raised ballast. -/
def retirePdm (n : Nat) (s : State) : State :=
  let s1 := markRetired 5 n 3 s
  if chanRetired s1 5 0 && chanRetired s1 5 1 then
    failTiers (fun _ t => match t.lift with | some l => l.source == 0 && l.reason == 1 | none => false) s1
  else s1

/-- Closes the Stolp sessions of an Ethernet port and drops its handshakes (R99, R106). -/
def closePort (e : Nat) (s : State) : State :=
  { s with
    stolp.sessions := tkeep s.stolp.sessions fun _ q => q.port != e
    stolp.pending := tkeep s.stolp.pending fun _ q => q.port != e }

/-- Retires an Ethernet port (R392): its sessions close, those of Stolp and those with fleet members that the port reaches (R99, R378). -/
def retireEth (n : Nat) (s : State) : State :=
  let s1 := closePort n (markRetired 6 n 3 s)
  (s1.net.gws.filter fun e => egress s1 (num (memberOf s1 e.2.peer) 152 1) (slice (memberOf s1 e.2.peer) 136 16) == n).foldl
    (fun t e => gwDrop e.1 t) s1

/-- A hold begins, if none is in force: its time counts from now (R482). -/
def beginHold (s : State) : State := if held s then s else { s with link.heldFrom := s.time.now }

/-- The configuration space, the BAR assignments and the MSI-X table return to reset (R51, R481). -/
def resetConfigSpace (s : State) : State :=
  { s with
    link.bme := false
    link.mse := false
    link.pasid := false
    link.ats := false
    link.bar0 := 0
    link.bar2 := 0
    link.d3hot := false
    link.funcMask := false
    link.aer := 0
    link.msixTable := [] }

/-- The endpoint's link goes down (R51, R414). -/
def linkDown (s : State) : State :=
  if s.link.up then { s with link.up := false, link.speed := 0, link.width := 0, link.downSince := s.time.now } else s

/-- The endpoint loses its link: a link reset (R51, R52). -/
def hostDown (s : State) : State :=
  if s.link.up then linkDown { resetConfigSpace (beginHold s) with link.hold := .linkReset false, link.d3hold := false } else s

/-- Retires a PCIe lane group (R392): in X8 mode the endpoint retrains at ×4, with lane reversal on lanes 4–7, and without a group its link is
lost (R51, R52); in X4X4 mode group 1 ends the cold tier, and a root-port link that was up goes down (R70). -/
def retireLanes (n : Nat) (s : State) : State :=
  let s1 := markRetired 7 n 3 s
  if s.link.x4x4 then
    let s2 := { s1 with link.rpUp := false, link.rpSpeed := 0, link.rpWidth := 0, link.perst1Low := true }
    failCold (if s.link.rpUp then glbEvent 8 s2 else s2)
  else
    if !s.link.up then s1 else if chanRetired s 7 (1 - n) then hostDown s1 else { s1 with link.width := min s.link.width 4 }

/-- Retires a channel at once (R397), and completes the packets that waited for it. A DRAM channel starts its retirement; it
counts as retired once its frames have moved (R308). -/
def retireNow (ty ix : Nat) (s : State) : State :=
  if chanRetired s ty ix then s
  else match ty with
    | 1 => retireReplies 1 ix (retirePanel ix s)
    | 2 => retireReplies 2 ix (retireKite s)
    | 3 => if (tgetD s.store.channels ix).state = 0 && !(s.store.retireQueue.any fun e => e.1 == ix) then startRetire ix none s else s
    | 4 => retireReplies 4 ix (retireCam ix s)
    | 5 => retireReplies 5 ix (retirePdm ix s)
    | 6 => retireReplies 6 ix (retireEth ix s)
    | 7 => if s.link.x4x4 && ix = 0 then s else retireReplies 7 ix (retireLanes ix s)
    | _ => s

/-- Whether a leg or a transfer is in progress on a channel (R397). -/
def chanBusy (s : State) (ty ix : Nat) : Bool :=
  let runs := fun g => match (gangOf s g).bind Gang.cur with | some c => c.phase == .executing || c.attempt != 0 | none => false
  match ty with
  | 1 => (panelOf s ix).state == .inGang && runs (panelOf s ix).gang
  | 2 => runs 0
  | 4 => ix != 12 && (tgetD s.cams.ports ix).frame.isSome
  | 6 => (tgetD s.net.eths ix).up && !(tgetD s.net.eths ix).sending.isEmpty
  | _ => false

/-- Every channel that has reached the threshold, or that SAFE_RETIRE named, is retired once nothing is in progress on it
(R393, R397); none while the safety role is being taken over (R400). -/
def retireDue (s : State) : State :=
  if s.safe.takeover = some true then s
  else
    (tkeys s.safe.chans).foldl (fun t k =>
      let ty := k / 64
      let ix := k % 64
      if (chanOf t ty ix).due && !chanRetired t ty ix && !chanBusy t ty ix then retireNow ty ix t else t) s

/-- A SAFE_INJECT is served (R408): whether the checker reports, and after how long, are open values; nothing is scored, kind 0x13
is logged, and a checker that does not report retires its unit. -/
def serveInject (p : Pkt) (s : State) : State :=
  let ty := fld p 16 1
  let ix := fld p 17 1
  if chanRetired s ty ix then complete p .eRetired 0 0 0 0 s
  else
    let (a, s1) := takeFree s
    let (b, s2) := takeFree s1
    let ok := a % 2 == 1
    let s3 := logEvent 0x13 ty ix (if ok then 0 else 3) 0xFFFF (chanScore s2 ty ix) 0 0 s2
    completeOk p (b2n ok) b 0 (if ok then s3 else retireNow ty ix s3)

/-- The SAFE_INJECT packets whose unit has come to its leg boundary are served (R408). -/
def serveInjects (s : State) : State :=
  let busy := fun (p : Pkt) => chanBusy s (fld p 16 1) (fld p 17 1)
  (s.safe.injects.filter fun p => !busy p).foldl (fun t p => serveInject p t) { s with safe.injects := s.safe.injects.filter busy }

/-- What waits for the end of a leg or a transfer: retirements that are due, and SAFE_INJECT. -/
def settle (s : State) : State := serveInjects (retireDue s)

/-- As settle, where it may end work that a graceful CTX_CLOSE or a DEV_RESET waits for (R103, R134). -/
def settled (s : State) : State := workEnded (settle s)

end Sys2Proof.Machine
end

