-- ==== Sys2Proof/Machine/HostAttach.lean ====
section
/-! DEFINITION. The PCIe attachment (03): the register map of BAR0, the window of BAR2, doorbells, messages, link resets and
the holds of host-memory requests. -/

namespace Sys2Proof.Machine

/-! ### The global registers as read (R66–R72) -/

/-- GLB_STATUS (R68). During a reset SAFE_FAULT has its reset value 0 (R66), although the pin is low (R477; DEDUCED, log 50). -/
def glbStatus (s : State) : Nat :=
  b2n s.glb.ready + 2 * b2n (held s) + 4 * pCode s.power.state + 32 * b2n s.audio.pin + 64 * b2n s.cams.pin
    + 128 * b2n (s.boot.phase != .reset && s.pins.safeFaultLow) + 256 * b2n (s.boot.updStage != 0) + 512 * (s.boot.slot % 4)

/-- GLB_ID (R67). -/
def glbId : Nat := 0x03001000 + 16 * b2n Config.mem64 + b2n Config.gradeI

/-- GLB_LINK (R69). -/
def glbLink (s : State) : Nat :=
  (if s.link.up then s.link.speed % 8 + 16 * (s.link.width % 16) else 0) + 256 * b2n s.link.x4x4
    + (if s.link.x4x4 && s.link.rpUp then 512 * (s.link.rpSpeed % 8) + 4096 * (s.link.rpWidth % 16) + 65536 else 0)

/-- Two 16-bit counters as one register (R66). -/
def cntPair (t : Tbl (BitVec 16)) (k : Nat) : Nat := (tgetD t (2 * k)).toNat + 65536 * (tgetD t (2 * k + 1)).toNat

/-- DB_STATE of page `n` (R61). -/
def dbState (s : State) (n : Nat) : Nat :=
  if n = 0 then (if mringOn s then 0x101 else 0)
  else
    let c := ctxOf s n
    maskOf (tkeys c.queues) % 256 + 256 * b2n (ctxLive s n) + 512 * b2n (c.state == .sealed || c.wasSealed)
      + 1024 * b2n (c.state == .tornDown || c.state == .closing)

/-- Register of a doorbell page (R61). -/
def dbRead (s : State) (n off : Nat) : Nat :=
  let c := ctxOf s n
  if off < 0x20 then ((tget c.queues (off / 4)).map fun q => q.tail.toNat).getD 0
  else if off = 0x40 then c.ring.head.toNat
  else if off = 0x80 then dbState s n
  else if off = 0x84 then c.dbReject.toNat
  else 0

/-- The 32-bit register at BAR0 offset `off` as a read returns it; reserved offsets read 0 (R57, R66). -/
def regRead (s : State) (off : Nat) : Nat :=
  if 0x01000000 ≤ off ∧ off < 0x01201000 then dbRead s ((off - 0x01000000) / 4096) (off % 4096)
  else if 0x00800000 ≤ off ∧ off < 0x00804000 then (msixWord s ((off - 0x00800000) / 4)).toNat
  else if 0x00808000 ≤ off ∧ off < 0x00808080 then
    maskOf ((List.range 32).filter fun i => s.link.msixPending.contains ((off - 0x00808000) * 8 + i))
  else if 0x20 ≤ off ∧ off ≤ 0x30 then cntPair s.glb.evCnt ((off - 0x20) / 4)
  else if 0x34 ≤ off ∧ off ≤ 0x40 then cntPair s.glb.errCnt ((off - 0x34) / 4)
  else match off with
    | 0x00 => glbId
    | 0x04 => s.glb.fwver.toNat
    | 0x08 => glbStatus s
    | 0x0C => glbLink s
    | 0x10 => s.glb.event.toNat
    | 0x14 => s.glb.eventEn.toNat
    | 0x18 => s.glb.err.toNat
    | 0x1C => s.glb.errEn.toNat
    | 0x48 => s.time.now % 2 ^ 32
    | 0x4C => s.glb.timeHi.toNat
    | 0x50 => s.glb.winLo.toNat
    | 0x54 => s.glb.winHi.toNat
    | 0x60 => s.glb.mqLo.toNat
    | 0x64 => s.glb.mqHi.toNat
    | 0x68 => s.glb.msLo.toNat
    | 0x6C => s.glb.msHi.toNat
    | 0x70 => s.glb.mring.toNat
    | 0x78 => s.glb.scratch.toNat
    | _ => 0

/-! ### Holds of host-memory requests (R52, R53, R482) -/

/-- The lease of a transfer on host memory gains the time that it was held (R482). -/
def extendLease (s : State) (l : Lease) : Lease :=
  if leaseHost s l && l.limit != 0 then { l with limit := l.limit + (s.time.now - max s.link.heldFrom l.acquired) } else l

/-- A MEM_COLD_IO whose data go to host memory waits while such writes are held (R482). -/
def ioWaits (c : ColdOp) (s : State) : Bool :=
  match c.pkt with
  | some p => held s && fld p 17 1 == 0 && rangeHost s 0 (fld p 40 8) (ioBytes p)
  | none => false

/-- The action words of BRANCH that the hold kept from being read when their legs started are read (R195, R482). -/
def sampleBranches (s : State) : State :=
  let sample := fun (c : Cur) =>
    if c.sampled then c
    else match runOf s c.run with
      | some r => { c with sampled := true, branch := branchTaken s r (legOf (runPlan s r) r.counter) }
      | none => c
  { s with sched.gangs := tmap s.sched.gangs fun _ x => { x with cur := x.cur.map sample } }

/-- What was held goes on, once no hold is in force: what was kept is issued in its order, pending messages are sent, and waiting
operations continue; the time held is not counted against their leases and deadlines (R52, R53, R482). -/
def releaseHold (s : State) : State :=
  let s1 := { s with
    link.held := []
    sched.leases := tmap s.sched.leases fun _ l => extendLease s l
    store.cold := s.store.cold.map fun c => if ioWaits c s then { c with deadline := c.deadline + (s.time.now - s.link.heldFrom) } else c
    cmd.flights := s.cmd.flights.map fun f => { f with hostWait := false } }
  boundaries (afterBound (sampleBranches (serveStrm (serveKv (sendPending (s.link.held.foldl (fun t o => perform o t) s1))))))

/-- Ends each hold whose conditions are met: that of a link reset once Bus Master Enable is set again and RESUME was written (R52), that of
D3hot once the function is in D0 with Bus Master Enable set (R53). -/
def settleHold (s : State) : State :=
  let s1 := { s with
    link.hold := if s.link.hold = .linkReset true ∧ s.link.bme then .none else s.link.hold
    link.d3hold := s.link.d3hold && (s.link.d3hot || !s.link.bme) }
  if held s && !held s1 then releaseHold s1 else s1

/-- A packet of the management context that waits at a host-memory request ends with E_TRANSIENT, without a status entry
(R482). -/
def endHeld (p : Pkt) (s : State) : State :=
  landFlight p false (recordTag p (mkReply p .eTransient 0 0 0 0 s) false s)

/-- ABANDON tears down a tenant context with cause 0x07; one that closes gracefully is torn down at once (R52; DEDUCED against R133, log 50). -/
def abandonCtx (h : Nat) (s : State) : State :=
  if (ctxOf s h).state = .closing ∧ (ctxOf s h).cause = 0 then closeWith 7 h s else ripcord h 7 s

/-- Whether run `r` waits at a held host-memory request: at its step record, or inside or before its leg (R482). -/
def runWaits (s : State) (k : Nat) (r : Run) : Bool :=
  match (gangOf s r.gang).bind Gang.cur with
  | some c => if c.run = k then legWaits s r else r.stepDue && stepHeld s r
  | none => r.stepDue && stepHeld s r

/-- The runs of the management context that wait at a held host-memory request end with E_TRANSIENT; the entries of their status replies are
held, and go with the rest (R482). -/
def abandonRuns (s : State) : State :=
  ((s.sched.runs.filter fun e => e.2.ctx == 0 && runWaits s e.1 e.2).map Prod.fst).foldl (fun t k => endRun k .eTransient false t) s

/-- The commands of the management context that are queued behind a step and wait, the step over, at a write to host memory (R254, R268, R482). -/
def queuedWaits (s : State) : List Pkt :=
  ((s.models.kvQueue.filter fun e => e.2.ctx == 0 && ((tget s.models.seqs e.1).map fun q => q.claimed.isNone).getD true).map Prod.snd)
    ++ (s.models.strmQueue.filter fun e => e.2.ctx == 0 && ((tget s.models.streams e.1).map fun q => q.claimed.isNone).getD true).map Prod.snd

/-- ABANDON (R52, R482): every tenant context is torn down with cause 0x07, what was held is discarded, waiting commands of
the management context end silently, the management ring is disabled, and the hold of the link reset ends. -/
def abandonHold (s : State) : State :=
  let hs := (tkeys s.ctxs).filter fun h => h != 0
  let s1 := abandonRuns (hs.foldl (fun t h => abandonCtx h t) s)
  let ds := s1.store.dma.filter fun e => e.2.ctx == 0 && dmaHost s1 e.2
  let s2 := ds.foldl (fun t (c, d) =>
    endHeld d.pkt (undefineDest d (dropDma c t))) s1
  let ws := s2.cmd.flights.filter fun f => f.hostWait && f.pkt.ctx == 0
  let io := fun (c : ColdOp) => ws.any fun f => c.pkt == some f.pkt
  let s3 := (s2.store.cold.filter io).foldl (fun t c => (c.pkt.map fun p => pinIo p false t).getD t)
    ((ws.map Flight.pkt ++ queuedWaits s2).foldl (fun t p => unlist p (endHeld p t)) s2)
  let s3 := { s3 with store.cold := s3.store.cold.filter fun c => !io c }
  let s4 := { s3 with
    link.hold := .none
    link.held := []
    glb.mring := s3.glb.mring &&& 0x7FFFFFFF }
  workEnded (boundaries (afterBound (settleTiers (sendPending s4))))

/-- A write of 1 to RESUME (R52). -/
def writeResume (s : State) : State :=
  match s.link.hold with
  | .linkReset _ => settleHold { s with link.hold := .linkReset true }
  | .none => s

/-- A write of 1 to ABANDON (R52). -/
def writeAbandon (s : State) : State :=
  match s.link.hold with
  | .linkReset _ => abandonHold s
  | .none => s

/-! ### Register writes -/

/-- A write to GLB_MRING_CFG (R72, R83). While ENABLE is 1 the size fields are ignored, so that no size sets the error of R71; an
enable that is rejected leaves its size fields in the register with ENABLE 0 (DESIGN CHOICE, log 50). -/
def writeMring (v : Nat) (s : State) : State :=
  let w : Word := BitVec.ofNat 32 v &&& 0x1F1F
  let sq := v % 32
  let sr := v / 256 % 32
  if mringOn s then
    (if v.testBit 31 then s else { s with glb.mring := s.glb.mring &&& 0x7FFFFFFF })
  else if !v.testBit 31 then { s with glb.mring := w }
  else if sq < 8 ∨ 16 < sq ∨ sr < 7 ∨ 15 < sr then glbErr 6 { s with glb.mring := w }
  else
    let q : Queue := { level := 1, base := s.glb.mqLo.toNat + 2 ^ 32 * s.glb.mqHi.toNat, log2 := sq }
    let g : Ring := { base := s.glb.msLo.toNat + 2 ^ 32 * s.glb.msHi.toNat, log2 := sr }
    modCtx 0 (fun c => { c with queues := [(0, q)], ring := g })
      { s with glb.mring := w ||| 0x80000000, cmd.ringFailed := false }

/-- A W1C write to GLB_EVENT (R73): an event of a hardware set in the same cycle, named by `sets`, stays set. -/
def clearEvent (v sets : Nat) (s : State) : State :=
  let s1 := { s with glb.event := s.glb.event &&& ~~~(BitVec.ofNat 32 v) }
  (bitsOf 10 sets).foldl (fun t k => glbEvent k t) s1

/-- A W1C write to GLB_ERR (R73). -/
def clearErr (v sets : Nat) (s : State) : State :=
  let s1 := { s with glb.err := s.glb.err &&& ~~~(BitVec.ofNat 32 v) }
  (bitsOf 8 sets).foldl (fun t k => glbErr k t) s1

/-- A rejected doorbell write (R62). -/
def rejectDoorbell (n : Nat) (s : State) : State := glbEvent 7 (modCtx n (fun c => { c with dbReject := c.dbReject + 1 }) s)

/-- Whether doorbell page `n` accepts writes: its context is open, the management ring enabled (R61, R62). -/
def pageOpen (s : State) (n : Nat) : Bool := if n = 0 then mringOn s else ctxLive s n

/-- A write of a submission tail count (R62). An accepted one of the management ring lets a failed fetch be tried again (R65). -/
def writeTail (n q v : Nat) (s : State) : State :=
  let c := ctxOf s n
  match tget c.queues q with
  | none => rejectDoorbell n s
  | some x =>
    let d : Word := BitVec.ofNat 32 v - x.tail
    if !pageOpen s n || d.msb || 2 ^ x.log2 < d.toNat then rejectDoorbell n s
    else modCtx n (fun c => { c with queues := tput c.queues q { x with tail := BitVec.ofNat 32 v } })
      { s with cmd.ringFailed := s.cmd.ringFailed && n != 0 }

/-- The status entries of context `h` that wait in a hold: they are not written yet (R52). -/
def heldEntries (s : State) (h : Nat) : Nat :=
  (s.link.held.filter fun o => match o with | .status k _ _ _ => k == h | _ => false).length

/-- A write of the status head count (R62). -/
def writeHead (n v : Nat) (s : State) : State :=
  let r := (ctxOf s n).ring
  let w : Word := BitVec.ofNat 32 v
  if !pageOpen s n || (w - r.head).msb || (r.written - BitVec.ofNat 32 (heldEntries s n) - w).msb then rejectDoorbell n s
  else modCtx n (fun c => { c with ring.head := w }) s

/-- A 32-bit write at an aligned BAR0 offset (R57, R66): a register with behaviour of its own acts; a read-only or reserved
one ignores it. -/
def regWrite (off v : Nat) (s : State) : State :=
  let w : Word := BitVec.ofNat 32 v
  let on := mringOn s
  if 0x01000000 ≤ off ∧ off < 0x01201000 then
    let n := (off - 0x01000000) / 4096
    let o := off % 4096
    if o < 0x20 then writeTail n (o / 4) v s else if o = 0x40 then writeHead n v s else s
  else if 0x00800000 ≤ off ∧ off < 0x00804000 then
    let i := (off - 0x00800000) / 4
    sendPending { s with link.msixTable := tput s.link.msixTable i (if i % 4 = 3 then w &&& 1 else w) }
  else match off with
    | 0x10 => clearEvent (v % 2 ^ 32) 0 s
    | 0x14 => { s with glb.eventEn := w &&& 0x3FF }
    | 0x18 => clearErr (v % 2 ^ 32) 0 s
    | 0x1C => { s with glb.errEn := w &&& 0xFF }
    | 0x50 => { s with glb.winLo := w &&& 0xFFFF0000 }
    | 0x54 => { s with glb.winHi := w &&& 0xFF }
    | 0x60 => if on then s else { s with glb.mqLo := w &&& 0xFFFFF000 }
    | 0x64 => if on then s else { s with glb.mqHi := w }
    | 0x68 => if on then s else { s with glb.msLo := w &&& 0xFFFFF000 }
    | 0x6C => if on then s else { s with glb.msHi := w }
    | 0x70 => writeMring (v % 2 ^ 32) s
    | 0x74 => if v.testBit 1 then writeAbandon s else if v.testBit 0 then writeResume s else s
    | 0x78 => { s with glb.scratch := w }
    | _ => s

/-- An access of the host through BAR0 or BAR2: it reaches the function while Memory Space Enable is set, which a reset of the
configuration space clears (R51, R481). -/
def barAccess (s : State) (act : State → State) : Res := .next (if s.link.mse then act s else s)

/-- BAR0_UNSUPPORTED_ACCESS: a read returns 0, a write is ignored, and GLB_ERR.ACCESS is set (R57). The read's bytes are
those of the smallest access (one). -/
def execBar0UnsupportedAccess (write : Bool) (s : State) : Res :=
  barAccess s fun s => glbErr 0 (if write then s else { s with out := s.out ++ [.completion [0] false] })

/-- REGISTER_WRITE at BAR0 offset `off` of `width` bytes: 32-bit and 64-bit aligned accesses act, the lower offset first
(R57, R58); any other width or alignment falls under R57; an offset beyond BAR0 is no access to it. -/
def execRegisterWrite (off width value : Nat) (s : State) : Res :=
  barAccess s fun s =>
    if 0x02000000 ≤ off then s
    else if width = 4 ∧ off % 4 = 0 then regWrite off (value % 2 ^ 32) s
    else if width = 8 ∧ off % 8 = 0 then regWrite (off + 4) (value / 2 ^ 32 % 2 ^ 32) (regWrite off (value % 2 ^ 32) s)
    else glbErr 0 s

/-- GLB_TIME_LO_READ: a read of 32 bits, or of 64 bits at 0x0048; it latches the upper half of working time (R58, R66). -/
def execGlbTimeLoRead (wide : Bool) (s : State) : Res :=
  barAccess s fun s => { s with
    glb.timeHi := BitVec.ofNat 32 (s.time.now / 2 ^ 32 % 2 ^ 32)
    out := s.out ++ [.completion (toLE (if wide then 8 else 4) s.time.now) false] }

/-- GLB_EVENT_CLEAR: a W1C write of `value` that meets hardware sets of the bits of `hwSets` in its cycle (R73). -/
def execGlbEventClear (value hwSets : Nat) (s : State) : Res := barAccess s (clearEvent value hwSets)

/-- GLB_ERR_CLEAR (R73). -/
def execGlbErrClear (value hwSets : Nat) (s : State) : Res := barAccess s (clearErr value hwSets)

/-- RESUME: GLB_HOST_CTRL.RESUME is written as 1 (R52). -/
def execResume (s : State) : Res := barAccess s writeResume

/-- ABANDON: GLB_HOST_CTRL.ABANDON is written as 1 (R52). -/
def execAbandon (s : State) : Res := barAccess s writeAbandon

/-- MGMT_RING_ENABLE: GLB_MRING_CFG is written with ENABLE 1 (R72, R83). -/
def execMgmtRingEnable (value : Nat) (s : State) : Res := barAccess s (writeMring (value % 2 ^ 31 + 2 ^ 31))

/-- MGMT_RING_DISABLE: GLB_MRING_CFG is written with ENABLE 0 (R72). -/
def execMgmtRingDisable (value : Nat) (s : State) : Res := barAccess s (writeMring (value % 2 ^ 31))

/-- DB_SQ_WRITE: queue `queue` of doorbell page `page`; a page or queue without a register is reserved and ignored (R57,
R61, R62). -/
def execDbSqWrite (page queue value : Nat) (s : State) : Res :=
  barAccess s fun s => if 512 < page ∨ 7 < queue then s else writeTail page queue value s

/-- DB_SR_WRITE (R62). -/
def execDbSrWrite (page value : Nat) (s : State) : Res :=
  barAccess s fun s => if 512 < page then s else writeHead page value s

/-! ### BAR2 (R60, R118) -/

/-- The case of R60 that a physical byte falls under. -/
inductive WinCase where
  | plain | isSealed | outside | failed
  deriving DecidableEq, Repr

/-- Whether physical byte `a` lies in memory of a sealed context (R60, R118); a torn-down sealed context keeps the seal until
its frames are scrubbed. -/
def byteSealed (s : State) (a : Nat) : Bool :=
  let owner := match tget s.store.frames (a / 65536) with
    | some h => some h
    | none => if a < storeBytes then tget s.store.regions (a / 4096) else none
  match owner with
  | some h => h != 0 && ((ctxOf s h).state == .sealed || (ctxOf s h).wasSealed)
  | none => false

/-- Case of physical byte `a`. -/
def winCase (s : State) (a : Nat) : WinCase :=
  if !windowUsable s a then .outside
  else if byteSealed s a then .isSealed
  else if wordBad s a then .failed
  else .plain

/-- GLB_WIN_BASE (R60, R66). -/
def winBase (s : State) : Nat := s.glb.winLo.toNat + 2 ^ 32 * (s.glb.winHi.toNat % 256)

/-- Sets each GLB_ERR bit whose case occurs, once for the access (R60). -/
def winErrs (cs : List WinCase) (s : State) : State :=
  let s1 := if cs.contains .isSealed then glbErr 1 s else s
  let s2 := if cs.contains .outside then glbErr 2 s1 else s1
  if cs.contains .failed then glbErr 3 s2 else s2

/-- The first reserved address among those of an access is reported to the safety pair (R284). -/
def winReserved (as : List Nat) (s : State) : State := ((as.find? addrReserved).map fun a => addressFault a 0xFFFF s).getD s

/-- The failed and the corrected words that an access consumes are charged to their channels (R297, R405). -/
def winCharge (bad cor : List Nat) (s : State) : State :=
  correctedWords cor (bad.foldl (fun t w => wordEvent w 0 t) s)

/-- Physical addresses of the bytes of an access of BAR2. -/
def winBytes (s : State) (off n : Nat) : List Nat := (List.range n).map fun i => winBase s + off + i

/-- BAR2_READ of `size` bytes at offset `off` (R60): sealed and unusable bytes read 0xFF; a failed word poisons the whole
completion, and its bytes are free values. -/
def execBar2Read (off size : Nat) (s : State) : Res :=
  barAccess s fun s =>
    if 0x40000000 < off + size then s else
    let as := winBytes s off size
    let cs := as.map (winCase s)
    let data := as.map fun a => match winCase s a with
      | .plain => memGet s.store.mem a
      | .failed => Config.freeByte (s.freeCtr + a)
      | _ => 0xFF
    let bad := distinct ((as.filter fun a => winCase s a == .failed).map (· / 16))
    let cor := distinct ((as.filter fun a => winCase s a == .plain && wordAt s a == .corrected).map (· / 16))
    let s1 := winCharge bad cor { s with out := s.out ++ [.completion data (!bad.isEmpty)], freeCtr := s.freeCtr + 1 }
    settle (winReserved as (winErrs cs s1))

/-- BAR2_WRITE (R60): sealed and unusable bytes are discarded; a write of part of a failed word is discarded for that word,
a write of the whole word makes it good. -/
def execBar2Write (off : Nat) (data : List Byte) (s : State) : Res :=
  barAccess s fun s =>
    if 0x40000000 < off + data.length then s else
    let as := winBytes s off data.length
    let base := winBase s + off
    let case := fun a =>
      let c := winCase s a
      if c == .failed && wordCovered base data.length a then .plain else c
    let cs := as.map case
    let bad := distinct ((as.filter fun a => case a == .failed).map (· / 16))
    let cor := distinct ((as.filter fun a => case a == .plain && wordAt s a == .corrected
      && !wordCovered base data.length a).map (· / 16))
    let good := as.filter fun a => case a == .plain
    let mem := good.foldl (fun m a => memSet m a (data.getD (a - base) 0)) s.store.mem
    let done := distinct (good.map (· / 16))
    let s1 := { s with store.mem := mem, store.words := tkeep s.store.words fun w _ => !done.contains w }
    settle (winReserved as (winErrs cs (winCharge bad cor s1)))

/-! ### Messages, links and D-states -/

/-- Whether the start has come past step `n`. -/
def startPast (s : State) (n : Nat) : Bool :=
  match s.boot.phase with | .step k => decide (n < k) | .ready => true | .hostWait => decide (n < 5) | .reset => false

/-- Whether configuration requests are answered: with the link up, once step 0x09 has passed; before, they receive Configuration Request
Retry Status (R477, R481). A host that boots the device writes its image through BAR2 before, while boot ROM waits for it (R432; DEDUCED,
log 50). -/
def cfgAnswers (s : State) : Bool := s.link.up && (startPast s 9 || s.boot.phase == .hostWait)

/-- MSIX_ENTRY_UNMASK: the host unmasks one entry of the table in BAR0, or the function in configuration space; pending messages are sent
(R64). -/
def execMsixEntryUnmask (vector : Option Nat) (s : State) : Res :=
  match vector with
  | none => .next (if cfgAnswers s then sendPending { s with link.funcMask := false } else s)
  | some v => barAccess s fun s =>
    if 1023 < v then s
    else sendPending { s with link.msixTable := tput s.link.msixTable (4 * v + 3) (msixWord s (4 * v + 3) &&& 0xFFFFFFFE) }

/-- The endpoint's link trains (R49, R50, R477): at a speed and a width that the other end settles with it, open values within the
modes of R49 and R69. A retired lane group leaves four lanes (R392). -/
def trainLink (s : State) : State :=
  let (a, s1) := takeFree s
  let (b, s2) := takeFree s1
  let lanes := if s.link.x4x4 || chanRetired s 7 0 || chanRetired s 7 1 then 3 else 4
  { s2 with link.up := true, link.speed := 1 + a % 5, link.width := 2 ^ (b % lanes) }

/-- In X8 mode the endpoint reverses its lanes where lanes 4–7 alone remain (R392). -/
def laneReversal (s : State) : Bool := !s.link.x4x4 && chanRetired s 7 0 && !chanRetired s 7 1

/-- Whether the endpoint trains now: boot ROM has read LINK_MODE (step 0x03), PE_PERST0_N is high, the link is down, step 0x09 has not left
the endpoint out of service, and a lane group is in service (R49, R392, R419, R434, R477). -/
def linkTrains (s : State) : Bool :=
  !s.link.perst0 && !s.link.up && startPast s 3 && !s.boot.missing.contains 9 && !(chanRetired s 7 0 && (s.link.x4x4 || chanRetired s 7 1))

/-- Header of an extended capability: its ID, its version, the next one's offset. -/
def extCap (id ver next : Nat) : Nat := id + ver * 2 ^ 16 + next * 2 ^ 20

/-- The capability structures of the function and what R50, R51, R53 and R57 say of their contents: Power Management with No_Soft_Reset and
without PME, MSI-X with 1,024 entries, PCI Express with payload 512, read request 4,096, 10-bit tags, ASPM L1 and 32 GT/s; and the extended
capabilities AER, PASID (20 bits), ATS (depth 32), LTR, L1 PM Substates, Secondary PCI Express, Data Link Feature, Physical Layer 16.0 and
32.0 GT/s and Lane Margining. Their layouts are those of the PCI Express Base Specification (PRESUMED, log 50); their offsets are a choice
(DESIGN CHOICE, log 50); a word whose contents R50 leaves open is not listed. -/
def capWords (s : State) : List (Nat × Nat) := [
  (0x34, 0x40),
  (0x40, 0x00035001), (0x44, 8 + (if s.link.d3hot then 3 else 0)),
  (0x54, 0x00800000), (0x58, 0x00808000),
  (0x60, 0x00020010), (0x64, 0x10008002), (0x6C, (if s.link.x4x4 then 0x00400845 else 0x00400885)),
  (0x70, 2 ^ 16 * (s.link.speed + 16 * s.link.width)), (0x84, 0x00030800), (0x8C, 0x3E),
  (0x100, extCap 0x0001 2 0x150), (0x104, s.link.aer),
  (0x150, extCap 0x001B 1 0x160), (0x154, 20 * 2 ^ 8 + 2 ^ 16 * b2n s.link.pasid),
  (0x160, extCap 0x000F 1 0x170), (0x164, 2 ^ 31 * b2n s.link.ats),
  (0x170, extCap 0x0018 1 0x180),
  (0x180, extCap 0x001E 1 0x190), (0x184, 0x1F),
  (0x190, extCap 0x0019 1 0x1B0),
  (0x1B0, extCap 0x0025 1 0x1C0),
  (0x1C0, extCap 0x0026 1 0x1F0),
  (0x1F0, extCap 0x002A 1 0x220),
  (0x220, extCap 0x0027 1 0)]

/-- The most bytes of the payload of one of the RY3's requests, the most bytes that one read requests, and the most non-posted requests that it
has outstanding (R50). A request issues and ends within one step of this model, so none of the three is ever reached. -/
def maxPayload : Nat := 512
/-- Max read request size (R50). -/
def maxReadRequest : Nat := 4096
/-- Outstanding non-posted requests (R50). -/
def maxTags : Nat := 768

/-- A 32-bit register of the configuration space, where this spec gives its contents: the identity of R50, the enables of R51 and R481,
the BARs of R56 and the capabilities. The layout of those registers is that of the PCI Express Base Specification (PRESUMED, log 50). -/
def cfgWord (s : State) (off : Nat) : Option Nat :=
  match off with
  | 0x00 => some (0x03001F9A)
  | 0x04 => some (2 * b2n s.link.mse + 4 * b2n s.link.bme)
  | 0x08 => some (0x12000000 + glbId / 256 % 256)
  | 0x10 => some (s.link.bar0 % 2 ^ 32 + 0x4)
  | 0x14 => some (s.link.bar0 / 2 ^ 32)
  | 0x18 => some (s.link.bar2 % 2 ^ 32 + 0xC)
  | 0x1C => some (s.link.bar2 / 2 ^ 32)
  | 0x20 => some 0
  | 0x24 => some 0
  | _ => tget (capWords s) off

/-- The link trains where it can, in Run and Trim (R412). -/
def tryTrain (s : State) : State := if linkTrains s && (s.power.state == .run || s.power.state == .trim) then trainLink s else s

/-- LINK_RESET (R51, R52): the configuration space and the MSI-X table are reset, host-memory requests are held. PE_PERST0_N
and a loss of link take the link down; a hot reset and a Function Level Reset leave it trained. -/
def execLinkReset (kind : LinkReset) (s : State) : Res :=
  let s1 := { resetConfigSpace (beginHold s) with link.hold := .linkReset false, link.d3hold := false }
  match kind with
  | .perst => .next (linkDown { s1 with link.perst0 := true })
  | .linkLoss => .next (linkDown s1)
  | .hotReset => .next s1
  | .flr => .next s1

/-- D3HOT_ENTRY (R53): host-memory requests and messages are held; a link reset's hold stays in force beside it. The host writes the
configuration space, which answers only once start step 0x09 has passed (R481). -/
def execD3hotEntry (s : State) : Res :=
  .next (if cfgAnswers s then { beginHold s with link.d3hot := true, link.d3hold := true } else s)

/-- D0_RESUME (R53): the function is in D0 again, with Bus Master Enable set or not. -/
def execD0Resume (busMaster : Bool) (s : State) : Res :=
  if !s.link.d3hot || !cfgAnswers s then .next s
  else .next (settleHold { s with link.d3hot := false, link.bme := busMaster })

/-- BUS_MASTER_ENABLE_SET (R52, R53): the host restores the configuration space: Bus Master Enable, and with it Memory Space Enable, the
PASID capability, ATS and the BARs; a write that leaves Bus Master Enable alone restores the others only (DESIGN CHOICE, log 16: the table
has no row of its own for them). A link that was lost has trained again before the host can write; a request that is not answered changes
nothing. -/
def execBusMasterEnableSet (s : State) (w : CfgWrite := {}) : Res :=
  let t := tryTrain s
  if !cfgAnswers t then .next t
  else .next (settleHold { t with
    link.bme := t.link.bme || w.busMaster
    link.mse := true
    link.pasid := t.link.pasid || w.pasid
    link.ats := t.link.ats || w.ats
    link.bar0 := w.bar0 / 2 ^ 25 * 2 ^ 25
    link.bar2 := w.bar2 / 2 ^ 30 * 2 ^ 30 })

/-- ATS_INVALIDATION (R65): it completes once no request uses the translation; requests issue within one step of this model,
so it completes at once. -/
def execAtsInvalidation (ctx page : Nat) (s : State) : Res :=
  if 512 < ctx then .fault .noSuchUnit else .next { s with out := s.out ++ [.atsDone ctx page] }

/-- The flag of a failed read (R65, R71). -/
def readFailFlag (k : ReadFail) : Nat := match k with | .timeout => 5 | _ => 4

/-- What a failed host read of the RY3 leaves in GLB_ERR and, for a completion that never came, in the AER status (R50, R65, R71). -/
def readFailed (k : ReadFail) (s : State) : State :=
  glbErr (readFailFlag k) (if k = .timeout then { s with link.aer := s.link.aer ||| 2 ^ 14 } else s)

/-- HOST_READ_FAILURE (R65): a tenant context is torn down with cause 0x02; a management command ends with E_TRANSIENT and
the device memory that it was writing holds undefined data, a failed leg of the management context, on the gang named, ends its run so; a failed
read of ring units leaves them unfetched until the next accepted write of DB_SQ0. GLB_ERR.HOST_DMA or CPL_TIMEOUT is set (R71). -/
def execHostReadFailure (ctx : Nat) (kind : ReadFail) (what : ReadFor) (s : State) : Res :=
  if 512 < ctx ∨ (match what with | .leg g => g | _ => 0) > 16 then .fault .noSuchUnit
  else if ctx ≠ 0 ∧ (ctxOf s ctx).state = .closed then .next s
  else if ctx ≠ 0 then .next (workEnded (ripcord ctx 2 (readFailed kind s)))
  else
    let s1 := readFailed kind s
    match what with
    | .ringUnits => .next { s1 with cmd.ringFailed := true }
    | .leg g =>
      match (gangOf s1 g).bind Gang.cur with
      | some c =>
        if ((runOf s1 c.run).map fun r => r.ctx == 0).getD false then .next (workEnded (finishRun c.run .eTransient false s1)) else .next s1
      | none => .next s1
    | .command tag =>
      match s1.store.dma.find? fun e => e.2.ctx == 0 && pTag e.2.pkt == tag with
      | some (c, d) =>
        .next (workEnded (complete d.pkt .eTransient 0 0 0 0
          (undefineDest d (dropDma c s1))))
      | none =>
        match (inFlight s1 0).find? fun f => pTag f.pkt == tag with
        | some f => .next (workEnded (stopCommand f.pkt s1))
        | none => .next s1

/-! ### The root port (R54, R55) -/

/-- ROOT_PORT_LINK_DOWN (R55, R393): GLB_EVENT.RP_LINK, pending cold-tier requests end, the lane group is charged. -/
def execRootPortLinkDown (s : State) : Res :=
  if !s.link.rpUp then .next s
  else
    let s1 := failCold (glbEvent 8 { s with link.rpUp := false, link.rpSpeed := 0, link.rpWidth := 0 })
    .next (workEnded (settle (chanEvent 0x09 7 1 0 0xFFFF s1.safe.cfg.wLoss 0 0 s1)))

/-- ROOT_PORT_RETRAIN (R55, R69, R70): once per second while the root port is down, the firmware retrains it; it comes up with
the speed and width that it finds, or stays down. The port is in service from start step 0x0A on, and PE_PERST1_N stays low for 100 ms
(R54, R433, R481). -/
def execRootPortRetrain (up : Bool) (speed width : Nat) (s : State) : Res :=
  if !s.link.x4x4 || s.link.rpUp || chanRetired s 7 1 || !startPast s 0x0A || s.boot.missing.contains 0x0A || !up then .next s
  else .next (glbEvent 8 { elapseTo 100000000 s with link.rpUp := true, link.rpSpeed := speed, link.rpWidth := width, link.perst1Low := false })

end Sys2Proof.Machine
end

