-- ==== Sys2Proof/Machine/Stolp.lean ====
section
/-! DEFINITION. The Stolp command protocol (04): fetch, dispatch, the Ethernet transport and the 0x00xx commands. -/

namespace Sys2Proof.Machine

/-! ### Fetch (R81 checks 1 to 5, R82, R85, R90, R91) -/

/-- Whether packets form a chain (R91): each but the last has CHAIN set, all of one queue. -/
def chainShape (ps : List Pkt) : Bool :=
  match ps with
  | [] => true
  | [p] => !pChain p
  | p :: q :: t => pChain p && p.ctx == q.ctx && p.queue == q.queue && chainShape (q :: t)

/-- Whether a chain breaks the rules of R91. -/
def chainBad (ps : List Pkt) : Bool :=
  16 < ps.length || (ps.drop 1).any fun p => pFence p || pDep p != 0

/-- The fetch checks of R81 in order: `bad` says that its chain breaks the rules, `taken` that another packet of its session holds its tag
(R98). The second part says that the packet only repeats a tag (R90). -/
def fetchFail (s : State) (bad taken : Bool) (p : Pkt) : Option (Fail × Bool) :=
  match hdrFail p with
  | some f => some (f, false)
  | none =>
    if p.queue = 8 && p.ctx ≠ 0 && !ctxLive s p.ctx then some ({ code := .eHandle, off := 8 }, false)
    else if taken || (inFlight s p.ctx).any (fun f => pTag f.pkt == pTag p) then some ({ code := .eOrder, off := 4 }, true)
    else if bad then some ({ code := .eOrder, off := 3 }, false)
    else none

/-- Ends a packet that failed at fetch (R81, R102); one that repeats a tag in flight does not enter the tag record (R90). A
packet for a context that is Closed is answered and leaves no trace. -/
def endAtFetch (p : Pkt) (f : Fail) (dup : Bool) (s : State) : State :=
  let r := mkReply p f.code 0 0 0 0 s
  if p.ctx ≠ 0 ∧ (ctxOf s p.ctx).state = .closed then deliver p r s
  else if dup then deliver p r (recordTag p r true (logReject p f s))
  else reject p f 0 s

/-- Counts a fetched packet: for its context, its queue's units, its session (R82, R97, R100). -/
def countFetch (p : Pkt) (s : State) : State :=
  let s1 := if p.ctx ≠ 0 ∧ (ctxOf s p.ctx).state = .closed then s else
    modCtx p.ctx (fun c =>
      { c with
        accepted := c.accepted + 1
        queues := if p.queue < 8 then tupd c.queues p.queue fun q => { q with fetched := q.fetched + BitVec.ofNat 32 (pLen p) } else c.queues }) s
  { s1 with
    cmd.nextOrder := s1.cmd.nextOrder + 1
    stolp.sessions := if p.queue = 8 then tupd s1.stolp.sessions p.session fun q => { q with accepted := q.accepted + 1 } else s1.stolp.sessions }

/-- Fetches one packet, the member after `prev` of its chain: it fails at once, or it is in flight. -/
def fetchOne (bad taken : Bool) (acc : Option Nat × State) (p : Pkt) : Option Nat × State :=
  let s := acc.2
  let o := s.cmd.nextOrder
  match fetchFail s bad taken p with
  | some (f, dup) =>
    let s1 := countFetch p s
    let s2 := if pChain p then { s1 with cmd.chainFailed := s1.cmd.chainFailed ++ [o] } else s1
    (some o, endAtFetch p f dup s2)
  | none =>
    let fl : Flight := { pkt := p, order := o, chainPrev := acc.1 }
    let s1 := countFetch p s
    (some o, { s1 with cmd.flights := s1.cmd.flights ++ [fl] })

/-- Fetches a packet or a whole chain; `bad` says that the chain breaks the rules (R91). -/
def fetchAll (bad : Bool) (ps : List Pkt) (s : State) : State := (ps.foldl (fetchOne bad false) (none, s)).2

/-- Fetches the packets of a chain that breaks the rules, each of which fails at once, while a status slot is free for the next (R85, R91);
the rest of the chain is rejected when its turn comes. -/
def fetchBad : List Pkt → State → State
  | [], s => s
  | p :: t, s =>
    if flightRoom s p.ctx 1 then
      fetchBad t (modCtx p.ctx (fun c => { c with queues := tupd c.queues p.queue fun q => { q with badChain := pChain p } }) (fetchAll true [p] s))
    else modCtx p.ctx (fun c => { c with pauses := c.pauses + 1 }) s

/-- A packet with exactly the units that its length field gives. -/
def ringPkt (p : Pkt) : Pkt := { p with session := 0, bytes := fit (16 * pLen p) p.bytes }

/-- Host address of the unit with free-running number `i` of a queue of context `h`: its count modulo the ring size (R82). -/
def unitKey (s : State) (h : Nat) (q : Queue) (i : Nat) : Nat := hostKey s h (q.base + 16 * (i % 2 ^ q.log2))

/-- Puts bytes into the units of a ring from number `i` on, as the host has written them (R62). -/
def ringPut (s : State) (h : Nat) (q : Queue) (i : Nat) (bs : List Byte) : State :=
  (List.range (bs.length / 16)).foldl (fun t k =>
    { t with store.host := memWrite t.store.host (unitKey s h q (i + k)) (slice bs (16 * k) 16) }) s

/-- The `n` units of a ring from number `i` on, as read from host memory; they wrap at the end of the ring (R82). -/
def ringGet (s : State) (h : Nat) (q : Queue) (i n : Nat) : List Byte :=
  ((List.range n).map fun k => memRead s.store.host (unitKey s h q (i + k)) 16).flatten

/-- Cuts the units that a fetch has read into packets by their length fields (R82): `fuel` packets at most. -/
def cutPkts (h queue : Nat) : Nat → List Byte → List Pkt
  | 0, _ => []
  | f + 1, bs =>
    let p : Pkt := { ctx := h, queue := queue, session := 0, bytes := bs.take (16 * (if num bs 2 1 = 0 then 256 else num bs 2 1)) }
    p :: cutPkts h queue f (bs.drop p.bytes.length)

/-- Whether the command pair fetches now: firmware runs, no DEV_RESET has stopped it, no takeover of the command role is
under way (R68, R103, R400). -/
def fetching (s : State) : Bool := s.glb.ready && bridleOn s && !s.cmd.stopped && s.safe.takeover != some false

/-- PACKET_FETCH: the packet at the front of a ring queue, with the rest of its chain, once all its units lie before the
accepted tail (R82, R91) and there is room (R85); a lack of room is counted as a fetch pause (R100). The command carries what the host has
written into the ring (R62; DESIGN CHOICE, log 10); the units are read at their places in the ring. -/
def execPacketFetch (p : Pkt) (chain : List Pkt) (s : State) : Res :=
  let given := (p :: chain).map ringPkt
  let h := p.ctx
  let units := (given.map pLen).foldl (· + ·) 0
  match tget (ctxOf s h).queues p.queue with
  | none => .next s
  | some q =>
    let i := q.fetched.toNat
    let s1 := ringPut s h q i (given.map Pkt.bytes).flatten
    let ps := cutPkts h p.queue given.length (ringGet s1 h q i units)
    let bad := q.badChain || chainBad ps
    if !fetching s || held s || (h = 0 && s.cmd.ringFailed) || !pageOpen s h || !chainShape given || 7 < p.queue then .next s
    else if (q.tail - q.fetched).toNat < units then .next s
    else if bad then .next (fetchBad ps s1)
    else if !flightRoom s h ps.length then .next (modCtx h (fun c => { c with pauses := c.pauses + 1 }) s)
    else .next (fetchAll false ps s1)

/-! ### Dispatch (R81 check 6, R87–R91, R407, R483) -/

/-- What a packet's dependency tag comes to (R89). -/
inductive DepState where
  | met | failed | waits | unknown
  deriving DecidableEq, Repr

/-- The record of the packet that was fetched last. -/
def newestTag (l : List TagRec) : Option TagRec :=
  l.foldl (fun b t => match b with | some x => if x.order < t.order then some t else b | none => some t) none

/-- The dependency of a packet (R89): on the most recently fetched packet of the context that carries the tag. -/
def depState (s : State) (p : Pkt) : DepState :=
  if pDep p = 0 then .met
  else if pDep p = pTag p then .failed
  else
    let done := newestTag ((ctxOf s p.ctx).tags.filter fun t => t.tag == pDep p && !t.repeated)
    match (inFlight s p.ctx).find? fun f => pTag f.pkt == pDep p, done with
    | some f, some t => if t.order < f.order then .waits else if codeOk t.reply.code then .met else .failed
    | some _, none => .waits
    | none, some t => if codeOk t.reply.code then .met else .failed
    | none, none => .unknown

/-- Whether the order of its queue lets flight `f` be dispatched (R87, R88). -/
def queueLets (s : State) (f : Flight) : Bool :=
  (inFlight s f.pkt.ctx).all fun g =>
    g.pkt.queue != f.pkt.queue || f.order ≤ g.order || (g.dispatched && !pFence g.pkt && !pFence f.pkt)

/-- Whether the member before `f` in its chain is still in flight (R91). -/
def chainWaits (s : State) (f : Flight) : Bool :=
  match f.chainPrev with
  | some o => s.cmd.flights.any fun g => g.order == o
  | none => false

/-- Whether the member before `f` in its chain failed (R91). -/
def chainDead (s : State) (f : Flight) : Bool :=
  match f.chainPrev with
  | some o => s.cmd.chainFailed.contains o
  | none => false

/-- Changes the flight of a packet. -/
def modFlight (p : Pkt) (g : Flight → Flight) (s : State) : State :=
  { s with cmd.flights := s.cmd.flights.map fun f => if f.pkt == p then g f else f }

/-- Ends a packet at dispatch with E_ORDER for its dependency, which counts in DEV_STATS (R89, R100). -/
def endDependent (p : Pkt) (s : State) : State :=
  reject p { code := .eOrder, off := 12 } 0 (modCtx p.ctx (fun c => { c with depOrder := c.depOrder + 1 }) s)

/-- Ends a chain member whose predecessor failed (R91). -/
def endMember (f : Flight) (s : State) : State :=
  let s1 := reject f.pkt { code := .eOrder } 0 s
  { s1 with cmd.chainFailed := s1.cmd.chainFailed.filter fun o => some o != f.chainPrev }

/-- Level of the queue that carries a packet, at most its context's ceiling (R117, R121). -/
def pktLevel (s : State) (p : Pkt) : Nat := queueLevel s p.ctx p.queue

/-- Whether a packet only waits for a dispatch slot (R483). -/
def slotReady (s : State) (f : Flight) : Bool :=
  !f.dispatched && queueLets s f && !chainWaits s f && !chainDead s f && depState s f.pkt == .met

/-- Since when context `h` waits for a slot at a level: the fetch order of its oldest packet that is ready there (DEDUCED, log 51). -/
def ctxWait (s : State) (h level : Nat) : Nat :=
  ((s.cmd.flights.filter fun f => f.pkt.ctx == h && pktLevel s f.pkt == level && slotReady s f).map Flight.order).foldl min s.cmd.nextOrder

/-- Whether ready packet `g` takes a free slot before `f` (R483): a higher level, then the context that has waited longest. -/
def slotBefore (s : State) (g f : Flight) : Bool :=
  let a := pktLevel s g.pkt
  let b := pktLevel s f.pkt
  a < b || (a == b && (if g.pkt.ctx = f.pkt.ctx then g.order < f.order else ctxWait s g.pkt.ctx a < ctxWait s f.pkt.ctx b))

/-- The commands that draw on the slot of the recovery reserve (R135). -/
def drawsReserve (p : Pkt) : Bool := pOp p == 0x0101 || pOp p == 0x0004

/-- Whether a slot is free for a ready packet: one of the 63 that is left over by those that go before it, or the reserve slot (R135,
R483). -/
def dispatchSlot (s : State) (f : Flight) : Bool :=
  let used := s.cmd.flights.filter fun g => g.slot
  let reserve := used.filter fun g => drawsReserve g.pkt
  let first := s.cmd.flights.filter fun g => slotReady s g && g.order != f.order && !drawsReserve g.pkt && slotBefore s g f
  (drawsReserve f.pkt && reserve.isEmpty) || (used.length - min 1 reserve.length) + first.length < 63

/-- The parcel peers that a dispatched export or import takes with it (R281). -/
def peersAt (p : Pkt) (s : State) : Option (List Byte × List Byte) :=
  if [0x040B, 0x040C, 0x0509, 0x050A].contains (pOp p) then some ((ctxOf s p.ctx).peerTo, (ctxOf s p.ctx).peerFrom) else none

/-- PACKET_DISPATCH of the packet of context `ctx` with tag `tag`: nothing happens while its order, its chain, its dependency
or the 63 free slots hold it (R87–R91, R483); in the safe state every packet but SAFE_QUERY and SAFE_LOG_READ ends with
E_STATE (R407). A dispatched packet then acts as its own command's row says. -/
def execPacketDispatch (ctx tag : Nat) (s : State) : Res :=
  match (inFlight s ctx).find? fun f => pTag f.pkt == tag with
  | none => .next s
  | some f =>
    let p := f.pkt
    if f.dispatched || !bridleOn s || s.safe.takeover == some false || !queueLets s f || chainWaits s f then .next s
    else if s.safe.safeState && !safeServed (pOp p) then .next (reject p { code := .eState } 0 s)
    else if chainDead s f then .next (endMember f s)
    else match depState s p with
      | .failed => .next (endDependent p s)
      | .waits => .next (modFlight p (fun f => { f with depSince := none }) s)
      | .unknown => .next (modFlight p (fun f => { f with depSince := some (f.depSince.getD s.time.now) }) s)
      | .met =>
        if !dispatchSlot s f then .next s
        else .next (modFlight p (fun f => { f with dispatched := true, slot := true, peers := peersAt p s }) s)

/-- DEPENDENCY_TIMEOUT: after 100 ms without a packet of the tag, the dependent packet ends with E_ORDER (R89). -/
def execDependencyTimeout (ctx tag : Nat) (s : State) : Res :=
  match (inFlight s ctx).find? fun f => pTag f.pkt == tag with
  | none => .next s
  | some f =>
    match f.depSince with
    | some t => if depState s f.pkt = .unknown then .next (endDependent f.pkt (elapseTo (t + 100000000) s)) else .next s
    | none => .next s

/-! ### The Ethernet transport (R92–R99) -/

/-- The client key of an ID. -/
def keyOf (s : State) (k : Nat) : Option ClientKey := s.stolp.keys.find? fun e => e.keyId == k

/-- The contexts that a key permits (R76, R104): a management key permits context 0. -/
def permits (s : State) (k : Nat) : List Nat :=
  match keyOf s k with
  | some e => if e.tenant then e.ctxs else [0]
  | none => []

/-- Discards a datagram and counts it (R94, R96, R100). -/
def discard (s : State) : State := modCtx 0 (fun c => { c with discards := c.discards + 1 }) s

/-- Sends the credit datagram of a session (R97). -/
def sendCredit (id : Nat) (s : State) : State :=
  match tget s.stolp.sessions id with
  | none => s
  | some q => sendSess id 5 (toLE 4 256 ++ toLE 4 q.accepted.toNat ++ toLE 4 q.answered.toNat ++ toLE 4 0) s

/-- Whether a received counter is fresh: neither a repeat nor older than the newest 1,024 counters received, which `seen` holds (R94). -/
def counterFresh (seen : List Nat) (n : Nat) : Bool := !seen.contains n && (seen.length < 1024 || seen.any (· < n))

/-- The newest 1,024 counters received once counter `n` is among them. -/
def counterSeen (seen : List Nat) (n : Nat) : List Nat :=
  let l := seen ++ [n]
  if l.length ≤ 1024 then l else l.erase (l.foldl min n)

/-- Whether a datagram reaches the RY3 whole: it accepts no IP fragments, so its payload lies within the room of R93. -/
def dgramFits (s : State) (d : Dgram) : Bool := d.data.length ≤ payloadRoom s d.port d.ip + 32

/-- An authenticated datagram of `type` in an open session (R92, R94): its session and payload. -/
def openDgram (s : State) (d : Dgram) (type : Nat) : Option (Nat × List Byte) :=
  let id := num d.data 4 4
  match tget s.stolp.sessions id with
  | none => none
  | some q =>
    if d.data.length < 32 || num d.data 0 1 != type || num d.data 1 1 != 0x10 || q.port != d.port || q.ip != d.ip || q.udp != d.udp
        || !counterFresh q.rxSeen (num d.data 8 8) then none
    else (openUp q.secret (slice d.data 0 16) (d.data.drop 16)).map fun b => (id, b)

/-- Notes an authenticated datagram in its session; a counter that reaches 2^32 closes it (R94, R99). -/
def noteDgram (id n : Nat) (s : State) : State :=
  let s1 := { s with stolp.sessions := tupd s.stolp.sessions id fun q =>
    { q with rxMax := max q.rxMax n, rxSeen := counterSeen q.rxSeen n, lastRx := s.time.now } }
  if 2 ^ 32 ≤ n then closeSession id s1 else s1

/-- The hello's answer (R95): device nonce, ephemeral key and signature, and the handshake that it starts. -/
def helloReply (d : Dgram) (s : State) : List Byte × Handshake :=
  let id := s.stolp.nextId
  let n := s.freeCtr
  let body := sessHeader 3 id 0 ++ toLE 32 (Config.fresh n).toNat ++ ephemeral n ++ toLE 3 0
  let reply := body ++ toLE 132 (Config.ecdsaSign n (transcript d.data body)).toNat
  (reply, { keyId := num d.data 16 8, nonce := slice d.data 24 32, hello := d.data, reply := reply, draw := n,
            port := d.port, ip := d.ip, udp := d.udp, started := s.time.now })

/-- STOLP_HELLO (R95, R96). The 16 hellos of the last second are those before this one (DESIGN CHOICE, log 58). -/
def execStolpHello (d : Dgram) (s : State) : Res :=
  if !s.stolp.enable.testBit d.port || chanRetired s 6 d.port || s.boot.missing.contains 0x10 then .next s
  else
    let recent := s.stolp.hellos.filter fun t => s.time.now < t + 10 ^ 9
    let s1 := { s with stolp.hellos := recent ++ [s.time.now] }
    let ok := d.data.length == 192 && num d.data 0 1 == 2 && num d.data 1 1 == 0x10 && num d.data 4 4 == 0
      && (keyOf s (num d.data 16 8)).isSome && Config.onCurve (slice d.data 56 133) && recent.length < 16
    let again := s.stolp.pending.find? fun e => e.2.keyId == num d.data 16 8 && e.2.nonce == slice d.data 24 32
    if !ok then .next (discard s1)
    else match again with
      | some (_, h) => .next { s1 with out := s1.out ++ [.dgram 0 d.port d.ip d.udp h.reply (vlanTag s1 d.port)] }
      | none =>
        if min s.stolp.limit 16 ≤ s.stolp.sessions.length then .next (discard s1)
        else
          let (r, h) := helloReply d s1
          .next { s1 with
            out := s1.out ++ [.dgram 0 d.port d.ip d.udp r (vlanTag s1 d.port)]
            stolp.pending := tput s1.stolp.pending s1.stolp.nextId h
            stolp.nextId := s1.stolp.nextId + 1
            freeCtr := s1.freeCtr + 2 }

/-- STOLP_FINISH (R95): the client's signature over T and the finish header opens the session; a credit datagram answers. The session limit is tested
at the hello alone, as R96 has it, so that handshakes that were pending together may pass it (DESIGN CHOICE, log 58). -/
def execStolpFinish (d : Dgram) (s : State) : Res :=
  let id := num d.data 4 4
  match tget s.stolp.pending id with
  | none => .next (discard s)
  | some h =>
    let t := transcript h.hello h.reply
    let secret := keySchedule h.draw (slice h.hello 56 133) h.hello h.reply
    let key := ((keyOf s h.keyId).map ClientKey.point).getD []
    let good := d.data.length == 164 && num d.data 0 1 == 4 && num d.data 1 1 == 0x10 && num d.data 8 8 == 0
      && h.port == d.port && h.ip == d.ip && h.udp == d.udp
      && (match openUp secret (slice d.data 0 16) (d.data.drop 16) with
          | some sig => Config.ecdsaVerify key (t ++ slice d.data 0 16) sig
          | none => false)
    if !good then .next (discard s)
    else
      let q : Session := { keyId := h.keyId, port := h.port, ip := h.ip, udp := h.udp, secret := secret, rxSeen := [0],
                           lastRx := s.time.now, idle := s.stolp.idle, batchUs := s.stolp.batchUs }
      .next (sendCredit id { s with
        stolp.pending := tdel s.stolp.pending id
        stolp.sessions := tput s.stolp.sessions id q })

/-- The packets of a payload, back to back; a rest that is no whole packet is dropped (R93). -/
def splitPackets : Nat → List Byte → List (List Byte)
  | 0, _ => []
  | f + 1, b =>
    let n := 16 * (if num b 2 1 = 0 then 256 else num b 2 1)
    if b.length < 16 || b.length < n then [] else b.take n :: splitPackets f (b.drop n)

/-- Sends a stored reply again, without counting it (R97, R98). -/
def resend (id : Nat) (r : Reply) (s : State) : State := sendSess id 1 (replyBytes r false) s

/-- Fetches a chain of a network queue; `taken` gives the positions of its members whose tag another packet holds, which end with E_ORDER in
their place (R91, R98). -/
def fetchNet (bad : Bool) (taken : List Nat) (ps : List Pkt) (s : State) : State :=
  (ps.zipIdx.foldl (fun acc x => fetchOne bad (taken.contains x.2) acc x.1) (none, s)).2

/-- Takes a new packet of the network queue: at once, or with the rest of its chain; a chain that a 16th packet does not end is longer than
16 packets, and its members are rejected as they come (R91). `taken`: another packet holds its tag (R98). -/
def netTake (taken : Bool) (p : Pkt) (s : State) : State :=
  let c := ctxOf s p.ctx
  let ps := c.netChain ++ [p]
  let tk := if taken then c.netTaken ++ [c.netChain.length] else c.netTaken
  if c.netBad then fetchNet true (if taken then [0] else []) [p] (modCtx p.ctx (fun c => { c with netBad := pChain p }) s)
  else if pChain p && ps.length < 16 then modCtx p.ctx (fun c => { c with netChain := ps, netTaken := tk }) s
  else fetchNet (pChain p || chainBad ps) tk ps (modCtx p.ctx (fun c => { c with netChain := [], netTaken := [], netBad := pChain p }) s)

/-- The packets that count against the window of session `id`: in flight, or waiting for the rest of their chain, which is fetched whole
(R91, R97; DESIGN CHOICE, log 58). -/
def sessionFlight (s : State) (id : Nat) : Nat :=
  (s.cmd.flights.filter fun f => f.pkt.queue == 8 && f.pkt.session == id).length
    + ((s.ctxs.map fun e => (e.2.netChain.filter fun p => p.session == id).length).foldl (· + ·) 0)

/-- One packet from a session (R91, R97, R98); the answer says that it was discarded for want of window. That comes before the match of R98, so
that a repeat too is discarded then (DESIGN CHOICE, log 58). -/
def netPacket (id : Nat) (b : List Byte) (s : State) : Bool × State :=
  match tget s.stolp.sessions id with
  | none => (false, s)
  | some q =>
    let mine := permits s q.keyId
    let want := num b 8 2 % 1024
    let p : Pkt := { ctx := if mine.contains want then want else mine.head?.getD 0, queue := 8, session := id, bytes := b }
    let c := ctxOf s p.ctx
    if 256 ≤ sessionFlight s id || 1024 ≤ (inFlight s p.ctx).length + boundStarts s p.ctx + c.netChain.length then (true, s)
    else if (inFlight s p.ctx).any (fun f => pTag f.pkt == pTag p && f.pkt.bytes == b) || c.netChain.any (fun x => x.bytes == b) then
      (false, s)
    else if (inFlight s p.ctx).any (fun f => pTag f.pkt == pTag p) then (false, netTake true p s)
    else match newestTag (c.tags.filter fun t => t.tag == pTag p && !t.repeated) with
      | some t =>
        if t.bytes == b then (false, resend id t.reply s)
        else (false, netTake (t.queue == 8) p s)
      | none => (false, netTake false p s)

/-- STOLP_DATA: the packets of an authenticated data datagram that fits the path's MTU, in order; a discard for want of window is answered with a
credit datagram (R93, R94, R97, R98). While commands are not fetched, its counter is noted and its packets are dropped (DESIGN CHOICE, log 58). -/
def execStolpData (d : Dgram) (s : State) : Res :=
  if !dgramFits s d then .next s
  else match openDgram s d 1 with
  | none => .next (discard s)
  | some (id, b) =>
    let s1 := noteDgram id (num d.data 8 8) s
    if !fetching s1 then .next s1
    else
      let (lost, s2) := (splitPackets (b.length / 16) b).foldl (fun (l, t) x => let (k, t1) := netPacket id x t; (l || k, t1)) (false, s1)
      .next (if lost then sendCredit id s2 else s2)

/-- STOLP_CLOSE: the client's close datagram (R99). -/
def execStolpClose (d : Dgram) (s : State) : Res :=
  match openDgram s d 6 with
  | none => .next (discard s)
  | some (id, _) => .next (closeSession id s)

/-- HANDSHAKE_TIMEOUT: a handshake that is not finished within 2 s is dropped (R96). -/
def execHandshakeTimeout (session : Nat) (s : State) : Res :=
  match tget s.stolp.pending session with
  | none => .next s
  | some h =>
    let s1 := elapseTo (h.started + 2 * 10 ^ 9) s
    .next { s1 with stolp.pending := tdel s1.stolp.pending session }

/-- SESSION_IDLE_TIMEOUT (R99): the RY3 sends a close datagram and closes the session. -/
def execSessionIdleTimeout (session : Nat) (s : State) : Res :=
  match tget s.stolp.sessions session with
  | none => .next s
  | some q => .next (closeSession session (sendSess session 6 (toLE 16 0) (elapseTo (q.lastRx + q.idle * 10 ^ 9) s)))

/-- CREDIT_TIMER: at least once per second while packets are in flight (R97). -/
def execCreditTimer (session : Nat) (s : State) : Res :=
  if s.cmd.flights.any fun f => f.pkt.queue == 8 && f.pkt.session == session then .next (sendCredit session s) else .next s

/-- REPLY_BATCH_TIMEOUT: the batching delay of a session's replies ends (R99). -/
def execReplyBatchTimeout (session : Nat) (s : State) : Res := .next (flushBatch session s)

/-! ### The device management commands (R100–R107) -/

/-- DEV_NOP (R100). -/
def execDevNop (p : Pkt) (s : State) : Res := runCmd p s none (completeOk p (pLen p) 0 0)

/-- The ordering code (R1, R101): ASCII, padded with 0 to 16 bytes. -/
def orderingCode : List Byte :=
  fit 16 (([0x50, 0x5A, 0x2D, 0x52, 0x59, 0x33, 0x2D] : List Byte) ++ (if Config.mem64 then [0x36, 0x34] else [0x33, 0x32])
    ++ (if Config.gradeI then [0x49] else [0x41]))

/-- The device record (R101). -/
def deviceRecord (s : State) : List Byte :=
  toLE 8 deviceId ++ orderingCode ++ toLE 8 (usableDram s) ++ toLE 1 (inService s).length ++ toLE 1 (spares s).length
    ++ toLE 1 (channelsUp s).length ++ toLE 1 (b2n s.link.x4x4) ++ toLE 2 1024 ++ toLE 2 256 ++ toLE 24 0

/-- Checks of DEV_INFO. -/
def chkDevInfo (p : Pkt) (s : State) : Option Fail :=
  if pLen p = 1 then none else firstFails [destChk p s 64 16, permChk s p.ctx (fld p 16 8) 64 true 16]

/-- DEV_INFO (R100, R101). -/
def actDevInfo (p : Pkt) (s : State) : State :=
  completeOk p (0x0100 + 65536 * p.ctx) s.glb.fwver.toNat glbId
    (if pLen p = 1 then s else vwrite p.ctx (fld p 16 8) (deviceRecord s) s)

/-- DEV_INFO (R100). -/
def execDevInfo (p : Pkt) (s : State) : Res := runHost p s false (chkDevInfo p s) (actDevInfo p)

/-- The context that DEV_STATS and DEV_REJECT_LOG name (R100). -/
def statsCtx (p : Pkt) (s : State) : List (Bool × Code × Nat) :=
  let h := fld p 16 2
  [(512 < h, .eRange, 16), ((ctxOf s h).state == .closed, .eHandle, 16)]

/-- Checks of DEV_STATS. -/
def chkDevStats (p : Pkt) (s : State) : Option Fail :=
  firstFails [statsCtx p s, [(p.ctx != 0 && p.ctx != fld p 16 2, .eDenied, 16)]]

/-- DEV_STATS (R100): the counters as they stand, then cleared where asked. -/
def actDevStats (p : Pkt) (s : State) : State :=
  let h := fld p 16 2
  let c := ctxOf s h
  let s1 := if (fld p 18 1).testBit 0 then
      modCtx h (fun c => { c with accepted := 0, rejected := 0, depOrder := 0, pauses := 0, discards := 0 }) s
    else s
  completeOk p c.accepted.toNat (c.rejected + (if h = 0 then c.discards else 0)).toNat
    (c.depOrder.toNat % 65536 + 65536 * (c.pauses.toNat % 65536)) s1

/-- DEV_STATS (R100). -/
def execDevStats (p : Pkt) (s : State) : Res := runCmd p s (chkDevStats p s) (actDevStats p)

/-- The 32 bytes of a reject record (R102). -/
def rejBytes (e : RejRec) : List Byte :=
  fit 16 e.header ++ toLE 2 (codeVal e.code) ++ toLE 1 e.queue ++ [0] ++ toLE 2 e.off ++ toLE 2 0 ++ toLE 8 e.time

/-- Checks of DEV_REJECT_LOG. -/
def chkDevRejectLog (p : Pkt) (s : State) : Option Fail :=
  let n := fld p 18 2
  firstFails [statsCtx p s, [(n = 0 || 64 < n, .eRange, 18)], destChk p s (32 * n) 24,
    [(p.ctx != 0 && p.ctx != fld p 16 2, .eDenied, 16)], permChk s p.ctx (fld p 24 8) (32 * n) true 24]

/-- DEV_REJECT_LOG (R102): copies the oldest records and removes them. -/
def actDevRejectLog (p : Pkt) (s : State) : State :=
  let h := fld p 16 2
  let c := ctxOf s h
  let es := c.rejLog.take (fld p 18 2)
  let s1 := modCtx h (fun c => { c with rejLog := c.rejLog.drop es.length, rejLost := 0 }) s
  completeOk p es.length (sat 32 c.rejLost) 0 (vwrite p.ctx (fld p 24 8) (es.map rejBytes).flatten s1)

/-- DEV_REJECT_LOG (R102). -/
def execDevRejectLog (p : Pkt) (s : State) : Res := runHost p s false (chkDevRejectLog p s) (actDevRejectLog p)

/-- Checks of DEV_RESET. -/
def chkDevReset (p : Pkt) (s : State) : Option Fail :=
  firstFail [
    (1 < fld p 16 1, .eRange, 16),
    (10000 < fld p 20 4, .eRange, 20),
    (s.boot.updStage != 0, .eBusy, 0xFFFF)]

/-- DEV_RESET (R103): steps 1 and 2, then the wait of step 3. A DEV_RESET that is not the first does not act. -/
def actDevReset (p : Pkt) (s : State) : State :=
  if s.cmd.stopped then s
  else
    let limit := if fld p 20 4 = 0 then 1000 else fld p 20 4
    let s1 := completeOk p 0 0 0 { s with cmd.stopped := true, glb.ready := false }
    workEnded { s1 with cmd.devReset := some (fld p 16 1 == 1, s.time.now + limit * 1000000) }

/-- DEV_RESET (R103). -/
def execDevReset (p : Pkt) (s : State) : Res := runCmd p s (chkDevReset p s) (actDevReset p)

/-- DEV_RESET_GRACE_END: the graceful limit of a DEV_RESET ends (R103). The packet is the DEV_RESET that set it. -/
def execDevResetGraceEnd (_p : Pkt) (s : State) : Res :=
  match s.cmd.devReset with
  | some (false, t) => .next (finishReset (elapseTo t s))
  | _ => .next s

/-- Context handles of a key record (R104). -/
def keyHandles (b : List Byte) : List Nat := (List.range (min (num b 134 2) 16)).map fun i => num b (136 + 2 * i) 2

/-- The key that a key record holds (R104). -/
def keyFrom (b : List Byte) (fromRecord : Bool) : ClientKey :=
  { keyId := keyIdOf (slice b 0 133), point := slice b 0 133, tenant := num b 133 1 == 1, ctxs := keyHandles b, fromRecord := fromRecord }

/-- Reserved bytes of a key record: bytes 168 on, and the unused context entries, which the layout fixes at 0 (that they fail as reserved
fields do is a DESIGN CHOICE, log 52). -/
def keyRsv (b : List Byte) : Bool := num b 168 88 != 0 || num b (136 + 2 * min (num b 134 2) 16) (32 - 2 * min (num b 134 2) 16) != 0

/-- The field checks of a key record in byte order (R104). Handle 0 in the list of a tenant key is permitted, and lets its sessions act in
the management context (DESIGN CHOICE, log 52). -/
def keyChk (b : List Byte) (off : Nat) : List (Bool × Code × Nat) :=
  let n := num b 134 2
  [(keyRsv b, .eReserved, off),
   (!Config.onCurve (slice b 0 133), .eRange, off),
   (1 < num b 133 1, .eRange, off),
   (if num b 133 1 = 0 then n != 0 else n = 0 || 16 < n, .eRange, off),
   ((keyHandles b).any (fun h => 512 < h), .eHandle, off),
   ((distinct (keyHandles b)).length != (keyHandles b).length, .eCombination, off)]

/-- Checks of DEV_KEY_ENROLL. -/
def chkDevKeyEnroll (p : Pkt) (s : State) : Option Fail :=
  let a := fld p 16 8
  let b := vread s 0 a 256
  orFail (firstFails [addrChk s 0 a 256 1 16, keyChk b 16, [((keyOf s (keyIdOf (slice b 0 133))).isSome, .eCombination, 16)],
    permChk s 0 a 256 false 16, [(32 ≤ s.stolp.keys.length, .eNoslot, 0xFFFF)]]) (wordFail s 0 a 256 16)

/-- DEV_KEY_ENROLL (R104). -/
def actDevKeyEnroll (p : Pkt) (s : State) : State :=
  let s := readWords 0 (fld p 16 8) 256 s
  let k := keyFrom (vread s 0 (fld p 16 8) 256) false
  completeOk p (k.keyId % 2 ^ 32) (k.keyId / 2 ^ 32) 0 { s with stolp.keys := s.stolp.keys ++ [k] }

/-- DEV_KEY_ENROLL (R104). -/
def execDevKeyEnroll (p : Pkt) (s : State) : Res :=
  runHost p s (rangeHost s 0 (fld p 16 8) 256) (chkDevKeyEnroll p s) (actDevKeyEnroll p)

/-- Checks of DEV_KEY_REVOKE (R105). -/
def chkDevKeyRevoke (p : Pkt) (s : State) : Option Fail :=
  let k := fld p 16 8
  firstFail [
    ((keyOf s k).isNone, .eHandle, 16),
    (p.queue = 8 && ((tget s.stolp.sessions p.session).map fun q => q.keyId == k).getD false, .eState, 16)]

/-- DEV_KEY_REVOKE: the key and its sessions go (R99, R105). -/
def actDevKeyRevoke (p : Pkt) (s : State) : State :=
  let k := fld p 16 8
  let ids := (s.stolp.sessions.filter fun e => e.2.keyId == k).map Prod.fst
  let s1 := ids.foldl (fun t i => closeSession i t) s
  completeOk p ids.length 0 0 { s1 with
    stolp.keys := s1.stolp.keys.filter fun e => e.keyId != k
    stolp.pending := tkeep s1.stolp.pending fun _ h => h.keyId != k }

/-- DEV_KEY_REVOKE (R105). -/
def execDevKeyRevoke (p : Pkt) (s : State) : Res := runCmd p s (chkDevKeyRevoke p s) (actDevKeyRevoke p)

/-- Checks of a 512-byte list destination. -/
def chkList512 (p : Pkt) (s : State) : Option Fail :=
  firstFails [destChk p s 512 16, permChk s p.ctx (fld p 16 8) 512 true 16]

/-- The 16 bytes of a key list entry (R105). -/
def keyListBytes (s : State) (k : ClientKey) : List Byte :=
  toLE 8 k.keyId ++ toLE 1 (b2n k.tenant) ++ toLE 1 (b2n k.fromRecord) ++ toLE 2 k.ctxs.length
    ++ toLE 2 (s.stolp.sessions.filter fun e => e.2.keyId == k.keyId).length ++ toLE 2 0

/-- DEV_KEY_LIST (R105). -/
def actDevKeyList (p : Pkt) (s : State) : State :=
  completeOk p s.stolp.keys.length 0 0 (vwrite p.ctx (fld p 16 8) (s.stolp.keys.map (keyListBytes s)).flatten s)

/-- DEV_KEY_LIST (R105). -/
def execDevKeyList (p : Pkt) (s : State) : Res := runHost p s false (chkList512 p s) (actDevKeyList p)

/-- Checks of DEV_NET_CONFIG (R106). -/
def chkDevNetConfig (p : Pkt) (s : State) : Option Fail :=
  let u := fld p 16 2
  firstFail [
    (u < 1024, .eRange, 16),
    (fld p 19 1 = 0 || 16 < fld p 19 1, .eRange, 19),
    (fld p 20 2 < 5 || 600 < fld p 20 2, .eRange, 20),
    (1000 < fld p 22 2, .eRange, 22),
    (fld p 19 1 < s.stolp.sessions.length, .eState, 19),
    (u = s.net.gwPort || s.net.socks.any fun e => e.2.udp == u, .eBusy, 16)]

/-- DEV_NET_CONFIG (R106): a port whose enable bit is cleared closes its sessions, after the reply. -/
def actDevNetConfig (p : Pkt) (s : State) : State :=
  let en := fld p 18 1
  let s1 := completeOk p 0 0 0 { s with
    stolp.udpPort := fld p 16 2
    stolp.enable := en
    stolp.limit := fld p 19 1
    stolp.idle := fld p 20 2
    stolp.batchUs := fld p 22 2 }
  let s2 := if p.queue = 8 then flushBatch p.session s1 else s1
  (([0, 1] : List Nat).filter fun e => s.stolp.enable.testBit e && !en.testBit e).foldl (fun t e => closePort e t) s2

/-- DEV_NET_CONFIG (R106). -/
def execDevNetConfig (p : Pkt) (s : State) : Res := runCmd p s (chkDevNetConfig p s) (actDevNetConfig p)

/-- The 32 bytes of a session entry (R107). -/
def sessBytes (id : Nat) (q : Session) : List Byte :=
  toLE 4 id ++ toLE 8 q.keyId ++ toLE 1 q.port ++ [0] ++ toLE 2 q.udp ++ fit 16 q.ip

/-- DEV_SESSIONS (R107). -/
def actDevSessions (p : Pkt) (s : State) : State :=
  completeOk p s.stolp.sessions.length 0 0
    (vwrite p.ctx (fld p 16 8) (s.stolp.sessions.map fun e => sessBytes e.1 e.2).flatten s)

/-- DEV_SESSIONS (R107). -/
def execDevSessions (p : Pkt) (s : State) : Res := runHost p s false (chkList512 p s) (actDevSessions p)

/-- Checks of DEV_SESSION_CLOSE. -/
def chkDevSessionClose (p : Pkt) (s : State) : Option Fail :=
  firstFail [((tget s.stolp.sessions (fld p 16 4)).isNone, .eHandle, 16)]

/-- DEV_SESSION_CLOSE (R107): the reply leaves first where the session carries the command itself. -/
def actDevSessionClose (p : Pkt) (s : State) : State :=
  let id := fld p 16 4
  let s1 := completeOk p 0 0 0 s
  closeSession id (sendSess id 6 (toLE 16 0) (if p.queue = 8 ∧ p.session = id then flushBatch id s1 else s1))

/-- DEV_SESSION_CLOSE (R107). -/
def execDevSessionClose (p : Pkt) (s : State) : Res := runCmd p s (chkDevSessionClose p s) (actDevSessionClose p)

end Sys2Proof.Machine
end

