-- ==== Sys2Proof/Machine/Cascade.lean ====
section
/-! DEFINITION. The cascade (02, R25–R48): its commands, the decisions of Mooring, the events of the tiers, the Reel's readers,
the real-time clock alarm and the AON_GPIO edges. -/

namespace Sys2Proof.Machine

/-! ### CASC_QUERY, CASC_SET_SOURCE, CASC_BIND, CASC_SET_HOLD (R46–R48) -/

/-- State code of a tier (R37). -/
def tierCode : TierState → Nat
  | .off => 0 | .warming => 1 | .warm => 2 | .arming => 3 | .active => 4 | .idle => 5 | .falling => 6 | .sinking => 7

/-- Active or Idle. -/
def tierServes (t : Tier) : Bool := t.state == .active || t.state == .idle

/-- w0 of CASC_QUERY: gang g at bit 7 + g of the mask (R46; DEDUCED, log 22). -/
def cascWord (s : State) : Nat :=
  tierCode (tierOf s 0).state + 16 * pCode s.power.state
    + 256 * maskOf ((s.casc.tiers.filter fun e => e.1 != 0 && tierServes e.2).map fun e => e.1 - 1)

/-- CASC_QUERY (R46). -/
def actCascQuery (p : Pkt) (s : State) : State := completeOk p (cascWord s) s.casc.liftSeq s.casc.updrafts s

/-- CASC_QUERY (R46). -/
def execCascQuery (p : Pkt) (s : State) : Res := runCmd p s none (actCascQuery p)

/-- Checks of CASC_SET_SOURCE (R47): the bits that the aux byte reserves for reason 0x05, ranges in byte order, then the combinations. -/
def chkCascSetSource (p : Pkt) (_s : State) : Option Fail :=
  let src := fld p 16 1
  let rs := fld p 17 1
  let fl := fld p 18 1
  let reach := bits fl 3 2
  let lift := fld p 20 2
  let pre := fld p 22 2
  firstFail [
    (rs = 5 && 16 ≤ fld p 19 1, .eReserved, 19),
    (1 < src, .eRange, 16),
    (5 < rs || (rs = 0 && src != 0), .eRange, 17),
    (reach = 0 || reach = 3, .eRange, 18),
    (rs != 5 && fld p 19 1 != 0, .eRange, 19),
    (rs < 4 && lift = 0, .eRange, 20),
    (pre != 0 && !fl.testBit 1, .eRange, 22),
    (fld p 24 2 < 50 || 2000 < fld p 24 2, .eRange, 24),
    (8000 < fld p 26 2, .eRange, 26),
    (fl.testBit 1 && (rs = 0 || 3 < rs), .eCombination, 18),
    (reach = 2 && src = 1, .eCombination, 18),
    (3 < rs && lift != 0, .eCombination, 20),
    (lift ≤ pre && pre != 0, .eCombination, 22)]

/-- CASC_SET_SOURCE (R47): the settings of one source and reason. -/
def actCascSetSource (p : Pkt) (s : State) : State :=
  let fl := fld p 18 1
  let c : SourceCfg :=
    { enable := fl.testBit 0, updraft := fl.testBit 1, reach := bits fl 3 2, aux := fld p 19 1
      lift := fld p 20 2, pre := fld p 22 2, window := fld p 24 2, preroll := fld p 26 2 }
  completeOk p 0 0 0 { s with casc.sources := tput s.casc.sources (fld p 16 1 * 8 + fld p 17 1) c }

/-- CASC_SET_SOURCE (R47). -/
def execCascSetSource (p : Pkt) (s : State) : Res := runCmd p s (chkCascSetSource p s) (actCascSetSource p)

/-- Bytes of a plan's cascade partition: its plan store and its objects of kinds 1 to 3 (R200). -/
def partitionBytes (q : Plan) : Nat :=
  q.store * 65536 + ((q.objs.filter fun o => 1 ≤ o.kind && o.kind ≤ 3).map PlanObj.size).foldl (· + ·) 0

/-- Checks of CASC_BIND (R48, R123, R191, R200, R237). -/
def chkCascBind (p : Pkt) (s : State) : Option Fail :=
  let tier := fld p 16 1
  let rs := fld p 17 1
  let h := fld p 18 2
  let g := fld p 24 1
  let pri := fld p 25 1
  let q := (planOf s h (fld p 20 4)).map Prod.snd
  let plan := q.getD {}
  let gang := (gangOf s g).getD {}
  firstFail [
    (tier = 0 || 2 < tier, .eRange, 16),
    (rs = 0 || 6 < rs, .eRange, 17),
    (512 < h, .eRange, 18),
    (h != 0 && !ctxLive s h, .eHandle, 18),
    (q.isNone, .eHandle, 20),
    (16 < g, .eRange, 24),
    ((gangOf s g).isNone, .eHandle, 24),
    (3 < pri, .eRange, 25),
    ((tier == 1) != (g == 0), .eCombination, 24),
    (g != 0 && (gang.kind != 1 || gang.owner != h), .eCombination, 24),
    (plan.engine != (if tier = 1 then 1 else 0) || (g != 0 && plan.gangSize != gang.size), .eCombination, 20),
    ((plan.objs.getD plan.cascIn {}).size / cascItem rs < 4, .eCombination, 20),
    (itemSource plan, .eCombination, 20),
    (h != 0 && pri < (ctxOf s h).quota.ceiling, .eDenied, 25),
    (h != 0 && tier == 1 && !(ctxOf s h).quota.kite, .eDenied, 18),
    (tier == 1 && kiteRetired s, .eRetired, 16),
    (tier == 1 && 4194304 < partitionBytes plan, .eNomem, 20)]

/-- CASC_BIND (R48): Lifts from now on find the new binding; a Lift already raised keeps its own. A plan bound for tier 1 is copied into the
cascade partition (R200). -/
def actCascBind (p : Pkt) (s : State) : State :=
  let b : CascBind :=
    { ctx := fld p 18 2, plan := fld p 20 4, gang := fld p 24 1, level := fld p 25 1
      made := ((gangOf s (fld p 24 1)).map Gang.made).getD 0 }
  let s1 := { s with casc.binds := tput s.casc.binds (fld p 16 1 * 8 + fld p 17 1) b }
  completeOk p 0 0 0 (if fld p 16 1 = 1 then copyPlan b.ctx b.plan s1 else s1)

/-- Whether binding a plan for tier 1 copies objects out of host memory (R200). -/
def bindHost (p : Pkt) (s : State) : Bool :=
  fld p 16 1 == 1 && (match planOf s (fld p 18 2) (fld p 20 4) with
    | some q => q.2.objs.any fun o => 1 ≤ o.kind && o.kind ≤ 3 && rangeHost s (fld p 18 2) o.addr o.size
    | none => false)

/-- CASC_BIND (R48). -/
def execCascBind (p : Pkt) (s : State) : Res := runHost p s (bindHost p s) (chkCascBind p s) (actCascBind p)

/-- An idle hold outside 0–600,000 ms that is not the value that turns it off (R43). -/
def holdBad (n : Nat) : Bool := 600000 < n && n != 0xFFFFFFFF

/-- Checks of CASC_SET_HOLD (R25, R30, R43). -/
def chkCascSetHold (p : Pkt) (_s : State) : Option Fail :=
  firstFail [
    (holdBad (fld p 16 4), .eRange, 16),
    (holdBad (fld p 20 4), .eRange, 20),
    (fld p 24 2 < 100 || 60000 < fld p 24 2, .eRange, 24),
    (fld p 26 1 < 2 || 50 < fld p 26 1, .eRange, 26)]

/-- CASC_SET_HOLD (R46). -/
def actCascSetHold (p : Pkt) (s : State) : State :=
  let f := fld p 27 1
  completeOk p 0 0 0 { s with
    casc.kiteHold := fld p 16 4
    casc.gangHold := fld p 20 4
    casc.sampleHold := fld p 24 2
    casc.hqSettle := fld p 26 1
    casc.notifyLift := f.testBit 0
    casc.notifyBallast := f.testBit 1
    casc.sampleEn := f.testBit 2 }

/-- CASC_SET_HOLD (R46). -/
def execCascSetHold (p : Pkt) (s : State) : Res := runCmd p s (chkCascSetHold p s) (actCascSetHold p)

/-! ### CASC_LIFT and CASC_BALLAST -/

/-- Sample index of working time now: 16 kHz sample periods of 62,500 ns (R28). -/
def sampleNow (s : State) : Nat := s.time.now / 62500

/-- Target tier in range. -/
def chkTier (p : Pkt) (_s : State) : Option Fail := firstFail [(fld p 16 1 = 0 || 2 < fld p 16 1, .eRange, 16)]

/-- CASC_LIFT (R46): a Lift of reason 0x06; a rewind of 0 means the trigger sample minus the default pre-roll of 200 ms (DEDUCED, log 22).
The completion tells of a gang that has lost panels (DEGRADED), and BIND_FAIL stands in the record that it names (R40). Reason 0x06 has no
setting with a threshold, and the record's threshold is 0 (DESIGN CHOICE, log 46). -/
def actCascLift (p : Pkt) (s : State) : State :=
  let target := fld p 16 1
  let trig := sampleNow s
  let rewind : Int := if fld p 24 8 = 0 then (trig : Int) - 3200 else (fld p 24 8 : Nat)
  let l : LiftRec :=
    { source := 3, target := target, reason := 6, score := fld p 20 2, threshold := 0, time := s.time.now, trigger := trig, aux := fld p 22 2 }
  let s1 := raiseLift rewind l s
  complete p .ok (tgetD s1.casc.answers 3).2 s1.casc.liftSeq 0 0 s1

/-- CASC_LIFT (R46). -/
def execCascLift (p : Pkt) (s : State) : Res := runCmd p s (chkTier p s) (actCascLift p)

/-- The cascade gangs: those that a tier-2 binding names, and those that a Lift or an Updraft has raised (R37). -/
def cascGangs (s : State) : List Nat :=
  distinct ((s.casc.binds.filter fun e => e.1 / 8 == 2).map (fun e => e.2.gang) ++ (tkeys s.casc.tiers).filter (· != 0))

/-- CASC_BALLAST (R46): Kite, or every cascade gang, is released with cause 0x04 (DESIGN CHOICE, log 46: the packet names tier 2 and no
gang, and several gangs may stand at that tier). -/
def actCascBallast (p : Pkt) (s : State) : State :=
  let ks := if fld p 16 1 = 1 then [0] else cascGangs s
  let c := fld p 24 8
  workEnded (completeOk p 0 0 0 (boundaries (ks.foldl (fun t k => releaseTier k 4 (some (if c = 0 then readerPos t k else c)) t) s)))

/-- CASC_BALLAST (R46). -/
def execCascBallast (p : Pkt) (s : State) : Res := runCmd p s (chkTier p s) (actCascBallast p)

/-! ### CASC_READ_LOG, CASC_COUNTERS, CASC_SET_TIMER -/

/-- The records that CASC_READ_LOG copies: Lift records from the first sequence number, then the Ballast records that release
such Lifts, at most the maximum in all (R46; DEDUCED, log 22). -/
def logPick (p : Pkt) (s : State) : List LiftRec × List BallastRec :=
  let first := fld p 24 4
  let mx := fld p 28 4
  let ls := (s.casc.liftLog.filter fun l => first ≤ l.seq).take mx
  (ls, (s.casc.ballastLog.filter fun b => first ≤ b.lift).take (mx - ls.length))

/-- The bytes that CASC_READ_LOG writes. -/
def logPickBytes (p : Pkt) (s : State) : List Byte :=
  ((logPick p s).1.map liftBytes).flatten ++ ((logPick p s).2.map ballastBytes).flatten

/-- Checks of CASC_READ_LOG: its destination over the bytes that it writes. -/
def chkCascReadLog (p : Pkt) (s : State) : Option Fail :=
  let n := (logPickBytes p s).length
  firstFails [addrChk s p.ctx (fld p 16 8) n 64 16, permChk s p.ctx (fld p 16 8) n true 16]

/-- CASC_READ_LOG (R46). -/
def actCascReadLog (p : Pkt) (s : State) : State :=
  completeOk p (logPick p s).1.length (logPick p s).2.length 0 (vwrite p.ctx (fld p 16 8) (logPickBytes p s) s)

/-- CASC_READ_LOG (R46). -/
def execCascReadLog (p : Pkt) (s : State) : Res := runHost p s false (chkCascReadLog p s) (actCascReadLog p)

/-- CASC_COUNTERS (R46): reads the counters and clears them if asked. -/
def actCascCounters (p : Pkt) (s : State) : State :=
  let s1 := if (fld p 16 1).testBit 0 then
      { s with casc.ignored := 0, casc.suppressed := 0, casc.overflow := 0, reel.overruns := 0
               casc.tiers := tmap s.casc.tiers fun _ t => { t with ignored := 0 } }
    else s
  completeOk p s.casc.ignored s.casc.suppressed (s.casc.overflow + 65536 * s.reel.overruns) s1

/-- CASC_COUNTERS (R46). -/
def execCascCounters (p : Pkt) (s : State) : Res := runCmd p s none (actCascCounters p)

/-- CASC_SET_TIMER (R46): an alarm of 0 turns the timer off (DEDUCED, log 22). -/
def actCascSetTimer (p : Pkt) (s : State) : State :=
  let a := fld p 16 8
  completeOk p 0 0 0 { s with casc.alarm := if a = 0 then none else some a, casc.period := fld p 24 8 }

/-- CASC_SET_TIMER (R46). -/
def execCascSetTimer (p : Pkt) (s : State) : Res := runCmd p s none (actCascSetTimer p)

/-! ### The Reel's readers (R27, R28, R31) -/

/-- The 1,296 bytes of a Reel block as a reader replays it (R28, R31). -/
def reelBytes (b : ReelBlock) (gap : Bool) : List Byte :=
  toLE 8 b.time ++ toLE 4 b.num ++ toLE 1 b.source ++ toLE 1 (b2n b.muted + 2 * b2n gap) ++ toLE 2 0 ++ fit 1280 b.data

/-- Number of the oldest kept block. -/
def oldestBlock (s : State) : Nat := reelOldest s / 160

/-- Block `n`, if it is kept and complete. -/
def reelBlock (s : State) (n : Nat) : Option ReelBlock := s.reel.blocks.find? fun b => b.num == n

/-- Checks of CASC_READ_REEL: ranges and destination, then the busy reader (R31), then the gate (R32). -/
def chkCascReadReel (p : Pkt) (s : State) : Option Fail :=
  let n := fld p 32 4
  firstFails [
    addrChk s p.ctx (fld p 16 8) (1296 * min n 1000) 64 16,
    [(n = 0 || 1000 < n, .eRange, 32)],
    permChk s p.ctx (fld p 16 8) (1296 * min n 1000) true 16,
    [(s.reel.copy.isSome, .eBusy, 0xFFFF), (s.audio.pin, .eMuted, 0xFFFF)]]

/-- CASC_READ_REEL (R31): its reader opens at the first block, or at the oldest kept where that is newer, which is no gap and no
overrun of a reader that has only opened (DESIGN CHOICE, log 46); the copy ends at REEL_READER_COPY_COMPLETE. -/
def actCascReadReel (p : Pkt) (s : State) : State :=
  let first := max (fld p 24 8 / 160) (oldestBlock s)
  let c : ReelCopy := { pkt := p, dest := fld p 16 8, first := first, count := fld p 32 4 }
  handOn p { s with reel.copy := some c, reel.readers := tput s.reel.readers 17 { next := first } }

/-- CASC_READ_REEL (R31). -/
def execCascReadReel (p : Pkt) (s : State) : Res := runCmd p s (chkCascReadReel p s) (actCascReadReel p)

/-- The copy of CASC_READ_REEL ends (R31): the kept blocks from its first one, at most the count; blocks overwritten before the
reader came set GAP in the first block copied and count as overruns. A copy to host memory waits while such writes are held (R482). -/
def execReelReaderCopyComplete (s : State) : Res :=
  match s.reel.copy with
  | none => .next s
  | some c =>
    if held s ∧ rangeHost s c.pkt.ctx c.dest (1296 * c.count) then .next (hostWait c.pkt s) else
    let from_ := max c.first (oldestBlock s)
    let lost := from_ - c.first
    let bs := (s.reel.blocks.filter fun b => from_ ≤ b.num).take c.count
    let data := (bs.zipIdx.map fun (b, i) => reelBytes b (i = 0 && 0 < lost)).flatten
    let s1 := vwrite c.pkt.ctx c.dest data s
    let s2 := { s1 with reel.copy := none, reel.readers := tdel s1.reel.readers 17, reel.overruns := sat 16 (s1.reel.overruns + lost) }
    .next (workEnded (completeOk c.pkt bs.length ((bs.head?.map ReelBlock.num).getD 0) 0 s2))

/-- Whether the ring of run `k` has room for an item (R191). -/
def ringRoom (s : State) (k : Nat) : Bool :=
  match (runOf s k).bind Run.ring with
  | some g => g.tail - g.head < g.items
  | none => false

/-- The Lift record that goes with the next item of tier `k`: with the first item that which raised it, later the oldest of its queue,
which the plan has then received (R37, R41). -/
def nextLift (k : Nat) (first : Bool) (s : State) : Option LiftRec × State :=
  let t := tierOf s k
  if first then (t.lift, s)
  else (t.queue.head?, modTier k (fun t => { t with queue := t.queue.drop 1, taken := t.taken ++ t.queue.take 1 }) s)

/-- Bytes of an item: the block or frame, and after a Reel block the Lift record that goes with the item, zeros where none does (DEDUCED,
log 46: an item is 48 bytes longer than its block, the size of a Lift record). -/
def itemBytes (block : Option Nat) (bs : List Byte) (l : Option LiftRec) : List Byte :=
  if block.isSome then bs ++ (l.map liftBytes).getD (List.replicate 48 0) else bs

/-- Supplies one item to the run of tier `k` (R191): the bytes go to the next slot of its ring, with the Lift record that the plan
receives, a waiting run becomes ready, an Idle tier becomes Active (R37), and an idle gang takes its boundary. -/
def supplyItem (k : Nat) (block : Option Nat) (bs : List Byte) (s : State) : State :=
  match (tierOf s k).run with
  | none => s
  | some r =>
    match runOf s r with
    | none => s
    | some x =>
      match x.ring with
      | none => s
      | some g =>
        let (l, s0) := nextLift k (g.tail == 0) s
        let s1 := vwrite x.ctx (g.addr + g.tail % g.items * g.itemSize) (itemBytes block bs l) s0
        let s2 := modRun r (fun x =>
          { x with ring := some { g with tail := g.tail + 1 }, blocks := x.blocks ++ block.toList
                   state := if x.state = .idle then .ready else x.state }) s1
        let s3 := if (tierOf s2 k).state = .idle then enterTier k .active id s2 else s2
        boundary x.gang false s3

/-- Supplies the kept presence frames that tier `k` waits for (R34, R191): the frame of its Lift, then every later one once. -/
def supplyFrames (k : Nat) (s : State) : State :=
  s.reel.frames.foldl (fun t f =>
    let n := f.number
    let x := tierOf t k
    if x.nextFrame ≤ n ∧ tierServes x ∧ (x.run.map (ringRoom t)).getD false ∧ !(thas t.reel.readers k) then
      supplyItem k none (fit 307200 f.luma) (modTier k (fun y => { y with nextFrame := n + 1 }) t)
    else t) s

/-- The Reel reader of tier `k` supplies its next block (R31, R191): it waits while the ring is full; a block overwritten before
it was read moves the reader to the oldest kept block, with GAP. -/
def execReelReaderSupply (k : Nat) (s : State) : Res :=
  match tget s.reel.readers k with
  | none => .next s
  | some q =>
    let t := tierOf s k
    let n := max q.next (oldestBlock s)
    let lost := n - q.next
    match reelBlock s n with
    | none => .next s
    | some b =>
      if tierServes t && (t.run.map (ringRoom s)).getD false then
        let q1 : ReelReader := { next := n + 1, overruns := q.overruns + lost }
        let s1 := { s with reel.readers := tput s.reel.readers k q1, reel.overruns := sat 16 (s.reel.overruns + lost) }
        .next (supplyItem k (some n) (reelBytes b (decide (0 < lost))) s1)
      else .next s

/-- The Reel takes the sources whose handover boundary has come at sample index `i` (R29, R30). -/
def takeSource (i : Nat) (s : State) : State :=
  let due := s.reel.handover.filter fun h => h.2 ≤ i
  { s with
    reel.source := (due.getLast?.map Prod.fst).getD s.reel.source
    reel.handover := s.reel.handover.filter fun h => i < h.2 }

/-- The Reel takes its new source at the handover boundary (R29, R30): the first block from there on carries it. -/
def execReelSourceHandover (s : State) : Res := .next (takeSource s.reel.index s)

/-! ### Mooring's decisions (R25, R33, R38, R45) -/

/-- The score of an energy or keyword decision is held at 0 while PRIV_MIC_N is asserted (R32), and is 0 once PDM_D0 and PDM_D1 are
both retired (R351); that of a presence or motion decision is held at 0 while PRIV_CAM_N is asserted (R34) and once the presence port is
retired (R392). -/
def heldScore (s : State) (reason score : Nat) : Nat :=
  if reason < 2 then (if s.audio.pin || (chanRetired s 5 0 && chanRetired s 5 1) then 0 else score) else if s.cams.pin || chanRetired s 4 12 then 0 else score

/-- ENERGY_GATE_DECISION (R25): in Sample, a block whose level reaches the energy gate moves the RY3 to Moor; in Moor it starts the
Sample hold anew. -/
def execEnergyGateDecision (level : Nat) (s : State) : Res :=
  let c := srcCfg s 0 0
  if !c.enable || heldScore s 0 level < c.lift then .next s
  else if s.power.state = .sample then .next (wakeTo .moor 1 0 s)
  else if s.power.state = .moor then .next { s with casc.gateFrom := s.time.now }
  else .next s

/-- Whether the detectors score: in Moor and in Run, once Mooring has started (R33, R478). -/
def detectorRuns (s : State) : Bool :=
  !(s.power.state == .sample || s.power.state == .dormant) && !s.boot.missing.contains 0x0D

/-- The score of a decision and the sample index from which its pre-roll counts (R33, R36, R203): the keyword and presence models compute
it from their input, an empty slot scores 0 (R206), and the fraction of changed pixels of the motion detector comes with the event. A
keyword model without a second output estimates no phrase start, and the trigger sample stands for it (DESIGN CHOICE, log 47). -/
def detectorScore (reason score : Nat) (input : List Byte) (trigger : Nat) (s : State) : Nat × Int :=
  if reason = 3 then (score, trigger)
  else
    match tget s.sched.models reason with
    | none => (0, trigger)
    | some m =>
      let (sc, back) := moorDecide [s.freeCtr] m.record input
      (sc, (trigger : Int) - (160 * back.getD 0 : Nat))

/-- The Lift of a detector decision (R35, R36). -/
def detectorLift (reason score trigger : Nat) (base : Int) (frame : Nat) (s : State) : State :=
  let c := srcCfg s 0 reason
  let l : LiftRec :=
    { source := 0, target := 1, reason := reason, score := score, threshold := c.lift, time := s.time.now
      trigger := trigger, frame := if reason = 1 then 0 else frame }
  raiseLift (base - (c.preroll * 16 : Nat)) l s

/-- Leaves the refractory state where the score lies below the pre-threshold (R33). -/
def unrefract (key score pre : Nat) (s : State) : State :=
  if score < pre then { s with casc.refractory := s.casc.refractory.filter (· != key) } else s

/-- A tier decision of a source and reason with a score (R33, R38, R201): the refractory state, the Updraft, and the Lift. -/
def decide_ (source reason score : Nat) (lift : State → State) (s : State) : State :=
  let c := srcCfg s source reason
  let key := source * 8 + reason
  let s1 := unrefract key score c.pre s
  if !c.enable then s1
  else
    let s2 := if c.updraft && c.pre ≤ score then raiseUpdraft source reason s1 else s1
    if c.lift ≤ score && !s2.casc.refractory.contains key then
      lift { s2 with casc.refractory := s2.casc.refractory ++ [key] }
    else s2

/-- DETECTOR_DECISION (R33): the detector of a reason scores its input codes; the next open values of a model are new ones. -/
def execDetectorDecision (reason score : Nat) (input : List Byte) (trigger frame : Nat) (s : State) : Res :=
  if reason = 0 ∨ 3 < reason then .fault .noSuchUnit
  else if !detectorRuns s then .next s
  else
    let (x, base) := detectorScore reason score input trigger s
    let sc := heldScore s reason x
    .next (decide_ 0 reason sc (detectorLift reason sc trigger base frame) { s with freeCtr := s.freeCtr + 1 })

/-- SAMPLE_HOLD_END (R25, R413): once the energy has stayed below the gate for the Sample hold, Moor falls back to Sample if Sample is
enabled and the floor is Sample or Dormant. -/
def execSampleHoldEnd (s : State) : Res :=
  if s.power.state = .moor ∧ s.power.move.isNone ∧ s.casc.sampleEn ∧ 3 ≤ s.power.floor ∧ !tiersUp s then
    .next (elapseTo (s.casc.gateFrom + s.casc.sampleHold * 1000000) { s with power.move := some { target := .sample, origin := .moor } })
  else .next s

/-! ### Events of the tiers (R37) -/

/-- Tier keys: Kite and the gangs 1–16. -/
def noTier (k : Nat) : Bool := 16 < k

/-- UPDRAFT_WINDOW_END (R37, R38): a tier that no Lift has reached falls. -/
def execUpdraftWindowEnd (k : Nat) (s : State) : Res :=
  if noTier k then .fault .noSuchUnit
  else
    let t := tierOf s k
    match t.windowEnd with
    | some e =>
      if (t.state == .warming || t.state == .warm) && t.lift.isNone then
        .next (fallTier k (elapseTo e s))
      else .next (ignoreTier k s)
    | none => .next (ignoreTier k s)

/-- Warm-up of Kite and of a cascade gang, ns (R44). -/
def warmNs (k : Nat) : Nat := if k = 0 then 7000000 else 36000000

/-- Arming of Kite and of a cascade gang, ns (R44). -/
def armNs (k : Nat) : Nat := if k = 0 then 1000000 else 4000000

/-- Falling or Sinking of Kite and of a cascade gang, ns (R38). -/
def downNs (k : Nat) : Nat := if k = 0 then 2000000 else 6000000

/-- WARM_UP_COMPLETE (R37, R44): Warm, or on to Arming if a Lift waits; if that Lift's binding has become invalid meanwhile, the tier
ballasts with cause 0x06 (DESIGN CHOICE, log 46: R40 speaks of the moment of the Lift alone). -/
def execWarmUpComplete (k : Nat) (s0 : State) : Res :=
  if noTier k then .fault .noSuchUnit
  else
    let t := tierOf s0 k
    if t.state ≠ .warming then .next (ignoreTier k s0)
    else
      let s := elapseTo (t.warmFrom.getD t.since + warmNs k) s0
      let s1 := modTier k (fun t => { t with warmFrom := none }) s
      match t.lift with
      | none => .next (enterTier k .warm id s1)
      | some l =>
        if (l.bind.map fun b => bindValid s1 l.target b).getD false then .next (armTier k l s1)
        else .next (ballast k 6 l.rewind s1)

/-- ARMING_COMPLETE (R37): the tier is Active; its first leg starts from the rewind once the first item is supplied. -/
def execArmingComplete (k : Nat) (s : State) : Res :=
  if noTier k then .fault .noSuchUnit
  else if (tierOf s k).state ≠ .arming then .next (ignoreTier k s)
  else .next (supplyFrames k (enterTier k .active id (elapseTo ((tierOf s k).since + armNs k) s)))

/-- Idle hold of a tier in ms (R43). -/
def holdOf (s : State) (k : Nat) : Nat := if k = 0 then s.casc.kiteHold else s.casc.gangHold

/-- IDLE_HOLD_END (R37, R43): an Idle tier ballasts with cause 0x02, unless automatic Ballast is off. -/
def execIdleHoldEnd (k : Nat) (s : State) : Res :=
  if noTier k then .fault .noSuchUnit
  else if holdOf s k = 0xFFFFFFFF then .next s
  else if (tierOf s k).state ≠ .idle then .next (ignoreTier k s)
  else .next (workEnded (boundaries (ballast k 2 (tierConsumed s k) (elapseTo ((tierOf s k).since + holdOf s k * 1000000) s))))

/-- Serves a held Lift after the power-down (R39): a cold start, or BIND_FAIL in its record where its binding has gone (R40). -/
def serveHeld (k : Nat) (l : LiftRec) (s : State) : State :=
  if (l.bind.map fun b => bindValid s l.target b).getD false then tierLift k l s
  else
    let fail := fun (x : LiftRec) => if x.seq = l.seq then { x with flags := x.flags ||| 8 } else x
    { s with casc.liftLog := s.casc.liftLog.map fail }

/-- Some gang other than `k`, or Kite, or a transfer uses the DRAM: a run that is not idle, a tier that is up, a copy or a move (R38). -/
def dramUsed (k : Nat) (s : State) : Bool :=
  s.sched.runs.any (fun e => e.2.gang != k && e.2.state != .idle) || s.casc.tiers.any (fun e => e.1 != k && e.2.state != .off)
    || !s.store.dma.isEmpty || !s.store.moves.isEmpty || !s.store.cold.isEmpty

/-- The LPDDR5X returns to self-refresh with the power-down of a cascade gang if nothing else uses it (R38). -/
def restDram (k : Nat) (s : State) : State := if k = 0 ∨ dramUsed k s then s else { s with store.rest := true }

/-- TIER_POWER_DOWN_COMPLETE (R37–R39): Off, then the held Lifts in order of arrival. -/
def execTierPowerDownComplete (k : Nat) (s0 : State) : Res :=
  if noTier k then .fault .noSuchUnit
  else
    let t := tierOf s0 k
    if t.state ≠ .falling ∧ t.state ≠ .sinking then .next (ignoreTier k s0)
    else
      let s := elapseTo (t.since + downNs k) s0
      let s1 := restDram k (settlePower k (enterTier k .off (fun t =>
        { t with lift := none, held := [], windowEnd := none, warmFrom := none }) s))
      .next (t.held.foldl (fun u l => serveHeld k l u) s1)

/-! ### The alarm and the pins (R46, R417) -/

/-- The first alarm after now of a periodic timer. -/
def nextAlarm (a period now : Nat) : Nat := if now < a then a else a + ((now - a) / period + 1) * period

/-- A Lift of Mooring without a score (R32's table: timer and external pin). -/
def plainLift (reason aux : Nat) (s : State) : State :=
  let trig := sampleNow s
  let l : LiftRec :=
    { source := 0, target := 1, reason := reason, time := s.time.now, trigger := trig, aux := aux }
  raiseLift ((trig : Int) - ((srcCfg s 0 reason).preroll * 16 : Nat)) l s

/-- RTC_ALARM (R46): the alarm's time has come; it raises a timer Lift while source 0, reason 0x04 is enabled, and a periodic
timer sets its next alarm. -/
def execRtcAlarm (s : State) : Res :=
  match s.casc.alarm with
  | none => .next s
  | some a =>
    let s1 := elapseTo a s
    let next := if s.casc.period = 0 then none else some (nextAlarm a s.casc.period s1.time.now)
    let s2 := { s1 with casc.alarm := next }
    .next (if (srcCfg s2 0 4).enable then plainLift 4 0 s2 else s2)

/-- Whether an edge of AON_GPIO `pin` raises a Lift of reason 0x05 (R47). -/
def pinLift (s : State) (pin : Nat) (level : Bool) : Bool :=
  let c := srcCfg s 0 5
  c.enable && bits c.aux 2 0 == pin && c.aux.testBit 3 == level

/-- Whether the level or edge of AON_GPIO `pin` is a wake (R417, R429). -/
def pinWake (s : State) (pin : Nat) (level : Bool) : Bool :=
  s.power.gpioEn.testBit pin && s.power.gpioPol.testBit pin == level

/-- AON_GPIO_EDGE (R417): an edge selected for reason 0x05 raises the Lift and counts once; otherwise a pin enabled for wake
wakes to Moor or Run as PWR_WAKE chose. -/
def execAonGpioEdge (pin : Nat) (level : Bool) (s : State) : Res :=
  if 7 < pin then .fault .noSuchUnit
  else
    let others := maskOf ((bitsOf 8 s.power.gpio).filter (· != pin))
    let s1 := { s with power.gpio := others + (if level then 2 ^ pin else 0) }
    if s.power.gpio.testBit pin = level then .next s1
    else if pinLift s1 pin level then .next (plainLift 5 pin s1)
    else if pinWake s1 pin level then
      .next (wakeTo (if s1.power.wakeFlags.testBit 2 then .run else .moor) 3 pin s1)
    else .next s1

end Sys2Proof.Machine
end

