-- ==== Sys2Proof/Machine/PlanCheck.lean ====
section
/-! DEFINITION. The check of a flight plan container (07, R176–R185, R485; the descriptors of 08, 09 and 10). Every function
answers a list of failures: the order of R185 and the leg, 0xFFFFFFFF outside the legs. -/

namespace Sys2Proof.Machine

/-- One failed check: its order in R185 and the leg it lies in. -/
abbrev PFail := Nat × Nat

/-- A failure where the condition holds. -/
def pf (order leg : Nat) (bad : Bool) : List PFail := if bad then [(order, leg)] else []

/-- No leg. -/
def noLeg : Nat := 0xFFFFFFFF

/-- The code of each check of R185. -/
def orderCode (o : Nat) : Code :=
  match o with
  | 1 => .eVersion | 2 => .eReserved | 3 => .eRange | 4 => .eAlign | 5 => .eRange | 6 => .eCombination | 7 => .eDenied
  | 8 => .eSignature | 9 => .eQuota | _ => .eNomem

/-- The failure that is reported: the first of the lowest order (R185). -/
def worst (fs : List PFail) : Option PFail := (List.range 11).findSome? fun o => fs.find? fun f => f.1 == o

/-! ### Formats and extents (R141, R148–R150) -/

/-- A format code of the table. -/
def isFmt (f : Nat) : Bool := codeBits f != 0

/-- A multiplier input of the engine: Balloon takes all but FP32, Kite also no BF16 (R141). -/
def mulFmt (engine f : Nat) : Bool := isFmt f && f != 0x01 && !(engine == 1 && f == 0x02)

/-! ### The container -/

/-- Fields of the container header (R178). -/
structure Hdr where
  engine : Nat
  gangSize : Nat
  legs : Nat
  objs : Nat
  descs : Nat
  entry : Nat
  cascIn : Nat
  signed : Bool
  objOff : Nat
  idxOff : Nat
  descOff : Nat
  sigOff : Nat
  deriving Repr

/-- Reads the header (R178). -/
def hdrOf (c : List Byte) : Hdr :=
  { engine := num c 6 1, gangSize := num c 7 1, legs := num c 12 2, objs := num c 14 2, descs := num c 16 2, entry := num c 18 2
    cascIn := num c 20 2, signed := (num c 22 2).testBit 0, objOff := num c 24 4, idxOff := num c 28 4, descOff := num c 32 4
    sigOff := num c 36 4 }

/-- The object table (R179). -/
def objsOf (c : List Byte) (h : Hdr) : List PlanObj :=
  (List.range h.objs).map fun i =>
    let e := slice c (h.objOff + 32 * i) 32
    { addr := num e 0 8, size := num e 8 8, kind := num e 16 1, access := num e 17 1 }

/-- Offset of leg `i`. -/
def legOff (c : List Byte) (h : Hdr) (i : Nat) : Nat := num c (h.idxOff + 4 * i) 4

/-- The bytes of leg `i`: header and stage records (R180). -/
def legBytes (c : List Byte) (h : Hdr) (i : Nat) : List Byte :=
  let o := legOff c h i
  slice c o (64 + 176 * min 8 (num c o 1))

/-- The descriptors of the descriptor area. -/
def descsOf (c : List Byte) (h : Hdr) : List (List Byte) := (List.range h.descs).map fun i => slice c (h.descOff + 128 * i) 128

/-- The plan that a container describes (R186), for context `ctx`. -/
def planOfCont (c : List Byte) (ctx : Nat) : Plan :=
  let h := hdrOf c
  let legs := (List.range h.legs).map (legBytes c h)
  { ctx := ctx, engine := h.engine, gangSize := h.gangSize, signed := h.signed, entry := h.entry, cascIn := h.cascIn
    objs := objsOf c h, legs := legs, descs := descsOf c h
    store := (4 * h.legs + (legs.map List.length).foldl (· + ·) 0 + 128 * h.descs + 65535) / 65536 }

/-- Header failures (R178, R184): sections inside the container, fields in range, alignment, SIGNED against its offset. -/
def hdrFails (c : List Byte) (size : Nat) : List PFail :=
  let h := hdrOf c
  let gs := if h.engine = 0 then [1, 2, 4, 8, 16, 32] else [2]
  let sigIn := h.signed && h.sigOff + 276 == size
  pf 1 noLeg (num c 0 4 != 0x33595046 || num c 4 2 / 256 != 1)
  ++ pf 2 noLeg (2 ≤ num c 22 2 || num c 52 76 != 0 || (sigIn && num c (h.sigOff + 141) 3 != 0))
  ++ pf 3 noLeg (1 < h.engine || !gs.contains h.gangSize || num c 8 4 != size || h.legs = 0 || 16384 < h.legs || h.objs = 0
      || 1024 < h.objs || 16384 < h.descs || h.legs ≤ h.entry || (h.cascIn != 0xFFFF && h.objs ≤ h.cascIn)
      || size < h.objOff + 32 * h.objs || size < h.idxOff + 4 * h.legs || size < h.descOff + 128 * h.descs
      || (h.signed && h.sigOff != 0 && !sigIn))
  ++ pf 4 noLeg (h.objOff % 16 != 0 || h.idxOff % 16 != 0 || h.descOff % 16 != 0 || h.sigOff % 16 != 0)
  ++ pf 6 noLeg (h.signed != (h.sigOff != 0))

/-- Failures of one object (R179, R114). -/
def objFails (s : State) (ctx : Nat) (e : List Byte) : List PFail :=
  let a := num e 0 8
  let n := num e 8 8
  let k := num e 16 1
  let acc := num e 17 1
  let okR := a + n ≤ 2 ^ 48 && n != 0 && 1 ≤ k && k ≤ 7
  let okA := a % 16 == 0 && n % 16 == 0
  let mapped := okR && okA && rangeMapped s ctx a n
  pf 2 noLeg (4 ≤ acc || num e 18 14 != 0)
  ++ pf 3 noLeg (!okR)
  ++ pf 4 noLeg (!okA)
  ++ pf 5 noLeg (okR && okA && !mapped)
  ++ pf 7 noLeg (mapped && ((acc.testBit 0 && !rangePermits s ctx a n false) || (acc.testBit 1 && !rangePermits s ctx a n true)))

/-- A use of an object: reference, extent, whether it is written. The item 0xFFFE has no extent of its own; index 0xFFFF is no
object (R179, R181). -/
def useBad (os : List PlanObj) (x : Nat × Nat) (ext : Nat) (write : Bool) : Bool :=
  if x.1 = 0xFFFE then false
  else if x.1 = 0xFFFF then true
  else match os[x.1]? with
    | none => false
    | some o =>
      o.size < x.2 + ext || (if write then o.kind ≤ 3 || !o.access.testBit 1 else !o.access.testBit 0)

/-- A reference index that is neither an object, nor none, nor the item. -/
def refRange (os : List PlanObj) (x : Nat × Nat) : Bool := x.1 < 0xFFFE && os.length ≤ x.1

/-- Reserved bytes of a reference at byte `off` of a record (R181). -/
def refRsv (b : List Byte) (off : Nat) : Bool := num b (off + 2) 2 != 0

/-! ### Tail programs (R173, R174, R485) -/

/-- Op words after the first END. -/
def tailRest (st : List Byte) : List (List Byte) := ((tailWords st).dropWhile fun w => num w 0 1 != 0).drop 1

/-- Arguments of an op word in range (R173). -/
def opArgsOk (w : List Byte) : Bool :=
  let a := num w 1 1
  let b := num w 2 1
  let c := num w 3 1
  match num w 0 1 with
  | 0x00 => a == 0 && b == 0 && c == 0
  | 0x01 => a ≤ 1 && b == 0 && c == 0
  | 0x02 => a ≤ 12 && b ≤ 3 && c ≤ 3
  | 0x03 => a ≤ 1 && (b == 1 || b == 2) && c == 0
  | 0x04 => a ≤ 1 && (b == 1 || b == 2) && c == 0
  | 0x05 => a ≤ 3 && b ≤ 3 && c == 0
  | 0x06 => 1 ≤ a && a ≤ 3 && b == 0 && c == 0
  | 0x07 => a == 0 && (b ≤ 1 || b == 0xFF) && c == 0
  | 0x08 => 1 ≤ a && a ≤ 64 && b ≤ 3 && c ≤ 1
  | 0x09 => a == 0 && b == 0 && c == 0
  | 0x0A => (a == 1 || a == 2) && b == 0 && c == 0
  | _ => false

/-- The rules of R174 and R265 on a program: one CONVERT or STORE, last; at most one SMAX and one ROTATE; GATE first and only in
a cell stage, with the cell type. -/
def tailBad (st : List Byte) (cellType : Option Nat) : Bool :=
  let body := tailBody st
  let ops := body.map fun w => num w 0 1
  let last := ops.getLast?.getD 0
  let gates := (ops.filter (· == 6)).length
  (tailRest st).any (fun w => num w 0 4 != 0)
    || (last != 9 && last != 10) || (ops.filter fun o => o == 9 || o == 10).length != 1
    || 1 < (ops.filter (· == 7)).length || 1 < (ops.filter (· == 8)).length
    || (match cellType with
        | none => gates != 0
        | some t => gates != 1 || ops.head? != some 6 || (body.head?.map fun w => num w 1 1) != some t)

/-- The uses of the Tail's aux references that do not fit. The extent of an attention stage's mask is tested at step start (R485), its read bit
here (R179). -/
def auxBad (os : List PlanObj) (st : List Byte) (attn : Bool) : Bool :=
  (tailAux st attn).any (fun (a, n) => useBad os (sref st (6 + a)) n false)
    || (attn && (tailBody st).any fun w => num w 0 1 == 7 && num w 2 1 != 0xFF && useBad os (sref st (6 + num w 2 1)) 0 false)

/-- The output block byte against R181 and R166. -/
def outBlockBad (st : List Byte) : Bool :=
  let b := num st 6 1
  let f := num st 3 1
  (b.testBit 4 && (blockOf b == 0 || f == 0x01 || f == 0x02)) || (b.testBit 5 && f == 0x01)

/-- The scales of an A operand of `m` rows of `k` elements do not fit (R150, R185). -/
def scalesBad (os : List PlanObj) (st : List Byte) (m k : Nat) : Bool :=
  blockOf (num st 4 1) != 0 && useBad os (sref st 1) (scaleBytes m k (num st 4 1)) false

/-- The output and its scales do not fit. -/
def outBad (os : List PlanObj) (st : List Byte) (rows n : Nat) : Bool :=
  useBad os (sref st 4) (tensorBytes rows n (outBits st) (num st 116 4)) true
    || (blockOf (num st 6 1) != 0 && tailConverts st
        && useBad os (sref st 5) (scaleBytes rows n (num st 6 1)) ((num st 6 1).testBit 4))

/-! ### Windowed stages (08, R209–R227) -/

/-- Effective kernel (R213). -/
def effK (k d : Nat) : Nat := d * (k - 1) + 1

/-- Output extent of an axis; 0 for no output (R213). -/
def outExt (x k d s lo hi : Nat) : Nat := if x + lo + hi < effK k d then 0 else (x + lo + hi - effK k d) / s + 1

/-- Regrouped input rows, columns and channels (R217). -/
def winIn (w : Win) : Nat × Nat × Nat :=
  if w.s2d then ((w.hIn + w.f - 1) / w.f, (w.wIn + w.f - 1) / w.f, w.f * w.f * w.cIn) else (w.hIn, w.wIn, w.cIn)

/-- Reserved bits of the pad code for the A format (R214). -/
def padRsv (fmt pad : Nat) : Bool :=
  match codeBits fmt with
  | 8 => 256 ≤ pad
  | 4 => 16 ≤ pad
  | 3 => 8 ≤ pad
  | _ => false

/-- Bytes of weights, scales and sums of a windowed stage (R221). -/
def winWeights (st : List Byte) : Nat :=
  if isPool st then 0
  else
    let k := num st 16 4
    let n := num st 12 4
    n * rowBytes k (codeBits (num st 2 1)) + scaleBytes n k (num st 5 1) + 4 * k

/-- Failures of one windowed stage by itself (R211–R217, R227). `fused` says that its input is the tile of the stage before it,
`feeds` that a fused stage follows. -/
def winFails (os : List PlanObj) (st d : List Byte) (engine leg : Nat) (fused feeds : Bool) : List PFail :=
  let w := winOf d
  let (h', w', c') := winIn w
  let re := w.s2d || w.d2s
  let g := max w.groups 1
  let yh := outExt h' w.kh w.dh (max w.sh 1) w.pt w.pb
  let yw := outExt w' w.kw w.dw (max w.sw 1) w.pl w.pr
  let pool := isPool st
  let m := num st 8 4
  let n := num st 12 4
  let k := num st 16 4
  let blkA := blockOf (num st 4 1)
  let blkB := if pool then 0 else blockOf (num st 5 1)
  let fields := w.hIn = 0 || w.wIn = 0 || w.cIn = 0 || 65536 < w.cIn || w.cOut = 0 || 65536 < w.cOut || w.groups = 0
    || (pool && w.groups != 1) || w.kh = 0 || 31 < w.kh || w.kw = 0 || 31 < w.kw || w.sh = 0 || 64 < w.sh || w.sw = 0 || 64 < w.sw
    || w.dh = 0 || 64 < w.dh || w.dw = 0 || 64 < w.dw || (!w.fuse && w.tRows = 0) || w.batch = 0 || 4096 < w.batch
    || (if re then w.f != 2 && w.f != 4 && w.f != 8 else w.f != 0) || (!w.planar && w.plane != 0)
  pf 2 leg (32 ≤ num d 1 1 || num d 3 1 != 0 || num d 30 2 != 0 || num d 50 2 != 0 || num d 60 68 != 0
      || padRsv (num st 1 1) (num d 28 2) || refRsv d 52)
  ++ pf 3 leg (fields || yh = 0 || yw = 0 || refRange os (refOf d 52))
  ++ pf 4 leg (w.batchStride % 16 != 0 || w.plane % 16 != 0 || (refOf d 52).2 % 16 != 0)
  ++ pf 6 leg (w.hOut != yh || w.wOut != yw || m != w.batch * w.hOut
      || (if pool then n != c' || n != w.cOut || k != w.kh * w.kw else n != w.cOut || k != w.kh * w.kw * c' / g)
      || c' % g != 0 || w.cOut % g != 0
      || (blkA != 0 && c' / g % blkA != 0) || (blkB != 0 && c' / g % blkB != 0)
      || (w.d2s && (w.f = 0 || w.cOut % (w.f * w.f) != 0))
      || (w.planar && !w.s2d) || (w.exch && (w.fuse || engine == 1)) || (!w.exch && (refOf d 52).1 != 0xFFFF)
      || (feeds && (sref st 4).1 != 0xFFFF)
      || (!fused && useBad os (sref st 0) (winInBytes st w) false)
      || (!fused && blkA != 0 && useBad os (sref st 1) (scaleBytes (w.batch * w.hIn * w.wIn) w.cIn (num st 4 1)) false)
      || (!feeds && useBad os (sref st 4) (winOutBytes st w) true)
      || (!feeds && blockOf (num st 6 1) != 0 && tailConverts st
          && useBad os (sref st 5) (scaleBytes (w.batch * w.hOut * w.wOut) w.cOut (num st 6 1)) ((num st 6 1).testBit 4))
      || (!pool && (useBad os (sref st 2) (n * rowBytes k (codeBits (num st 2 1))) false
          || (blkB != 0 && useBad os (sref st 3) (scaleBytes n k (num st 5 1)) false)
          || ((sref st 8).1 != 0xFFFF && useBad os (sref st 8) (4 * k) false))))

/-- Splits a leg's windowed stages into groups: a stage with FUSE clear begins one (R219). -/
def winGroups (ws : List (List Byte × Win)) : List (List (List Byte × Win)) :=
  ws.foldl (fun gs x =>
    match gs.reverse with
    | [] => [[x]]
    | g :: rest => if x.2.fuse then (rest.reverse ++ [g ++ [x]]) else gs ++ [[x]]) []

/-- Scratchpad bytes that a group needs (R221): the tile's rows and columns, taken back through the stages. -/
def groupNeed (g : List (List Byte × Win)) : Nat :=
  let last := g.getLast?
  let first := g.head?
  match first, last with
  | some (_, f), some (sl, l) =>
    let u := if f.tCols = 0 then l.wOut else f.tCols
    let (sum, _, _) := g.reverse.foldl (fun (acc, r, c) (st, w) =>
      let (h', w', c') := winIn w
      let r1 := min ((r - 1) * w.sh + effK w.kh w.dh) (h' + w.pt + w.pb)
      let c1 := min ((c - 1) * w.sw + effK w.kw w.dw) (w' + w.pl + w.pr)
      (acc + r1 * c1 * pixBytes c' (codeBits (num st 1 1)), r1, c1)) (0, f.tRows, u)
    sum + f.tRows * u * pixBytes l.cOut (outBits sl) + (g.map fun x => winWeights x.1).foldl (· + ·) 0
  | _, _ => 0

/-- First row of stripe `b` of `n` over `y` rows (R222). -/
def stripeLo (y n b : Nat) : Nat := b * y / n

/-- P_top, S and E of a group (R220). -/
def groupHalo (g : List (List Byte × Win)) : Nat × Nat × Nat :=
  g.foldl (fun (p, s, e) (_, w) => (p + w.pt * s, s * w.sh, e + (effK w.kh w.dh - 1) * s)) (0, 1, 1)

/-- The output rows of the group before, whose last stage has window `prev`, that output rows `a` to `e - 1` of group `g` need: first row and
end (R220, R224). Rows of the group's input count as regrouped ones where its first stage has S2D, and `prev` gives `outF` stored rows for
each of its output rows (R217). -/
def rowsNeeded (prev : Win) (g : List (List Byte × Win)) (a e : Nat) : Nat × Nat :=
  let (p, s, x) := groupHalo g
  let (f, h) := match g.head? with | some y => (y.2.inF, y.2.hIn) | none => (1, 0)
  let lo := (a * s - p) * f
  let hi := min h (((e - 1) * s + x - p) * f)
  if hi ≤ lo then (0, 0) else (lo / prev.outF, (hi + prev.outF - 1) / prev.outF)

/-- Last window of a group. -/
def lastWin (g : List (List Byte × Win)) : Win := (g.getLast?.map Prod.snd).getD (winOf [])

/-- Whether the rows that a stripe of group `g` reads come from more than its two neighbours' stripes of the group before it, `prev`
(R224). -/
def haloBad (prev g : List (List Byte × Win)) (n : Nat) : Bool :=
  let y0 := (lastWin prev).hOut
  let y1 := (lastWin g).hOut
  (List.range n).any fun b =>
    let (lo, hi) := rowsNeeded (lastWin prev) g (stripeLo y1 n b) (stripeLo y1 n (b + 1))
    lo < hi && (lo < stripeLo y0 n (b - 1) || stripeLo y0 n (min n (b + 2)) < hi)

/-- Range of the whole object that a reference names. -/
def objSpan (os : List PlanObj) (x : Nat × Nat) : Option (Nat × Nat) := (os[x.1]?).map fun o => (o.addr, o.addr + o.size)

/-- Object range of a reference: first byte and end. -/
def spanOf (os : List PlanObj) (x : Nat × Nat) (n : Nat) : Option (Nat × Nat) := (os[x.1]?).map fun o => (o.addr + x.2, o.addr + x.2 + n)

/-- Whether two spans share a byte. -/
def spansMeet (a b : Option (Nat × Nat)) : Bool :=
  match a, b with
  | some (p, q), some (u, v) => p < v && u < q
  | _, _ => false

/-- Failures of the windowed stages of a leg together (R219, R221–R225, R227). -/
def groupFails (os : List PlanObj) (leg : List Byte) (ds : List Byte → List Byte) (engine i : Nat) : List PFail :=
  let sts := stagesOf leg
  let ws := (sts.filter isWin).map fun st => (st, winOf (ds st))
  let gs := winGroups ws
  let n := num leg 2 2
  let stripes := num leg 24 1 == 3
  let fuseOf := fun st => isWin st && (winOf (ds st)).fuse
  let yOf := fun (g : List (List Byte × Win)) => (g.getLast?.map fun x => x.2.hOut).getD 0
  let outRef := fun (g : List (List Byte × Win)) => (g.getLast?.map fun x => sref x.1 4).getD (0xFFFF, 0)
  let pairs := gs.zip gs.tail
  let exchObj := fun (g : List (List Byte × Win)) => (g.head?.map fun x => refOf (ds x.1) 52).getD (0xFFFF, 0)
  let exchBad := fun x => match os[(x : Nat × Nat).1]? with
    | none => true
    | some o => o.kind != 6 || !o.access.testBit 1 || o.size < x.2 + 8 * (n - 1)
  let inputs := gs.head?.toList.map fun g => (g.head?).bind fun x => objSpan os (sref x.1 0)
  let exSpans := gs.tail.map fun g => spanOf os (exchObj g) (8 * (n - 1))
  let outs := gs.map fun g => objSpan os (outRef g)
  pf 6 i ((sts.zip (sts.drop 1)).any fun (a, b) => fuseOf b && !isWin a)
  ++ pf 6 i ((sts.head?.map fuseOf).getD false)
  ++ pf 6 i (gs.any fun g => num leg 16 4 < groupNeed g)
  ++ pf 6 i (!stripes && ws.any fun x => x.2.exch)
  ++ pf 6 i (stripes && (engine == 1 || !sts.all isWin))
  ++ pf 6 i (stripes && (
      (gs.head?.bind List.head?).any (fun x => x.2.exch)
      || gs.tail.any (fun g => !(g.head?.any fun x => x.2.exch))
      || gs.tail.any (fun g => exchBad (exchObj g))
      || pairs.any (fun (a, b) => (b.head?.map fun x => sref x.1 0) != some (outRef a))
      || gs.any (fun g => yOf g < n)
      || pairs.any (fun (a, b) => haloBad a b n)
      || (List.range outs.length).any (fun j =>
          (List.range outs.length).any (fun q => j < q && spansMeet (outs.getD j none) (outs.getD q none))
          || (inputs ++ exSpans).any (fun x => spansMeet (outs.getD j none) x))))

/-! ### Attention, cell and scan descriptors (R242, R245, R264, R265, R270, R278) -/

/-- A step source: the item, or a kind-7 object with read and write access (R242, R264). -/
def sourceBad (os : List PlanObj) (x : Nat × Nat) : Bool :=
  if x.1 = 0xFFFE then false
  else match os[x.1]? with
    | none => true
    | some o => o.kind != 7 || o.access % 4 != 3

/-- A block byte out of range or with reserved bits. -/
def blockRsv (b : Nat) : Bool := 16 ≤ b
/-- A scale format of a block byte out of range. -/
def blockRange (b : Nat) : Bool := 1 < bits b 3 2

/-- Failures of an attention stage (R242, R245): the latents and the up-projections are operands of products (R141, R244). -/
def attnFails (os : List PlanObj) (leg st d : List Byte) (i : Nat) : List PFail :=
  let H := num d 4 2
  let dk := num d 6 2
  let dv := num d 8 2
  let dl := num d 10 2
  let dpe := num d 12 1
  let abs := (num d 1 1).testBit 0
  let m := num st 8 4
  let lf := codeBits (num d 3 1)
  let uf := codeBits (num d 13 1)
  let split := num leg 24 1
  pf 2 i (2 ≤ num d 1 1 || num d 15 1 != 0 || num d 60 68 != 0 || blockRsv (num d 14 1)
      || refRsv d 16 || refRsv d 24 || refRsv d 32 || refRsv d 40 || refRsv d 48)
  ++ pf 3 i (127 < num d 2 1 || !isFmt (num d 3 1) || H = 0 || 256 < H
      || (if abs then dk != 0 else dk < 16 || 512 < dk || dk % 16 != 0) || dv < 16 || 512 < dv || dv % 16 != 0
      || !isFmt (num d 13 1) || blockRange (num d 14 1)
      || ([16, 24, 32, 40, 48].any fun o => refRange os (refOf d o)) || num st 2 1 != 0 || num st 5 1 != 0)
  ++ pf 4 i ([16, 24, 32, 40, 48].any fun o => (refOf d o).2 % 16 != 0)
  ++ pf 6 i (num st 12 4 != H * dv || num st 16 4 != H * ((if abs then dl else dk) + dpe)
      || sourceBad os (refOf d 16) || !mulFmt 0 (num d 3 1) || !mulFmt 0 (num d 13 1)
      || useBad os (refOf d 24) (m * rowBytes dl lf) false
      || (if dpe = 0 then (refOf d 32).1 != 0xFFFF else useBad os (refOf d 32) (m * rowBytes dpe 16) false)
      || (if abs then (refOf d 40).1 != 0xFFFF else useBad os (refOf d 40) (H * dk * rowBytes dl uf) false)
      || useBad os (refOf d 48) (H * dv * rowBytes dl uf) false
      || split = 3 || (split = 0 && H < num leg 2 2)
      || (blockOf (num st 4 1) != 0 && blockOf (num d 14 1) != 0 && blockOf (num st 4 1) != blockOf (num d 14 1))
      || useBad os (sref st 0) (tensorBytes m (num st 16 4) (codeBits (num st 1 1)) (num st 112 4)) false
      || scalesBad os st m (num st 16 4)
      || outBad os st m (num st 12 4))

/-- A selector of a user-defined cell in range for `G` gates (R263). -/
def selBad (G x : Nat) : Bool :=
  if x ≤ 3 then G ≤ x else if 0x10 ≤ x ∧ x ≤ 0x13 then G ≤ x - 0x10 else false
/-- A selector value of the table (R263). -/
def selRange (x : Nat) : Bool := !(x ≤ 3 || (0x10 ≤ x && x ≤ 0x13) || x == 0x20 || x == 0x21)
/-- An activation of a user-defined cell (R263). -/
def actRange (x : Nat) : Bool := 12 < x && x != 0xFF

/-- Failures of a cell stage (R262–R265). -/
def cellFails (os : List PlanObj) (st d : List Byte) (i : Nat) : List PFail :=
  let ty := num d 2 1
  let G := num d 3 1
  let kin := num d 8 4
  let H := num d 12 2
  let wb := num d 7 1
  let m := num st 8 4
  let refs := [16, 24, 32, 40, 48, 56]
  let acts := [64, 65, 66, 67].map fun o => num d o 1
  let user := ty == 3
  let table := user && (acts.take G ++ [num d 71 1]).any (· == 0xFF)
  pf 2 i (4 ≤ num d 1 1 || num d 14 2 != 0 || num d 72 56 != 0 || blockRsv wb || refs.any (refRsv d))
  ++ pf 3 i (ty = 0 || 3 < ty || (ty = 1 && G != 3) || (ty = 2 && G != 4) || (user && (G = 0 || 4 < G))
      || !isFmt (num d 5 1) || !isFmt (num d 6 1) || blockRange wb || kin = 0 || 65536 < kin
      || refs.any (fun o => refRange os (refOf d o))
      || (if user then acts.any actRange || actRange (num d 71 1) || ([68, 69, 70].any fun o => selRange (num d o 1))
          else num d 64 8 != 0)
      || num st 2 1 != 0 || num st 5 1 != 0)
  ++ pf 4 i (refs.any fun o => (refOf d o).2 % 16 != 0)
  ++ pf 6 i (num st 12 4 != H || num st 16 4 != kin || (sref st 8).1 != 0xFFFF || sourceBad os (refOf d 56)
      || !mulFmt 0 (num d 5 1) || !mulFmt 0 (num d 6 1)
      || useBad os (refOf d 16) (G * H * rowBytes kin (codeBits (num d 5 1))) false
      || useBad os (refOf d 24) (G * H * rowBytes H (codeBits (num d 6 1))) false
      || (blockOf wb != 0 && (useBad os (refOf d 32) (scaleBytes (G * H) kin wb) false
          || useBad os (refOf d 40) (scaleBytes (G * H) H wb) false))
      || (blockOf wb == 0 && ((refOf d 32).1 != 0xFFFF || (refOf d 40).1 != 0xFFFF))
      || useBad os (refOf d 48) (4 * H * (if ty = 1 then 4 else G)) false
      || (user && [68, 69, 70].any fun o => selBad G (num d o 1))
      || (table && useBad os (sref st 7) (257 * 4) false)
      || useBad os (sref st 0) (tensorBytes m kin (codeBits (num st 1 1)) (num st 112 4)) false
      || scalesBad os st m kin
      || (blockOf (num st 4 1) != 0 && blockOf wb != 0 && blockOf (num st 4 1) != blockOf wb)
      || outBad os st m H)

/-- PIPELINE legs (R270): all cell stages or none with PIPELINE, slices a multiple of the stages, split N, and every stage but the
last with SEQ_OUT feeding the next. -/
def pipeFails (leg : List Byte) (ds : List Byte → List Byte) (i : Nat) : List PFail :=
  let sts := stagesOf leg
  let pipe := fun st => num st 0 1 == 4 && (num (ds st) 1 1).testBit 0
  if sts.any pipe then
    pf 6 i (!sts.all pipe || num leg 2 2 % max sts.length 1 != 0 || num leg 24 1 != 0
      || (sts.zip (sts.drop 1)).any fun (a, b) => !((num (ds a) 1 1).testBit 1) || sref a 4 != sref b 0)
  else []

/-- Failures of a prefix-scan stage (R278). -/
def scanFails (os : List PlanObj) (st d : List Byte) (i : Nat) : List PFail :=
  let fl := num d 1 1
  let T := num d 2 2
  let D := num d 4 4
  let B := num d 8 2
  let refs := [16, 24, 32]
  let w := codeBits (num st 1 1)
  pf 2 i (8 ≤ fl || num d 10 6 != 0 || num d 40 88 != 0 || refs.any (refRsv d))
  ++ pf 3 i (T = 0 || 4096 < T || D = 0 || 65536 < D || B = 0 || 64 < B || refs.any (fun o => refRange os (refOf d o)) || num st 2 1 != 0)
  ++ pf 4 i (refs.any fun o => (refOf d o).2 % 16 != 0)
  ++ pf 6 i (num st 8 4 != B * T || num st 12 4 != D || num st 16 4 != 1 || (num st 1 1 != 1 && num st 1 1 != 2)
      || (outFmt st != 1 && outFmt st != 2)
      || (if fl.testBit 0 then useBad os (refOf d 16) (B * rowBytes D 32) false else (refOf d 16).1 != 0xFFFF)
      || (if fl.testBit 1 then useBad os (refOf d 24) (B * rowBytes D 32) true else (refOf d 24).1 != 0xFFFF)
      || (if fl.testBit 2 then useBad os (refOf d 32) (B * rowBytes T 1) false else (refOf d 32).1 != 0xFFFF)
      || useBad os (sref st 0) (tensorBytes (B * T) D w (num st 112 4)) false
      || useBad os (sref st 6) (tensorBytes (B * T) D w (num st 112 4)) false
      || outBad os st (B * T) D)

/-! ### Product and vector stages (R169, R175, R280) -/

/-- Failures of a product stage (R169, R170). -/
def prodFails (os : List PlanObj) (st : List Byte) (i : Nat) : List PFail :=
  let m := num st 8 4
  let n := num st 12 4
  let k := num st 16 4
  pf 6 i (useBad os (sref st 0) (tensorBytes m k (codeBits (num st 1 1)) (num st 112 4)) false
      || scalesBad os st m k
      || useBad os (sref st 2) (n * rowBytes k (codeBits (num st 2 1))) false
      || (blockOf (num st 5 1) != 0 && useBad os (sref st 3) (scaleBytes n k (num st 5 1)) false)
      || ((sref st 8).1 != 0xFFFF && useBad os (sref st 8) (4 * k) false)
      || outBad os st m n)

/-- Largest and smallest vector parameter of a vector op, for the ops whose parameter is a number (R175). -/
def vecRange (vop p : Nat) : Bool :=
  match vop with
  | 0x01 => p != 0 | 0x02 => p != 0 | 0x03 => 3 < p | 0x04 => p = 0 || 64 < p | 0x05 => p != 0 | 0x06 => p != 0 | 0x07 => 5 < p
  | 0x08 => p != 0 | 0x09 => p != 0 | 0x0A => bits p 1 0 == 3 | 0x0B => bits p 17 16 == 3 | 0x0C => 1 < p | 0x0D => p != 0
  | 0x0E => p != 0 | _ => true

/-- Reserved bits of the vector parameter (R216, R280). -/
def vecRsv (vop p : Nat) : Bool := (vop == 0x0A && 16 ≤ p) || (vop == 0x0B && 2 ^ 18 ≤ p)

/-- Failures of a vector stage other than window pooling (R175). -/
def vecFails (os : List PlanObj) (st : List Byte) (i : Nat) : List PFail :=
  let m := num st 8 4
  let k := num st 16 4
  pf 6 i ((num st 1 1 != 1 && num st 1 1 != 2)
      || useBad os (sref st 0) (tensorBytes m k (codeBits (num st 1 1)) (num st 112 4)) false
      || (vecAux st).any (fun (a, n) => useBad os (sref st (6 + a)) n false)
      || outBad os st m (num st 12 4)
      || (num st 23 1 == 0x06 && useBad os (sref st 4) 0 false))

/-! ### Stages, legs, the whole container -/

/-- Descriptor kind of an op; 0 for none (R211, R242, R264, R278). -/
def kindOf (op : Nat) : Nat := match op with | 1 => 1 | 3 => 3 | 4 => 4 | 5 => 5 | _ => 0

/-- Failures of one stage record (R181, R173, R174, R175, R200). -/
def stageFails (os : List PlanObj) (ds : List (List Byte)) (leg st : List Byte) (engine i : Nat) (fused feeds : Bool) : List PFail :=
  let op := num st 0 1
  let ab := num st 4 1
  let bb := num st 5 1
  let ob := num st 6 1
  let vop := num st 23 1
  let vp := num st 24 4
  let withB := op ≤ 1
  let idx := if isWin st then winIndex st else num st 20 2
  let needs := kindOf op != 0 || isPool st
  let d := ds.getD idx []
  let kind := if isPool st then 1 else kindOf op
  let descOk := idx < ds.length && num d 0 1 == kind
  let cellTy := if op = 4 then some (num d 2 1) else none
  let body := tailBody st
  let progOk := (body ++ ((tailWords st).drop body.length).take 1).all opArgsOk
  let bf16 := num st 1 1 == 2 || (withB && num st 2 1 == 2)
  pf 2 i (blockRsv ab || blockRsv bb || 64 ≤ ob || num st 168 8 != 0 || (List.range 9).any (fun j => refRsv st (40 + 8 * j))
      || (op == 2 && vecRsv vop vp))
  ++ pf 3 i (5 < op || !isFmt (num st 1 1) || (if withB then !isFmt (num st 2 1) else num st 2 1 != 0) || !isFmt (num st 3 1)
      || blockRange ab || blockRange bb || blockRange ob
      || num st 8 4 = 0 || 1048576 < num st 8 4 || num st 12 4 = 0 || 65536 < num st 12 4 || num st 16 4 = 0 || 1048576 < num st 16 4
      || !(num st 22 1 = 0 || (6 ≤ num st 22 1 && num st 22 1 ≤ 20))
      || (if op = 2 then vecRange vop vp else vop != 0)
      || (List.range 9).any (fun j => refRange os (sref st j)) || !progOk)
  ++ pf 4 i (num st 112 4 % 16 != 0 || num st 116 4 % 16 != 0
      || (List.range 9).any (fun j => (sref st j).2 % 16 != 0))
  ++ pf 6 i ((if kindOf op != 0 then !descOk else num st 20 2 != 0xFFFF || (isPool st && !descOk))
      || tailBad st cellTy || outBlockBad st || auxBad os st (op == 3)
      || (withB && (!mulFmt engine (num st 1 1) || !mulFmt engine (num st 2 1)
          || (blockOf ab != 0 && blockOf bb != 0 && blockOf ab != blockOf bb)))
      || ((op == 3 || op == 4) && !mulFmt engine (num st 1 1))
      || (engine == 1 && (3 ≤ op || num st 7 1 != 0 || bf16)))
  ++ (if needs && !descOk then []
      else if isWin st then winFails os st d engine i fused feeds
        ++ pf 6 i (isPool st && num st 1 1 != 1 && num st 1 1 != 2)
      else match op with
        | 0 => prodFails os st i
        | 2 => vecFails os st i
        | 3 => attnFails os leg st d i
        | 4 => cellFails os st d i
        | 5 => scanFails os st d i
        | _ => [])

/-- Failures of leg `i` by its header (R180, R182). -/
def legHdrFails (c : List Byte) (h : Hdr) (os : List PlanObj) (i size : Nat) : List PFail :=
  let o := legOff c h i
  let l := legBytes c h i
  let act := num l 25 1
  let arg := num l 26 1
  let word := act == 2 || act == 5
  let aref := (num l 32 2, num l 36 4)
  let argBad := if act = 5 then arg = 0 || 3 < arg else if act = 6 then arg != 1 && arg != 3 else arg != 0
  pf 2 i (2 ≤ num l 1 1 || num l 27 1 != 0 || num l 34 2 != 0 || num l 44 20 != 0)
  ++ pf 3 i (size < o + 64 || num l 0 1 = 0 || 8 < num l 0 1 || size < o + 64 + 176 * num l 0 1
      || num l 2 2 < h.gangSize || 64 * h.gangSize < num l 2 2
      || num l 4 4 = 0 || 50000 < num l 4 4 || num l 4 4 < num l 8 4 || num l 12 4 = 0 || 100000 < num l 12 4
      || num l 16 4 < 4096 || 2097152 < num l 16 4 || num l 16 4 < num l 20 4
      || (num l 20 4 != 0 && !(num l 1 1).testBit 0) || 3 < num l 24 1 || 6 < act || argBad || (word && refRange os aref))
  ++ pf 4 i (o % 16 != 0 || num l 16 4 % 4096 != 0 || num l 20 4 % 16 != 0 || (word && num l 36 4 % 4 != 0))
  ++ pf 6 i (num l 2 2 % max h.gangSize 1 != 0 || ((act == 0 || act == 2 || act == 5) && i + 1 = h.legs)
      || ((act == 1 || act == 2 || act == 4) && h.legs ≤ num l 28 4) || (act == 5 && h.engine == 0)
      || (word && useBad os aref (if act = 5 then 32 else 4) false))

/-- Legs that can follow leg `i` through its end action (R172, R182). -/
def followers (l : List Byte) (i : Nat) : List Nat :=
  match num l 25 1 with
  | 0 => [i + 1] | 1 => [num l 28 4] | 2 => [num l 28 4, i + 1] | 4 => [num l 28 4] | 5 => [i + 1] | _ => []

/-- Failures of leg `i` (R172, R180–R182 and its stages). -/
def legFails (c : List Byte) (h : Hdr) (os : List PlanObj) (ds : List (List Byte)) (i size : Nat) : List PFail :=
  let l := legBytes c h i
  let sts := stagesOf l
  let dOf := fun st => ds.getD (if isWin st then winIndex st else num st 20 2) []
  let fuseAt := fun j => match sts[j]? with | some st => isWin st && (winOf (dOf st)).fuse | none => false
  legHdrFails c h os i size
  ++ ((List.range sts.length).map fun j =>
      stageFails os ds l (sts.getD j []) h.engine i (0 < j && fuseAt j) (fuseAt (j + 1))).flatten
  ++ groupFails os l dOf h.engine i
  ++ pipeFails l dOf i
  ++ pf 6 i (num l 24 1 == 3 && !sts.all isWin)
  ++ pf 6 i ((followers l i).any fun j => j < h.legs && 2097152 < num l 16 4 + num (legBytes c h j) 20 4)

/-- Where a step source's record lies, at its longest for stages of at most `m` rows: in the item, or at an address. -/
def sourceSpan (os : List PlanObj) (x : Nat × Nat) (hdr per m : Nat) : Option Nat × Nat × Nat :=
  let n := hdr + per * min 64 (max 1 m)
  if x.1 = 0xFFFE then (none, x.2, n) else (some 0, ((os[x.1]?).getD {}).addr + x.2, n)

/-- Whether the two step sources of a plan overlap (R266): their records of the most sequences and streams that the stages serve
(DESIGN CHOICE, log 56). -/
def sourcesMeet (p : Plan) : Bool :=
  match attnSource p, cellSource p with
  | some a, some c =>
    let most := fun k => ((stagesWith p k).map fun st => num st 8 4).foldl max 1
    let x := sourceSpan p.objs a 64 32 (most 3)
    let y := sourceSpan p.objs c 32 16 (most 4)
    x.1 == y.1 && x.2.1 < y.2.1 + y.2.2 && y.2.1 < x.2.1 + x.2.2
  | _, _ => false

/-- The attention stages name one step source, and so do the cell stages (R237, R264); the two do not overlap (R266). -/
def sourceFails (p : Plan) : List PFail :=
  pf 6 noLeg ((stagesWith p 3).any (fun st => some (refOf (descOf p st) 16) != attnSource p)
    || (stagesWith p 4).any (fun st => some (refOf (descOf p st) 56) != cellSource p)
    || sourcesMeet p)

/-- Bytes of a plan's objects that lie in device objects of a home tier (R178, R299). -/
def homeBytes (s : State) (ctx home : Nat) (os : List PlanObj) : Nat :=
  (os.map fun x => tsum s.store.objs fun _ o =>
    if o.ctx = ctx ∧ !o.host ∧ o.home = home then
      min (x.addr + x.size) (o.va + o.pages * 65536) - max x.addr o.va else 0).foldl (· + ·) 0

/-- Check 8: the signature over bytes 0 to the signature offset (R184). -/
def sigBad (c : List Byte) (h : Hdr) : Bool :=
  let key := slice c (h.sigOff + 8) 133
  h.signed && !(slice c h.sigOff 8 == toLE 8 (Config.sha512 key).toNat && Config.onCurve key
    && Config.ecdsaVerify key (c.take h.sigOff) (slice c (h.sigOff + 144) 132))

/-- Checks 9 and 10 (R185): the leg budgets, the plans quota (not for a reload, R207), the memory quota, the capacity. -/
def quotaFails (s : State) (ctx : Nat) (p : Plan) (need : Nat) (reload : Bool) : List PFail :=
  let q := (ctxOf s ctx).quota
  (if ctx = 0 then [] else
    (p.legs.zipIdx.filterMap fun (l, i) => if q.legBudget < num l 4 4 then some (9, i) else none)
    ++ pf 9 noLeg (!reload && q.plans ≤ (s.sched.plans.filter fun e => e.2.ctx == ctx).length)
    ++ pf 9 noLeg (q.memory < memCharged s ctx + p.store * 65536))
  ++ pf 10 noLeg (usableDram s < need || firmwareSize s < firmwareUsed s + p.store * 65536)

/-- Every failure of the container of context `ctx` (R185). For a reload, the engine and gang size must stay (R208). -/
def contFails (s : State) (ctx : Nat) (c : List Byte) (old : Option Plan) : List PFail :=
  let h := hdrOf c
  let size := c.length
  let os := objsOf c h
  let ds := descsOf c h
  let p := planOfCont c ctx
  hdrFails c size
  ++ ((List.range h.objs).map fun i => objFails s ctx (slice c (h.objOff + 32 * i) 32)).flatten
  ++ ((List.range h.legs).map fun i => legFails c h os ds i size).flatten
  ++ sourceFails p
  ++ pf 6 noLeg (homeBytes s ctx 0 os != num c 40 8 || homeBytes s ctx 1 os != num c 48 4)
  ++ (match old with | some q => pf 6 noLeg (q.engine != h.engine || q.gangSize != h.gangSize) | none => [])
  ++ pf 8 noLeg (sigBad c h)
  ++ quotaFails s ctx p (num c 40 8) old.isSome

/-- The failing check that a container is reported with, and its w2 (R185). -/
def contCheck (s : State) (ctx : Nat) (c : List Byte) (old : Option Plan) : Option (Code × Nat) :=
  (worst (contFails s ctx c old)).map fun f => (orderCode f.1, f.2)

end Sys2Proof.Machine
end

