-- ==== Sys2Proof/Machine/Kv.lean ====
section
/-! DEFINITION. The key-value commands (09, R229–R257), and the reclamation of a page. -/

namespace Sys2Proof.Machine

/-! ### Pools (R229, R256) -/

/-- The pool that KV_POOL_CREATE's parameters describe. -/
def poolOf (p : Pkt) : KvPool :=
  { ctx := p.ctx, dl := fld p 16 2, fmt := fld p 18 1, dpe := fld p 19 1, layers := fld p 20 1, cap := fld p 24 4
    scale := if fld p 28 4 = 0 then 0x3F800000 else fld p 28 4 }

/-- 64 KiB pages that a pool is charged (R229). -/
def poolCharge (q : KvPool) : Nat := (q.cap * (pageBytes q + 4) + 65535) / 65536

/-- Checks of KV_POOL_CREATE (R229, R257). -/
def chkKvPoolCreate (p : Pkt) (s : State) : Option Fail :=
  let q := poolOf p
  let mine := s.models.pools.filter fun e => e.2.ctx == p.ctx
  let quota := (ctxOf s p.ctx).quota
  firstFail [
    (q.dl < 16 || 1024 < q.dl || q.dl % 16 != 0, .eRange, 16),
    (q.fmt != 0x20 && q.fmt != 0x21 && q.fmt != 0x02, .eRange, 18),
    (128 < q.dpe || q.dpe % 2 != 0, .eRange, 19),
    (q.layers = 0 || 128 < q.layers, .eRange, 20),
    (q.cap < 64 || 1048576 < q.cap, .eRange, 24),
    (16 ≤ mine.length, .eQuota, 0xFFFF),
    (p.ctx != 0 && quota.pages < tsum mine (fun _ x => x.cap) + q.cap, .eQuota, 24),
    (p.ctx != 0 && quota.memory < memCharged s p.ctx + poolCharge q * 65536, .eQuota, 24),
    (255 ≤ s.models.pools.length, .eNoslot, 0xFFFF),
    (1048576 < tsum s.models.pools (fun _ x => x.cap) + q.cap, .eNomem, 24),
    (freeFrames s < poolCharge q, .eNomem, 24)]

/-- KV_POOL_CREATE (R229): the lowest free handle from 1 (log 9). -/
def actKvPoolCreate (p : Pkt) (s : State) : State :=
  let q := poolOf p
  let k := (freeKey s.models.pools 1 255).getD 0
  completeOk p k (pageBytes q) (poolCharge q)
    (let (fs, s1) := allocFrames p.ctx (poolCharge q) s
     { s1 with models.pools := tput s1.models.pools k { q with frames := fs } })

/-- KV_POOL_CREATE (R229). -/
def execKvPoolCreate (p : Pkt) (s : State) : Res := runCmd p s (chkKvPoolCreate p s) (actKvPoolCreate p)

/-- The pool that parameter byte `off` names, of the issuing context. -/
def pPool (p : Pkt) (s : State) (off : Nat) : Option KvPool := (tget s.models.pools (fld p off 1)).filter fun q => q.ctx == p.ctx

/-- An unknown pool (R257). -/
def poolChk (p : Pkt) (s : State) (off : Nat) : List (Bool × Code × Nat) := [((pPool p s off).isNone, .eHandle, off)]

/-- Checks of KV_POOL_DESTROY (R257). -/
def chkKvPoolDestroy (p : Pkt) (s : State) : Option Fail :=
  firstFails [poolChk p s 16, [
    (!((tgetD s.models.pools (fld p 16 1)).active.isEmpty) || kvQueued s (fld p 16 1) != 0, .eBusy, 16)]]

/-- KV_POOL_DESTROY (R256): the pool, its sequences and its pages end; its memory is scrubbed and free (R120, R257). -/
def actKvPoolDestroy (p : Pkt) (s : State) : State :=
  let k := fld p 16 1
  let n := (s.models.seqs.filter fun e => e.2.pool == k).length
  let s1 := freeFramesOf (tgetD s.models.pools k).frames s
  completeOk p n 0 0 { s1 with
    models.pools := tdel s1.models.pools k
    models.seqs := tkeep s1.models.seqs fun _ q => q.pool != k
    models.kvPages := tkeep s1.models.kvPages fun _ q => q.pool != k }

/-- KV_POOL_DESTROY (R256). -/
def execKvPoolDestroy (p : Pkt) (s : State) : Res := runCmd p s (chkKvPoolDestroy p s) (actKvPoolDestroy p)

/-- Checks of KV_POOL_QUERY. -/
def chkKvPoolQuery (p : Pkt) (s : State) : Option Fail := firstFails [poolChk p s 16]

/-- KV_POOL_QUERY (R256). -/
def actKvPoolQuery (p : Pkt) (s : State) : State :=
  let k := fld p 16 1
  completeOk p (poolFree s k) (s.models.kvPages.filter fun e => e.2.pool == k && e.2.state == 3).length
    (s.models.seqs.filter fun e => e.2.pool == k).length s

/-- KV_POOL_QUERY (R256). -/
def execKvPoolQuery (p : Pkt) (s : State) : Res := runCmd p s (chkKvPoolQuery p s) (actKvPoolQuery p)

/-! ### Sequences (R233–R235, R254) -/

/-- Checks of KV_SEQ_CREATE. -/
def chkKvSeqCreate (p : Pkt) (s : State) : Option Fail := firstFails [poolChk p s 16, newSeqChk p s]

/-- KV_SEQ_CREATE (R233): length 0, no page. -/
def actKvSeqCreate (p : Pkt) (s : State) : State :=
  let k := fld p 16 1
  let (h, s1) := newSeq { pool := k, ctx := p.ctx, tables := List.replicate (tgetD s.models.pools k).layers [] } s
  completeOk p h 0 0 s1

/-- KV_SEQ_CREATE (R233). -/
def execKvSeqCreate (p : Pkt) (s : State) : Res := runCmd p s (chkKvSeqCreate p s) (actKvSeqCreate p)

/-- KV_FORK (R235); it waits while a step claims its source (R254). -/
def execKvFork (p : Pkt) (s : State) : Res := kvOrQueue p s false [seqChk p s] (chkKvFork p s) (actKvFork p)

/-- KV_TRUNCATE (R234); it waits while a step claims the sequence (R254). -/
def execKvTruncate (p : Pkt) (s : State) : Res := kvOrQueue p s false [seqChk p s] (chkKvTruncate p s) (actKvTruncate p)

/-- KV_FREE (R256); it waits while a step claims the sequence (R254). -/
def execKvFree (p : Pkt) (s : State) : Res := kvOrQueue p s false [seqChk p s] (chkKvFree p s) (actKvFree p)

/-- KV_READ (R256); it waits while a step claims the sequence (R254). -/
def execKvRead (p : Pkt) (s : State) : Res := kvOrQueue p s false (readStatic p s) (chkKvRead p s) (actKvRead p)

/-- Entries of one layer table that the committed length reaches (R233). -/
def tableLen (q : KvSeq) : Nat := (q.len + 63) / 64

/-- Checks of KV_SEQ_QUERY. -/
def chkKvSeqQuery (p : Pkt) (s : State) : Option Fail :=
  let q := pSeqD p s
  let n := 4 * tableLen q
  firstFails [seqChk p s, [((tgetD s.models.pools q.pool).layers ≤ fld p 20 1, .eRange, 20)],
    if fld p 24 8 = 0 then [] else destChk p s n 24 ++ permChk s p.ctx (fld p 24 8) n true 24]

/-- KV_SEQ_QUERY (R254, R256): the committed state from before a step in progress. -/
def actKvSeqQuery (p : Pkt) (s : State) : State :=
  let k := ((pSeq p s).map Prod.fst).getD 0
  let q := pSeqD p s
  let tb := ((if q.claimed.isSome then q.before else q.tables).getD (fld p 20 1) []).take (tableLen q)
  let s1 := if fld p 24 8 = 0 then s else vwrite p.ctx (fld p 24 8) (tb.map (toLE 4)).flatten s
  completeOk p q.len (b2n q.claimed.isSome + 256 * (s.models.kvQueue.filter fun e => e.1 == k).length)
    (q.tables.length * tableLen q) s1

/-- KV_SEQ_QUERY (R254). -/
def execKvSeqQuery (p : Pkt) (s : State) : Res := runHost p s false (chkKvSeqQuery p s) (actKvSeqQuery p)

/-- Checks of KV_PAGE_QUERY: a page of another context's pool, or a number that no page has, is unknown (R257). -/
def chkKvPageQuery (p : Pkt) (s : State) : Option Fail :=
  let other := match tget s.models.kvPages (fld p 16 4) with
    | some q => (tgetD s.models.pools q.pool).ctx != p.ctx
    | none => false
  firstFail [(1048576 ≤ fld p 16 4 || other, .eHandle, 16)]

/-- KV_PAGE_QUERY (R231); a free page answers zeros (log 24). -/
def actKvPageQuery (p : Pkt) (s : State) : State :=
  match tget s.models.kvPages (fld p 16 4) with
  | none => completeOk p 0 0 0 s
  | some q =>
    completeOk p (sat 16 q.refs + 65536 * q.state + 262144 * pageFill s (fld p 16 4))
      ((tgetD s.models.pools q.pool).ctx + 1024 * q.pool + 262144 * q.layer)
      (if q.state = 3 then q.freeEpoch else 0) s

/-- KV_PAGE_QUERY (R231). -/
def execKvPageQuery (p : Pkt) (s : State) : Res := runCmd p s (chkKvPageQuery p s) (actKvPageQuery p)

/-! ### KV_WAIT (R253) -/

/-- The run of context `h` that a PLAN_RUN with tag `tag` started. -/
def runByTag (s : State) (h tag : Nat) : Option (Nat × Run) :=
  s.sched.runs.find? fun e => e.2.ctx == h && (match e.2.kind with | .packet p => pTag p == tag | _ => false)

/-- Input head of a run; a run without a ring stays at 0. -/
def headOf (r : Run) : Nat := match r.ring with | some q => q.head | none => 0

/-- Checks of KV_WAIT. -/
def chkKvWait (p : Pkt) (s : State) : Option Fail := firstFail [((runByTag s p.ctx (fld p 16 4)).isNone, .eHandle, 16)]

/-- KV_WAIT (R253, R256): it completes at once where the head has come, otherwise it waits. -/
def actKvWait (p : Pkt) (s : State) : State :=
  match runByTag s p.ctx (fld p 16 4) with
  | none => s
  | some (k, r) =>
    if fld p 20 4 ≤ headOf r then completeOk p (headOf r) 0 0 s
    else handOn p { s with models.kvWaits := s.models.kvWaits ++ [(k, fld p 20 4, p)] }

/-- KV_WAIT (R253). -/
def execKvWait (p : Pkt) (s : State) : Res := runCmd p s (chkKvWait p s) (actKvWait p)

/-! ### Bundles (R256, R274–R277) -/

/-- The 32-byte sequence record (R276; its layout is the model's, log 24). -/
def seqRecord (P : KvPool) (n : Nat) : List Byte :=
  toLE 2 P.dl ++ toLE 1 P.fmt ++ toLE 1 P.dpe ++ toLE 1 P.layers ++ toLE 3 0 ++ toLE 4 n ++ toLE 4 P.scale ++ toLE 16 0

/-- Tokens that KV_EXPORT takes. -/
def exportLen (p : Pkt) (s : State) : Nat := if fld p 20 4 = 0xFFFFFFFF then (pSeqD p s).len else fld p 20 4

/-- Bytes of the bundle of KV_EXPORT. -/
def bundleBytes (p : Pkt) (s : State) : Nat :=
  let q := pSeqD p s
  parcelSize (32 + (tgetD s.models.pools q.pool).layers * exportLen p s * kvRowBytes s q)

/-- Checks of KV_EXPORT (R257). -/
def chkKvExport (p : Pkt) (s : State) : Option Fail :=
  let n := bundleBytes p s
  orFail (firstFails [seqChk p s, [((pSeqD p s).len < exportLen p s, .eRange, 20)], destChk p s n 24, [(fld p 32 8 < n, .eRange, 32)],
    permChk s p.ctx (fld p 24 8) n true 24])
    ((((List.range (pSeqD p s).tables.length).map fun l => kvBad s (pSeqD p s) l 0 (exportLen p s)).flatten).head?.map (badWord 16))

/-- KV_EXPORT (R256, R276): the committed rows, layer by layer and token by token. -/
def actKvExport (p : Pkt) (s : State) : State :=
  let s := (List.range (pSeqD p s).tables.length).foldl (fun t l => kvFound (pSeqD p s) l 0 (exportLen p s) t) s
  let q := pSeqD p s
  let P := tgetD s.models.pools q.pool
  let rows := (List.range P.layers).map fun l => ((List.range (exportLen p s)).map fun i => fit (kvRowBytes s q) (kvRow s q l i)).flatten
  let (b, s1) := makeParcel p 2 (seqRecord P (exportLen p s) ++ rows.flatten) s
  completeOk p b.length 0 0 (vwrite p.ctx (fld p 24 8) b s1)

/-- KV_EXPORT (R256). -/
def execKvExport (p : Pkt) (s : State) : Res := runHost p s false (chkKvExport p s) (actKvExport p)

/-- Length of a bundle's sequence. -/
def bundleLen (pl : List Byte) : Nat := num pl 8 4

/-- Whether a payload has the shape of pool `P` (R277 check 6). -/
def bundleFits (P : KvPool) (pl : List Byte) : Bool :=
  num pl 0 2 == P.dl && num pl 2 1 == P.fmt && num pl 3 1 == P.dpe && num pl 4 1 == P.layers && bundleLen pl ≤ 1048576
    && pl.length == 32 + P.layers * bundleLen pl * (latentRow P + posRow P)

/-- Payload of the bundle that KV_IMPORT names. -/
def bundleOf (p : Pkt) (s : State) : List Byte := (parcelOpen (parcelAt s p.ctx (fld p 16 8))).getD []

/-- Checks of KV_IMPORT (R257, R277). -/
def chkKvImport (p : Pkt) (s : State) : Option Fail :=
  let P := tgetD s.models.pools (fld p 24 1)
  orFail (firstFails (addrChk s p.ctx (fld p 16 8) 192 64 16 :: poolChk p s 24 :: parcelChk s p 16 2 (bundleFits P)
      ++ ([newSeqChk p s, [(poolFree s (fld p 24 1) < P.layers * ((bundleLen (bundleOf p s) + 63) / 64), .eNomem, 24)]]
        : List (List (Bool × Code × Nat)))))
    (wordFail s p.ctx (fld p 16 8) (parcelAt s p.ctx (fld p 16 8)).length 16)

/-- A fresh page of layer `l` with rows from slot 0 up, full where all 64 slots are committed (R232). -/
def importPage (P : KvPool) (k l : Nat) (rows : List (List Byte)) (full : Bool) (s : State) : Nat × State :=
  let (pg, s1) := allocPage k l s
  let s2 := (rows.zipIdx).foldl (fun t (row, j) => writeSlot P (tgetD s1.models.kvPages pg).index j row t) s1
  (pg, { s2 with models.kvPages := tupd s2.models.kvPages pg fun g => { g with state := if full then 2 else 1 } })

/-- The layer table of an imported sequence: fresh pages holding the bundle's rows. -/
def importLayer (P : KvPool) (k l : Nat) (pl : List Byte) (s : State) : List Nat × State :=
  let n := bundleLen pl
  let w := latentRow P + posRow P
  (List.range ((n + 63) / 64)).foldl (fun (tb, t) i =>
    let rows := (List.range (min 64 (n - 64 * i))).map fun j => slice pl (32 + (l * n + 64 * i + j) * w) w
    let (pg, t1) := importPage P k l rows (64 * i + 64 ≤ n) t
    (tb ++ [pg], t1)) ([], s)

/-- KV_IMPORT (R256, R277): a new sequence in fresh pages; the measurement takes the bundle. -/
def actKvImport (p : Pkt) (s : State) : State :=
  let s := readWords p.ctx (fld p 16 8) (parcelAt s p.ctx (fld p 16 8)).length s
  let k := fld p 24 1
  let P := tgetD s.models.pools k
  let b := parcelAt s p.ctx (fld p 16 8)
  let pl := bundleOf p s
  let (tbs, s1) := (List.range P.layers).foldl (fun (ts, t) l => let (tb, t1) := importLayer P k l pl t; (ts ++ [tb], t1)) ([], s)
  let (h, s2) := newSeq { pool := k, ctx := p.ctx, len := bundleLen pl, tables := tbs } s1
  completeOk p h (bundleLen pl) 0 (noteImport p.ctx 3 b s2)

/-- KV_IMPORT (R256). -/
def execKvImport (p : Pkt) (s : State) : Res :=
  runHost p s (rangeHost s p.ctx (fld p 16 8) (num (vread s p.ctx (fld p 16 8) 12) 8 4)) (chkKvImport p s) (actKvImport p)

/-! ### PAGE_RECLAIM (R255) -/

/-- PAGE_RECLAIM: a page awaiting reclamation returns to the free list once every step of its pool that could reach it has
ended; until then it stays (R255). Reads and exports act in one step of this model, so none is in progress. -/
def execPageReclaim (page : Nat) (s : State) : Res :=
  if 1048576 ≤ page then .fault .noSuchUnit
  else
    match tget s.models.kvPages page with
    | none => .next s
    | some q => .next (if reclaimable s q then { s with models.kvPages := tdel s.models.kvPages page } else s)

end Sys2Proof.Machine
end

