-- ==== Sys2Proof/Machine/Strm.lean ====
section
/-! DEFINITION. The stream commands (10, R258–R282). -/

namespace Sys2Proof.Machine

/-! ### Sets (R259) -/

/-- The layer table of STRM_SET_CREATE, 4 bytes for each layer. -/
def layerTable (p : Pkt) (s : State) : List Byte := vread s p.ctx (fld p 24 8) (4 * fld p 16 1)

/-- The set that STRM_SET_CREATE's parameters describe (R259, R281). -/
def newSetOf (p : Pkt) (s : State) : StrmSet :=
  let t := layerTable p s
  { ctx := p.ctx, layers := (List.range (fld p 16 1)).map fun i => (num t (4 * i) 2, num t (4 * i + 2) 1), fmt := fld p 17 1
    residue := (fld p 18 1).testBit 0, stochastic := (fld p 18 1).testBit 1 }

/-- Checks of STRM_SET_CREATE (R259, R282). -/
def chkStrmSetCreate (p : Pkt) (s : State) : Option Fail :=
  let n := fld p 16 1
  let q := newSetOf p s
  let t := layerTable p s
  orFail (firstFails [[
    (n = 0 || 64 < n, .eRange, 16),
    (!([0x01, 0x02, 0x20, 0x21].contains q.fmt), .eRange, 17)], addrChk s p.ctx (fld p 24 8) (4 * n) 64 24, [
    ((List.range n).any fun i => num t (4 * i + 3) 1 != 0, .eReserved, 24),
    (q.layers.any fun e => e.1 < 16 || 4096 < e.1 || e.1 % 16 != 0 || e.2 = 0 || 2 < e.2, .eRange, 24),
    (q.residue && q.fmt == 0x01, .eCombination, 18)], permChk s p.ctx (fld p 24 8) (4 * n) false 24, [
    (16 ≤ (s.models.sets.filter fun e => e.2.ctx == p.ctx).length, .eQuota, 0xFFFF),
    (255 ≤ s.models.sets.length, .eNoslot, 0xFFFF)]])
    (wordFail s p.ctx (fld p 24 8) (4 * n) 24)

/-- STRM_SET_CREATE (R259): the lowest free handle from 1 (log 9). -/
def actStrmSetCreate (p : Pkt) (s : State) : State :=
  let s := readWords p.ctx (fld p 24 8) (4 * fld p 16 1) s
  let q := newSetOf p s
  let k := (freeKey s.models.sets 1 255).getD 0
  completeOk p k (strmBytes q) (strmFoot q) { s with models.sets := tput s.models.sets k q }

/-- STRM_SET_CREATE (R259). -/
def execStrmSetCreate (p : Pkt) (s : State) : Res :=
  runHost p s (rangeHost s p.ctx (fld p 24 8) (4 * fld p 16 1)) (chkStrmSetCreate p s) (actStrmSetCreate p)

/-- An unknown set at parameter byte `off` (R282). -/
def setChk (p : Pkt) (s : State) (off : Nat) : List (Bool × Code × Nat) :=
  [(((tget s.models.sets (fld p off 1)).filter fun q => q.ctx == p.ctx).isNone, .eHandle, off)]

/-- Checks of STRM_SET_DESTROY (R282). -/
def chkStrmSetDestroy (p : Pkt) (s : State) : Option Fail :=
  let k := fld p 16 1
  firstFails [setChk p s 16, [
    ((s.models.streams.any fun e => e.2.set == k && e.2.claimed.isSome) || strmQueued s k != 0, .eBusy, 16)]]

/-- STRM_SET_DESTROY (R281): the set and its streams end. -/
def actStrmSetDestroy (p : Pkt) (s : State) : State :=
  let k := fld p 16 1
  let mine := (s.models.streams.filter fun e => e.2.set == k).map Prod.fst
  let s1 := mine.foldl (fun t i => endStrm i t) s
  completeOk p mine.length 0 0 { s1 with models.sets := tdel s1.models.sets k }

/-- STRM_SET_DESTROY (R281). -/
def execStrmSetDestroy (p : Pkt) (s : State) : Res := runCmd p s (chkStrmSetDestroy p s) (actStrmSetDestroy p)

/-! ### Streams (R261) -/

/-- Room for one more stream of set `k`, active or paused (R282). -/
def newStrmChk (p : Pkt) (s : State) (k : Nat) (paused : Bool) : List (Bool × Code × Nat) :=
  (if paused then idleLimits s p.ctx (tgetD s.models.sets k) else activeLimits s p.ctx k)
    ++ ([(65536 ≤ s.models.streams.length, .eNoslot, 0xFFFF)] : List (Bool × Code × Nat))

/-- Makes a stream, Active or Paused as `x` says, with a committed state; its handle (R261). -/
def newStrm (x : Stream) (state : List Byte) (s : State) : Nat × State :=
  let k := (freeKey s.models.streams 0 65535).getD 0
  let g := s.models.gen
  let s1 := { s with models.streams := tput s.models.streams k { x with gen := g, active := false }, models.gen := nextGen g }
  let s2 := if x.active then seatStrm k s1 else parkStrm k s1
  (mkHandle g k, strmPut (tgetD s2.models.streams k) state s2)

/-- State bytes of one stream of the set at parameter byte `off`. -/
def pSetBytes (p : Pkt) (s : State) (off : Nat) : Nat := strmBytes (tgetD s.models.sets (fld p off 1))

/-- Checks of STRM_START (R261, R282). -/
def chkStrmStart (p : Pkt) (s : State) : Option Fail :=
  let a := fld p 24 8
  let n := pSetBytes p s 16
  orFail (firstFails [setChk p s 16, if a = 0 then [] else addrChk s p.ctx a n 64 24 ++ permChk s p.ctx a n false 24,
    newStrmChk p s (fld p 16 1) ((fld p 17 1).testBit 0)])
    (if a = 0 then none else wordFail s p.ctx a n 24)

/-- STRM_START (R261): the state is zero or the image; the sentinel is disabled (R273). -/
def actStrmStart (p : Pkt) (s : State) : State :=
  let s := if fld p 24 8 = 0 then s else readWords p.ctx (fld p 24 8) (pSetBytes p s 16) s
  let n := pSetBytes p s 16
  let img := if fld p 24 8 = 0 then List.replicate n 0 else vread s p.ctx (fld p 24 8) n
  let (h, s1) := newStrm { set := fld p 16 1, ctx := p.ctx, active := !(fld p 17 1).testBit 0, seed := fld p 20 4 } img s
  completeOk p h 0 0 s1

/-- STRM_START (R261). -/
def execStrmStart (p : Pkt) (s : State) : Res :=
  runHost p s (fld p 24 8 != 0 && rangeHost s p.ctx (fld p 24 8) (pSetBytes p s 16)) (chkStrmStart p s) (actStrmStart p)

/-- STRM_PAUSE (R261); it waits while a step claims the stream (R268). -/
def execStrmPause (p : Pkt) (s : State) : Res := strmOrQueue p s false (chkStrmPause p s) (actStrmPause p)

/-- Checks of STRM_RESUME (R261, R282). -/
def chkStrmResume (p : Pkt) (s : State) : Option Fail :=
  firstFails [strmChk p s, [((pStrmD p s).active, .eState, 16)], activeLimits s p.ctx (pStrmD p s).set]

/-- STRM_RESUME (R261): the committed state moves to the Gondola. -/
def actStrmResume (p : Pkt) (s : State) : State :=
  completeOk p (strmBytes (setOf s (pStrmD p s))) 0 0 (resumeStrm (pStrmK p s) s)

/-- STRM_RESUME (R261). -/
def execStrmResume (p : Pkt) (s : State) : Res := runCmd p s (chkStrmResume p s) (actStrmResume p)

/-- STRM_END (R281); it waits while a step claims the stream (R268). -/
def execStrmEnd (p : Pkt) (s : State) : Res := strmOrQueue p s false (chkStrmEnd p s) (actStrmEnd p)

/-- STRM_READ (R281); it waits while a step claims the stream (R268). -/
def execStrmRead (p : Pkt) (s : State) : Res := strmOrQueue p s false (chkStrmRead p s) (actStrmRead p)

/-- STRM_EXPORT (R274); it waits while a step claims the stream (R268). -/
def execStrmExport (p : Pkt) (s : State) : Res := strmOrQueue p s false (chkStrmExport p s) (actStrmExport p)

/-- STRM_QUERY (R268, R281): never queued, the committed state. -/
def actStrmQuery (p : Pkt) (s : State) : State :=
  let x := pStrmD p s
  let queued := (s.models.strmQueue.filter fun e => e.1 == pStrmK p s).length
  completeOk p ((if x.active then 1 else 2) + 4 * b2n x.claimed.isSome + 8 * b2n x.enable + 256 * queued + 65536 * sat 16 x.excursions)
    x.steps (x.steps / 2 ^ 32) s

/-- STRM_QUERY (R268). -/
def execStrmQuery (p : Pkt) (s : State) : Res := runCmd p s (firstFails [strmChk p s]) (actStrmQuery p)

/-! ### The sentinel (R273) -/

/-- FP32 bits that spell a NaN. -/
def f32Nan (x : Nat) : Bool := 0x7F800000 < x % 2 ^ 31

/-- FP32 bits in the order of the numbers they spell; both zeros are equal. -/
def f32Key (x : Nat) : Int := if x.testBit 31 then -((x % 2 ^ 31 : Nat) : Int) else (x % 2 ^ 31 : Nat)

/-- Checks of STRM_SENTINEL (R282). -/
def chkStrmSentinel (p : Pkt) (s : State) : Option Fail :=
  firstFails [strmChk p s, [
    (f32Nan (fld p 20 4), .eRange, 20),
    (f32Nan (fld p 24 4), .eRange, 24),
    (f32Key (fld p 24 4) < f32Key (fld p 20 4), .eRange, 20)]]

/-- STRM_SENTINEL (R273): the excursions counted so far stay. -/
def actStrmSentinel (p : Pkt) (s : State) : State :=
  let fl := fld p 28 1
  completeOk p (sat 32 (pStrmD p s).excursions) 0 0 (modStrm (pStrmK p s) (fun x =>
    { x with enable := fl.testBit 0, pause := fl.testBit 1, lo := fld p 20 4, hi := fld p 24 4 }) s)

/-- STRM_SENTINEL (R273). -/
def execStrmSentinel (p : Pkt) (s : State) : Res := runCmd p s (chkStrmSentinel p s) (actStrmSentinel p)

/-! ### STRM_IMPORT and STRM_PEER (R277, R281) -/

/-- Whether a payload has the shape of set `st` (R277 check 6). -/
def strmFits (st : StrmSet) (pl : List Byte) : Bool :=
  pl.take 32 == toLE 32 (Config.shapeCode (shapeNums st)).toNat && pl.length == 64 + strmBytes st

/-- Checks of STRM_IMPORT (R277, R282). -/
def chkStrmImport (p : Pkt) (s : State) : Option Fail :=
  let k := fld p 24 1
  orFail (firstFails (addrChk s p.ctx (fld p 16 8) 192 64 16 :: setChk p s 24 :: parcelChk s p 16 1 (strmFits (tgetD s.models.sets k))
      ++ ([newStrmChk p s k ((fld p 25 1).testBit 0)] : List (List (Bool × Code × Nat)))))
    (wordFail s p.ctx (fld p 16 8) (parcelAt s p.ctx (fld p 16 8)).length 16)

/-- STRM_IMPORT (R277): a new stream with the record's seed, step count and sentinel; the measurement takes the parcel. -/
def actStrmImport (p : Pkt) (s : State) : State :=
  let s := readWords p.ctx (fld p 16 8) (parcelAt s p.ctx (fld p 16 8)).length s
  let b := parcelAt s p.ctx (fld p 16 8)
  let pl := (parcelOpen b).getD []
  let x : Stream :=
    { set := fld p 24 1, ctx := p.ctx, active := !(fld p 25 1).testBit 0, seed := num pl 32 4, steps := num pl 40 8
      enable := (num pl 36 4).testBit 0, pause := (num pl 36 4).testBit 1, lo := num pl 48 4, hi := num pl 52 4 }
  let (h, s1) := newStrm x (pl.drop 64) s
  completeOk p h x.steps 0 (noteImport p.ctx 2 b s1)

/-- STRM_IMPORT (R277). -/
def execStrmImport (p : Pkt) (s : State) : Res :=
  runHost p s (rangeHost s p.ctx (fld p 16 8) (num (vread s p.ctx (fld p 16 8) 12) 8 4)) (chkStrmImport p s) (actStrmImport p)

/-- The peer record of STRM_PEER. -/
def peerRec (p : Pkt) (s : State) : List Byte := vread s p.ctx (fld p 16 8) 272

/-- Checks of STRM_PEER (R282). -/
def chkStrmPeer (p : Pkt) (s : State) : Option Fail :=
  let a := fld p 16 8
  let b := peerRec p s
  if a = 0 then none
  else
    orFail (firstFails [addrChk s p.ctx a 272 64 16, [
      (num b 133 3 != 0 || num b 269 3 != 0, .eReserved, 16),
      (!Config.onCurve (slice b 0 133) || !Config.onCurve (slice b 136 133), .eCombination, 16)], permChk s p.ctx a 272 false 16])
      (wordFail s p.ctx a 272 16)

/-- STRM_PEER (R281): the peer record, or the own identity key again. -/
def actStrmPeer (p : Pkt) (s : State) : State :=
  let s := if fld p 16 8 = 0 then s else readWords p.ctx (fld p 16 8) 272 s
  let b := peerRec p s
  let to_ := if fld p 16 8 = 0 then [] else slice b 0 133
  let from_ := if fld p 16 8 = 0 then [] else slice b 136 133
  completeOk p 0 0 0 (modCtx p.ctx (fun c => { c with peerTo := to_, peerFrom := from_ }) s)

/-- STRM_PEER (R281). -/
def execStrmPeer (p : Pkt) (s : State) : Res :=
  runHost p s (fld p 16 8 != 0 && rangeHost s p.ctx (fld p 16 8) 272) (chkStrmPeer p s) (actStrmPeer p)

end Sys2Proof.Machine
end

