-- ==== Sys2Proof/Machine/Plans.lean ====
section
/-! DEFINITION. The plan commands (07, R176–R208): plans, runs, bindings, gang and panel queries, Mooring's models. -/

namespace Sys2Proof.Machine

/-! ### Loading and unloading (R185, R186, R207) -/

/-- Ends a packet with a container's failing check: w2 names the failing leg (R185). -/
def contReject (p : Pkt) (off : Nat) (f : Code × Nat) (s : State) : State := reject p { code := f.1, off := off } f.2 s

/-- Checks of the command's own fields: the container's address and size. -/
def contFields (p : Pkt) (s : State) (a n offA offN : Nat) : List (List (Bool × Code × Nat)) :=
  let addr : List (Bool × Code × Nat) := [(2 ^ 48 ≤ a, .eRange, offA), (a % 16 != 0, .eAlign, offA)]
  let size : List (Bool × Code × Nat) := [(n < 512 || 8388608 < n, .eRange, offN)]
  (if offA < offN then [addr, size] else [size, addr])
    ++ ([[(!rangeMapped s p.ctx a n, .eRange, offA)], permChk s p.ctx a n false offA] : List (List (Bool × Code × Nat)))

/-- A failed word of the container's memory (R297). -/
def contWord (p : Pkt) (s : State) (a n off : Nat) (f : Option Fail) : Option Fail := orFail f (wordFail s p.ctx a n off)

/-- Stores a plan in its slot: its objects are pinned and the measurement takes the container (R119, R186). -/
def storePlan (p : Pkt) (slot : Nat) (q : Plan) (c : List Byte) (s : State) : State :=
  extendHash p.ctx 1 c (pinPlan p.ctx q.objs true { s with sched.plans := tput s.sched.plans slot q })

/-- PLAN_LOAD: the container is checked by R185, then the plan is stored under a new handle (R186). -/
def actPlanLoad (p : Pkt) (s : State) : State :=
  let c := vread s p.ctx (fld p 16 8) (fld p 24 4)
  match contCheck s p.ctx c none with
  | some f => contReject p 16 f s
  | none =>
    let s := readWords p.ctx (fld p 16 8) (fld p 24 4) s
    let slot := (freeKey s.sched.plans 0 65535).getD 0
    let q := { planOfCont c p.ctx with gen := s.sched.planGen }
    completeOk p (mkHandle q.gen slot) q.legs.length 0 (storePlan p slot q c { s with sched.planGen := nextGen s.sched.planGen })

/-- PLAN_LOAD (R185). -/
def execPlanLoad (p : Pkt) (s : State) : Res :=
  let a := fld p 16 8
  let n := fld p 24 4
  runHost p s (rangeHost s p.ctx a n) (contWord p s a n 16 (firstFails (contFields p s a n 16 24))) (actPlanLoad p)

/-- The plan that parameter byte 16 names, of the issuing context (R186, R208). -/
def pPlan (p : Pkt) (s : State) : Option (Nat × Plan) := planOf s p.ctx (fld p 16 4)

/-- The named plan, for the checks after its own. -/
def pPlanD (p : Pkt) (s : State) : Plan := ((pPlan p s).map Prod.snd).getD {}

/-- An unknown or stale plan handle (R208). -/
def planChk (p : Pkt) (s : State) : List (Bool × Code × Nat) := [((pPlan p s).isNone, .eHandle, 16)]

/-- Runs in flight of a plan handle. -/
def planRuns (s : State) (h : Nat) : Nat := (s.sched.runs.filter fun e => e.2.plan == h).length

/-- Statistics slots of a plan handle that keep no conversion to gather from become orphaned (R162, R207). -/
def orphanSlots (h : Nat) (keep : Nat → Bool) (s : State) : State :=
  { s with models.qslots := tmap s.models.qslots fun _ q => if q.plan = h ∧ !keep q.tag then { q with orphaned := true } else q }

/-- Checks of PLAN_UNLOAD (R208). -/
def chkPlanUnload (p : Pkt) (s : State) : Option Fail :=
  let h := fld p 16 4
  firstFails [planChk p s, [
    (planRuns s h != 0 || s.sched.binds.any (fun e => e.2.plan == h && !e.2.ended), .eBusy, 16)]]

/-- PLAN_UNLOAD (R186): the objects are unpinned, the store is free, the plan's statistics slots are orphaned. -/
def actPlanUnload (p : Pkt) (s : State) : State :=
  let k := ((pPlan p s).map Prod.fst).getD 0
  let s1 := pinPlan p.ctx (pPlanD p s).objs false s
  completeOk p 0 0 0 (orphanSlots (fld p 16 4) (fun _ => false) { s1 with sched.plans := tdel s1.sched.plans k })

/-- PLAN_UNLOAD (R207). -/
def execPlanUnload (p : Pkt) (s : State) : Res := runCmd p s (chkPlanUnload p s) (actPlanUnload p)

/-- PLAN_QUERY (R207). -/
def actPlanQuery (p : Pkt) (s : State) : State :=
  let q := pPlanD p s
  completeOk p (q.legs.length % 65536 + 65536 * (q.gangSize % 64) + 2 ^ 22 * q.engine + 2 ^ 23 * b2n q.signed)
    (planRuns s (fld p 16 4)) q.reloads s

/-- PLAN_QUERY (R207). -/
def execPlanQuery (p : Pkt) (s : State) : Res := runCmd p s (firstFails [planChk p s]) (actPlanQuery p)

/-- Statistics tags that a plan's conversions carry (R160, R181). -/
def planTags (q : Plan) : List Nat := (((planStages q).filter tailConverts).map fun st => num st 7 1).filter (· != 0)

/-- The runs of plan handle `h` that have committed no leg take the new plan (R187, R207): a run that starts at the entry starts
at the new one, a run whose start leg lies outside ends with E_RANGE. -/
def reloadRuns (h : Nat) (q : Plan) (s : State) : State :=
  let s1 := { s with sched.runs := tmap s.sched.runs fun _ r =>
    if r.plan = h ∧ r.snap.isNone ∧ r.start.isNone then { r with counter := q.entry } else r }
  let lost := (s1.sched.runs.filter fun e => e.2.plan == h && e.2.snap.isNone && q.legs.length ≤ e.2.counter).map Prod.fst
  workEnded (lost.foldl (fun t k => finishRun k .eRange false t) s1)

/-- PLAN_RELOAD (R207): the plan store is swapped for runs whose first leg is committed later; a plan bound for tier 1 is copied again
(R200; DEDUCED, log 49). -/
def actPlanReload (p : Pkt) (s : State) : State :=
  let c := vread s p.ctx (fld p 24 8) (fld p 20 4)
  let old := pPlanD p s
  match contCheck s p.ctx c (some old) with
  | some f => contReject p 24 f s
  | none =>
    let s := readWords p.ctx (fld p 24 8) (fld p 20 4) s
    let slot := ((pPlan p s).map Prod.fst).getD 0
    let q := { planOfCont c p.ctx with gen := old.gen, reloads := old.reloads + 1 }
    let s1 := storePlan p slot q c (pinPlan p.ctx old.objs false s)
    let s2 := if thas s1.casc.partition (fld p 16 4) then copyPlan p.ctx (fld p 16 4) s1 else s1
    completeOk p (fld p 16 4) q.legs.length 0
      (orphanSlots (fld p 16 4) (fun t => (planTags q).contains t) (reloadRuns (fld p 16 4) q s2))

/-- PLAN_RELOAD (R207). -/
def execPlanReload (p : Pkt) (s : State) : Res :=
  let a := fld p 24 8
  let n := fld p 20 4
  runHost p s (rangeHost s p.ctx a n) (contWord p s a n 24 (firstFails (planChk p s :: contFields p s a n 24 20))) (actPlanReload p)

/-! ### Runs (R187–R190) -/

/-- The engine and gang size of a plan fit gang `g` (R177, R200, R208). -/
def planFits (q : Plan) (g : Nat) (x : Gang) : Bool := if g = 0 then q.engine == 1 else q.engine == 0 && q.gangSize == x.size

/-- Whether context `h` may use gang `g` (R123, R208). -/
def gangDenied (s : State) (h g : Nat) (x : Gang) : Bool :=
  let q := (ctxOf s h).quota
  (g == 0 && h != 0 && !q.kite) || (g != 0 && x.kind == 0 && h != 0 && !q.shared) || (x.kind != 0 && x.owner != h)

/-- Checks of PLAN_RUN (R187, R208, R237). -/
def chkPlanRun (p : Pkt) (s : State) : Option Fail :=
  let q := pPlanD p s
  let g := fld p 20 1
  let x := (gangOf s g).getD {}
  let start := fld p 24 4
  let ring := fld p 32 8
  let size := fld p 40 4
  let items := fld p 44 4
  let given := ring != 0
  let bytes := if given then size * items else 0
  firstFails [planChk p s, [
    (16 < g, .eRange, 20),
    ((gangOf s g).isNone, .eHandle, 20),
    (start != 0xFFFFFFFF && q.legs.length ≤ start, .eRange, 24),
    (given && !rangeMapped s p.ctx ring bytes, .eRange, 32),
    (given && size != 0 && (size < 64 || 1048576 < size || size % 64 != 0), .eRange, 40),
    (given && (items = 0 || 4096 < items), .eRange, 44),
    (!planFits q g x, .eCombination, 20),
    (given && size = 0, .eCombination, 40),
    (!given && itemSource q, .eCombination, 32),
    (gangDenied s p.ctx g x, .eDenied, 20),
    (given && !rangePermits s p.ctx ring bytes false, .eDenied, 32),
    (given && itemSource q && !rangePermits s p.ctx ring bytes true, .eDenied, 32),
    (64 ≤ gangRuns s g, .eNoslot, 20),
    (gangSize s g = 0, .eRetired, 20)]]

/-- PLAN_RUN (R187): the run is made, its ring's objects are pinned for the command (R301), and an idle gang takes its boundary. -/
def actPlanRun (p : Pkt) (s : State) : State :=
  let q := pPlanD p s
  let g := fld p 20 1
  let ring : Option InRing :=
    if fld p 32 8 = 0 then none else some { addr := fld p 32 8, itemSize := fld p 40 4, items := fld p 44 4 }
  let r : Run :=
    { kind := .packet p, ctx := p.ctx, tag := pTag p, plan := fld p 16 4, gang := g, level := queueLevel s p.ctx p.queue
      queue := p.queue, order := s.cmd.nextOrder, start := if fld p 24 4 = 0xFFFFFFFF then none else some (fld p 24 4)
      counter := if fld p 24 4 = 0xFFFFFFFF then q.entry else fld p 24 4, seed := fld p 28 4, ring := ring
      state := if ring.isSome then .idle else .ready }
  let s1 := { s with
    sched.runs := tput s.sched.runs s.sched.nextRun r
    sched.nextRun := s.sched.nextRun + 1
    cmd.nextOrder := s.cmd.nextOrder + 1 }
  let s2 := match ring with | some x => pinRange p.ctx x.addr (x.items * x.itemSize) true s1 | none => s1
  boundary g false (handOn p s2)

/-- PLAN_RUN (R187). -/
def execPlanRun (p : Pkt) (s : State) : Res := runCmd p s (chkPlanRun p s) (actPlanRun p)

/-- A run tag that no PLAN_RUN in flight of the context has (R208). -/
def runChk (p : Pkt) (s : State) : List (Bool × Code × Nat) := [((runByTag s p.ctx (fld p 16 4)).isNone, .eHandle, 16)]

/-- PLAN_STOP (R190): at once where the run executes no leg, otherwise at the end of its leg; its reply follows the run's. -/
def actPlanStop (p : Pkt) (s : State) : State :=
  match runByTag s p.ctx (fld p 16 4) with
  | none => s
  | some (k, r) =>
    let s1 := modRun k (fun r => { r with stops := r.stops ++ [p] }) (handOn p s)
    if legExecutes s k r then s1 else workEnded (finishRun k .ok true s1)

/-- PLAN_STOP (R190). -/
def execPlanStop (p : Pkt) (s : State) : Res := runCmd p s (firstFails [runChk p s]) (actPlanStop p)

/-- Checks of PLAN_FEED (R208). -/
def chkPlanFeed (p : Pkt) (s : State) : Option Fail :=
  let n := fld p 20 4
  let ring := (runByTag s p.ctx (fld p 16 4)).bind fun e => e.2.ring
  firstFails [runChk p s, [
    (n = 0 || 4096 < n, .eRange, 20),
    ((ring.map fun q => decide (q.items < q.tail - q.head + n)).getD false, .eRange, 20),
    (ring.isNone, .eCombination, 16)]]

/-- PLAN_FEED (R188): the tail rises, an idle run's next leg is ready. -/
def actPlanFeed (p : Pkt) (s : State) : State :=
  match runByTag s p.ctx (fld p 16 4) with
  | none => s
  | some (k, r) =>
    let q := r.ring.getD {}
    let n := q.tail + fld p 20 4
    let s1 := modRun k (fun r => { r with ring := some { q with tail := n }, state := if r.state = .idle then .ready else r.state }) s
    boundary r.gang false (completeOk p n q.head 0 s1)

/-- PLAN_FEED (R188). -/
def execPlanFeed (p : Pkt) (s : State) : Res := runCmd p s (chkPlanFeed p s) (actPlanFeed p)

/-! ### Bindings (R192–R194) -/

/-- Whether a plan names the current input item or waits for one (R192). -/
def needsRing (q : Plan) : Bool :=
  itemSource q || q.legs.any (fun l => num l 25 1 == 4 || ((num l 25 1 == 2 || num l 25 1 == 5) && num l 32 2 == 0xFFFE))
    || (planStages q).any (fun st => (List.range 9).any fun j => num st (40 + 8 * j) 2 == 0xFFFE)
    || q.descs.any (fun d => (match num d 0 1 with | 1 => [52] | 3 => [16, 24, 32, 40, 48] | 4 => [16, 24, 32, 40, 48, 56] | 5 => [16, 24, 32] | _ => []).any
        fun o => num d o 2 == 0xFFFE)

/-- Bindings that a handle names. -/
def liveBinds (s : State) : List (Nat × EvBind) := s.sched.binds.filter fun e => !e.2.ended

/-- Checks of PLAN_BIND_EVENT (R192, R208). -/
def chkPlanBindEvent (p : Pkt) (s : State) : Option Fail :=
  let q := pPlanD p s
  let g := fld p 20 1
  let x := (gangOf s g).getD {}
  firstFails [planChk p s, [
    (16 < g, .eRange, 20),
    ((gangOf s g).isNone, .eHandle, 20),
    (31 < fld p 21 1, .eRange, 21),
    (1 < fld p 22 1, .eRange, 22),
    (3 < fld p 23 1, .eRange, 23),
    (g = 0 || x.kind = 0 || !planFits q g x || needsRing q, .eCombination, 20),
    (p.ctx != 0 && fld p 23 1 < (ctxOf s p.ctx).quota.ceiling, .eDenied, 23),
    (x.owner != p.ctx, .eDenied, 20),
    ((tgetD s.net.evs (fld p 21 1)).owner != p.ctx, .eDenied, 21),
    (64 ≤ (liveBinds s).length || 4 ≤ ((liveBinds s).filter fun e => e.2.gang == g).length, .eNoslot, 20)]]

/-- PLAN_BIND_EVENT (R192): the lowest free handle from 1 (log 9). -/
def actPlanBindEvent (p : Pkt) (s : State) : State :=
  let k := (freeKey s.sched.binds 1 64).getD 0
  let b : EvBind :=
    { ctx := p.ctx, plan := fld p 16 4, gang := fld p 20 1, channel := fld p 21 1, queue := fld p 22 1 = 1, level := fld p 23 1
      limit := fld p 24 4, tag := pTag p }
  completeOk p k 0 0 { s with sched.binds := tput s.sched.binds k b }

/-- PLAN_BIND_EVENT (R192). -/
def execPlanBindEvent (p : Pkt) (s : State) : Res := runCmd p s (chkPlanBindEvent p s) (actPlanBindEvent p)

/-- The binding that a handle of 1–64 names, of context `h`. -/
def bindNamed (s : State) (h b : Nat) : Option EvBind :=
  if b = 0 ∨ 64 < b then none else (tget s.sched.binds b).filter fun x => x.ctx == h

/-- Checks of PLAN_UNBIND (R208). -/
def chkPlanUnbind (p : Pkt) (s : State) : Option Fail := firstFail [((bindNamed s p.ctx (fld p 16 1)).isNone, .eHandle, 16)]

/-- PLAN_UNBIND (R207): a run that has begun finishes, a pending start is discarded. -/
def actPlanUnbind (p : Pkt) (s : State) : State :=
  let b := tgetD s.sched.binds (fld p 16 1)
  completeOk p b.started b.drops 0 (endBind (fld p 16 1) s)

/-- PLAN_UNBIND (R207). -/
def execPlanUnbind (p : Pkt) (s : State) : Res := runCmd p s (chkPlanUnbind p s) (actPlanUnbind p)

/-! ### GANG_STATS and PANEL_QUERY (R207) -/

/-- Checks of GANG_STATS: a tenant names only its own gangs. -/
def chkGangStats (p : Pkt) (s : State) : Option Fail :=
  let g := fld p 16 1
  let x := (gangOf s g).getD {}
  firstFail [
    (16 < g, .eRange, 16),
    ((gangOf s g).isNone, .eHandle, 16),
    (p.ctx != 0 && (x.kind = 0 || x.owner != p.ctx), .eDenied, 16)]

/-- GANG_STATS (R207). -/
def actGangStats (p : Pkt) (s : State) : State :=
  let x := (gangOf s (fld p 16 1)).getD {}
  let s1 := if (fld p 17 1).testBit 0 then modGang (fld p 16 1) (fun x => { x with misses := 0, stall := 0, committed := 0 }) s else s
  completeOk p (sat 32 x.misses) (sat 32 (x.stall / 1000)) (sat 32 x.committed) s1

/-- GANG_STATS (R207). -/
def execGangStats (p : Pkt) (s : State) : Res := runCmd p s (chkGangStats p s) (actGangStats p)

/-- The 16-byte record of panel `n` (R207). -/
def panelBytes (s : State) (n : Nat) : List Byte :=
  let q := panelOf s n
  let on := panelPowered s n
  let pt := ((gangOf s q.gang).map Gang.point).getD 6
  let st := match q.state with | .spare => 0 | .free => 1 | .inGang => 2 | .retired => 3
  toLE 1 n ++ toLE 1 st ++ toLE 1 q.gang ++ toLE 1 (quadrant n) ++ toLE 2 (if on then pointMhz pt else 0)
    ++ toLE 2 (if on then pointMv pt else 0) ++ toLE 1 (sat 8 (chanScore s 1 n)) ++ toLE 1 (q.replaces.getD 0xFF)
    ++ toLE 2 (if on then unsigned 16 q.temp else 0x8000) ++ toLE 4 0

/-- Checks of PANEL_QUERY. -/
def chkPanelQuery (p : Pkt) (s : State) : Option Fail := firstFails [destChk p s 544 16, permChk s p.ctx (fld p 16 8) 544 true 16]

/-- PANEL_QUERY (R207). -/
def actPanelQuery (p : Pkt) (s : State) : State :=
  let recs := (List.range 34).map (panelBytes s)
  completeOk p (inService s).length (spares s).length (panelsIn s (· == .retired)).length (vwrite p.ctx (fld p 16 8) recs.flatten s)

/-- PANEL_QUERY (R207). -/
def execPanelQuery (p : Pkt) (s : State) : Res := runHost p s false (chkPanelQuery p s) (actPanelQuery p)

/-! ### Mooring's models (R203–R206) -/

/-- Model area bytes in use: each model's record stands in it (DEDUCED, log 23). -/
def moorUsed (s : State) : Nat := tsum s.sched.models fun _ m => m.size

/-- Whether the layers chain to the model's outputs (R206). -/
def moorChain (r : List Byte) : Bool :=
  let go := (List.range (num r 3 1)).foldl (fun (acc : Option (Shape × List Shape)) i =>
    match acc with
    | none => none
    | some (x, es) => (moorOut (moorLayer r i) x es).map fun y => (y, es ++ [y])) (some (moorInput r, []))
  match go with
  | some (y, _) => y == (1, 1, num r 10 1)
  | none => false

/-- Layer fields out of range (R205): type, activation, kernel, stride, weights and channels of every layer, and the offsets of the
layers that have weights. -/
def layerRange (r l : List Byte) (last : Bool) (size : Nat) : Bool :=
  let ty := num l 0 1
  let act := num l 1 1
  let (kh, kw) := hw (num l 2 1)
  let (sh, sw) := hw (num l 3 1)
  let end_ := 64 + 32 * num r 3 1
  let bad := fun off n => off < end_ || size < off + n
  ty = 0 || 6 < ty || 3 < act || (act = 3 && !last)
    || kh = 0 || kw = 0 || sh = 0 || 4 < sh || sw = 0 || 4 < sw
    || num l 6 2 = 0 || 1024 < num l 6 2 || num l 8 2 = 0 || 1024 < num l 8 2
    || (num l 4 1 != 0x10 && num l 4 1 != 0x11)
    || (hasWeights l && (bad (num l 12 4) (moorWeights l) || bad (num l 16 4) (4 * num l 8 2) || bad (num l 20 4) (4 * num l 8 2)))

/-- A skip that names this layer or a later one (R206). -/
def skipBad (l : List Byte) (i : Nat) : Bool := num l 0 1 == 6 && i ≤ num l 5 1

/-- Checks of a model record of `n` bytes for a slot (R206). -/
def moorRecord (s : State) (r : List Byte) (n slot off : Nat) : List (Bool × Code × Nat) :=
  let layers := num r 3 1
  let ls := (List.range (min layers 32)).map (moorLayer r)
  let other := tget s.sched.models (3 - slot)
  [(num r 0 2 != 0x0100, .eVersion, off),
   (num r 11 1 != 0 || (slice r 16 48).any (· != 0) || ls.any (fun l => num l 10 2 != 0 || num l 24 8 != 0), .eReserved, off),
   (num r 2 1 = 0 || 2 < num r 2 1 || layers = 0 || 32 < layers || num r 4 4 != n || 2 < num r 8 1
      || (if num r 8 1 = 0 then num r 9 1 = 0 || 100 < num r 9 1 else num r 9 1 != 1)
      || num r 10 1 = 0 || 2 < num r 10 1 || (num r 2 1 != 1 && num r 10 1 = 2) || num r 12 4 = 0 || 100000 < num r 12 4 || n < 64 + 32 * layers
      || (ls.zipIdx).any (fun (l, i) => layerRange r l (i + 1 == layers) n), .eRange, off),
   (num r 2 1 != slot || (slot == 1) != (num r 8 1 == 0)
      || (ls.zipIdx).any (fun (l, i) => skipBad l i) || !moorChain r
      || 100000 < num r 12 4 + ((other.map MoorModel.cycles).getD 0), .eCombination, off),
   (163840 < n + ((other.map MoorModel.size).getD 0), .eNomem, off)]

/-- Checks of MOOR_LOAD (R206, R207). -/
def chkMoorLoad (p : Pkt) (s : State) : Option Fail :=
  let a := fld p 16 8
  let n := fld p 24 4
  let slot := fld p 28 1
  let r := vread s 0 a n
  let own : List (Bool × Code × Nat) := [(slot = 0 || 2 < slot, .eRange, 28)]
  if n = 0 then firstFail own
  else
    orFail (firstFails [
      [(2 ^ 48 ≤ a, .eRange, 16), (a % 16 != 0, .eAlign, 16), (n < 64 || 163840 < n, .eRange, 24)], own,
      [(!rangeMapped s 0 a n, .eRange, 16)], permChk s 0 a n false 16, moorRecord s r n slot 16])
      (wordFail s 0 a n 16)

/-- MOOR_LOAD (R206): the slot's model, or an empty slot. -/
def actMoorLoad (p : Pkt) (s : State) : State :=
  let s := readWords 0 (fld p 16 8) (fld p 24 4) s
  let n := fld p 24 4
  let r := vread s 0 (fld p 16 8) n
  let m := if n = 0 then tdel s.sched.models (fld p 28 1)
    else tput s.sched.models (fld p 28 1) { size := n, cycles := num r 12 4, outputs := num r 10 1, record := r }
  let s1 := { s with sched.models := m }
  completeOk p (moorUsed s1) 0 0 s1

/-- MOOR_LOAD (R206). -/
def execMoorLoad (p : Pkt) (s : State) : Res :=
  runHost p s (fld p 24 4 != 0 && rangeHost s 0 (fld p 16 8) (fld p 24 4)) (chkMoorLoad p s) (actMoorLoad p)

/-- MOOR_QUERY (R207). -/
def actMoorQuery (p : Pkt) (s : State) : State :=
  let cyc := fun k => ((tget s.sched.models k).map MoorModel.cycles).getD 0
  completeOk p (moorUsed s) (cyc 1) (cyc 2) s

/-- MOOR_QUERY (R207). -/
def execMoorQuery (p : Pkt) (s : State) : Res := runCmd p s none (actMoorQuery p)

end Sys2Proof.Machine
end

