-- ==== Sys2Proof/Machine/LegSpans.lean ====
section
/-! DEFINITION. The object ranges that a leg reads and writes (07, 08, 09, 10), for the retry rule of R396 and for the undefined
outputs of R189. -/

namespace Sys2Proof.Machine

/-- What stage `j` of a leg reads that no earlier group of the leg has written: an EXCHANGE group takes its input from the group before it,
which a retry writes again (R226). -/
def freshReads (p : Plan) (leg : List Byte) (j : Nat) : List RefUse :=
  let st := (stagesOf leg).getD j []
  let us := stageReads p leg j
  if isWin st && (winOf (winDescOf p st)).exch then us.filter fun u => u.1.1 != (sref st 0).1 else us

/-- Whether the leg writes any object range that it also reads (R396), the inputs of EXCHANGE groups apart (DEDUCED, log 55). -/
def legInPlace (r : Run) (p : Plan) (leg : List Byte) : Bool :=
  let rs := legRanges freshReads r p leg
  (legRanges stageWrites r p leg).any fun (a, n) => rs.any fun (b, k) => a < b + k && b < a + n

/-- Whether bytes `off` to `off + n` of object `k` may be written by a leg of run `r` (R179): an object that the plan may write, or
the current item. -/
def writeAddr (r : Run) (p : Plan) (k off n : Nat) : Option Nat :=
  match refAddr r p (k, off) with
  | none => none
  | some (a, room) =>
    let ok := if k = 0xFFFE then true else match p.objs[k]? with | some o => 3 < o.kind && o.access.testBit 1 | none => false
    if ok && n ≤ room then some a else none

end Sys2Proof.Machine
end

