-- ==== Sys2Proof/Machine/Tail.lean ====
section
/-! DEFINITION. Operands in the expanded format (R140–R143, R148–R151), and the Tail program of a stage (R173, R174, R152–R156, R160). -/

namespace Sys2Proof.Machine

/-- Reads `n` bytes at byte `off` behind a reference. -/
abbrev Look := Nat × Nat → Nat → Nat → List Byte

/-- What the objects of run `r` hold in state `s`: on Kite, those of the cascade partition in place of memory (R200). -/
def lookOf (s : State) (r : Run) (p : Plan) : Look := fun x off n =>
  match partObj s r x.1, refAddr r p x with
  | some bs, _ => slice bs (x.2 + off) n
  | none, some (a, _) => vread s r.ctx (a + off) n
  | none, none => List.replicate n 0

/-! ### Operands -/

/-- The expanded operand format (R140): 7 significant bits, the exponents of BF16. -/
def exp15 : Bin := ⟨7, -132, 255⟩

/-- A value rounded into the expanded operand format (R142, R144); a NaN becomes the canonical one. -/
def expand (v : Val) : Val := ofBin exp15 (toBin exp15 .away 31 v)

/-- The operand of a code with its block's scale, or none (R142, R143, R149, R151): an E8M0 scale is an exact exponent offset, an E8M3
scale is multiplied in before the one rounding. -/
def operand (fmt : Nat) (scale : Option (Bool × Nat)) (c : Nat) : Val :=
  let v := decodeVal fmt c
  match scale with
  | none => expand v
  | some (m3, k) =>
    let s := scaleVal m3 k
    if m3 then expand (v.mul s) else (expand v).mul s

/-- Scale format E8M3 of a block byte (R181). -/
def blkM3 (b : Nat) : Bool := bits b 3 2 == 1

/-- Bytes of a row of scales for `k` elements (R150). -/
def scaleRowBytes (k b : Nat) : Nat :=
  if blockOf b = 0 then 0 else roundUp ((k + blockOf b - 1) / blockOf b * scaleSize (blkM3 b)) 16

/-- Scale codes of row `row` of a scale tensor (R150). -/
def scaleCodes (look : Look) (x : Nat × Nat) (row k b : Nat) : List Nat :=
  if blockOf b = 0 then []
  else
    let w := scaleSize (blkM3 b)
    let bs := look x (row * scaleRowBytes k b) (scaleRowBytes k b)
    (List.range ((k + blockOf b - 1) / blockOf b)).map fun j => num bs (j * w) w

/-- Scale of element `i`: none for a tensor without block scales. -/
def scaleAt (b : Nat) (codes : List Nat) (i : Nat) : Option (Bool × Nat) :=
  if blockOf b = 0 then none else some (blkM3 b, codes.getD (i / blockOf b) 0)

/-- Codes of a row of `k` elements at byte `off` behind a reference (R148). -/
def rowCodes (look : Look) (x : Nat × Nat) (off k fmt : Nat) : List Nat := unpackRow fmt k (look x off (rowBytes k (codeBits fmt)))

/-- Operands of row `row` of a tensor with codes at `x` and scales at `sx`. -/
def operandRow (look : Look) (x sx : Nat × Nat) (row k fmt b stride : Nat) : List Val :=
  let sc := scaleCodes look sx row k b
  (rowCodes look x (row * stride) k fmt).mapIdx fun i c => operand fmt (scaleAt b sc i) c

/-- Operands of a row of weights: rows follow one another (R148). -/
def weightRow (look : Look) (x sx : Nat × Nat) (row k fmt b : Nat) : List Val :=
  operandRow look x sx row k fmt b (rowBytes k (codeBits fmt))

/-- A second scale: 0 means 1.0 (R181). -/
def second (w : Nat) : Val := if w = 0 then vOne else ofBin fp32 w

/-- Whether a second scale changes nothing. -/
def secondPlain (w : Nat) : Bool := w == 0 || w == 0x3F800000

/-- The product of the two operands' second scales (R151). -/
def seconds (st : List Byte) : Val := fmul (second (num st 28 4)) (second (num st 32 4))

/-- The FP32 sum of products of two operand rows, in an open order (R151, R157). -/
def dot (k : Key) (a b : List Val) : Val := sumAny k ((a.zip b).map fun (x, y) => fmul x y)

/-! ### Tail programs -/

/-- What a Tail program works with: the stage, its objects, the output row stride, the place of its choices. -/
structure TailEnv where
  look : Look
  st : List Byte
  key : Key
  /-- stochastic seed of the leg -/
  seed : Nat := 0
  /-- bits of the row's mask as an attention stage gives them: none outside one -/
  allowed : Option (List Bool) := none
  /-- panels that the leg's elements may lie on -/
  panels : Nat := 1
  /-- split of the leg and its slices -/
  split : Nat × Nat := (0, 1)
  /-- the leg's stages with stochastic rounding up to this one: place of their choices, rows, columns -/
  draws : List (Key × Nat × Nat) := []
  /-- where such a stage converts elements more than once or not all of its rows (tiles, attention, cells), the most elements that one lane
  of one panel may convert; 0 where the elements are those of `draws` -/
  drawsMax : Nat := 0
  /-- in a windowed stage, the place of the stage's choices and the output pixel that the row is -/
  pixel : Option (Key × Nat) := none

/-- Constant `i` of the stage. -/
def TailEnv.const (e : TailEnv) (i : Nat) : Val := ofBin fp32 (num e.st (152 + 4 * i) 4)

/-- Aux reference `a`. -/
def TailEnv.aux (e : TailEnv) (a : Nat) : Nat × Nat := sref e.st (6 + a)

/-- FP32 word `i` behind an aux reference. -/
def TailEnv.word (e : TailEnv) (a i : Nat) : Val := ofBin fp32 (num (e.look (e.aux a) (4 * i) 4) 0 4)

/-- The mask bits of row `m`: those of its aux object (R485), and the admitted keys of an attention row (R246). -/
def TailEnv.mask (e : TailEnv) (m n : Nat) (w : List Byte) : List Bool :=
  let b := num w 2 1
  let stride := rowBytes n 1
  let own := if b = 0xFF then [] else e.look (e.aux b) (m * stride) stride
  (List.range n).map fun i =>
    (b = 0xFF || (num own (i / 8) 1).testBit (i % 8)) && (match e.allowed with | none => true | some l => l.getD i false)

/-- ROTATE (R173): pair (2i, 2i + 1), for i below `a`, turned by the angle p × k^(−i/a). The spec states no error for it: each result lies
within that of R174 (DESIGN CHOICE, log 48); a base that is not positive and finite gives no angle, and the pairs are open. -/
def rotate (k : Key) (a : Nat) (p : Int) (base : Val) (xs : List Val) : List Val :=
  xs.mapIdx fun j x =>
    if 2 * a ≤ j then x
    else
      let i := j / 2
      let y := xs.getD (if j % 2 = 0 then j + 1 else j - 1) vZero
      match base with
      | .fin false m e =>
        if m = 0 || !x.finite || !y.finite then freeVal (j :: k)
        else
          let (c, s) := cosSinFx (p * expFx (-(lnFx m e * (i : Int) / (a : Int))))
          nearFx (j :: k) (mulFx (toFx x) c + (if j % 2 = 0 then -1 else 1) * mulFx (toFx y) s)
      | _ => freeVal (j :: k)

/-- One op other than CONVERT, STORE and GATE on row `m`; none where SMAX admits no element. -/
def tailOp (e : TailEnv) (m j : Nat) (w : List Byte) (xs : List Val) : Option (List Val) :=
  let a := num w 1 1
  let b := num w 2 1
  let c := num w 3 1
  let n := num e.st 12 4
  let key := fun i => i :: m :: j :: e.key
  let tensor := fun (op : Val → Val → Val) =>
    let codes := rowCodes e.look (e.aux a) (m * num e.st 116 4) n b
    xs.mapIdx fun i x => if i < n then op x (decodeVal b (codes.getD i 0)) else freeVal (key i)
  match num w 0 1 with
  | 0x01 => some (xs.mapIdx fun i x => if i < n then fadd x (e.word a i) else freeVal (key i))
  | 0x02 => some (xs.mapIdx fun i x => actFn (key i) a (e.const b) (e.const c) x)
  | 0x03 => some (tensor fadd)
  | 0x04 => some (tensor fmul)
  | 0x05 => some (xs.map fun x => fadd (fmul x (e.const a)) (e.const b))
  | 0x07 => softmax (m :: j :: e.key) (xs.zip (e.mask m xs.length w))
  | 0x08 => some (rotate (m :: j :: e.key) a (signed 32 (num (e.look (e.aux c) (4 * m) 4) 0 4)) (e.const b) xs)
  | _ => some xs

/-- Ops in order on row `m`; none for a row without an admitted element (R248). -/
def tailOps (e : TailEnv) (m : Nat) (ops : List (List Byte × Nat)) (xs : List Val) : Option (List Val) :=
  ops.foldl (fun x w => x.bind (tailOp e m w.2 w.1)) (some xs)

/-- The ops before CONVERT or STORE, each with its number in the program; GATE is the cell's own. -/
def tailMain (st : List Byte) : List (List Byte × Nat) := ((tailBody st).zipIdx).dropLast

/-! ### CONVERT and STORE -/

/-- What one converted element adds to the statistics (R160). -/
structure ElemStat where
  col : Nat := 0
  lane : Nat := 0
  panel : Nat := 0
  /-- e² -/
  sq : Val := vZero
  /-- FP32 bits of |e| -/
  err : Nat := 0
  clipped : Bool := false
  saturated : Bool := false
  nonfinite : Bool := false
  deriving Repr, Inhabited

/-- A row that a stage writes: codes and their format, scale codes of dynamic blocks, what the conversion counted. -/
structure RowOut where
  row : Nat := 0
  fmt : Nat := 1
  codes : List Nat := []
  scales : List Nat := []
  clipped : Bool := false
  empty : Bool := false
  stats : List ElemStat := []
  deriving Repr, Inhabited

/-- The panel that converts element `i` of row `m` of a stage, whose choices stand at `key`: which one is open. -/
def panelAt (panels : Nat) (key : Key) (m i : Nat) : Nat := pick (3 :: i :: m :: 9 :: key) panels

/-- Where element `i` of row `m` stands among the elements of its stage that its panel converts in the same lane. -/
def drawOrder (key : Key) (m i : Nat) : Nat × Nat × Nat := (Config.pick (4 :: i :: m :: 9 :: key), m, i)

/-- Elements of a stage of `rows` × `cols` that panel `p` converts in lane `l` and that satisfy `f`. -/
def laneCount (panels p l : Nat) (x : Key × Nat × Nat) (f : Nat → Nat → Bool) : Nat :=
  ((List.range x.2.1).map fun m => ((List.range x.2.2).filter fun i => i % 64 == l && panelAt panels x.1 m i == p && f m i).length).sum

/-- The place of the choices of a stage, and the row by which its conversions count: in a windowed stage the output pixel. -/
def TailEnv.convRow (e : TailEnv) (m : Nat) : Key × Nat := e.pixel.getD (e.key, m)

/-- The panel that converts element `i` of row `m`. -/
def TailEnv.panelOf (e : TailEnv) (m i : Nat) : Nat := panelAt e.panels (e.convRow m).1 (e.convRow m).2 i

/-- Steps that the lane of element `i` of row `m` takes up to its draw (R156): one for each element of its panel and lane, those of the
earlier stages of the leg first, those of the same stage in an open order. -/
def laneSteps (e : TailEnv) (m0 i : Nat) : Nat :=
  let (key, m) := e.convRow m0
  let me := drawOrder key m i
  let before := fun a b =>
    let x := drawOrder key a b
    decide (x.1 < me.1) || (x.1 == me.1 && (decide (x.2.1 < m) || (x.2.1 == m && decide (x.2.2 < i))))
  (e.draws.map fun x => laneCount e.panels (e.panelOf m0 i) (i % 64) x (if x.1 = key then before else fun _ _ => true)).sum + 1

/-- The random draw of element `i` of row `m` (R156): the state of its lane after its own step. Where tiles, attention rows or cells leave
open which elements the lane has converted before, so is their number, up to the most that it may convert (DESIGN CHOICE, log 36). -/
def drawAt (e : TailEnv) (m i : Nat) : Nat :=
  let n := if e.drawsMax = 0 then laneSteps e m i else pick (0 :: i :: m :: 9 :: e.key) e.drawsMax + 1
  (List.range n).foldl (fun v _ => xorshift v) (laneInit e.seed (i % 64)) / 65536

/-- Converts a row of FP32 values by the stage's output settings (R152–R156): `scales` are those of a static block. -/
def convertRow (e : TailEnv) (m : Nat) (scales : List Nat) (xs : List Val) : RowOut :=
  let f := num e.st 3 1
  let b := num e.st 6 1
  let dyn := b.testBit 4
  let w := num e.st 36 4
  let c : Conv := { src := 1, dst := f, dynamic := dyn, stochastic := b.testBit 5, m3 := blkM3 b }
  let vs := if w = 0 then xs else xs.map fun x => fdiv x (ofBin fp32 w)
  let blocks := blocksOf vs.length (blockOf b)
  let sc := if blockOf b = 0 then [] else if dyn then blocks.map fun (o, n) => dynScale f c.m3 ((vs.drop o).take n) else scales
  let ws := (blocks.map fun (o, n) => blockVals dyn ((vs.drop o).take n)).flatten
  let es := ws.mapIdx fun i v =>
    let k := i :: m :: 9 :: e.key
    let s := if blockOf b = 0 then vOne else scaleVal c.m3 (sc.getD (i / blockOf b) 0)
    let draw : Draw := if c.stochastic then some (drawAt e m i) else none
    if !isCode f && blockOf b != 0 then
      ((pick (1 :: k) (2 ^ codeBits f), false), ({ col := i, lane := i % 64, nonfinite := true } : ElemStat))
    else
      let (code, y, beyond, nf) := convElem c draw (Config.pick (2 :: k)) s v
      let x := f32 (v.add (f32 y).neg)
      let q : ElemStat :=
        { col := i, lane := i % 64, panel := e.panelOf m i, sq := fmul x x, err := toBin fp32 .even 0 x.abs
          clipped := beyond && !dyn, saturated := beyond && dyn, nonfinite := nf }
      ((code, beyond && !dyn), q)
  { row := m, fmt := f, codes := es.map fun x => x.1.1, scales := if dyn then sc else [], clipped := es.any fun x => x.1.2
    stats := es.map Prod.snd }

/-- Stores a row in FP32 or BF16 (R144). -/
def storeRow (e : TailEnv) (m f : Nat) (xs : List Val) : RowOut :=
  { row := m, fmt := f, codes := xs.mapIdx fun i x =>
      let k := i :: m :: 10 :: e.key
      if f = 1 then f32Word k x else toBin bf16 .away (Config.pick k) x }

/-- The last op of the program writes the row. `scaleRow` is the row of the output's scale tensor. -/
def writeOp (e : TailEnv) (m scaleRow : Nat) (xs : List Val) : RowOut :=
  match (tailBody e.st).getLast? with
  | some w =>
    if num w 0 1 = 0x0A then storeRow e m (num w 1 1) xs
    else convertRow e m (if (num e.st 6 1).testBit 4 then [] else scaleCodes e.look (sref e.st 5) scaleRow xs.length (num e.st 6 1)) xs
  | none => { row := m }

/-- A row of zeros (R247, R248, R267). -/
def zeroRow (st : List Byte) (m n : Nat) (empty : Bool) : RowOut :=
  { row := m, fmt := outFmt st, codes := List.replicate n 0, empty := empty
    scales := if (num st 6 1).testBit 4 && tailConverts st then List.replicate ((n + blockOf (num st 6 1) - 1) / blockOf (num st 6 1)) 0 else [] }

/-- The Tail program on one row: its ops in order, then CONVERT or STORE (R173). -/
def tailRow (e : TailEnv) (m scaleRow : Nat) (ops : List (List Byte × Nat)) (xs : List Val) : RowOut :=
  match tailOps e m ops xs with
  | some ys => writeOp e m scaleRow ys
  | none => zeroRow e.st m xs.length true

/-- A row of `n` elements that the spec gives no values. -/
def openRow (e : TailEnv) (m n : Nat) : RowOut :=
  { row := m, fmt := outFmt e.st, codes := (List.range n).map fun i => pick (i :: m :: 11 :: e.key) (2 ^ codeBits (outFmt e.st)) }

/-! ### Writing rows -/

/-- Writes bytes behind a reference of run `r`, cut at the end of its object. -/
def writeRef (r : Run) (p : Plan) (x : Nat × Nat) (off : Nat) (bs : List Byte) (s : State) : State :=
  match refAddr r p x with
  | some (a, room) => vwrite r.ctx (a + off) (bs.take (room - off)) s
  | none => s

/-- Bytes of a row of scale codes, padded as R150 has it. -/
def scaleRowOf (n b : Nat) (codes : List Nat) : List Byte :=
  fit (scaleRowBytes n b) ((codes.map (toLE (scaleSize (blkM3 b)))).flatten)

/-- Writes rows to the stage's output at its row stride, and the scales of dynamic blocks (R148, R153). -/
def emitRows (r : Run) (p : Plan) (st : List Byte) (rows : List RowOut) (s : State) : State :=
  rows.foldl (fun t o =>
    let t1 := writeRef r p (sref st 4) (o.row * num st 116 4) (packRow o.fmt o.codes) t
    if o.scales.isEmpty then t1
    else writeRef r p (sref st 5) (o.row * scaleRowBytes o.codes.length (num st 6 1)) (scaleRowOf o.codes.length (num st 6 1) o.scales) t1) s

/-! ### Statistics of a leg (R160) -/

/-- The sum of squared errors of one record: FP32 sums by lane and panel, added in binary64, in open orders. -/
def sumSquares (k : Key) (es : List ElemStat) : Nat :=
  let ok := es.filter fun x => !x.nonfinite
  let parts := (distinct (ok.map fun x => 64 * x.panel + x.lane)).map fun g =>
    let l := (ok.filter fun x => 64 * x.panel + x.lane == g).map ElemStat.sq
    toBin fp64 .even 0 (sumAny (g :: k) l)
  foldAny (fun _ a b => add64 a b) (0 :: k) parts.length parts

/-- What the elements of one tag add to a slot with `chans` records: column k counts in record k mod C. -/
def statsOf (k : Key) (tag chans : Nat) (es : List ElemStat) : List StatAdd :=
  (distinct (es.map fun x => x.col % max 1 chans)).map fun c =>
    let l := es.filter fun x => x.col % max 1 chans == c
    let n := fun f => (l.filter f).length
    { tag := tag, chan := c, sum := sumSquares (c :: k) l, elements := l.length, clipped := n ElemStat.clipped
      saturated := n ElemStat.saturated, nonfinite := n ElemStat.nonfinite
      maxErr := (l.filter fun x => !x.nonfinite).foldl (fun a x => max a x.err) 0 }

end Sys2Proof.Machine
end

