-- ==== Sys2Proof/Machine/StageOps.lean ====
section
/-! DEFINITION. What product, vector and prefix-scan stages compute (R169, R170, R175, R278–R280, R387, R388). -/

namespace Sys2Proof.Machine

/-! ### The checksum comparison (R170, R387, R388) -/

/-- What the comparison of one output row says. -/
inductive RowCheck where
  | agrees | disagrees | unchecked
  deriving DecidableEq, Repr

/-- Compares the output sum, the check value and the magnitude of a row at tolerance 2^−t (R387, R388). -/
def compareRow (t : Nat) (y chk mag : Val) : RowCheck :=
  if y.finite && chk.finite then
    if !mag.finite then .unchecked
    else
      match mag with
      | .fin _ 0 _ => if vZero.lt y.abs || vZero.lt chk.abs then .disagrees else .agrees
      | _ => if (mag.mul (.fin false 1 (-(t : Int)))).lt (y.add chk.neg).abs then .disagrees else .agrees
  else if y.finite || chk.finite then .disagrees else .agrees

/-- The checksum tolerance of a stage (R181). -/
def tolerance (st : List Byte) : Nat := if num st 22 1 = 0 then 10 else num st 22 1

/-- The sums c and c⁺ of weights, computed at load, for the `k` elements of a row with the second scale `sB` (R170, R387). -/
def loadSums (key : Key) (sB : Val) (ws : List (List Val)) (k : Nat) : List (Val × Val) :=
  (List.range k).map fun i =>
    let col := ws.map fun w => fmul (w.getD i vZero) sB
    (sumAny (0 :: i :: 12 :: key) col, sumAny (1 :: i :: 12 :: key) (col.map Val.abs))

/-- The sums of the weights of a stage: c from the plan's sums object where it names one (R170, R387). -/
def checkSums (e : TailEnv) (ws : List (List Val)) (k : Nat) : List (Val × Val) :=
  let cs := loadSums e.key (second (num e.st 32 4)) ws k
  if (sref e.st 8).1 = 0xFFFF then cs
  else cs.mapIdx fun i c => (ofBin fp32 (num (e.look (sref e.st 8) (4 * i) 4) 0 4), c.2)

/-- Checks one output row `ys` of operands `a` with second scale `sA`, by tolerance 2^−t (R387). -/
def checkProd (t : Nat) (key : Key) (sA : Val) (cs : List (Val × Val)) (a ys : List Val) : RowCheck :=
  let a1 := a.map fun x => fmul x sA
  let chk := dot (0 :: key) a1 (cs.map Prod.fst)
  let mag := dot (1 :: key) (a1.map Val.abs) (cs.map Prod.snd)
  compareRow t (sumAny (2 :: key) ys) chk mag

/-- Checks output row `m` of a stage's product (R387). -/
def checkRow (e : TailEnv) (m : Nat) (cs : List (Val × Val)) (a ys : List Val) : RowCheck :=
  checkProd (tolerance e.st) (m :: 13 :: e.key) (second (num e.st 28 4)) cs a ys

/-- Checks a product whose weights are summed as they are loaded, and whose second scales its operands already carry (R387). -/
def checkPlain (e : TailEnv) (key : Key) (ws : List (List Val)) (a ys : List Val) : RowCheck :=
  checkProd (tolerance e.st) (13 :: key) vOne (loadSums key vOne ws a.length) a ys

/-- Rows of a stage, with the comparisons of its product rows. -/
structure StageOut where
  rows : List RowOut := []
  checks : List (Nat × RowCheck) := []
  deriving Repr, Inhabited

/-! ### Product stages (R169) -/

/-- The accumulated sums of a row, times the second scales (R151, R173). -/
def prodSums (e : TailEnv) (k : Key) (ws : List (List Val)) (a : List Val) : List Val :=
  ws.mapIdx fun n w => fmul (dot (n :: k) a w) (seconds e.st)

/-- A product stage: y = A × B, the check of each row, the Tail (R169, R170). -/
def productStage (e : TailEnv) : StageOut :=
  let st := e.st
  let K := num st 16 4
  let ws := (List.range (num st 12 4)).map fun n => weightRow e.look (sref st 2) (sref st 3) n K (num st 2 1) (num st 5 1)
  let cs := checkSums e ws K
  let out := (List.range (num st 8 4)).map fun m =>
    let a := operandRow e.look (sref st 0) (sref st 1) m K (num st 1 1) (num st 4 1) (num st 112 4)
    let ys := prodSums e (m :: 0 :: e.key) ws a
    (tailRow e m m (tailMain st) ys, (m, checkRow e m cs a ys))
  { rows := out.map Prod.fst, checks := out.map Prod.snd }

/-! ### Vector stages (R175) -/

/-- FP32 values of row `m` of a tensor of rows of `k` elements in format `f` at row stride `stride`. -/
def floatRow (look : Look) (x : Nat × Nat) (m k f stride : Nat) : List Val :=
  (rowCodes look x (m * stride) k f).map fun c => decodeVal f c

/-- The row of A of a vector stage, widened exactly. -/
def vecRow (e : TailEnv) (m : Nat) : List Val := floatRow e.look (sref e.st 0) m (num e.st 16 4) (num e.st 1 1) (num e.st 112 4)

/-- INT32 word `i` of an aux object. -/
def TailEnv.int (e : TailEnv) (a i : Nat) : Int := signed 32 (num (e.look (e.aux a) (4 * i) 4) 0 4)

/-- RMS normalisation (R175). -/
def rmsRow (e : TailEnv) (m : Nat) (xs : List Val) : List Val :=
  let ms := fdiv (sumAny (m :: 20 :: e.key) (xs.map fun x => fmul x x)) (vNat xs.length)
  let d := fsqrt (fadd ms (e.const 0))
  xs.mapIdx fun i x => fmul (fdiv x d) (e.word 0 i)

/-- Layer normalisation (R175): the variance as the mean of squared deviations or as the difference of means, which the spec leaves open. -/
def layerRow (e : TailEnv) (m : Nat) (xs : List Val) : List Val :=
  let n := vNat xs.length
  let mean := fdiv (sumAny (m :: 21 :: e.key) xs) n
  let sq := fun (l : List Val) => fdiv (sumAny (m :: 22 :: e.key) (l.map fun x => fmul x x)) n
  let var := if pick (m :: 23 :: e.key) 2 = 0 then sq (xs.map fun x => fsub x mean) else fsub (sq xs) (fmul mean mean)
  let d := fsqrt (fadd var (e.const 0))
  xs.mapIdx fun i x => fadd (fmul (fdiv (fsub x mean) d) (e.word 0 i)) (e.word 1 i)

/-- Sum, maximum or minimum of a row (R175). -/
def reduceRow (e : TailEnv) (m kind : Nat) (xs : List Val) : Val :=
  match kind, xs with
  | 0, _ => sumAny (m :: 24 :: e.key) xs
  | 1, x :: l => l.foldl fmax x
  | _, x :: l => l.foldl fmin x
  | _, [] => vZero

/-- Position of a largest element of a row; which of equal ones, and what with NaN, is open. -/
def argmaxRow (e : TailEnv) (m : Nat) (xs : List Val) : Nat :=
  let top := xs.filter fun x => xs.all fun y => !x.lt y
  let at_ := (xs.zipIdx.filter fun x => xs.all fun y => !x.1.lt y).map Prod.snd
  if top.any Val.isNan then pick (m :: 25 :: e.key) xs.length else at_.getD (pick (m :: 25 :: e.key) at_.length) 0

/-- Element-wise operation of two values (R175). -/
def elemOp (kind : Nat) (a b : Val) : Val :=
  match kind with
  | 0 => fadd a b | 1 => fsub a b | 2 => fmul a b | 3 => fdiv a b | 4 => fmax a b | _ => fmin a b

/-- The point at fraction `n / d` of the way from `a` to `b`, for finite values: exact at `a`, between the two within the error that R174
gives the vector unit's functions, since the spec states no rounding for it (DESIGN CHOICE, log 48). -/
def lerp (k : Key) (a b : Val) (n d : Int) : Val :=
  if n = 0 then a
  else if a.finite && b.finite then nearFx k (toFx a + (toFx b - toFx a) * n / d)
  else freeVal k

/-- The unary table: 257 points over [lo, hi], linear interpolation between two points, clamped outside (R175). -/
def tableFn (k : Key) (pt : Nat → Val) (lo hi x : Val) : Val :=
  if x.isNan then x
  else if !lo.lt hi then freeVal k
  else if !lo.lt x then pt 0
  else if !x.lt hi then pt 256
  else
    match lo, hi, x with
    | .fin _ _ _, .fin _ _ _, .fin _ _ _ =>
      let n := (toFx x - toFx lo) * 256
      let d := toFx hi - toFx lo
      lerp k (pt (n / d).toNat) (pt ((n / d).toNat + 1)) (n % d) d
    | _, _, _ => freeVal k

/-- The identity of a scan operator (R280). -/
def scanUnit (op : Nat) : Val := match op with | 0 => vZero | 1 => .inf true | _ => .inf false

/-- Vector op 0x0A: the cumulative scan of a row by segments (R280). -/
def scanRow (e : TailEnv) (m : Nat) (xs : List Val) : List Val :=
  let par := num e.st 24 4
  let op := bits par 1 0
  let f : Val → Val → Val := match op with | 0 => fadd | 1 => fmax | _ => fmin
  let stride := rowBytes xs.length 1
  let marks := if par.testBit 3 then e.look (e.aux 0) (m * stride) stride else []
  let marked := fun i => par.testBit 3 && (num marks (i / 8) 1).testBit (i % 8)
  (List.range xs.length).map fun i =>
    let from_ := (((List.range (i + 1)).filter marked).getLast?).getD 0
    let part := (xs.take (if par.testBit 2 then i else i + 1)).drop from_
    if part.isEmpty then scanUnit op else foldAdj f (i :: m :: 26 :: e.key) part.length part

/-- A second scale or block scales on the operand of a vector stage have no stated effect. -/
def vecOpen (st : List Byte) : Bool := !secondPlain (num st 28 4) || blockOf (num st 4 1) != 0

/-- Values as long as the stage's N: columns that the operation does not give are open. -/
def toCols (e : TailEnv) (m : Nat) (xs : List Val) : List Val :=
  (List.range (num e.st 12 4)).map fun i => xs.getD i (freeVal (i :: m :: 27 :: e.key))

/-- Row `m` of a resize stage (R175). The spec gives no sampling grid: with the nearest rule each element is some element of A, with the
bilinear rule it lies between two of them (DESIGN CHOICE, log 48). -/
def resizeRow (e : TailEnv) (m : Nat) : List Val :=
  let any := fun k => (vecRow e (pick (0 :: k) (num e.st 8 4))).getD (pick (1 :: k) (num e.st 16 4)) vZero
  (List.range (num e.st 12 4)).map fun n =>
    let k := n :: m :: 37 :: e.key
    if num e.st 24 4 = 0 then any (2 :: k) else lerp (3 :: k) (any (2 :: k)) (any (4 :: k)) (pick (5 :: k) (2 ^ 32 + 1) : Nat) (2 ^ 32)

/-- The result row `m` of a vector op with one output row per row of A; none where the spec does not give its values. -/
def vecResult (e : TailEnv) (m : Nat) : Option (List Val) :=
  let st := e.st
  let xs := vecRow e m
  let M := num st 8 4
  let K := num st 16 4
  if vecOpen st then none
  else
    match num st 23 1 with
    | 0x01 => some (rmsRow e m xs)
    | 0x02 => some (layerRow e m xs)
    | 0x03 => if num st 24 4 = 3 then none else some [reduceRow e m (num st 24 4) xs]
    | 0x05 =>
      let i := e.int 0 m
      if 0 ≤ i ∧ i < M then some (vecRow e i.toNat) else none
    | 0x07 =>
      let ys := floatRow e.look (e.aux 0) m K (num st 1 1) (num st 112 4)
      some (xs.mapIdx fun i x => elemOp (num st 24 4) x (ys.getD i vZero))
    | 0x08 => some (xs.mapIdx fun i x => tableFn (i :: m :: 28 :: e.key) (e.word 0) (e.const 0) (e.const 1) x)
    | 0x09 =>
      some ((List.range (num st 12 4)).map fun n =>
        if n < M ∧ m < K then (vecRow e n).getD m vZero else freeVal (n :: m :: 29 :: e.key))
    | 0x0A => some (scanRow e m xs)
    | 0x0C => some (resizeRow e m)
    | 0x0D => softmax (m :: 30 :: e.key) (xs.map fun x => (x, true))
    | _ => none

/-- INT32 results of a row: the flag, or the position of the maximum (R175). -/
def vecInt (e : TailEnv) (m : Nat) : Option Nat :=
  let xs := vecRow e m
  if vecOpen e.st then none
  else
    match num e.st 23 1 with
    | 0x0E => some (b2n (match xs with | x :: _ => !x.isNan && !(e.const 0).isNan && !x.lt (e.const 0) | [] => false))
    | 0x03 => if num e.st 24 4 = 3 then some (argmaxRow e m xs) else none
    | _ => none

/-- Whether the program only stores 32-bit words: then an INT32 result reaches the output as it is. -/
def plainStore (st : List Byte) : Bool :=
  match tailBody st with
  | [w] => num w 0 1 == 0x0A && num w 1 1 == 1
  | _ => false

/-- The positions of the `k` largest elements of a row, largest first; which of equal ones comes first is open (R175). -/
def topPositions (key : Key) (k : Nat) (xs : List Val) : List Nat :=
  let rank := fun (i : Nat) => Config.pick (i :: key)
  let before := fun (a b : Val × Nat) =>
    b.1.lt a.1 || (!a.1.lt b.1 && (decide (rank a.2 < rank b.2) || (rank a.2 == rank b.2 && decide (a.2 < b.2))))
  ((xs.zipIdx.filter fun a => (xs.zipIdx.filter fun b => before b a).length < k).foldl
    (fun (l : List (Val × Nat)) a => l.takeWhile (fun b => before b a) ++ a :: l.dropWhile (fun b => before b a)) []).map Prod.snd

/-- Elements in an open order: each is put before an open one of those behind it. -/
def shuffle {α : Type} (key : Key) (l : List α) : List α :=
  (l.zipIdx).foldr (fun x t => let n := pick (x.2 :: key) (t.length + 1); t.take n ++ x.1 :: t.drop n) []

/-- Row `m` of a top-k stage (R175): the k largest values and their INT32 positions, each of them once. In which column a value or a
position stands is open, the same for every row (DESIGN CHOICE, log 48). A row with NaN, fewer than k elements, or a program that does more than store
32-bit words leaves the row open. -/
def topRow (e : TailEnv) (m : Nat) : RowOut :=
  let xs := vecRow e m
  let k := num e.st 24 4
  let n := num e.st 12 4
  if vecOpen e.st || !plainStore e.st || xs.any Val.isNan || xs.length < k then openRow e m n
  else
    let at_ := topPositions (m :: 34 :: e.key) k xs
    let words := at_.map (fun i => f32Word (i :: m :: 35 :: e.key) (xs.getD i vZero)) ++ at_
    { row := m, fmt := 1, codes := (shuffle (36 :: e.key) words).take n }

/-- Scatter-add (R175): each row named by an index is the output row as it stood plus the rows of A that name it, in an open order. A row
outside the output, or an output that is not FP32 or BF16, leaves the values open. -/
def scatterRows (e : TailEnv) : List RowOut :=
  let st := e.st
  let M := num st 8 4
  let N := num st 12 4
  let f := outFmt st
  let at_ := (List.range M).map fun i => e.int 0 i
  let rows := distinct (at_.filterMap fun (i : Int) => if 0 ≤ i ∧ i < (M : Int) then some i.toNat else none)
  rows.map fun t =>
    if isCode f || vecOpen st then openRow e t N
    else
      let old := floatRow e.look (sref st 4) t N f (num st 116 4)
      let adds := ((List.range M).filter fun i => at_.getD i 0 == (t : Int)).map (vecRow e)
      tailRow e t t (tailMain st) (old.mapIdx fun n y => sumAny (n :: t :: 31 :: e.key) (y :: adds.map fun r => r.getD n vZero))

/-- A vector stage other than window pooling (R175). -/
def vectorStage (e : TailEnv) : StageOut :=
  let st := e.st
  let N := num st 12 4
  if num st 23 1 = 0x06 then { rows := scatterRows e }
  else if num st 23 1 = 0x04 then { rows := (List.range (num st 8 4)).map (topRow e) }
  else
    { rows := (List.range (num st 8 4)).map fun m =>
        match vecInt e m, vecResult e m with
        | some w, _ => if plainStore st && N == 1 then { row := m, fmt := 1, codes := [w] } else openRow e m N
        | none, some xs => tailRow e m m (tailMain st) (toCols e m xs)
        | none, none => openRow e m N }

/-! ### Prefix scans (R278, R279) -/

/-- A part of a chunk: h ↦ β if a mark lies in it, otherwise α × h + β. -/
structure Part where
  phi : Bool := false
  a : Val := vZero
  b : Val := vZero
  deriving Inhabited

/-- Part `r` applied after part `l` (R279). -/
def Part.comb (l r : Part) : Part :=
  { phi := l.phi || r.phi, a := if l.phi || r.phi then vZero else fmul r.a l.a, b := if r.phi then r.b else fadd (fmul r.a l.b) r.b }

/-- Rows h of one batch element of a prefix scan: every division of the chunk and its carry into parts is possible (R279). -/
def scanChunk (e : TailEnv) (d : List Byte) (bi : Nat) : List (List Val) :=
  let st := e.st
  let T := num d 2 2
  let D := num d 4 4
  let f := num st 1 1
  let fl := num d 1 1
  let carry := if fl.testBit 0 then floatRow e.look (refOf d 16) bi D 1 (rowBytes D 32) else List.replicate D vZero
  let stride := rowBytes T 1
  let marks := if fl.testBit 2 then e.look (refOf d 32) (bi * stride) stride else []
  let as_ := (List.range T).map fun t => floatRow e.look (sref st 0) (bi * T + t) D f (num st 112 4)
  let bs := (List.range T).map fun t => floatRow e.look (sref st 6) (bi * T + t) D f (num st 112 4)
  (List.range T).map fun t => (List.range D).map fun x =>
    let parts := (List.range (t + 1)).map fun u =>
      let mk := (num marks (u / 8) 1).testBit (u % 8)
      ({ phi := mk, a := if mk then vZero else (as_.getD u []).getD x vZero, b := (bs.getD u []).getD x vZero } : Part)
    (foldAdj Part.comb (x :: t :: bi :: 32 :: e.key) (t + 2) ({ phi := true, b := carry.getD x vZero } :: parts)).b

/-- A prefix-scan stage (R278): the Tail on each h, and the carry out. -/
def scanStage (e : TailEnv) (d : List Byte) : StageOut × List (Nat × List Byte) :=
  let T := num d 2 2
  let D := num d 4 4
  let hs := (List.range (num d 8 2)).map (scanChunk e d)
  ({ rows := (hs.mapIdx fun bi l => l.mapIdx fun t xs =>
       if vecOpen e.st then openRow e (bi * T + t) D else tailRow e (bi * T + t) (bi * T + t) (tailMain e.st) xs).flatten },
   if (num d 1 1).testBit 1 then
     hs.mapIdx fun bi l => (bi * rowBytes D 32, packRow 1 ((l.getLast?.getD []).mapIdx fun x v => f32Word (x :: bi :: 33 :: e.key) v))
   else [])

end Sys2Proof.Machine
end

