-- ==== Sys2Proof/Machine/Windows.lean ====
section
/-! DEFINITION. What windowed products and window pooling compute (08, R209–R219). -/

namespace Sys2Proof.Machine

/-! ### Images (R209, R217) -/

/-- A pixel: the codes of its channels, and the scale codes of its blocks where it carries any. -/
structure Pixel where
  codes : List Nat := []
  scales : List Nat := []
  deriving Repr, Inhabited

/-- A batch of images as stored: pixel (b, y, x) stands at (b × h + y) × w + x. -/
structure Picture where
  h : Nat := 0
  w : Nat := 0
  c : Nat := 0
  px : List Pixel := []
  deriving Repr, Inhabited

/-- The input image of a windowed stage as memory holds it, interleaved or planar. -/
def readImage (e : TailEnv) (w : Win) : Picture :=
  let st := e.st
  let f := num st 1 1
  let rs := num st 112 4
  let bp := pixBytes w.cIn (codeBits f)
  { h := w.hIn, w := w.wIn, c := w.cIn
    px := if w.planar then
        ((List.range w.batch).map fun b => (List.range w.hIn).map fun y =>
          let rows := (List.range w.cIn).map fun c => rowCodes e.look (sref st 0) (b * w.batchStride + c * w.plane + y * rs) w.wIn f
          (List.range w.wIn).map fun x => ({ codes := rows.map fun r => r.getD x 0 } : Pixel)).flatten.flatten
      else
        ((List.range w.batch).map fun b => (List.range w.hIn).map fun y => (List.range w.wIn).map fun x =>
          ({ codes := rowCodes e.look (sref st 0) (b * w.batchStride + y * rs + x * bp) w.cIn f } : Pixel)).flatten.flatten }

/-- The value of code `c` of channel `j` of stored pixel `i`: an operand of a product, or a value of pooling. -/
def pixVal (e : TailEnv) (scales : Nat → List Nat) (img : Picture) (i j : Nat) : Val :=
  let st := e.st
  let p := img.px.getD i {}
  let c := p.codes.getD j 0
  if isPool st then decodeVal (num st 1 1) c
  else operand (num st 1 1) (scaleAt (num st 4 1) (if p.scales.isEmpty then scales i else p.scales) j) c

/-- The value of the pad code (R214). -/
def padVal (st d : List Byte) : Val :=
  if isPool st then ofBin bf16 (num d 28 2) else operand (num st 1 1) none (num d 28 2)

/-- Channel `cc` of regrouped position (y, x) of image `b` (R217), with whether it lies inside the regrouped image. -/
def tapVal (e : TailEnv) (d : List Byte) (w : Win) (scales : Nat → List Nat) (img : Picture) (b : Nat) (y x : Int) (cc : Nat) : Val × Bool :=
  let f := w.inF
  let (hh, ww, _) := winIn w
  if y < 0 ∨ x < 0 ∨ (hh : Int) ≤ y ∨ (ww : Int) ≤ x then (padVal e.st d, false)
  else
    let sub := cc / max 1 img.c
    let sy := f * y.toNat + sub / f
    let sx := f * x.toNat + sub % f
    if sy < img.h ∧ sx < img.w then (pixVal e scales img ((b * img.h + sy) * img.w + sx) (cc % max 1 img.c), true)
    else (padVal e.st d, true)

/-- The taps of an output pixel in the order (ky, kx) of R210, each with its position (R213). -/
def tapsOf (w : Win) (oy ox : Nat) : List (Int × Int) :=
  ((List.range w.kh).map fun ky => (List.range w.kw).map fun kx =>
    (((oy * w.sh + ky * w.dh : Nat) : Int) - w.pt, ((ox * w.sw + kx * w.dw : Nat) : Int) - w.pl)).flatten

/-- Scale codes of the stored pixels' A scale tensor (R210). -/
def pixScales (e : TailEnv) (w : Win) : Nat → List Nat := fun i =>
  if blockOf (num e.st 4 1) = 0 then [] else scaleCodes e.look (sref e.st 1) i w.cIn (num e.st 4 1)

/-! ### The result of one output pixel -/

/-- Group that output channel `n` belongs to (R210). -/
def Win.groupOf (w : Win) (n : Nat) : Nat := n * w.groups / max 1 w.cOut

/-- Operands of group `g`: `full` holds the taps' operands, channels fastest. -/
def groupTaps (w : Win) (full : List Val) (c' g : Nat) : List Val :=
  let cg := c' / max 1 w.groups
  ((List.range (w.kh * w.kw)).map fun t => (full.drop (t * c' + g * cg)).take cg).flatten

/-- The elements of group `g` of a list over the output channels. -/
def ofGroup {α : Type} (w : Win) (g : Nat) (l : List α) : List α := (l.zipIdx.filter fun x => w.groupOf x.2 == g).map Prod.fst

/-- Sums of a windowed product (R210): output channel n reads the channels of its group. -/
def convSums (e : TailEnv) (w : Win) (k : Key) (ws : List (List Val)) (full : List Val) (c' : Nat) : List Val :=
  ws.mapIdx fun n wr => fmul (dot (n :: k) (groupTaps w full c' (w.groupOf n)) wr) (seconds e.st)

/-- The sums of the checksum column by group: each group is a product of its own. With groups they are computed at load, since K sums of a
plan's object do not say whose they are (R170; DESIGN CHOICE, log 36). -/
def convChecks (e : TailEnv) (w : Win) (ws : List (List Val)) (k : Nat) : List (List (Val × Val)) :=
  if w.groups ≤ 1 then [checkSums e ws k]
  else (List.range w.groups).map fun g => loadSums (g :: e.key) (second (num e.st 32 4)) (ofGroup w g ws) k

/-- The comparisons of image row `m` for one output pixel, group by group (R387). -/
def convCheck (e : TailEnv) (w : Win) (m : Nat) (css : List (List (Val × Val))) (full ys : List Val) (c' : Nat) : List (Nat × RowCheck) :=
  if w.groups ≤ 1 then css.map fun cs => (m, checkRow e m cs full ys)
  else css.mapIdx fun g cs => (m, checkRow { e with key := g :: e.key } m cs (groupTaps w full c' g) (ofGroup w g ys))

/-- Pooling of the taps of one channel (R216), each with whether it lies inside the image. -/
def poolTaps (k : Key) (kind : Nat) (taps : List (Val × Bool)) : Val :=
  match kind with
  | 0 => match taps with
    | [] => vZero
    | x :: l => l.foldl (fun a y => fmax a y.1) x.1
  | 1 => fdiv (sumAny k (taps.map Prod.fst)) (vNat taps.length)
  | _ =>
    let l := (taps.filter Prod.snd).map Prod.fst
    if l.isEmpty then vZero else fdiv (sumAny k l) (vNat l.length)

/-- A tap of window pooling with the stage's second scale (R151, R214). -/
def poolTap (st : List Byte) (x : Val × Bool) : Val × Bool :=
  if secondPlain (num st 28 4) then x else (fmul x.1 (second (num st 28 4)), x.2)

/-- The values of output pixel (b, oy, ox) before the Tail, with the product's operands for the checksum column. -/
def pixelValues (e : TailEnv) (d : List Byte) (w : Win) (ws : List (List Val)) (img : Picture) (b oy ox : Nat) : List Val × List Val :=
  let (_, _, c') := winIn w
  let k := ox :: oy :: b :: 40 :: e.key
  let sc := pixScales e w
  let taps := tapsOf w oy ox
  if isPool e.st then
    ((List.range c').map fun c => poolTaps (c :: k) (bits (num e.st 24 4) 17 16) (taps.map fun (y, x) => poolTap e.st (tapVal e d w sc img b y x c)), [])
  else
    let full := (taps.map fun (y, x) => (List.range c').map fun c => (tapVal e d w sc img b y x c).1).flatten
    (convSums e w k ws full c', full)

/-- A windowed stage on an input image: one Tail row per output pixel, with row m of R212 for its aux objects (log 36). -/
def windowStage (e : TailEnv) (d : List Byte) (img : Picture) : StageOut :=
  let st := e.st
  let w := winOf d
  let (_, _, c') := winIn w
  let K := num st 16 4
  let pool := isPool st
  let ws := if pool then [] else (List.range (num st 12 4)).map fun n => weightRow e.look (sref st 2) (sref st 3) n K (num st 2 1) (num st 5 1)
  let css := if pool then [] else convChecks e w ws K
  let out := (List.range (w.batch * w.hOut * w.wOut)).map fun i =>
    let m := i / max 1 w.wOut
    let e1 := { e with key := i :: e.key, pixel := some (e.key, i) }
    if pool && blockOf (num st 4 1) != 0 then (openRow e1 m c', [])
    else
      let (ys, a) := pixelValues e d w ws img (m / max 1 w.hOut) (m % max 1 w.hOut) (i % max 1 w.wOut)
      (tailRow e1 m i (tailMain st) ys, convCheck e1 w m css a ys c')
  { rows := out.map Prod.fst, checks := (out.map Prod.snd).flatten }

/-! ### What becomes of the output (R209, R217, R219) -/

/-- The stored pixels that output pixel `i` gives: image row over the batch, column, and the pixel (R217 with D2S). -/
def storedPixels (w : Win) (ob : Nat) (i : Nat) (o : RowOut) : List (Nat × Nat × Pixel) :=
  let f := w.outF
  let cs := w.cOut / (f * f)
  let m := i / max 1 w.wOut
  (List.range (f * f)).map fun sub =>
    (m * f + sub / f, i % max 1 w.wOut * f + sub % f,
      { codes := (o.codes.drop (sub * cs)).take cs, scales := o.scales.drop (if blockOf ob = 0 then 0 else sub * cs / blockOf ob) })

/-- The output of a stage that a fused stage reads: it never leaves the scratchpad (R219). -/
def tileImage (st : List Byte) (w : Win) (rows : List RowOut) : Picture :=
  let px := (rows.mapIdx (storedPixels w (num st 6 1))).flatten
  let f := w.outF
  { h := w.hOut * f, w := w.wOut * f, c := w.cOut / (f * f)
    px := (List.range (w.batch * w.hOut * f * (w.wOut * f))).map fun i =>
      ((px.find? fun x => x.1 * (w.wOut * f) + x.2.1 == i).map fun x => x.2.2).getD {} }

/-- Writes the pixels that `keep` names of the output image of a windowed stage (R209): interleaved pixels in image rows at the output row stride,
images at the batch stride, and the scales of
dynamic blocks by output pixel. -/
def emitPixels (r : Run) (p : Plan) (st : List Byte) (w : Win) (keep : Nat → Bool) (rows : List RowOut) (s : State) : State :=
  let bits_ := outBits st
  let f := w.outF
  let bp := pixBytes (w.cOut / (f * f)) bits_
  (rows.zipIdx.filter fun x => keep x.2).foldl (fun t (o, i) =>
    let t1 := (storedPixels w (num st 6 1) i o).foldl (fun u (y, x, q) =>
      writeRef r p (sref st 4) (y / max 1 (w.hOut * f) * w.batchStride + y % max 1 (w.hOut * f) * num st 116 4 + x * bp)
        (packRow o.fmt q.codes) u) t
    if o.scales.isEmpty then t1
    else writeRef r p (sref st 5) (i * scaleRowBytes w.cOut (num st 6 1)) (scaleRowOf w.cOut (num st 6 1) o.scales) t1) s

/-- Writes the whole output image of a windowed stage (R209). -/
def emitImage (r : Run) (p : Plan) (st : List Byte) (w : Win) (rows : List RowOut) (s : State) : State :=
  emitPixels r p st w (fun _ => true) rows s

end Sys2Proof.Machine
end

