-- ==== Sys2Proof/Machine/AttnOps.lean ====
section
/-! DEFINITION. What an attention stage computes (09, R242–R250). -/

namespace Sys2Proof.Machine

/-- Fields of an attention descriptor (R242). -/
structure Attn where
  absorbed : Bool
  layer : Nat
  latFmt : Nat
  heads : Nat
  dk : Nat
  dv : Nat
  dl : Nat
  dpe : Nat
  upFmt : Nat
  upBlk : Nat
  scale : Val
  deriving Repr

/-- Reads an attention descriptor. -/
def attnOf (d : List Byte) : Attn :=
  { absorbed := (num d 1 1).testBit 0, layer := num d 2 1, latFmt := num d 3 1, heads := num d 4 2, dk := num d 6 2, dv := num d 8 2
    dl := num d 10 2, dpe := num d 12 1, upFmt := num d 13 1, upBlk := num d 14 1, scale := ofBin fp32 (num d 56 4) }

/-- Width of a head's block of a query row before its positional part (R244). -/
def Attn.qWidth (a : Attn) : Nat := if a.absorbed then a.dl else a.dk

/-! ### Masks (R246, R249, R250) -/

/-- Ancestors of node `i` and itself, by the parents of nodes 1 and on (R249). -/
def lineage (parents : List Nat) : Nat → Nat → List Nat
  | 0, i => [i]
  | f + 1, i => if i = 0 then [0] else i :: lineage parents f (parents.getD (i - 1) 0)

/-- Whether row `r` of a sequence of length `n` admits key `k` (R246, R250): `verify` is the mode of the step, `bit` the bitmap. -/
def admits (verify : Bool) (mode n : Nat) (parents : List Nat) (bit : Nat → Bool) (r k : Nat) : Bool :=
  if verify then (k < n || (lineage parents parents.length r).any fun i => n + i == k) && (mode < 2 || bit k)
  else (mode % 2 == 0 || k ≤ n + r) && (mode < 2 || bit k)

/-! ### One sequence -/

/-- The cached keys of a layer of a sequence: latent operands and positional operands by token. -/
structure Keys where
  lat : List (List Val)
  pos : List (List Val)
  deriving Repr, Inhabited

/-- Reads `n` tokens of a layer (R230), the rows that this step wrote included (R243). -/
def keysOf (s : State) (q : KvSeq) (a : Attn) (n : Nat) : Keys :=
  let P := tgetD s.models.pools q.pool
  let rows := (List.range n).map (kvRow s q a.layer)
  { lat := rows.map fun b => (unpackRow a.latFmt a.dl (b.take (latentRow P))).map (operand a.latFmt none)
    pos := rows.map fun b => (unpackRow 2 a.dpe (b.drop (latentRow P))).map (operand 2 none) }

/-- Rows of an up-projection: `n` rows of the latent width behind a reference; with block scales, for which the descriptor has no
reference, their values are open. -/
def upRows (e : TailEnv) (a : Attn) (x : Nat × Nat) (tag n : Nat) : List (List Val) :=
  (List.range n).map fun i =>
    if blockOf a.upBlk = 0 then weightRow e.look x (0xFFFF, 0) i a.dl a.upFmt 0
    else (List.range a.dl).map fun j => freeVal (j :: i :: tag :: 50 :: e.key)

/-- An expanded latent: the products of its up-projection rows, with the pool's second scale, as operands (R230, R244). -/
def expandLatent (k : Key) (ls : Val) (us : List (List Val)) (c : List Val) : List Val :=
  us.mapIdx fun x u => expand (fmul (dot (x :: k) u c) ls)

/-- The product of a query block and a key, before the scales (R243, R244): `us` are the key up-projection rows of the head. -/
def keySum (k : Key) (a : Attn) (ls : Val) (us : List (List Val)) (q lat pos : List Val) : Val :=
  let qh := q.take a.qWidth
  let qp := q.drop a.qWidth
  if a.absorbed then fadd (fmul (dot (0 :: k) qh lat) ls) (dot (1 :: k) qp pos)
  else dot (2 :: k) (qh ++ qp) (expandLatent (3 :: k) ls us lat ++ pos)

/-- The score of a query block and a key (R243, R244). -/
def keyScore (e : TailEnv) (k : Key) (a : Attn) (ls : Val) (us : List (List Val)) (q lat pos : List Val) : Val :=
  fmul a.scale (fmul (keySum k a ls us q lat pos) (seconds e.st))

/-- The weights that a key gives to the product of a query block, with the pool's scale where the latent is read as it is (R230, R244). -/
def keyWeights (k : Key) (a : Attn) (ls : Val) (us : List (List Val)) (lat pos : List Val) : List Val :=
  if a.absorbed then lat.map (fun x => fmul x ls) ++ pos else expandLatent (3 :: k) ls us lat ++ pos

/-- Column `x` of rows of values. -/
def column (rows : List (List Val)) (x : Nat) : List Val := rows.map fun r => r.getD x vZero

/-- The output elements of a head from its weights over the admitted keys, and the comparisons of its products (R170, R243, R244). -/
def headOut (e : TailEnv) (k : Key) (a : Attn) (ls : Val) (vs : List (List Val)) (ps : List (Val × List Val)) : List Val × List RowCheck :=
  let w := ps.map fun x => expand x.1
  if a.absorbed then
    let rows := ps.map fun x => x.2.map fun y => fmul y ls
    let us := (List.range a.dl).map fun l => fmul (dot (l :: 0 :: k) w (column (ps.map Prod.snd) l)) ls
    let u := us.map expand
    let ys := vs.mapIdx fun x v => dot (x :: 1 :: k) u v
    (ys, [checkPlain e (4 :: k) ((List.range a.dl).map (column rows)) w us, checkPlain e (5 :: k) vs u ys])
  else
    let ex := ps.mapIdx fun i x => expandLatent (i :: 2 :: k) ls vs x.2
    let ys := (List.range a.dv).map fun x => dot (x :: 3 :: k) w (column ex x)
    (ys, [checkPlain e (6 :: k) ((List.range a.dv).map (column ex)) w ys])

/-- The comparison of the scores of a head, whose weights are the keys (R170, R387). -/
def scoreCheck (e : TailEnv) (k : Key) (a : Attn) (ls : Val) (us : List (List Val)) (q : List Val) (ks : List (Key × List Val × List Val)) :
    RowCheck :=
  let s2 := seconds e.st
  checkPlain e (7 :: k) (ks.map fun x => keyWeights x.1 a ls us x.2.1 x.2.2) (q.map fun v => fmul v s2)
    (ks.map fun x => fmul (keySum x.1 a ls us q x.2.1 x.2.2) s2)

/-! ### Keys divided among slices (R245) -/

/-- A part of a head's softmax and weighted sum: the largest score, and relative to it the sum of exponentials and the weighted values. -/
structure KeyPart where
  top : Val := vZero
  sum : Val := vZero
  out : List Val := []
  checks : List RowCheck := []
  deriving Inhabited

/-- The part of a tile of keys, each with its score and its value vector of width `n`. -/
def keyPart (e : TailEnv) (k : Key) (n : Nat) (ks : List (Val × List Val)) : KeyPart :=
  let top := match ks with | [] => vZero | x :: t => t.foldl (fun m y => fmax m y.1) x.1
  let ws := ks.mapIdx fun i x => fexp (i :: 0 :: k) (fsub x.1 top)
  let rows := ks.map Prod.snd
  let out := (List.range n).map fun j => dot (j :: 2 :: k) (ws.map expand) (column rows j)
  { top := top, sum := sumAny (1 :: k) ws, out := out
    checks := [checkPlain e (3 :: k) ((List.range n).map (column rows)) (ws.map expand) out] }

/-- Joins two parts in FP32: sums and values are rescaled to the larger maximum. -/
def KeyPart.join (k : Key) (a b : KeyPart) : KeyPart :=
  let m := fmax a.top b.top
  let fa := fexp (0 :: k) (fsub a.top m)
  let fb := fexp (1 :: k) (fsub b.top m)
  { top := m, sum := fadd (fmul a.sum fa) (fmul b.sum fb)
    out := (a.out.zip b.out).map fun x => fadd (fmul x.1 fa) (fmul x.2 fb), checks := a.checks ++ b.checks }

/-- The tiles of a share's keys: which keys begin one is open, the first always does. -/
def keyTiles (k : Key) (ks : List (Val × List Val)) : List (List (Val × List Val)) :=
  (ks.zipIdx).foldl (fun ts (x, i) =>
    match ts.reverse with
    | [] => [[x]]
    | t :: rest => if pick (i :: 3 :: k) 2 = 0 then rest.reverse ++ [t ++ [x]] else ts ++ [[x]]) []

/-- A head's output where each of `n` slices takes an equal share of the padded key range: running parts within a share, then the shares in an
open order (R157, R245). A key that the row does not admit carries none. -/
def headShares (e : TailEnv) (k : Key) (a : Attn) (n : Nat) (ls : Val) (vs : List (List Val)) (ks : List (Option (Val × List Val))) :
    List Val × List RowCheck :=
  let width := if a.absorbed then a.dl else a.dv
  let vals := ks.mapIdx fun i o => o.map fun x => (x.1, if a.absorbed then x.2 else expandLatent (i :: 4 :: k) ls vs x.2)
  let m := vals.length
  let shares := (List.range n).map fun b => ((vals.drop (b * m / n)).take ((b + 1) * m / n - b * m / n)).filterMap id
  let parts := (shares.mapIdx fun b l =>
    if l.isEmpty then [] else
    let ts := (keyTiles (b :: k) l).mapIdx fun i t => keyPart e (i :: b :: 5 :: k) width t
    [foldAny KeyPart.join (b :: 6 :: k) ts.length ts]).flatten
  let t := foldAny KeyPart.join (7 :: k) parts.length parts
  let o := t.out.map fun x => fdiv x t.sum
  if a.absorbed then
    let u := o.map fun y => expand (fmul y ls)
    let ys := vs.mapIdx fun x v => dot (x :: 8 :: k) u v
    (ys, t.checks ++ [checkPlain e (9 :: k) vs u ys])
  else (o, t.checks)

/-- Position of SMAX in a program. -/
def smaxAt (st : List Byte) : Option Nat := (tailMain st).findIdx? fun w => num w.1 0 1 == 7

/-- What one row of an attention stage works with. -/
structure AttnRow where
  m : Nat
  allowed : List Bool
  query : List Val
  deriving Repr, Inhabited

/-- A real row of an attention stage (R243 phases 2 to 4, R248), and the comparisons of its products: the scores of each head, its
weighted sums and its value projection (R170; DESIGN CHOICE, log 36: the rows that expand a latent are compared with these).
Without SMAX in its program the weights have no stated value. -/
def attnRow (e : TailEnv) (a : Attn) (ls : Val) (uk uv : List (List Val)) (ks : Keys) (x : AttnRow) : RowOut × List RowCheck :=
  let st := e.st
  let n := a.heads * a.dv
  match smaxAt st with
  | none => (openRow e x.m n, [])
  | some at_ =>
    let ops := tailMain st
    let e1 := { e with allowed := some x.allowed }
    let heads := (List.range a.heads).map fun h =>
      let k := h :: x.m :: 51 :: e.key
      let us := (uk.drop (h * a.dk)).take a.dk
      let q := (x.query.drop (h * (a.qWidth + a.dpe))).take (a.qWidth + a.dpe)
      let scores := x.allowed.mapIdx fun i ok =>
        if ok then keyScore e (i :: 0 :: k) a ls us q (ks.lat.getD i []) (ks.pos.getD i []) else vZero
      let v := (uv.drop (h * a.dv)).take a.dv
      let keyed := (x.allowed.zipIdx.filter Prod.fst).map fun y => (y.2 :: 0 :: k, ks.lat.getD y.2 [], ks.pos.getD y.2 [])
      let sc := scoreCheck e k a ls us q keyed
      let e2 := { e1 with key := h :: e.key }
      if e.split.1 = 2 then
        let mask := e2.mask x.m scores.length (((ops[at_]?).map Prod.fst).getD [])
        if !mask.any id then none
        else (tailOps e2 x.m (ops.take at_) scores).map fun xs =>
          (fun o => (o.1, sc :: o.2)) <| headShares e (1 :: k) a (max 1 e.split.2) ls v
            ((xs.zip mask).mapIdx fun i y => if y.2 then some (y.1, ks.lat.getD i []) else none)
      else
        (tailOps e2 x.m (ops.take (at_ + 1)) scores).map fun ps =>
          (fun o => (o.1, sc :: o.2)) <| headOut e (1 :: k) a ls v
            (((ps.zipIdx).filter fun y => x.allowed.getD y.2 false).map fun y => (y.1, ks.lat.getD y.2 []))
    if heads.any Option.isNone then (zeroRow st x.m n true, [])
    else
      let hs := heads.filterMap id
      (tailRow e x.m x.m (ops.drop (at_ + 1)) (hs.map Prod.fst).flatten, (hs.map Prod.snd).flatten)

/-- An attention stage over its step (R243, R247): `rec_` is the step record, `rd` reads behind its first byte. The second list holds the
padded-row numbers of the rows without an admitted key (R248). Rows that are not real are not computed, and not compared. -/
def attnStage (s : State) (e : TailEnv) (d : List Byte) (x : StepInfo) (rec_ : List Byte) (rd : Nat → Nat → List Byte) :
    StageOut × List Nat :=
  let st := e.st
  let a := attnOf d
  let Q := num rec_ 4 2
  let verify := num rec_ 1 1 == 1
  let P := tgetD s.models.pools x.pool
  let ls := ofBin fp32 P.scale
  let uk := if a.absorbed then [] else upRows e a (refOf d 40) 0 (a.heads * a.dk)
  let uv := upRows e a (refOf d 48) 1 (a.heads * a.dv)
  let qs := x.seqs.mapIdx fun i k => (tgetD s.models.seqs k, attnEntry rec_ i)
  let kmax := (qs.map fun y => y.1.len + num y.2 4 2).foldl max 0
  let rows := (qs.mapIdx fun i (q, en) =>
    let n := q.len
    let real := num en 4 2
    let nk := n + real
    let ks := keysOf s q a nk
    let parents := entryParents en
    let stride := rowBytes nk 1
    (List.range Q).map fun j =>
      let m := i * Q + j
      if real ≤ j then (zeroRow st m (a.heads * a.dv) false, [])
      else
        let bm := if 2 ≤ num en 6 1 then rd (num en 8 4 + j * stride) stride else []
        let bit := fun k => (num bm (k / 8) 1).testBit (k % 8)
        let adm := (List.range kmax).map fun k => decide (k < nk) && admits verify (num en 6 1) n parents bit j k
        let qr := operandRow e.look (sref st 0) (sref st 1) m (num st 16 4) (num st 1 1) (num st 4 1) (num st 112 4)
        attnRow e a ls uk uv ks { m := m, allowed := adm, query := qr }).flatten
  let outs := rows.map Prod.fst
  ({ rows := outs, checks := (rows.map fun x => x.2.map fun c => (x.1.row, c)).flatten }, (outs.filter RowOut.empty).map RowOut.row)

end Sys2Proof.Machine
end

