-- ==== Sys2Proof/Machine/CellOps.lean ====
section
/-! DEFINITION. What a recurrent-cell stage computes (10, R259–R273): gates, state write-back, residues, the sentinel. -/

namespace Sys2Proof.Machine

/-! ### State vectors (R259, R260, R271, R272) -/

/-- Bytes of one state vector of width `w` with its residues (R260). -/
def vecBytes (q : StrmSet) (w : Nat) : Nat := rowBytes w (codeBits q.fmt) + if q.residue then roundUp w 16 else 0

/-- Offset of state vector (layer, j) in a stream's state (R260). -/
def vecOff (q : StrmSet) (layer j : Nat) : Nat :=
  ((q.layers.take layer).map fun l => l.2 * vecBytes q l.1).foldl (· + ·) 0 + j * vecBytes q ((q.layers.getD layer (0, 0)).1)

/-- A state vector as stored: codes and residue bytes. -/
structure StVec where
  codes : List Nat := []
  res : List Nat := []
  deriving Repr, Inhabited

/-- Reads a state vector of width `w`. -/
def readVec (q : StrmSet) (w off : Nat) (bs : List Byte) : StVec :=
  { codes := unpackRow q.fmt w (slice bs off (rowBytes w (codeBits q.fmt)))
    res := if q.residue then (List.range w).map fun i => num bs (off + rowBytes w (codeBits q.fmt) + i) 1 else [] }

/-- The bytes of a state vector. -/
def vecOf (q : StrmSet) (w : Nat) (v : StVec) : List Byte :=
  fit (rowBytes w (codeBits q.fmt)) (packRow q.fmt v.codes) ++ if q.residue then fit (roundUp w 16) ((v.res.map (toLE 1)).flatten) else []

/-- Exponent of the spacing of a floating-point format at a code (R271). -/
def ulpExp (f c : Nat) : Int :=
  match f with
  | 0x02 => -133 + (max 1 (c / 128 % 256) - 1 : Nat)
  | 0x20 => -9 + (max 1 (c / 8 % 16) - 1 : Nat)
  | 0x21 => -16 + (max 1 (c / 4 % 32) - 1 : Nat)
  | _ => -149 + (max 1 (c / 2 ^ 23 % 256) - 1 : Nat)

/-- The state value of element `i`: q + ρ × ulp(q) / 256 in FP32 (R271). -/
def stVal (q : StrmSet) (v : StVec) (i : Nat) : Val :=
  let c := v.codes.getD i 0
  let x := decodeVal q.fmt c
  let rho := signed 8 (v.res.getD i 0)
  if q.residue && x.finite then f32 (x.add (.fin (rho < 0) rho.natAbs (ulpExp q.fmt c - 8))) else x

/-- The recurrent operand of element `i`: the stored code in the expanded format (R265). -/
def stOperand (q : StrmSet) (v : StVec) (i : Nat) : Val := operand q.fmt none (v.codes.getD i 0)

/-- ± m × 2^e rounded to an integer. -/
def roundInt (r : Rnd) (neg : Bool) (m : Nat) (e : Int) : Int :=
  let n := if 0 ≤ e then m * 2 ^ e.toNat else m / 2 ^ (-e).toNat + b2n (roundsUp r (m / 2 ^ (-e).toNat) (m % 2 ^ (-e).toNat) (-e).toNat)
  if neg then -(n : Int) else n

/-- Code of a value in the state format (R265): R144, or a draw of R156. -/
def stCode (f : Nat) (k : Key) (draw : Draw) (x : Val) : Nat :=
  match f with
  | 0x01 => f32Word k x
  | 0x02 => toBin bf16 (match draw with | some u => .stoch u | none => .away) (Config.pick k) x
  | f => (encodeVal f draw x vOne).code

/-- Residue byte of a value beside its code (R271). -/
def stResidue (f : Nat) (draw : Draw) (x : Val) (c : Nat) : Nat :=
  match x.add (decodeVal f c).neg with
  | .fin n m e =>
    let r := roundInt (match draw with | some u => .stoch u | none => .away) n m (e + 8 - ulpExp f c)
    (max (-128) (min 127 r) % 256).toNat
  | _ => 0

/-- The draw for element `i` of one of `vecs` vectors in time step `n` of the stream's life (R272): the lane starts from the step's seed and
takes one step per element; which of the elements before this one, and of the other vector, the same panel has converted depends on the
tiling. -/
def stDraw (k : Key) (vecs seed n i : Nat) : Nat :=
  (List.range (1 + pick k (vecs * (i / 64 + 1)))).foldl (fun v _ => xorshift v)
    (laneInit (seed ^^^ ((n + 1) * 0x85EBCA6B % 2 ^ 32)) (i % 64)) / 65536

/-- Writes a vector of FP32 values back (R265, R271, R272). -/
def writeBack (q : StrmSet) (vecs : Nat) (k : Key) (seed n : Nat) (xs : List Val) : StVec :=
  let es := xs.mapIdx fun i x =>
    let draw : Draw := if q.stochastic then some (stDraw (0 :: i :: k) vecs seed n i) else none
    let c := stCode q.fmt (1 :: i :: k) (if q.residue then none else draw) x
    (c, stResidue q.fmt draw x c)
  { codes := es.map Prod.fst, res := if q.residue then es.map Prod.snd else [] }

/-! ### Gates (R262, R263) -/

/-- A cell stage with its weights as operands. -/
structure Cell where
  ty : Nat
  gates : Nat
  layer : Nat
  kin : Nat
  h : Nat
  seqOut : Bool
  acts : List Nat
  selP : Nat
  selQ : Nat
  selV : Nat
  out : Nat
  w : List (List Val)
  u : List (List Val)
  bias : List Val

/-- Reads a cell descriptor and its weights (R264). -/
def cellOf (e : TailEnv) (d : List Byte) : Cell :=
  let G := num d 3 1
  let H := num d 12 2
  let kin := num d 8 4
  let b := num d 7 1
  let nb := H * (if num d 2 1 = 1 then 4 else G)
  let bs := e.look (refOf d 48) 0 (4 * nb)
  { ty := num d 2 1, gates := G, layer := num d 4 1, kin := kin, h := H, seqOut := (num d 1 1).testBit 1
    acts := [num d 64 1, num d 65 1, num d 66 1, num d 67 1], selP := num d 68 1, selQ := num d 69 1, selV := num d 70 1, out := num d 71 1
    w := (List.range (G * H)).map fun i => weightRow e.look (refOf d 16) (refOf d 32) i kin (num d 5 1) b
    u := (List.range (G * H)).map fun i => weightRow e.look (refOf d 24) (refOf d 40) i H (num d 6 1) b
    bias := (List.range nb).map fun i => ofBin fp32 (num bs (4 * i) 4) }

/-- An activation of a user-defined cell (R263): a slope or limits, for which a cell has no arguments, are open. -/
def cellAct (e : TailEnv) (k : Key) (f : Nat) (x : Val) : Val :=
  match f with
  | 0xFF => tableFn k (e.word 1) (e.const 0) (e.const 1) x
  | 2 => freeVal k
  | 3 => freeVal k
  | _ => actFn k f vZero vZero x

/-- Value of a selector (R263). -/
def selVal (gs : List Val) (x : Nat) : Val :=
  if x ≤ 3 then gs.getD x vZero else if x = 0x20 then vOne else if x = 0x21 then vZero else fsub vOne (gs.getD (x - 0x10) vZero)

/-- New h and c of hidden unit `i` (R262): `wx`, `uh` are the products by gate, `h`, `c` the state values. -/
def cellUnit (e : TailEnv) (k : Key) (q : Cell) (i : Nat) (wx uh : List Val) (h c : Val) : Val × Val :=
  let b := fun j => q.bias.getD (j * q.h + i) vZero
  let z := fun j => sumAny (j :: 60 :: k) [wx.getD j vZero, uh.getD j vZero, b j]
  let sig := fun j => actFn (j :: 61 :: k) 4 vZero vZero (z j)
  match q.ty with
  | 1 =>
    let u := sig 0
    let n := actFn (62 :: k) 5 vZero vZero
      (sumAny (63 :: k) [wx.getD 2 vZero, b 2, fmul (sig 1) (fadd (uh.getD 2 vZero) (b 3))])
    (fadd (fmul (fsub vOne u) n) (fmul u h), vZero)
  | 2 =>
    let g := actFn (62 :: k) 5 vZero vZero (z 3)
    let c1 := fadd (fmul (sig 1) c) (fmul (sig 0) g)
    (fmul (sig 2) (actFn (64 :: k) 5 vZero vZero c1), c1)
  | _ =>
    let gs := (List.range q.gates).map fun j => cellAct e (j :: 65 :: k) (q.acts.getD j 0) (z j)
    (cellAct e (66 :: k) q.out (fadd (fmul (selVal gs q.selP) h) (fmul (selVal gs q.selQ) (selVal gs q.selV))), vZero)

/-! ### A stream over the time steps (R265–R273) -/

/-- A stream inside a cell stage: its vectors, the FP32 h of each time step done, norm and excursions so far. -/
structure CellRun where
  hv : StVec := {}
  cv : StVec := {}
  outs : List (List Val) := []
  norm : Nat := 0
  excs : List Nat := []
  /-- comparisons of the products (R170, R264) -/
  checks : List RowCheck := []
  deriving Repr, Inhabited

/-- Root mean square of a vector in FP32. -/
def rmsOf (k : Key) (xs : List Val) : Val := fsqrt (fdiv (sumAny k (xs.map fun x => fmul x x)) (vNat xs.length))

/-- Whether a norm lies outside the sentinel's band (R273). -/
def outside (x : Stream) (v : Val) : Bool := v.isNan || v.lt (ofBin fp32 x.lo) || (ofBin fp32 x.hi).lt v

/-- The larger of two FP32 norms; a NaN counts as the larger. -/
def normMax (a b : Nat) : Nat :=
  if (ofBin fp32 a).isNan then a else if (ofBin fp32 b).isNan then b else if wordOrder a < wordOrder b then b else a

/-- The sums of W and U for the checksum column, computed at load (R264). -/
def cellSums (e : TailEnv) (q : Cell) : List (Val × Val) × List (Val × Val) :=
  let sB := second (num e.st 32 4)
  (loadSums (0 :: e.key) sB q.w q.kin, loadSums (1 :: e.key) sB q.u q.h)

/-- One time step of a stream: products, gates, write-back, sentinel (R262, R265, R271–R273). `x` is the input row, `sums` those of W and
U. -/
def cellTime (e : TailEnv) (q : Cell) (set : StrmSet) (strm : Stream) (sums : List (Val × Val) × List (Val × Val)) (k : Key) (t : Nat)
    (x : List Val) (c : CellRun) : CellRun :=
  let hop := (List.range q.h).map (stOperand set c.hv)
  let wxAll := q.w.mapIdx fun j w => fmul (dot (j :: 0 :: k) x w) (seconds e.st)
  let uhAll := q.u.mapIdx fun j u => fmul (dot (j :: 1 :: k) hop u) (second (num e.st 32 4))
  let at_ := fun (l : List Val) i => (List.range q.gates).map fun j => l.getD (j * q.h + i) vZero
  let new := (List.range q.h).map fun i =>
    cellUnit e (i :: 2 :: k) q i (at_ wxAll i) (at_ uhAll i) (stVal set c.hv i) (stVal set c.cv i)
  let hs := new.map Prod.fst
  let n := strm.steps + t
  let norm := rmsOf (3 :: k) hs
  let vecs := if q.ty = 2 then 2 else 1
  { hv := writeBack set vecs (4 :: k) strm.seed n hs
    cv := if q.ty = 2 then writeBack set vecs (5 :: k) strm.seed n (new.map Prod.snd) else c.cv
    outs := c.outs ++ [hs], norm := normMax c.norm (f32Word (6 :: k) norm)
    excs := if strm.enable && outside strm norm then c.excs ++ [t] else c.excs
    checks := c.checks ++ [checkProd (tolerance e.st) (7 :: k) (second (num e.st 28 4)) sums.1 x wxAll,
      checkProd (tolerance e.st) (8 :: k) vOne sums.2 hop uhAll] }

/-- One stream of a cell stage: its new working state and what the sentinel measured, and its output rows (R264–R267, R273), with
the comparisons of each time step. -/
def cellStream (s : State) (e : TailEnv) (q : Cell) (sums : List (Val × Val) × List (Val × Val)) (st : StepInfo) (T i k : Nat)
    (en : List Byte) : CellOut × StageOut :=
  let strm := tgetD s.models.streams k
  let set := tgetD s.models.sets strm.set
  let bs := (tget st.work k).getD []
  let vecs := (set.layers.getD q.layer (0, 0)).2
  let hOff := vecOff set q.layer 0
  let cOff := vecOff set q.layer 1
  let real := num en 4 2
  let two := q.ty == 2 && vecs == 2
  let run := (List.range real).foldl (fun c t =>
    let m := i * T + t
    let x := operandRow e.look (sref e.st 0) (sref e.st 1) m q.kin (num e.st 1 1) (num e.st 4 1) (num e.st 112 4)
    cellTime e q set strm sums (t :: i :: 70 :: e.key) t x c)
    ({ hv := readVec set q.h hOff bs, cv := if two then readVec set q.h cOff bs else {} } : CellRun)
  let b1 := patch bs hOff (vecOf set q.h run.hv)
  let b2 := if two then patch b1 cOff (vecOf set q.h run.cv) else b1
  let ops := (tailMain e.st).drop 1
  ({ stream := k, state := b2, norm := run.norm, excursions := run.excs },
   { rows := (List.range T).filterMap fun t =>
       let m := i * T + t
       if real ≤ t then some (zeroRow e.st m q.h false)
       else if q.seqOut || t + 1 == real then some (tailRow e m m ops (run.outs.getD t []))
       else none
     checks := run.checks.mapIdx fun j c => (i * T + j / 2, c) })

/-- A recurrent-cell stage over its step (R262–R267): `rec_` is the recurrent step record. -/
def cellStage (s : State) (e : TailEnv) (d : List Byte) (st : StepInfo) (rec_ : List Byte) : List CellOut × StageOut :=
  let q := cellOf e d
  let l := st.streams.mapIdx fun i k => cellStream s e q (cellSums e q) st (num rec_ 4 2) i k (cellEntry rec_ i)
  (l.map Prod.fst, { rows := (l.map fun x => x.2.rows).flatten, checks := (l.map fun x => x.2.checks).flatten })

end Sys2Proof.Machine
end

