-- ==== Sys2Proof/Machine/LegCompute.lean ====
section
/-! DEFINITION. What a whole leg computes: its stages in order, each on what the stages before it wrote (R180, R219, R243, R267), and
the comparisons of its checksum column (R170, R387). -/

namespace Sys2Proof.Machine

/-- What a leg's computation gives besides the bytes it writes. -/
structure LegOut where
  clipped : Bool := false
  /-- converted elements by statistics tag -/
  elems : List (Nat × ElemStat) := []
  /-- padded-row numbers of the attention rows without an admitted key -/
  empties : List Nat := []
  /-- rows that disagree and rows that R388 did not compare: slice -/
  bad : List Nat := []
  unchecked : List Nat := []
  cells : List CellOut := []
  deriving Repr, Inhabited

/-- Slices that take part in row `m` of a stage: the one that holds it where rows are divided, otherwise every slice (log 36). -/
def rowSlices (leg st : List Byte) (d : List Byte) (m : Nat) : List Nat :=
  let n := num leg 2 2
  let of := fun (y rows : Nat) => [((y + 1) * n - 1) / max 1 rows]
  match num leg 24 1 with
  | 1 => of m (num st 8 4)
  | 3 => let h := max 1 (winOf d).hOut; of (m % h) h
  | _ => List.range n

/-- Adds a stage's rows and comparisons to a leg's results. -/
def addStage (leg st d : List Byte) (x : StageOut) (o : LegOut) : LegOut :=
  let tag := num st 7 1
  let sl := fun c => ((x.checks.filter fun y => y.2 == c).map fun y => rowSlices leg st d y.1).flatten
  { o with
    clipped := o.clipped || x.rows.any RowOut.clipped
    elems := o.elems ++ if tag = 0 then [] else (x.rows.map fun r => r.stats.map fun q => (tag, q)).flatten
    bad := o.bad ++ sl .disagrees
    unchecked := o.unchecked ++ sl .unchecked }

/-- The new working state of a stream after a cell stage (R267, R269, R273); norms and excursions add up over layers and legs. -/
def cellResult (k : Nat) (c : CellOut) (s : State) : State :=
  match (runOf s k).bind Run.step with
  | none => s
  | some st =>
    let x := tgetD s.models.streams c.stream
    let len := ((tget st.work c.stream).map List.length).getD 0
    if st.streams.contains c.stream then
      let old := (tget st.excs c.stream).getD []
      let st1 := { st with
        work := tput st.work c.stream (fit len c.state)
        norms := tput st.norms c.stream (normMax ((tget st.norms c.stream).getD 0) c.norm)
        excs := tput st.excs c.stream (if x.enable then distinct (old ++ c.excursions) else old) }
      let s1 := modRun k (fun r => { r with step := some st1 }) s
      if x.enable && !c.excursions.isEmpty then noteRun k nDrift s1 else s1
    else s

/-- Results of cell stages. -/
def cellResults (k : Nat) (cs : List CellOut) (s : State) : State := cs.foldl (fun t c => cellResult k c t) s

/-- The picture that a windowed stage reads: the tile of the stage before it, or its input object. -/
def stageInput (e : TailEnv) (w : Win) (tile : Option Picture) : Picture := tile.getD (readImage e w)

/-- Whether a stage converts with stochastic rounding. -/
def stageStoch (st : List Byte) : Bool := (num st 6 1).testBit 5 && tailConverts st

/-- Rows and columns that a stage converts, pixels counting as rows. -/
def convShape (p : Plan) (st : List Byte) : Nat × Nat :=
  if isWin st then let w := winOf (winDescOf p st); (w.batch * w.hOut * w.wOut, w.cOut)
  else if num st 0 1 = 5 then let d := descOf p st; (num d 8 2 * num d 2 2, num d 4 4)
  else outShape st

/-- The stages of a leg up to stage `j` that round stochastically: the place of their choices in attempt `n`, rows and columns. -/
def stochStages (p : Plan) (leg : List Byte) (n j : Nat) : List (Key × Nat × Nat) :=
  (((stagesOf leg).take (j + 1)).zipIdx.filter fun x => stageStoch x.1).map fun x => ([x.2, n], convShape p x.1)

/-- Where one of those stages converts some of its rows not at all, or tiles of a group more than once (R219, R247, R267), the most elements
that one lane may convert; otherwise 0. A pixel of a group is computed at most once for each slice and each column of tiles. -/
def stochMax (p : Plan) (leg : List Byte) (j : Nat) : Nat :=
  let sts := ((stagesOf leg).take (j + 1)).zipIdx.filter fun x => stageStoch x.1
  let tiled := fun (i : Nat) => fusedAt p leg i || fusedAt p leg (i + 1)
  if sts.any fun x => num x.1 0 1 == 3 || num x.1 0 1 == 4 || (num x.1 0 1 == 2 && num x.1 23 1 == 6) || tiled x.2 then
    (sts.map fun x =>
      let (m, n) := convShape p x.1
      m * ((n + 63) / 64) * (if tiled x.2 then num leg 2 2 * max 1 (winOf (winDescOf p x.1)).wOut else 1)).sum
  else 0

/-! ### Tiles of fused groups (R219–R221) -/

/-- The range of one axis of a stage's output that outputs `r` of the stage after it take: input extent `x` as stored, regrouping factors,
stride, kernel, dilation, padding (R213, R217). -/
def backAxis (x inF outF s k d p : Nat) (r : Nat × Nat) : Nat × Nat :=
  if r.2 ≤ r.1 then (0, 0)
  else (min ((r.1 * s - p) * inF) x / outF, (min (((r.2 - 1) * s + effK k d - p) * inF) x + outF - 1) / outF)

/-- Rows of the output of stage `a` that rows `r` of the stage after it, `b`, take. -/
def backRows (a b : Win) (r : Nat × Nat) : Nat × Nat := backAxis b.hIn b.inF a.outF b.sh b.kh b.dh b.pt r
/-- Columns likewise. -/
def backCols (a b : Win) (r : Nat × Nat) : Nat × Nat := backAxis b.wIn b.inF a.outF b.sw b.kw b.dw b.pl r

/-- The range of the first stage of a chain that range `r` of its last stage takes, stage by stage. -/
def backChain (axis : Win → Win → Nat × Nat → Nat × Nat) : List Win → Nat × Nat → Nat × Nat
  | a :: b :: t, r => axis a b (backChain axis (b :: t) r)
  | _, r => r

/-- Windows of stage `j` and of the stages fused after it. -/
def chainFrom (p : Plan) (leg : List Byte) (j : Nat) : List Win :=
  let win := fun i => winOf (winDescOf p ((stagesOf leg).getD i []))
  win j :: (((List.range (num leg 0 1)).drop (j + 1)).takeWhile fun i => fusedAt p leg i).map win

/-- Window of the first stage of the group of stage `j`, which names the tile sizes. -/
def groupFirst (p : Plan) (leg : List Byte) (j : Nat) : Win :=
  winOf (winDescOf p ((stagesOf leg).getD (((List.range (j + 1)).reverse.find? fun i => !fusedAt p leg i).getD j) []))

/-- The pieces of `t` positions of the range from `lo` to `hi`. -/
def cutTiles (t lo hi : Nat) : List (Nat × Nat) :=
  (List.range ((hi - lo + (max 1 t - 1)) / max 1 t)).map fun i => (lo + i * max 1 t, min hi (lo + (i + 1) * max 1 t))

/-- The rows of image `img` of a group's output that each slice computes where rows are divided (R176, R222, log 36). -/
def sliceRows (leg : List Byte) (w : Win) (img : Nat) : List (Nat × Nat) :=
  let n := num leg 2 2
  let m := w.batch * w.hOut
  match num leg 24 1 with
  | 1 => (List.range n).map fun b => (min w.hOut (b * m / n - img * w.hOut), min w.hOut ((b + 1) * m / n - img * w.hOut))
  | 3 => (List.range n).map fun b => (stripeLo w.hOut n b, stripeLo w.hOut n (b + 1))
  | _ => [(0, w.hOut)]

/-- How often pixel (img, y, x) of the output of stage `j` is computed (R219): once for each slice that needs its row, since rows are kept from
tile to tile, times the horizontal tiles that need its column. -/
def timesComputed (p : Plan) (leg : List Byte) (j img y x : Nat) : Nat :=
  let ws := chainFrom p leg j
  let f := groupFirst p leg j
  let l := ws.getLast?.getD f
  let holds := fun (v : Nat) (r : Nat × Nat) => decide (r.1 ≤ v) && decide (v < r.2)
  let rows := (sliceRows leg l img).filter fun b => (cutTiles f.tRows b.1 b.2).any fun t => holds y (backChain backRows ws t)
  let cols := (cutTiles (if f.tCols = 0 then l.wOut else f.tCols) 0 l.wOut).filter fun t => holds x (backChain backCols ws t)
  rows.length * cols.length

/-- What a stage that feeds a fused one gives to notes and statistics: each pixel as often as it is computed (R160, R219). -/
def tiledOut (p : Plan) (leg : List Byte) (j : Nat) (w : Win) (x : StageOut) : StageOut :=
  { x with rows := x.rows.mapIdx fun i o =>
      let m := i / max 1 w.wOut
      let n := timesComputed p leg j (m / max 1 w.hOut) (m % max 1 w.hOut) (i % max 1 w.wOut)
      { o with stats := (List.replicate n o.stats).flatten, clipped := o.clipped && n != 0 } }

/-- Computation of a leg under way: the state as its stages have written it, the tile for a fused stage, the results so far. -/
structure LegRun where
  s : State
  tile : Option Picture := none
  out : LegOut := {}

/-- What stage `j` of a leg on gang `g` computes with, in the attempt whose open choices depend on `n`. -/
def stageEnv (g : Nat) (r : Run) (p : Plan) (leg : List Byte) (n j : Nat) (s : State) : TailEnv :=
  { look := lookOf s r p, st := (stagesOf leg).getD j [], key := [j, n], seed := if r.seed = 0 then num leg 40 4 else r.seed
    panels := gangSize s g, draws := stochStages p leg n j, drawsMax := stochMax p leg j, split := (num leg 24 1, num leg 2 2) }

/-- The pixels of the output of a group of windowed stages, the stages `js` of the leg, on what memory holds (R219). -/
def groupPixels (g : Nat) (r : Run) (p : Plan) (leg : List Byte) (n : Nat) (js : List Nat) (s : State) : List RowOut :=
  (js.foldl (fun (acc : Option Picture × List RowOut) j =>
    let e := stageEnv g r p leg n j s
    let d := winDescOf p e.st
    let x := windowStage e d (stageInput e (winOf d) (if fusedAt p leg j then acc.1 else none))
    (some (tileImage e.st (winOf d) x.rows), x.rows)) (none, [])).2

/-- Stage `j` of the leg of run `k`. -/
def computeStage (g k : Nat) (r : Run) (p : Plan) (leg : List Byte) (n j : Nat) (c : LegRun) : LegRun :=
  let st := (stagesOf leg).getD j []
  let d := if isWin st then winDescOf p st else descOf p st
  let s0 := if num st 0 1 = 3 then
      match (runOf c.s k).bind Run.step with | some x => attnRows r p x st c.s | none => c.s
    else c.s
  let e := stageEnv g r p leg n j s0
  let step := ((runOf s0 k).bind Run.step).getD {}
  if isWin st then
    let w := winOf d
    let x := windowStage e d (stageInput e w (if fusedAt p leg j then c.tile else none))
    let o := addStage leg st d (if fusedAt p leg (j + 1) then tiledOut p leg j w x else x) c.out
    if fusedAt p leg (j + 1) then { s := s0, tile := some (tileImage st w x.rows), out := o }
    else { s := emitImage r p st w x.rows s0, out := o }
  else
    match num st 0 1 with
    | 2 => let x := vectorStage e; { s := emitRows r p st x.rows s0, out := addStage leg st d x c.out }
    | 3 =>
      let base := step.attn.getD 0
      let (x, em) := attnStage s0 e d step (vread s0 r.ctx base (64 + 32 * step.seqs.length)) fun off len => vread s0 r.ctx (base + off) len
      let o := addStage leg st d x c.out
      { s := emitRows r p st x.rows s0, out := { o with empties := o.empties ++ em } }
    | 4 =>
      let (cs, x) := cellStage s0 e d step (vread s0 r.ctx (step.cell.getD 0) (32 + 16 * step.streams.length))
      { s := emitRows r p st x.rows (cellResults k cs s0), out := addStage leg st d x c.out }
    | 5 =>
      let (x, carry) := scanStage e d
      let s1 := emitRows r p st x.rows s0
      { s := carry.foldl (fun t (off, bs) => writeRef r p (refOf d 24) off bs t) s1, out := addStage leg st d x c.out }
    | _ => let x := productStage e; { s := emitRows r p st x.rows s0, out := addStage leg st d x c.out }

/-- The computation of a leg without a fault, as the accepted attempt of run `k` on gang `g` delivers it; `n` is the number of the
attempt, which its open choices depend on (R158). Its inputs are read where the leg ends (log 36). -/
def computeLeg (g k : Nat) (r : Run) (p : Plan) (leg : List Byte) (n : Nat) (s : State) : LegRun :=
  (List.range (num leg 0 1)).foldl (fun c j => computeStage g k r p leg n j c) { s := s }

/-! ### Stripe counters (R223) -/

/-- Writes (rows, g) into the counter halves of stripe `b` of `n`: the below half of the boundary above it, the above half of the
boundary below it (R223). -/
def stripeHalves (h base n b rows g : Nat) (s : State) : State :=
  let half := toLE 2 rows ++ [BitVec.ofNat 8 g, 0]
  let s1 := if b = 0 then s else vwrite h (base + 8 * (b - 1) + 4) half s
  if b + 1 < n then vwrite h (base + 8 * b) half s1 else s1

/-- The counters of a stripe leg when it ends: each stripe has written every row of the last group (R222, R223). -/
def stripeEnds (r : Run) (p : Plan) (leg : List Byte) (s : State) : State :=
  if num leg 24 1 ≠ 3 then s
  else
    let sts := stagesOf leg
    let n := num leg 2 2
    let groups := (sts.filter fun st => !(winOf (winDescOf p st)).fuse).length
    let w := winOf (winDescOf p (sts.getLast?.getD []))
    sts.foldl (fun t st =>
      let d := winDescOf p st
      if (winOf d).exch then
        match refAddr r p (refOf d 52) with
        | some a => (List.range n).foldl (fun u b =>
            stripeHalves r.ctx a.1 n b (w.batch * (stripeLo w.hOut n (b + 1) - stripeLo w.hOut n b)) groups u) t
        | none => t
      else t) s

/-! ### Comparisons (R170, R387, R388) -/

/-- Panel (or array of Kite) that holds slice `i` in attempt `att` (R176, R394). -/
def slicePanel (s : State) (g att i : Nat) : Nat :=
  if g = 0 then (i + att) % 2
  else
    let ps := ((gangOf s g).map Gang.panels).getD []
    ps.getD ((i + att) % max 1 ps.length) 0

/-- The disagreements that the leg's own numbers give, however sound the panels: sums that a plan states wrongly (R170). -/
def checkErrs (s : State) (g att : Nat) (o : LegOut) : List LegErr :=
  (distinct o.bad).map fun i => { slice := i, panel := slicePanel s g att i, kind := .checksum }

/-- Rows not compared, by panel (R388). -/
def checkSkips (s : State) (g att : Nat) (o : LegOut) : List (Nat × Nat) := o.unchecked.map fun i => (slicePanel s g att i, 1)

end Sys2Proof.Machine
end

