-- ==== Sys2Proof/Machine/LegEnds.lean ====
section
/-! DEFINITION. The end of a leg: retries and their classes (R394–R396), the accepted result, the end action (R182), limits
(R196–R198), and the steps inside a leg (R223, R270). -/

namespace Sys2Proof.Machine

/-! ### Errors of an attempt -/

/-- The fault channel of a gang's slice position: a panel, or Kite for its arrays (R392). -/
def errChan (g n : Nat) : Nat × Nat := if g = 0 then (2, 0) else (1, n)

/-- The disagreements that lie on units of the gang. -/
def gangErrs (s : State) (g : Nat) (errs : List LegErr) : List LegErr :=
  errs.filter fun x => if g = 0 then x.panel < 2 else (((gangOf s g).map Gang.panels).getD []).contains x.panel

/-- Panels (or arrays) named by disagreements. -/
def errPanels (errs : List LegErr) : List Nat := distinct (errs.map LegErr.panel)

/-- An error that no plan's data can cause (R395). -/
def hardKind (k : ErrKind) : Bool := k == .residue || k == .shadow

/-- Weight of a disagreement (R409). -/
def errWeight (s : State) (k : ErrKind) : Nat :=
  match k with
  | .tailWatchdog => s.safe.cfg.wWatchdog
  | .scratchWord => s.safe.cfg.wUncorrectable
  | _ => s.safe.cfg.wCompute

/-- Scores each panel of the disagreements that is still in service once, as a transient (R394–R396). -/
def scoreErrs (g : Nat) (r : Run) (action : Nat) (errs : List LegErr) (s : State) : State :=
  (distinct (errs.map fun x => (errChan g x.panel).2)).foldl (fun t ix =>
    let ty := (errChan g 0).1
    match errs.find? fun x => (errChan g x.panel).2 == ix with
    | some x => if chanRetired t ty ix then t else chanEvent 1 ty ix action r.ctx (errWeight t x.kind) r.tag r.counter t
    | none => t) s

/-- Panels on which a residue or shadow-lane error has recurred (R395). -/
def hardRecur (earlier errs : List LegErr) : List Nat :=
  distinct ((errs.filter fun x => hardKind x.kind && earlier.any fun y => hardKind y.kind && y.panel == x.panel).map LegErr.panel)

/-- The classes of R395 for a retry that disagrees. -/
inductive ErrClass where
  | plan
  | permanent (panels : List Nat)
  | single
  | undecided
  deriving DecidableEq, Repr

/-- Class of attempt 1's disagreements `errs` after attempt 0's `prev` on `p` panels (R395). A row of the table applies where every
disagreement of the retry follows its pattern; any mixture is undecided (DEDUCED, log 26). -/
def classify (p : Nat) (prev errs : List LegErr) : ErrClass :=
  let hard := hardRecur prev errs
  if hard ≠ [] then .permanent hard
  else if p = 1 then .single
  else if errs.all fun x => !hardKind x.kind && prev.any fun y => y.slice == x.slice && y.panel != x.panel then .plan
  else if errs.all fun x => prev.any (fun y => y.panel == x.panel && y.slice != x.slice) && !prev.any (fun y => y.slice == x.slice && y.panel != x.panel) then
    .permanent (errPanels errs)
  else .undecided

/-! ### Ends without a result -/

/-- A run ends inside or before a leg with a code: channels that are due retire before the boundary of its gang (R189, R397). -/
def finishLeg (k : Nat) (code : Code) (s : State) : State :=
  match runOf s k with
  | none => s
  | some r => boundary r.gang (notIdle s r.gang) (settle (afterBound (settleTiers (endRun k code false s))))

/-- A failed leg: its run ends with a code, and its outputs hold undefined values (R189). -/
def failLeg (k : Nat) (code : Code) (s : State) : State := finishLeg k code s

/-- Everything that a boundary may settle: channels due for retirement, tiers whose run has ended, a graceful CTX_CLOSE, a DEV_RESET in
progress. -/
def afterLegs (s : State) : State := workEnded (settle (settleTiers s))

/-- The committed leg of gang `g` passes its late limit (R198, R390): it is stopped, its run ends with E_TIMEOUT, and the third such
overrun of the context within 10 s tears the context down (R131); the overrun of a leg that waits at a held request is not counted (R482). -/
def lateLeg (g : Nat) (c : Cur) (s : State) : State :=
  match runOf s c.run with
  | none => s
  | some r =>
    let s1 := logEvent 0x07 0 0 0 r.ctx (deviceScore s) 0 c.leg s
    let waits := legWaits s r
    let s2 := if waits then s1 else modCtx r.ctx (fun x =>
      { x with overruns := (x.overruns.filter fun t => s1.time.now < t + 10000000000) ++ [s1.time.now] }) s1
    let s3 := failLeg c.run .eTimeout (scrubGang g s2)
    let s4 := if r.ctx ≠ 0 ∧ !waits ∧ 3 ≤ (ctxOf s3 r.ctx).overruns.length then ripcord r.ctx 4 s3 else s3
    afterLegs s4

/-- Code of a leg's failure. -/
def failCode (f : LegFail) : Option Code :=
  match f with
  | .none => none | .lowerTier => some .eLowerTier | .transient => some .eTransient | .internal => some .eInternal

/-- Physical addresses of the words of the key-value rows that a leg's attention stages read: the committed tokens of the step's sequences,
in the layers of its stages (R243). -/
def legKvWords (s : State) (r : Run) (p : Plan) (leg : List Byte) : List Nat :=
  match r.step with
  | none => []
  | some st =>
    (((stagesOf leg).filter fun x => num x 0 1 == 3).map fun x =>
      (st.seqs.map fun k =>
        let q := tgetD s.models.seqs k
        ((List.range q.len).map (tokenWords s q (num (descOf p x) 2 1))).flatten).flatten).flatten

/-- Whether the writes of stages before `j` cover the word at word address `w` whole: stage `j` then reads what they wrote. -/
def wordWritten (s : State) (r : Run) (p : Plan) (leg : List Byte) (j w : Nat) : Bool :=
  ((List.range j).map (stageWrites p leg)).flatten.any fun u =>
    match useRange r p u with
    | some (a, n) => (vpieces s r.ctx a n).any fun (l, lo, k) =>
        let b := l.frame * 65536 + lo % 65536
        !l.host && decide (b ≤ w * 16) && decide (w * 16 + 16 ≤ b + k)
    | none => false

/-- The failed words that a leg meets: in the ranges and the key-value rows that it reads, and those that its step's start met (R297). -/
def legBad (s : State) (r : Run) (p : Plan) (leg : List Byte) : List Nat :=
  (if s.store.words.isEmpty then [] else
    ((List.range (num leg 0 1)).map fun j =>
      ((((stageReads p leg j).filter fun u => (partObj s r u.1.1).isNone).filterMap (useRange r p)).map fun (a, n) =>
        vbad s r.ctx a n).flatten.filter fun w => !wordWritten s r p leg j w).flatten)
    ++ (if s.store.words.isEmpty then [] else ((legKvWords s r p leg).filter (wordBad s)).map (· / 16))
    ++ ((r.step.map StepInfo.bad).getD [])

/-- The corrected words that a leg reads. -/
def legCorrected (s : State) (r : Run) (p : Plan) (leg : List Byte) : List Nat :=
  distinct (((memReads s r p leg).map fun (a, n) => vcorrected s r.ctx a n).flatten
    ++ (if s.store.words.isEmpty then [] else ((legKvWords s r p leg).filter fun a => wordAt s a == .corrected).map (· / 16)))

/-- A leg ends by a fault of a lower tier, a transient fault or an internal one (R189, R297, R131): a failed word that it read is
charged; internal faults tear the context down with cause 0x05. -/
def faultLeg (k : Nat) (r : Run) (code : Code) (bad : List Nat) (s : State) : State :=
  let s1 := match bad.find? fun w => wordCode w == code with
    | some w => wordEvent w r.ctx s
    | none => s
  let s2 := failLeg k code s1
  afterLegs (if code = .eInternal then ripcord r.ctx 5 s2 else s2)

/-! ### The accepted result -/

/-- Writes of the accepted attempt: those that lie in a range which the leg writes (R158: their values are open). -/
def legWrites (r : Run) (p : Plan) (leg : List Byte) (ws : List LegWrite) (s : State) : State :=
  let spans := legRanges stageWrites r p leg
  ws.foldl (fun t w =>
    match writeAddr r p w.obj w.off w.data.length with
    | some a => if spans.any fun (b, n) => b ≤ a && a + w.data.length ≤ b + n then vwrite r.ctx a w.data t else t
    | none => t) s

/-- Rows without an admitted key (R248): EMPTY_ROW, and the step's list of such rows, each row once however many of the step's stages found
it empty (R253). -/
def emptyResults (k : Nat) (rows : List Nat) (s : State) : State :=
  match (runOf s k).bind Run.step with
  | none => s
  | some st =>
    if rows.isEmpty then s
    else noteRun k nEmpty (modRun k (fun r => { r with step := some { st with empties := distinct (st.empties ++ rows) } }) s)

/-- Adds a leg's contribution to one record (R160–R162); counts saturate at their largest value. -/
def addStat (a : StatAdd) (q : StatRec) : StatRec :=
  { sum := add64 q.sum a.sum, elements := sat 64 (q.elements + a.elements), clipped := sat 32 (q.clipped + a.clipped)
    saturated := sat 32 (q.saturated + a.saturated), nonfinite := sat 32 (q.nonfinite + a.nonfinite)
    maxErr := if f32Key q.maxErr < f32Key a.maxErr then a.maxErr else q.maxErr }

/-- Statistics tags of the conversions of one leg. -/
def legTags (leg : List Byte) : List Nat := (((stagesOf leg).filter tailConverts).map fun st => num st 7 1).filter (· != 0)

/-- A slot takes the leg's contribution (R162): it is armed for the plan with a tag of the leg, it is not orphaned, and it was armed
before the leg started. -/
def slotTakes (r : Run) (arms : Nat) (tags : List Nat) (q : QSlot) : Bool :=
  q.plan == r.plan && r.plan != 0 && tags.contains q.tag && !q.orphaned && decide (q.arm ≤ arms)

/-- Merges the statistics of an accepted leg on gang `g` into the slots (R162): `adds` gives the contribution to a slot by its tag and its
number of channels. -/
def mergeStats (r : Run) (g : Nat) (leg : List Byte) (adds : Nat → Nat → List StatAdd) (s : State) : State :=
  let arms := (((gangOf s g).bind Gang.cur).map Cur.arms).getD 0
  { s with models.qslots := tmap s.models.qslots fun _ q =>
      if slotTakes r arms (legTags leg) q then
        let mine := (adds q.tag q.channels).filter fun a => a.tag == q.tag && decide (a.chan < q.channels)
        let recs := mine.foldl (fun t a => tmod t a.chan (addStat a)) q.recs
        { q with recs := recs, legsArm := q.legsArm + 1, legsClear := q.legsClear + 1
                 elements := q.elements + (mine.map StatAdd.elements).foldl (· + ·) 0 }
      else q }

/-- Rows that R388 did not compare, counted in the panels' records. -/
def uncheckedRows (g : Nat) (l : List (Nat × Nat)) (s : State) : State :=
  l.foldl (fun t (n, k) =>
    let (ty, ix) := errChan g n
    if chanCount ty ≤ ix then t
    else { t with safe.chans := tmod t.safe.chans (chKey ty ix) fun c => { c with unchecked := sat 16 (c.unchecked + k) } }) s

/-- The new rows of the attention stages of the leg are in their pages (R243). -/
def attnResults (k : Nat) (p : Plan) (leg : List Byte) (s : State) : State :=
  (stagesOf leg).foldl (fun t st =>
    match runOf t k with
    | some r => match r.step with
      | some x => if num st 0 1 = 3 then attnRows r p x st t else t
      | none => t
    | none => t) s

/-- An attempt of a leg that has ended: what the outside says of it, the number that its open choices depend on, whether its result is
the sound one that the model computes, and its position in the retries. -/
structure Attempt where
  e : LegEnd
  n : Nat
  sound : Bool
  no : Nat

/-- The result of a sound attempt: computed outputs, states, statistics and notes (R158, R160, R162, R243, R267). -/
def soundResult (g k : Nat) (r : Run) (p : Plan) (leg : List Byte) (a : Attempt) (s : State) : State :=
  let c := computeLeg g k r p leg a.n s
  let s1 := emptyResults k c.out.empties (stripeEnds r p leg c.s)
  let s2 := mergeStats r g leg (fun tag chans =>
    statsOf [tag, 80, a.n] tag chans ((c.out.elems.filter fun x => x.1 == tag).map Prod.snd)) s1
  noteRun k (if c.out.clipped then nClipped else 0) (uncheckedRows g (a.e.unchecked ++ checkSkips s g a.no c.out) s2)

/-- The result of an attempt that an undetected or uncorrected fault has touched: what the outside says that it wrote (R396). -/
def faultyResult (g k : Nat) (r : Run) (p : Plan) (leg : List Byte) (e : LegEnd) (s : State) : State :=
  let s1 := stripeEnds r p leg (attnResults k p leg (legWrites r p leg e.writes s))
  let s2 := emptyResults k e.emptyRows (cellResults k e.cells s1)
  noteRun k (e.notes &&& nClipped) (uncheckedRows g e.unchecked (mergeStats r g leg (fun _ _ => e.stats) s2))

/-! ### Exchange areas of a stripe leg (R223, R226) -/

/-- Group and rows of stripe `b` of a gang's leg: none before its first group. -/
def stripeAt (x : Gang) (b : Nat) : Nat × Nat := (tget x.stripes b).getD (0, 0)

/-- Whether other work of its context has written the exchange areas or a group output object of the stripe leg on gang `g` while it ran, in any
of its attempts (R226). -/
def legDisturbed (g : Nat) (s : State) : Bool := ((tget s.store.guards g).map Guard.hit).getD false

/-- The outputs, states, statistics and notes of the accepted attempt of the leg of run `k` on gang `g`; the results of a stripe leg that other
work has disturbed are undefined (R226). -/
def legResult (g k : Nat) (r : Run) (p : Plan) (leg : List Byte) (a : Attempt) (s : State) : State :=
  if legDisturbed g s then undefineLeg r p leg s
  else correctedWords (legCorrected s r p leg) (if a.sound then soundResult g k r p leg a s else faultyResult g k r p leg a.e s)

/-! ### End actions (R182, R183, R201) -/

/-- The Lift of a Kite score record (R183, R201): a zero rewind or frame is inherited. -/
def scoreLift (r : Run) (reason : Nat) (rec_ : List Byte) (s : State) : State :=
  let from_ := r.lift.getD {}
  raiseLift (if num rec_ 8 8 = 0 then from_.rewind else num rec_ 8 8 : Nat)
    { source := 1, target := 2, reason := reason, score := num rec_ 0 2, threshold := (srcCfg s 1 reason).lift, time := s.time.now
      trigger := sampleNow s, aux := num rec_ 2 2
      frame := if num rec_ 16 8 = 0 then from_.frame else num rec_ 16 8 } s

/-- SCORE (R183, R201): in a run that the cascade created, the record is a tier-1 decision; a record with a nonzero reserved byte
raises nothing and counts as an ignored event of Kite. -/
def scoreAction (r : Run) (reason : Nat) (rec_ : List Byte) (s : State) : State :=
  if num rec_ 4 4 ≠ 0 ∨ num rec_ 24 8 ≠ 0 then ignoreTier 0 s
  else
    match r.kind with
    | .cascade _ => decide_ 1 reason (num rec_ 0 2) (scoreLift r reason rec_) s
    | _ => s

/-- Sets the plan counter of run `k` and lets it wait for its next boundary. -/
def goOn (k n : Nat) (s : State) : State := modRun k (fun r => { r with counter := n, state := .ready }) s

/-- WAIT (R182, R188): the step ends, the current item is released, and the run goes on at the target when the next item is there. An
idle cascade run makes its tier Idle (R37). -/
def waitAction (k target : Nat) (s : State) : State :=
  let s1 := endStep k .ok s
  releaseItem k .ready target s1

/-- The end action of a leg (R182): `branch` is what the action word says at the leg's end. -/
def endAction (k : Nat) (r : Run) (leg : List Byte) (s : State) : State :=
  let next := r.counter + 1
  let target := num leg 28 4
  match num leg 25 1 with
  | 1 => goOn k target s
  | 2 => goOn k (if branchTaken s r leg then target else next) s
  | 3 => endRun k .ok false s
  | 4 => waitAction k target s
  | 5 => goOn k next (scoreAction r (num leg 26 1) (actionWord s r leg 32) s)
  | 6 =>
    match r.kind with
    | .cascade t => ballast t (num leg 26 1) (tierConsumed s t) s
    | _ => endRun k .ok false s
  | _ => goOn k next s

/-- The boundary after the leg of run `k` on gang `g`: if another leg is committed while the run could go on, the run is pre-empted
(R127). -/
def legBoundary (g k h : Nat) (s : State) : State :=
  let s1 := boundary g true (settle (afterBound s))
  match runOf s1 k, (gangOf s1 g).bind Gang.cur with
  | some r, some c => if r.state = .ready ∧ c.run ≠ k then countPreempted h (modRun k (fun r => { r with state := .preempted }) s1) else s1
  | _, _ => s1

/-- The attempt of the leg is accepted: its result, then the end action, then the boundary (R125, R182). -/
def acceptLeg (g k : Nat) (a : Attempt) (s : State) : State :=
  match runOf s k with
  | none => s
  | some r =>
    let p := runPlan s r
    let leg := legOf p r.counter
    let s1 := legResult g k r p leg a s
    let early := belowScaled s g leg (num leg 8 4) a.e.elapsed
    let s2 := if early then noteRun k nSuspect (logEvent 0x08 0 0 0 r.ctx (deviceScore s1) 0 r.counter s1) else s1
    let s3 := modGang g (fun x => { x with cur := none, stripes := [], stages := [] })
      (unguard g (dropLocks g (modRun k (fun r => { r with legs := r.legs + 1 }) s2)))
    let s4 := takeStops k (endAction k ((runOf s3 k).getD r) leg s3)
    afterLegs (legBoundary g k r.ctx s4)

/-! ### Retries (R394–R396) -/

/-- Whether slack allows a retry of a bound run's leg now (R396). -/
def retrySlack (s : State) (g : Nat) (r : Run) (leg : List Byte) : Bool :=
  match r.kind with
  | .bound b =>
    match nextTrigger s (tgetD s.sched.binds b).channel with
    | some t => s.time.now + scaledNs s g leg (num leg 4 4) + 50000 ≤ t
    | none => true
  | _ => true

/-- Whether a retry may begin now (R396). -/
def mayRetry (s : State) (g : Nat) (r : Run) (p : Plan) (leg : List Byte) : Bool :=
  !legInPlace r p leg && s.safe.cfg.retry && retrySlack s g r leg

/-- The working copies of the layers that the cell stages of a retried leg hold are the committed states again (R268). -/
def restoreCells (s : State) (r : Run) (p : Plan) (leg : List Byte) (st : StepInfo) : StepInfo :=
  let layers := ((stagesOf leg).filter fun x => num x 0 1 == 4).map fun x => num (descOf p x) 4 1
  let restore := fun (k : Nat) (w : List Byte) =>
    let set := tgetD s.models.sets (tgetD s.models.streams k).set
    let old := tgetD st.first k
    layers.foldl (fun w l =>
      let a := vecOff set l 0
      let b := vecOff set (l + 1) 0
      w.take a ++ (old.take b).drop a ++ w.drop b) w
  { st with work := tmap st.work restore }

/-- A retry begins (R394): a fresh prefetch, all slices from the start, the exchange areas zero again. -/
def startRetry (g k : Nat) (r : Run) (p : Plan) (leg : List Byte) (errs : List LegErr) (s : State) : State :=
  let s1 := modGang g (fun x =>
    { x with stripes := [], stages := [], cur := x.cur.map fun c =>
        { c with attempt := c.attempt + 1, earlier := c.earlier ++ [errs], missed := false, commitAt := s.time.now, startAt := s.time.now
                 phase := .stalled } }) (dropLocks g s)
  let again := fun (r : Run) => { r with retries := r.retries + 1, step := r.step.map fun st => restoreCells s r p leg st }
  let s2 := ownWrite g (zeroExch r p leg) (modRun k (fun r => Run.noted (again r) (gangNotes s g)) s1)
  if num leg 20 4 = 0 then startLeg g s2 else s2

/-- No retry is made: the result is delivered with SUSPECT and each disagreeing panel scored once as transient (R396). -/
def suspectLeg (g k : Nat) (r : Run) (all : List LegErr) (a : Attempt) (s : State) : State :=
  acceptLeg g k a (noteRun k nSuspect (scoreErrs g r 2 all s))

/-- Retries the leg, or delivers its result with SUSPECT (R394, R396). -/
def retryLeg (g k : Nat) (r : Run) (c : Cur) (errs : List LegErr) (a : Attempt) (s : State) : State :=
  let p := runPlan s r
  let leg := legOf p r.counter
  if mayRetry s g r p leg then startRetry g k r p leg errs s else suspectLeg g k r (c.earlier.flatten ++ errs) a s

/-- Panels found permanently faulty are retired at once (R395, R397). -/
def retirePermanent (g : Nat) (r : Run) (panels : List Nat) (s : State) : State :=
  (distinct (panels.map fun n => (errChan g n).2)).foldl (fun t ix =>
    let ty := (errChan g 0).1
    retireNow ty ix (chanEvent 2 ty ix 3 r.ctx 0 r.tag r.counter t)) s

/-- The leg goes back to its run when its gang has no panel left to retry it on: it starts anew once a spare serves (log 26),
unless a PLAN_STOP has named the run (R190). -/
def shelveLeg (g k : Nat) (s : State) : State :=
  workEnded (takeStops k (modRun k (fun r => { r with state := .preempted }) (modGang g (fun x => { x with cur := none }) (unguard g (dropLocks g s)))))

/-- The first retry disagrees (R395). -/
def secondPattern (g k : Nat) (r : Run) (c : Cur) (errs : List LegErr) (a : Attempt) (s : State) : State :=
  let prev := c.earlier.flatten
  match classify (gangSize s g) prev errs with
  | .plan => afterLegs (failLeg k .eCheck (logEvent 3 0 0 0 r.ctx (deviceScore s) r.tag r.counter s))
  | .single =>
    let (ty, ix) := errChan g ((errPanels errs).headD 0)
    let s1 := modTest (chKey ty ix) (fun x => { x with forced := true }) (scoreErrs g r 1 errs s)
    afterLegs (failLeg k .eCheck s1)
  | .permanent ns =>
    let s1 := retirePermanent g r ns s
    if (runOf s1 k).isNone then afterLegs s1
    else if gangSize s1 g = 0 then shelveLeg g k s1
    else retryLeg g k r c errs a s1
  | .undecided => retryLeg g k r c errs a s

/-- The attempt of the leg of run `k` disagrees. -/
def disagreeLeg (g k : Nat) (r : Run) (c : Cur) (errs : List LegErr) (a : Attempt) (s : State) : State :=
  match c.attempt with
  | 0 => retryLeg g k r c errs a s
  | 1 => secondPattern g k r c errs a s
  | _ =>
    let all := c.earlier.flatten ++ errs
    let s1 := retirePermanent g r (hardRecur c.earlier.flatten errs) s
    afterLegs (failLeg k .eCheck (scoreErrs g r 1 all s1))

/-- The attempt of the leg of run `k` agrees: the panels of the earlier attempts that are in service are transient, scored once. -/
def agreeLeg (g k : Nat) (r : Run) (c : Cur) (a : Attempt) (s : State) : State :=
  acceptLeg g k a (scoreErrs g r 1 c.earlier.flatten s)

/-- LEG_END: the executing leg of a gang ends (R125, R182, R189, R198, R297, R394). A leg that waits at a held host-memory request cannot end
but late (R482). -/
def execLegEnd (e : LegEnd) (s : State) : Res :=
  if 16 < e.gang then .fault .noSuchUnit
  else
    match (gangOf s e.gang).bind Gang.cur with
    | none => .next s
    | some c =>
      if c.phase ≠ .executing then .next s
      else
        match runOf s c.run with
        | none => .next s
        | some r =>
          let p := runPlan s r
          let leg := legOf p r.counter
          let s1 := elapseTo (c.startAt + e.elapsed) s
          let bad := legBad s1 r p leg
          let own := checkErrs s1 e.gang c.attempt (computeLeg e.gang c.run r p leg c.draw s1).out
          let hard := gangErrs s1 e.gang e.errs
          let a : Attempt := { e := e, n := c.draw, sound := hard.isEmpty, no := c.attempt }
          if aboveScaled s1 e.gang leg (num leg 4 4) e.elapsed then .next (lateLeg e.gang c s1)
          else if legWaits s r then .next s
          else
            match failCode e.fail, bad with
            | some code, _ => .next (faultLeg c.run r code bad s1)
            | none, w :: _ => .next (faultLeg c.run r (wordCode w) bad s1)
            | none, [] =>
              .next (if (hard ++ own).isEmpty then agreeLeg e.gang c.run r c a s1 else disagreeLeg e.gang c.run r c (hard ++ own) a s1)

/-! ### Prefetch, stalls and limits (R195–R198) -/

/-- The run that executes on a gang as R125 sees it while its leg runs: it waits at the leg that it continues with (R195). -/
def predicted (s : State) (g : Nat) : State :=
  match (gangOf s g).bind Gang.cur with
  | none => s
  | some c =>
    match runOf s c.run with
    | none => s
    | some r =>
      let leg := legOf (runPlan s r) r.counter
      let target := num leg 28 4
      let next := match num leg 25 1 with
        | 1 => some target
        | 2 => if c.sampled then some (if c.branch then target else r.counter + 1) else none
        | 3 => none
        | 4 => match r.ring with
          | some q => if q.head + 1 < q.tail then some target else none
          | none => some target
        | 6 => none
        | _ => some (r.counter + 1)
      match next with
      | some n => modRun c.run (fun r => { r with counter := n, state := .ready, stepDue := false }) s
      | none => s

/-- The stall of leg `c` of run `r` has passed its scaled limit: a miss is counted, the run ends with E_TIMEOUT and the leg has not
executed (R196, R197); the event lies with the context (R389). -/
def stallOver (c : Cur) (r : Run) (s : State) : State :=
  afterLegs (finishLeg c.run .eTimeout
    (logEvent 0x07 0 0 0 r.ctx (deviceScore s) 0 r.counter s))

/-- PREFETCH_COMPLETE: the prefetch of a stalled leg is complete, and the leg executes (R196), or its stall limit was passed (R197); or,
while a leg executes, the words of the leg that R125 would choose are fetched (R195). `stall` is the stall's length in ns. A stalled leg of a
context that closes gracefully is not begun (R134). -/
def execPrefetchComplete (gang stall : Nat) (s : State) : Res :=
  if 16 < gang then .fault .noSuchUnit
  else
    match (gangOf s gang).bind Gang.cur with
    | none => .next s
    | some c =>
      match runOf s c.run with
      | none => .next s
      | some r =>
        let leg := legOf (runPlan s r) r.counter
        match c.phase with
        | .stalled =>
          let s1 := elapseTo (c.commitAt + stall) s
          if aboveScaled s1 gang leg (num leg 12 4) stall then
            .next (stallOver c r s1)
          else if legWaits s r || (c.attempt == 0 && (ctxOf s r.ctx).state == .closing) then .next s
          else .next (startLeg gang (countMiss gang c stall s1))
        | .executing =>
          match (pickLeg (predicted s gang) gang).1 with
          | some (k, r, _) => .next (modGang gang (fun x => { x with prefetched := some (k, r.counter) }) s)
          | none => .next s
        | .held => .next s

/-- STALL_LIMIT_EXPIRY: a stall passes the leg's scaled stall limit: the run ends with E_TIMEOUT, the leg has not executed (R197); the
event lies with the context (R389). -/
def execStallLimitExpiry (gang : Nat) (s : State) : Res :=
  if 16 < gang then .fault .noSuchUnit
  else
    match (gangOf s gang).bind Gang.cur with
    | none => .next s
    | some c =>
      match runOf s c.run with
      | none => .next s
      | some r =>
        if c.phase ≠ .stalled then .next s
        else
          let leg := legOf (runPlan s r) r.counter
          let s1 := elapseTo (c.commitAt + scaledNs s gang leg (num leg 12 4)) s
          .next (stallOver c r s1)

/-- LEG_LATE_LIMIT: the executing leg passes its scaled late limit (R198). -/
def execLegLateLimit (gang : Nat) (s : State) : Res :=
  if 16 < gang then .fault .noSuchUnit
  else
    match (gangOf s gang).bind Gang.cur with
    | none => .next s
    | some c =>
      match runOf s c.run with
      | none => .next s
      | some r =>
        if c.phase ≠ .executing then .next s
        else
          let leg := legOf (runPlan s r) r.counter
          .next (lateLeg gang c (elapseTo (c.startAt + scaledNs s gang leg (num leg 4 4)) s))

/-! ### Progress inside a leg (R223, R224, R270) -/

/-- A stripe leg under way: its groups, its stripes, the panels that hold them, the gang and its number. -/
structure StripeLeg where
  groups : List (List (List Byte × Win))
  n : Nat
  panels : Nat
  gang : Gang
  no : Nat

/-- Windows of a group's stages, by group number from 1. -/
def StripeLeg.group (q : StripeLeg) (g : Nat) : List (List Byte × Win) := q.groups.getD (g - 1) []
/-- First row of stripe `b` in the output of group `g`. -/
def StripeLeg.lo (q : StripeLeg) (g b : Nat) : Nat := stripeLo (lastWin (q.group g)).hOut q.n b
/-- Rows of one image that stripe `b` holds in the output of group `g`. -/
def StripeLeg.len (q : StripeLeg) (g b : Nat) : Nat := q.lo g (b + 1) - q.lo g b
/-- Tile rows of group `g`. -/
def StripeLeg.tile (q : StripeLeg) (g : Nat) : Nat := max 1 (((q.group g).head?.map fun x => x.2.tRows).getD 1)
/-- Tiles that lie side by side in group `g`: its output columns in tiles of U columns, 0 for all of them (R219, R221). -/
def StripeLeg.across (q : StripeLeg) (g : Nat) : Nat :=
  let u := ((q.group g).head?.map fun x => x.2.tCols).getD 0
  let w := (lastWin (q.group g)).wOut
  max 1 (if u = 0 then 1 else (w + u - 1) / u)
/-- Tiles of one image that stripe `b` computes in group `g`, left to right and then top to bottom (R219). -/
def StripeLeg.perImage (q : StripeLeg) (g b : Nat) : Nat := (q.len g b + q.tile g - 1) / q.tile g * q.across g
/-- Images of a batch. -/
def StripeLeg.batch (q : StripeLeg) (g : Nat) : Nat := (lastWin (q.group g)).batch
/-- Output rows that stripe `b` has written whole after `t` tiles of group `g`, each image of a batch in turn (R222, R223). -/
def StripeLeg.rowsAfter (q : StripeLeg) (g b t : Nat) : Nat :=
  let per := max 1 (q.perImage g b)
  t / per * q.len g b + min (t % per / q.across g * q.tile g) (q.len g b)

/-- Stripe `b` has written all its rows of group `g`, or is in a later group. -/
def StripeLeg.through (q : StripeLeg) (g b : Nat) : Bool :=
  let (h, rows) := stripeAt q.gang b
  g < h || (h == g && q.batch g * q.len g b ≤ rows)

/-- Neighbour `b` has written `rows` rows of group `g`, or is in a later group (R224). -/
def StripeLeg.covers (q : StripeLeg) (g b rows : Nat) : Bool :=
  let (h, have_) := stripeAt q.gang b
  g < h || (h == g && rows ≤ have_)

/-- Whether the neighbours' rows that tile `t` of stripe `b` in group `g` needs are counted (R224): the last rows of the stripe above, the first
rows of the stripe below. Tiles of the first group need none. -/
def StripeLeg.tileReady (q : StripeLeg) (g b t : Nat) : Bool :=
  if g ≤ 1 then true
  else
    let per := max 1 (q.perImage g b)
    let img := t / per
    let a := q.lo g b + t % per / q.across g * q.tile g
    let e := min (q.lo g (b + 1)) (a + q.tile g)
    let (from_, to_) := rowsNeeded (lastWin (q.group (g - 1))) (q.group g) a e
    let above := from_ < to_ && from_ < q.lo (g - 1) b
    let below := from_ < to_ && q.lo (g - 1) (b + 1) < to_
    (!above || q.covers (g - 1) (b - 1) (img * q.len (g - 1) (b - 1) + (min to_ (q.lo (g - 1) b) - q.lo (g - 1) (b - 1))))
      && (!below || q.covers (g - 1) (b + 1) (img * q.len (g - 1) (b + 1) + (to_ - q.lo (g - 1) (b + 1))))

/-- Stripe `b` has gone on to `tiles` tiles of its group, as far as the rows that they need are counted; its count never falls. -/
def StripeLeg.advance (q : StripeLeg) (b tiles : Nat) : StripeLeg :=
  let (g, rows) := stripeAt q.gang b
  if g = 0 then q
  else
    let t := ((List.range (min tiles (q.batch g * q.perImage g b))).takeWhile (q.tileReady g b)).length
    { q with gang := { q.gang with stripes := tput q.gang.stripes b (g, max rows (q.rowsAfter g b t)) } }

/-- The stripe leg that runs on a gang. -/
def stripeLeg (s : State) (g : Nat) (p : Plan) (leg : List Byte) (x : Gang) : StripeLeg :=
  { groups := winGroups (((stagesOf leg).filter isWin).map fun st => (st, winOf (winDescOf p st)))
    n := num leg 2 2, panels := max 1 (gangSize s g), gang := x, no := g }

/-- Writes the counter halves of stripe `b` in every exchange area of the leg (R223). -/
def writeHalves (r : Run) (p : Plan) (leg : List Byte) (x : Gang) (b : Nat) (s : State) : State :=
  (stagesOf leg).foldl (fun t st =>
    let d := winDescOf p st
    if (num d 1 1).testBit 4 then
      match refAddr r p (refOf d 52) with
      | some a => stripeHalves r.ctx a.1 (num leg 2 2) b (stripeAt x b).2 (stripeAt x b).1 t
      | none => t
    else t) s

/-- Stage numbers of group `g` of a leg. -/
def StripeLeg.stageNos (q : StripeLeg) (g : Nat) : List Nat :=
  (List.range (q.group g).length).map fun i => ((q.groups.take (g - 1)).map List.length).sum + i

/-- Rows `lo` to `hi - 1` of stripe `b` of group `g`, counted from its first, image by image, are written to the group's output object (R222,
R223). -/
def writeTiles (r : Run) (p : Plan) (leg : List Byte) (n : Nat) (q : StripeLeg) (g b lo hi : Nat) (s : State) : State :=
  let w := lastWin (q.group g)
  let st := ((q.group g).getLast?.map Prod.fst).getD []
  let len := max 1 (q.len g b)
  let keep := fun (i : Nat) =>
    let m := i / max 1 w.wOut
    let y := m % max 1 w.hOut
    decide (q.lo g b ≤ y) && decide (y < q.lo g b + q.len g b)
      && (let c := m / max 1 w.hOut * len + (y - q.lo g b); decide (lo ≤ c) && decide (c < hi))
  if hi ≤ lo then s else emitPixels r p st w keep (groupPixels q.no r p leg n (q.stageNos g) s) s

/-- Stripe `b` goes on to `tiles` tiles of its group: their rows first, then the count of them (R223). -/
def advanceStripe (r : Run) (p : Plan) (leg : List Byte) (n b tiles : Nat) (a : StripeLeg × State) : StripeLeg × State :=
  let q := a.1.advance b tiles
  let (g, old) := stripeAt a.1.gang b
  let new := (stripeAt q.gang b).2
  (q, if new = old then a.2 else ownWrite q.no (fun s => writeHalves r p leg q.gang b (writeTiles r p leg n q g b old new s)) a.2)

/-- STRIPE_GROUP_START: the stripes have written the rows of `tiles` tiles of their groups, and count them (R223); then stripe `stripe` starts
its next group, and writes (0, g), once it and every other stripe of its panel are through the group before (R225) and the neighbours' rows
that its first tile needs are counted (R224). -/
def execStripeGroupStart (gang stripe : Nat) (s : State) (tiles : List Nat := []) : Res :=
  if 16 < gang then .fault .noSuchUnit
  else
    match gangOf s gang with
    | none => .next s
    | some x =>
      match x.cur with
      | none => .next s
      | some c =>
        match runOf s c.run with
        | none => .next s
        | some r =>
          let p := runPlan s r
          let leg := legOf p r.counter
          if c.phase ≠ .executing ∨ num leg 24 1 ≠ 3 ∨ num leg 2 2 ≤ stripe then .next s
          else
            let q0 := stripeLeg s gang p leg x
            let order := sortBy (fun a b => decide ((stripeAt x a).1 ≤ (stripeAt x b).1)) (List.range q0.n)
            let (q, s1) := order.foldl (fun a b => advanceStripe r p leg c.draw b (tiles.getD b 0) a) (q0, s)
            let g := (stripeAt q.gang stripe).1 + 1
            let mates := (List.range q.n).filter fun b => b % q.panels == stripe % q.panels
            let go := g ≤ q.groups.length && (g = 1 || mates.all (q.through (g - 1))) && q.tileReady g stripe 0
            let y := if go then { q.gang with stripes := tput q.gang.stripes stripe (g, 0) } else q.gang
            .next (modGang gang (fun x => { x with stripes := y.stripes })
              (if go then ownWrite gang (writeHalves r p leg y stripe) s1 else s1))

/-- PIPELINE_STAGE_STEP: stage `stage` of a pipelined leg computes its next time step, once the stage before it has written that step
(R270). -/
def execPipelineStageStep (gang stage : Nat) (s : State) : Res :=
  if 16 < gang then .fault .noSuchUnit
  else
    match gangOf s gang with
    | none => .next s
    | some x =>
      match x.cur with
      | none => .next s
      | some c =>
        match runOf s c.run with
        | none => .next s
        | some r =>
          let p := runPlan s r
          let sts := stagesOf (legOf p r.counter)
          let piped := sts.all fun st => num st 0 1 == 4 && (num (descOf p st) 1 1).testBit 0
          let steps := match r.step.bind StepInfo.cell with | some a => num (vread s r.ctx (a + 4) 2) 0 2 | none => 0
          let done := fun i => (tget x.stages i).getD 0
          let ok := stage = 0 || done stage < done (stage - 1)
          if c.phase ≠ .executing ∨ !piped ∨ sts.length ≤ stage ∨ steps ≤ done stage ∨ !ok then .next s
          else .next (modGang gang (fun x => { x with stages := tput x.stages stage (done stage + 1) }) s)

/-! ### Scrubs, spares and self-tests (R171, R199, R398, R401–R403) -/

/-- SCRATCHPAD_SCRUB_COMPLETE of a panel, or of Kite's working area as number 34 (R171). -/
def execScratchpadScrubComplete (panel : Nat) (s : State) : Res :=
  if 34 < panel then .fault .noSuchUnit
  else if !(panelOf s panel).scrub then .next s
  else
    let s1 := modPanel panel (fun q => { q with scrub := false }) s
    .next (boundary (if panel = 34 then 0 else (panelOf s panel).gang) false s1)

/-- SPARE_READY: a spare has powered up and run its self-test pass; it serves from the next boundary, or is retired and the next
spare is called (R199, R398). -/
def execSpareReady (panel : Nat) (passed : Bool) (s : State) : Res :=
  if 33 < panel then .fault .noSuchUnit
  else
    let g := (panelOf s panel).gang
    match (gangOf s g).bind fun x => x.awaiting.find? fun e => e.1 == panel with
    | none => .next s
    | some (k, n, pos) =>
      let s1 := modGang g (fun x => { x with awaiting := x.awaiting.filter fun e => e.1 != panel }) s
      if passed then
        let s2 := modTest (chKey 1 k) (fun x => { x with last := s.time.now }) s1
        .next (boundary g false (modGang g (fun x => { x with ready := x.ready ++ [(k, n, pos)] }) s2))
      else
        let s2 := modPanel k (fun q => { q with state := .retired, gang := 0, powered := false, replaces := none, place := none }) s1
        let s3 := markRetired 1 k 3 (logEvent 0x0D 1 k 3 0xFFFF (chanScore s2 1 k) 0 0 s2)
        .next (afterBound (callSpare g n pos (retireReplies 1 k s3)))

/-- Completes the SAFE_SELFTEST packets of a unit (R408). -/
def testReplies (k : Nat) (passed : Bool) (s : State) : State :=
  let ps := (tgetD s.safe.tests k).pkts
  ps.foldl (fun t p => completeOk p (b2n passed) t.time.now 0 t) (modTest k (fun x => { x with pkts := [] }) s)

/-- Gang whose boundaries take the slices of unit `k`. -/
def testGang (s : State) (k : Nat) : Nat := if k / 64 = 2 then 0 else (panelOf s (k % 64)).gang

/-- A free panel has no legs: the next slice of a pass that a packet asked for runs at once (R408). -/
def testFree (k : Nat) (s : State) : State :=
  if k / 64 = 1 ∧ (panelOf s (k % 64)).state = .free ∧ !(tgetD s.safe.tests k).pkts.isEmpty then modTest k (fun x => { x with running := true }) s else s

/-- SELF_TEST_SLICE_COMPLETE: a slice ends; the fourth completes the pass; a slice that fails retires the unit as a permanent fault
(R401, R403). The scratchpad is scrubbed after it. -/
def execSelfTestSliceComplete (type index : Nat) (passed : Bool) (s : State) : Res :=
  if !(type = 1 ∧ index < 34 ∨ type = 2 ∧ index = 0) then .fault .noSuchUnit
  else
    let k := chKey type index
    let x := tgetD s.safe.tests k
    if !x.running then .next s
    else
      let g := testGang s k
      let s1 := modPanel (if type = 2 then 34 else index) (fun q => { q with scrub := true }) (modTest k (fun x => { x with running := false }) s)
      if passed then
        if x.slice + 1 < 4 then .next (boundary g false (testFree k (modTest k (fun x => { x with slice := x.slice + 1 }) s1)))
        else
          let s2 := modTest k (fun x => { x with slice := 0, last := s.time.now, forced := false, degraded := false }) s1
          .next (boundary g false (testReplies k true s2))
      else
        let s2 := modTest k (fun x => { x with slice := 0, forced := false, degraded := false }) s1
        let s3 := retireNow type index (logEvent 0x0D type index 3 0xFFFF (chanScore s2 type index) 0 0 s2)
        .next (boundary g false (afterBound (testReplies k false s3)))

end Sys2Proof.Machine
end

