-- ==== Sys2Proof/Machine/Quant.lean ====
section
/-! DEFINITION. Statistics slots and QCONVERT (06): QSTAT_ARM, QSTAT_DISARM, QSTAT_READ, QSTAT_QUERY, QCONVERT, and what a conversion
writes. -/

namespace Sys2Proof.Machine

/-! ### Statistics slots (R161–R165) -/

/-- The slot that a packet names, if it is one of its context. -/
def pSlot (p : Pkt) (s : State) : Option QSlot := (tget s.models.qslots (fld p 16 2)).filter fun q => q.ctx == p.ctx

/-- The named slot, or an empty one. -/
def pSlotD (p : Pkt) (s : State) : QSlot := (pSlot p s).getD {}

/-- Check of the named slot. -/
def slotChk (p : Pkt) (s : State) : List (Bool × Code × Nat) := [((pSlot p s).isNone, .eHandle, 16)]

/-- Slots that context `h` holds. -/
def slotCount (s : State) (h : Nat) : Nat := (s.models.qslots.filter fun e => e.2.ctx == h).length

/-- Checks of QSTAT_ARM (R164). -/
def chkQstatArm (p : Pkt) (s : State) : Option Fail :=
  let h := fld p 16 4
  let tag := fld p 20 1
  let n := fld p 22 2
  let plan := planOf s p.ctx h
  firstFail [
    (h != 0 && plan.isNone, .eHandle, 16),
    (tag = 0, .eRange, 20),
    (n = 0 || 4096 < n, .eRange, 22),
    (h != 0 && !((plan.map fun e => (planTags e.2).contains tag).getD true), .eCombination, 20),
    (s.models.qslots.any fun e => e.2.ctx == p.ctx && e.2.plan == h && e.2.tag == tag && !e.2.orphaned, .eState, 16),
    (firmwareSize s < firmwareUsed s + 65536 * slotPages n, .eNomem, 22),
    ((freeKey s.models.qslots 1 256).isNone, .eNoslot, 0xFFFF),
    (16 ≤ slotCount s p.ctx || (p.ctx != 0 && (ctxOf s p.ctx).quota.memory < memCharged s p.ctx + 65536 * slotPages n), .eQuota, 0xFFFF)]

/-- QSTAT_ARM: the slot gathers from legs that start after its reply (R162). -/
def actQstatArm (p : Pkt) (s : State) : State :=
  let k := (freeKey s.models.qslots 1 256).getD 0
  let q : QSlot := { ctx := p.ctx, plan := fld p 16 4, tag := fld p 20 1, channels := fld p 22 2, arm := s.models.arms + 1 }
  completeOk p k 0 0 { s with models.qslots := tput s.models.qslots k q, models.arms := s.models.arms + 1 }

/-- QSTAT_ARM (R164). -/
def execQstatArm (p : Pkt) (s : State) : Res := runCmd p s (chkQstatArm p s) (actQstatArm p)

/-- QSTAT_DISARM: the slot is free (R165). -/
def actQstatDisarm (p : Pkt) (s : State) : State :=
  completeOk p (pSlotD p s).legsArm 0 0 { s with models.qslots := tdel s.models.qslots (fld p 16 2) }

/-- QSTAT_DISARM (R165). -/
def execQstatDisarm (p : Pkt) (s : State) : Res := runCmd p s (firstFails [slotChk p s]) (actQstatDisarm p)

/-- The 32 bytes of a statistics record (R161). -/
def statBytes (r : StatRec) : List Byte :=
  toLE 8 r.sum ++ toLE 8 r.elements ++ toLE 4 r.clipped ++ toLE 4 r.saturated ++ toLE 4 r.nonfinite ++ toLE 4 r.maxErr

/-- State code of a slot (R163). -/
def slotState (q : QSlot) : Nat := if q.orphaned then 2 else 1

/-- Checks of QSTAT_READ (R165). -/
def chkQstatRead (p : Pkt) (s : State) : Option Fail :=
  let n := fld p 22 2
  firstFails [
    slotChk p s,
    [((pSlotD p s).channels ≤ fld p 20 2, .eRange, 20), (n = 0 || (pSlotD p s).channels < fld p 20 2 + n, .eRange, 22)],
    destChk p s (32 * n) 24,
    permChk s p.ctx (fld p 24 8) (32 * n) true 24]

/-- QSTAT_READ: copies records, and with clear set returns them and the slot's counts to zero (R165). -/
def actQstatRead (p : Pkt) (s : State) : State :=
  let q := pSlotD p s
  let first := fld p 20 2
  let n := fld p 22 2
  let data := ((List.range n).map fun i => statBytes (tgetD q.recs (first + i))).flatten
  let s1 := vwrite p.ctx (fld p 24 8) data s
  let q1 : QSlot := { q with legsClear := 0, elements := 0, recs := tkeep q.recs fun k _ => k < first || first + n ≤ k }
  let s2 := if (fld p 18 1).testBit 0 then { s1 with models.qslots := tput s1.models.qslots (fld p 16 2) q1 } else s1
  completeOk p n q.legsClear (slotState q) s2

/-- QSTAT_READ (R165). -/
def execQstatRead (p : Pkt) (s : State) : Res := runHost p s false (chkQstatRead p s) (actQstatRead p)

/-- QSTAT_QUERY (R163). -/
def actQstatQuery (p : Pkt) (s : State) : State :=
  let q := pSlotD p s
  completeOk p (slotState q + 4 * (q.channels % 4096)) q.legsArm q.elements s

/-- QSTAT_QUERY (R163). -/
def execQstatQuery (p : Pkt) (s : State) : Res := runCmd p s (firstFails [slotChk p s]) (actQstatQuery p)

/-! ### QCONVERT (R166) -/

/-- A QCONVERT's operands. -/
structure ConvCmd where
  src : Nat := 0
  dst : Nat := 0
  scales : Nat := 0
  k : Nat := 1
  rows : Nat := 1
  conv : Conv := {}
  /-- block size, 0 unscaled -/
  block : Nat := 0
  slot : Nat := 0
  seed : Nat := 0
  deriving DecidableEq, Repr

/-- Operands of a QCONVERT packet. -/
def convCmd (p : Pkt) : ConvCmd :=
  { src := fld p 16 8, dst := fld p 24 8, scales := fld p 32 8, k := fld p 40 4, rows := fld p 44 4
    conv := { src := fld p 48 1, dst := fld p 49 1, dynamic := (fld p 51 1).testBit 0, stochastic := (fld p 51 1).testBit 1
              m3 := bits (fld p 50 1) 3 2 == 1 }
    block := blockOf (fld p 50 1), slot := fld p 52 2, seed := fld p 56 4 }

/-- Bytes of the source, the destination and the scale tensor. -/
def ConvCmd.srcBytes (c : ConvCmd) : Nat := c.rows * rowBytes c.k (codeBits c.conv.src)
/-- Bytes of the destination. -/
def ConvCmd.dstBytes (c : ConvCmd) : Nat := c.rows * rowBytes c.k (codeBits c.conv.dst)
/-- Bytes of a row of scales. -/
def ConvCmd.scaleRow (c : ConvCmd) : Nat :=
  if c.block = 0 then 0 else roundUp ((c.k + c.block - 1) / c.block * scaleSize c.conv.m3) 16
/-- Bytes of the scale tensor. -/
def ConvCmd.scaleBytes (c : ConvCmd) : Nat := c.rows * c.scaleRow

/-- FP32 or BF16. -/
def isFloat (f : Nat) : Bool := f == 0x01 || f == 0x02

/-- The permitted pairs of R166. -/
def pairOk (a b : Nat) : Bool := (isFloat a && isCode b) || (isCode a && isFloat b) || (a == 0x01 && b == 0x02)

/-- The lowest free DMA channel (DESIGN CHOICE, log 9). -/
def freeDma (s : State) : Option Nat :=
  (List.range 31).find? fun c => !thas s.store.dma c && !s.sched.leases.any fun e => e.2.kind == 1 && e.2.resource == c

/-- DMA channels that context `h` holds. -/
def dmaHeld (s : State) (h : Nat) : Nat := (s.store.dma.filter fun e => e.2.ctx == h).length

/-- Checks of the DMA channel that a transfer takes (R166, R313). -/
def dmaChk (p : Pkt) (s : State) : List (Bool × Code × Nat) :=
  [((freeDma s).isNone, .eBusy, 0xFFFF), (p.ctx != 0 && (ctxOf s p.ctx).quota.dma ≤ dmaHeld s p.ctx, .eQuota, 0xFFFF)]

/-- Takes a DMA channel on a lease for a transfer with a declared duration in ns (R129). -/
def takeDma (p : Pkt) (ns : Nat) (convert : Bool) (s : State) : State :=
  match freeDma s with
  | none => s
  | some c =>
    let d : Dma := { pkt := p, ctx := p.ctx, lease := s.sched.nextLease, start := s.time.now, convert := convert, arms := s.models.arms }
    handOn p (takeLease 1 p.ctx c (s.time.now + ns + 1000000) { s with store.dma := tput s.store.dma c d, store.rest := false })

/-- Checks of QCONVERT (R166): alignment of 16 bytes, the row alignment of R148 and R150. -/
def chkQconvert (p : Pkt) (s : State) : Option Fail :=
  let c := convCmd p
  let fmt := bits (fld p 50 1) 3 2
  let scaled := c.block ≠ 0
  firstFails [
    addrChk s p.ctx c.src c.srcBytes 16 16, addrChk s p.ctx c.dst c.dstBytes 16 24,
    if scaled && c.scales ≠ 0 then addrChk s p.ctx c.scales c.scaleBytes 16 32 else [],
    [(c.k = 0 || 1048576 < c.k, .eRange, 40), (c.rows = 0 || 65536 < c.rows, .eRange, 44),
     (!isFmt c.conv.src, .eRange, 48), (!isFmt c.conv.dst, .eRange, 49), (1 < fmt, .eRange, 50),
     (((tget s.models.qslots c.slot).map fun q => decide (c.slot ≠ 0) && q.ctx != p.ctx).getD false, .eHandle, 52),
     (!pairOk c.conv.src c.conv.dst, .eCombination, 49),
     (c.conv.dynamic && (isFloat c.conv.dst || !scaled), .eCombination, 51),
     (c.conv.stochastic && c.conv.dst == 0x01, .eCombination, 51),
     (scaled && c.scales = 0, .eCombination, 32)],
    permChk s p.ctx c.src c.srcBytes false 16, permChk s p.ctx c.dst c.dstBytes true 24,
    if scaled then permChk s p.ctx c.scales c.scaleBytes c.conv.dynamic 32 else [],
    [(c.slot ≠ 0 && !(((tget s.models.qslots c.slot).map fun q => q.plan == 0).getD false), .eState, 52)],
    dmaChk p s]

/-- QCONVERT starts on a DMA channel; its declared duration is its elements at 2 × 10^9 per second (R166). -/
def actQconvert (p : Pkt) (s : State) : State :=
  let c := convCmd p
  takeDma p ((c.k * c.rows + 1) / 2) true (pinDma p true s)

/-- QCONVERT (R166). -/
def execQconvert (p : Pkt) (s : State) : Res := runCmd p s (chkQconvert p s) (actQconvert p)

/-! ### What a conversion computes -/

/-- The state of a conversion over its rows: lane states, statistics by record, the rows and scale rows written. -/
structure ConvOut where
  rng : List Nat := []
  stats : Tbl ConvStat := []
  data : List Byte := []
  scales : List Byte := []
  deriving Repr, Inhabited

/-- Converts row `r` (R148–R156); `chans` records take the rows in turn. -/
def convRow (c : ConvCmd) (chans r : Nat) (src scales : List Byte) (o : ConvOut) : ConvOut :=
  let codes := unpackRow c.conv.src c.k src
  let blocks := blocksOf c.k c.block
  let (t, sc) := (blocks.zipIdx).foldl (fun (acc : ConvRun × List Nat) (b, j) =>
    let part := (codes.drop b.1).take b.2
    let vs := part.map (decodeVal c.conv.src)
    let code := if c.block = 0 then 0
      else if c.conv.dynamic then dynScale c.conv.dst c.conv.m3 vs
      else num scales (j * scaleSize c.conv.m3) (scaleSize c.conv.m3)
    let v := if c.block = 0 then Val.fin false 1 0 else scaleVal c.conv.m3 code
    (convBlock c.conv b.1 part v acc.1, acc.2 ++ [code])) ({ rng := o.rng, stat := (tget o.stats (r % chans)).getD {}, codes := [] }, [])
  { rng := t.rng
    stats := tput o.stats (r % chans) t.stat
    data := o.data ++ packRow c.conv.dst t.codes
    scales := o.scales ++ if c.conv.dynamic then fit c.scaleRow ((sc.map (toLE (scaleSize c.conv.m3))).flatten) else [] }

/-- The whole conversion from its source and scale bytes. -/
def convAll (c : ConvCmd) (chans : Nat) (src scales : List Byte) : ConvOut :=
  let w := rowBytes c.k (codeBits c.conv.src)
  (List.range c.rows).foldl (fun o r => convRow c chans r (slice src (r * w) w) (slice scales (r * c.scaleRow) c.scaleRow) o)
    { rng := (List.range 64).map (laneInit c.seed) }

/-- One record's contribution of a conversion (R160). -/
def statAdd (k : Nat) (t : ConvStat) : StatAdd :=
  { tag := 0, chan := k, sum := laneTotal t, elements := t.elements, clipped := t.clipped, saturated := t.saturated
    nonfinite := t.nonfinite, maxErr := t.maxErr }

/-- A scaled conversion from FP32 to BF16, for which the spec states no use of the scale: its result is free (log 27). -/
def convOpen (c : ConvCmd) : Bool := c.conv.src == 0x01 && c.conv.dst == 0x02 && c.block != 0

/-- Sum of a count over the records of a conversion. -/
def convSum (o : ConvOut) (f : ConvStat → Nat) : Nat := (o.stats.map fun e => f e.2).foldl (· + ·) 0

/-- QCONVERT ends with OK: codes and scales written, statistics merged, CLIPPED where an element was clipped (R160, R162, R166). `arms`
tells whether its slot is still the one with which it started. -/
def finishConvert (p : Pkt) (arms : Nat) (s : State) : State :=
  let c := convCmd p
  let q := (tget s.models.qslots c.slot).getD {}
  let chans := if c.slot = 0 then 1 else max 1 q.channels
  let o := convAll c chans (vread s p.ctx c.src c.srcBytes) (if c.block = 0 || c.conv.dynamic then [] else vread s p.ctx c.scales c.scaleBytes)
  let s1 := if convOpen c then undefine p.ctx c.dst c.dstBytes s else vwrite p.ctx c.dst o.data s
  let s2 := if c.conv.dynamic then vwrite p.ctx c.scales o.scales s1 else s1
  let s3 := if c.slot = 0 || !thas s2.models.qslots c.slot || arms < q.arm then s2
    else
      let recs := o.stats.foldl (fun t (k, x) => tmod t k (addStat (statAdd k x))) q.recs
      let q1 : QSlot := { q with recs := recs, legsArm := q.legsArm + 1, legsClear := q.legsClear + 1, elements := q.elements + c.k * c.rows }
      { s2 with models.qslots := tput s2.models.qslots c.slot q1 }
  let clipped := convSum o ConvStat.clipped
  complete p .ok (if clipped = 0 then 0 else nClipped) (c.k * c.rows) clipped (convSum o ConvStat.saturated) s3

end Sys2Proof.Machine
end

