-- ==== Sys2Proof/Machine/Memory.lean ====
section
/-! DEFINITION. The memory commands and events (11): objects, MEM_COPY and the DMA channels, moves, the cold tier, DRAM channels and the
patrol scrubber. -/

namespace Sys2Proof.Machine

/-! ### Objects named by a packet -/

/-- The object that a packet names at byte 16: of its own context, or of any tenant for the management context; not one that a MEM_FREE
is removing (R299, R304). -/
def pObj (p : Pkt) (s : State) : Option (Nat × MemObj) :=
  (objOf s (fld p 16 4)).filter fun e =>
    (p.ctx == 0 || e.2.ctx == p.ctx) && !((moveOf s e.1).map fun m => m.freeing.isSome).getD false

/-- The named object, or an empty one. -/
def pObjD (p : Pkt) (s : State) : MemObj := ((pObj p s).map Prod.snd).getD {}

/-- Slot of the named object. -/
def pObjK (p : Pkt) (s : State) : Nat := ((pObj p s).map Prod.fst).getD 0

/-- Check of the named object. -/
def objChk (p : Pkt) (s : State) : List (Bool × Code × Nat) := [((pObj p s).isNone, .eHandle, 16)]

/-- The management context may not change a sealed tenant's objects (R118, R313). -/
def sealChk (p : Pkt) (s : State) : List (Bool × Code × Nat) :=
  let o := pObjD p s
  [(p.ctx = 0 && o.ctx != 0 && (ctxOf s o.ctx).state == .sealed, .eDenied, 16)]

/-! ### MEM_ALLOC and MEM_MAP_HOST (R299, R303, R312, R313) -/

/-- Virtual pages of context `h` that are taken: first page and count of each object, and each mapped page. -/
def takenPages (s : State) (h : Nat) : List (Nat × Nat) :=
  let objs := (s.store.objs.filter fun e => e.2.ctx == h).map fun e => (e.2.va / 65536, e.2.pages)
  sortBy (fun a b => decide (a.1 ≤ b.1)) (objs ++ (tkeys (ctxOf s h).pages).map fun p => (p, 1))

/-- First page of the lowest free range of `n` pages above page 0 (R312). -/
def lowestFree (s : State) (h n : Nat) : Nat :=
  ((takenPages s h).foldl (fun (acc : Nat × Bool) (a, k) =>
    if acc.2 || acc.1 + n ≤ a then (acc.1, true) else (max acc.1 (a + k), false)) (1, false)).1

/-- First page of the new object: the address given, or the lowest free range. -/
def newPage (p : Pkt) (s : State) : Nat :=
  if fld p 16 8 = 0 then lowestFree s p.ctx (fld p 24 8 / 65536) else fld p 16 8 / 65536

/-- Pages of the new object. -/
def newPages (p : Pkt) : Nat := fld p 24 8 / 65536

/-- Checks of the address and the size of a new object: alignment, overlap, page 0, 48 bits. -/
def rangeChk (p : Pkt) (s : State) : List (Bool × Code × Nat) :=
  let a := newPage p s
  let n := newPages p
  [ (2 ^ 48 ≤ fld p 16 8, .eRange, 16), (fld p 16 8 % 65536 != 0, .eAlign, 16),
    (fld p 24 8 = 0, .eRange, 24), (fld p 24 8 % 65536 != 0, .eAlign, 24),
    (2 ^ 32 < a + n || (takenPages s p.ctx).any fun (b, k) => b < a + n && a < b + k, .eRange, 16)]

/-- The new pages of an object. -/
def newRange (p : Pkt) (s : State) : List Nat := (List.range (newPages p)).map (· + newPage p s)

/-- Whether the new object is placed in the state store at once: a manual object at home there (R303). -/
def allocInStore (p : Pkt) : Bool := (fld p 32 1).testBit 3 && fld p 33 1 == 1

/-- No slot for a further object handle (R312; DEDUCED, log 37). -/
def handleChk (s : State) : Bool × Code × Nat := (65535 ≤ s.store.objs.length, .eNoslot, 0xFFFF)

/-- Checks of MEM_ALLOC. -/
def chkMemAlloc (p : Pkt) (s : State) : Option Fail :=
  let size := fld p 24 8
  let init := fld p 40 8
  let q := (ctxOf s p.ctx).quota
  orFail (firstFails [
    rangeChk p s,
    [(1 < fld p 33 1, .eRange, 33)],
    if init = 0 then [] else addrChk s p.ctx init size 1 40,
    [((fld p 32 1).testBit 1 && !(fld p 32 1).testBit 0, .eCombination, 32)],
    if init = 0 then [] else permChk s p.ctx init size false 40,
    [ (freeFrames s < newPages p, .eNomem, 24),
      (allocInStore p && freeStore s < size, .eNomem, 33),
      (!tablesFit s p.ctx (newRange p s), .eNomem, 16),
      handleChk s,
      (p.ctx != 0 && q.memory < memCharged s p.ctx + size, .eQuota, 24),
      (p.ctx != 0 && allocInStore p && q.stateStore < storeCharged s p.ctx + size, .eQuota, 33)]])
    (if init = 0 then none else wordFail s p.ctx init size 40)

/-- Adds object `o` in the lowest free slot (DESIGN CHOICE, log 9) with the next generation. -/
def addObj (o : MemObj) (s : State) : Nat × State :=
  let k := (freeKey s.store.objs 1 65535).getD 0
  (k, { s with
    store.objs := tput s.store.objs k { o with gen := s.store.objGen, created := s.store.nextObj }
    store.objGen := nextGen s.store.objGen
    store.nextObj := s.store.nextObj + 1 })

/-- The new object of MEM_ALLOC: DRAM frames round robin (R288), state store frames where it is placed there, its mappings. -/
def buildObj (p : Pkt) (s : State) : Nat × State :=
  let fl := fld p 32 1
  let (fs, s1) := allocFrames p.ctx (newPages p) s
  let o : MemObj :=
    { ctx := p.ctx, va := newPage p s * 65536, pages := newPages p, home := fld p 33 1, manual := fl.testBit 3
      read := fl.testBit 0, write := fl.testBit 1, dram := fs, tier := b2n (allocInStore p) }
  let (k, s2) := addObj o s1
  let s3 := if allocInStore p then takeStore k p.ctx (newPages p) s2 else s2
  let x := tgetD s3.store.objs k
  (k, mapPages k (if allocInStore p then x.store else x.dram) s3)

/-- Fills the frames of a new object with its content (R295). -/
def fillObj (k : Nat) (bs : List Byte) (s : State) : State :=
  let o := tgetD s.store.objs k
  (List.range o.pages).foldl (fun t i =>
    match pageFrame t o i with
    | some f => physWrite (f * 65536) ((bs.drop (i * 65536)).take 65536) t
    | none => t) s

/-- MEM_ALLOC: the object is created, filled with its initial content, and with MEASURED its content is measured (R119, R312). -/
def actMemAlloc (p : Pkt) (s : State) : State :=
  let init := fld p 40 8
  let size := fld p 24 8
  let bs := if init = 0 then [] else vread s p.ctx init size
  let (k, s1) := buildObj p s
  let s2 := if init = 0 then s1 else correctedWords (vcorrected s p.ctx init size) (fillObj k bs s1)
  let s3 := if (fld p 32 1).testBit 2 then extendHash p.ctx 4 (if init = 0 then List.replicate size 0 else bs) s2 else s2
  let o := tgetD s3.store.objs k
  settle (completeOk p (mkHandle o.gen k) (o.va % 2 ^ 32) (o.va / 2 ^ 32) s3)

/-- MEM_ALLOC (R303). -/
def execMemAlloc (p : Pkt) (s : State) : Res :=
  runHost p s (fld p 40 8 != 0 && rangeHost s p.ctx (fld p 40 8) (fld p 24 8)) (chkMemAlloc p s) (actMemAlloc p)

/-- Checks of MEM_MAP_HOST. -/
def chkMemMapHost (p : Pkt) (s : State) : Option Fail :=
  firstFails [
    rangeChk p s,
    [ (fld p 32 8 % 65536 != 0, .eAlign, 32),
      ((fld p 40 1).testBit 1 && !(fld p 40 1).testBit 0, .eCombination, 40),
      (!tablesFit s p.ctx (newRange p s), .eNomem, 16),
      handleChk s]]

/-- MEM_MAP_HOST: a host object whose pages map host memory under the context's PASID (R113, R312). -/
def actMemMapHost (p : Pkt) (s : State) : State :=
  let fl := fld p 40 1
  let o : MemObj :=
    { ctx := p.ctx, va := newPage p s * 65536, pages := newPages p, host := true, hostAddr := fld p 32 8, read := fl.testBit 0
      write := fl.testBit 1, tier := 3 }
  let (k, s1) := addObj o s
  let s2 := mapPages k ((List.range (newPages p)).map (· + fld p 32 8 / 65536)) s1
  let x := tgetD s2.store.objs k
  completeOk p (mkHandle x.gen k) (x.va % 2 ^ 32) (x.va / 2 ^ 32) s2

/-- MEM_MAP_HOST (R312). -/
def execMemMapHost (p : Pkt) (s : State) : Res := runCmd p s (chkMemMapHost p s) (actMemMapHost p)

/-! ### MEM_FREE, MEM_PROTECT, MEM_PIN, MEM_QUERY -/

/-- Checks of MEM_FREE. -/
def chkMemFree (p : Pkt) (s : State) : Option Fail :=
  firstFails [objChk p s, sealChk p s, [(pinCount (pObjD p s) != 0, .eBusy, 16)]]

/-- MEM_FREE: at once, or after the page of a move in progress (R304, R312). -/
def actMemFree (p : Pkt) (s : State) : State :=
  let k := pObjK p s
  if engineObj s = some k ∨ s.store.cold.any (fun c => c.obj == some k) then
    handOn p (modMove k (fun m => { m with freeing := some p }) s)
  else finishFree k p s

/-- MEM_FREE (R312). -/
def execMemFree (p : Pkt) (s : State) : Res := runCmd p s (chkMemFree p s) (actMemFree p)

/-- Checks of MEM_PROTECT. -/
def chkMemProtect (p : Pkt) (s : State) : Option Fail :=
  firstFails [objChk p s, [((fld p 20 1).testBit 1 && !(fld p 20 1).testBit 0, .eCombination, 20)], sealChk p s]

/-- MEM_PROTECT: the object's permissions and those of its valid leaves change (R113, R312). -/
def actMemProtect (p : Pkt) (s : State) : State :=
  let o := pObjD p s
  let r := (fld p 20 1).testBit 0
  let w := (fld p 20 1).testBit 1
  let inside := fun (q : Nat) => o.va / 65536 ≤ q && q < o.va / 65536 + o.pages
  let s1 := modObj (pObjK p s) (fun x => { x with read := r, write := w }) s
  completeOk p 0 0 0 (modCtx o.ctx (fun c => { c with pages := tmap c.pages fun q l => if inside q then { l with read := r, write := w } else l }) s1)

/-- MEM_PROTECT (R312). -/
def execMemProtect (p : Pkt) (s : State) : Res := runCmd p s (chkMemProtect p s) (actMemProtect p)

/-- Checks of MEM_PIN (R301). -/
def chkMemPin (p : Pkt) (s : State) : Option Fail :=
  let o := pObjD p s
  let un := (fld p 20 1).testBit 0
  firstFails [objChk p s, [(!un && 65535 ≤ pinCount o, .eRange, 16), (un && o.pinsMem = 0, .eState, 20)]]

/-- MEM_PIN: adds a pin, or removes one that MEM_PIN added (R301). -/
def actMemPin (p : Pkt) (s : State) : State :=
  let un := (fld p 20 1).testBit 0
  let s1 := modObj (pObjK p s) (fun o => { o with pinsMem := if un then o.pinsMem - 1 else o.pinsMem + 1 }) s
  completeOk p (sat 16 (pinCount (pObjD p s1))) 0 0 s1

/-- MEM_PIN (R301). -/
def execMemPin (p : Pkt) (s : State) : Res := runCmd p s (chkMemPin p s) (actMemPin p)

/-- Frames of an object that hold a poisoned word (R308). -/
def poisonedFrames (s : State) (o : MemObj) : Nat :=
  (o.dram.filter fun f => s.store.words.any fun e => e.2 == poisonWord e.1 && e.1 / 4096 == f).length

/-- MEM_QUERY (R312). -/
def actMemQuery (p : Pkt) (s : State) : State :=
  let o := pObjD p s
  completeOk p (o.tier + 4 * o.mstate + 16 * b2n o.manual + 65536 * sat 16 (pinCount o)) o.pages (poisonedFrames s o) s

/-- MEM_QUERY (R312). -/
def execMemQuery (p : Pkt) (s : State) : Res := runCmd p s (firstFails [objChk p s]) (actMemQuery p)

/-! ### MEM_COPY and the end of a transfer (R129, R312) -/

/-- FILL. -/
def copyFill (p : Pkt) : Bool := (fld p 40 1).testBit 0

/-- Checks of MEM_COPY. -/
def chkMemCopy (p : Pkt) (s : State) : Option Fail :=
  let a := fld p 16 8
  let b := fld p 24 8
  let n := fld p 32 8
  let fill := copyFill p
  firstFails [
    if fill then [] else addrChk s p.ctx a n 16 16, addrChk s p.ctx b n 16 24,
    [(n < 16 || 2 ^ 36 < n, .eRange, 32), (n % 16 != 0, .eAlign, 32), (fill && a != 0, .eCombination, 16),
     (!fill && a < b + n && b < a + n, .eCombination, 24)],
    if fill then [] else permChk s p.ctx a n false 16, permChk s p.ctx b n true 24, dmaChk p s]

/-- MEM_COPY starts on a DMA channel; its declared duration is its bytes at 16 GB/s (R312). -/
def actMemCopy (p : Pkt) (s : State) : State := takeDma p ((fld p 32 8 + 15) / 16) false (pinDma p true s)

/-- MEM_COPY (R312). -/
def execMemCopy (p : Pkt) (s : State) : Res := runCmd p s (chkMemCopy p s) (actMemCopy p)

/-- `n` bytes of a 16-byte fill pattern. -/
def fillBytes (pat : List Byte) (n : Nat) : List Byte := (List.replicate ((n + 15) / 16) pat).flatten.take n

/-- What a MEM_COPY that ends with OK has written (R295). -/
def finishCopy (p : Pkt) (s : State) : State :=
  let n := fld p 32 8
  let bs := if copyFill p then fillBytes (slice p.bytes 48 16) n else vread s p.ctx (fld p 16 8) n
  completeOk p (n % 2 ^ 32) 0 0 (vwrite p.ctx (fld p 24 8) bs s)

/-- Failed words in the sources of a transfer, and in the parts of words at the edges of its destination (R296, R297). -/
def dmaBad (s : State) (p : Pkt) : List Nat :=
  ((dmaSrc p).map fun (a, n) => if n = 0 then [] else vbad s p.ctx a n).flatten

/-- Corrected words in the sources of a transfer. -/
def dmaCorrected (s : State) (p : Pkt) : List Nat :=
  distinct (((dmaSrc p).map fun (a, n) => if n = 0 then [] else vcorrected s p.ctx a n).flatten)

/-- Code of a transfer's or an operation's outcome. -/
def doneCode (d : Done) : Option Code :=
  match d with | .ok => none | .lowerTier => some .eLowerTier | .transient => some .eTransient | .internal => some .eInternal

/-- A transfer fails: its destination holds undefined bytes; an internal fault is logged and tears a tenant down (R131, R312). -/
def failDma (c : Nat) (d : Dma) (code : Code) (s : State) : State :=
  let s1 := stopDma c code s
  if code = .eInternal then ripcord d.ctx 5 (internalEvent d.ctx s1) else s1

/-- DMA_TRANSFER_COMPLETE on channel `c`: the lease ends, and the transfer's result is written, or its failed word is charged and its
command ends with the code of R297. A transfer on host memory waits while such requests are held (R482), and one whose islands are off is
not completed with data (R15); the limit of its lease still ends it (R130). -/
def execDmaTransferComplete (c : Nat) (outcome : Done) (s : State) : Res :=
  if 30 < c then .fault .noSuchUnit
  else
    match tget s.store.dma c with
    | none => .next s
    | some d =>
      if held s ∧ dmaHost s d ∨ !keeperOn s ∧ (doneCode outcome).isNone then .next s
      else
        let bad := dmaBad s d.pkt
        let s1 := match doneCode outcome, bad with
          | some code, _ =>
            failDma c d code (match bad.find? fun w => wordCode w == code with | some w => wordEvent w d.ctx s | none => s)
          | none, w :: _ => failDma c d (wordCode w) (wordEvent w d.ctx s)
          | none, [] =>
            let t := correctedWords (dmaCorrected s d.pkt) (dropDma c s)
            if d.convert then finishConvert d.pkt d.arms t else finishCopy d.pkt t
        .next (workEnded (settle s1))

/-! ### MEM_PLACE (R303, R304) -/

/-- The object is Resident, with no request of its own in progress or waiting. -/
def objIdle (p : Pkt) (s : State) : Bool := (moveOf s (pObjK p s)).isNone

/-- Whether a request for a target starts a move at once. -/
def placeStarts (p : Pkt) (s : State) : Bool :=
  let o := pObjD p s
  let t := fld p 20 1
  objIdle p s && t != 3 && !(o.tier == t && (t == 2 || (nextPage s o t).isNone))

/-- Checks of MEM_PLACE. -/
def chkMemPlace (p : Pkt) (s : State) : Option Fail :=
  let o := pObjD p s
  let t := fld p 20 1
  firstFails [
    objChk p s,
    [(3 < t, .eRange, 20), (60000 < fld p 22 2, .eRange, 22), (o.host, .eCombination, 16)],
    sealChk p s,
    [(t = 2 && !coldReady s, .eState, 20), (t = 2 && objIdle p s && pinCount o != 0, .eBusy, 16)],
    if placeStarts p s then stepChk s o t 20 else []]

/-- Whether a request joins the move in progress: the same promotion, or the same eviction (R304). -/
def joinsMove (o : MemObj) (m : Move) (t : Nat) : Bool :=
  m.running && m.target == t && ((o.mstate == 1 && t != 2) || (o.mstate == 3 && t == 2))

/-- MEM_PLACE: joins the move in progress, waits behind it, or starts; a firmware promotion gives way to it, a firmware demotion does not
(R304). -/
def actMemPlace (p : Pkt) (s : State) : State :=
  let k := pObjK p s
  let o := pObjD p s
  let t := fld p 20 1
  let ms := if fld p 22 2 = 0 then 1000 else fld p 22 2
  let m : Move := { obj := k, target := t, pkts := [p], ms := ms }
  let add := fun (m : Move) (u : State) => { u with store.moves := u.store.moves ++ [m] }
  match moveOf s k with
  | none => serveMoves k (add m (handOn p s))
  | some x =>
    if x.pkts.isEmpty && o.mstate == 1 then
      if engineObj s = some k ∨ s.store.cold.any (fun c => c.obj == some k) then
        add m (handOn p (modMove k (fun y => { y with stopping := true }) s))
      else serveMoves k (add m (handOn p (popMove k (modObj k (fun o => { o with mstate := 0 }) s))))
    else if joinsMove o x t then handOn p (modMove k (fun y => { y with pkts := y.pkts ++ [p] }) s)
    else add { m with deferred := t == 2 && o.mstate == 1 } (handOn p s)

/-- MEM_PLACE (R304). -/
def execMemPlace (p : Pkt) (s : State) : Res := runCmd p s (chkMemPlace p s) (actMemPlace p)

/-! ### DRAM channels (R307, R308) -/

/-- The next frame to migrate off a retiring channel: what holds it, its place and the frame; the firmware region first, then objects in order
of their owners' ceilings, then of creation (R307); key-value pools and paused streams after them (DESIGN CHOICE, log 38). -/
def nextMigrate (s : State) (c : Nat) : Option (PageOwner × Nat × Nat) :=
  match (s.store.retiring.bind fun r => if r.channel = c then r.firmware.head? else none) with
  | some f => some (.firmware, 0, f)
  | none =>
  let key := fun (e : Nat × MemObj) => ceilingOf s e.2.ctx * 2 ^ 64 + e.2.created
  let objs := (sortBy (fun a b => decide (key a ≤ key b)) s.store.objs).map fun e => (PageOwner.object e.1, e.2.dram)
  let pools := s.models.pools.map fun e => (PageOwner.pool e.1, e.2.frames)
  let strms := s.models.streams.map fun e => (PageOwner.stream e.1, e.2.frames)
  (objs ++ pools ++ strms).findSome? fun (w, fs) =>
    (fs.zipIdx).findSome? fun (f, i) =>
      if dramChannel (f * 65536) = some c ∧ thas s.store.frames f then some (w, i, f) else none

/-- Context that a migrating frame serves. -/
def ownerCtx (s : State) : PageOwner → Nat
  | .firmware => 0xFFFF
  | .object k => (tgetD s.store.objs k).ctx
  | .pool k => (tgetD s.models.pools k).ctx
  | .stream k => (tgetD s.models.streams k).ctx

/-- The moves of object `k` end with E_LOWER_TIER: those that wait at once, the one under way with them (R308). -/
def loseMoves (k : Nat) (s : State) : State :=
  match moveOf s k with
  | none => s
  | some m =>
    let mine := fun (x : Move) => x.obj == k && !x.running && x.target != 3
    let s1 := ((s.store.moves.filter mine).map Move.pkts).flatten.foldl (fun t p => complete p .eLowerTier 0 0 0 0 t)
      { s with store.moves := s.store.moves.filter fun x => !mine x }
    if !m.running then s1
    else if s.store.cold.any fun c => c.obj == some k then failColdOp k .eLowerTier s1
    else
      match m.freeing with
      | some p => finishFree k p s1
      | none => serveMoves k (endMove k m (some .eLowerTier) s1)

/-- Commands in flight that write or read a lost page and run on no channel and no gang: MEM_COLD_IO, CASC_READ_REEL and the commands queued
behind a step (R308). -/
def lostCommands (h : Nat) (hit : List (Nat × Nat) → Bool) (s : State) : List Pkt :=
  ((s.store.cold.filterMap ColdOp.pkt).filter fun p => h == 0 && hit [(fld p 40 8, ioBytes p)])
    ++ (s.reel.copy.toList.map (fun c => c.pkt)).filter (fun p => h == 0 && hit (commandDest p))
    ++ (s.models.queuePins.filter fun e => e.1.ctx == h && hit [(e.2.1, e.2.2)]).map Prod.fst

/-- Work in flight that needs a lost page ends with E_LOWER_TIER (R308). -/
def losePage (h va : Nat) (s : State) : State :=
  let hit := fun (l : List (Nat × Nat)) => l.any fun (a, n) => a < va + 65536 && va < a + n
  let ds := (s.store.dma.filter fun e => e.2.ctx == h && hit (dmaSrc e.2.pkt ++ dmaDest e.2.pkt)).map Prod.fst
  let rs := s.sched.gangs.filterMap fun (_, x) =>
    match x.cur with
    | some c =>
      match runOf s c.run with
      | some r =>
        let p := runPlan s r
        let leg := legOf p r.counter
        if c.phase = .executing ∧ r.ctx = h ∧ hit (legRanges stageReads r p leg ++ legRanges stageWrites r p leg) then some c.run else none
      | none => none
    | none => none
  let s1 := (lostCommands h hit s).foldl (fun t p => stopCommand p t (code := .eLowerTier)) s
  let s2 := (objsIn s h va 65536).foldl (fun t k => loseMoves k t) s1
  rs.foldl (fun t k => failLeg k .eLowerTier t) (ds.foldl (fun t c => stopDma c .eLowerTier t) s2)

/-- Replaces frame `i` of its holder by frame `g`, and frees the old one. -/
def swapFrame (w : PageOwner) (i f g : Nat) (s : State) : State :=
  let s1 := match w with
    | .object k =>
      let t := modObj k (fun x => { x with dram := x.dram.set i g }) s
      match tget t.store.objs k with
      | some o => if pageFrame t o i = some f then mapPage k i g t else t
      | none => t
    | .firmware => { s with store.frames := tput s.store.frames g fwOwner }
    | .pool k => { s with models.pools := tupd s.models.pools k fun x => { x with frames := x.frames.set i g } }
    | .stream k => modStrm k (fun x => { x with frames := x.frames.set i g }) s
  freeFramesOf [f] s1

/-- A frame of poisoned words (R296, R308). -/
def poisonFrame (g : Nat) (s : State) : State :=
  let s1 := physZero (g * 65536) 65536 s
  { s1 with store.words := (List.range 4096).foldl (fun t i => tput t (g * 4096 + i) (poisonWord (g * 4096 + i))) s1.store.words }

/-- No frame is left for frame `f`, page `i` of its holder: an object's leaf becomes invalid; the frame of a pool or a stream, which no leaf
maps, holds poisoned words where it stands (R308; DEDUCED, log 38). -/
def loseFrame (w : PageOwner) (i f : Nat) (s : State) : State :=
  let s1 := freeFramesOf [f] s
  match w with
  | .object k =>
    let o := tgetD s.store.objs k
    if pageFrame s o i = some f then
      losePage o.ctx (o.va + i * 65536) (modCtx o.ctx (fun c => { c with pages := tdel c.pages (o.va / 65536 + i) }) s1)
    else s1
  | .firmware => s1
  | _ => poisonFrame f s1

/-- Migrates page `i` of its holder off frame `f` (R307, R308): an unreadable frame becomes a poisoned one; with no free frame left its data
is lost. -/
def migrateFrame (r : Retiring) (w : PageOwner) (i f : Nat) (readable : Bool) (s : State) : State :=
  let h := ownerCtx s w
  let bad := !readable || !(physBad s (f * 65536) 65536).isEmpty
  let s0 := chargeWords (f * 65536) 65536 h s
  let objs := match w with
    | .object k => if r.objects.contains k then r.objects else r.objects ++ [k]
    | _ => r.objects
  let r := if w = .firmware then { r with firmware := r.firmware.filter (· != f) } else r
  if freeFrames s0 = 0 then
    loseFrame w i f { s0 with store.retiring := some { r with poisoned := r.poisoned + 1, objects := objs } }
  else
    let (gs, s1) := allocFrames h 1 s0
    let g := gs.headD 0
    let r1 : Retiring := if bad then { r with poisoned := r.poisoned + 1, objects := objs } else { r with migrated := r.migrated + 1, objects := objs }
    let s2 := if bad then poisonFrame g s1 else moveWords (f * 65536) (g * 65536) 65536 s1
    swapFrame w i f g { s2 with store.retiring := some r1 }

/-- MEM_MOVE_PAGE_COMPLETE: the migration engine has copied a page (R302): of the retiring channel first, which takes precedence over
every other move (R307), otherwise of the first move in request order. In the safe state the copy in progress is the last (R407). -/
def execMemMovePageComplete (owner : PageOwner) (readable : Bool) (s0 : State) : Res :=
  if s0.safe.safeState && s0.safe.moveDone then .next s0
  else
  let s := { s0 with safe.moveDone := s0.safe.safeState }
  match s.store.retiring.bind fun r => (nextMigrate s r.channel).map fun x => (r, x) with
  | some (r, w, i, f) => if w = owner then .next (workEnded (settle (migrateFrame r w i f readable s))) else .next s
  | none =>
    match owner with
    | .object k =>
      if engineObj s ≠ some k then .next s
      else
        match moveOf s k, tget s.store.objs k with
        | some m, some o =>
          let t := stepTier o m.target
          match nextPage s o t with
          | some i => .next (workEnded (settle (afterPage k (movePage k i t o s))))
          | none => .next (workEnded (afterPage k s))
        | _, _ => .next s
    | _ => .next s

/-- FIRMWARE_PLACEMENT (R303): no transfer starts in the safe state (R407). -/
def execFirmwarePlacement (s : State) : Res := .next (if s.safe.safeState then s else placeAuto s)

/-- The retirement that waits behind the one that has ended starts; every request for the same channel completes with it, and the channel,
once retired, stays so (R307). -/
def nextRetire (s : State) : State :=
  match s.store.retireQueue with
  | [] => s
  | (c, p) :: t =>
    let s1 := startRetire c p { s with store.retireQueue := t.filter fun e => e.1 != c }
    { s1 with store.retiring := s1.store.retiring.map fun r =>
      { r with pkts := r.pkts ++ ((t.filter fun e => e.1 == c).filterMap Prod.snd) } }

/-- CHANNEL_RETIREMENT_COMPLETE: the last frame has moved, and the channel is retired (R308). -/
def execChannelRetirementComplete (s : State) : Res :=
  match s.store.retiring with
  | none => .next s
  | some r =>
    if (nextMigrate s r.channel).isSome then .next s
    else
      let s1 := { s with
        store.retiring := none
        store.channels := tmod s.store.channels r.channel fun d => { d with state := 2 }
        store.frames := tkeep s.store.frames fun f _ => dramChannel (f * 65536) != some r.channel }
      let s2 := retireReplies 3 r.channel (markRetired 3 r.channel 3 s1)
      let s3 := r.pkts.foldl (fun t p => completeOk p r.migrated r.poisoned r.objects.length t) s2
      .next (workEnded (nextRetire s3))

/-- Checks of MEM_CHANNEL_RETIRE. -/
def chkMemChannelRetire (p : Pkt) (s : State) : Option Fail :=
  let c := fld p 16 1
  firstFail [(15 < c, .eRange, 16), (chRetired s c || channelsOpen s == [c], .eState, 16)]

/-- MEM_CHANNEL_RETIRE: completes when the channel is retired (R307). -/
def actMemChannelRetire (p : Pkt) (s : State) : State := startRetire (fld p 16 1) (some p) (handOn p s)

/-- MEM_CHANNEL_RETIRE (R307). -/
def execMemChannelRetire (p : Pkt) (s : State) : Res := runCmd p s (chkMemChannelRetire p s) (actMemChannelRetire p)

/-- Free frames of a channel: its frames that hold no data; none once it is retired (R312). -/
def channelFree (s : State) (c : Nat) : Nat := if chRetired s c then 0 else framesPerChannel - (fwFrames s c + framesUsed s c)

/-- The 32-byte record of a channel (R312). -/
def channelBytes (s : State) (c : Nat) : List Byte :=
  let d := tgetD s.store.channels c
  let used := if d.state = 2 then 0 else fwFrames s c + framesUsed s c
  let free := channelFree s c
  toLE 1 c ++ toLE 1 d.state ++ toLE 2 0 ++ toLE 4 used ++ toLE 4 free ++ toLE 4 d.corrected ++ toLE 4 d.uncorrectable
    ++ toLE 4 d.address ++ toLE 8 0

/-- Checks of MEM_CHANNELS. -/
def chkMemChannels (p : Pkt) (s : State) : Option Fail := firstFails [destChk p s 512 16, permChk s p.ctx (fld p 16 8) 512 true 16]

/-- MEM_CHANNELS: one record per channel, then the counters are cleared if asked (R312). -/
def actMemChannels (p : Pkt) (s : State) : State :=
  let s1 := vwrite p.ctx (fld p 16 8) ((List.range 16).map (channelBytes s)).flatten s
  let s2 := if (fld p 24 1).testBit 0 then
      { s1 with store.channels := tmap s1.store.channels fun _ d => { d with corrected := 0, uncorrectable := 0, address := 0 } }
    else s1
  completeOk p (channelsOpen s).length (((List.range 16).map (channelFree s)).foldl (· + ·) 0) 0 s2

/-- MEM_CHANNELS (R312). -/
def execMemChannels (p : Pkt) (s : State) : Res := runHost p s false (chkMemChannels p s) (actMemChannels p)

/-! ### The cold tier (R305, R306, R312) -/

/-- Checks of MEM_COLD_IO. -/
def chkMemColdIo (p : Pkt) (s : State) : Option Fail :=
  let a := fld p 40 8
  let toDrive := fld p 17 1 == 1
  orFail (firstFails [
    [(3 < fld p 16 1, .eRange, 16), (1 < fld p 17 1, .eRange, 17), (fld p 32 4 = 0 || 2 ^ 24 < ioBytes p, .eRange, 32)],
    addrChk s 0 a (ioBytes p) 1 40,
    [((coldNs s).contains (fld p 16 1, fld p 20 4), .eDenied, 20)],
    permChk s 0 a (ioBytes p) (!toDrive) 40,
    [(!s.link.x4x4, .eState, 0xFFFF), (chanRetired s 7 1, .eRetired, 0xFFFF), (!s.link.rpUp, .eLowerTier, 0xFFFF)]])
    (if toDrive then wordFail s 0 a (ioBytes p) 40 else none)

/-- MEM_COLD_IO: the NVMe command goes to the drive (R312); the objects at its address are pinned for its duration (R301). -/
def actMemColdIo (p : Pkt) (s : State) : State :=
  let s := if fld p 17 1 = 1 then readWords 0 (fld p 40 8) (ioBytes p) s else s
  let s1 := pinIo p true s
  handOn p { s1 with
    store.cold := s1.store.cold ++ [{ pkt := some p, deadline := s1.time.now + 1000000000 }]
    out := s1.out ++ [.nvme 0 (fld p 17 1) [fld p 16 1, fld p 20 4, fld p 24 8, fld p 32 4]] }

/-- MEM_COLD_IO (R312). -/
def execMemColdIo (p : Pkt) (s : State) : Res := runHost p s (rangeHost s 0 (fld p 40 8) (ioBytes p)) (chkMemColdIo p s) (actMemColdIo p)

/-- The oldest MEM_COLD_IO in flight. -/
def oldestIo (s : State) : Option ColdOp := s.store.cold.find? fun c => c.obj.isNone

/-- Ends the oldest MEM_COLD_IO. Data from the drive that covers only a part of a failed word is discarded for that word, which is charged, and
the command ends with the code of R297 (R296). -/
def endIo (c : ColdOp) (ok : Bool) (s : State) : State :=
  let s1 := { s with store.cold := s.store.cold.filter fun x => x != c }
  match c.pkt with
  | none => s1
  | some p =>
    let s2 := pinIo p false s1
    if !ok then complete p .eLowerTier 0 0 0 0 s2
    else if fld p 17 1 = 1 then completeOk p (fld p 32 4) 0 0 s2
    else
      let s3 := undefine 0 (fld p 40 8) (ioBytes p) s2
      match vedge s 0 (fld p 40 8) (ioBytes p) with
      | w :: _ => complete p (wordCode w) 0 0 0 0 (wordEvent w 0 s3)
      | [] => completeOk p (fld p 32 4) 0 0 s3

/-- COLD_TIER_COMPLETION: an operation on one extent of an object's move completes (R305), or, with object 0, the oldest MEM_COLD_IO; what
a drive gives is outside the model, so the bytes that MEM_COLD_IO reads are free values. -/
def execColdTierCompletion (object : Nat) (ok : Bool) (s : State) : Res :=
  if object = 0 then
    match oldestIo s with
    | some c => if ioWaits c s then .next ((c.pkt.map fun p => hostWait p s).getD s) else .next (workEnded (endIo c ok s))
    | none => .next s
  else
    match s.store.cold.find? fun c => c.obj == some object, tget s.store.objs object, moveOf s object with
    | some c, some o, some m =>
      if !ok ∨ m.freeing.isSome then .next (workEnded (failColdOp object .eLowerTier s))
      else if c.done + 1 < o.pages ∧ m.stopping then .next (workEnded (pausePromote object (c.done + 1) s))
      else if c.done + 1 < o.pages then
        .next { s with store.cold := s.store.cold.map fun x => if x.obj == some object then { x with done := x.done + 1 } else x }
      else .next (workEnded (settle (if o.tier = 2 then finishPromote object o s else finishEvict object o s)))
    | _, _, _ => .next s

/-- COLD_TIER_DEADLINE: the operation ends with E_LOWER_TIER (R306); the deadline of one that waits at a held host-memory request does not
run (R482). -/
def execColdTierDeadline (object : Nat) (s : State) : Res :=
  if object = 0 then
    match oldestIo s with
    | some c => .next (if ioWaits c s then s else workEnded (endIo c false (elapseTo c.deadline s)))
    | none => .next s
  else
    match s.store.cold.find? fun c => c.obj == some object with
    | some c => .next (workEnded (failColdOp object .eLowerTier (elapseTo c.deadline s)))
    | none => .next s

/-! ### The patrol scrubber (R298) -/

/-- PATROL_SCRUB of the word at physical address `word` × 16: a corrected word of a DRAM frame in use or of the state store is rewritten and
counted; a failed one is left. An access to a reserved address completes with no data and is an address fault (R284). -/
def execPatrolScrub (word : Nat) (s : State) : Res :=
  let a := word * 16
  let inUse := match dramChannel a with
    | some c => !chRetired s c && (dramFrame a < 128 || thas s.store.frames (a / 65536))
    | none => a < 0x1800000
  if 2 ^ 40 ≤ a then .fault .noSuchUnit
  else if addrReserved a then .next (settled (addressFault a 0xFFFF s))
  else if inUse && wordAt s a == .corrected then
    .next (settled (correctedWords [word] { s with store.words := tdel s.store.words word }))
  else .next s

end Sys2Proof.Machine
end

