-- ==== Sys2Proof/Machine/CamPipe.lean ====
section
/-! DEFINITION. The image pipeline of a main camera port (12, R315, R318, R319, R323, R326): unpacking, stages, statistics and the
tensor conversion. What the spec leaves open (the interpolations of demosaicing, noise reduction, the scalers' filters) is an open choice. -/

namespace Sys2Proof.Machine

/-- `num / den` rounded to the nearest integer, ties up, at most 65,535 (R144, R318). -/
def round16 (n d : Nat) : Nat := min 65535 ((2 * n + d) / (2 * max 1 d))

/-! ### Unpacking (R315, R318; packing of MIPI CSI-2 PRESUMED, log 29) -/

/-- Samples of a line of an image data type, aligned to the top of 16 bits. YUV422 keeps its byte order U Y V Y. -/
def unpackLine (dt : Nat) (bs : List Byte) : List Nat :=
  let b := fun i => num bs i 1
  let group := fun (len per : Nat) (f : Nat → Nat → Nat) =>
    ((List.range (bs.length / len)).map fun g => (List.range per).map fun j => f (g * len) j).flatten
  match dt with
  | 0x2B => group 5 4 fun o j => (b (o + j) * 4 + b (o + 4) / 4 ^ j % 4) * 64
  | 0x2C => group 3 2 fun o j => (b (o + j) * 16 + b (o + 2) / 16 ^ j % 16) * 16
  | 0x2D => group 7 4 fun o j => (b (o + j) * 64 + num bs (o + 4) 3 / 64 ^ j % 64) * 4
  | 0x2E => group 2 1 fun o _ => b o * 256 + b (o + 1)
  | _ => bs.map fun x => x.toNat * 256

/-- Samples that a line of the configured width has. -/
def lineSamples (c : CamPort) : Nat := if c.dt = 0x1E then 2 * c.width else c.width

/-- A line as the pipeline takes it: pixels beyond the width dropped, a short line padded with zeros (R316). -/
def lineRow (c : CamPort) (bs : List Byte) : List Nat :=
  let l := unpackLine c.dt bs
  (List.range (lineSamples c)).map fun i => l.getD i 0

/-! ### A frame in the pipeline -/

/-- The frame that a port's pipeline works on. -/
structure Pipe where
  cfg : CamPort
  frame : CamFrame
  key : Key

/-- Stage `i` is enabled. -/
def Pipe.on (p : Pipe) (i : Nat) : Bool := p.frame.enable.testBit i
/-- Section `i` as loaded; none while it holds the identity. -/
def Pipe.sec (p : Pipe) (i : Nat) : Option (List Byte) := tget p.frame.sections i
/-- The table of section `i`. -/
def Pipe.table (p : Pipe) (i : Nat) : List Byte := tgetD p.frame.tables i
/-- A colour filter pattern. -/
def Pipe.bayer (p : Pipe) : Bool := p.cfg.dt != 0x1E && p.cfg.pattern < 4

/-- Colour of pattern position 0–3 (top-left, top-right, bottom-left, bottom-right): 0 R, 1 G, 2 B (R332). -/
def colourAt (pattern pos : Nat) : Nat :=
  match pattern with
  | 0 => [0, 1, 1, 2].getD pos 1 | 1 => [1, 0, 2, 1].getD pos 1 | 2 => [1, 2, 0, 1].getD pos 1 | _ => [2, 1, 1, 0].getD pos 1

/-- Pattern position of a pixel. -/
def posOf (y x : Nat) : Nat := 2 * (y % 2) + x % 2

/-- A plane of values: rows from the top. -/
abbrev Plane := List (List Nat)
/-- Value of a pixel. -/
def Plane.at (p : Plane) (y x : Nat) : Nat := (p.getD y []).getD x 0
/-- Maps each pixel with its place. -/
def Plane.mapAt {α : Type} (p : Plane) (f : Nat → Nat → Nat → α) : List (List α) := p.mapIdx fun y r => r.mapIdx fun x v => f y x v

/-- A pixel of three colours. -/
abbrev Rgb := Nat × Nat × Nat

/-- The frame's rows at the configured height, missing lines zero (R316, R317). -/
def Pipe.raw (p : Pipe) : Plane :=
  (List.range p.cfg.height).map fun y => p.frame.rows.getD y (List.replicate (lineSamples p.cfg) 0)

/-! ### The stages (R318) -/

/-- Bit 0, black level. -/
def blackLevel (p : Pipe) (pl : Plane) : Plane :=
  match p.sec 0 with
  | none => pl
  | some s => pl.mapAt fun y x v =>
    let o := num s (2 * posOf y x) 2
    if v ≤ o then 0 else round16 ((v - o) * 65535) (65535 - o)

/-- The same-colour neighbours of a pixel; for green both the nearest eight and the eight of its own position are a reading. -/
def neighbours (p : Pipe) (green : Bool) : List (Int × Int) :=
  let d : Int := if p.bayer then 2 else 1
  let c : Int := if p.bayer && green && pick (0 :: p.key) 2 = 0 then 1 else d
  [(-d, 0), (d, 0), (0, -d), (0, d), (-c, -c), (-c, c), (c, -c), (c, c)]

/-- Values sorted in rising order. -/
def sorted (l : List Nat) : List Nat := sortBy (fun a b => decide (a ≤ b)) l

/-- Bit 1, defect correction: each pixel with whether it was corrected. The median of eight lies between the two middle values; a pixel
without all its neighbours has no stated value. -/
def defects (p : Pipe) (pl : Plane) : List (List (Nat × Bool)) :=
  match p.sec 1 with
  | none => pl.mapAt fun _ _ v => (v, false)
  | some s =>
    let hot := num s 0 2
    let cold := num s 2 2
    let t := p.table 1
    let listed := (List.range (num s 4 2)).map fun i => (num t (4 * i) 2, num t (4 * i + 2) 2)
    let h := p.cfg.height
    let w := p.cfg.width
    pl.mapAt fun y x v =>
      let k := fun i => i :: x :: y :: 1 :: p.key
      let green := p.bayer && colourAt p.cfg.pattern (posOf y x) == 1
      let at_ := (neighbours p green).filterMap fun (dy, dx) =>
        let yy := (y : Int) + dy
        let xx := (x : Int) + dx
        if 0 ≤ yy ∧ 0 ≤ xx ∧ yy < h ∧ xx < w then some (pl.at yy.toNat xx.toNat) else none
      let given := listed.contains (x, y)
      if at_.length < 8 then
        if given || ((hot != 0 || cold != 0) && pick (k 0) 2 = 1) then (pick (k 1) 65536, true) else (v, false)
      else
        let l := sorted at_
        let med := l.getD 3 0 + pick (k 2) (l.getD 4 0 - l.getD 3 0 + 1)
        if given || (hot != 0 && l.getD 7 0 + hot < v) || (cold != 0 && v + cold < l.getD 0 0) then (med, true) else (v, false)

/-- Bit 2, lens shading: the gain at a pixel is interpolated exactly between the nodes around it. -/
def lensShading (p : Pipe) (pl : Plane) : Plane :=
  match p.sec 2 with
  | none => pl
  | some s =>
    let nx := num s 0 1
    let ny := num s 1 1
    let t := p.table 2
    let w1 := max 1 (p.cfg.width - 1)
    let h1 := max 1 (p.cfg.height - 1)
    pl.mapAt fun y x v =>
      let i := min (nx - 2) (x * (nx - 1) / w1)
      let j := min (ny - 2) (y * (ny - 1) / h1)
      let fx := x * (nx - 1) - i * w1
      let fy := y * (ny - 1) - j * h1
      let pos := posOf y x
      let g := fun a b => num t (8 * (b * nx + a) + 2 * pos) 2
      let top := g i j * (w1 - fx) + g (i + 1) j * fx
      let bot := g i (j + 1) * (w1 - fx) + g (i + 1) (j + 1) * fx
      round16 (v * (top * (h1 - fy) + bot * fy)) (w1 * h1 * 16384)

/-- Bit 3, white balance. -/
def whiteBalance (p : Pipe) (pl : Plane) : Plane :=
  match p.sec 3 with
  | none => pl
  | some s => pl.mapAt fun y x v => round16 (v * num s (2 * posOf y x) 2) 4096

/-- The window of 2r + 1 rows and columns around a pixel, row by row: `f` of each place inside the frame, none beyond it. -/
def windowAt {α : Type} (p : Pipe) (r y x : Nat) (f : Nat → Nat → Option α) : List (Option α) :=
  ((List.range (2 * r + 1)).map fun j => (List.range (2 * r + 1)).map fun i =>
    if r ≤ y + j ∧ r ≤ x + i ∧ y + j - r < p.cfg.height ∧ x + i - r < p.cfg.width then f (y + j - r) (x + i - r) else none).flatten

/-- Colour of a pixel of a colour filter pattern. -/
def Pipe.own (p : Pipe) (y x : Nat) : Nat := colourAt p.cfg.pattern (posOf y x)

/-- `n / d` rounded to the nearest integer, ties away from zero (R144). -/
def roundDiv (n : Int) (d : Nat) : Int :=
  let q := ((2 * n.natAbs + d) / (2 * max 1 d) : Nat)
  if n < 0 then -(q : Int) else q

/-- Demosaicing's green of a pixel (R318): its own, or interpolated along the direction of the smaller gradient, both directions averaged where the
gradients differ by less than the edge threshold. How the gradients and each direction's green follow from the 5 × 5 window is open. -/
def greenAt (p : Pipe) (pl : Plane) (edge y x v : Nat) : Nat :=
  if p.own y x = 1 then v
  else
    let all := windowAt p 2 y x fun j i => some (pl.at j i)
    let greens := windowAt p 2 y x fun j i => if p.own j i = 1 then some (pl.at j i) else none
    let gh := Config.gradient true all
    let gv := Config.gradient false all
    let h := (Config.greenAlong true greens).toNat
    let w := (Config.greenAlong false greens).toNat
    if max gh gv - min gh gv < edge then round16 (h + w) 2 else if gh < gv then h else w

/-- Bit 4, demosaicing: green first, then red and blue from their differences with green, which false-colour suppression pulls toward 0 in
proportion to its strength (R318). A pixel's own difference is exact; how those of the 5 × 5 window give another's is open. -/
def demosaic (p : Pipe) (pl : Plane) : List (List Rgb) :=
  if !p.bayer || !p.on 4 then pl.mapAt fun _ _ v => (v, v, v)
  else
    let edge := ((p.sec 4).map fun s => num s 0 2).getD 0
    let sup := ((p.sec 4).map fun s => num s 2 1).getD 0
    let gr := pl.mapAt (greenAt p pl edge)
    pl.mapAt fun y x v =>
      let diff := fun c j i => if p.own j i = c then some ((pl.at j i : Int) - Plane.at gr j i) else none
      let f := fun c =>
        if p.own y x = c ∧ sup = 0 then v
        else
          let d := if p.own y x = c then (v : Int) - Plane.at gr y x else Config.diffAt (windowAt p 2 y x (diff c))
          (min 65535 (max 0 ((Plane.at gr y x : Int) + roundDiv (d * (255 - sup : Nat)) 255))).toNat
      (f 0, Plane.at gr y x, f 2)

/-- An exact number of 1/4096 rounded by R144 and clamped to 0–65,535. -/
def clamp16 (n : Int) : Nat := min 65535 (roundInt .away (n < 0) n.natAbs (-12)).toNat

/-- Bit 5, the colour matrix. -/
def colourMatrix (p : Pipe) (im : List (List Rgb)) : List (List Rgb) :=
  match p.sec 5 with
  | none => im
  | some s =>
    let m := fun i => signed 16 (num s (2 * i) 2)
    let row := fun i (c : Rgb) =>
      clamp16 (m (3 * i) * (c.1 : Int) + m (3 * i + 1) * (c.2.1 : Int) + m (3 * i + 2) * (c.2.2 : Int) + 4096 * m (9 + i))
    im.map fun r => r.map fun c => (row 0 c, row 1 c, row 2 c)

/-- A 16-bit value from an exact fraction of full scale, clamped (R144, R318). -/
def scale16 (n : Int) (d : Nat) : Nat := min 65535 (roundDiv (65535 * max 0 n) d).toNat

/-- RGB of a YCbCr pixel by the BT.709 matrix (R318), from samples aligned to 16 bits. Whether the input has full or limited range is open. -/
def bt709 (full : Bool) (y u v : Nat) : Rgb :=
  let ny : Int := if full then y else (y : Int) - 4096
  let dy : Nat := if full then 65280 else 56064
  let dc : Nat := if full then 65280 else 57344
  let r : Int := 10000 * ny * dc + 15748 * ((v : Int) - 32768) * dy
  let b : Int := 10000 * ny * dc + 18556 * ((u : Int) - 32768) * dy
  let d : Nat := 10000 * dy * dc
  (scale16 r d, scale16 (10000 * (10000 * ny * dc) - 2126 * r - 722 * b) (7152 * d), scale16 b d)

/-- YUV422 to RGB by the BT.709 matrix: the pixels of a pair share their chroma samples, the second's may be interpolated with the next pair's
(the spec does not say). -/
def yuvToRgb (p : Pipe) : List (List Rgb) :=
  let rows := p.raw
  (List.range p.cfg.height).map fun y => (List.range p.cfg.width).map fun x =>
    let s := fun i => rows.at y i
    let g := x / 2 * 4
    let n := if g + 4 < 2 * p.cfg.width then g + 4 else g
    let c := fun i => if x % 2 = 1 ∧ pick (5 :: p.key) 2 = 1 then (s (g + i) + s (n + i) + 1) / 2 else s (g + i)
    bt709 (pick (4 :: p.key) 2 = 1) (s (2 * x + 1)) (c 0) (c 2)

/-- Bit 6, noise reduction: without strength it changes nothing; otherwise its result is open. -/
def noiseReduction (p : Pipe) (im : List (List Rgb)) : List (List Rgb) :=
  match p.sec 6 with
  | none => im
  | some s =>
    if num s 0 2 = 0 then im
    else im.mapIdx fun y r => r.mapIdx fun x _ =>
      let f := fun c => pick (c :: x :: y :: 6 :: p.key) 65536
      (f 0, f 1, f 2)

/-- Bit 7, tone mapping: linear interpolation between 257 points over the full scale. -/
def toneMap (p : Pipe) (im : List (List Rgb)) : List (List Rgb) :=
  match p.sec 7 with
  | none => im
  | some s =>
    let t := p.table 7
    let f := fun c v =>
      let base := if (num s 0 1).testBit 0 then 514 * c else 0
      let i := min 255 (v * 256 / 65535)
      let fr := v * 256 - i * 65535
      let n := num t (base + 2 * i) 2 * (65535 - fr) + num t (base + 2 * i + 2) 2 * fr
      round16 n 65535
    im.map fun r => r.map fun c => (f 0 c.1, f 1 c.2.1, f 2 c.2.2)

/-- What the stages give: the plane after lens shading, the colours after demosaicing, after the colour matrix, after noise reduction
and after tone mapping, and the number of pixels corrected. -/
structure Stages where
  shaded : Plane := []
  colours : List (List Rgb) := []
  matrix : List (List Rgb) := []
  clean : List (List Rgb) := []
  toned : List (List Rgb) := []
  corrected : Nat := 0
  deriving Repr, Inhabited

/-- All stages in table order (R318). -/
def runStages (p : Pipe) : Stages :=
  let iff := fun {α : Type} (i : Nat) (f : α → α) (x : α) => if p.on i then f x else x
  let fin := fun (st : Stages) =>
    let c := iff 6 (noiseReduction p) st.matrix
    { st with clean := c, toned := iff 7 (toneMap p) c }
  if p.cfg.dt = 0x1E then
    let im := yuvToRgb p
    fin { colours := im, matrix := im }
  else
    let d := if p.on 1 then defects p (iff 0 (blackLevel p) p.raw) else (iff 0 (blackLevel p) p.raw).mapAt fun _ _ v => (v, false)
    let sh := iff 2 (lensShading p) (d.map fun r => r.map Prod.fst)
    let im := demosaic p (if p.bayer then iff 3 (whiteBalance p) sh else sh)
    fin { shaded := sh, colours := im, matrix := if p.bayer then iff 5 (colourMatrix p) im else im
          corrected := (d.map fun r => (r.filter Prod.snd).length).foldl (· + ·) 0 }

/-! ### Statistics (R326) -/

/-- Luma of a pixel. -/
def lumaOf (c : Rgb) : Nat := round16 (2126 * c.1 + 7152 * c.2.1 + 722 * c.2.2) 10000

/-- Zone of coordinate `c` among `n` over `len`: even sizes, the last zone takes the rest. -/
def zoneOf (n len c : Nat) : Nat := let z := len / n / 2 * 2; if z = 0 then n - 1 else min (n - 1) (c / z)

/-- One entry of a keyed sum. -/
def addAt (k n : Nat) (t : Tbl Nat) : Tbl Nat := tput t k ((tget t k).getD 0 + n)

/-- The statistics record after its header (R326): histogram, white-balance grid, focus grid over the statistics window. -/
def camStats (p : Pipe) (st : Stages) : List Byte :=
  let s := (p.sec 8).getD []
  let x0 := num s 0 2
  let y0 := num s 2 2
  let w := num s 4 2
  let h := num s 6 2
  let lvl := num s 8 2
  let px := ((List.range h).map fun y => (List.range w).map fun x => (y, x)).flatten
  let lum := if pick (8 :: p.key) 2 = 0 then st.matrix else st.clean
  let grn := if pick (9 :: p.key) 2 = 0 then st.colours else st.matrix
  let rgb := fun (im : List (List Rgb)) y x => (im.getD (y0 + y) []).getD (x0 + x) (0, 0, 0)
  let hist := px.foldl (fun t (y, x) => addAt (lumaOf (rgb lum y x) / 256) 1 t) []
  let wb := px.foldl (fun t (y, x) =>
    let z := 4 * (32 * zoneOf 24 h y + zoneOf 32 w x)
    if p.cfg.dt = 0x1E then
      let (r, g, b) := rgb st.colours y x
      if r < lvl ∧ g < lvl ∧ b < lvl then addAt (z + 3) 1 (addAt (z + 2) b (addAt (z + 1) g (addAt z r t))) else t
    else
      let v := st.shaded.at (y0 + y) (x0 + x)
      if lvl ≤ v then t
      else if p.bayer then addAt (z + 3) 1 (addAt (z + colourAt p.cfg.pattern (posOf (y0 + y) (x0 + x))) v t)
      else addAt (z + 3) 1 (addAt (z + 2) v (addAt (z + 1) v (addAt z v t)))) []
  let focus := px.foldl (fun t (y, x) =>
    let z := 2 * (16 * zoneOf 12 h y + zoneOf 16 w x)
    let g := fun i => (rgb grn y i).2.1
    let r := if x = 0 ∨ x + 1 = w then pick (x :: y :: 10 :: p.key) 131071
      else ((2 * g x : Nat) - (g (x - 1) : Int) - (g (x + 1) : Int)).natAbs
    addAt (z + 1) 1 (addAt z r t)) []
  let words := fun (t : Tbl Nat) n => ((List.range n).map fun i => toLE 4 (sat 32 ((tget t i).getD 0))).flatten
  words hist 256 ++ words wb 3072 ++ words focus 384

/-! ### The outputs (R323) -/

/-- The tensor output's value of a scaled pixel value (R323): (v / 65,535 − mean) × scale in FP32. -/
def tensVal (v mean scale : Nat) : Val := fmul (fsub (fdiv (vNat v) (vNat 65535)) (ofBin fp32 mean)) (ofBin fp32 scale)

/-- Its code in the output format, and whether it was clipped (R144, R152). -/
def tensCode (k : Key) (f : Nat) (x : Val) : Nat × Bool :=
  match f with
  | 0x01 => (f32Word k x, false)
  | 0x02 => (toBin bf16 .away (Config.pick k) x, false)
  | f => let e := encodeVal f none x vOne; (e.code, e.beyond)

/-- The crop window (x, y, width, height) of one colour of an image. -/
def cropOf (im : List (List Rgb)) (crop : List Nat) (f : Rgb → Nat) : Plane :=
  (List.range (crop.getD 3 0)).map fun j => (List.range (crop.getD 2 0)).map fun i =>
    f ((im.getD (crop.getD 1 0 + j) []).getD (crop.getD 0 0 + i) (0, 0, 0))

/-- An image scaled to `w` × `h`, colour by colour (R323). -/
def scaledTo (im : List (List Rgb)) (crop : List Nat) (w h : Nat) : List (List Rgb) :=
  let r := cropOf im crop Prod.fst
  let g := cropOf im crop (·.2.1)
  let b := cropOf im crop (·.2.2)
  let at_ := fun (pl : Plane) y x => (Config.scaler pl w h x y).toNat
  (List.range h).map fun y => (List.range w).map fun x => (at_ r y x, at_ g y x, at_ b y x)

/-- The tensor scaler's image: after tone mapping, or after the colour matrix with LINEAR (R323). -/
def tensImage (st : Stages) (o : CamOut) : List (List Rgb) :=
  scaledTo (if o.flags.testBit 2 then st.matrix else st.toned) o.tensCrop o.tensW o.tensH

/-- Plane `c` of the tensor output's order: RGB, BGR or luma (R323). -/
def planeOf (order c : Nat) (v : Rgb) : Nat :=
  if order = 2 then lumaOf v else if (if order = 1 then 2 - c else c) = 0 then v.1 else if c = 1 then v.2.1 else v.2.2

/-- One plane of the tensor output with its clips. Which mean and scale a plane of BGR order takes is open. -/
def tensPlaneOut (p : Pipe) (im : List (List Rgb)) (o : CamOut) (c : Nat) : List Byte × Nat :=
  let i := if o.order = 1 ∧ pick (20 :: p.key) 2 = 1 then 2 - c else c
  let rows := im.mapIdx fun y r => r.mapIdx fun x v =>
    tensCode (x :: y :: c :: 21 :: p.key) o.fmt (tensVal (planeOf o.order c v) (o.means.getD i 0) (o.scales.getD i 0))
  ((rows.map fun r => packRow o.fmt (r.map Prod.fst)).flatten, (rows.map fun r => (r.filter Prod.snd).length).foldl (· + ·) 0)

/-- Luma code of a pixel by BT.709 at limited range, in 2^`k` times the 8-bit code (R144, R323). -/
def lumaCode (k : Nat) (v : Rgb) : Nat :=
  16 * 2 ^ k + (roundDiv (219 * 2 ^ k * (2126 * v.1 + 7152 * v.2.1 + 722 * v.2.2 : Nat)) (10000 * 65535)).toNat

/-- Chroma code of a pixel by BT.709 at limited range: Cb, or Cr (R144, R323). -/
def chromaCode (k : Nat) (cr : Bool) (v : Rgb) : Nat :=
  let c : Int := 10000 * (if cr then v.1 else v.2.2) - (2126 * v.1 + 7152 * v.2.1 + 722 * v.2.2 : Nat)
  ((128 * 2 ^ k : Nat) + roundDiv (224 * (2 ^ k : Nat) * c) ((if cr then 15748 else 18556) * 65535)).toNat

/-- The chroma pixel of a 2 × 2 group: colour by colour from its pixels. -/
def chromaPixel (im : List (List Rgb)) (y x : Nat) : Rgb :=
  let px := fun j i => (im.getD (2 * y + j) []).getD (2 * x + i) ((im.getD (2 * y) []).getD (2 * x) (0, 0, 0))
  let f := fun (g : Rgb → Nat) => (Config.chromaDown [g (px 0 0), g (px 0 1), g (px 1 0), g (px 1 1)]).toNat
  (f Prod.fst, f (·.2.1), f (·.2.2))

/-- The display output (R323): the image after tone mapping, scaled; NV12 and P010 by BT.709 at limited range, with the chroma plane after the
luma plane; RGB888 interleaved, whose 8-bit code is of 255 or of 256 parts of full scale (open). Row padding is open. -/
def dispOut (p : Pipe) (st : Stages) (o : CamOut) (stride : Nat) : List Byte :=
  let im := scaledTo st.toned o.dispCrop o.dispW o.dispH
  let pad := fun y (l : List Byte) => l ++ (List.range (stride - l.length)).map fun i => BitVec.ofNat 8 (pick (i :: y :: 22 :: p.key) 256)
  let yuv := fun (k : Nat) (code : Nat → List Byte) =>
    (im.mapIdx fun y r => pad y (r.map fun v => code (lumaCode k v)).flatten).flatten
      ++ ((List.range ((o.dispH + 1) / 2)).map fun y => pad (o.dispH + y) ((List.range o.dispW).map fun x =>
        code (chromaCode k (x % 2 == 1) (chromaPixel im y (x / 2)))).flatten).flatten
  match o.dispFmt with
  | 1 => yuv 0 (toLE 1)
  | 2 => yuv 2 fun c => toLE 2 (c * 64)
  | _ =>
    let f := fun v => if pick (23 :: p.key) 2 = 0 then round16 (v * 255) 65535 else min 255 ((v + 128) / 256)
    (im.mapIdx fun y r => pad y (r.map fun v => [BitVec.ofNat 8 (f v.1), BitVec.ofNat 8 (f v.2.1), BitVec.ofNat 8 (f v.2.2)]).flatten).flatten

end Sys2Proof.Machine
end

