-- ==== Sys2Proof/Machine/Camera.lean ====
section
/-! DEFINITION. Cameras (12): the ports, their frame rings and windows, the privacy gate and the presence port. Layouts, seals,
checksums, flags and counts are computed here, the images in CamPipe. -/

namespace Sys2Proof.Machine

/-- Port `n`. -/
def camOf (s : State) (n : Nat) : Cam := tgetD s.cams.ports n

/-- The reflected polynomial 0x82F63B78 folded once per bit (R325). -/
def crcBits : Nat → Nat → Nat
  | 0, c => c
  | k + 1, c => crcBits k (if c % 2 = 1 then (c / 2) ^^^ 0x82F63B78 else c / 2)

/-- CRC-32C of R325: polynomial 0x1EDC6F41, reflected, initial value and final XOR 0xFFFFFFFF. -/
def crc32c (bs : List Byte) : Nat := (bs.foldl (fun c b => crcBits 8 (c ^^^ b.toNat)) 0xFFFFFFFF) ^^^ 0xFFFFFFFF

/-! ### Layouts (R315, R321, R323, R324) -/

/-- Bits per pixel of an image data type; 0 for a type that is no image type (R315). -/
def dtBits (dt : Nat) : Nat :=
  match dt with
  | 0x2A => 8 | 0x2B => 10 | 0x2C => 12 | 0x2D => 14 | 0x2E => 16 | 0x1E => 16 | _ => 0

/-- Payload bytes of a whole frame as configured (R330). -/
def frameBytes (c : CamPort) : Nat := c.width * dtBits c.dt / 8 * c.height

/-- DISPLAY enabled (R332). -/
def hasDisplay (o : CamOut) : Bool := o.flags.testBit 0
/-- TENSOR enabled (R332). -/
def hasTensor (o : CamOut) : Bool := o.flags.testBit 1

/-- Row stride of the display output (R323): rows start on 16-byte boundaries. -/
def dispStride (o : CamOut) : Nat :=
  roundUp (match o.dispFmt with | 1 => o.dispW | 2 => 2 * o.dispW | _ => 3 * o.dispW) 16

/-- Bytes of the display output: for NV12 and P010 the chroma plane follows the luma plane (R323). -/
def dispBytes (o : CamOut) : Nat :=
  if !hasDisplay o then 0
  else if o.dispFmt = 3 then dispStride o * o.dispH
  else dispStride o * o.dispH + dispStride o * ((o.dispH + 1) / 2)

/-- Offset of the tensor output in the slot (R321). -/
def tensOffset (o : CamOut) : Nat := roundUp (16384 + dispBytes o) 4096

/-- Row stride of the tensor output (R323). -/
def tensStride (o : CamOut) : Nat := roundUp (o.tensW * (codeBits o.fmt / 8)) 16

/-- Plane stride of the tensor output (R323). -/
def tensPlane (o : CamOut) : Nat := tensStride o * o.tensH

/-- Planes of the tensor output: one for luma (R323). -/
def tensPlanes (o : CamOut) : Nat := if o.order = 2 then 1 else 3

/-- Slot size: the total rounded up to 65,536 (R321). -/
def slotBytes (o : CamOut) : Nat :=
  roundUp (if hasTensor o then tensOffset o + tensPlane o * tensPlanes o else 16384 + dispBytes o) 65536

/-- The frame seal (R325). -/
def sealOf (number start crc port : Nat) (muted : Bool) : List Byte :=
  toLE 8 number ++ toLE 8 start ++ toLE 4 crc ++ toLE 1 port ++ toLE 1 (b2n muted) ++ toLE 2 0

/-- The frame record before its done word (R324). -/
def frameRecord (f : CamFrame) (sealed : List Byte) (o : CamOut) (ended defects clips : Nat) (display tensor : List Byte) : List Byte :=
  let crcs := (List.range 3).map fun i =>
    if hasTensor o && i < tensPlanes o then crc32c (slice tensor (tensPlane o * i) (tensPlane o)) else 0
  let d := b2n (hasDisplay o)
  let t := b2n (hasTensor o)
  sealed ++ toLE 8 ended ++ toLE 4 f.flags ++ toLE 4 f.params ++ toLE 2 f.lines ++ toLE 2 0 ++ toLE 4 defects ++ toLE 4 clips
    ++ toLE 4 0 ++ (crcs.map (toLE 4)).flatten ++ toLE 4 (if hasDisplay o then crc32c display else 0)
    ++ toLE 4 (16384 * d) ++ toLE 4 (dispStride o * d) ++ toLE 4 (tensOffset o * t) ++ toLE 4 (tensStride o * t)
    ++ toLE 4 (tensPlane o * t) ++ List.replicate 160 0

/-! ### Frames (R316, R317, R320, R322, R325) -/

/-- Frame flags of R324. -/
def fMuted : Nat := 1
def fTruncated : Nat := 2
def fCrc : Nat := 4
def fEcc : Nat := 8
def fEarly : Nat := 16
def fLength : Nat := 32

/-- The slot that the next frame takes (R322): an unused slot first, in slot order, otherwise the one completed longest ago;
never the newest completed slot, a held one, or one that an earlier frame is still being written into. -/
def pickSlot (c : Cam) (o : CamOut) : Option Nat :=
  let newest := (newestSlot c).map Prod.fst
  let busy := fun k => c.finishing.any fun f => f.slot == some k && f.out == o
  let free := (List.range o.slots).filter fun k => !busy k && some k != newest && (tgetD c.slots k).holds == 0
  match free.find? fun k => (tgetD c.slots k).order == 0 with
  | some k => some k
  | none => free.find? fun k => free.all fun j => (tgetD c.slots k).order ≤ (tgetD c.slots j).order

/-- A frame starts on port `n` (R320, R322, R325): it takes the next number and a slot, whose done word becomes 0 first. -/
def beginFrame (n flags : Nat) (s : State) : State :=
  let c := camOf s n
  let o := c.out.getD {}
  let slot := pickSlot c o
  let st := (tget c.sections 8).getD []
  let f : CamFrame :=
    { number := c.frameNo + 1, slot := slot, start := s.time.now, flags := flags, params := c.paramSet, enable := c.enableMask
      statPixels := num st 4 2 * num st 6 2, sections := c.sections, tables := c.tables, cfg := c.port.getD {}, out := o }
  let s1 := modCam n (fun c =>
    { c with
      frameNo := c.frameNo + 1, frame := some f
      slots := match slot with | some k => tput c.slots k {} | none => c.slots }) s
  match slot with
  | some k => vwrite c.owner (o.ring + k * o.size + 252) (toLE 4 0) s1
  | none => s1

/-- A CAM_STOP that waited takes effect at the frame end: the ended frame's slot still completes (log 29). -/
def stopAtEnd (n : Nat) (s : State) : State :=
  let c := camOf s n
  if c.stop.isEmpty then s
  else modCam n (fun d => { d with finishing := c.finishing }) (stopCam n s)

/-- The frame in progress on port `n` ends with further flags (R316, R330, R332). -/
def endFrame (n flags : Nat) (s : State) : State :=
  match (camOf s n).frame with
  | none => s
  | some f =>
    let fl := f.flags ||| flags
    let g := { f with flags := fl, ended := some s.time.now }
    stopAtEnd n (modCam n (fun c =>
      { c with
        frame := none, finishing := c.finishing ++ [g]
        truncated := if fl.testBit 1 then sat 16 (c.truncated + 1) else c.truncated }) s)

/-- Ends the frame at a frame start or end: TRUNCATED where lines are missing or the frame was cut (R316, R317). -/
def endLines (n extra : Nat) (s : State) : State :=
  let c := camOf s n
  match c.frame with
  | none => s
  | some f => endFrame n (extra ||| (if f.lines < (c.port.getD {}).height || f.cut then fTruncated else 0)) s

/-- A muted frame of port `n` (R330): numbered, sealed at this time, and ended at once. -/
def mutedFrame (n : Nat) (s : State) : State :=
  let s1 := modCam n (fun c => { c with lastStart := some s.time.now }) s
  endFrame n 0 (beginFrame n fMuted s1)

/-- A packet that the port does not take (R316). -/
def dropPacket (n : Nat) (s : State) : State := modCam n (fun c => { c with dropped := sat 16 (c.dropped + 1) }) s

/-- A link error of port `n` (R316, R393): soft for a corrected header, hard for an uncorrectable header or a failed CRC. -/
def camLinkError (n : Nat) (hard : Bool) (s : State) : State :=
  let c := camOf s n
  let w := if hard then s.safe.cfg.wHard else s.safe.cfg.wSoft
  chanEvent 0x09 4 n 0 c.owner w 0 c.frameNo s

/-- Whether the receiver of port `n` takes packets (R329, R332). -/
def camReceives (s : State) (n : Nat) : Bool := (camOf s n).state == 2 && !s.cams.gate

/-- CSI_FRAME_START (R316, R320, R322, R325, R389). -/
def execCsiFrameStart (n vc : Nat) (ecc : CsiEcc) (s : State) : Res :=
  if 11 < n then .fault .noSuchUnit
  else if !camReceives s n then .next s
  else
    let c := camOf s n
    let cfg := c.port.getD {}
    match ecc with
    | .bad => .next (settled (camLinkError n true (dropPacket n s)))
    | _ =>
      if vc ≠ cfg.vc then .next (dropPacket n s)
      else
        let s1 := endLines n fTruncated s
        if (camOf s1 n).state ≠ 2 then .next (settle s1)
        else
          let now := s1.time.now
          let early := cfg.minUs != 0 && ((c.lastStart.map fun t => decide (now < t + cfg.minUs * 1000)).getD false)
          let flags := (if early then fEarly else 0) ||| (if ecc = .corrected then fEcc else 0)
          let s2 := modCam n (fun c => { c with lastStart := some now, interval := (c.lastStart.map fun t => now - t).or c.interval }) s1
          let s3 := beginFrame n flags s2
          let s4 := if ecc = .corrected then camLinkError n false s3 else s3
          .next (settled (if early then chanEvent 0x08 4 n 0 c.owner s4.safe.cfg.wWatchdog 0 (camOf s4 n).frameNo s4 else s4))

/-- Pixels that the pipeline takes in `ns` nanoseconds at 600 × 10^6 pixels/s, in whole pixels (R317). -/
def pipeTakes (ns : Nat) : Nat := ns * 3 / 5

/-- Pixels that it takes while `n` payload bytes arrive full the port's lanes at their rate in Mb/s (R317). -/
def takenDuring (cfg : CamPort) (n : Nat) : Nat := 600 * (8 * n) / max 1 (cfg.lanes * cfg.rate)

/-- The backlog after an image line of `pixels` pixels that are kept, from the backlog after the line before, and whether it has passed 16,384
pixels: from there on the pipeline only takes what stands in the buffer (R317). -/
def lineBacklog (cfg : CamPort) (l : CsiLine) (pixels before : Nat) : Nat × Bool :=
  let b := before - pipeTakes l.gap
  let t := takenDuring cfg l.payload.length
  if 16384 < b + pixels - t then (16384 - (t - t * (16384 - b) / max 1 (pixels - t)), true) else (b + pixels - t, false)

/-- Flags that a line's header and checksum set (R316). -/
def lineFlags (l : CsiLine) : Nat := (if l.crcOk then 0 else fCrc) ||| (if l.ecc = .corrected then fEcc else 0)

/-- Takes an image line into the frame in progress (R315–R317): the length against the width, the CRC; the line that overflows the backlog is
discarded whole, with the rest of the frame (log 29). -/
def takeLine (cfg : CamPort) (l : CsiLine) (full : Bool) (f : CamFrame) : CamFrame :=
  let g := { f with flags := f.flags ||| lineFlags l }
  if f.cut then g
  else if full then { g with cut := true, flags := g.flags ||| fTruncated }
  else
    { g with
      lines := f.lines + 1, rows := f.rows ++ [lineRow cfg l.payload]
      flags := g.flags ||| (if cfg.width < l.pixels then fLength else 0) ||| (if l.pixels < cfg.width then fTruncated else 0) }

/-- A port takes an image line: its backlog moves, and the frame in progress takes it; the pixels of a frame that is cut, or of no frame, are not
kept (R316, R317). -/
def camLine (cfg : CamPort) (l : CsiLine) (c : Cam) : Cam :=
  let keeps := (c.frame.map fun f => !f.cut).getD false
  let (b, full) := lineBacklog cfg l (if keeps then l.pixels else 0) c.backlog
  { c with
    backlog := b
    frame := c.frame.map fun f => { takeLine cfg l full f with payload := f.payload ++ l.payload } }

/-- A line whose header no ECC corrects counts as missing: its place in the frame holds zeros (R316). -/
def missLine (cfg : CamPort) (l : CsiLine) (c : Cam) : Cam :=
  if l.dt = cfg.dt ∧ l.vc = cfg.vc then
    { c with frame := c.frame.map fun f => { f with rows := f.rows ++ [List.replicate (lineSamples cfg) 0] } }
  else c

/-- CSI_LINE (R315–R317, R325). -/
def execCsiLine (l : CsiLine) (s : State) : Res :=
  if 11 < l.port then .fault .noSuchUnit
  else if !camReceives s l.port then .next s
  else
    let c := camOf s l.port
    let cfg := c.port.getD {}
    if l.ecc = .bad then .next (settled (camLinkError l.port true (dropPacket l.port (modCam l.port (missLine cfg l) s))))
    else if l.vc ≠ cfg.vc then .next (dropPacket l.port s)
    else
      let soft := fun t => if l.ecc = .corrected then camLinkError l.port false t else t
      let hard := fun t => if l.crcOk then t else camLinkError l.port true t
      if l.dt = 0x12 ∧ cfg.embedded then
        .next (settled (hard (soft (modCam l.port (fun c =>
          { c with frame := c.frame.map fun f =>
              { f with
                embedded := (f.embedded ++ l.payload).take 1024
                flags := f.flags ||| lineFlags l } }) s))))
      else if l.dt ≠ cfg.dt then .next (dropPacket l.port s)
      else
        .next (settled (hard (soft (modCam l.port (camLine cfg l) s))))

/-- CSI_FRAME_END (R316). -/
def execCsiFrameEnd (n vc : Nat) (ecc : CsiEcc) (s : State) : Res :=
  if 11 < n then .fault .noSuchUnit
  else if !camReceives s n then .next s
  else
    match ecc with
    | .bad => .next (settled (camLinkError n true (dropPacket n s)))
    | _ =>
      if vc ≠ ((camOf s n).port.getD {}).vc then .next (dropPacket n s)
      else
        let s1 := endLines n (if ecc = .corrected then fEcc else 0) s
        .next (settled (if ecc = .corrected then camLinkError n false s1 else s1))

/-- What the pipeline writes for a frame: display, tensor, statistics, and the counts of corrected pixels and of clips. -/
structure SlotParts where
  display : List Byte := []
  tensor : List Byte := []
  stats : List Byte := []
  defects : Nat := 0
  clips : Nat := 0
  deriving Repr, Inhabited

/-- The outputs of a frame (R318, R323, R326); a muted frame's outputs and statistics are zero (R330). -/
def slotParts (n : Nat) (cfg : CamPort) (f : CamFrame) (o : CamOut) : SlotParts :=
  let planes := if hasTensor o then tensPlanes o else 0
  if f.flags.testBit 0 then
    { display := List.replicate (dispBytes o) 0, tensor := List.replicate (planes * tensPlane o) 0, stats := List.replicate 14848 0 }
  else
    let p : Pipe := { cfg := cfg, frame := f, key := [f.number, n, 90] }
    let st := runStages p
    let ts := (List.range planes).map (tensPlaneOut p (tensImage st o) o)
    { display := if hasDisplay o then dispOut p st o (dispStride o) else []
      tensor := (ts.map Prod.fst).flatten
      stats := if p.on 8 then camStats p st else List.replicate 14848 0
      defects := st.corrected, clips := (ts.map Prod.snd).foldl (· + ·) 0 }

/-- Completes the slot of frame `f` of port `n` under the settings that it was started with (R322, R324–R326, R332): everything is written, the
done word last; then the waits that the frame satisfies complete. A slot of a ring that CAM_OUTPUT has replaced since is no slot of the new one
(log 29). -/
def completeSlot (n : Nat) (f : CamFrame) (s : State) : State :=
  let c := camOf s n
  let o := f.out
  let cfg := f.cfg
  let muted := f.flags.testBit 0
  match f.slot with
  | none => s
  | some k =>
    let base := o.ring + k * o.size
    let q := slotParts n cfg f o
    let crc := crc32c (if muted then List.replicate (frameBytes cfg) 0 else f.payload)
    let sealed := sealOf f.number f.start crc n muted
    let pixels := if muted || !f.enable.testBit 8 then 0 else f.statPixels
    let record := frameRecord f sealed o (f.ended.getD s.time.now) q.defects q.clips q.display q.tensor
    let s1 := vwrite c.owner base record s
    let s2 := vwrite c.owner (base + 256) (toLE 8 f.number ++ toLE 4 pixels ++ List.replicate 20 0 ++ q.stats) s1
    let s3 := vwrite c.owner (base + 15136) (fit 1024 (if muted then [] else f.embedded)) s2
    let s4 := vwrite c.owner (base + 16384) q.display s3
    let s5 := vwrite c.owner (base + tensOffset o) q.tensor s4
    let s6 := vwrite c.owner (base + 252) (toLE 4 f.number) s5
    let met := c.waits.filter fun e => e.1 ≤ f.number
    let s7 := modCam n (fun c =>
      { c with
        doneCount := c.doneCount + 1
        slots := if c.out != some o then c.slots else tput c.slots k { number := f.number, order := c.doneCount + 1, muted := muted, start := f.start }
        waits := c.waits.filter fun e => f.number < e.1 }) s6
    met.foldl (fun t e =>
      complete e.2 .ok (if muted then nMuted else 0) k (f.number % 2 ^ 32) (f.number / 2 ^ 32) t) s7

/-- SLOT_COMPLETE (R322): the oldest frame that ended is complete; before its frame end it is too early (R389). -/
def execSlotComplete (port : Nat) (s : State) : Res :=
  if 11 < port then .fault .noSuchUnit
  else
    let c := camOf s port
    match c.finishing with
    | f :: rest => .next (completeSlot port f (modCam port (fun c => { c with finishing := rest }) s))
    | [] =>
      match c.frame with
      | none => .next s
      | some f => .next (settled (chanEvent 0x08 4 port 0 c.owner s.safe.cfg.wWatchdog 0 f.number s))

/-- FRAME_INTERVAL_TIMEOUT (R332, R389): no frame started within the maximum interval. -/
def execFrameIntervalTimeout (n : Nat) (s : State) : Res :=
  if 11 < n then .fault .noSuchUnit
  else
    let c := camOf s n
    let cfg := c.port.getD {}
    if !camReceives s n || cfg.maxUs == 0 then .next s
    else
      let s1 := match c.lastStart with | some t => elapseTo (t + cfg.maxUs * 1000) s | none => s
      .next (settled (chanEvent 0x07 4 n 0 c.owner s1.safe.cfg.wWatchdog 0 c.frameNo s1))

/-- MUTED_FRAME_TIMER (R330): a Streaming port without a frame sync channel produces a muted frame per last frame interval, or per
33.333 ms. -/
def execMutedFrameTimer (n : Nat) (s : State) : Res :=
  if 11 < n then .fault .noSuchUnit
  else
    let c := camOf s n
    if !s.cams.gate || c.state != 2 || c.sync.isSome then .next s
    else
      let s1 := match c.lastStart with | some t => elapseTo (t + c.interval.getD 33333000) s | none => s
      .next (settled (mutedFrame n s1))

/-! ### The camera gate (R329, R330, R422) -/

/-- Level of PWR_EN of port `n` when nothing gates it: a retired port's is inactive (R392), a held one keeps its latch (R422). -/
def pwrLevel (s : State) (n : Nat) (c : Cam) : Bool :=
  if chanRetired s 4 n then false else if s.power.held.testBit 2 then c.latched else c.power

/-- PRIV_CAM_ASSERT (R329, R330): receivers and power enables off, CAM_LED on, and the frame in progress muted. -/
def execPrivCamAssert (s : State) : Res :=
  if s.cams.pin then .next s
  else
    let s1 := glbEvent 4 { s with
      cams.pin := true, cams.gate := true
      cams.ports := tmap s.cams.ports fun _ c => { c with pwrEn := false } }
    .next (settled ((List.range 12).foldl (fun t n =>
      if (camOf t n).frame.isSome then
        endFrame n 0 (modCam n (fun c => { c with
          frame := c.frame.map fun f => { f with flags := f.flags ||| fMuted, payload := [], embedded := [], rows := [] } }) t)
      else t) s1))

/-- PRIV_CAM_RELEASE (R329, R422): the input is deasserted and stays so for 10 ms of working time, at whose end the gate is released. -/
def execPrivCamRelease (s : State) : Res :=
  if !s.cams.pin then .next s
  else
    let s1 := elapseTo (s.time.now + 10000000) s
    .next (glbEvent 4 { s1 with
      cams.pin := false, cams.gate := false
      cams.ports := tmap s1.cams.ports fun n c => { c with pwrEn := pwrLevel s1 n c } })

/-! ### The presence port (R34, R331) -/

/-- Whether the presence port runs (R329, R331, R392, R412). -/
def presenceOn (s : State) : Bool :=
  s.cams.presFlags.testBit 0 && !s.cams.gate && !chanRetired s 4 12 && !(s.power.state == .sample || s.power.state == .dormant)

/-- The presence port's black level (R331), by the formula of R318. -/
def presBlackened (s : State) (v : Nat) : Nat :=
  if v ≤ s.cams.presBlack then 0 else round16 ((v - s.cams.presBlack) * 65535) (65535 - s.cams.presBlack)

/-- The luma of a filtered sample of the presence pipeline (R331): gain, curve, and 8 bits, rounded by R144 on the alignment of R318 (log 29). -/
def presValue (s : State) (b : Nat) : Nat :=
  let c := s.cams
  let g := round16 (b * c.presGain) 4096
  let t := if c.presCurve.isEmpty then g
    else
      let i := min 255 (g * 256 / 65535)
      let fr := g * 256 - i * 65535
      round16 (num c.presCurve (2 * i) 2 * (65535 - fr) + num c.presCurve (2 * i + 2) 2 * fr) 65535
  min 255 ((t + 128) / 256)

/-- The 640 × 480 luma frame of a presence camera's payload (R331): black level, the 3 × 3 luma filter for Bayer input, gain and curve; a
320 × 240 frame is doubled by pixel replication. -/
def presLuma (s : State) (payload : List Byte) : List Byte :=
  let half := s.cams.presFlags.testBit 3
  let w := if half then 320 else 640
  let h := if half then 240 else 480
  let l := (unpackLine (if s.cams.presFlags.testBit 1 then 0x2B else 0x2A) payload).map (presBlackened s)
  let p : Pipe := { cfg := { width := w, height := h }, frame := {}, key := [] }
  let v := fun y x =>
    if s.cams.presFlags.testBit 2 then (Config.presFilter (posOf y x) (windowAt p 1 y x fun j i => some (l.getD (j * w + i) 0))).toNat
    else l.getD (y * w + x) 0
  (List.range 307200).map fun i =>
    BitVec.ofNat 8 (presValue s (if half then v (i / 640 / 2) (i % 640 / 2) else v (i / 640) (i % 640)))

/-- PRESENCE_FRAME (R34, R331): the frame is numbered, sealed and kept as one of the newest two, then supplied to the tiers. -/
def execPresenceFrame (payload : List Byte) (s : State) : Res :=
  if !presenceOn s then .next s
  else
    let k := s.reel.frameNo + 1
    let f : PresFrame := { number := k, luma := presLuma s payload, sealBytes := sealOf k s.time.now (crc32c payload) 12 false }
    let s1 := { s with reel.frameNo := k, reel.frames := (s.reel.frames ++ [f]).drop (s.reel.frames.length + 1 - 2) }
    .next ((tkeys s1.casc.tiers).foldl (fun t k => supplyFrames k t) s1)

/-! ### Commands (R332, R333) -/

/-- The port field of a command. -/
def pPort (p : Pkt) : Nat := fld p 16 1

/-- The port exists, up to `hi` (R333). -/
def portChk (p : Pkt) (hi : Nat) : List (Bool × Code × Nat) := [(hi < pPort p, .eRange, 16)]

/-- The issuer owns the port (R332). -/
def ownChk (p : Pkt) (s : State) : List (Bool × Code × Nat) := [((camOf s (pPort p)).owner != p.ctx, .eDenied, 16)]

/-- Checks of CAM_QUERY. -/
def chkCamQuery (p : Pkt) (s : State) : Option Fail :=
  firstFails [portChk p 12, [(p.ctx != 0 && (camOf s (pPort p)).owner != p.ctx, .eDenied, 16)]]

/-- State code of a port (R332); the presence port counts as streaming while it is enabled. -/
def camState (s : State) (n : Nat) : Nat := if n = 12 then (if s.cams.presFlags.testBit 0 then 2 else 0) else (camOf s n).state

/-- Effect of CAM_QUERY. -/
def actCamQuery (p : Pkt) (s : State) : State :=
  let n := pPort p
  let c := camOf s n
  let w0 := camState s n + 4 * b2n s.cams.gate + 8 * b2n c.pwrEn + 16 * c.owner
  let newest := if n = 12 then s.reel.frameNo else ((newestSlot c).map fun e => e.2.number).getD 0
  completeOk p w0 (newest % 2 ^ 32) (c.truncated + 65536 * c.dropped) s

/-- CAM_QUERY (R332). -/
def execCamQuery (p : Pkt) (s : State) : Res := runCmd p s (chkCamQuery p s) (actCamQuery p)

/-- Checks of CAM_ASSIGN. -/
def chkCamAssign (p : Pkt) (s : State) : Option Fail :=
  let h := fld p 18 2
  firstFails [portChk p 11, [(512 < h, .eRange, 18), (h != 0 && !ctxLive s h, .eHandle, 18),
    ((camOf s (pPort p)).state == 2, .eState, 16)]]

/-- Removes a window: its pages are unmapped (R328). -/
def dropWindow (w : Nat) (s : State) : State :=
  match tget s.cams.windows w with
  | none => s
  | some x =>
    let n := (((camOf s x.port).out).getD {}).size / 65536
    let s1 := modCtx x.ctx (fun c =>
      { c with pages := tkeep c.pages fun k _ => !(x.va / 65536 ≤ k && k < x.va / 65536 + n) }) s
    { s1 with
      cams.windows := tdel s1.cams.windows w
      sched.binds := tmap s1.sched.binds fun _ b => { b with windows := b.windows.filter (· != w), lastFrame := tdel b.lastFrame w } }

/-- Windows of port `n`. -/
def windowsOf (s : State) (n : Nat) : List Nat := (s.cams.windows.filter fun e => e.2.port == n).map Prod.fst

/-- Effect of CAM_ASSIGN: a new owner gets the port Off, with its counts, power level and frame number (log 29). -/
def actCamAssign (p : Pkt) (s : State) : State :=
  let n := pPort p
  let c := camOf s n
  let h := fld p 18 2
  if c.owner = h then completeOk p 0 0 0 s
  else
    let s1 := (windowsOf s n).foldl (fun t w => dropWindow w t) s
    completeOk p 0 0 0 (modCam n (fun c =>
      { owner := h, frameNo := c.frameNo, truncated := c.truncated, dropped := c.dropped, power := c.power, pwrEn := c.pwrEn
        latched := c.latched, doneCount := c.doneCount }) s1)

/-- CAM_ASSIGN (R332). -/
def execCamAssign (p : Pkt) (s : State) : Res := runCmd p s (chkCamAssign p s) (actCamAssign p)

/-- Checks of CAM_PORT. -/
def chkCamPort (p : Pkt) (s : State) : Option Fail :=
  let w := fld p 20 2
  let h := fld p 22 2
  firstFails [portChk p 11,
    [(!([1, 2, 4].contains (fld p 17 1)), .eRange, 17), (dtBits (fld p 18 1) = 0, .eRange, 18), (3 < fld p 19 1, .eRange, 19),
     (w < 64 || 8192 < w || w % 8 != 0, .eRange, 20), (h < 64 || 8192 < h || h % 2 != 0 || 16777216 < w * h, .eRange, 22),
     (4 < fld p 24 1, .eRange, 24), (fld p 28 2 < 160 || 4500 < fld p 28 2, .eRange, 28),
     (fld p 18 1 == 0x1E && fld p 24 1 != 0, .eCombination, 24)],
    ownChk p s, [((camOf s (pPort p)).state == 2, .eState, 16)]]

/-- Effect of CAM_PORT (R319, R320): every section holds the identity again and the parameter set is 0. -/
def actCamPort (p : Pkt) (s : State) : State :=
  let cfg : CamPort :=
    { lanes := fld p 17 1, dt := fld p 18 1, vc := fld p 19 1, width := fld p 20 2, height := fld p 22 2, pattern := fld p 24 1
      laneMap := fld p 25 1, polarity := fld p 26 1, embedded := (fld p 27 1).testBit 0, rate := fld p 28 2
      minUs := fld p 32 4, maxUs := fld p 36 4 }
  completeOk p 0 0 0 (modCam (pPort p) (fun c =>
    { c with port := some cfg, state := 1, sections := [], tables := [], enableMask := 0, paramSet := 0 }) s)

/-- CAM_PORT (R332). -/
def execCamPort (p : Pkt) (s : State) : Res := runCmd p s (chkCamPort p s) (actCamPort p)

/-- Sections of the parameter block: offset and size (R319). -/
def camSections : List (Nat × Nat) :=
  [(0, 16), (16, 16), (32, 16), (48, 16), (64, 16), (80, 32), (112, 16), (128, 16), (144, 16)]

/-- Section `i` of a parameter block. -/
def camSection (blk : List Byte) (i : Nat) : List Byte :=
  let e := camSections.getD i (0, 0)
  slice blk e.1 e.2

/-- Bytes of the table that section `i` names; 0 for a section without one (R319). -/
def secTable (i : Nat) (sec : List Byte) : Nat :=
  match i with
  | 1 => 4 * num sec 4 2
  | 2 => num sec 0 1 * num sec 1 1 * 8
  | 6 => 32
  | 7 => if (num sec 0 1).testBit 0 then 3 * 514 else 514
  | _ => 0

/-- Reserved bytes of section `i` (R319). -/
def sectionRsv (i : Nat) : List (Nat × Nat) :=
  match i with
  | 0 => [(8, 8)] | 1 => [(6, 2)] | 2 => [(2, 6)] | 3 => [(8, 8)] | 4 => [(3, 13)] | 5 => [(24, 8)] | 6 => [(3, 5)] | 7 => [(1, 7)] | _ => [(10, 6)]

/-- Checks of a loaded section (R319): reserved bytes, then ranges and tables. -/
def sectionChk (s : State) (h : Nat) (cfg : CamPort) (i : Nat) (sec : List Byte) : List (Bool × Code × Nat) :=
  let n := secTable i sec
  let va := num sec 8 8
  let win := (List.range 4).map fun k => num sec (2 * k) 2
  [((sectionRsv i).any (fun (a, k) => num sec a k != 0) || (i == 7 && 2 ≤ num sec 0 1), .eReserved, 24)]
    ++ (match i with
        | 1 => [(4096 < num sec 4 2, .eRange, 24)]
        | 2 => [(num sec 0 1 < 2 || 33 < num sec 0 1 || num sec 1 1 < 2 || 25 < num sec 1 1, .eRange, 24)]
        | 6 => [(1 < num sec 2 1, .eRange, 24)]
        | 8 => [(win.any fun k => k % 2 == 1, .eRange, 24)]
        | _ => [])
    ++ (if n = 0 then [] else addrChk s h va n 16 24)
    ++ [(i == 8 && (cfg.width < win.getD 0 0 + win.getD 2 0 || cfg.height < win.getD 1 0 + win.getD 3 0), .eCombination, 24)]
    ++ (if n = 0 then [] else permChk s h va n false 24)

/-- The sections that the load mask names. -/
def loadedSections (p : Pkt) : List Nat := bitsOf 9 (fld p 18 2)

/-- Checks of CAM_PARAMS: the block, then each loaded section, then failed words (R297). -/
def chkCamParams (p : Pkt) (s : State) : Option Fail :=
  let va := fld p 24 8
  let h := p.ctx
  match firstFails [portChk p 11, addrChk s h va 160 16 24, permChk s h va 160 false 24, ownChk p s] with
  | some f => some f
  | none =>
    let blk := vread s h va 160
    let cfg := (camOf s (pPort p)).port.getD {}
    let secs := (loadedSections p).map fun i => (i, camSection blk i)
    match firstFails (secs.map fun e => sectionChk s h cfg e.1 e.2) with
    | some f => some f
    | none =>
      orFail (wordFail s h va 160 24)
        (secs.findSome? fun e => let n := secTable e.1 e.2
          if n = 0 then none else wordFail s h (num e.2 8 8) n 24)

/-- Effect of CAM_PARAMS (R319, R320): the loaded sections and their tables are copied, and the parameter set number grows. -/
def actCamParams (p : Pkt) (s : State) : State :=
  let n := pPort p
  let blk := vread s p.ctx (fld p 24 8) 160
  let s := (loadedSections p).foldl (fun t i => readWords p.ctx (num (camSection blk i) 8 8) (secTable i (camSection blk i)) t)
    (readWords p.ctx (fld p 24 8) 160 s)
  let k := ((camOf s n).paramSet + 1) % 2 ^ 32
  let s1 := modCam n (fun c =>
    { c with
      enableMask := fld p 20 2, paramSet := k
      sections := (loadedSections p).foldl (fun t i => tput t i (camSection blk i)) c.sections
      tables := (loadedSections p).foldl (fun t i =>
        let sec := camSection blk i
        tput t i (vread s p.ctx (num sec 8 8) (secTable i sec))) c.tables }) s
  completeOk p k 0 0 s1

/-- CAM_PARAMS (R319, R320). -/
def execCamParams (p : Pkt) (s : State) : Res :=
  let blk := vread s p.ctx (fld p 24 8) 160
  let host := rangeHost s p.ctx (fld p 24 8) 160
    || (loadedSections p).any fun i => let sec := camSection blk i; rangeHost s p.ctx (num sec 8 8) (secTable i sec)
  runHost p s host (chkCamParams p s) (actCamParams p)

/-- The configuration that CAM_OUTPUT gives. -/
def outputOf (p : Pkt) : CamOut :=
  let o : CamOut :=
    { slots := fld p 17 1, flags := fld p 18 1, dispFmt := fld p 19 1, ring := fld p 20 8, dispW := fld p 28 2, dispH := fld p 30 2
      tensW := fld p 40 2, tensH := fld p 42 2, order := fld p 52 1, fmt := fld p 53 1
      dispCrop := (List.range 4).map fun i => fld p (32 + 2 * i) 2, tensCrop := (List.range 4).map fun i => fld p (44 + 2 * i) 2
      means := (List.range 3).map fun i => fld p (56 + 4 * i) 4, scales := (List.range 3).map fun i => fld p (68 + 4 * i) 4 }
  { o with size := slotBytes o }

/-- Range checks of a scaler (R323): the crop is even, and the factor on each axis lies between 1 and 16. -/
def scalerChk (p : Pkt) (size crop : Nat) : List (Bool × Code × Nat) :=
  let w := fld p size 2
  let h := fld p (size + 2) 2
  let cw := fld p (crop + 4) 2
  let ch := fld p (crop + 6) 2
  [(w = 0 || cw < w || 16 * w < cw, .eRange, size), (h = 0 || ch < h || 16 * h < ch, .eRange, size + 2),
   ((List.range 4).any fun k => fld p (crop + 2 * k) 2 % 2 == 1, .eRange, crop)]

/-- The crop lies inside the frame (R333). -/
def cropChk (p : Pkt) (cfg : CamPort) (crop : Nat) : List (Bool × Code × Nat) :=
  [(cfg.width < fld p crop 2 + fld p (crop + 4) 2 || cfg.height < fld p (crop + 2) 2 + fld p (crop + 6) 2, .eCombination, crop)]

/-- A device object of context `h` with READ and WRITE that holds `n` bytes from `va` (R321). -/
def ringObj (s : State) (h va n : Nat) : Bool :=
  s.store.objs.any fun e => e.2.ctx == h && !e.2.host && e.2.read && e.2.write && e.2.va ≤ va && va + n ≤ e.2.va + e.2.pages * 65536

/-- Checks of CAM_OUTPUT. -/
def chkCamOutput (p : Pkt) (s : State) : Option Fail :=
  let o := outputOf p
  let cfg := (camOf s (pPort p)).port.getD {}
  let d := hasDisplay o
  let t := hasTensor o
  firstFails [portChk p 11,
    [(o.slots < 3 || 64 < o.slots, .eRange, 17), (d && (o.dispFmt < 1 || 3 < o.dispFmt), .eRange, 19)],
    addrChk s p.ctx o.ring 1 65536 20,
    if d then scalerChk p 28 32 else [],
    if t then scalerChk p 40 44 else [],
    [(t && 2 < o.order, .eRange, 52), (t && !([0x10, 0x20, 0x02, 0x01].contains o.fmt), .eRange, 53)],
    if d then cropChk p cfg 32 else [],
    if t then cropChk p cfg 44 else [],
    [(!ringObj s p.ctx o.ring (o.slots * o.size), .eCombination, 20)],
    ownChk p s, [((camOf s (pPort p)).state == 2, .eState, 16)]]

/-- Effect of CAM_OUTPUT (R321): a fresh ring, onto whose slot 0 the windows of the port move (log 29); a frame that ended before completes under
the old settings (R332). -/
def actCamOutput (p : Pkt) (s : State) : State :=
  let n := pPort p
  let o := outputOf p
  let old := (((camOf s n).out).getD {}).size / 65536
  let wins := windowsOf s n
  let s1 := wins.foldl (fun t w =>
    let x := tgetD t.cams.windows w
    modCtx x.ctx (fun c => { c with pages := tkeep c.pages fun k _ => !(x.va / 65536 ≤ k && k < x.va / 65536 + old) }) t) s
  let s2 := modCam n (fun c => { c with out := some o, slots := [] }) s1
  completeOk p o.size 0 0 (wins.foldl (fun t w => mapWindow w 0 t) s2)

/-- CAM_OUTPUT (R321, R323). -/
def execCamOutput (p : Pkt) (s : State) : Res := runCmd p s (chkCamOutput p s) (actCamOutput p)

/-- Checks of CAM_START. -/
def chkCamStart (p : Pkt) (s : State) : Option Fail :=
  let c := camOf s (pPort p)
  firstFails [portChk p 11, ownChk p s,
    [(c.port.isNone || c.out.isNone, .eState, 16), (s.cams.gate, .eMuted, 16), (chanRetired s 4 (pPort p), .eRetired, 16)]]

/-- Effect of CAM_START: frames are taken from the next frame start on. -/
def actCamStart (p : Pkt) (s : State) : State := completeOk p 0 0 0 (modCam (pPort p) (fun c => { c with state := 2 }) s)

/-- CAM_START (R332). -/
def execCamStart (p : Pkt) (s : State) : Res := runCmd p s (chkCamStart p s) (actCamStart p)

/-- Checks of CAM_STOP. -/
def chkCamStop (p : Pkt) (s : State) : Option Fail :=
  firstFails [portChk p 11, ownChk p s, [((camOf s (pPort p)).state != 2, .eState, 16)]]

/-- Effect of CAM_STOP: it completes at the next frame end, or at once with no frame in progress. -/
def actCamStop (p : Pkt) (s : State) : State :=
  let n := pPort p
  let s1 := modCam n (fun c => { c with stop := c.stop ++ [p] }) s
  if (camOf s n).frame.isNone then stopCam n s1 else handOn p s1

/-- CAM_STOP (R332). -/
def execCamStop (p : Pkt) (s : State) : Res := runCmd p s (chkCamStop p s) (actCamStop p)

/-- Checks of CAM_POWER. -/
def chkCamPower (p : Pkt) (s : State) : Option Fail :=
  firstFails [portChk p 11, [(1 < fld p 17 1, .eRange, 17)], ownChk p s]

/-- Effect of CAM_POWER: the gate, a retirement or a hold keeps the ball's level (R329, R392, R422). -/
def actCamPower (p : Pkt) (s : State) : State :=
  let n := pPort p
  let lv := fld p 17 1 == 1
  completeOk p 0 0 0 (modCam n (fun c =>
    let d := { c with power := lv }
    { d with pwrEn := if s.cams.gate then false else pwrLevel s n d }) s)

/-- CAM_POWER (R332). -/
def execCamPower (p : Pkt) (s : State) : Res := runCmd p s (chkCamPower p s) (actCamPower p)

/-- Checks of CAM_SYNC. -/
def chkCamSync (p : Pkt) (s : State) : Option Fail :=
  let ch := fld p 17 1
  firstFails [portChk p 11,
    [(ch != 0xFF && 31 < ch, .eRange, 17), (1 < fld p 18 1, .eRange, 18), (ch != 0xFF && fld p 20 2 == 0, .eRange, 20)],
    ownChk p s, [(ch != 0xFF && (tgetD s.net.evs ch).owner != p.ctx, .eDenied, 17)]]

/-- Effect of CAM_SYNC (R327): the polarity and the width are those of the packet, also where it unbinds (DEDUCED, log 29). -/
def actCamSync (p : Pkt) (s : State) : State :=
  let ch := fld p 17 1
  completeOk p 0 0 0 (modCam (pPort p) (fun c =>
    { c with sync := if ch = 0xFF then none else some ch, syncHigh := fld p 18 1 == 1, syncWidth := fld p 20 2, fsync := false }) s)

/-- CAM_SYNC (R327). -/
def execCamSync (p : Pkt) (s : State) : Res := runCmd p s (chkCamSync p s) (actCamSync p)

/-- DESTROY of CAM_WINDOW. -/
def winDestroy (p : Pkt) : Bool := (fld p 17 1).testBit 0

/-- The window that a handle names for a context and port. -/
def winNamed (s : State) (h w : Nat) : Option CamWin := (tget s.cams.windows w).filter fun x => x.ctx == h

/-- Checks of CAM_WINDOW. -/
def chkCamWindow (p : Pkt) (s : State) : Option Fail :=
  let n := pPort p
  let va := fld p 24 8
  let size := (((camOf s n).out).getD {}).size
  let meets := fun (a k : Nat) => a < va + size && va < a + k
  if winDestroy p then
    let x := winNamed s p.ctx (fld p 18 2)
    firstFails [portChk p 11, [((x.map fun w => w.port != n).getD true, .eHandle, 18)], ownChk p s,
      [((x.bind CamWin.binding).isSome, .eBusy, 18)]]
  else
    firstFails [portChk p 11, [(2 ^ 48 ≤ va + size - 1 || va < 65536, .eRange, 24), (va % 65536 != 0, .eAlign, 24),
      (4 ≤ (windowsOf s n).length, .eCombination, 16),
      (s.store.objs.any fun e => e.2.ctx == p.ctx && meets e.2.va (e.2.pages * 65536), .eCombination, 24),
      (s.cams.windows.any fun e => e.2.ctx == p.ctx && meets e.2.va (((camOf s e.2.port).out).getD {}).size, .eCombination, 24)],
      ownChk p s, [((camOf s n).out.isNone, .eState, 16),
      (!tablesFit s p.ctx ((List.range (size / 65536)).map fun i => va / 65536 + i), .eNomem, 16)]]

/-- Effect of CAM_WINDOW (R328): the new window maps slot 0, read only. -/
def actCamWindow (p : Pkt) (s : State) : State :=
  if winDestroy p then completeOk p (fld p 18 2) 0 0 (dropWindow (fld p 18 2) s)
  else
    let w := (freeKey s.cams.windows 1 0xFFFF).getD 1
    let x : CamWin := { port := pPort p, ctx := p.ctx, va := fld p 24 8 }
    completeOk p w 0 0 (mapWindow w 0 { s with cams.windows := tput s.cams.windows w x })

/-- CAM_WINDOW (R328). -/
def execCamWindow (p : Pkt) (s : State) : Res := runCmd p s (chkCamWindow p s) (actCamWindow p)

/-- Attached windows of port `n` after window `w` has been attached (R328). -/
def attachedWith (s : State) (n w : Nat) : Nat :=
  (s.cams.windows.filter fun e => e.2.port == n && (e.2.binding.isSome || e.1 == w)).length

/-- Checks of CAM_ATTACH. -/
def chkCamAttach (p : Pkt) (s : State) : Option Fail :=
  let w := fld p 16 2
  let b := fld p 18 1
  let x := winNamed s p.ctx w
  let n := (x.map CamWin.port).getD 0
  firstFail [(x.isNone, .eHandle, 16), (b != 0 && (bindNamed s p.ctx b).isNone, .eHandle, 18),
    (b != 0 && (((camOf s n).out).getD {}).slots < attachedWith s n w + 2, .eCombination, 16),
    ((camOf s n).owner != p.ctx, .eDenied, 16)]

/-- Effect of CAM_ATTACH. -/
def actCamAttach (p : Pkt) (s : State) : State :=
  let w := fld p 16 2
  let b := fld p 18 1
  let bind : Option Nat := if b = 0 then none else some b
  let binds := tmap s.sched.binds fun k x =>
    let rest := x.windows.filter (· != w)
    { x with windows := if some k = bind then rest ++ [w] else rest }
  completeOk p 0 0 0 { s with cams.windows := tupd s.cams.windows w fun x => { x with binding := bind }, sched.binds := binds }

/-- CAM_ATTACH (R328). -/
def execCamAttach (p : Pkt) (s : State) : Res := runCmd p s (chkCamAttach p s) (actCamAttach p)

/-- The newest completed slot that holds a frame numbered `k` or above. -/
def waitSlot (c : Cam) (k : Nat) : Option (Nat × CamSlot) := (newestSlot c).filter fun e => k ≤ e.2.number

/-- Checks of CAM_WAIT: a port that does not stream has stopped first. -/
def chkCamWait (p : Pkt) (s : State) : Option Fail :=
  let c := camOf s (pPort p)
  firstFails [portChk p 11, ownChk p s, [(c.state != 2 && (waitSlot c (fld p 24 8)).isNone, .eState, 16)]]

/-- Effect of CAM_WAIT. -/
def actCamWait (p : Pkt) (s : State) : State :=
  let n := pPort p
  let k := fld p 24 8
  match waitSlot (camOf s n) k with
  | some (i, x) => complete p .ok (if x.muted then nMuted else 0) i (x.number % 2 ^ 32) (x.number / 2 ^ 32) s
  | none => handOn p (modCam n (fun c => { c with waits := c.waits ++ [(k, p)] }) s)

/-- CAM_WAIT (R332). -/
def execCamWait (p : Pkt) (s : State) : Res := runCmd p s (chkCamWait p s) (actCamWait p)

/-- Checks of CAM_PRESENCE. -/
def chkCamPresence (p : Pkt) (s : State) : Option Fail :=
  let va := fld p 24 8
  orFail (firstFails [[((fld p 16 1).testBit 0 && (fld p 22 2 < 160 || 1500 < fld p 22 2), .eRange, 22)],
      if va = 0 then [] else addrChk s p.ctx va 514 16 24,
      if va = 0 then [] else permChk s p.ctx va 514 false 24])
    (if va = 0 then none else wordFail s p.ctx va 514 24)

/-- Effect of CAM_PRESENCE (R331): the settings and the curve are copied. -/
def actCamPresence (p : Pkt) (s : State) : State :=
  let s := if fld p 24 8 = 0 then s else readWords p.ctx (fld p 24 8) 514 s
  let va := fld p 24 8
  completeOk p 0 0 0 { s with
    cams.presFlags := fld p 16 1, cams.presBlack := fld p 18 2, cams.presGain := fld p 20 2, cams.presRate := fld p 22 2
    cams.presCurve := if va = 0 then [] else vread s p.ctx va 514 }

/-- CAM_PRESENCE (R331). -/
def execCamPresence (p : Pkt) (s : State) : Res :=
  runHost p s (fld p 24 8 != 0 && rangeHost s p.ctx (fld p 24 8) 514) (chkCamPresence p s) (actCamPresence p)

end Sys2Proof.Machine
end

