-- ==== Sys2Proof/Machine/Audio.lean ====
section
/-! DEFINITION. Audio (13): the Reel's writer, capture rings, playback, the microphone gate and the audio commands. The
converters' codes come with AUDIO_BLOCK_END (decimation, interpolation and DC block are given by their responses alone, R337, R339, and are
opaque functions of the samples); delays, beams, fades, rounding, saturation, zeros, headers, flags and counts are computed here. -/

namespace Sys2Proof.Machine

/-! ### Time on the block grid (R28, R30, R338) -/

/-- Whether the Mooring engine has come up (R433): its start step has been taken and has not failed. -/
def mooringUp (s : State) : Bool :=
  (match s.boot.phase with | .step n => decide (0x0D < n) | .ready => true | _ => false) && !s.boot.missing.contains 0x0D

/-- The low-power path runs: Mooring runs, outside Dormant (R336, R416). -/
def lpRuns (s : State) : Bool := mooringUp s && s.power.state != .dormant

/-- Levels of the clocks and of MIC_PWR_EN for the paths that run (R336, R349). -/
def micPins (s : State) : State :=
  { s with
    pins.pdm0 := lpRuns s && !s.audio.gate
    pins.pdm1 := s.audio.hq && !s.audio.gate
    pins.micPwr := (lpRuns s || s.audio.hq) && !s.audio.gate }

/-- The low-power path starts (R337): it settles in 2 ms. -/
def startLp (s : State) : State := micPins { s with audio.lpSettle := some (s.time.now + 2000000) }

/-- Working time at which a high-quality path that starts now has settled (R30, R337). -/
def hqSettled (s : State) : Nat := s.time.now + s.casc.hqSettle * 1000000

/-- The high-quality path starts and settles (R336, R337). -/
def settleHq (s : State) : State :=
  micPins { s with audio.hq := true, audio.hist := [], audio.settle0 := some (hqSettled s), audio.settle1 := some (hqSettled s) }

/-- The high-quality path starts (R30, R336): it settles, and the Reel is handed over at the first block boundary at or after
that plus 20 ms. -/
def startHq (s : State) : State :=
  settleHq { s with reel.handover := s.reel.handover ++ [(2, boundaryAt (hqSettled s + 20000000))] }

/-- The high-quality path gives the Reel back on the way to Moor (R30): the low-power path settles in 2 ms, and the handover comes
at the first block boundary at or after that plus 20 ms. -/
def leaveHq (s : State) : State :=
  if s.reel.source = 2 ∧ s.reel.handover.isEmpty then { s with reel.handover := [(0, boundaryAt (s.time.now + 22000000))] } else s

/-- Microphones 1 to 3 start as Sample is left and settle in 2 ms: the low-power path writes from four microphones from the first block
boundary after that (R29, R413). -/
def wakeMics (s : State) : State :=
  if s.power.state = .sample then { s with reel.handover := s.reel.handover ++ [(0, boundaryAt (s.time.now + 2000000))] } else s

/-- Sample is entered: from the next block boundary on the low-power path writes from microphone 0 alone (R28, R29). -/
def sleepMics (s : State) : State := { s with reel.handover := [(1, boundaryAt s.time.now)] }

/-! ### Records (R339–R341, R352) -/

/-- Weight code of a channel entry: its last two bytes. -/
def entryWeight (rec : List Byte) (off i : Nat) : Nat := num rec (off + 4 * i + 2) 2

/-- Delay of a channel entry (R339). -/
def entryDelay (rec : List Byte) (off i : Nat) : Nat := num rec (off + 4 * i) 2

/-- Microphones that high-quality beam `b` sums: those of nonzero weight (R340). -/
def beamMics (s : State) (b : Nat) : List Nat :=
  match tget s.audio.beams b with
  | none => []
  | some rec => (List.range 16).filter fun i => entryWeight rec 0 i != 0

/-- Samples per second of a rate code (R345). -/
def rateHz (code : Nat) : Nat := 16000 * (code + 1)

/-! ### Sources of a capture ring (R342) -/

/-- Valid source codes (R342). -/
def sourceOk (c : Nat) : Bool := c < 0x18 || (0x20 ≤ c && c < 0x60)

/-- A microphone or beam source. -/
def arraySource (c : Nat) : Bool := c < 0x20

/-- I2S port of an I2S source. -/
def sourcePort (c : Nat) : Nat := (c / 16) % 2

/-- An I2S input source. -/
def inputSource (c : Nat) : Bool := 0x20 ≤ c && c < 0x40

/-- I2S port `n`. -/
def i2sOf (s : State) (n : Nat) : I2s := tgetD s.audio.i2s n

/-- Microphones that a source includes. -/
def sourceMics (s : State) (c : Nat) : List Nat := if c < 0x10 then [c] else if c < 0x18 then beamMics s (c - 0x10) else []

/-- Sources that the microphone gate mutes: microphones, beams, inputs with MIC_CLASS (R350). -/
def gatedSource (s : State) (c : Nat) : Bool := arraySource c || (inputSource c && (i2sOf s (sourcePort c)).micClass)

/-- Whether the block that starts at sample index `i` is muted (R350). -/
def blockMuted (s : State) (i : Nat) : Bool := s.audio.gate || decide (i < s.audio.mutedTo.getD 0)

/-- Working time from which microphone `m` of the high-quality path has settled (R337, R352). -/
def micSettle (s : State) (m : Nat) : Nat := (if m < 4 then s.audio.settle0 else s.audio.settle1).getD 0

/-- Whether microphone `m` of the high-quality path settles in the block that starts at sample index `i` (R337, R352). -/
def micSettling (s : State) (i m : Nat) : Bool := decide (i * 62500 < micSettle s m)

/-- Whether a source settles in the block. -/
def sourceSettling (s : State) (i c : Nat) : Bool := (sourceMics s c).any (micSettling s i)

/-- Whether a source includes a microphone of a retired line, or an input whose clock was lost within the block (R346, R351). -/
def sourceDegraded (s : State) (c : Nat) : Bool :=
  let q := i2sOf s (sourcePort c)
  ((sourceMics s c).any fun m => chanRetired s 5 (m / 2)) || (inputSource c && (q.lost || !q.gaps.isEmpty))

/-- Whether no frame arrived at working time `t`: the clock of the target-mode port had stopped (R346). -/
def clockLost (q : I2s) (t : Nat) : Bool := (q.lost && decide (q.since ≤ t)) || q.gaps.any fun g => g.1 ≤ t && t < g.2

/-! ### Beams (R340, R341) -/

/-- `n / d` rounded to the nearest integer, ties away from zero (R144). -/
def roundRatio (n : Int) (d : Nat) : Int :=
  let q : Int := ((2 * n.natAbs + d) / (2 * d) : Nat)
  if n < 0 then -q else q

/-- Saturates to a signed code of `w` bits; whether it did. -/
def clipTo (w : Nat) (v : Int) : Int × Bool :=
  let top : Int := 2 ^ (w - 1)
  if top ≤ v then (top - 1, true) else if v < -top then (-top, true) else (v, false)

/-- Sample `t` of a line of codes of `w` bits. -/
def lineAt (w : Nat) (l : List Int) (t : Nat) : Int := signed w (unsigned w (l.getD t 0))

/-- The line for a key. -/
def lineOf (l : List (Nat × List Int)) (k : Nat) : List Int := ((l.find? fun e => e.1 == k).map Prod.snd).getD []

/-- SQ1.14 weight of channel entry `i`. -/
def micWeight (rec : List Byte) (off i : Nat) : Int := signed 16 (entryWeight rec off i)

/-- The delay line of a path that holds `n` samples (R339), oldest first: zeros before the path's start, the samples kept, then the block's. -/
def delayLine (n : Nat) (hist line : List Int) : List Int := List.replicate (n - hist.length) 0 ++ hist.drop (hist.length - n) ++ line

/-- A channel of `w` bits delayed by `d` steps (R339): whole samples of `phases` steps each, and the phase that is left interpolated; a phase
of 0 takes the samples as they are (DEDUCED, log 30). -/
def delayed (w phases n d around : Nat) (full : List Int) : List Int :=
  let first := full.length - n - d / phases
  if d % phases = 0 then (full.drop first).take n
  else (List.range n).map fun t => signed w (unsigned w (Config.interp phases (d % phases) full around (first + t)))

/-- The exact sums Σ w · x(t − d) of `n` samples over the channels `ms` of a record, in units of 2^−14 (R340): weight 0 leaves a channel
out. -/
def beamSums (w phases n : Nat) (rec : List Byte) (off around : Nat) (ms : List Nat) (full : Nat → List Int) : List Int :=
  ms.foldl (fun acc m =>
    if micWeight rec off m = 0 then acc
    else List.zipWith (· + ·) acc ((delayed w phases n (entryDelay rec off m) around (full m)).map (micWeight rec off m * ·)))
    (List.replicate n 0)

/-- Sample `t` of a beam whose fade from an old record takes `n` samples (R340, R341): one exact value, rounded once to `w` bits. -/
def beamSample (w n : Nat) (new : Int) (old : Option Int) (t : Nat) : Int × Bool :=
  match old with
  | none => clipTo w (roundRatio new 16384)
  | some o =>
    let j := min n (t + b2n Config.fadeAhead)
    clipTo w (roundRatio (o * (n - j : Nat) + new * j) (16384 * n))

/-- Working time of frame `t` of the block that starts at sample index `i`, at a rate code (R338). -/
def frameTime (i rate t : Nat) : Nat := i * 62500 + t * 1000000000 / rateHz rate

/-- Microphone `m` on the high-quality path in the block started at sample index `i`: zeros while the gate mutes it, until it has settled, and
where its line is retired (R337, R350, R351); through the DC block where that is on. -/
def hqLine (s : State) (x : AudioBlock) (i m : Nat) : List Int :=
  let raw := (List.range 480).map (lineAt 24 (lineOf x.mics m))
  let dead := blockMuted s i || chanRetired s 5 (m / 2)
  (List.range 480).map fun t =>
    if dead || decide (frameTime i 2 t < micSettle s m) then 0
    else if s.audio.dcBlock then signed 24 (unsigned 24 (Config.dcBlock (tgetD s.audio.hist m) raw x.around t)) else raw.getD t 0

/-- Delay line of microphone `m` of the high-quality path: 512 samples, 4,096 steps, before the block (R339). -/
def hqDelay (s : State) (x : AudioBlock) (i m : Nat) : List Int := delayLine 512 (tgetD s.audio.hist m) (hqLine s x i m)

/-- High-quality beam `b` of the block started at sample index `i`: 480 samples of 24 bits, each with whether it was saturated; a fade
from the old record takes 1 ms (R340, R341). -/
def hqBeam (s : State) (x : AudioBlock) (i b : Nat) : List (Int × Bool) :=
  let sums := fun (rec : List Byte) => beamSums 24 8 480 rec 0 x.around (List.range 16) (hqDelay s x i)
  let old := (tget s.audio.beamsOld b).map sums
  (sums (tgetD s.audio.beams b)).mapIdx fun t y => beamSample 24 48 y (old.map fun o => o.getD t 0) t

/-- Microphones of the low-power path: as many as its record says (R352). -/
def lpMics (rec : List Byte) : List Nat := (List.range (num rec 0 1)).filter fun m => m < 4

/-- Whether the Reel's block that starts at sample index `i` holds no sound of the low-power path: the gate mutes it. -/
def lpMuted (s : State) (i : Nat) : Bool := s.audio.gate || decide (i < s.reel.mutedTo.getD 0)

/-- Low-power channel `m`: zeros while the gate mutes it, until the path has settled, and where its line is retired (R337, R350, R351); through
the DC block where the record asks for it (R352). -/
def lpLine (s : State) (x : AudioBlock) (i m : Nat) : List Int :=
  let raw := (List.range 160).map (lineAt 16 (lineOf x.lpMics m))
  let dead := lpMuted s i || chanRetired s 5 (m / 2)
  (List.range 160).map fun t =>
    if dead || decide (frameTime i 0 t < s.audio.lpSettle.getD 0) then 0
    else if (num s.audio.lp 3 1).testBit 0 then signed 16 (unsigned 16 (Config.dcBlock (tgetD s.audio.lpHist m) raw x.around t))
    else raw.getD t 0

/-- Delay line of microphone `m` of the low-power path: 171 samples hold 4,096 steps before the block (R339). -/
def lpDelay (s : State) (x : AudioBlock) (i m : Nat) : List Int := delayLine 171 (tgetD s.audio.lpHist m) (lpLine s x i m)

/-- Low-power beam `b`: 160 samples of 16 bits (R340, R341). -/
def lpBeam (s : State) (x : AudioBlock) (i b : Nat) : List Int :=
  let sums := fun (rec : List Byte) => beamSums 16 24 160 rec (4 + 16 * b) x.around (lpMics rec) (lpDelay s x i)
  let old := s.audio.lpOld.map sums
  (sums s.audio.lp).mapIdx fun t y => (beamSample 16 16 y (old.map fun o => o.getD t 0) t).1

/-- A 24-bit sample as 16 bits (R342): rounded by R144 and saturated. -/
def to16 (v : Int) : Int × Bool := clipTo 16 (roundRatio v 256)

/-- A high-quality channel or beam at another rate (R337, R342): 48 kHz as it is, else decimated from the 48 kHz grid. -/
def atRate (x : AudioBlock) (rate : Nat) (line : List Int) : List Int :=
  if rate = 2 then line
  else (List.range (160 * (rate + 1))).map fun t => signed 24 (unsigned 24 (Config.decimate rate line x.around t))

/-- The four Reel streams of the block for a source (R28, R30, R338): the low-power beams and the reference microphones; microphone 0
(2 where PDM_D0 is retired, R351) in all four; or high-quality beams 0 and 1 and the reference microphones, decimated to 16 kHz. -/
def reelStreams (s : State) (x : AudioBlock) (i source : Nat) : List (List Int) :=
  let a := num s.audio.lp 1 1
  let b := num s.audio.lp 2 1
  if source = 0 then [lpBeam s x i 0, lpBeam s x i 1, lpLine s x i a, lpLine s x i b]
  else if source = 1 then
    let m := if chanRetired s 5 0 then 2 else 0
    List.replicate 4 (lpLine s x i m)
  else
    [(hqBeam s x i 0).map Prod.fst, (hqBeam s x i 1).map Prod.fst, hqLine s x i a, hqLine s x i b].map fun l =>
      (atRate x 0 l).map fun v => (to16 v).1

/-- The 1,280 bytes of the block: the streams interleaved per sample period, INT16. -/
def reelData (l : List (List Int)) : List Byte :=
  (List.range 160).flatMap fun t => l.flatMap fun r => toLE 2 (unsigned 16 (r.getD t 0))

/-! ### Capture blocks (R342–R344) -/

/-- Frames of a 10 ms block for a rate code (R342). -/
def ringFrames (rate : Nat) : Nat := 160 * (rate + 1)

/-- Bytes of a sample for a format code. -/
def ringSample (fmt : Nat) : Nat := if fmt = 0 then 2 else 4

/-- Block bytes B of a capture ring (R342). -/
def captureBytes (channels rate fmt : Nat) : Nat := 64 + roundUp (ringFrames rate * channels * ringSample fmt) 64

/-- Block bytes of ring `c`. -/
def blockBytes (c : Capture) : Nat := captureBytes c.channels c.rate c.fmt

/-- Address of block `k` of a ring: slot (k − 1) mod N (R342). -/
def blockAddr (c : Capture) (k : Nat) : Nat := c.addr + (k - 1) % c.blocks * blockBytes c

/-- Flags of the block (R343). -/
def captureFlags (s : State) (c : Capture) (i clips : Nat) : Nat :=
  b2n (blockMuted s i && c.sources.any (gatedSource s)) + 2 * b2n (c.sources.any (sourceSettling s i)) + 4 * b2n (clips != 0)
    + 8 * b2n (c.sources.any (sourceDegraded s)) + 16 * b2n c.resteered

/-- Data bits of a source's samples: 24, or the I2S port's data width (R342, R345). -/
def sourceBits (s : State) (c : Nat) : Nat := if arraySource c then 24 else (i2sOf s (sourcePort c)).dataWidth

/-- Frames per 10^18 ns of a port: the nominal rate, or in target mode the measured one (R346). -/
def portRate (q : I2s) : Nat := max 1 (rateHz q.rate * (1000000000 + q.offset).toNat)

/-- Nanoseconds of `k` frames of a port. -/
def framesNs (k : Nat) (q : I2s) : Nat := k * 10 ^ 18 / portRate q

/-- A looped-back sample of output slot `k` at working time `t` (R342, R348): that of the frame played then; 0 where none was. -/
def loopAt (q : I2s) (k t : Nat) : Int :=
  match q.played.find? fun e => e.1 ≤ t && t < e.1 + framesNs e.2.length q with
  | none => 0
  | some e => (e.2.getD ((t - e.1) * portRate q / 10 ^ 18) []).getD k 0

/-- Working time of the first frame of a ring's block (R343): the block's start, or for the sources of a target-mode port the time of the
first frame that came in (R346). -/
def ringTime (s : State) (c : Capture) (i : Nat) (x : AudioBlock) : Nat :=
  match c.sources.find? fun k => !arraySource k && (i2sOf s (sourcePort k)).target with
  | none => i * 62500
  | some k => ((x.firstFrame.find? fun e => e.1 == sourcePort k).map Prod.snd).getD (i * 62500)

/-- Samples of an I2S source: an input that DIN enable admits, zeros where no clock came (R346, R352); or an output looped back, sample by
sample as played where ring and port have one rate. -/
def slotLine (s : State) (x : AudioBlock) (start rate c : Nat) : List Int :=
  let q := i2sOf s (sourcePort c)
  (List.range (160 * (rate + 1))).map fun t =>
    let time := start + framesNs t { q with rate := rate }
    if inputSource c then
      (if clockLost q time || !q.flags.testBit 2 then 0 else lineAt q.dataWidth (lineOf x.slots c) t)
    else if q.rate = rate then loopAt q (c % 16) (time + 500000 / (16 * (rate + 1)))
    else lineAt q.dataWidth (lineOf x.slots c) t

/-- A source's samples of the block at a ring's rate, and how many of its 48 kHz samples were saturated (R340, R342). -/
def sourceLine (s : State) (x : AudioBlock) (i start rate c : Nat) : List Int × Nat :=
  if blockMuted s i && gatedSource s c then (List.replicate (160 * (rate + 1)) 0, 0)
  else if !arraySource c then (slotLine s x start rate c, 0)
  else if c < 0x10 then (atRate x rate (hqLine s x i c), 0)
  else
    let beam := hqBeam s x i (c - 0x10)
    (atRate x rate (beam.map Prod.fst), (beam.filter Prod.snd).length)

/-- One sample in the ring's format (R342): INT16, or INT24 sign-extended in 32 bits; whether it was saturated. -/
def ringCode (fmt w : Nat) (v : Int) : Nat × Bool :=
  if fmt = 0 then
    let y := if w = 24 then to16 v else (v, false)
    (unsigned 16 y.1, y.2)
  else (unsigned 32 (if w = 24 || !Config.i2sLeft then v else v * 256), false)

/-- Every channel of a ring's block: its codes and its clips. -/
def ringLines (s : State) (c : Capture) (i : Nat) (x : AudioBlock) : List (List Nat × Nat) :=
  c.sources.map fun k =>
    let l := sourceLine s x i (ringTime s c i x) c.rate k
    let codes := l.1.map (ringCode c.fmt (sourceBits s k))
    (codes.map Prod.fst, l.2 + (codes.filter Prod.snd).length)

/-- The samples of the block: within a frame, channels in the order of the source list. -/
def captureData (c : Capture) (l : List (List Nat × Nat)) : List Byte :=
  (List.range (ringFrames c.rate)).flatMap fun t => l.flatMap fun r => toLE (ringSample c.fmt) (r.1.getD t 0)

/-- Starts block `k` of a ring: its done word becomes 0 (R344). -/
def openBlock (c : Capture) (k : Nat) (s : State) : State := vwrite c.owner (blockAddr c k + 60) (toLE 4 0) s

/-- Measured rate offset of a ring's target-mode port (R343, R346). -/
def ringOffset (s : State) (c : Capture) : Int :=
  match c.sources.find? fun k => !arraySource k && (i2sOf s (sourcePort k)).target with
  | none => 0
  | some k => (i2sOf s (sourcePort k)).offset

/-- Notes of an AUD_WAIT reply (R350, R351). -/
def waitNotes (flags : Nat) : Nat := (if flags.testBit 0 then nMuted else 0) ||| (if flags.testBit 3 then nDegraded else 0)

/-- Ring `r` stops (R352): AUD_STOP packets complete, waits end with E_STATE. -/
def stopRing (r : Nat) (s : State) : State :=
  match tget s.audio.rings r with
  | none => s
  | some c =>
    let s1 := { s with audio.rings := tput s.audio.rings r { c with running := false, starting := false, stop := [], waits := [] } }
    let s2 := c.stop.foldl (fun t p => completeOk p (c.block % 2 ^ 32) 0 0 t) s1
    c.waits.foldl (fun t e => complete e.2 .eState 0 0 0 0 t) s2

/-- Ring `r` at the boundary that ends the block started at sample index `i` (R342–R344, R352). -/
def ringBlock (r i : Nat) (x : AudioBlock) (s : State) : State :=
  match tget s.audio.rings r with
  | none => s
  | some c =>
    if c.running then
      let k := c.block + 1
      let lines := ringLines s c i x
      let clips := sat 32 ((lines.map Prod.snd).sum)
      let flags := captureFlags s c i clips
      let data := captureData c lines
      let hdr := toLE 8 (ringTime s c i x) ++ toLE 8 k ++ toLE 4 flags ++ toLE 2 c.channels ++ toLE 2 (ringFrames c.rate) ++ toLE 4 clips
        ++ toLE 4 (unsigned 32 (ringOffset s c)) ++ List.replicate 28 0
      let s1 := vwrite c.owner (blockAddr c k + 60) (toLE 4 k) (vwrite c.owner (blockAddr c k + 64) data
        (vwrite c.owner (blockAddr c k) hdr s))
      let met := c.waits.filter fun e => e.1 ≤ k
      let d := { c with block := k, lastFlags := flags, resteered := false, waits := c.waits.filter fun e => k < e.1 }
      let s2 := { s1 with audio.rings := tput s1.audio.rings r d }
      let s3 := met.foldl (fun t e =>
        complete e.2 .ok (waitNotes flags) ((k - 1) % c.blocks) (k % 2 ^ 32) (k / 2 ^ 32) t) s2
      if d.stop.isEmpty then openBlock d (k + 1) s3 else stopRing r s3
    else if c.starting then
      if c.stop.isEmpty then
        let d := { c with starting := false, running := true, block := 0, lastFlags := 0, resteered := false }
        openBlock d 1 { s with audio.rings := tput s.audio.rings r d }
      else stopRing r s
    else s

/-! ### The Reel's writer (R27–R32, R416) -/

/-- The Reel at the boundary that ends the block started at sample index `i`: its block is kept, muted blocks as zeros. -/
def reelBlockEnd (i : Nat) (x : AudioBlock) (s0 : State) : State :=
  let s := takeSource i s0
  let back := (s.reel.restart.map fun r => decide (r ≤ i)).getD false
  let muted := reelMuted s i
  let src := s.reel.source
  let b : ReelBlock :=
    { num := i / 160, time := i * 62500, source := src, muted := muted
      data := if muted then List.replicate 1280 0 else reelData (reelStreams s x i src) }
  if lpRuns s && (!s.reel.stopped || back) then
    { s with
      reel.index := i + 160
      reel.stopped := false
      reel.restart := none
      reel.blocks := (s.reel.blocks ++ [b]).drop (s.reel.blocks.length + 1 - 1000) }
  else { s with reel.index := i + 160 }

/-- Whether the clock of line `n` runs (R335, R351). -/
def lineClocked (s : State) (n : Nat) : Bool := if n < 2 then s.pins.pdm0 else s.pins.pdm1

/-- Charges the lines whose ones density lies outside 0.5–99.5 % (R351, R393). -/
def lineFaults (x : AudioBlock) (s : State) : State :=
  x.density.foldl (fun t (n, d) =>
    if n < 8 && lineClocked t n && !t.audio.gate && !chanRetired t 5 n && (d < 5 || 995 < d) then
      chanEvent 0x09 5 n 0 0xFFFF t.safe.cfg.wLoss 0 0 t
    else t) s

/-- New records take effect at the block boundary (R341, R352): beams, the low-power record, DC_BLOCK, PDM_CLK1. Rings with a
beam that changed carry RESTEERED in the block that begins. -/
def takeRecords (s : State) : State :=
  let changed := tkeys s.audio.beamsNext
  let hit := fun (c : Capture) => changed.any fun b => c.sources.contains (0x10 + b)
  let beams := changed.foldl (fun t b => tput t b (tgetD s.audio.beamsNext b)) s.audio.beams
  let s1 := { s with
    audio.beams := beams
    audio.beamsNext := []
    audio.beamsOld := changed.foldl (fun t b => tput t b (tgetD s.audio.beams b)) []
    audio.lpOld := s.audio.lpNext.map fun _ => s.audio.lp
    audio.dcBlock := s.audio.dcNext.getD s.audio.dcBlock
    audio.dcNext := none
    audio.lp := s.audio.lpNext.getD s.audio.lp
    audio.lpNext := none
    audio.rings := tmap s.audio.rings fun _ c => if hit c then { c with resteered := true } else c }
  match s1.audio.clk1Next with
  | none => s1
  | some k =>
    { s1 with
      audio.clk1 := k, audio.clk1Next := none
      audio.settle1 := some (s1.reel.index * 62500 + s1.casc.hqSettle * 1000000) }

/-- Changes I2S port `n`. -/
def modI2s (n : Nat) (f : I2s → I2s) (s : State) : State := { s with audio.i2s := tmod s.audio.i2s n f }

/-- The measured rate offsets of the block reach their target-mode ports (R346). -/
def takeOffsets (x : AudioBlock) (s : State) : State :=
  x.rateOffset.foldl (fun t e => if e.1 < 2 && (i2sOf t e.1).target then modI2s e.1 (fun q => { q with offset := e.2 }) t else t) s

/-- The delay lines run on (R339, R341) past the block that started at sample index `i`; a path that does not run keeps none. -/
def keepLines (i : Nat) (x : AudioBlock) (s : State) : State :=
  { s with
    audio.hist := if s.audio.hq then (List.range 16).map fun m => (m, (hqDelay s x i m).drop 480) else []
    audio.lpHist := if lpRuns s then (List.range 4).map fun m => (m, (lpDelay s x i m).drop 160) else [] }

/-- Frames played and clock losses that ended before a working time are done with. -/
def dropPlayed (t : Nat) (q : I2s) : I2s :=
  { q with played := q.played.filter (fun e => t < e.1 + framesNs e.2.length q), gaps := q.gaps.filter fun g => t < g.2 }

/-- AUDIO_BLOCK_END (R27–R32, R341–R344, R350–R352): the 10 ms boundary. -/
def execAudioBlockEnd (x : AudioBlock) (s : State) : Res :=
  let i := s.reel.index
  let s1 := takeOffsets x (elapseTo ((i + 160) * 62500) s)
  let s2 := (tkeys s1.audio.rings).foldl (fun t r => ringBlock r i x t) s1
  let s3 := keepLines i x (reelBlockEnd i x s2)
  .next (settled (lineFaults x (takeRecords { s3 with
    audio.i2s := tmap s3.audio.i2s fun _ q => dropPlayed ((i + 160) * 62500) q })))

/-! ### Playback (R347, R348) -/

/-- Block bytes of a playback ring (R347). -/
def playBytes (p : I2s) : Nat := 64 + ringFrames p.rate * p.slots * 4

/-- `a / b` rounded to the nearest integer, ties away from zero (R144). -/
def divNearest (a b : Nat) : Nat := (2 * a + b) / (2 * b)

/-- The frames of playback data (R347): each sample the low 24 or 16 bits of its 4 bytes. -/
def playFrames (q : I2s) (data : List Byte) : List (List Int) :=
  (List.range (data.length / (4 * q.slots))).map fun t =>
    (List.range q.slots).map fun k => signed q.dataWidth (num data (4 * (t * q.slots + k)) 4 % 2 ^ q.dataWidth)

/-- A port plays frames from working time `t` on (R348): they go out on DOUT, which DOUT enable drives (R352), and are kept for the loopback
(DESIGN CHOICE, log 30: with DOUT enable clear nothing is played, and the ring is read on). -/
def playOut (n t : Nat) (fs : List (List Int)) (s : State) : State :=
  let q := i2sOf s n
  if !q.flags.testBit 3 then s
  else
    modI2s n (fun q => { q with played := q.played ++ [(t, fs)] })
      { s with out := s.out ++ [.played n (fs.flatMap fun f => f.flatMap fun v => toLE 4 (unsigned 32 v))] }

/-- Plays one block period of zeros (R348): an underrun. -/
def playZeros (n : Nat) (q : I2s) (g : Play) (s : State) : State :=
  let u := g.underruns + 1
  let s1 := vwrite q.owner (g.addr + 8) (toLE 4 u) s
  let zeros := List.replicate (ringFrames q.rate) (List.replicate q.slots (0 : Int))
  playOut n g.point zeros
    (modI2s n (fun q => { q with play := some { g with underruns := u, point := g.point + framesNs (ringFrames q.rate) q } }) s1)

/-- Plays the block at the head (R348): zeros up to a presentation time that lies ahead, or without the frames already past; the
head advances, and after a LAST block the port stops once it has been played. The reserved bytes of the control area and of the block's
header (flags above bit 0, bytes 12 to 63) are ignored (DESIGN CHOICE, log 30). -/
def playBlock (n : Nat) (q : I2s) (g : Play) (s : State) : State :=
  let base := g.addr + 64 + g.head % g.blocks * playBytes q
  let blk := vread s q.owner base (playBytes q)
  let t := num blk 0 8
  let frames := playFrames q (blk.drop 64)
  let ahead := t != 0 && g.point < t && 10 ^ 18 ≤ (t - g.point) * portRate q
  let past := t != 0 && t < g.point
  let lead := if ahead then divNearest ((t - g.point) * portRate q) (10 ^ 18) else 0
  let skip := if past then min (ringFrames q.rate) (((g.point - t) * portRate q + (10 ^ 18 - 1)) / 10 ^ 18) else 0
  let fs := List.replicate lead (List.replicate q.slots (0 : Int)) ++ frames.drop skip
  let late := g.late + b2n past
  let head := (g.head + 1) % 2 ^ 32
  let s1 := vwrite q.owner (g.addr + 12) (toLE 4 late) (vwrite q.owner (g.addr + 4) (toLE 4 head) s)
  playOut n g.point fs (modI2s n (fun q => { q with play := some { g with
      head := head, late := late, last := (num blk 8 1).testBit 0
      point := g.point + framesNs (lead + (ringFrames q.rate - skip)) q } }) s1)

/-- A playback ring runs (R347): until the LAST block has been played. -/
def playRuns (s : State) (g : Play) : Bool := g.running && !(g.last && decide (g.point ≤ s.time.now))

/-- PLAYBACK_BLOCK_FETCH (R348): 1 ms before the output point the tail is read. After the LAST block nothing is fetched: the port stops at that
block's end (R347). A port whose clock is lost outputs nothing (R346), and DOUT is low in the safe state (R407). -/
def execPlaybackBlockFetch (n : Nat) (s : State) : Res :=
  if 1 < n then .fault .noSuchUnit
  else
    let q := i2sOf s n
    match q.play with
    | none => .next s
    | some g =>
      if !g.running then .next s
      else if g.last then .next (modI2s n (fun q => { q with play := some { g with running := false } }) (elapseTo g.point s))
      else if q.lost || s.safe.safeState || (held s && rangeHost s q.owner g.addr 64) then .next s
      else
        let s1 := elapseTo (g.point - 1000000) s
        let tail := num (vread s1 q.owner g.addr 4) 0 4
        .next (if tail = g.head then playZeros n q g s1 else playBlock n q g s1)

/-- I2S_CLOCK_LOSS (R346): a target-mode port outputs nothing further, and its inputs are zeros, from the first of the frames that did not
come on (two frames before the loss is seen: DESIGN CHOICE, log 30). -/
def execI2sClockLoss (n : Nat) (s : State) : Res :=
  if 1 < n then .fault .noSuchUnit
  else if (i2sOf s n).target && !(i2sOf s n).lost then
    .next (modI2s n (fun q => { q with
      lost := true, since := s.time.now - framesNs 2 q
      played := q.played.map fun e => (e.1, e.2.take ((s.time.now - framesNs 2 q - e.1) * portRate q / 10 ^ 18)) }) s)
  else .next s

/-- I2S_CLOCK_RESUME (R346): the port resumes at the next complete frame. -/
def execI2sClockResume (n : Nat) (s : State) : Res :=
  if 1 < n then .fault .noSuchUnit
  else if (i2sOf s n).lost then
    .next (modI2s n (fun q => { q with
      lost := false, gaps := q.gaps ++ [(q.since, s.time.now)]
      play := q.play.map fun g => { g with point := max g.point s.time.now } }) s)
  else .next s

/-! ### The microphone gate (R32, R349, R350) -/

/-- PRIV_MIC_ASSERT (R349). -/
def execPrivMicAssert (s : State) : Res :=
  if s.audio.pin then .next s
  else .next (glbEvent 4 (micPins { s with audio.pin := true, audio.gate := true }))

/-- The microphone gate is released (R349, R350): the clocks return, the paths that run settle anew, blocks stay muted until they have, and a
handover to the high-quality path that stands waits for its settling (R30). -/
def releaseMic (s : State) : State :=
  let lp := s.time.now + 2000000
  micPins { s with
    audio.pin := false, audio.gate := false
    audio.settle0 := some (hqSettled s), audio.settle1 := some (hqSettled s), audio.lpSettle := some lp
    audio.mutedTo := some (boundaryAt (hqSettled s)), reel.mutedTo := some (boundaryAt lp)
    reel.handover := s.reel.handover.map fun h => if h.1 = 2 then (2, max h.2 (boundaryAt (hqSettled s + 20000000))) else h }

/-- PRIV_MIC_RELEASE (R349): the input is deasserted and stays so for 10 ms of working time, at whose end the gate is released. -/
def execPrivMicRelease (s : State) : Res :=
  if !s.audio.pin then .next s
  else .next (glbEvent 4 (releaseMic (elapseTo (s.time.now + 10000000) s)))

/-! ### Commands (R352, R353) -/

/-- AUD_QUERY words. -/
def audWords (s : State) : Nat × Nat × Nat :=
  let rings := maskOf ((s.audio.rings.filter fun e => e.2.running || e.2.starting).map Prod.fst)
  let lines := maskOf ((List.range 8).filter fun n => chanRetired s 5 n)
  let under := fun n => sat 16 ((((i2sOf s n).play).map Play.underruns).getD 0)
  (b2n s.audio.gate + 2 * b2n s.audio.hq + 4 * s.audio.clk0 + 16 * s.audio.clk1 + 64 * lines + 2 ^ 14 * s.audio.arrayOwner,
   (i2sOf s 0).owner + 2 ^ 10 * (i2sOf s 1).owner + 2 ^ 20 * rings,
   under 0 + 65536 * under 1)

/-- Effect of AUD_QUERY. -/
def actAudQuery (p : Pkt) (s : State) : State :=
  let (w0, w1, w2) := audWords s
  completeOk p w0 w1 w2 s

/-- AUD_QUERY (R352). -/
def execAudQuery (p : Pkt) (s : State) : Res := runCmd p s none (actAudQuery p)

/-- A capture ring that runs or starts at the next boundary. -/
def ringActive (c : Capture) : Bool := c.running || c.starting

/-- Whether unit 0 (array), 1 or 2 (I2S0, I2S1) runs: a running ring takes its sources, or it plays (R353). -/
def unitRuns (s : State) (u : Nat) : Bool :=
  let uses := fun (k : Nat) => if u = 0 then arraySource k else !arraySource k && sourcePort k == u - 1
  (s.audio.rings.any fun e => ringActive e.2 && e.2.sources.any uses)
    || (u != 0 && (((i2sOf s (u - 1)).play).map (playRuns s)).getD false)

/-- Checks of AUD_ASSIGN. -/
def chkAudAssign (p : Pkt) (s : State) : Option Fail :=
  let h := fld p 18 2
  firstFail [(2 < fld p 16 1, .eRange, 16), (512 < h, .eRange, 18), (h != 0 && !ctxLive s h, .eHandle, 18),
    (unitRuns s (fld p 16 1), .eState, 16)]

/-- Effect of AUD_ASSIGN: a port with a new owner is unconfigured; MIC_CLASS stays (R350). -/
def actAudAssign (p : Pkt) (s : State) : State :=
  let u := fld p 16 1
  let h := fld p 18 2
  completeOk p 0 0 0 (
    if u = 0 then { s with audio.arrayOwner := h }
    else if (i2sOf s (u - 1)).owner = h then s
    else modI2s (u - 1) (fun q => { owner := h, micClass := q.micClass }) s)

/-- AUD_ASSIGN (R352). -/
def execAudAssign (p : Pkt) (s : State) : Res := runCmd p s (chkAudAssign p s) (actAudAssign p)

/-- Checks of AUD_CLOCK. -/
def chkAudClock (p : Pkt) (s : State) : Option Fail :=
  firstFail [(2 < fld p 16 1, .eRange, 16), (s.audio.arrayOwner != p.ctx, .eDenied, 16)]

/-- Effect of AUD_CLOCK: PDM_CLK1 restarts at the next block boundary. -/
def actAudClock (p : Pkt) (s : State) : State := completeOk p 0 0 0 { s with audio.clk1Next := some (fld p 16 1) }

/-- AUD_CLOCK (R352). -/
def execAudClock (p : Pkt) (s : State) : Res := runCmd p s (chkAudClock p s) (actAudClock p)

/-- Checks of a 64-byte record at the packet's address. -/
def recordChk (p : Pkt) (s : State) (off : Nat) : List (Bool × Code × Nat) :=
  addrChk s p.ctx (fld p off 8) 64 16 off ++ permChk s p.ctx (fld p off 8) 64 false off

/-- Checks of AUD_LP. -/
def chkAudLp (p : Pkt) (s : State) : Option Fail :=
  match firstFail (recordChk p s 16) with
  | some f => some f
  | none =>
    let r := vread s p.ctx (fld p 16 8) 64
    orFail (firstFail [(1 < num r 3 1 || num r 36 28 != 0, .eReserved, 16), (num r 0 1 < 1 || 4 < num r 0 1, .eRange, 16),
        (3 < num r 1 1 || 3 < num r 2 1, .eRange, 16), ((List.range 8).any fun i => 4096 < entryDelay r 4 i, .eRange, 16)])
      (wordFail s p.ctx (fld p 16 8) 64 16)

/-- Effect of AUD_LP. -/
def actAudLp (p : Pkt) (s : State) : State :=
  let s := readWords p.ctx (fld p 16 8) 64 s
  completeOk p 0 0 0 { s with audio.lpNext := some (vread s p.ctx (fld p 16 8) 64) }

/-- AUD_LP (R352). -/
def execAudLp (p : Pkt) (s : State) : Res := runHost p s (rangeHost s p.ctx (fld p 16 8) 64) (chkAudLp p s) (actAudLp p)

/-- Checks of AUD_BEAM. -/
def chkAudBeam (p : Pkt) (s : State) : Option Fail :=
  let b := fld p 16 1
  match firstFail ((7 < b, .eRange, 16) :: recordChk p s 24) with
  | some f => some f
  | none =>
    let r := vread s p.ctx (fld p 24 8) 64
    orFail (firstFail [((List.range 16).any fun i => 4096 < entryDelay r 0 i, .eRange, 24),
        (if b < 2 then p.ctx != 0 else s.audio.arrayOwner != p.ctx, .eDenied, 16)])
      (wordFail s p.ctx (fld p 24 8) 64 24)

/-- Effect of AUD_BEAM. -/
def actAudBeam (p : Pkt) (s : State) : State :=
  let s := readWords p.ctx (fld p 24 8) 64 s
  completeOk p 0 0 0 { s with
    audio.beamsNext := tput s.audio.beamsNext (fld p 16 1) (vread s p.ctx (fld p 24 8) 64)
    audio.dcNext := some ((fld p 17 1).testBit 0) }

/-- AUD_BEAM (R341). -/
def execAudBeam (p : Pkt) (s : State) : Res := runHost p s (rangeHost s p.ctx (fld p 24 8) 64) (chkAudBeam p s) (actAudBeam p)

/-- A context owns the unit of a source (R353). -/
def sourceOwned (s : State) (h c : Nat) : Bool := if arraySource c then s.audio.arrayOwner == h else (i2sOf s (sourcePort c)).owner == h

/-- Sources of a target-mode port stand with sources of the same port only (R342). -/
def mixed (s : State) (l : List Nat) : Bool :=
  l.any fun c => !arraySource c && (i2sOf s (sourcePort c)).target
    && l.any fun d => arraySource d || sourcePort d != sourcePort c

/-- The source codes of AUD_CAPTURE. -/
def captureSources (p : Pkt) : List Nat := (List.range (fld p 17 1)).map fun i => fld p (32 + i) 1

/-- A ring that another context holds, and one that runs (R353). -/
def ringHeld (p : Pkt) (s : State) : List (Bool × Code × Nat) :=
  [(((tget s.audio.rings (fld p 16 1)).map fun c => c.owner != p.ctx).getD false, .eBusy, 16)]

/-- Ring `r` runs. -/
def ringRuns (s : State) (r : Nat) : Bool := ((tget s.audio.rings r).map ringActive).getD false

/-- Checks of AUD_CAPTURE. -/
def chkAudCapture (p : Pkt) (s : State) : Option Fail :=
  let n := fld p 17 1
  let src := captureSources p
  let size := captureBytes n (fld p 18 1) (fld p 19 1)
  let ring := fld p 16 1
  let busy := ringHeld p s ++ [(ringRuns s ring, .eState, 16)]
  if n = 0 then firstFail ((7 < ring, .eRange, 16) :: busy)
  else
    firstFails [[(7 < ring, .eRange, 16), (24 < n, .eRange, 17), (2 < fld p 18 1, .eRange, 18), (1 < fld p 19 1, .eRange, 19),
        (fld p 20 4 < 4 || 1024 < fld p 20 4, .eRange, 20)],
      addrChk s p.ctx (fld p 24 8) 1 65536 24,
      [(src.any fun c => !sourceOk c, .eRange, 32),
       (distinct src != src, .eCombination, 32), (mixed s src, .eCombination, 32),
       (!ringObj s p.ctx (fld p 24 8) (fld p 20 4 * size), .eCombination, 24),
       (src.any fun c => !sourceOwned s p.ctx c, .eDenied, 32)],
      busy]

/-- Effect of AUD_CAPTURE: the ring is set up, or with no channels released. -/
def actAudCapture (p : Pkt) (s : State) : State :=
  let r := fld p 16 1
  if fld p 17 1 = 0 then completeOk p 0 0 0 { s with audio.rings := tdel s.audio.rings r }
  else
    let c : Capture :=
      { owner := p.ctx, channels := fld p 17 1, rate := fld p 18 1, fmt := fld p 19 1, blocks := fld p 20 4, addr := fld p 24 8
        sources := captureSources p }
    completeOk p (blockBytes c) 0 0 { s with audio.rings := tput s.audio.rings r c }

/-- AUD_CAPTURE (R342). -/
def execAudCapture (p : Pkt) (s : State) : Res := runCmd p s (chkAudCapture p s) (actAudCapture p)

/-- Checks of AUD_START. -/
def chkAudStart (p : Pkt) (s : State) : Option Fail :=
  let r := fld p 16 1
  let src := ((tget s.audio.rings r).map Capture.sources).getD []
  firstFails [[(7 < r, .eRange, 16), (mixed s src, .eCombination, 16), (src.any fun c => !sourceOwned s p.ctx c, .eDenied, 16)], ringHeld p s,
    [((tget s.audio.rings r).isNone || ringRuns s r, .eState, 16), (s.audio.gate && src.any (gatedSource s), .eMuted, 16)]]

/-- Effect of AUD_START: blocks begin at the next block boundary. -/
def actAudStart (p : Pkt) (s : State) : State :=
  completeOk p 0 0 0 { s with audio.rings := tupd s.audio.rings (fld p 16 1) fun c => { c with starting := true, block := 0 } }

/-- AUD_START (R352). -/
def execAudStart (p : Pkt) (s : State) : Res := runCmd p s (chkAudStart p s) (actAudStart p)

/-- Checks of AUD_STOP. -/
def chkAudStop (p : Pkt) (s : State) : Option Fail :=
  firstFails [[(7 < fld p 16 1, .eRange, 16)], ringHeld p s, [(!ringRuns s (fld p 16 1), .eState, 16)]]

/-- Effect of AUD_STOP: it completes after the block in progress. -/
def actAudStop (p : Pkt) (s : State) : State :=
  handOn p { s with audio.rings := tupd s.audio.rings (fld p 16 1) fun c => { c with stop := c.stop ++ [p] } }

/-- AUD_STOP (R352). -/
def execAudStop (p : Pkt) (s : State) : Res := runCmd p s (chkAudStop p s) (actAudStop p)

/-- Checks of AUD_I2S. -/
def chkAudI2s (p : Pkt) (s : State) : Option Fail :=
  let n := fld p 16 1
  let slots := fld p 20 1
  firstFail [(1 < n, .eRange, 16), (2 < fld p 17 1, .eRange, 17), (1 < fld p 18 1, .eRange, 18), (2 < fld p 19 1, .eRange, 19),
    (!([2, 4, 8, 16].contains slots), .eRange, 20), (!([16, 32].contains (fld p 21 1)), .eRange, 21),
    (!([16, 24].contains (fld p 22 1)), .eRange, 22), (24576000 < rateHz (fld p 19 1) * slots * fld p 21 1, .eRange, 19),
    (fld p 21 1 < fld p 22 1, .eCombination, 22), (fld p 17 1 < 2 && slots != 2, .eCombination, 20),
    ((i2sOf s n).owner != p.ctx, .eDenied, 16), (unitRuns s (n + 1), .eState, 16)]

/-- Effect of AUD_I2S. -/
def actAudI2s (p : Pkt) (s : State) : State :=
  completeOk p 0 0 0 (modI2s (fld p 16 1) (fun q =>
    { owner := q.owner, configured := true, mode := fld p 17 1, target := fld p 18 1 == 1, rate := fld p 19 1, slots := fld p 20 1
      width := fld p 21 1, dataWidth := fld p 22 1, flags := fld p 23 1, micClass := q.micClass || (fld p 23 1).testBit 0
      play := q.play }) s)

/-- AUD_I2S (R345). -/
def execAudI2s (p : Pkt) (s : State) : Res := runCmd p s (chkAudI2s p s) (actAudI2s p)

/-- An object of context `h` with READ and WRITE, of the device or the host, that holds `n` bytes from `va` (R347). -/
def playObj (s : State) (h va n : Nat) : Bool :=
  s.store.objs.any fun e => e.2.ctx == h && e.2.read && e.2.write && e.2.va ≤ va && va + n ≤ e.2.va + e.2.pages * 65536

/-- STOP of AUD_PLAY. -/
def playStop (p : Pkt) : Bool := (fld p 17 1).testBit 0

/-- Checks of AUD_PLAY. -/
def chkAudPlay (p : Pkt) (s : State) : Option Fail :=
  let n := fld p 16 1
  let q := i2sOf s n
  if playStop p then firstFail [(1 < n, .eRange, 16), (q.owner != p.ctx, .eDenied, 16)]
  else
    firstFails [[(1 < n, .eRange, 16), (fld p 20 4 < 2 || 1024 < fld p 20 4, .eRange, 20)],
      addrChk s p.ctx (fld p 24 8) 1 65536 24,
      [(!playObj s p.ctx (fld p 24 8) (64 + fld p 20 4 * playBytes q), .eCombination, 24), (q.owner != p.ctx, .eDenied, 16),
       (!q.configured || (q.play.map (playRuns s)).getD false, .eState, 16)]]

/-- Effect of AUD_PLAY (R347, R348): the counts of the control area that the RY3 writes begin at 0 (log 30). -/
def actAudPlay (p : Pkt) (s : State) : State :=
  let n := fld p 16 1
  let q := i2sOf s n
  if playStop p then
    completeOk p (playBytes q) 0 0 (modI2s n (fun q => { q with play := q.play.map fun g => { g with running := false } }) s)
  else
    let g : Play :=
      { addr := fld p 24 8, blocks := fld p 20 4, running := true
        point := if fld p 32 8 = 0 then s.time.now else max (fld p 32 8) s.time.now }
    let s1 := vwrite p.ctx (g.addr + 4) (List.replicate 12 0) s
    completeOk p (playBytes q) 0 0 (modI2s n (fun q => { q with play := some g }) s1)

/-- AUD_PLAY (R347). -/
def execAudPlay (p : Pkt) (s : State) : Res := runHost p s false (chkAudPlay p s) (actAudPlay p)

/-- Whether ring `r` holds a block at or above `k`. -/
def ringHolds (s : State) (r k : Nat) : Bool := ((tget s.audio.rings r).map fun c => c.block != 0 && k ≤ c.block).getD false

/-- Checks of AUD_WAIT. -/
def chkAudWait (p : Pkt) (s : State) : Option Fail :=
  let r := fld p 16 1
  firstFails [[(7 < r, .eRange, 16)], ringHeld p s, [(!ringRuns s r && !ringHolds s r (fld p 24 8), .eState, 16)]]

/-- Effect of AUD_WAIT. -/
def actAudWait (p : Pkt) (s : State) : State :=
  let r := fld p 16 1
  let k := fld p 24 8
  match tget s.audio.rings r with
  | none => s
  | some c =>
    if ringHolds s r k then
      complete p .ok (waitNotes c.lastFlags) ((c.block - 1) % c.blocks) (c.block % 2 ^ 32) (c.block / 2 ^ 32) s
    else handOn p { s with audio.rings := tput s.audio.rings r { c with waits := c.waits ++ [(k, p)] } }

/-- AUD_WAIT (R352). -/
def execAudWait (p : Pkt) (s : State) : Res := runCmd p s (chkAudWait p s) (actAudWait p)

end Sys2Proof.Machine
end

