-- ==== Sys2Proof/Machine/Timekeeper.lean ====
section
/-! DEFINITION. The Timekeeper (14, R354–R363): the two time domains, the selection, and the TK commands. -/

namespace Sys2Proof.Machine

/-- Domain 0 is A, 1 is B. -/
def domOf (s : State) (d : Nat) : Domain := if d = 0 then s.time.domA else s.time.domB

/-- Changes domain `d`. -/
def modDom (d : Nat) (f : Domain → Domain) (s : State) : State :=
  if d = 0 then { s with time.domA := f s.time.domA } else { s with time.domB := f s.time.domB }

/-- Locked (R359). -/
def domLocked (s : State) (d : Nat) : Bool := (domOf s d).state == 3

/-- The preferred domain (R382). -/
def preferred (s : State) : Nat := b2n s.time.preferB

/-- Ethernet port `n`. -/
def ethOf (s : State) (n : Nat) : Eth := tgetD s.net.eths n

/-- Changes Ethernet port `n`. -/
def modEth (n : Nat) (f : Eth → Eth) (s : State) : State := { s with net.eths := tmod s.net.eths n f }

/-- Residual e of domain `d`: D − b − W in ns (R360). -/
def residualOf (s : State) (d : Nat) : Int := ((domOf s d).offset - s.time.base.getD 0) / 65536

/-- Selects domain `d` (R360, R362): the first selection since power-on reset sets the base so that e is 0. -/
def selectDom (d : Nat) (s : State) : State :=
  let s1 := match s.time.base with
    | some _ => s
    | none => { s with time.base := some (domOf s d).offset }
  { s1 with
    time.sel := d
    time.residual := residualOf s1 d
    time.switched := if d = preferred s then false else s.time.switched }

/-- Leaves the selected domain (R362, R363): a departure from the preferred one is remembered. -/
def leaveDom (s : State) : State :=
  { s with time.forced := false, time.switched := s.time.switched || s.time.sel == preferred s }

/-- The rules of R362 and R363 after any change of the domains. -/
def reselect (s : State) : State :=
  let sel := s.time.sel
  let pref := preferred s
  if sel < 2 then
    if domLocked s sel then
      if !s.time.forced && sel != pref && domLocked s pref && !s.time.switched then glbEvent 5 (selectDom pref s) else s
    else
      let s1 := leaveDom s
      if domLocked s1 (1 - sel) then glbEvent 5 (selectDom (1 - sel) s1)
      else glbEvent 5 { s1 with time.sel := 2, time.residual := 0, time.rate := baseRate s }
  else if domLocked s pref then selectDom pref s
  else if domLocked s (1 - pref) then selectDom (1 - pref) s
  else s

/-- The slave port of a domain by BMCA (R358): of the ports that have heard an Announce the one with the best priority vector; the others are
passive. -/
def slavePort (d : Domain) : Option Nat :=
  (d.heard.find? fun e => d.heard.all fun f => e.2.1 ≤ f.2.1).map Prod.fst

/-- Whether gPTP messages of domain `d` on port `n` are heard (R358, R359). -/
def gptpHears (s : State) (d n : Nat) : Bool :=
  keeperOn s && (domOf s d).state != 0 && (domOf s d).ports.testBit n && (ethOf s n).up && !chanRetired s 6 n

/-- Whether nine estimates, eight Sync intervals, lie within a 200 ns span (R359). -/
def spanOk (l : List Int) : Bool :=
  9 ≤ l.length && l.all fun a => l.all fun b => a - b ≤ 200 * 65536

/-- A Sync is followed on the slave port; while no port has heard an Announce, on any (R358, R359). -/
def syncFollowed (s : State) (d n : Nat) : Bool := gptpHears s d n && ((slavePort (domOf s d)).map (· == n)).getD true

/-- Receive timestamp of a frame that comes in at working time `t` on port `n`: with the ingress adjustment (R356). -/
def ingress (s : State) (n t : Nat) : Int := (t : Int) + s.time.adjust.getD (2 * n) 0

/-- The domain's offset against working time that a Sync gives (R356, R358): its time and the mean link delay, less the receive timestamp. -/
def syncOffset (m : SyncMsg) (s : State) : Int :=
  ((m.domainTime : Int) + (tgetD s.time.delay m.port : Nat) * 65536) - ingress s m.port s.time.now * 65536

/-- A Sync of a followed domain that gives offset `o` (R359): it joins the newest nine; the state follows their span, the rate the message. -/
def takeSync (m : SyncMsg) (now : Nat) (o : Int) (d : Domain) : Domain :=
  let l := (o :: (if d.state = 1 then [] else d.recent)).take 9
  { d with
    offset := o, recent := l, lastSync := now, timeout := m.interval * m.receiptTimeout, rate := m.rate
    state := if spanOk l then 3 else 2
    lockedSince := if d.state = 3 then d.lockedSince else now }

/-- GPTP_SYNC (R359–R363). -/
def execGptpSync (m : SyncMsg) (s : State) : Res :=
  if 1 < m.domain ∨ 1 < m.port then .fault .noSuchUnit
  else if !syncFollowed s m.domain m.port then .next s
  else
    let s1 := modDom m.domain (takeSync m s.time.now (syncOffset m s)) s
    let s2 := if s1.time.sel = m.domain then { s1 with time.residual := residualOf s1 m.domain } else s1
    .next (reselect s2)

/-- An Announce of port `n` (R358, R359): BMCA chooses the slave port among those heard; its grandmaster is in use, and another identity than
before returns the domain to Acquiring and counts as a change. -/
def takeAnnounce (n : Nat) (a : Announced) (due : Nat) (d : Domain) : Domain :=
  let x := { d with heard := tput d.heard n (a.vector, a.identity, due) }
  match slavePort x with
  | none => x
  | some p =>
    let (_, gm, at_) := tgetD x.heard p
    let y := { x with announceDue := some at_ }
    if y.state = 1 then { y with state := 2, grandmaster := some gm, recent := [] }
    else match y.grandmaster with
      | some g => if g = gm then y else { y with state := 2, grandmaster := some gm, recent := [], changes := y.changes + 1 }
      | none => { y with grandmaster := some gm }

/-- GPTP_ANNOUNCE (R358, R359): the Announce receipt timeout, in ns, starts anew. -/
def execGptpAnnounce (d n : Nat) (gm : Announced) (receiptTimeout : Nat) (s : State) : Res :=
  if 1 < d ∨ 1 < n then .fault .noSuchUnit
  else if !gptpHears s d n then .next s
  else .next (reselect (modDom d (takeAnnounce n gm (s.time.now + receiptTimeout)) s))

/-- GPTP_PDELAY (R358): the mean link delay of a port, which both domains share, with the adjustments of both timestamps that the port took
(R356); a request is answered in two steps. -/
def execGptpPdelay (n : Nat) (delay : Pdelay) (s : State) : Res :=
  if 1 < n then .fault .noSuchUnit
  else if !(keeperOn s && (ethOf s n).up) then .next s
  else match delay with
    | .measured d =>
      let adj := (s.time.adjust.getD (2 * n) 0 - s.time.adjust.getD (2 * n + 1) 0) / 2
      .next { s with time.delay := tput s.time.delay n ((d : Int) + adj).toNat }
    | .request t =>
      let s1 := elapseTo t s
      .next (modEth n (fun e => { e with gptp := e.gptp ++ [.pdelayResp (ingress s1 n t).toNat] }) s1)

/-- A domain loses its grandmaster (R359), and what its slave port had heard. -/
def loseDom (d : Nat) (s : State) : State :=
  modDom d (fun x => if 2 ≤ x.state then
    { x with state := 1, grandmaster := none, recent := [], timeout := 0, announceDue := none
             heard := match slavePort x with | some p => tdel x.heard p | none => x.heard } else x) s

/-- When the first of a domain's two receipt timeouts expires (R359). -/
def receiptDue (d : Domain) : Nat :=
  let sync := if d.timeout = 0 then none else some (d.lastSync + d.timeout)
  match sync, d.announceDue with
  | some a, some b => min a b
  | some a, none => a
  | none, some b => b
  | none, none => 0

/-- SYNC_RECEIPT_TIMEOUT (R359, R362, R363): the domain's syncReceiptTimeout or announceReceiptTimeout expires. -/
def execSyncReceiptTimeout (d : Nat) (s : State) : Res :=
  if 1 < d then .fault .noSuchUnit
  else if (domOf s d).state < 2 then .next s
  else .next (reselect (loseDom d (elapseTo (receiptDue (domOf s d)) s)))

/-- REVERTIVE_TIMER (R362): the preferred domain has been Locked for 10 s. -/
def execRevertiveTimer (s : State) : Res :=
  let p := preferred s
  if s.time.revertive && !s.time.forced && s.time.sel < 2 && s.time.sel != p && domLocked s p then
    .next (glbEvent 5 (selectDom p (elapseTo ((domOf s p).lockedSince + 10 * 10 ^ 9) s)))
  else .next s

/-! ### The TK commands (R382, R383) -/

/-- Saturates a signed number to 32 bits. -/
def sat32 (i : Int) : Int := max (-(2 : Int) ^ 31) (min ((2 : Int) ^ 31 - 1) i)

/-- A 1588 timestamp of 12 bytes from units of 2^-16 ns (R382). -/
def stampBytes (t : Int) : List Byte :=
  let ns := t / 65536
  toLE 6 (unsigned 48 (ns / 1000000000)) ++ toLE 4 (ns % 1000000000).toNat ++ toLE 2 (t % 65536).toNat

/-- Time of domain `d` for the time record: 0 unless Locked (R382). -/
def domainStamp (s : State) (d : Nat) : List Byte :=
  if domLocked s d then stampBytes ((s.time.now : Int) * 65536 + (domOf s d).offset) else List.replicate 12 0

/-- Residual as reported: 0 while no domain is selected (R363). -/
def reportedResidual (s : State) : Int := if s.time.sel < 2 then sat32 s.time.residual else 0

/-- Rate as reported (R361, R363): while a residual of 100 ns or more is removed, 100 ppm in its direction; below that the servo noise, at most
as much; 0 without a residual. -/
def reportedRate (s : State) : Int :=
  let e := reportedResidual s
  let r : Int := if e = 0 then 0 else if e ≤ -100 ∨ 100 ≤ e then 100000 else (Config.servoRate e % 100001 : Nat)
  if e < 0 then -r else r

/-- The 64-byte time record (R382). -/
def timeRecord (s : State) : List Byte :=
  let e := reportedResidual s
  let slewing := decide (e ≤ -100) || decide (100 ≤ e)
  toLE 8 s.time.now ++ stampBytes (s.time.base.getD 0) ++ toLE 4 (unsigned 32 e) ++ domainStamp s 0 ++ domainStamp s 1
    ++ toLE 1 s.time.sel ++ toLE 1 s.time.domA.state ++ toLE 1 s.time.domB.state
    ++ toLE 1 (b2n slewing + 2 * b2n s.time.forced) ++ toLE 4 (unsigned 32 (reportedRate s))
    ++ toLE 2 s.time.domA.changes.toNat ++ toLE 2 s.time.domB.changes.toNat ++ toLE 4 0

/-- Checks of TK_QUERY. -/
def chkTkQuery (p : Pkt) (s : State) : Option Fail :=
  firstFails [destChk p s 64 16, permChk s p.ctx (fld p 16 8) 64 true 16]

/-- Effect of TK_QUERY. -/
def actTkQuery (p : Pkt) (s : State) : State :=
  completeOk p (s.time.now % 2 ^ 32) (s.time.now / 2 ^ 32) (unsigned 32 (reportedResidual s))
    (vwrite p.ctx (fld p 16 8) (timeRecord s) s)

/-- TK_QUERY (R382). -/
def execTkQuery (p : Pkt) (s : State) : Res := runHost p s false (chkTkQuery p s) (actTkQuery p)

/-- Checks of TK_CONFIG. -/
def chkTkConfig (p : Pkt) (_s : State) : Option Fail :=
  let adj := fun (i : Nat) => signed 16 (fld p (20 + 2 * i) 2)
  firstFail [(127 < fld p 16 1, .eRange, 16), (127 < fld p 17 1, .eRange, 17),
    ((List.range 4).any fun i => adj i < -1000 || 1000 < adj i, .eRange, 20)]

/-- A domain as TK_CONFIG sets it: enabled, it looks for a grandmaster; a new number starts it anew (R359). -/
def setDomain (en : Bool) (number ports : Nat) (d : Domain) : Domain :=
  if !en then { number := number, ports := ports, changes := d.changes }
  else if d.state = 0 || d.number != number then { number := number, ports := ports, changes := d.changes, state := 1 }
  else { d with ports := ports }

/-- Effect of TK_CONFIG. -/
def actTkConfig (p : Pkt) (s : State) : State :=
  let fl := fld p 18 1
  let adj := (List.range 4).map fun i => signed 16 (fld p (20 + 2 * i) 2)
  let pb := fl.testBit 2
  let s1 := { s with
    time.domA := setDomain (fl.testBit 0) (fld p 16 1) (bits (fld p 19 1) 1 0) s.time.domA
    time.domB := setDomain (fl.testBit 1) (fld p 17 1) (bits (fld p 19 1) 3 2) s.time.domB
    time.preferB := pb, time.revertive := fl.testBit 3, time.adjust := adj
    time.switched := if pb = s.time.preferB then s.time.switched else false }
  completeOk p 0 0 0 (reselect s1)

/-- TK_CONFIG (R382). -/
def execTkConfig (p : Pkt) (s : State) : Res := runCmd p s (chkTkConfig p s) (actTkConfig p)

/-- Checks of TK_SELECT. -/
def chkTkSelect (p : Pkt) (s : State) : Option Fail :=
  let d := fld p 16 1
  firstFail [(2 < d, .eRange, 16), (d < 2 && !domLocked s d, .eState, 16)]

/-- Effect of TK_SELECT (R362): the forced domain, or automatic selection again. -/
def actTkSelect (p : Pkt) (s : State) : State :=
  let d := fld p 16 1
  completeOk p 0 0 0 (
    if d = 2 then reselect { s with time.forced := false }
    else if s.time.sel = d then { s with time.forced := true }
    else
      let s1 := selectDom d (leaveDom s)
      let s2 := { s1 with time.forced := true }
      if s.time.sel < 2 then glbEvent 5 s2 else s2)

/-- TK_SELECT (R362). -/
def execTkSelect (p : Pkt) (s : State) : Res := runCmd p s (chkTkSelect p s) (actTkSelect p)

end Sys2Proof.Machine
end

