-- ==== Sys2Proof/Machine/Events.lean ====
section
/-! DEFINITION. Event channels (14, R364–R372): triggers, captures, output pulses and the EV commands. -/

namespace Sys2Proof.Machine

/-- Event channel `n`. -/
def evOf (s : State) (n : Nat) : Ev := tgetD s.net.evs n

/-- Changes event channel `n`. -/
def modEv (n : Nat) (f : Ev → Ev) (s : State) : State := { s with net.evs := tmod s.net.evs n f }

/-- MODE (R365). -/
def evMode (e : Ev) : Nat := e.ctl.toNat % 4
/-- OUT (R365). -/
def evOut (e : Ev) : Bool := e.ctl.getLsbD 2
/-- EDGE (R365). -/
def evEdge (e : Ev) : Nat := bits e.ctl.toNat 5 4
/-- IRQ (R365). -/
def evIrq (e : Ev) : Bool := e.ctl.getLsbD 6
/-- ARM (R365). -/
def evArm (e : Ev) : Bool := e.ctl.getLsbD 7

/-- The low 48 bits of working time. -/
def now48 (s : State) : Nat := s.time.now % 2 ^ 48

/-- The signed difference of R367 for 48-bit values. -/
def diff48 (x y : Nat) : Int := (((x : Int) - y + 2 ^ 47) % 2 ^ 48) - 2 ^ 47

/-- Periods by which a compare value at difference `d` ≤ 0 has to be advanced until it lies ahead (R368). -/
def passed (d : Int) (period : Nat) : Nat := if 0 < d then 0 else (-d).toNat / period + 1

/-- Advances the compare value of a periodic trigger past now (R368): each point passed sets MISSED. -/
def skipPassed (s : State) (c : Nat) (e : Ev) : Ev :=
  let p := e.per.toNat
  let k := passed (diff48 c (now48 s)) p
  { e with
    next := BitVec.ofNat 48 (c + k * p)
    missed := e.missed + BitVec.ofNat 16 k
    stat := if k = 0 then e.stat else e.stat ||| 4 }

/-- The channel after a fire at its compare value (R365, R368, R369): FIRED, the next compare value, and the pulse of TK_EVWIDn, which a fire during
a pulse restarts. -/
def firedEv (s : State) (late : Bool) (e : Ev) : Ev :=
  let p := e.per.toNat
  let drives := evOut e && !s.safe.safeState
  let e1 := { e with
      stat := e.stat ||| (if late then 3 else 1), fired := e.fired + 1, pulse := e.pulse || drives
      pulseEnd := if drives then s.time.now + e.wid.toNat else e.pulseEnd }
  if p = 0 then { e1 with ctl := e1.ctl &&& 0xFFFFFF7F }
  else skipPassed s ((e.next.toNat + p) % 2 ^ 48) e1

/-- The camera ports whose frame sync is bound to channel `n` (R327). -/
def syncedPorts (s : State) (n : Nat) : List Nat :=
  (s.cams.ports.filter fun e => e.2.sync == some n).map Prod.fst

/-- A trigger drives the frame sync of a port; while the camera gate is held, a Streaming port produces a muted frame (R327, R330). -/
def syncPort (k : Nat) (s : State) : State :=
  let s1 := modCam k (fun c => { c with fsync := !s.safe.safeState, fsyncEnd := s.time.now + c.syncWidth * 1000 }) s
  if s1.cams.gate && (camOf s1 k).state == 2 then mutedFrame k s1 else s1

/-- A trigger fires (R369): flags, pulse, frame syncs, the interrupt, and the runs of the plans bound to the channel. -/
def fireTrigger (n : Nat) (late : Bool) (s : State) : State :=
  let s1 := modEv n (firedEv s late) s
  let s2 := if evIrq (evOf s n) then raiseVec (32 + n) s1 else s1
  startBoundRuns n ((syncedPorts s2 n).foldl (fun t k => syncPort k t) s2)

/-- EVENT_TRIGGER_FIRE (R367, R369): working time reaches the compare value of an armed trigger. -/
def execEventTriggerFire (n : Nat) (s : State) : Res :=
  if 31 < n then .fault .noSuchUnit
  else
    let e := evOf s n
    if keeperOn s && evMode e == 1 && evArm e then
      .next (settled (fireTrigger n false (elapseTo (s.time.now + (diff48 e.next.toNat (now48 s)).toNat) s)))
    else .next s

/-- Whether the channel captures an edge of this direction (R365). -/
def takesEdge (e : Ev) (rising : Bool) : Bool := evMode e == 2 && (evEdge e).testBit (if rising then 0 else 1)

/-- Whether an edge is lost: within 40 ns of the previous captured one, or with a full FIFO (R370). -/
def edgeLost (e : Ev) (t : Nat) : Bool :=
  ((e.lastEdge.map fun l => decide (t < l + 40)).getD false) || 16 ≤ e.fifo.length

/-- A captured edge (R370). -/
def capture (n t : Nat) (s : State) : State :=
  let s1 := modEv n (fun e =>
    { e with stat := e.stat ||| 8, captured := e.captured + 1, cap := BitVec.ofNat 64 t, fifo := e.fifo ++ [t], lastEdge := some t }) s
  startBoundRuns n (if evIrq (evOf s n) then raiseVec (32 + n) s1 else s1)

/-- EVENT_CAPTURE_EDGE (R370): a selected edge is timestamped and queued, or dropped with OVERFLOW. -/
def execEventCaptureEdge (n : Nat) (rising : Bool) (t : Nat) (s : State) : Res :=
  if 31 < n then .fault .noSuchUnit
  else
    let e := evOf s n
    if !(keeperOn s && takesEdge e rising) then .next s
    else
      let s1 := elapseTo t s
      if edgeLost e t then .next (modEv n (fun e => { e with stat := e.stat ||| 16, lost := e.lost + 1 }) s1)
      else .next (settled (capture n t s1))

/-- OUTPUT_PULSE_END (R327, R369): the width of the pulse in progress runs out, and the ball returns to its inactive level. -/
def execOutputPulseEnd (channel camera : Option Nat) (s : State) : Res :=
  if ((channel.map fun n => decide (31 < n)).getD false) || ((camera.map fun n => decide (11 < n)).getD false) then .fault .noSuchUnit
  else
    let s1 := match channel with
      | some n => if (evOf s n).pulse then modEv n (fun e => { e with pulse := false }) (elapseTo (evOf s n).pulseEnd s) else s
      | none => s
    .next (match camera with
      | some n => if (camOf s1 n).fsync then modCam n (fun c => { c with fsync := false }) (elapseTo (camOf s1 n).fsyncEnd s1) else s1
      | none => s1)

/-- The channels when the Timekeeper stops (R372, R420): a pulse in progress is cut short. -/
def stopEvents (s : State) : State :=
  { s with
    net.evs := tmap s.net.evs fun _ e => { e with pulse := false }
    cams.ports := tmap s.cams.ports fun _ c => { c with fsync := false } }

/-- One channel on return to Run (R372): a passed one-shot fires with LATE, a periodic trigger resumes at its next point. -/
def resumeEvent (n : Nat) (s : State) : State :=
  let e := evOf s n
  if !(evMode e == 1 && evArm e) then s
  else if e.per = 0 then
    (if diff48 e.next.toNat (now48 s) ≤ 0 then fireTrigger n true s else s)
  else modEv n (skipPassed s e.next.toNat) s

/-- Every channel on return to Run (R372). -/
def resumeEvents (s : State) : State := (tkeys s.net.evs).foldl (fun t n => resumeEvent n t) s

/-! ### The EV commands (R382, R383) -/

/-- The channel field of a command. -/
def evChk (p : Pkt) : List (Bool × Code × Nat) := [(31 < fld p 16 1, .eRange, 16)]

/-- Checks of EV_ASSIGN. -/
def chkEvAssign (p : Pkt) (s : State) : Option Fail :=
  let h := fld p 18 2
  firstFails [evChk p, [(512 < h, .eRange, 18), (h != 0 && !ctxLive s h, .eHandle, 18), (evMode (evOf s (fld p 16 1)) != 0, .eBusy, 16)]]

/-- Effect of EV_ASSIGN. -/
def actEvAssign (p : Pkt) (s : State) : State := completeOk p 0 0 0 (modEv (fld p 16 1) (fun e => { e with owner := fld p 18 2 }) s)

/-- EV_ASSIGN (R372). -/
def execEvAssign (p : Pkt) (s : State) : Res := runCmd p s (chkEvAssign p s) (actEvAssign p)

/-- Checks of EV_CONFIG: mode, edge, period and width ranges, then their combinations (R365, R368, R369, R383). -/
def chkEvConfig (p : Pkt) (s : State) : Option Fail :=
  let ctl := fld p 20 4
  let mode := ctl % 4
  let edge := bits ctl 5 4
  let per := fld p 36 6
  let wid := fld p 44 4
  firstFails [evChk p,
    [(mode = 3 || (mode = 2 && edge = 0), .eRange, 20), (per != 0 && (per < 1000 || 2 ^ 46 < per), .eRange, 36),
     (mode = 1 && wid < 8, .eRange, 44),
     (mode != 2 && edge != 0, .eCombination, 20), (mode = 2 && (ctl.testBit 2 || ctl.testBit 7), .eCombination, 20),
     (mode = 1 && per != 0 && per ≤ wid, .eCombination, 44),
     ((evOf s (fld p 16 1)).owner != p.ctx, .eDenied, 16)]]

/-- The channel under the image of EV_CONFIG (R364, R371): status flags are cleared by 1, ARM takes the compare value. -/
def imageEv (p : Pkt) (e : Ev) : Ev :=
  let ctl := fld p 20 4
  let arm := ctl % 4 == 1 && ctl.testBit 7
  let e1 := { e with
    ctl := BitVec.ofNat 32 (ctl % 128 + (if arm then 128 else 0))
    stat := e.stat &&& ~~~(BitVec.ofNat 32 (fld p 24 4))
    cmp := BitVec.ofNat 48 (fld p 28 6), per := BitVec.ofNat 48 (fld p 36 6), wid := BitVec.ofNat 32 (fld p 44 4) }
  { e1 with
    next := if arm then e1.cmp else e1.next
    pulse := e1.pulse && evMode e1 == 1 && evOut e1 }

/-- An armed trigger of channel `n` has reached its compare value: its fire is due in this cycle (R371). -/
def fireDue (n : Nat) (s : State) : Bool :=
  keeperOn s && evMode (evOf s n) == 1 && evArm (evOf s n) && diff48 (evOf s n).next.toNat (now48 s) ≤ 0

/-- Effect of EV_CONFIG (R367, R371): a fire of the old configuration that is due stands; then the image applies whole; an arm at or before now
fires at once with LATE. -/
def actEvConfig (p : Pkt) (s : State) : State :=
  let n := fld p 16 1
  let s0 := if fireDue n s then settle (fireTrigger n false s) else s
  let s1 := modEv n (imageEv p) s0
  let e := evOf s1 n
  let late := evMode e == 1 && evArm e && diff48 e.cmp.toNat (now48 s1) ≤ 0
  let s2 := if late then settle (fireTrigger n true s1) else s1
  completeOk p (evOf s2 n).stat.toNat 0 0 s2

/-- EV_CONFIG (R371). -/
def execEvConfig (p : Pkt) (s : State) : Res := runCmd p s (chkEvConfig p s) (actEvConfig p)

/-- TK_EVCNTn and TK_EVLOSTn (R364). -/
def evCounts (e : Ev) : Nat × Nat := (e.fired.toNat + 65536 * e.captured.toNat, e.missed.toNat + 65536 * e.lost.toNat)

/-- The 64-byte register block of a channel (R364). -/
def evBlock (e : Ev) : List Byte :=
  let (cnt, lost) := evCounts e
  toLE 4 e.ctl.toNat ++ toLE 4 e.stat.toNat ++ toLE 8 e.cmp.toNat ++ toLE 8 e.per.toNat ++ toLE 4 e.wid.toNat ++ toLE 4 cnt
    ++ toLE 4 lost ++ toLE 8 e.cap.toNat ++ toLE 8 e.next.toNat ++ toLE 12 0

/-- Checks of EV_QUERY. -/
def chkEvQuery (p : Pkt) (s : State) : Option Fail :=
  firstFails [evChk p, destChk p s 64 24, permChk s p.ctx (fld p 24 8) 64 true 24,
    [(p.ctx != 0 && (evOf s (fld p 16 1)).owner != p.ctx, .eDenied, 16)]]

/-- Effect of EV_QUERY. -/
def actEvQuery (p : Pkt) (s : State) : State :=
  let e := evOf s (fld p 16 1)
  let (cnt, lost) := evCounts e
  completeOk p e.stat.toNat cnt lost (vwrite p.ctx (fld p 24 8) (evBlock e) s)

/-- EV_QUERY (R382). -/
def execEvQuery (p : Pkt) (s : State) : Res := runHost p s false (chkEvQuery p s) (actEvQuery p)

/-- Entries that EV_READ_CAPTURE copies. -/
def captureCount (p : Pkt) (s : State) : Nat := min (fld p 17 1) (evOf s (fld p 16 1)).fifo.length

/-- Checks of EV_READ_CAPTURE. -/
def chkEvReadCapture (p : Pkt) (s : State) : Option Fail :=
  let k := 8 * captureCount p s
  firstFails [evChk p, [(fld p 17 1 = 0 || 16 < fld p 17 1, .eRange, 17)], destChk p s k 24, permChk s p.ctx (fld p 24 8) k true 24,
    [((evOf s (fld p 16 1)).owner != p.ctx, .eDenied, 16)]]

/-- Effect of EV_READ_CAPTURE (R370): the FIFO is drained oldest first. -/
def actEvReadCapture (p : Pkt) (s : State) : State :=
  let n := fld p 16 1
  let k := captureCount p s
  let s1 := vwrite p.ctx (fld p 24 8) (((evOf s n).fifo.take k).map (toLE 8)).flatten s
  completeOk p k 0 0 (modEv n (fun e => { e with fifo := e.fifo.drop k }) s1)

/-- EV_READ_CAPTURE (R370). -/
def execEvReadCapture (p : Pkt) (s : State) : Res := runHost p s false (chkEvReadCapture p s) (actEvReadCapture p)

end Sys2Proof.Machine
end

