-- ==== Sys2Proof/Machine/Network.lean ====
section
/-! DEFINITION. The Ethernet ports and UDP sockets (14, R354–R357, R373–R376) and the NET commands. -/

namespace Sys2Proof.Machine

/-! ### The link (R354, R355) -/

/-- Whether a port carries frames: enabled, its link up, not retired, in Run or Trim (R355, R392). -/
def ethLive (s : State) (n : Nat) : Bool := (ethOf s n).enable && (ethOf s n).up && keeperOn s && !chanRetired s 6 n

/-- ETH_LINK_CHANGE (R355): an enabled port's link comes up; a link that goes down of itself is a loss (R393). -/
def execEthLinkChange (n : Nat) (up : Bool) (s : State) : Res :=
  if 1 < n then .fault .noSuchUnit
  else
    let e := ethOf s n
    if !e.enable || chanRetired s 6 n || !keeperOn s || e.up == up then .next s
    else if up then .next (modEth n (fun e => { e with up := true, anDone := e.autoneg }) s)
    else
      let s1 := modEth n (fun e => { e with up := false, anDone := false, neighbors := [] }) s
      .next (settled (chanEvent 0x09 6 n 0 0xFFFF s1.safe.cfg.wLoss 0 0 s1))

/-- A frame's destination that the port accepts (R355): its MAC address, broadcast, the gPTP address, and the IPv6 groups that its addresses
need, all nodes and the solicited-node group of each. -/
def accepts (e : Eth) (dst : List Byte) : Bool :=
  let v6 := (List.range 9).filterMap fun i => if i < 4 then none else addrOf e i
  dst == fit 6 e.mac || dst == List.replicate 6 0xFF || dst == [0x01, 0x80, 0xC2, 0x00, 0x00, 0x0E]
    || (!v6.isEmpty && dst == [0x33, 0x33, 0, 0, 0, 1]) || v6.any fun ip => dst == [0x33, 0x33, 0xFF] ++ ip.drop 13

/-- A tagged frame belongs to the port's VLAN; one without a tag is taken as well (R354; DESIGN CHOICE, log 32). -/
def tagFits (e : Eth) (tag : Option Nat) : Bool :=
  match tag with
  | none => true
  | some t => e.vlan && t % 4096 == e.tci % 4096

/-- A frame that passes the port's filter: no longer than MTU + 22 bytes (R354), for the port (R355). -/
def frameFits (e : Eth) (f : EthFrame) : Bool := f.length ≤ e.mtu + 22 && accepts e f.dst && tagFits e f.tag

/-- A frame discarded by R355 or R373. -/
def dropFrame (n : Nat) (s : State) : State := modEth n (fun e => { e with discards := (e.discards + 1) % 2 ^ 32 }) s

/-! ### Sending (R357, R373, R376) -/

/-- Multicast and broadcast destinations need no neighbour. -/
def isGroup (ip : List Byte) : Bool :=
  if isV4 ip then ((num ip 12 1) / 16 == 14 || leNat (ip.drop 12) == 0xFFFFFFFF) else num ip 0 1 == 0xFF

/-- The next hop of a destination through a port (R373): itself on the port's subnet, otherwise the gateway. -/
def nextHop (e : Eth) (ip : List Byte) : List Byte := if onSubnet e ip then ip else (gatewayOf e ip).getD ip

/-- Resolved sends of a hop join the departure queue. -/
def resolved (n : Nat) (hop : List Byte) (s : State) : State :=
  modEth n (fun e =>
    { e with
      neighbors := if e.neighbors.contains hop then e.neighbors else e.neighbors ++ [hop]
      sending := e.sending ++ e.resolving.filter fun x => x.hop == hop
      resolving := e.resolving.filter fun x => x.hop != hop }) s

/-- NEIGHBOR_RESOLUTION_TIMEOUT (R373): each send that waits for it ends with E_TIMEOUT. -/
def execNeighborResolutionTimeout (n : Nat) (ip : List Byte) (s : State) : Res :=
  if 1 < n then .fault .noSuchUnit
  else
    let gone := (ethOf s n).resolving.filter fun x => x.hop == ip
    let s1 := match gone with | x :: _ => elapseTo (x.time + 10 ^ 9) s | [] => s
    .next (workEnded (gone.foldl (fun t x => complete x.pkt .eTimeout 0 0 0 0 t)
      (modEth n (fun e => { e with resolving := e.resolving.filter fun x => x.hop != ip }) s1)))

/-- Departure time in the clock that NET_SEND selects, in 2^-16 ns (R357). -/
def clockTime (s : State) (clock t : Nat) : Int :=
  match clock with
  | 1 => (t : Int) * 65536 + s.time.domA.offset
  | 2 => (t : Int) * 65536 + s.time.domB.offset
  | _ => (t : Int) * 65536 + s.time.base.getD 0

/-- Big-endian bytes. -/
def toBE (n k : Nat) : List Byte := (toLE n k).reverse

/-- One-step insertion at message offset `off` (R357): originTimestamp and correctionField. -/
def oneStep (t : Int) (off : Nat) (data : List Byte) : List Byte :=
  let ns := t / 65536
  let corr := beNat (slice data (off + 8) 8) + (t % 65536).toNat
  let d1 := patch data (off + 8) (toBE 8 (corr % 2 ^ 64))
  patch d1 (off + 34) (toBE 6 (unsigned 48 (ns / 1000000000)) ++ toBE 4 (ns % 1000000000).toNat)

/-- The queue that a send comes from. -/
def sendQueue (x : Sending) : Nat × Nat := (x.pkt.ctx, x.pkt.queue)

/-- Place of a queue in the round: queues that never had a frame depart come first, then the one that has waited longest since (R376). -/
def turnOf (served : List (Nat × Nat)) (x : Sending) : Nat := if served.contains (sendQueue x) then served.findIdx (· == sendQueue x) + 1 else 0

/-- The send that departs next (R376): the most urgent level, round robin within it, the oldest of its queue. -/
def nextSending (e : Eth) : Option Sending :=
  let best := e.sending.filter fun x => e.sending.all fun y => x.level ≤ y.level
  best.find? fun x => best.all fun y => turnOf e.served x ≤ turnOf e.served y

/-- Ones' complement sum of 16 bits. -/
def onesFold (n : Nat) : Nat := if n = 0 then 0 else (n - 1) % 65535 + 1

/-- The 16-bit words of a datagram's bytes, the last one padded. -/
def netWords : List Byte → List Nat
  | [] => []
  | [a] => [a.toNat * 256]
  | a :: b :: t => (a.toNat * 256 + b.toNat) :: netWords t

/-- UDP checksum of a datagram over its pseudo-header (addresses, protocol 17, length): source and destination, UDP ports, payload. -/
def udpSum (src dst : List Byte) (sport dport : Nat) (data : List Byte) : Nat :=
  let n := data.length + 8
  let a := (netWords (if isV4 dst then src.drop 12 ++ dst.drop 12 else src ++ dst)).sum
  let y := 65535 - onesFold (a + 17 + n + sport + dport + n + (netWords data).sum)
  if y = 0 then 65535 else y

/-- The checksum after the payload changed from `old` to `new` (R357): updated word by word by RFC 1624. -/
def updateSum (sum : Nat) (old new : List Byte) : Nat :=
  ((netWords old).zip (netWords new)).foldl (fun c w =>
    if w.1 = w.2 then c else 65535 - onesFold ((65535 - c) + (65535 - w.1) + w.2)) sum

/-- A gPTP frame departs (R358, R376): a response is followed by the message that carries its departure time. -/
def departGptp (n t : Nat) (g : GptpFrame) (s : State) : State :=
  let td := ((t : Int) + s.time.adjust.getD (2 * n + 1) 0).toNat
  let s1 := modEth n (fun e => { e with gptp := e.gptp.drop 1 ++ (match g with | .pdelayResp _ => [.followUp td] | .followUp _ => []) }) s
  let time := match g with | .pdelayResp r => r | .followUp d => d
  { s1 with out := s1.out ++ [.dgram 3 n [] 0 (toLE 8 time)] }

/-- ETH_FRAME_DEPART (R356, R357, R376, R389): the frame leaves, its departure time is reported. -/
def execEthFrameDepart (n t : Nat) (s : State) : Res :=
  if 1 < n then .fault .noSuchUnit
  else if !ethLive s n then .next s
  else
    match (ethOf s n).gptp, nextSending (ethOf s n) with
    | g :: _, _ => .next (departGptp n t g (elapseTo t s))
    | [], none => .next s
    | [], some x =>
      let s0 := elapseTo t s
      let p := x.pkt
      let td := ((t : Int) + s.time.adjust.getD (2 * n + 1) 0).toNat
      let clock := fld p 19 1
      let data := if clock = 0 then x.data else oneStep (clockTime s0 clock td) (fld p 22 2) x.data
      let sum := if x.sum = 0 ∧ isV4 (slice p.bytes 24 16) then 0 else updateSum x.sum x.data data
      let s1 := modEth n (fun e => { e with
        sending := e.sending.filter fun y => y != x
        served := e.served.filter (· != sendQueue x) ++ [sendQueue x] }) s0
      let s2 := { s1 with out := s1.out ++ [.dgram 2 n (slice p.bytes 24 16) (fld p 20 2) data (vlanTag s1 n) sum] }
      let s3 := completeOk p (td % 2 ^ 32) (td / 2 ^ 32) x.data.length s2
      .next (workEnded (settle (if t < x.time then chanEvent 0x08 6 n 0 p.ctx s3.safe.cfg.wWatchdog 0 0 s3 else s3)))

/-! ### Receiving (R355, R373, R375) -/

/-- The socket that a datagram reaches (R375): bound to its port, UDP port and address, or to every address. A broadcast or multicast datagram
reaches a socket bound to every address (DESIGN CHOICE, log 32). -/
def sockOf (s : State) (f : EthFrame) : Option (Nat × Sock) :=
  let i := addrIndex (ethOf s f.port) f.dstIp
  s.net.socks.find? fun e => e.2.port == f.port && e.2.udp == f.dstUdp
    && ((i.isSome && i == some e.2.addr) || (e.2.addr == 0xFF && (i.isSome || isGroup f.dstIp)))

/-- Whether the slot that a socket would fill has been released (R375); one in host memory whose release cannot be read while requests are
held is not free (R52; DESIGN CHOICE, log 50: a frame has nowhere to wait). -/
def slotFree (s : State) (k : Sock) : Bool :=
  k.count < k.slots || !(held s && rangeHost s k.ctx (k.ring + k.next * k.size) 64) && num (vread s k.ctx (k.ring + k.next * k.size + 60) 4) 0 4 == 0

/-- Delivers a datagram into a socket's ring (R375). -/
def sockDeliver (h : Nat) (k : Sock) (f : EthFrame) (s : State) : State :=
  if !slotFree s k then modEth f.port (fun e => { e with sockDrops := (e.sockDrops + 1) % 2 ^ 32 }) s
  else
    let base := k.ring + k.next * k.size
    let room := k.size - 64
    let t := (ingress s f.port f.time).toNat
    let c := k.count + 1
    let rec_ := toLE 8 t ++ fit 16 f.srcIp ++ toLE 2 f.srcUdp ++ toLE 2 f.payload.length ++ toLE 1 f.port
      ++ toLE 1 (b2n (decide (room < f.payload.length))) ++ toLE 2 0 ++ fit 16 f.dstIp ++ List.replicate 12 0
    let s1 := vwrite k.ctx (base + 60) (toLE 4 0) s
    let s2 := vwrite k.ctx (base + 64) (f.payload.take room) (vwrite k.ctx base rec_ s1)
    let s3 := vwrite k.ctx (base + 60) (toLE 4 c) s2
    { s3 with net.socks := tput s3.net.socks h { k with next := (k.next + 1) % k.slots, count := c } }

/-- Answers an echo, at most 100 in a second (R373). -/
def echo (f : EthFrame) (s : State) : State :=
  let e := ethOf s f.port
  let fresh := e.echoFrom + 10 ^ 9 ≤ s.time.now || e.echoes == 0
  if !fresh && 100 ≤ e.echoes then dropFrame f.port s
  else
    let s1 := modEth f.port (fun e =>
      { e with echoes := if fresh then 1 else e.echoes + 1, echoFrom := if fresh then s.time.now else e.echoFrom }) s
    { s1 with out := s1.out ++ [.dgram 4 f.port f.srcIp 0 f.payload (vlanTag s1 f.port)] }

/-- Answers an ARP request or a neighbour solicitation for one of the port's addresses with its MAC address (R373); any other is left
unanswered. -/
def resolveReply (f : EthFrame) (target : List Byte) (v4 : Bool) (s : State) : State :=
  let e := ethOf s f.port
  if isV4 target == v4 && (addrIndex e target).isSome then
    { s with out := s.out ++ [.dgram 4 f.port f.srcIp 0 (target ++ fit 6 e.mac) (vlanTag s f.port)] }
  else s

/-- Message interval request signalling (R358): a new logPdelayReqInterval; 126 returns it to its initial value 0 and −128 keeps it (PRESUMED,
log 31: IEEE 802.1AS-2020). -/
def takeInterval (n : Nat) (r : Option Int) (s : State) : State :=
  match r with
  | none => s
  | some k => if k = -128 then s else modEth n (fun e => { e with pdelayLog := if k = 126 then 0 else k }) s

/-- A frame that the port's filter passes is served (R358, R373–R375), or discarded where nothing serves it. -/
def deliverFrame (f : EthFrame) (s : State) : State :=
  match f.kind with
  | .badFcs | .fragment | .tcp | .macControl => dropFrame f.port s
  | .gptp r => takeInterval f.port r s
  | .arpRequest ip => resolveReply f ip true s
  | .neighborSolicit ip => resolveReply f ip false s
  | .neighborReply ip => resolved f.port ip s
  | .echoRequest => if (addrIndex (ethOf s f.port) f.dstIp).isSome then echo f s else dropFrame f.port s
  | .stolp => if s.stolp.enable.testBit f.port then s else dropFrame f.port s
  | .gweug => if s.net.own.isSome then s else dropFrame f.port s
  | .udp =>
    match sockOf s f with
    | none => dropFrame f.port s
    | some (h, k) => sockDeliver h k f s

/-- ETH_FRAME_RECEIVE (R355, R356, R373–R375). Stolp, Gweug and gPTP messages have rows of their own; their frames are counted
here only where nothing serves them. -/
def execEthFrameReceive (f : EthFrame) (s : State) : Res :=
  if 1 < f.port then .fault .noSuchUnit
  else if !ethLive s f.port then .next s
  else
    let s1 := elapseTo f.time s
    match f.kind with
    | .badFcs => .next (settled (chanEvent 0x09 6 f.port 0 0xFFFF s1.safe.cfg.wSoft 0 0 (dropFrame f.port s1)))
    | _ => .next (if frameFits (ethOf s1 f.port) f then deliverFrame f s1 else dropFrame f.port s1)

/-! ### The NET commands (R382, R383) -/

/-- Reserved fields of a port record (R382). -/
def portRsv (r : List Byte) : Bool := 16 ≤ num r 0 1 || num r 14 2 != 0 || num r 108 4 != 0 || num r 128 128 != 0

/-- A used address without a prefix length in range (R382). -/
def prefixBad (r : List Byte) : Bool :=
  ((List.range 4).any fun i => num r (16 + 4 * i) 4 != 0 && (num r (32 + i) 1 == 0 || 32 < num r (32 + i) 1))
    || ((List.range 4).any fun i => num r (40 + 16 * i) 16 != 0 && (num r (104 + i) 1 == 0 || 128 < num r (104 + i) 1))

/-- Checks of NET_CONFIG. -/
def chkNetConfig (p : Pkt) (s : State) : Option Fail :=
  let va := fld p 24 8
  let r := vread s p.ctx va 256
  let gw := num r 12 2
  orFail (firstFails [[(1 < fld p 16 1, .eRange, 16)], addrChk s p.ctx va 256 16 24, [
      (portRsv r, .eReserved, 24), (2 < num r 1 1, .eRange, 24), (num r 2 2 < 1280 || 9000 < num r 2 2, .eRange, 24),
      (gw != 0 && gw < 1024, .eRange, 24), (prefixBad r, .eRange, 24),
      ((num r 0 1).testBit 1 && num r 1 1 == 2, .eCombination, 24)], permChk s p.ctx va 256 false 24, [
      (gw != 0 && (gw == s.stolp.udpPort || s.net.socks.any fun e => e.2.udp == gw), .eBusy, 24)]])
    (wordFail s p.ctx va 256 24)

/-- The Gweug sessions that run over port `n` close (R99, R378, R382). -/
def closeGwPort (n : Nat) (s : State) : State :=
  { s with net.gws := tkeep s.net.gws fun _ q =>
      let e := memberOf s q.peer
      egress s (num e 152 1) (slice e 136 16) != n }

/-- Effect of NET_CONFIG (R354, R382): a change of mode, FEC or auto-negotiation retrains the link; clearing ENABLE closes the
port's sessions. -/
def actNetConfig (p : Pkt) (s : State) : State :=
  let s := readWords p.ctx (fld p 24 8) 256 s
  let n := fld p 16 1
  let r := vread s p.ctx (fld p 24 8) 256
  let fl := num r 0 1
  let e := ethOf s n
  let same := e.enable && fl.testBit 0 && e.tenG == fl.testBit 1 && e.autoneg == fl.testBit 2 && e.fec == num r 1 1
  let s1 := if fl.testBit 0 then s else closeGwPort n (closePort n s)
  let s2 := modEth n (fun e =>
    { e with
      enable := fl.testBit 0, tenG := fl.testBit 1, autoneg := fl.testBit 2, vlan := fl.testBit 3, fec := num r 1 1
      mtu := num r 2 2, mac := slice r 4 6, tci := num r 10 2, addrs := slice r 16 112
      up := e.up && same, anDone := e.anDone && same, neighbors := if same then e.neighbors else [] }) s1
  completeOk p 0 0 0 { s2 with net.gwPort := if num r 12 2 = 0 then s2.net.gwPort else num r 12 2 }

/-- NET_CONFIG (R373, R382). -/
def execNetConfig (p : Pkt) (s : State) : Res := runHost p s (rangeHost s p.ctx (fld p 24 8) 256) (chkNetConfig p s) (actNetConfig p)

/-- Checks of NET_QUERY. -/
def chkNetQuery (p : Pkt) (_s : State) : Option Fail := firstFail [(1 < fld p 16 1, .eRange, 16)]

/-- Effect of NET_QUERY. -/
def actNetQuery (p : Pkt) (s : State) : State :=
  let n := fld p 16 1
  let e := ethOf s n
  let w0 := b2n e.up + 2 * b2n (!e.tenG) + 4 * e.fec + 16 * b2n e.anDone + 32 * b2n (chanRetired s 6 n)
  let s1 := if (fld p 17 1).testBit 0 then modEth n (fun e => { e with discards := 0, sockDrops := 0 }) s else s
  completeOk p w0 e.discards e.sockDrops s1

/-- NET_QUERY (R382). -/
def execNetQuery (p : Pkt) (s : State) : Res := runCmd p s (chkNetQuery p s) (actNetQuery p)

/-- CLOSE of NET_BIND. -/
def bindClose (p : Pkt) : Bool := (fld p 16 1).testBit 0

/-- The socket of a context that a handle names. -/
def sockNamed (s : State) (h k : Nat) : Option Sock := (tget s.net.socks k).filter fun x => x.ctx == h

/-- Whether an address and UDP port are bound already, or served by R374. -/
def portTaken (s : State) (n a u : Nat) : Bool :=
  u == s.stolp.udpPort || u == s.net.gwPort
    || s.net.socks.any fun e => e.2.port == n && e.2.udp == u && (e.2.addr == a || e.2.addr == 0xFF || a == 0xFF)

/-- Checks of NET_BIND. -/
def chkNetBind (p : Pkt) (s : State) : Option Fail :=
  if bindClose p then firstFail [((sockNamed s p.ctx (fld p 22 2)).isNone, .eHandle, 22)]
  else
    let n := fld p 17 1
    let a := fld p 18 1
    let u := fld p 20 2
    let slots := fld p 24 2
    let size := fld p 28 4
    let va := fld p 32 8
    firstFails [[(1 < n, .eRange, 17), (8 < a && a != 0xFF, .eRange, 18), (u = 0, .eRange, 20), (slots < 2 || 4096 < slots, .eRange, 24),
        (size < 128 || size % 64 != 0, .eRange, 28)],
      addrChk s p.ctx va (slots * size) 65536 32,
      permChk s p.ctx va (slots * size) false 32, permChk s p.ctx va (slots * size) true 32,
      [(p.ctx != 0 && u < 1024, .eDenied, 20), (portTaken s n a u, .eBusy, 20),
       (16 ≤ (s.net.socks.filter fun e => e.2.ctx == p.ctx).length || 256 ≤ s.net.socks.length, .eNoslot, 16)]]

/-- Effect of NET_BIND (R375). -/
def actNetBind (p : Pkt) (s : State) : State :=
  if bindClose p then completeOk p (fld p 22 2) 0 0 { s with net.socks := tdel s.net.socks (fld p 22 2) }
  else
    let h := (freeKey s.net.socks 1 256).getD 1
    let k : Sock :=
      { ctx := p.ctx, port := fld p 17 1, addr := fld p 18 1, udp := fld p 20 2, slots := fld p 24 2, size := fld p 28 4, ring := fld p 32 8 }
    completeOk p h 0 0 { s with net.socks := tput s.net.socks h k }

/-- NET_BIND (R375). -/
def execNetBind (p : Pkt) (s : State) : Res := runCmd p s (chkNetBind p s) (actNetBind p)

/-- Destination address of NET_SEND. -/
def sendIp (p : Pkt) : List Byte := slice p.bytes 24 16

/-- Port of NET_SEND. -/
def sendPort (p : Pkt) (s : State) : Nat := egress s (fld p 18 1) (sendIp p)

/-- Checks of NET_SEND. -/
def chkNetSend (p : Pkt) (s : State) : Option Fail :=
  let k := fld p 16 2
  let n := sendPort p s
  let clock := fld p 19 1
  let len := fld p 48 2
  let room := (ethOf s n).mtu - (if isV4 (sendIp p) then 28 else 48)
  let va := fld p 40 8
  orFail (firstFails [[((sockNamed s p.ctx k).isNone, .eHandle, 16), (1 < fld p 18 1 && fld p 18 1 != 0xFF, .eRange, 18), (3 < clock, .eRange, 19)],
      addrChk s p.ctx va len 1 40,
      [(len = 0 || room < len, .eRange, 48),
       (clock != 0 && len < fld p 22 2 + 44, .eCombination, 22),
       ((clock = 1 && !domLocked s 0) || (clock = 2 && !domLocked s 1), .eCombination, 19)],
      permChk s p.ctx va len false 40,
      [(!(ethOf s n).up || !keeperOn s, .eState, 18), (chanRetired s 6 n, .eRetired, 18)]])
    (wordFail s p.ctx va len 40)

/-- The source address of a socket's datagram: the address that it is bound to, else the port's first of the family (DESIGN CHOICE, log 32). -/
def sourceIp (e : Eth) (a : Nat) (dst : List Byte) : List Byte :=
  match addrOf e a with
  | some ip => ip
  | none => (((List.range 9).filterMap fun i => addrOf e i).find? fun ip => isV4 ip == isV4 dst).getD (List.replicate 16 0)

/-- UDP checksum of the datagram as built (R357): over IPv4 it may be left 0. -/
def builtSum (p : Pkt) (n : Nat) (data : List Byte) (s : State) : Nat :=
  let k := tgetD s.net.socks (fld p 16 2)
  if isV4 (sendIp p) && !Config.udp4Sum then 0
  else udpSum (sourceIp (ethOf s n) k.addr (sendIp p)) (sendIp p) k.udp (fld p 20 2) data

/-- Effect of NET_SEND (R373, R376): the payload is read; the send departs once its next hop is resolved. -/
def actNetSend (p : Pkt) (s : State) : State :=
  let s := readWords p.ctx (fld p 40 8) (fld p 48 2) s
  let n := sendPort p s
  let ip := sendIp p
  let hop := nextHop (ethOf s n) ip
  let data := vread s p.ctx (fld p 40 8) (fld p 48 2)
  let x : Sending :=
    { pkt := p, level := queueLevel s p.ctx p.queue, time := s.time.now, data := data, hop := hop, sum := builtSum p n data s }
  let s1 := handOn p s
  if isGroup ip || (ethOf s n).neighbors.contains hop then modEth n (fun e => { e with sending := e.sending ++ [x] }) s1
  else
    let s2 := modEth n (fun e => { e with resolving := e.resolving ++ [x] }) s1
    { s2 with out := s2.out ++ [.dgram 4 n hop 0 [] (vlanTag s2 n)] }

/-- NET_SEND (R376). -/
def execNetSend (p : Pkt) (s : State) : Res :=
  runHost p s (rangeHost s p.ctx (fld p 40 8) (fld p 48 2)) (chkNetSend p s) (actNetSend p)

end Sys2Proof.Machine
end

