-- ==== Sys2Proof/Machine/Gweug.lean ====
section
/-! DEFINITION. Gweug (14, R377–R381): the fleet table, inboxes, sessions and transfers. A received datagram comes with its
payload opened and a flag that says whether it authenticated. -/

namespace Sys2Proof.Machine

/-- A VALID entry of the fleet table (R377). -/
def memberValid (s : State) (k : Nat) : Bool := (num (memberOf s k) 133 1).testBit 0

/-- The session with fleet member `k`, open or being opened: its number here and the session. -/
def gwWith (s : State) (k : Nat) : Option (Nat × GwSession) := s.net.gws.find? fun e => e.2.peer == k

/-- Changes session `id`. -/
def modGw (id : Nat) (f : GwSession → GwSession) (s : State) : State := { s with net.gws := tupd s.net.gws id f }

/-- Changes the transfer `t` sent in session `id`. -/
def modOut (id t : Nat) (f : GwOut → GwOut) (s : State) : State :=
  { s with net.gwOut := s.net.gwOut.map fun x => if x.session = id ∧ x.id = t then f x else x }

/-- Ends the transfer: it is no longer sent. -/
def dropOut (id t : Nat) (s : State) : State := { s with net.gwOut := s.net.gwOut.filter fun x => !(x.session == id && x.id == t) }

/-- The transfer `t` sent in session `id`. -/
def outOf (s : State) (id t : Nat) : Option GwOut := s.net.gwOut.find? fun x => x.session == id && x.id == t

/-- The transfer `t` received in session `id`. -/
def inOf (s : State) (id t : Nat) : Option GwIn := s.net.gwIn.find? fun x => x.session == id && x.id == t

/-- Changes the transfer `t` received in session `id`. -/
def modIn (id t : Nat) (f : GwIn → GwIn) (s : State) : State :=
  { s with net.gwIn := s.net.gwIn.map fun x => if x.session = id ∧ x.id = t then f x else x }

/-- Chunk size of transfers with member `k` (R379), from the smaller MTU of the port that reaches it and of the other device's port. -/
def chunkSize (s : State) (k : Nat) : Nat :=
  let e := memberOf s k
  if min (ethOf s (egress s (num e 152 1) (slice e 136 16))).mtu (Config.peerMtu k) < 9000 then 1024 else 8192

/-- A datagram of version 1.0 from the address and UDP port that the member's entry gives (R94, R377, R378). -/
def gwFrom (m : GwMsg) (s : State) : Bool :=
  let e := memberOf s m.peer
  m.version == 0x10 && fit 16 m.srcIp == fit 16 (slice e 136 16) && m.srcUdp == num e 134 2

/-- Number of chunks of `n` bytes. -/
def chunkCount (n c : Nat) : Nat := (n + c - 1) / c

/-! ### Sending a transfer (R379, R380) -/

/-- Sends chunk `c` of a transfer. -/
def sendChunk (x : GwOut) (c : Nat) (s : State) : State :=
  gwSend x.session 1 (toLE 4 x.id ++ toLE 4 c ++ (x.parcel.drop (c * x.chunk)).take x.chunk) s

/-- Fills the window: at most 64 chunks beyond the next chunk of the last ack (R380). -/
def fillWindow (id t : Nat) (s : State) : State :=
  match outOf s id t with
  | none => s
  | some x =>
    let stop := min (chunkCount x.parcel.length x.chunk) (x.acked + 64)
    let s1 := (List.range (stop - x.sent)).foldl (fun u i => sendChunk x (x.sent + i) u) s
    modOut id t (fun x =>
      { x with sent := max x.sent stop
               times := (List.range (stop - x.sent)).foldl (fun m i => tput m (x.sent + i) s.time.now) x.times }) s1

/-- Offers a transfer (R380). -/
def offer (x : GwOut) (s : State) : State :=
  modOut x.session x.id (fun x => { x with phase := 1, last := s.time.now })
    (gwSend x.session 7 (toLE 4 x.id ++ toLE 2 x.inbox ++ toLE 2 0 ++ toLE 8 x.parcel.length ++ toLE 8 (num x.parcel 32 8)) s)

/-- Offers every transfer that waited for the session to open. -/
def offerAll (id : Nat) (s : State) : State :=
  (s.net.gwOut.filter fun x => x.session == id && x.phase == 0).foldl (fun t x => offer x t) s

/-! ### Opening a session (R378, R95) -/

/-- Sends the hello of a new session with member `k`: key ID, nonce and ephemeral key. -/
def sendHello (k : Nat) (s : State) : Nat × State :=
  let id := s.net.nextGw
  let n := s.freeCtr
  let hello := sessHeader 2 0 0 ++ toLE 8 deviceId ++ toLE 32 (Config.fresh n).toNat ++ ephemeral n ++ toLE 3 0
  let q : GwSession := { peer := k, phase := 1, hello := hello, draw := n, first := true, lastRx := s.time.now }
  (id, gwEmit k hello { s with
    net.gws := tput s.net.gws id q
    net.nextGw := id + 1
    freeCtr := n + 2 })

/-- Answers a hello of member `k` as session number `id` (R95): nonce, ephemeral key, the signature of the identity key. Transfers that wait for
the session keep their IDs. -/
def sendReply (id k : Nat) (hello : List Byte) (s : State) : State :=
  let n := s.freeCtr
  let body := sessHeader 3 id 0 ++ toLE 32 (Config.fresh n).toNat ++ ephemeral n ++ toLE 3 0
  let reply := body ++ toLE 132 (Config.ecdsaSign n (transcript hello body)).toNat
  let q : GwSession :=
    { peer := k, wire := id, phase := 2, hello := hello, reply := reply, draw := n,
      secret := keySchedule n (slice hello 56 133) hello reply, lastRx := s.time.now
      nextTransfer := (tgetD s.net.gws id).nextTransfer }
  gwEmit k reply { s with net.gws := tput s.net.gws id q, freeCtr := n + 2 }

/-- A hello that the responder may answer (R95, R96, R378): a member of the table, its key ID, a key on the curve. -/
def helloOk (m : GwMsg) (s : State) : Bool :=
  gwFrom m s && m.data.length == 192 && num m.data 0 1 == 2 && num m.data 1 1 == 0x10 && memberValid s m.peer && s.net.own.isSome
    && num m.data 16 8 == keyIdOf (slice (memberOf s m.peer) 0 133) && Config.onCurve (slice m.data 56 133)

/-- A received hello: answered, answered again, or discarded where the own hello stands (the lower device index). -/
def takeHello (m : GwMsg) (s : State) : State :=
  if !helloOk m s then discard s
  else
    match gwWith s m.peer with
    | none =>
      if 64 ≤ s.net.gws.length then discard s
      else sendReply s.net.nextGw m.peer m.data { s with net.nextGw := s.net.nextGw + 1 }
    | some (id, q) =>
      if q.phase = 1 then (if s.net.own.getD 0 < m.peer then discard s else sendReply id m.peer m.data s)
      else if q.phase = 2 ∧ q.hello == m.data then gwEmit m.peer q.reply s
      else discard s

/-- A received reply: its signature verified, the finish sent, the session open (R95). -/
def takeReply (m : GwMsg) (s : State) : State :=
  match gwWith s m.peer with
  | none => discard s
  | some (id, q) =>
    let key := slice (memberOf s m.peer) 0 133
    let t := transcript q.hello m.data
    if gwFrom m s && q.phase = 1 && m.data.length == 316 && num m.data 0 1 == 3 && num m.data 1 1 == 0x10
        && Config.ecdsaVerify key t (slice m.data 184 132) then
      let wire := num m.data 4 4
      let hdr := sessHeader 4 wire 0
      let s1 := modGw id (fun q =>
        { q with wire := wire, phase := 3, reply := m.data, secret := keySchedule q.draw (slice m.data 48 133) q.hello m.data, lastRx := s.time.now }) s
      let sig := toLE 132 (Config.ecdsaSign s1.freeCtr (t ++ hdr)).toNat
      offerAll id (gwSend id 4 sig { s1 with freeCtr := s1.freeCtr + 1 })
    else discard s

/-- A received finish: its signature verified, the session open (R95). -/
def takeFinish (m : GwMsg) (s : State) : State :=
  match gwWith s m.peer with
  | none => discard s
  | some (id, q) =>
    let key := slice (memberOf s m.peer) 0 133
    let t := transcript q.hello q.reply
    if gwFrom m s && q.phase = 2 && q.wire == m.session && m.authentic && m.counter == 0
        && Config.ecdsaVerify key (t ++ sessHeader 4 q.wire 0) m.data then
      offerAll id (modGw id (fun q => { q with phase := 3, rxSeen := [0], lastRx := s.time.now }) s)
    else discard s

/-- GW_HANDSHAKE_MESSAGE (R378). -/
def execGwHandshakeMessage (m : GwMsg) (s : State) : Res :=
  .next (match m.type with
    | 2 => takeHello m s
    | 3 => takeReply m s
    | 4 => takeFinish m s
    | _ => discard s)

/-- The open session of a received datagram of `type`, if it passes R94 (R378). -/
def gwOpen (m : GwMsg) (type : Nat) (s : State) : Option Nat :=
  match gwWith s m.peer with
  | none => none
  | some (id, q) =>
    if gwFrom m s && q.phase == 3 && q.wire == m.session && m.type == type && m.authentic && counterFresh q.rxSeen m.counter then some id else none

/-- Notes an authenticated datagram of session `id`; a counter that reaches 2^32 closes the session (R94, R99). -/
def gwNote (id n : Nat) (s : State) : State :=
  let s1 := modGw id (fun q =>
    { q with rxMax := max q.rxMax n, rxSeen := counterSeen q.rxSeen n, lastRx := s.time.now }) s
  if 2 ^ 32 ≤ n then gwDrop id s1 else s1

/-- Runs the effect of a datagram of an open session, or discards it. -/
def gwTake (m : GwMsg) (type : Nat) (act : Nat → State → State) (s : State) : Res :=
  match gwOpen m type s with
  | none => .next (discard s)
  | some id => .next (act id (gwNote id m.counter s))

/-! ### Receiving a transfer (R379–R381) -/

/-- The lowest free slot of an inbox. -/
def inboxSlot (b : Inbox) : Option Nat := (List.range b.slots).find? fun i => !b.full.contains i && !b.busy.contains i

/-- Sends an answer (R379). -/
def answer (id t : Nat) (c : Code) (slot : Nat) (s : State) : State :=
  gwSend id 8 (toLE 4 t ++ toLE 2 (codeVal c) ++ toLE 2 0 ++ toLE 4 slot) s

/-- A received offer (R380): answered with a slot, or with the code that stops it. -/
def takeOffer (m : GwMsg) (id : Nat) (s : State) : State :=
  let t := num m.data 0 4
  let n := num m.data 4 2
  let size := num m.data 8 8
  match inOf s id t, tget s.net.inboxes n with
  | some x, _ => answer id t .ok x.slot s
  | none, none => answer id t .eHandle 0 s
  | none, some b =>
    if b.size < size + 64 then answer id t .eRange 0 s
    else match inboxSlot b with
      | none => answer id t .eNoslot 0 s
      | some i =>
        let x : GwIn :=
          { session := id, id := t, inbox := n, slot := i, bytes := size, number := num m.data 16 8, chunk := chunkSize s m.peer, last := s.time.now }
        answer id t .ok i { s with
          net.gwIn := s.net.gwIn ++ [x]
          net.inboxes := tput s.net.inboxes n { b with busy := b.busy ++ [i] } }

/-- GW_OFFER (R379). -/
def execGwOffer (m : GwMsg) (s : State) : Res := gwTake m 7 (takeOffer m) s

/-- Next chunk and bitmap of a received transfer (R379). -/
def ackOf (x : GwIn) : Nat × Nat :=
  let next := ((List.range (x.chunks.length + 1)).find? fun i => !thas x.chunks i).getD 0
  (next, maskOf ((List.range 64).filter fun i => thas x.chunks (next + 1 + i)))

/-- Sends an ack for a received transfer. -/
def sendAck (x : GwIn) (flags : Nat) (s : State) : State :=
  let (next, bm) := ackOf x
  modIn x.session x.id (fun x => { x with unacked := 0 }) (gwSend x.session 5 (ackBytes x.id next bm flags) s)

/-- Frees the slot that a transfer has reserved. -/
def freeSlot (x : GwIn) (s : State) : State :=
  { s with
    net.gwIn := s.net.gwIn.filter fun y => !(y.session == x.session && y.id == x.id)
    net.inboxes := tupd s.net.inboxes x.inbox fun b => { b with busy := b.busy.filter (· != x.slot) } }

/-- The whole parcel of a transfer whose chunks have all arrived. -/
def parcelOf (x : GwIn) : List Byte := ((x.chunks.map Prod.snd).flatten).take x.bytes

/-- Delivers a complete parcel into its slot (R381), the done word last, and acks with COMPLETE (R380). -/
def deliverParcel (x : GwIn) (peer : Nat) (s : State) : State :=
  let b := tgetD s.net.inboxes x.inbox
  let base := b.addr + x.slot * b.size
  let hdr := toLE 8 s.time.now ++ toLE 2 peer ++ toLE 2 0 ++ toLE 4 x.bytes ++ toLE 8 (keyIdOf (slice (memberOf s peer) 0 133))
    ++ List.replicate 36 0
  let s1 := vwrite b.ctx (base + 60) (toLE 4 x.id) (vwrite b.ctx (base + 64) (parcelOf x) (vwrite b.ctx base hdr s))
  let s2 := sendAck x 1 s1
  let s3 := freeSlot x s2
  { s3 with net.inboxes := tupd s3.net.inboxes x.inbox fun b => { b with full := b.full ++ [x.slot] } }

/-- A received chunk (R380): stored once; acked after every 8; the parcel delivered once every chunk has arrived. -/
def takeData (m : GwMsg) (id : Nat) (s : State) : State :=
  let c := num m.data 4 4
  match inOf s id (num m.data 0 4) with
  | none => s
  | some x =>
    let bs := m.data.drop 8
    let want := min x.chunk (x.bytes - c * x.chunk)
    if chunkCount x.bytes x.chunk ≤ c ∨ bs.length ≠ want then s
    else
      let y := { x with
        chunks := tput x.chunks c bs, unacked := x.unacked + 1
        since := if x.unacked = 0 then s.time.now else x.since
        last := if thas x.chunks c then x.last else s.time.now }
      let s1 := modIn id x.id (fun _ => y) s
      if y.chunks.length = chunkCount x.bytes x.chunk then deliverParcel y m.peer s1
      else if 8 ≤ y.unacked then sendAck y 0 s1
      else s1

/-- GW_DATA (R380). -/
def execGwData (m : GwMsg) (s : State) : Res := gwTake m 1 (takeData m) s

/-- GW_ACK_TIMER (R380): an ack within 1 ms of any chunk. -/
def execGwAckTimer (session transfer : Nat) (s : State) : Res :=
  match inOf s session transfer with
  | none => .next s
  | some x => .next (if x.unacked = 0 then s else sendAck x 0 (elapseTo (x.since + 1000000) s))

/-! ### Answers and acks (R380) -/

/-- The code of an answer's status. -/
def answerCode (v : Nat) : Option Code := [Code.ok, .eHandle, .eNoslot, .eRange].find? fun c => codeVal c == v

/-- A received answer (R380): OK starts the chunks, another status ends GW_SEND with its code. -/
def takeAnswer (m : GwMsg) (id : Nat) (s : State) : State :=
  match outOf s id (num m.data 0 4), answerCode (num m.data 4 2) with
  | some x, some c =>
    if x.phase ≠ 1 then s
    else if c = .ok then fillWindow id x.id (modOut id x.id (fun x => { x with phase := 2, last := s.time.now }) s)
    else workEnded (complete x.pkt c 0 0 0 0 (dropOut id x.id s))
  | _, _ => s

/-- GW_ANSWER (R380). -/
def execGwAnswer (m : GwMsg) (s : State) : Res := gwTake m 8 (takeAnswer m) s

/-- A received ack (R380): COMPLETE ends GW_SEND with OK, ABORT with E_STATE; otherwise the window advances. -/
def takeAck (m : GwMsg) (id : Nat) (s : State) : State :=
  match outOf s id (num m.data 0 4) with
  | none => s
  | some x =>
    let next := num m.data 4 4
    let fl := num m.data 16 4
    if fl.testBit 1 then workEnded (complete x.pkt .eState 0 0 0 0 (dropOut id x.id s))
    else if fl.testBit 0 then workEnded (completeOk x.pkt x.id x.again 0 (dropOut id x.id s))
    else if next < x.acked ∨ x.sent < next then s
    else
      fillWindow id x.id (modOut id x.id (fun x =>
        { x with acked := next, bitmap := num m.data 8 8, last := if x.acked < next then s.time.now else x.last }) s)

/-- GW_ACK (R380). -/
def execGwAck (m : GwMsg) (s : State) : Res := gwTake m 5 (takeAck m) s

/-- GW_CHUNK_RETRANSMIT (R380): a chunk that no ack has covered within 5 ms is sent again. -/
def execGwChunkRetransmit (session transfer chunk : Nat) (s : State) : Res :=
  match outOf s session transfer with
  | none => .next s
  | some x =>
    let covered := chunk < x.acked || (x.acked < chunk && x.bitmap.testBit (chunk - x.acked - 1))
    if x.phase ≠ 2 ∨ x.sent ≤ chunk ∨ covered then .next s
    else
      let s1 := elapseTo ((tget x.times chunk).getD 0 + 5000000) s
      .next (modOut session transfer (fun x => { x with again := x.again + 1, times := tput x.times chunk s1.time.now }) (sendChunk x chunk s1))

/-- GW_TRANSFER_DEADLINE (R380): the sender ends with E_TIMEOUT, the receiver frees its slot. The receiver does not learn the sender's
deadline, so its own comes when the event says (log 32). -/
def execGwTransferDeadline (session transfer : Nat) (sender : Bool) (s : State) : Res :=
  if sender then
    match outOf s session transfer with
    | none => .next s
    | some x => .next (workEnded (complete x.pkt .eTimeout 0 0 0 0 (dropOut session transfer (elapseTo (x.last + x.deadlineMs * 1000000) s))))
  else
    match inOf s session transfer with
    | none => .next s
    | some x => .next (freeSlot x s)

/-- GW_CLOSE (R378): the peer's close datagram. -/
def execGwClose (m : GwMsg) (s : State) : Res := gwTake m 6 (fun id s => gwDrop id s) s

/-- GW_SESSION_IDLE_TIMEOUT (R378): after 60 s without a datagram the session closes with a close datagram. -/
def execGwSessionIdleTimeout (session : Nat) (s : State) : Res :=
  match tget s.net.gws session with
  | none => .next s
  | some q =>
    let s1 := elapseTo (q.lastRx + 60 * 10 ^ 9) s
    .next (gwDrop session (if q.phase = 3 then gwSend session 6 (toLE 16 0) s1 else s1))

/-! ### The GW commands (R382, R383) -/

/-- The operation byte. -/
def gwOp (p : Pkt) : Nat := fld p 16 1

/-- Entry `i` of the table at the packet's address. -/
def fleetEntry (p : Pkt) (s : State) (i : Nat) : List Byte := vread s p.ctx (fld p 24 8 + 160 * i) 160

/-- Checks of GW_FLEET. -/
def chkGwFleet (p : Pkt) (s : State) : Option Fail :=
  let first := fld p 18 2
  let n := fld p 20 4
  let va := fld p 24 8
  match gwOp p with
  | 0 => firstFail [(4095 < first, .eRange, 18)]
  | 1 =>
    let head := [(decide (4095 < first), Code.eRange, 18), (n == 0 || 4096 < first + n, Code.eRange, 20)] ++ addrChk s p.ctx va (160 * n) 16 24
    match firstFail head with
    | some f => some f
    | none =>
      let es := (List.range n).map (fleetEntry p s)
      orFail (firstFails [[(es.any fun e => 2 ≤ num e 133 1 || num e 153 7 != 0, .eReserved, 24),
          (es.any fun e => 1 < num e 152 1 && num e 152 1 != 0xFF, .eRange, 24)], permChk s p.ctx va (160 * n) false 24])
        (wordFail s p.ctx va (160 * n) 24)
  | 2 => firstFail [(4095 < first, .eRange, 18), (n = 0 || 4096 < first + n, .eRange, 20)]
  | _ => some { code := .eRange, off := 16 }

/-- VALID entries of the fleet table. -/
def validMembers (s : State) : Nat := ((tkeys s.net.fleet).filter (memberValid s)).length

/-- Effect of GW_FLEET (R377); sessions with a member whose entry changes or goes are closed (log 32). -/
def actGwFleet (p : Pkt) (s : State) : State :=
  let s := if gwOp p = 1 then readWords p.ctx (fld p 24 8) (160 * fld p 20 4) s else s
  let first := fld p 18 2
  let n := fld p 20 4
  let inside := fun k => first ≤ k && k < first + n
  let s1 := match gwOp p with
    | 0 => { s with net.own := some first }
    | 1 =>
      let t := { s with net.gws := tkeep s.net.gws fun _ q => !inside q.peer || fleetEntry p s (q.peer - first) == memberOf s q.peer }
      { t with net.fleet := (List.range n).foldl (fun f i => tput f (first + i) (fleetEntry p s i)) s.net.fleet }
    | _ => { s with net.gws := tkeep s.net.gws fun _ q => !inside q.peer, net.fleet := tkeep s.net.fleet fun k _ => !inside k }
  completeOk p (validMembers s1) 0 0 s1

/-- GW_FLEET (R377). -/
def execGwFleet (p : Pkt) (s : State) : Res :=
  runHost p s (gwOp p == 1 && rangeHost s p.ctx (fld p 24 8) (160 * fld p 20 4)) (chkGwFleet p s) (actGwFleet p)

/-- The inbox of a context that a number names. -/
def inboxNamed (s : State) (h n : Nat) : Option Inbox := (tget s.net.inboxes n).filter fun b => b.ctx == h

/-- Checks of GW_INBOX. -/
def chkGwInbox (p : Pkt) (s : State) : Option Fail :=
  let n := fld p 18 2
  let k := fld p 20 4
  let size := fld p 24 4
  let va := fld p 32 8
  match gwOp p with
  | 0 =>
    firstFails [[(n = 0, .eRange, 18), (k = 0 || 64 < k, .eRange, 20),
        (size = 0 || size % 65536 != 0 || 256 * 1048576 < size, .eRange, 24)],
      addrChk s p.ctx va (k * size) 65536 32,
      permChk s p.ctx va (k * size) false 32, permChk s p.ctx va (k * size) true 32,
      [(thas s.net.inboxes n, .eBusy, 18)]]
  | 1 => firstFail [(n = 0, .eRange, 18), ((inboxNamed s p.ctx n).isNone, .eHandle, 18)]
  | 2 => firstFail [(n = 0, .eRange, 18), ((inboxNamed s p.ctx n).isNone, .eHandle, 18),
      (((inboxNamed s p.ctx n).map fun b => decide (b.slots ≤ k)).getD false, .eRange, 20)]
  | _ => some { code := .eRange, off := 16 }

/-- Effect of GW_INBOX (R380, R381). -/
def actGwInbox (p : Pkt) (s : State) : State :=
  let n := fld p 18 2
  let k := fld p 20 4
  match gwOp p with
  | 0 =>
    let b : Inbox := { ctx := p.ctx, slots := k, size := fld p 24 4, addr := fld p 32 8 }
    let s1 := (List.range k).foldl (fun t i => vwrite p.ctx (b.addr + i * b.size + 60) (toLE 4 0) t) s
    completeOk p 0 0 0 { s1 with net.inboxes := tput s1.net.inboxes n b }
  | 1 => completeOk p 0 0 0 (closeInbox n s)
  | _ =>
    let b := tgetD s.net.inboxes n
    let c := { b with full := b.full.filter (· != k) }
    let s1 := if b.full.contains k then vwrite p.ctx (b.addr + k * b.size + 60) (toLE 4 0) s else s
    completeOk p c.full.length 0 0 { s1 with net.inboxes := tput s1.net.inboxes n c }

/-- GW_INBOX (R381). -/
def execGwInbox (p : Pkt) (s : State) : Res := runHost p s false (chkGwInbox p s) (actGwInbox p)

/-- Transfers that this device sends in session `id`. -/
def outCount (s : State) (id : Nat) : Nat := (s.net.gwOut.filter fun x => x.session == id).length

/-- Checks of GW_SEND. -/
def chkGwSend (p : Pkt) (s : State) : Option Fail :=
  let k := fld p 16 2
  let va := fld p 24 8
  let len := fld p 32 4
  let e := memberOf s k
  let full := match gwWith s k with
    | some (id, _) => decide (8 ≤ outCount s id)
    | none => decide (64 ≤ s.net.gws.length)
  let head := vread s p.ctx va 12
  orFail (firstFails [[(4095 < k, .eRange, 16), (!memberValid s k, .eHandle, 16), (60000 < fld p 20 4, .eRange, 20)],
      addrChk s p.ctx va len 1 24,
      [(len < 12 || num head 0 4 != 0x33505250 || num head 8 4 != len, .eCombination, 32)],
      permChk s p.ctx va len false 24,
      [(s.net.own.isNone, .eState, 16), (full, .eNoslot, 16),
       (chanRetired s 6 (egress s (num e 152 1) (slice e 136 16)), .eRetired, 16)]])
    (wordFail s p.ctx va len 24)

/-- Effect of GW_SEND (R378, R380): the transfer is offered once the session is open. -/
def actGwSend (p : Pkt) (s : State) : State :=
  let s := readWords p.ctx (fld p 24 8) (fld p 32 4) s
  let k := fld p 16 2
  let (id, s1) := match gwWith s k with
    | some (id, _) => (id, s)
    | none => sendHello k s
  let q := tgetD s1.net.gws id
  let ms := if fld p 20 4 = 0 then 2000 else fld p 20 4
  let x : GwOut :=
    { pkt := p, session := id, id := q.nextTransfer, inbox := fld p 18 2, parcel := vread s p.ctx (fld p 24 8) (fld p 32 4)
      chunk := chunkSize s k, last := s.time.now, deadlineMs := ms }
  let s2 := modGw id (fun q => { q with nextTransfer := q.nextTransfer + 1 }) (handOn p s1)
  let s3 := { s2 with net.gwOut := s2.net.gwOut ++ [x] }
  if q.phase = 3 then offer x s3 else s3

/-- GW_SEND (R380). -/
def execGwSend (p : Pkt) (s : State) : Res :=
  runHost p s (rangeHost s p.ctx (fld p 24 8) (fld p 32 4)) (chkGwSend p s) (actGwSend p)

/-- Effect of GW_QUERY. -/
def actGwQuery (p : Pkt) (s : State) : State :=
  let open_ := (s.net.gws.filter fun e => e.2.phase == 3).length
  completeOk p open_ (s.net.own.getD 0xFFFF) (s.net.gwOut.length + s.net.gwIn.length) s

/-- GW_QUERY (R382). -/
def execGwQuery (p : Pkt) (s : State) : Res := runCmd p s none (actGwQuery p)

end Sys2Proof.Machine
end

