-- ==== Sys2Proof/Machine/SafetyCmds.lean ====
section
/-! DEFINITION. The safety commands (15, R408–R411), the watchdogs, leaks and deadlines, the lockstep pairs (R400), and the clock and
supply monitors (R386, R463). -/

namespace Sys2Proof.Machine

/-! ### Queries -/

/-- Every channel in type and then index order (R392, R410). -/
def allChannels : List (Nat × Nat) :=
  ([1, 2, 3, 4, 5, 6, 7].map fun ty => (List.range (chanCount ty)).map fun ix => (ty, ix)).flatten

/-- Channels retired (R408). -/
def retiredCount (s : State) : Nat := (allChannels.filter fun c => chanRetired s c.1 c.2).length

/-- Coverage is degraded on some unit (R403). -/
def degradedAny (s : State) : Bool := s.safe.tests.any fun e => e.2.degraded

/-- A standby pair is available (R400): none while it runs a firmware update, stages 2 to 5 (R448). -/
def standbyFree (s : State) : Bool := s.safe.standby && s.boot.updStage < 2

/-- First result word of SAFE_QUERY. -/
def safeWord (s : State) : Nat :=
  b2n s.pins.safeFaultLow + 2 * b2n s.safe.safeState + 4 * b2n (degradedAny s) + 8 * b2n (standbyFree s)
    + 65536 * (retiredCount s % 256) + 16777216 * ((spares s).length % 256)

/-- Effect of SAFE_QUERY. -/
def actSafeQuery (p : Pkt) (s : State) : State := completeOk p (safeWord s) s.safe.seq (deviceScore s) s

/-- SAFE_QUERY (R408). -/
def execSafeQuery (p : Pkt) (s : State) : Res := runCmd p s none (actSafeQuery p)

/-- The 32 bytes of a safety event record (R405). -/
def safeRecBytes (e : SafeRec) : List Byte :=
  toLE 8 e.time ++ toLE 4 e.seq ++ toLE 1 e.kind ++ toLE 1 e.ctype ++ toLE 1 e.index ++ toLE 1 e.action ++ toLE 2 e.ctx
    ++ toLE 1 e.score ++ [0] ++ toLE 4 e.detail ++ toLE 8 e.location

/-- Records that SAFE_LOG_READ copies: from the first number on, oldest first. -/
def logRecs (p : Pkt) (s : State) : List SafeRec := (s.safe.log.filter fun e => fld p 16 4 ≤ e.seq).take (fld p 20 2)

/-- Records from the first number on that are no longer kept. -/
def logLost (p : Pkt) (s : State) : Nat :=
  if fld p 16 4 = 0 then 0 else ((s.safe.log.head?.map SafeRec.seq).getD (s.safe.seq + 1)) - fld p 16 4

/-- Checks of SAFE_LOG_READ. -/
def chkSafeLogRead (p : Pkt) (s : State) : Option Fail :=
  let n := 32 * (logRecs p s).length
  firstFails [[(fld p 20 2 = 0 || 1024 < fld p 20 2, .eRange, 20)], destChk p s n 24, permChk s p.ctx (fld p 24 8) n true 24]

/-- Effect of SAFE_LOG_READ. -/
def actSafeLogRead (p : Pkt) (s : State) : State :=
  let rs := logRecs p s
  completeOk p rs.length (logLost p s) 0 (vwrite p.ctx (fld p 24 8) (rs.map safeRecBytes).flatten s)

/-- SAFE_LOG_READ (R408). -/
def execSafeLogRead (p : Pkt) (s : State) : Res := runHost p s false (chkSafeLogRead p s) (actSafeLogRead p)

/-- State code of a channel in SAFE_CHANNELS (R410). -/
def chanState (s : State) (c : Nat × Nat) : Nat :=
  if chanRetired s c.1 c.2 then 2 else if c.1 = 1 ∧ (panelOf s c.2).state = .spare then 1 else 0

/-- The 16 bytes of a channel record (R410). -/
def chanBytes (s : State) (c : Nat × Nat) : List Byte :=
  let x := chanOf s c.1 c.2
  toLE 1 c.1 ++ toLE 1 c.2 ++ toLE 1 (chanState s c) ++ toLE 1 (sat 8 (chanScore s c.1 c.2)) ++ toLE 2 (sat 16 x.transients)
    ++ toLE 2 (sat 16 x.unchecked) ++ toLE 8 x.last

/-- Checks of SAFE_CHANNELS. -/
def chkSafeChannels (p : Pkt) (s : State) : Option Fail :=
  firstFails [destChk p s 1216 16, permChk s p.ctx (fld p 16 8) 1216 true 16]

/-- Effect of SAFE_CHANNELS. -/
def actSafeChannels (p : Pkt) (s : State) : State :=
  completeOk p (allChannels.filter fun c => chanState s c == 0).length (retiredCount s) 0
    (vwrite p.ctx (fld p 16 8) (allChannels.map (chanBytes s)).flatten s)

/-- SAFE_CHANNELS (R410). -/
def execSafeChannels (p : Pkt) (s : State) : Res := runHost p s false (chkSafeChannels p s) (actSafeChannels p)

/-! ### Settings -/

/-- The settings of a SAFE_CONFIG record (R409). -/
def safeCfgOf (b : List Byte) : SafeCfg :=
  { intervalMs := num b 0 2, leakS := num b 2 1, threshold := num b 3 1, retry := (num b 4 1).testBit 0
    wCompute := num b 8 1, wCorrected := num b 9 1, wUncorrectable := num b 10 1, wSoft := num b 11 1, wHard := num b 12 1
    wWatchdog := num b 13 1, wLoss := num b 14 1, mask := num b 16 4 }

/-- A reserved field of the record is not 0. -/
def safeCfgRsv (b : List Byte) : Bool := 2 ≤ num b 4 1 || num b 5 3 != 0 || num b 15 1 != 0 || num b 20 44 != 0

/-- A field of the record is out of its range. -/
def safeCfgRange (b : List Byte) : Bool :=
  num b 0 2 < 10 || 1000 < num b 0 2 || num b 2 1 = 0 || 60 < num b 2 1 || num b 3 1 < 16
    || (List.range 7).any (fun i => decide (48 < num b (8 + i) 1)) || num b 16 4 % 2 != 0 || 2 ^ 22 ≤ num b 16 4

/-- Checks of SAFE_CONFIG; the record is checked in the place of its address (R484). -/
def chkSafeConfig (p : Pkt) (s : State) : Option Fail :=
  let a := fld p 16 8
  let b := vread s 0 a 64
  if a = 0 then none
  else
    orFail (firstFails [addrChk s 0 a 64 16 16, [(safeCfgRsv b, .eReserved, 16), (safeCfgRange b, .eRange, 16)],
      permChk s 0 a 64 false 16]) (wordFail s 0 a 64 16)

/-- Effect of SAFE_CONFIG: the settings apply to events detected after the reply; scores are kept. -/
def actSafeConfig (p : Pkt) (s : State) : State :=
  let s := if fld p 16 8 = 0 then s else readWords 0 (fld p 16 8) 64 s
  let a := fld p 16 8
  completeOk p 0 0 0 { s with safe.cfg := if a = 0 then {} else safeCfgOf (vread s 0 a 64) }

/-- SAFE_CONFIG (R409). -/
def execSafeConfig (p : Pkt) (s : State) : Res :=
  runHost p s (fld p 16 8 != 0 && rangeHost s 0 (fld p 16 8) 64) (chkSafeConfig p s) (actSafeConfig p)

/-- SAFE_E2E's binding: one of the issuing context that has not ended. -/
def e2eBind (p : Pkt) (s : State) : Bool :=
  match tget s.sched.binds (fld p 16 1) with
  | some b => b.ctx == p.ctx && !b.ended
  | none => false

/-- Checks of SAFE_E2E. -/
def chkSafeE2e (p : Pkt) (s : State) : Option Fail := firstFail [(!e2eBind p s, .eHandle, 16)]

/-- Effect of SAFE_E2E: the maximum age of the binding's frames (R391). -/
def actSafeE2e (p : Pkt) (s : State) : State :=
  completeOk p 0 0 0 { s with sched.binds := tupd s.sched.binds (fld p 16 1) fun b => { b with maxAge := fld p 20 4 } }

/-- SAFE_E2E (R391). -/
def execSafeE2e (p : Pkt) (s : State) : Res := runCmd p s (chkSafeE2e p s) (actSafeE2e p)

/-! ### Retirement, injection, self-test and the safe state by command -/

/-- Channel type and index of a command. -/
def chanChk (p : Pkt) (top : Nat) : List (Bool × Code × Nat) :=
  [(fld p 16 1 = 0 || top < fld p 16 1, .eRange, 16), (chanCount (fld p 16 1) ≤ fld p 17 1, .eRange, 17)]

/-- DRAM channels in service (R307). -/
def dramInService (s : State) : List Nat := (List.range 16).filter fun c => (tgetD s.store.channels c).state == 0

/-- A retirement of the channel is under way or due (R411). -/
def retiring (s : State) (ty ix : Nat) : Bool :=
  (chanOf s ty ix).due || (ty == 3 && ((tgetD s.store.channels ix).state == 1 || s.store.retireQueue.any fun e => e.1 == ix))

/-- Checks of SAFE_RETIRE. -/
def chkSafeRetire (p : Pkt) (s : State) : Option Fail :=
  let ty := fld p 16 1
  let ix := fld p 17 1
  firstFails [chanChk p 7,
    [((ty = 7 && ix = 0 && s.link.x4x4) || (ty = 3 && dramInService s == [ix]), .eCombination, 16),
     (retiring s ty ix && !chanRetired s ty ix, .eState, 16), (chanRetired s ty ix, .eRetired, 16)]]

/-- Effect of SAFE_RETIRE: the channel leaves service at the end of the leg or transfer in progress on it (R397). -/
def actSafeRetire (p : Pkt) (s : State) : State :=
  let k := chKey (fld p 16 1) (fld p 17 1)
  workEnded <| boundaries (settleTiers (settle (handOn p
    { s with safe.chans := tmod s.safe.chans k fun c => { c with due := true, retirePkts := c.retirePkts ++ [p] } })))

/-- SAFE_RETIRE (R408). -/
def execSafeRetire (p : Pkt) (s : State) : Res := runCmd p s (chkSafeRetire p s) (actSafeRetire p)

/-- Checks of SAFE_CLEAR: no coverage degraded condition, the device score below the threshold. -/
def chkSafeClear (s : State) : Option Fail :=
  firstFail [(degradedAny s || s.safe.cfg.threshold ≤ deviceScore s, .eState, 0xFFFF)]

/-- Effect of SAFE_CLEAR (R406, R408). -/
def actSafeClear (p : Pkt) (s : State) : State := completeOk p 0 0 0 (safetyPins { s with safe.signalled := false })

/-- SAFE_CLEAR (R408). -/
def execSafeClear (p : Pkt) (s : State) : Res := runCmd p s (chkSafeClear s) (actSafeClear p)

/-- A unit that is a spare panel. -/
def spareUnit (p : Pkt) (s : State) : Bool := fld p 16 1 == 1 && (panelOf s (fld p 17 1)).state == .spare

/-- The gang of a unit: Kite's is 0; a panel in no gang has none. -/
def unitGang (s : State) (ty ix : Nat) : Option Nat :=
  if ty = 2 then some 0 else if (panelOf s ix).state = .inGang then some (panelOf s ix).gang else none

/-- A P0 binding, or a P0 leg, on the unit's gang (R411). -/
def unitP0 (s : State) (ty ix : Nat) : Bool :=
  match unitGang s ty ix with
  | none => false
  | some g =>
    (s.sched.binds.any fun e => e.2.gang == g && e.2.level == 0 && !e.2.ended)
      || (match (gangOf s g).bind Gang.cur with | some c => c.level == 0 | none => false)

/-- Checks of SAFE_INJECT. -/
def chkSafeInject (p : Pkt) (s : State) : Option Fail :=
  let ty := fld p 16 1
  let ix := fld p 17 1
  firstFails [chanChk p 2, [(6 < fld p 18 1, .eRange, 18), (spareUnit p s, .eCombination, 16), (unitP0 s ty ix, .eBusy, 16),
    (chanRetired s ty ix, .eRetired, 16)]]

/-- Effect of SAFE_INJECT: the fault is planted at the unit's next leg boundary. -/
def actSafeInject (p : Pkt) (s : State) : State :=
  workEnded <| boundaries (settleTiers (serveInjects (handOn p { s with safe.injects := s.safe.injects ++ [p] })))

/-- SAFE_INJECT (R408). -/
def execSafeInject (p : Pkt) (s : State) : Res := runCmd p s (chkSafeInject p s) (actSafeInject p)

/-- Effect of SAFE_ENTER (R407). -/
def actSafeEnter (p : Pkt) (s : State) : State := workEnded (completeOk p 0 0 0 (enterSafe s))

/-- SAFE_ENTER (R407). -/
def execSafeEnter (p : Pkt) (s : State) : Res := runCmd p s none (actSafeEnter p)

/-- Checks of SAFE_SELFTEST. -/
def chkSafeSelftest (p : Pkt) (s : State) : Option Fail :=
  firstFails [chanChk p 2, [(spareUnit p s, .eCombination, 16), (chanRetired s (fld p 16 1) (fld p 17 1), .eRetired, 16)]]

/-- Effect of SAFE_SELFTEST: a pass at the unit's next admissible points; a free panel has no legs, and its pass starts at once. -/
def actSafeSelftest (p : Pkt) (s : State) : State :=
  let k := chKey (fld p 16 1) (fld p 17 1)
  let s1 := modTest k (fun x => { x with pkts := x.pkts ++ [p] }) (handOn p s)
  match unitGang s1 (fld p 16 1) (fld p 17 1) with
  | some g => boundary g false s1
  | none => testFree k s1

/-- SAFE_SELFTEST (R408). -/
def execSafeSelftest (p : Pkt) (s : State) : Res := runCmd p s (chkSafeSelftest p s) (actSafeSelftest p)

/-! ### Leaks, deadlines and watchdogs -/

/-- The times at which contributions leak away (R393). -/
def leakTimes (s : State) : List Nat :=
  (s.safe.device ++ (s.safe.chans.map fun e => e.2.contrib).flatten).map Prod.snd

/-- Drops the contributions that have leaked away. -/
def dropLeaked (s : State) : State :=
  let keep := fun (l : List (Nat × Nat)) => l.filter fun e => s.time.now < e.2
  { s with
    safe.device := keep s.safe.device
    safe.chans := tmap s.safe.chans fun _ c => { c with contrib := keep c.contrib } }

/-- SCORE_LEAK: the oldest contribution leaks away after the leak time (R393). -/
def execScoreLeak (s : State) : Res :=
  match (leakTimes s).min? with
  | none => .next s
  | some t => .next (dropLeaked (elapseTo t s))

/-- A unit whose self-test passes run periodically: Kite, and a panel in a gang (R401). -/
def testedUnit (s : State) (ty ix : Nat) : Bool := (unitGang s ty ix).isSome && !chanRetired s ty ix

/-- SELF_TEST_DEADLINE: a pass has not completed one interval after the one before it; coverage degraded is raised, once per
deadline (R401, R403). -/
def execSelfTestDeadline (type index : Nat) (s : State) : Res :=
  if !(type = 1 ∧ index < 34 ∨ type = 2 ∧ index = 0) then .fault .noSuchUnit
  else
    let k := chKey type index
    let x := tgetD s.safe.tests k
    if !testedUnit s type index || x.degraded then .next s
    else
      let s1 := elapseTo (x.last + s.safe.cfg.intervalMs * 1000000) s
      .next (logEvent 0x0C type index 0 0xFFFF (chanScore s1 type index) 0 0 (modTest k (fun x => { x with degraded := true }) s1))

/-- The first slice that attempt `r` places on position `pos` of `n` units (R394). -/
def sliceAt (n r pos : Nat) : Nat := (pos + n - r % n) % n

/-- A Tail watchdog of a gang's unit expires during an attempt: a computation error of the slice that it worked on (R389, R394). -/
def tailLate (g unit pos n : Nat) (s : State) : Res :=
  match (gangOf s g).bind Gang.cur with
  | none => .next s
  | some c =>
    execLegEnd
      { gang := g, errs := [{ slice := sliceAt n c.attempt pos, panel := unit, kind := .tailWatchdog }], fail := .none, writes := []
        notes := 0, stats := [], cells := [], emptyRows := [], unchecked := [], elapsed := s.time.now - c.startAt } s

/-- A slot is not complete within 5 ms of its frame end (R389). -/
def slotLate (n : Nat) (s : State) : State :=
  let c := camOf s n
  match c.finishing.find? fun f => !f.late with
  | none => s
  | some f =>
    let s1 := elapseTo (f.ended.getD 0 + 5000000) s
    let mark := fun (x : CamFrame) => if x.number = f.number then { x with late := true } else x
    let s2 := modCam n (fun c => { c with finishing := c.finishing.map mark }) s1
    settle (chanEvent 0x07 4 n 0 c.owner s2.safe.cfg.wWatchdog 0 f.number s2)

/-- A send has not departed within 1 ms of its dispatch while the link is up (R389). -/
def sendLate (n : Nat) (s : State) : State :=
  let e := ethOf s n
  match e.sending.find? fun x => !x.late with
  | none => s
  | some x =>
    if !e.up then s
    else
      let s1 := elapseTo (x.time + 1000000) s
      let mark := fun (y : Sending) => if y.pkt == x.pkt then { y with late := true } else y
      let s2 := modEth n (fun e => { e with sending := e.sending.map mark }) s1
      settle (chanEvent 0x07 6 n 0 x.pkt.ctx s2.safe.cfg.wWatchdog 0 0 s2)

/-- The block that a capture ring writes is not complete within 12 ms of its last frame's time (R344): reported once for each block. -/
def ringLate (r : Nat) (s : State) : State :=
  match tget s.audio.rings r with
  | none => s
  | some c =>
    if !c.running || c.block < c.late then s
    else
      let s1 := elapseTo ((s.reel.index + 160) * 62500 - 62500 / (c.rate + 1) + 12000000) s
      let s2 := { s1 with audio.rings := tput s1.audio.rings r { c with late := c.block + 1 } }
      settle (deviceEvent 0x07 0 c.owner s2.safe.cfg.wWatchdog 0 0 s2)

/-- WINDOW_WATCHDOG_LATE (R389): what the table of watchdogs charges for the unit. A DMA completion before its earliest time is
charged here too, since DMA_TRANSFER_COMPLETE carries no time. -/
def execWindowWatchdogLate (u : Watched) (s : State) : Res :=
  match u with
  | .camera n => if 11 < n then .fault .noSuchUnit else .next (slotLate n s)
  | .tail n =>
    if 33 < n then .fault .noSuchUnit
    else
      let ps := ((gangOf s (panelOf s n).gang).map Gang.panels).getD []
      if (panelOf s n).state ≠ .inGang ∨ !ps.contains n then .next s
      else tailLate (panelOf s n).gang n (ps.findIdx (· == n)) ps.length s
  | .kiteTail => tailLate 0 0 0 2 s
  | .dmaEarly c =>
    if 30 < c then .fault .noSuchUnit
    else match tget s.store.dma c with
      | none => .next s
      | some d => .next (deviceEvent 0x08 0 d.ctx s.safe.cfg.wWatchdog 0 0 s)
  | .ethernet n => if 1 < n then .fault .noSuchUnit else .next (sendLate n s)
  | .audio r => if 7 < r then .fault .noSuchUnit else .next (ringLate r s)

/-! ### The lockstep pairs (R400, R449) -/

/-- Two pairs exchange their roles: what is kept by role follows the pair. -/
def swapPairs (a b : Nat) (s : State) : State :=
  let f := fun (x : Nat) => if x = a then b else if x = b then a else x
  { s with safe.mismatches := s.safe.mismatches.map fun e => (f e.1, e.2) }

/-- A live update is cancelled (R449): the handovers made are reversed, the preferred slot stays, and the command that waits for it
ends with a code. -/
def cancelUpdate (code : Code) (s : State) : State :=
  if s.boot.updStage = 0 then s
  else
    let s1 := if 5 ≤ s.boot.updStage then swapPairs 1 2 s else s
    let s2 := if 4 ≤ s.boot.updStage then { swapPairs 0 2 s1 with glb.fwver := BitVec.ofNat 32 s.boot.running.fwver } else s1
    let s3 := { s2 with boot.updStage := 0, boot.updBusy := false, boot.updImage := {}, boot.updPkt := none }
    match s.boot.updPkt with
    | some p => complete p code 0 0 0 0 s3
    | none => s3

/-- Number of a pair by its role. -/
def pairNo (r : PairRole) : Nat := match r with | .command => 0 | .safety => 1 | .standby => 2

/-- Packets whose interpretation was in progress end with E_TRANSIENT (R400). -/
def endInterpretation (s : State) : State :=
  (s.cmd.flights.filter fun f => f.dispatched && !f.handed).foldl (fun t f => complete f.pkt .eTransient 0 0 0 0 t) s

/-- The mismatch is noted against its pair; the second one within 10 s takes the pair out of use. -/
def noteMismatch (k : Nat) (s : State) : State :=
  let l := (s.safe.mismatches.filter fun e => s.time.now < e.2 + 10000000000) ++ [(k, s.time.now)]
  { s with safe.mismatches := l, safe.pairsOut := s.safe.pairsOut + b2n (decide (2 ≤ (l.filter fun e => e.1 == k).length)) }

/-- LOCKSTEP_MISMATCH: the standby pair takes the role over, or the safe state is entered where none is available (R400). -/
def execLockstepMismatch (r : PairRole) (s : State) : Res :=
  if r = .standby ∧ !s.safe.standby then .next s
  else
    let s1 := noteMismatch (pairNo r) s
    let s2 := logEvent 0x0E 0 0 0 0xFFFF (deviceScore s1) 0 0 (if r = .safety then assertFault true s1 else s1)
    let s3 := if 2 ≤ s.boot.updStage then cancelUpdate .eCheck s2 else s2
    if r = .standby then .next { s3 with safe.standby := false }
    else if !standbyFree s then .next (workEnded (enterSafe s3))
    else
      let s4 := { s3 with safe.standby := false, safe.takeover := some (decide (r = .safety)) }
      .next (if r = .command then endInterpretation s4 else s4)

/-- The tests of the mismatched pair: it becomes the new standby pair if it passes, unless it is out of use. -/
def newStandby (passed : Bool) (s : State) : State :=
  { s with
    safe.standby := passed && s.safe.pairsOut == 0
    safe.pairsOut := if passed || s.safe.pairsOut != 0 then s.safe.pairsOut else 1 }

/-- STANDBY_TAKEOVER: the standby pair has the role, and the mismatched pair has run its injection tests (R400). -/
def execStandbyTakeover (passed : Bool) (s : State) : Res :=
  match s.safe.takeover with
  | some safety =>
    let s1 := swapPairs (b2n safety) 2 { s with safe.takeover := none }
    .next (workEnded (boundaries (settleTiers (settle (newStandby passed s1)))))
  | none => .next (if !s.safe.standby && s.safe.pairsOut == 0 then newStandby passed s else s)

/-! ### The clock and supply monitors (R386, R463) -/

/-- The legs committed on the gangs that satisfy `f` stop, and their runs end with E_TRANSIENT (R189, R428, R463). -/
def stopLegs (f : Nat → Bool) (s : State) : State :=
  let s1 := ((s.sched.gangs.filter fun e => f e.1).map Prod.fst).foldl (fun t g =>
    match (gangOf t g).bind Gang.cur with
    | some c => failLeg c.run .eTransient (scrubGang g t)
    | none => t) s
  workEnded (settle (settleTiers s1))

/-- A camera port stops at once: the frame in progress completes with TRUNCATED, and ended frames still complete (R463). -/
def haltCam (n : Nat) (s : State) : State :=
  if (camOf s n).state = 2 then
    let s1 := endFrame n fTruncated s
    let kept := (camOf s1 n).finishing
    modCam n (fun c => { c with finishing := kept }) (stopCam n s1)
  else s

/-- The link of an Ethernet port goes down without a charge (R463). -/
def ethDown (n : Nat) (s : State) : State := modEth n (fun e => { e with up := false, anDone := false, neighbors := [] }) s

/-- The root port's link goes down without a charge (R55, R463). -/
def rootDown (s : State) : State :=
  if s.link.rpUp then failCold (glbEvent 8 { s with link.rpUp := false, link.rpSpeed := 0, link.rpWidth := 0 }) else s

/-- Every main camera port stops. -/
def haltCams (s : State) : State := (List.range 12).foldl (fun t n => haltCam n t) s

/-- What a rail of the second kind does (R463). -/
def railStop (r : Rail) (s : State) : State :=
  match r with
  | .bal => stopLegs (fun g => g != 0) s
  | .ser => settled (rootDown (ethDown 0 (ethDown 1 (hostDown s))))
  | .hser => settled (rootDown (ethDown 0 (ethDown 1 (hostDown s))))
  | .phy18 => settled (haltCams s)
  | _ => workEnded (enterSafe s)

/-- SUPPLY_EXCURSION: a rail leaves its range while the RY3 is out of reset (R463); it is scored once, in the device score. -/
def execSupplyExcursion (r : Rail) (below50 : Bool) (s : State) : Res :=
  if s.boot.phase = .reset then .next s
  else
    let reset := match r with
      | .aon => true | .aonio => true
      | .bal => false | .ser => false | .hser => false | .phy18 => false
      | _ => below50
    if reset then .next (powerState s) else .next (railStop r (deviceEvent 0x14 0 0xFFFF s.safe.cfg.wLoss 0 0 s))

/-- A clock or supply fault of a channel (R386, R409). -/
def clockCharge (ty ix : Nat) (s : State) : State := chanEvent 0x14 ty ix 0 0xFFFF s.safe.cfg.wLoss 0 0 s

/-- A clock or supply fault of an island without a channel (R386, R399). -/
def clockDevice (s : State) : State := deviceEvent 0x14 0 0xFFFF s.safe.cfg.wLoss 0 0 s

/-- The audio island stops: its rings and its playback end, and the high-quality path has to settle anew. -/
def haltAudio (s : State) : State :=
  let s1 := (tkeys s.audio.rings).foldl (fun t r => stopRing r t) s
  let s2 := { s1 with audio.i2s := tmap s1.audio.i2s fun _ q => { q with play := q.play.map fun g => { g with running := false } } }
  if s2.audio.hq then settleHq s2 else s2

/-- The state store or the memory controller stops: the legs and the transfers in progress end with E_TRANSIENT. -/
def haltMemory (s : State) : State := stopLegs (fun _ => true) ((tkeys s.store.dma).foldl (fun t c => stopDma c .eTransient t) s)

/-- CLOCK_MONITOR_FAULT: an island's clock leaves ±5 % of its setting: the island is stopped, and its channel is charged, or the
device score if it has none (R386). What was in progress on the island ends; it runs on afterwards, since no rule says when a stopped island
that is not retired starts again (DESIGN CHOICE, log 59). -/
def execClockMonitorFault (u : ClockUnit) (s : State) : Res :=
  match u with
  | .panel n =>
    if 33 < n then .fault .noSuchUnit
    else
      let q := panelOf s n
      .next (stopLegs (fun g => q.state == .inGang && g == q.gang) (clockCharge 1 n s))
  | .kite => .next (stopLegs (fun g => g == 0) (clockCharge 2 0 s))
  | .camera n => if 11 < n then .fault .noSuchUnit else .next (settled (haltCam n (clockCharge 4 n s)))
  | .presence => .next (settled (clockCharge 4 12 s))
  | .network => .next (settled (ethDown 0 (ethDown 1 (clockDevice s))))
  | .host => .next (hostDown (clockDevice s))
  | .mooring => .next (startLp (clockDevice s))
  | .stateStore => .next (haltMemory (clockDevice s))
  | .audio => .next (haltAudio (clockDevice s))
  | .memory => .next (haltMemory (clockDevice s))
  | .bridle => .next (endInterpretation (clockDevice s))

end Sys2Proof.Machine
end

