-- ==== Sys2Proof/Machine/Power.lean ====
section
/-! DEFINITION. Power states, wake sources, pad hold, the governor and the thermal rules (16, R412–R430). -/

namespace Sys2Proof.Machine

/-! ### The islands (R11, R412) -/

/-- The islands of R11. -/
inductive Island where
  | panel (n : Nat)
  | kite
  | mooring
  | stateStore
  | camera (n : Nat)
  | audio
  | network
  | host
  | memory
  | bridle
  deriving DecidableEq, Repr

/-- The 54 islands (R11). -/
def islands : List Island :=
  (List.range 34).map .panel ++ (List.range 12).map .camera ++ [.kite, .mooring, .stateStore, .audio, .network, .host, .memory, .bridle]

/-- Run or Trim, after the reset: the states in which any island may be powered that work needs (R412). -/
def awake (s : State) : Bool := s.boot.phase != .reset && (s.power.state == .run || s.power.state == .trim)

/-- Whether an island is powered (R11, R412): Mooring in every state but Dormant, where only its retention part is; the others in Run and
Trim, panels and Kite while work or a cascade tier needs them (R37, R168), a camera pipeline while its port is configured or streams, the
audio block while its path or one of its units runs; the rest throughout (DESIGN CHOICE, log 53: work may need them at any time). -/
def islandPowered (s : State) : Island → Bool
  | .panel n => awake s && panelPowered s n
  | .kite => awake s && (s.sched.runs.any (fun e => e.2.gang == 0 && e.2.state != .idle) || (tierOf s 0).state != .off)
  | .mooring => s.power.state != .dormant
  | .camera n => awake s && (tgetD s.cams.ports n).state != 0
  | .audio => awake s && (s.audio.hq || s.audio.rings.any (fun e => e.2.running) || s.audio.i2s.any fun e => e.2.mode != 0)
  | .stateStore | .network | .host | .memory | .bridle => awake s

/-- The DRAM stands in self-refresh outside Run and Trim (R412), and from the power-down of a cascade gang, where nothing else uses it,
until a leg, a rising tier, a copy or a move does (R38; DESIGN CHOICE, log 53: the accesses of the control complex alone do not count). -/
def dramSelfRefresh (s : State) : Bool := !awake s || s.store.rest

/-- Data rate of the DRAM that step 0x07 of this start has trained, MT/s (R433). -/
def dataRate (s : State) : Nat :=
  match (s.boot.journal.getLast?.bind fun x => x.entries.find? fun e => e.step == 7).map JEntry.method with
  | some 1 => 6400
  | some 2 => 4266
  | _ => 8533

/-- Clock of an island in kHz while it is powered (R11), the memory controller's cut to 100 Hz; a panel's is that of its gang's operating
point (R424). -/
def islandKhz (s : State) : Island → Nat
  | .panel n => 1000 * pointMhz (((gangOf s (panelOf s n).gang).map Gang.point).getD 6)
  | .kite => 1000000
  | .mooring => 100000
  | .stateStore => 1562500
  | .camera _ => 300000
  | .audio => 98304
  | .network => 390625
  | .host => 1000000
  | .memory => dataRate s * 10 / 8 * 100
  | .bridle => 1200000

/-! ### Pad hold (R420–R422) -/

/-- Every pad group. -/
def allPads : Nat := 0x3F

/-- Levels of CAMn_PWR_EN at the balls (R329, R422). -/
def camPads (s : State) : State :=
  { s with cams.ports := tmap s.cams.ports fun n c => { c with pwrEn := !s.cams.gate && pwrLevel s n c } }

/-- Releases the held groups of a mask whose island is powered (R421): the islands of the pads are powered throughout Run and Trim
(DESIGN CHOICE, log 53). -/
def releasePads (mask : Nat) (s : State) : State :=
  safetyPins (camPads { s with power.held := maskOf ((bitsOf 6 s.power.held).filter fun i => !mask.testBit i) })

/-- Every group enters hold: event outputs and frame syncs inactive, PWR_EN latched at its last level (R420). -/
def holdPads (s : State) : State :=
  let s1 := stopEvents s
  { s1 with
    power.held := allPads
    cams.ports := tmap s1.cams.ports fun _ c => { c with latched := if s1.power.held.testBit 2 then c.latched else c.power } }

/-! ### Moves between the states (R413–R416) -/

/-- A packet, a run, a transfer or a move of memory is queued or runs (R25, R414). -/
def workQueued (s : State) : Bool :=
  !s.cmd.flights.isEmpty || !s.sched.runs.isEmpty || !s.store.dma.isEmpty || !s.store.moves.isEmpty || !s.store.cold.isEmpty
    || s.ctxs.any fun e => !e.2.netChain.isEmpty || ((e.1 == 0 && mringOn s || ctxLive s e.1 && e.1 != 0) && e.2.queues.any fun q => q.2.tail != q.2.fetched)

/-- The PCIe endpoint is quiescent (R414). -/
def linkQuiet (s : State) : Bool := s.link.perst0 || (!s.link.up && s.link.downSince + 100000000 ≤ s.time.now)

/-- No Stolp or Gweug session is open, or NET_DROP lets the move close them (R414). -/
def sessionsQuiet (s : State) : Bool := s.power.netDrop || (s.stolp.sessions.isEmpty && s.net.gws.isEmpty)

/-- No camera streams, no ring, port or capture channel runs, and no armed trigger drives a ball or has a camera or plan bound to it
(R414). -/
def ioQuiet (s : State) : Bool :=
  !(s.cams.ports.any fun e => e.2.state == 2) && !(s.audio.rings.any fun e => ringActive e.2) && !unitRuns s 1 && !unitRuns s 2
    && !(s.net.evs.any fun e => evMode e.2 == 2 || (evMode e.2 == 1 && evArm e.2
      && (evOut e.2 || !(syncedPorts s e.1).isEmpty || s.sched.binds.any fun b => b.2.channel == e.1 && !b.2.ended)))

/-- No update, retirement, migration or scrub is in progress, and no self-test pass is past its deadline (R414). -/
def upkeepQuiet (s : State) : Bool :=
  s.boot.updStage == 0 && s.store.retiring.isNone && s.store.retireQueue.isEmpty && s.store.moves.isEmpty && s.store.scrubs.isEmpty
    && !degradedAny s

/-- The conditions of R414, with those of R25; the RY3 has started and step 0x0D has passed (R478). -/
def moorReady (s : State) : Bool :=
  (s.power.state == .run || s.power.state == .trim) && s.boot.phase == .ready && !s.boot.missing.contains 0x0D && !tiersUp s
    && !workQueued s && 2 ≤ s.power.floor && linkQuiet s && sessionsQuiet s && ioQuiet s && upkeepQuiet s

/-- MOOR_ENTRY: the conditions hold, and the entry begins (R413, R415): the Reel is handed back to the low-power path (R30). The
steps of R415 act together when it completes (log 33). -/
def execMoorEntry (s : State) : Res :=
  if moorReady s && s.power.move.isNone then .next (leaveHq { s with power.move := some { target := .moor, origin := s.power.state } })
  else .next s

/-- AON_GPIO pins whose wake level is active already (R429); a pin that raises a Lift counts as that (R417). -/
def activeLevels (s : State) : List Nat :=
  (List.range 8).filter fun i =>
    let lv := s.power.gpio.testBit i
    pinWake s i lv && !s.power.gpioEdge.testBit i && !pinLift s i lv

/-- The state is reached: one more move, a PWR_ENTER that named it or less is served (R429). -/
def reach (st : PState) (s : State) : State :=
  { s with
    power.state := st, power.move := none, power.moves := s.power.moves + 1
    power.enter := s.power.enter.filter fun e => pCode st < e.1 }

/-- After a low-power state is reached: a pending PWR_ENTER goes on to its deeper state, or an active wake level wakes at once
(R429). -/
def afterLow (s : State) : State :=
  match s.power.enter with
  | some (n, _) =>
    let st : PState := if n = 3 then .sample else .dormant
    { s with power.move := some { target := st, origin := s.power.state } }
  | none =>
    match activeLevels s with
    | i :: _ => wakeTo (if s.power.wakeFlags.testBit 2 then .run else .moor) 3 i s
    | [] => s

/-- Moor is entered from Run or Trim (R415): pads held, ports and Timekeeper stopped, the other islands off. -/
def enterMoor (s : State) : State :=
  let s1 := ethDown 0 (ethDown 1 (holdPads s))
  let s2 := reselect (loseDom 0 (loseDom 1 { s1 with stolp.sessions := [], stolp.pending := [], net.gws := [] }))
  let s3 := micPins { s2 with
    audio.hq := false
    reel.handover := s2.reel.handover.filter fun h => h.1 != 2
    sched.panels := tmap s2.sched.panels fun _ q => { q with powered := false } }
  afterLow (reach .moor { s3 with power.quietFrom := s3.time.now, casc.gateFrom := s3.time.now })

/-- Dormant is entered (R416): the Reel is discarded, PDM_CLK0 and the presence port stop. -/
def enterDormant (s : State) : State :=
  micPins (afterLow (reach .dormant
    { s with reel.blocks := [], reel.stopped := true, reel.restart := none, reel.handover := [], reel.source := 0 }))

/-- Moor is reached from Sample or Dormant: from Dormant the Reel starts again with the first block at least 20 ms after the clock
(R416), at the index that Mooring has counted to. A stretched acknowledge ends (R418). -/
def riseMoor (s : State) : State :=
  let s1 := if s.power.state = .dormant then
      { s with
        audio.lpSettle := some (s.time.now + 2000000), audio.lpHist := []
        reel.index := s.time.now / blockNs * 160, reel.restart := some (boundaryAt (s.time.now + 20000000)) }
    else wakeMics s
  micPins (reach .moor { s1 with pins.stretch := false, casc.gateFrom := s1.time.now })

/-- Run is reached (R413): the high-quality path starts, auto-released pads are freed, the event channels go on, the link trains, and
gangs take their boundaries. The state is Trim while a throttling step stands. -/
def riseRun (s : State) : State :=
  let s1 := reach .run (wakeMics { s with pins.stretch := false })
  let s2 := releasePads s1.power.autoPads (startHq s1)
  boundaries (settle (resumeEvents (tryTrain s2)))

/-- Whether the move passes through Moor first: from Dormant, and for a Lift from Sample (R413, R417). -/
def viaMoor (s : State) (m : PMove) : Bool :=
  m.target == .run && (s.power.state == .dormant || (s.power.state == .sample && s.power.wakeSrc == 2))

/-- POWER_STATE_MOVE_COMPLETE: the move under way ends (R413). An entry to Moor ends no earlier than the Reel's handover to the low-power
path, since the high-quality path runs in Run alone (R30, R336; DEDUCED, log 46). -/
def execPowerStateMoveComplete (s : State) : Res :=
  match s.power.move with
  | none => .next s
  | some m =>
    if s.power.state = .run ∨ s.power.state = .trim then
      if m.target ≠ .moor ∨ !moorReady s then .next (keepHq { s with power.move := none })
      else if s.reel.source = 2 then .next (leaveHq s)
      else .next (enterMoor s)
    else if viaMoor s m then .next { riseMoor s with power.move := some { target := .run, origin := .moor } }
    else
      match m.target with
      | .run => .next (riseRun s)
      | .trim => .next (riseRun s)
      | .moor => .next (afterLow (riseMoor s))
      | .sample => .next (micPins (afterLow (reach .sample (sleepMics s))))
      | .dormant => .next (enterDormant s)

/-- DORMANT_DELAY_EXPIRY: the dormant delay has passed in Moor or Sample without any wake (R413). -/
def execDormantDelayExpiry (s : State) : Res :=
  if (s.power.state = .moor ∨ s.power.state = .sample) ∧ s.power.move.isNone ∧ s.power.floor = 4 ∧ s.power.dormantS ≠ 0 then
    let s1 := elapseTo (s.power.quietFrom + s.power.dormantS * 1000000000) s
    .next { s1 with power.move := some { target := .dormant, origin := s1.power.state } }
  else .next s

/-- Whether wake sources act: in a low-power state, or during an entry (R415, R417). -/
def wakeArmed (s : State) : Bool :=
  !(s.power.state == .run || s.power.state == .trim) || (match s.power.move with | some m => m.target == .moor | none => false)

/-- I2C0_ADDRESS_MATCH: a transfer names an address on I2C0; the enabled one wakes (R418). With STRETCH, SCL is held low until Mooring
runs, and the data byte that follows is the wake argument. -/
def execI2c0AddressMatch (address : Nat) (argument : Option Nat) (s : State) : Res :=
  if !wakeArmed s || !s.power.i2c.testBit 7 || s.power.i2c % 128 != address then .next s
  else
    let s1 := wakeTo (if s.power.wakeFlags.testBit 1 then .run else .moor) 4 (if s.power.nack then 0 else argument.getD 0 % 256) s
    .next { s1 with pins.stretch := !s.power.nack && s1.power.state == .dormant }

/-- PE_PERST0_DEASSERT: the RY3 releases PE_WAKE_N and the endpoint trains; in a low-power state it is wake source 5 (R417, R419). -/
def execPePerst0Deassert (s : State) : Res :=
  let s1 := { s with link.perst0 := false, link.wakeDriven := false }
  .next (if wakeArmed s1 then wakeTo .run 5 0 s1 else tryTrain s1)

/-- PE_WAKE_N_SENSE: another agent drives PE_WAKE_N low, and the sense flag is set (R417, R419). -/
def execPeWakeNSense (s : State) : Res :=
  if wakeArmed s && s.power.wakeFlags.testBit 0 && !s.link.wakeDriven then
    .next (wakeTo (if s.power.wakeFlags.testBit 3 then .run else .moor) 6 0 s)
  else .next s

/-! ### The governor (R423–R425) -/

/-- Effective cap, W (R423). -/
def effCap (s : State) : Nat := min s.power.cap s.power.thermal

/-- Highest throttling step in force (R425, R429). -/
def topStep (s : State) : Nat :=
  if s.power.pt0 < 6 then 4 else if s.power.pt1 < 6 then 3 else if s.power.pt2 < 6 then 2 else b2n s.power.p3Shed

/-- Some gang has a leg at level `p` committed. -/
def levelRuns (s : State) (p : Nat) : Bool :=
  s.sched.gangs.any fun e => e.1 != 0 && (match e.2.cur with | some c => c.level == p | none => false)

/-- The next throttling step (R425): P3 is shed, then the gangs at P2, at P1 and at P0 go down by one point, P0 no lower than its
floor. None if every step is taken. -/
def throttle (s : State) : Option State :=
  let p := s.power
  if !p.p3Shed then some { s with power.p3Shed := true }
  else if levelRuns s 2 && 0 < p.pt2 then some { s with power.pt2 := p.pt2 - 1 }
  else if levelRuns s 1 && 0 < p.pt1 then some { s with power.pt1 := p.pt1 - 1 }
  else if levelRuns s 0 && p.p0Floor < p.pt0 then some { s with power.pt0 := p.pt0 - 1 }
  else none

/-- The last throttling step is undone by one point; P3 is restored last (R425). None if no step stands. -/
def unthrottle (s : State) : Option State :=
  let p := s.power
  if p.pt0 < 6 then some { s with power.pt0 := p.pt0 + 1 }
  else if p.pt1 < 6 then some { s with power.pt1 := p.pt1 + 1 }
  else if p.pt2 < 6 then some { s with power.pt2 := p.pt2 + 1 }
  else if p.p3Shed then some { s with power.p3Shed := false }
  else none

/-- The RY3 is in Trim while any step stands (R413, R425). -/
def trimState (s : State) : State :=
  let t := if topStep s = 0 then PState.run else .trim
  if (s.power.state = .run ∨ s.power.state = .trim) ∧ s.power.state ≠ t then
    { s with power.state := t, power.moves := s.power.moves + 1 }
  else s

/-- A sample of 1 ms joins the last 100 and the running window; a window whose average lies above the effective cap is counted
(R423, R425). -/
def takeSample (mw : Nat) (s : State) : State :=
  let p := s.power
  let s1 := { s with power.samples := (p.samples ++ [mw]).drop (p.samples.length + 1 - 100) }
  if p.winMs + 1 < 100 then { s1 with power.winMs := p.winMs + 1, power.winSum := p.winSum + mw }
  else
    let s2 := { s1 with power.winMs := 0, power.winSum := 0 }
    if effCap s * 1000 * 100 < p.winSum + mw then glbEvent 3 { s2 with power.excess := (p.excess + 1) % 2 ^ 32 } else s2

/-- The first multiple of `n` ns after now. -/
def nextGrid (n : Nat) (s : State) : Nat := (s.time.now / n + 1) * n

/-- GOVERNOR_TICK: every 1 ms the measurement `power` (mW) is compared with the effective cap; `roomed` is what it would be with the
last step undone by one point (R423, R425). -/
def execGovernorTick (power roomed : Nat) (s : State) : Res :=
  if !keeperOn s then .next s
  else
    let s1 := takeSample power (elapseTo (nextGrid 1000000 s) s)
    let cap := effCap s1 * 1000
    let change := if cap < power then throttle s1 else if roomed + 1000 ≤ cap then unthrottle s1 else none
    match change with
    | some t => .next (boundaries (trimState (glbEvent 3 t)))
    | none => .next s1

/-! ### Temperature (R426–R428) -/

/-- Tj_max in 0.25 °C (R426). -/
def tjMax : Int := if Config.gradeI then 460 else 500

/-- A reading: critical from Tj_max − 3 °C on (R427); the start and the end of it set GLB_EVENT.THERMAL. -/
def readHot (hottest : Int) (s : State) : State :=
  let crit := decide (tjMax - 12 ≤ hottest)
  let s1 := { s with power.hottest := hottest, power.critical := crit }
  if crit = s.power.critical then s1 else glbEvent 3 s1

/-- The thermal cap 100 ms on (R427). -/
def nextThermal (hottest : Int) (cap : Nat) : Nat :=
  if hottest < tjMax - 52 then min 60 (cap + 1) else if tjMax - 40 ≤ hottest then max 15 (cap - 1) else cap

/-- The sensors of the panels give their readings `l`; a powered-off panel gives none (R426). -/
def readPanels (l : List (Nat × Int)) (s : State) : State :=
  l.foldl (fun t e => if panelPowered t e.1 then modPanel e.1 (fun q => { q with temp := e.2 }) t else t) s

/-- The hottest reading of the powered sensors: those of the panels, and `others`, the hottest of Kite, the memory controller and the
system hub (R426). -/
def hottestOf (others : Int) (l : List (Nat × Int)) (s : State) : Int :=
  (l.filter fun e => panelPowered s e.1).foldl (fun a e => max a e.2) others

/-- THERMAL_CAP_TICK: every 100 ms the sensors are read, and the thermal cap follows the hottest reading (R426, R427). -/
def execThermalCapTick (others : Int) (s : State) (panels : List (Nat × Int) := []) : Res :=
  if !keeperOn s then .next s
  else
    let s0 := readPanels panels (elapseTo (nextGrid 100000000 s) s)
    let s1 := readHot (hottestOf others panels s0) s0
    let c := nextThermal (hottestOf others panels s0) s1.power.thermal
    let s2 := if c = s1.power.thermal then s1 else glbEvent 3 { s1 with power.thermal := c }
    .next (boundaries s2)

/-- A cause of release reaches Kite and every cascade gang (R37, R42): the tiers in service ballast, the others ignore it. -/
def ballastAll (cause : Nat) (s : State) : State := (distinct (0 :: cascGangs s)).foldl (fun t k => releaseTier k cause none t) s

/-- THERMAL_TRIP: at Tj_max + 5 °C the clocks of every panel and of Kite stop: legs in progress end with E_TRANSIENT, tiers ballast with
cause 0x05 (R428). -/
def execThermalTrip (hottest : Int) (s : State) : Res :=
  if hottest < tjMax + 20 ∨ s.power.tripped then .next s
  else
    let s1 := glbEvent 3 (readHot hottest { s with power.tripped := true, power.trippedEver := true })
    .next (stopLegs (fun _ => true) (ballastAll 5 s1))

/-- THERMAL_TRIP_RELEASE: below Tj_max − 8 °C the clocks start again, and the thermal cap is 15 W (R428). -/
def execThermalTripRelease (hottest : Int) (s : State) : Res :=
  if tjMax - 32 ≤ hottest ∨ !s.power.tripped then .next s
  else .next (boundaries (glbEvent 3 (readHot hottest { s with power.tripped := false, power.thermal := 15 })))

/-! ### The power commands (R429, R430) -/

/-- Average power of the last 100 ms, mW. -/
def avgPower (s : State) : Nat := s.power.samples.sum / max 1 s.power.samples.length

/-- The 64-byte power record (R429). -/
def powerRec (s : State) : List Byte :=
  let p := s.power
  toLE 1 (pCode p.state) ++ toLE 1 p.cap ++ toLE 1 p.thermal ++ toLE 1 (effCap s) ++ toLE 4 (avgPower s) ++ toLE 2 (unsigned 16 p.hottest)
    ++ toLE 1 (topStep s + 128 * b2n p.critical) ++ toLE 1 p.held ++ toLE 4 p.excess ++ toLE 8 p.wakeTime ++ toLE 1 p.wakeSrc
    ++ toLE 1 p.wakeAux ++ toLE 1 p.wakeFrom ++ toLE 1 (b2n p.enter.isSome + 2 * b2n p.lapsed + 4 * b2n p.trippedEver) ++ toLE 4 0
    ++ toLE 8 p.moves ++ toLE 24 0

/-- Checks of PWR_QUERY: a destination of 0 means none. -/
def chkPwrQuery (p : Pkt) (s : State) : Option Fail :=
  if fld p 16 8 = 0 then none else firstFails [destChk p s 64 16, permChk s p.ctx (fld p 16 8) 64 true 16]

/-- Effect of PWR_QUERY. -/
def actPwrQuery (p : Pkt) (s : State) : State :=
  let w0 := pCode s.power.state + 8 * s.power.cap + 1024 * effCap s + 131072 * s.power.held
  let s1 := if fld p 16 8 = 0 then s else vwrite p.ctx (fld p 16 8) (powerRec s) s
  completeOk p w0 (avgPower s) (unsigned 32 s.power.hottest) s1

/-- PWR_QUERY (R429). -/
def execPwrQuery (p : Pkt) (s : State) : Res := runHost p s false (chkPwrQuery p s) (actPwrQuery p)

/-- Checks of PWR_CAP. -/
def chkPwrCap (p : Pkt) : Option Fail :=
  firstFail [(fld p 16 1 < 15 || 60 < fld p 16 1, .eRange, 16), (6 < fld p 17 1, .eRange, 17)]

/-- Effect of PWR_CAP: P0 never runs below its floor; gangs that rise to a new floor change their clock (R425). -/
def actPwrCap (p : Pkt) (s : State) : State :=
  let s1 := completeOk p 0 0 0 { s with power.cap := fld p 16 1, power.p0Floor := fld p 17 1, power.pt0 := max s.power.pt0 (fld p 17 1) }
  if s.power.pt0 < fld p 17 1 then boundaries (trimState (glbEvent 3 s1)) else s1

/-- PWR_CAP (R423). -/
def execPwrCap (p : Pkt) (s : State) : Res := runCmd p s (chkPwrCap p) (actPwrCap p)

/-- Checks of PWR_POLICY. -/
def chkPwrPolicy (p : Pkt) : Option Fail := firstFail [(fld p 16 1 = 1 || 4 < fld p 16 1, .eRange, 16)]

/-- Effect of PWR_POLICY. -/
def actPwrPolicy (p : Pkt) (s : State) : State :=
  completeOk p 0 0 0
    { s with power.floor := fld p 16 1, power.netDrop := (fld p 17 1).testBit 0, power.dormantS := fld p 18 2 }

/-- PWR_POLICY (R414). -/
def execPwrPolicy (p : Pkt) (s : State) : Res := runCmd p s (chkPwrPolicy p) (actPwrPolicy p)

/-- Checks of PWR_WAKE: the address of an enabled comparator, and the secure element's address. -/
def chkPwrWake (p : Pkt) (s : State) : Option Fail :=
  let a := fld p 16 1
  let on := a.testBit 7
  firstFail [(on && (a % 128 < 8 || 0x77 < a % 128), .eRange, 16),
    (on && (s.boot.record.map Record.seAddr) == some (a % 128), .eCombination, 16)]

/-- Effect of PWR_WAKE. -/
def actPwrWake (p : Pkt) (s : State) : State :=
  completeOk p 0 0 0
    { s with
      power.i2c := fld p 16 1, power.nack := (fld p 17 1).testBit 0, power.gpioEn := fld p 18 1, power.gpioPol := fld p 19 1
      power.gpioEdge := fld p 20 1, power.wakeFlags := fld p 21 1 }

/-- PWR_WAKE (R417). -/
def execPwrWake (p : Pkt) (s : State) : Res := runCmd p s (chkPwrWake p s) (actPwrWake p)

/-- Checks of PWR_ENTER. -/
def chkPwrEnter (p : Pkt) (s : State) : Option Fail :=
  let st := fld p 16 1
  firstFail [(st < 2 || 4 < st, .eRange, 16), (fld p 18 2 = 0 || 60000 < fld p 18 2, .eRange, 18),
    (s.power.floor < st, .eCombination, 16), (s.power.enter.isSome, .eState, 16)]

/-- Effect of PWR_ENTER: the reply, then the state is entered once the conditions hold. -/
def actPwrEnter (p : Pkt) (s : State) : State :=
  let s1 := completeOk p 0 0 0 s
  { s1 with power.enter := some (fld p 16 1, s.time.now + fld p 18 2 * 1000000), power.lapsed := false }

/-- PWR_ENTER (R429). -/
def execPwrEnter (p : Pkt) (s : State) : Res := runCmd p s (chkPwrEnter p s) (actPwrEnter p)

/-- PWR_ENTER_DEADLINE: the conditions have not held in time, and the request lapses (R429). -/
def execPwrEnterDeadline (s : State) : Res :=
  match s.power.enter with
  | none => .next s
  | some (_, t) => .next { elapseTo t s with power.enter := none, power.lapsed := true }

/-- Checks of PADS_RELEASE: every group named is held. -/
def chkPadsRelease (p : Pkt) (s : State) : Option Fail :=
  firstFail [((bitsOf 6 (fld p 16 1)).any (fun i => !s.power.held.testBit i), .eState, 16)]

/-- Effect of PADS_RELEASE. -/
def actPadsRelease (p : Pkt) (s : State) : State :=
  let s1 := releasePads (fld p 16 1) s
  completeOk p (fld p 16 1) s1.power.held 0 s1

/-- PADS_RELEASE (R421). -/
def execPadsRelease (p : Pkt) (s : State) : Res := runCmd p s (chkPadsRelease p s) (actPadsRelease p)

/-- Effect of PWR_PADS: a group of the mask is released as soon as its island is powered: those held now at once. -/
def actPwrPads (p : Pkt) (s : State) : State :=
  completeOk p 0 0 0 (releasePads (fld p 16 1) { s with power.autoPads := fld p 16 1 })

/-- PWR_PADS (R421). -/
def execPwrPads (p : Pkt) (s : State) : Res := runCmd p s none (actPwrPads p)

end Sys2Proof.Machine
end

