-- ==== Sys2Proof/Machine/Start.lean ====
section
/-! DEFINITION. Resets and the start (17, R431–R441; 18, R465–R477): boot ROM's choice of source, the start steps, the journal, the
configuration record and the image checks. -/

namespace Sys2Proof.Machine

/-! ### The resets -/

/-- POWER_ON_RESET (R465, R466): an assertion of PORESET_N or the first power-up; it dominates every other reset (R476). -/
def execPowerOnReset (s : State) : Res := .next (powerState s)

/-- Cause code of a warm reset (R436). -/
def causeCode (c : WarmCause) : Nat := match c with | .sysreset => 1 | .devReset => 2 | .journal => 3

/-- WARM_RESET (R10, R476, R481): during a reset the requests merge, and the cause that took effect first stays. The reset that a
DEV_RESET asked for ends the packets in flight first (R103). -/
def execWarmReset (cause : WarmCause) (s : State) : Res :=
  let mark := fun (t : State) => if cause = .sysreset then { t with pins.sysreset := true } else t
  if s.boot.phase = .reset then .next (mark s)
  else if cause = .devReset ∧ s.cmd.devReset.isSome then .next (finishReset s)
  else .next (mark (warmState (causeCode cause) s))

/-! ### The firmware image (R438, R439) -/

/-- Size of the body of an image. -/
def imgBody (b : List Byte) : Nat := num b 16 4

/-- The first failing check of an image, in the order of R439. -/
def imageCode (floor : Nat) (b : List Byte) : Option Code :=
  let body := slice b 256 (imgBody b)
  let signed := slice b 0 (256 + imgBody b)
  if num b 0 4 != 0x33494D47 || num b 5 1 != 1 then some .eVersion
  else if num b 6 2 != 0 || num b 20 4 != 0 || num b 165 27 != 0 || imgBody b < 4096 || 16776704 < imgBody b
      || b.length != 256 + imgBody b + 132 then some .eRange
  else if Config.sha512 (slice b 32 133) != Config.firmwareKey || slice b 192 64 != toLE 64 (Config.sha512 body).toNat
      || !Config.ecdsaVerify (slice b 32 133) signed (slice b (256 + imgBody b) 132) then some .eSignature
  else if num b 12 4 < floor then some .eRollback
  else none

/-- The versions and the digest of an image. -/
def imageFrom (b : List Byte) : Image :=
  { fwver := num b 8 4, secver := num b 12 4, digest := Config.sha512 (slice b 0 (256 + imgBody b)) }

/-- The image that NOR slot `n` holds (R437). -/
def imageOf (s : State) (n : Nat) : Image :=
  (tget s.boot.images n).getD
    { fwver := Config.imageFwver n % 2 ^ 32, secver := Config.imageSecver n % 2 ^ 32, digest := Config.imageDigest n }

/-! ### The journal (R435, R436) -/

/-- The newest start, which is the one under way. -/
def startNow (s : State) : Start := s.boot.journal.getLast?.getD {}

/-- Changes the newest start. -/
def modStart (f : Start → Start) (s : State) : State :=
  match s.boot.journal.getLast? with
  | some x => { s with boot.journal := s.boot.journal.dropLast ++ [f x] }
  | none => s

/-- The entry of a step in a start. -/
def entryOf (n : Nat) (x : Start) : Option JEntry := x.entries.find? fun e => e.step == n

/-- Whether step `n` failed in a start. -/
def stepFailed (n : Nat) (x : Start) : Bool := match entryOf n x with | some e => e.result == 1 | none => false

/-- Mandatory steps (R433); step 0x09 is mandatory when the source in use is the host. -/
def mandatory (hostSrc : Bool) (n : Nat) : Bool := n ≤ 8 || n == 0x11 || (n == 9 && hostSrc)

/-- Steps with an alternate method (R433). -/
def hasAlternate (n : Nat) : Bool := n != 0x11

/-- How a step runs (R435), given the earlier starts, newest first: none if it is skipped, or its method. A step that BOOT_RETRY or a
committed update named runs with its primary method. -/
def stepPlan (earlier : List Start) (retry : List Nat) (hostSrc : Bool) (n : Nat) : Option Nat :=
  if retry.contains n then some 0
  else
    let last := (earlier.filterMap (entryOf n)).head?
    let twice := match earlier with | x :: y :: _ => stepFailed n x && stepFailed n y | _ => false
    let kept := match last with | some e => e.result == 0 && e.method != 0 | none => false
    let before := match earlier.head? with | some x => stepFailed n x | none => false
    if !mandatory hostSrc n && (twice || (match last with | some e => e.result == 2 | none => false)) then none
    else if hasAlternate n && (kept || (mandatory hostSrc n && before)) then some 1
    else some 0

/-- The earlier starts, newest first. -/
def earlierStarts (s : State) : List Start := s.boot.journal.dropLast.reverse

/-- Adds an entry for step `n` to the journal; the step has run, so that BOOT_RETRY no longer names it. -/
def journalStep (n method result units status detail : Nat) (s : State) : State :=
  let e : JEntry := { step := n, method := method, result := result, units := units, status := status, detail := detail, time := s.time.now }
  let s1 := modStart (fun x => { x with entries := x.entries ++ [e] }) s
  { s1 with boot.retry := s1.boot.retry.filter (· != n) }

/-- Source byte of the journal header (R436): BOOT_SRC as sampled, the source used, recovery. -/
def sourceByte (b : Boot) : Nat := b.strap % 4 + 4 * b2n b.hostSrc + 16 * b2n b.recovery

/-- Notes the source and the slot in the journal header. -/
def noteSource (s : State) : State := modStart (fun x => { x with source := sourceByte s.boot, slot := s.boot.slot }) s

/-! ### The steps (R433) -/

/-- Limit of a step, ms (R433). -/
def stepLimit (n : Nat) : Nat :=
  match n with
  | 1 => 5 | 2 => 20 | 3 => 20 | 4 => 50 | 5 => 200 | 6 => 10 | 7 => 500 | 8 => 10 | 9 => 150 | 0x0A => 1000 | 0x0B => 50
  | 0x0C => 20 | 0x0D => 20 | 0x0E => 50 | 0x0F => 20 | 0x10 => 200 | _ => 10

/-- An optional step leaves its units out of service for the rest of the start (R434, R435): without step 0x09 the endpoint's link is
down. -/
def leaveOut (n : Nat) (s : State) : State :=
  let s1 := { s with boot.missing := s.boot.missing ++ [n] }
  if n = 9 then linkDown s1 else s1

/-- Begins step `n`, or skips it and goes on (R435). Step 0x05 of a host boot waits for the host's image, with the endpoint trained
(R432); step 0x09 with its alternate trains anew in mode X8. From step 0x04 on, the endpoint trains as soon as it can (R477). -/
def beginStep : Nat → Nat → State → State
  | 0, _, s => s
  | fuel + 1, n, s =>
    match stepPlan (earlierStarts s) s.boot.retry s.boot.hostSrc n with
    | none => beginStep fuel (n + 1) (leaveOut n (journalStep n 0 2 0 0 0 s))
    | some m =>
      let s1 := { s with boot.method := m, boot.stepFrom := s.time.now }
      if n = 5 ∧ s.boot.hostSrc then tryTrain { s1 with boot.phase := .hostWait }
      else
        let s2 := if n = 9 ∧ m ≠ 0 ∧ s1.link.x4x4 then { s1 with link.x4x4 := false, link.up := false } else s1
        tryTrain { s2 with boot.phase := .step n }

/-- Goes on to step `n`. -/
def nextStep (n : Nat) (s : State) : State := beginStep 20 n s

/-- The journal after a power-on reset: the mirror, if its HMAC holds (R436); the start number and the count of failed starts come
from it. -/
def reloadJournal (s : State) : State :=
  let ok := Config.mirrorHolds s.freeCtr
  let j := if ok then s.boot.mirror else []
  let last := j.getLast?
  { s with
    freeCtr := s.freeCtr + 1
    boot.journal := j
    boot.retry := if ok then s.boot.retry else []
    boot.startNo := (last.map Start.number).getD 0
    boot.failed := (last.map fun x => if x.result = 1 then x.failed + 1 else 0).getD 0 }

/-- BOOT_ROM_START (R431, R435, R476, R477): the reset ends; BOOT_SRC is sampled, RST_OUT_N is released, the journal has a new start,
and boot ROM runs step 0x01. After three consecutive failed starts it enters recovery: mode X8, SAFE_STATE high. -/
def execBootRomStart (bootSrc : Nat) (s : State) : Res :=
  if s.boot.phase ≠ .reset then .next s
  else
    let s1 := if s.boot.cause = 0 then reloadJournal s else s
    let rec_ := decide (3 ≤ s1.boot.failed)
    let no := (s1.boot.startNo + 1) % 2 ^ 32
    let s2 := { s1 with boot.strap := bootSrc % 4, boot.recovery := rec_, boot.hostSrc := false, boot.startNo := no, boot.slot := 0 }
    let x : Start := { number := no, cause := s.boot.cause, failed := min s1.boot.failed 255, source := sourceByte s2.boot }
    let j := (s2.boot.journal ++ [x]).drop (s2.boot.journal.length + 1 - 8)
    let s3 := { s2 with
      boot.journal := j, pins.sysreset := false, pins.rstOutLow := false
      link.x4x4 := s2.boot.linkSel.getD false && !rec_ }
    .next (safetyPins (nextStep 1 s3))

/-! ### The configuration record (R440, R441) -/

/-- A copy of the record is valid (R441); it was checked when it was written. -/
def recordValid (s : State) (r : Record) : Bool :=
  (r.binding == 0 || r.binding == deviceId) && s.boot.paired && s.boot.owner != 0 && r.signer == s.boot.owner && s.boot.cfgFloor ≤ r.version

/-- The valid copies in NOR. -/
def validCopies (s : State) : List (Nat × Record) := s.boot.copies.filter fun e => e.1 < 2 && recordValid s e.2

/-- The copy of higher record version. -/
def bestCopy (l : List (Nat × Record)) : Option (Nat × Record) :=
  l.foldl (fun a e => match a with | some b => if b.2.version < e.2.version then some e else a | none => some e) none

/-- The record that step 0x03 takes: the valid copy of higher version, or with the alternate method the other copy (R433); none means
the defaults. -/
def chooseRecord (s : State) (method : Nat) : Option Record :=
  match bestCopy (validCopies s) with
  | none => none
  | some b => if method = 0 then some b.2 else ((validCopies s).find? fun e => e.1 != b.1).map Prod.snd

/-- Policy bit `i` of the record in force. -/
def policy (s : State) (i : Nat) : Bool := match s.boot.record with | some r => r.policies.testBit i | none => false

/-- The source that the straps, or the record's override, select: a value of BOOT_SRC (R431). -/
def sourceSel (s : State) : Nat :=
  let o := match s.boot.record with | some r => r.bootSrc | none => 0xFF
  let v := if o ≤ 2 then o else s.boot.strap
  if v = 3 then 0 else v

/-- The host may be the source: in recovery, or with HOST_BOOT (R440, R441). -/
def hostAllowed (s : State) : Bool := s.boot.recovery || policy s 3

/-- Step 0x03 passes: the record is in force. Its link mode is selected by the first step 0x03 after a power-on reset, and holds for every
later start but one in recovery (R49); its client keys, the Stolp service
and PDM_CLK0 from now on (R104, R106, R336). -/
def takeRecord (s : State) : State :=
  let r := chooseRecord s s.boot.method
  let sel := s.boot.linkSel.getD ((r.map Record.linkMode).getD 0 == 1)
  let s1 := { s with
    boot.record := r
    boot.linkSel := some sel
    boot.requireSe := match r with | some x => x.policies.testBit 0 | none => s.boot.requireSe
    stolp.keys := (r.map Record.keys).getD []
    stolp.enable := match r with | some x => (if x.policies.testBit 1 then 3 else 0) | none => 0
    audio.clk0 := (r.map Record.clk0).getD 0
    link.x4x4 := sel && !s.boot.recovery }
  { s1 with boot.hostSrc := s1.boot.recovery || (sourceSel s1 == 1 && hostAllowed s1) }

/-! ### What a passing step does -/

/-- The channels that a step brings into service: their type and count (R434). -/
def stepUnits (n : Nat) : Option (Nat × Nat) :=
  match n with
  | 7 => some (3, 16) | 0x0B => some (1, 34) | 0x0C => some (2, 1) | 0x0E => some (4, 12) | 0x0F => some (5, 8) | 0x10 => some (6, 2)
  | _ => none

/-- The units of a step that fail in it: those listed that exist and were in service. -/
def failedUnits (n : Nat) (units : List Nat) (s : State) : List Nat :=
  match stepUnits n with
  | none => []
  | some (ty, k) => (List.range k).filter fun u => units.contains u && !chanRetired s ty u

/-- No unit of the step enters service (R434). -/
def noneLeft (n : Nat) (units : List Nat) (s : State) : Bool :=
  match stepUnits n with
  | none => false
  | some (ty, k) => (List.range k).all fun u => units.contains u || chanRetired s ty u

/-- A panel that served fails step 0x0B: a spare takes its place (R167, R199). -/
def replacePanel (n : Nat) (s : State) : State :=
  match spareFor s n with
  | none => s
  | some k =>
    let s1 := modPanel k (fun q => { q with state := .free, replaces := some n, place := some (placeOf s n) }) s
    logEvent 0x0B 1 n 4 0xFFFF (chanScore s1 1 n) 0 0 s1

/-- Retires the units that failed in a step (R404, R434). -/
def retireUnits (n : Nat) (us : List Nat) (s : State) : State :=
  match n with
  | 7 => us.foldl (fun t c => markRetired 3 c 3 { t with store.channels := tmod t.store.channels c fun d => { d with state := 2 } }) s
  | 0x0B =>
    let served := us.filter fun u => (panelOf s u).state != .spare
    let s1 := us.foldl (fun t u => retirePanel u t) s
    served.foldl (fun t u => replacePanel u t) s1
  | _ =>
    match stepUnits n with
    | some (ty, _) => us.foldl (fun t u => retireNow ty u t) s
    | none => s

/-- The self-test of a unit has run (R401). -/
def testedNow (k : Nat) (s : State) : State := modTest k (fun x => { x with last := s.time.now }) s

/-- The root port trains in mode X4X4 (R54, R69), no earlier than 100 ms after the supplies are stable, which they are before working time
starts at 0 (R54, R477); its speed and width are open values. -/
def rootUp (s : State) : State :=
  if !s.link.x4x4 || chanRetired s 7 1 then s
  else
    let (a, s1) := takeFree (elapseTo 100000000 s)
    let (b, s2) := takeFree s1
    glbEvent 8 { s2 with link.rpUp := true, link.rpSpeed := 1 + a % 5, link.rpWidth := 2 ^ (b % 3), link.perst1Low := false }

/-- Step 0x11 passes (R433, R435, R436, R471): the firmware is ready, recovery ends, the journal is mirrored, the state store has been
scrubbed (R432). -/
def becomeReady (s : State) : State :=
  let s1 := modStart (fun x => { x with result := 0, time := s.time.now }) s
  let s2 := physZero 0 storeBytes { s1 with
    glb.ready := true, boot.phase := .ready, boot.failed := 0, boot.recovery := false, boot.mirror := s1.boot.journal, power.quietFrom := s.time.now }
  safetyPins s2

/-- What step `n` has done once it has passed, before the next step begins. -/
def stepEffect (n : Nat) (s : State) : State :=
  match n with
  | 3 => noteSource (takeRecord s)
  | 5 =>
    let k := if s.boot.method = 0 then s.boot.prefer else 1 - s.boot.prefer
    let i := imageOf s k
    noteSource { s with boot.slot := k, boot.running := i, glb.fwver := BitVec.ofNat 32 i.fwver }
  | 0x0A => rootUp s
  | 0x0B => (List.range 34).foldl (fun t u => if chanRetired t 1 u then t else testedNow (chKey 1 u) t) s
  | 0x0C => testedNow (chKey 2 0) s
  | _ => s

/-- What follows once the next step has begun: the clocks and paths of Mooring and of the audio block run. -/
def stepAfter (n : Nat) (s : State) : State :=
  match n with
  | 0x0D => startLp s
  | 0x0F => if s.boot.missing.contains 0x0D then settleHq s else startHq s
  | _ => s

/-- A step passes: it is journaled, GLB_EVENT.BOOT is set, and the start proceeds or becomes ready (R433, R434). -/
def passStep (n : Nat) (units : List Nat) (detail : Nat) (s : State) : State :=
  let us := failedUnits n units s
  let m := if n = 7 ∧ s.boot.method ≠ 0 then (if detail = 4266 then 2 else 1) else s.boot.method
  let d := if n = 7 then detail % 65536 else if n = 4 ∧ !s.boot.paired then 0xFFFF else 0
  let s1 := stepEffect n (retireUnits n us (glbEvent 0 (journalStep n m 0 us.length 0 d s)))
  if n = 0x11 then becomeReady s1 else stepAfter n (nextStep (n + 1) s1)

/-- JOURNAL_RESTART (R434): a failed mandatory step mirrors the journal and performs a warm reset with cause 3. -/
def journalRestart (s : State) : State :=
  let s1 := modStart (fun x => { x with result := 1, time := s.time.now }) s
  warmState 3 { s1 with boot.failed := s1.boot.failed + 1, boot.mirror := s1.boot.journal }

/-- A step fails with a status code: an optional step leaves its units out of service, a mandatory one ends the start (R433, R434).
With BOOT_SRC 0b10 the host becomes the source once both NOR slots have failed (R431). -/
def failStep (n : Nat) (units : List Nat) (status : Nat) (s : State) : State :=
  if n = 5 ∧ s.boot.method ≠ 0 ∧ sourceSel s = 2 ∧ hostAllowed s then
    tryTrain (noteSource { s with boot.hostSrc := true, boot.slot := 2, boot.phase := .hostWait })
  else
    let us := failedUnits n units s
    let s1 := glbEvent 0 (journalStep n s.boot.method 1 us.length (status % 65536) 0 s)
    if mandatory s.boot.hostSrc n then journalRestart s1
    else nextStep (n + 1) (retireUnits n us (leaveOut n s1))

/-- The status code that a passing outcome fails with after all: no secure element where the record requires one (R443), an image below
the firmware floor (R439), no unit that enters service (R434). -/
def passCode (n : Nat) (o : StepOut) (s : State) : Option Nat :=
  if n = 4 ∧ s.boot.requireSe ∧ !s.boot.paired then some (codeVal .eState)
  else if n = 5 ∧ (imageOf s (if s.boot.method = 0 then s.boot.prefer else 1 - s.boot.prefer)).secver < s.boot.fwFloor then
    some (codeVal .eRollback)
  else if noneLeft n o.units s then some (if o.code = 0 then codeVal .eCheck else o.code)
  else none

/-- START_STEP_COMPLETE (R433–R436): the step under way passes or fails. -/
def execStartStepComplete (o : StepOut) (s : State) : Res :=
  match s.boot.phase with
  | .step n =>
    if o.pass then
      match passCode n o s with
      | none => .next (passStep n o.units o.detail s)
      | some c => .next (failStep n o.units c s)
    else .next (failStep n o.units o.code s)
  | _ => .next s

/-- The moment at which step `n` exceeds its limit. After a power-on reset, step 0x0D waits for the 32.768 kHz oscillator until at most 2 s
after T_R, where working time starts at 0 (R433, R478): how long is open, and the last moment means that the oscillator has not come. -/
def limitTime (n wait : Nat) (s : State) : Nat :=
  let t := s.boot.stepFrom
  let w := wait % (2000000000 - t + 1)
  if n = 0x0D ∧ s.boot.cause = 0 ∧ t < 2000000000 then (if t + w = 2000000000 then 2000000000 else t + w + 20000000)
  else t + stepLimit n * 1000000

/-- START_STEP_LIMIT: the step under way exceeds its limit and fails with E_TIMEOUT (R433). -/
def execStartStepLimit (s : State) : Res :=
  match s.boot.phase with
  | .step n =>
    let (w, s1) := takeFree s
    .next (failStep n [] (codeVal .eTimeout) (elapseTo (limitTime n w s) s1))
  | _ => .next s

/-! ### Host boot (R432) -/

/-- The image that the boot descriptor names: at state store byte 0x1_0000. -/
def hostImage (s : State) : List Byte := physRead s 0x10000 (num (physRead s 0 64) 4 4)

/-- Boot ROM's answer to a descriptor. -/
def hostImageCode (s : State) : Option Code :=
  let d := physRead s 0 64
  if storeBytes - 0x10000 < num d 4 4 ∨ num d 10 54 ≠ 0 then some .eRange else imageCode s.boot.fwFloor (hostImage s)

/-- HOST_BOOT_DESCRIPTOR_POLL: boot ROM finds the descriptor's magic, checks the image and answers in the status field; an accepted
image runs (R432, R439). -/
def execHostBootDescriptorPoll (s : State) : Res :=
  if s.boot.phase ≠ .hostWait ∨ num (physRead s 0 64) 0 4 ≠ 0x33425459 then .next s
  else
    match hostImageCode s with
    | some c => .next (physWrite 8 (toLE 2 (codeVal c)) s)
    | none =>
      let i := imageFrom (hostImage s)
      let s1 := physWrite 8 (toLE 2 0) s
      let s2 := noteSource { s1 with boot.slot := 2, boot.running := i, glb.fwver := BitVec.ofNat 32 i.fwver }
      .next (nextStep 6 (glbEvent 0 (journalStep 5 s.boot.method 0 0 0 0 s2)))

/-! ### The journal commands (R436, R450) -/

/-- The 16 bytes of an entry. -/
def entryBytes (e : JEntry) : List Byte :=
  toLE 1 e.step ++ toLE 1 e.method ++ toLE 1 e.result ++ toLE 1 e.units ++ toLE 2 e.status ++ toLE 2 e.detail ++ toLE 8 e.time

/-- The 544 bytes of a start: its header and 32 entries. -/
def startBytes (x : Start) : List Byte :=
  fit 544 (toLE 4 x.number ++ toLE 1 x.cause ++ toLE 1 x.source ++ toLE 1 x.slot ++ toLE 1 x.failed ++ toLE 1 x.entries.length
    ++ toLE 1 x.result ++ toLE 6 0 ++ toLE 8 x.time ++ toLE 8 0 ++ (x.entries.map entryBytes).flatten)

/-- Checks of BOOT_JOURNAL. -/
def chkBootJournal (p : Pkt) (s : State) : Option Fail :=
  firstFails [[(s.boot.journal.length ≤ fld p 16 1, .eRange, 16)], destChk p s 544 24, permChk s p.ctx (fld p 24 8) 544 true 24]

/-- Effect of BOOT_JOURNAL. -/
def actBootJournal (p : Pkt) (s : State) : State :=
  let x := (s.boot.journal.reverse.drop (fld p 16 1)).head?.getD {}
  completeOk p x.entries.length x.number 0 (vwrite p.ctx (fld p 24 8) (startBytes x) s)

/-- BOOT_JOURNAL (R450). -/
def execBootJournal (p : Pkt) (s : State) : Res := runHost p s false (chkBootJournal p s) (actBootJournal p)

/-- The steps of a mask of BOOT_RETRY. -/
def retrySteps (m : Nat) : List Nat := (bitsOf 17 m).map (· + 1)

/-- The named steps that the next start would run with an alternate, or skip. -/
def retryCount (m : Nat) (s : State) : Nat :=
  ((retrySteps m).filter fun n => stepPlan s.boot.journal.reverse s.boot.retry s.boot.hostSrc n != some 0).length

/-- Checks of BOOT_RETRY. -/
def chkBootRetry (p : Pkt) : Option Fail := firstFail [(2 ^ 17 ≤ fld p 16 4, .eRange, 16)]

/-- Effect of BOOT_RETRY: the named steps run with their primary methods at the next start (R435, R450). -/
def actBootRetry (p : Pkt) (s : State) : State :=
  let l := retrySteps (fld p 16 4)
  completeOk p (retryCount (fld p 16 4) s) 0 0 { s with boot.retry := s.boot.retry.filter (fun n => !l.contains n) ++ l }

/-- BOOT_RETRY (R435). -/
def execBootRetry (p : Pkt) (s : State) : Res := runCmd p s (chkBootRetry p) (actBootRetry p)

end Sys2Proof.Machine
end

