-- ==== Sys2Proof/Machine/Security.lean ====
section
/-! DEFINITION. Identity, the configuration record and the live update: the commands 0x0C02 to 0x0C0B (17, R440–R451). -/

namespace Sys2Proof.Machine

/-! ### Certificate and attestation (R445, R446) -/

/-- Checks of SEC_CERT. -/
def chkSecCert (p : Pkt) (s : State) : Option Fail := firstFails [destChk p s 16384 16, permChk s p.ctx (fld p 16 8) 16384 true 16]

/-- Effect of SEC_CERT. -/
def actSecCert (p : Pkt) (s : State) : State :=
  let c := Config.certChain.take 16384
  completeOk p c.length 0 0 (vwrite p.ctx (fld p 16 8) c s)

/-- SEC_CERT (R445). -/
def execSecCert (p : Pkt) (s : State) : Res := runHost p s false (chkSecCert p s) (actSecCert p)

/-- The flags of an attestation report (R446). -/
def attestFlags (s : State) (h : Nat) : Nat :=
  b2n (s.boot.owner != 0) + 2 * b2n s.boot.paired + 4 * b2n (policy s 2)
    + 8 * b2n (h != 0 && ((ctxOf s h).state == .sealed || (ctxOf s h).wasSealed)) + 16 * b2n (s.boot.updStage != 0)

/-- The 384-byte body of a report on context `h` with the caller's nonce (R446). -/
def attestBody (s : State) (h : Nat) (nonce : List Byte) : List Byte :=
  let c := ctxOf s h
  fit 384 (toLE 4 0x33415454 ++ toLE 2 0x0100 ++ toLE 2 h ++ toLE 8 deviceId ++ fit 32 nonce ++ toLE 8 s.time.now
    ++ toLE 4 s.boot.running.fwver ++ toLE 4 s.boot.running.secver ++ toLE 4 s.boot.fwFloor
    ++ toLE 4 ((s.boot.record.map Record.version).getD 0) ++ toLE 4 s.boot.cfgFloor ++ toLE 1 s.boot.slot
    ++ toLE 1 (attestFlags s h) ++ toLE 2 0 ++ toLE 64 s.boot.running.digest.toNat
    ++ toLE 64 ((s.boot.record.map fun r => r.digest.toNat).getD 0)
    ++ toLE 64 (if h = 0 then 0 else c.measure.toNat) ++ toLE 4 (if h = 0 then 0 else c.extensions) ++ toLE 1 (ctxStateCode c.state))

/-- Checks of SEC_ATTEST: a tenant may name its own handle or ask for a device report. -/
def chkSecAttest (p : Pkt) (s : State) : Option Fail :=
  let h := fld p 16 2
  firstFails [[(512 < h, .eRange, 16), (h != 0 && (ctxOf s h).state == .closed, .eHandle, 16)], destChk p s 516 24,
    [(p.ctx != 0 && h != 0 && h != p.ctx, .eDenied, 16)], permChk s p.ctx (fld p 24 8) 516 true 24]

/-- Effect of SEC_ATTEST: the report with its signature. -/
def actSecAttest (p : Pkt) (s : State) : State :=
  let b := attestBody s (fld p 16 2) (slice p.bytes 32 32)
  let sig := toLE 132 (Config.ecdsaSign s.freeCtr b).toNat
  completeOk p 516 0 0 (vwrite p.ctx (fld p 24 8) (b ++ sig) { s with freeCtr := s.freeCtr + 1 })

/-- SEC_ATTEST (R446). -/
def execSecAttest (p : Pkt) (s : State) : Res := runHost p s false (chkSecAttest p s) (actSecAttest p)

/-! ### The secure element (R442, R443) -/

/-- Runs the effect of a command once `n` transactions with the secure element have answered; a transaction that fails ends the packet
with E_TRANSIENT (R442, R451). -/
def withSe (n : Nat) (p : Pkt) (act : State → State) (s : State) : State :=
  let good := (List.range n).all fun i => Config.seAnswers (s.freeCtr + i)
  let s1 := { s with freeCtr := s.freeCtr + n }
  if good then act s1 else reject p { code := .eTransient } 0 s1

/-- Checks of SEC_PAIR. -/
def chkSecPair (s : State) : Option Fail := firstFail [(s.boot.paired, .eState, 0xFFFF)]

/-- Effect of SEC_PAIR: transaction 0x10. -/
def actSecPair (p : Pkt) (s : State) : State := withSe 1 p (fun t => completeOk p 1 0 0 { t with boot.paired := true }) s

/-- SEC_PAIR (R442). -/
def execSecPair (p : Pkt) (s : State) : Res := runCmd p s (chkSecPair s) (actSecPair p)

/-- The owner transfer that SEC_OWNER names. -/
def ownerTransfer (p : Pkt) (s : State) : List Byte := vread s 0 (fld p 16 8) 268

/-- The signature of an owner transfer verifies; none is needed without an owner (R450). -/
def transferSigned (s : State) (b : List Byte) : Bool :=
  s.boot.owner == 0 || Config.ownerVerify s.boot.owner (slice b 0 133 ++ toLE 8 deviceId) (slice b 136 132)

/-- Checks of SEC_OWNER. -/
def chkSecOwner (p : Pkt) (s : State) : Option Fail :=
  let b := ownerTransfer p s
  orFail (firstFails [addrChk s 0 (fld p 16 8) 268 16 16, [(num b 133 3 != 0, .eReserved, 16)], permChk s 0 (fld p 16 8) 268 false 16,
    [(!transferSigned s b, .eSignature, 16), (!s.boot.paired, .eState, 0xFFFF)]]) (wordFail s 0 (fld p 16 8) 268 16)

/-- Effect of SEC_OWNER: transaction 0x04 writes the new key ID. -/
def actSecOwner (p : Pkt) (s : State) : State :=
  let k := keyIdOf (slice (ownerTransfer p s) 0 133)
  withSe 1 p (fun t => completeOk p (k % 2 ^ 32) (k / 2 ^ 32) 0 (readWords 0 (fld p 16 8) 268 { t with boot.owner := k })) s

/-- SEC_OWNER (R450). -/
def execSecOwner (p : Pkt) (s : State) : Res := runHost p s (rangeHost s 0 (fld p 16 8) 268) (chkSecOwner p s) (actSecOwner p)

/-- Checks of SEC_FLOOR. -/
def chkSecFloor (s : State) : Option Fail := firstFail [(!s.boot.paired, .eState, 0xFFFF)]

/-- The floors after SEC_FLOOR with a mask: each selected one rises to the running version, and never falls (R443, R450). -/
def raisedFloors (m : Nat) (s : State) : Nat × Nat :=
  (if m.testBit 0 then max s.boot.fwFloor s.boot.running.secver else s.boot.fwFloor,
   if m.testBit 1 then max s.boot.cfgFloor ((s.boot.record.map Record.version).getD 0) else s.boot.cfgFloor)

/-- Effect of SEC_FLOOR: one transaction 0x02 for each selected floor. -/
def actSecFloor (p : Pkt) (s : State) : State :=
  let (f, c) := raisedFloors (fld p 16 1) s
  withSe (bitsOf 2 (fld p 16 1)).length p (fun t => completeOk p f c 0 { t with boot.fwFloor := f, boot.cfgFloor := c }) s

/-- SEC_FLOOR (R443). -/
def execSecFloor (p : Pkt) (s : State) : Res := runCmd p s (chkSecFloor s) (actSecFloor p)

/-! ### The configuration record (R440, R441) -/

/-- Client key records of a record. -/
def recordKeys (b : List Byte) : List (List Byte) := (List.range (num b 64 1)).map fun i => slice b (256 + 256 * i) 256

/-- Byte at which the signature block of a record begins. -/
def recordSig (b : List Byte) : Nat := 256 + 256 * num b 64 1

/-- The cold namespaces of a record: its used entries. -/
def recordCold (b : List Byte) : List (Nat × Nat) :=
  ((List.range 4).map fun i => (num b (32 + 8 * i) 1, num b (36 + 8 * i) 4)).filter fun e => e.2 != 0

/-- The record that bytes spell (R440). -/
def recordFrom (b : List Byte) : Record :=
  { version := num b 8 4, policies := num b 12 4, linkMode := num b 16 1, clk0 := num b 17 1, seAddr := num b 18 1, bootSrc := num b 19 1
    binding := num b 24 8, cold := recordCold b, keys := (recordKeys b).map fun k => keyFrom k true
    signer := keyIdOf (slice b (recordSig b + 8) 133), digest := Config.sha512 b }

/-- A reserved field of a record that is not 0 (R8, R184, R440). -/
def recordRsv (b : List Byte) : Bool :=
  num b 6 2 != 0 || 16 ≤ num b 12 4 || num b 20 4 != 0 || (List.range 4).any (fun i => num b (33 + 8 * i) 3 != 0)
    || num b 65 191 != 0 || num b (recordSig b + 141) 3 != 0

/-- A field of a record out of its range (R440). -/
def recordRange (b : List Byte) : Bool :=
  let keyIds := (recordKeys b).map fun k => keyIdOf (slice k 0 133)
  1 < num b 16 1 || 2 < num b 17 1 || num b 18 1 < 8 || 0x77 < num b 18 1 || (2 < num b 19 1 && num b 19 1 != 0xFF)
    || (List.range 4).any (fun i => decide (3 < num b (32 + 8 * i) 1))
    || 16 < num b 64 1 || b.length != recordSig b + 276 || (distinct keyIds).length != keyIds.length

/-- The signature block of a record verifies under its own key (R184). -/
def recordSigned (b : List Byte) : Bool :=
  let o := recordSig b
  num b o 8 == keyIdOf (slice b (o + 8) 133) && Config.ecdsaVerify (slice b (o + 8) 133) (slice b 0 o) (slice b (o + 144) 132)

/-- The bytes that SEC_CONFIG names. -/
def recordBytes (p : Pkt) (s : State) : List Byte := vread s 0 (fld p 16 8) (fld p 24 4)

/-- Checks of a record in the order of R441, with the codes of R451. The key of the signer is compared with the owner's only where a
secure element holds one (log 35). -/
def configChk (s : State) (b : List Byte) (off : Nat) : List (Bool × Code × Nat) :=
  [(num b 0 4 != 0x33434647 || num b 4 2 != 0x0100, .eVersion, off), (recordRsv b, .eReserved, off), (recordRange b, .eRange, off)]
    ++ ((recordKeys b).map fun k => keyChk k off).flatten
    ++ [(num b 24 8 != 0 && num b 24 8 != deviceId, .eCombination, off), (s.boot.paired && s.boot.owner == 0, .eCombination, off),
        (s.boot.paired && keyIdOf (slice b (recordSig b + 8) 133) != s.boot.owner, .eSignature, off), (!recordSigned b, .eSignature, off),
        (num b 8 4 < s.boot.cfgFloor, .eRollback, off)]

/-- Checks of SEC_CONFIG. -/
def chkSecConfig (p : Pkt) (s : State) : Option Fail :=
  let a := fld p 16 8
  let n := fld p 24 4
  let b := recordBytes p s
  orFail (firstFails [addrChk s 0 a n 16 16, [(n < 532 || 4628 < n, .eRange, 24)], configChk s b 16, permChk s 0 a n false 16,
    [(!s.boot.paired, .eState, 0xFFFF)]]) (wordFail s 0 a n 16)

/-- The copy of lower record version; a copy that is missing is lowest (R450). -/
def lowerCopy (s : State) : Nat :=
  match tget s.boot.copies 0, tget s.boot.copies 1 with
  | none, _ => 0
  | some _, none => 1
  | some x, some y => if x.version ≤ y.version then 0 else 1

/-- Effect of SEC_CONFIG: the record takes the place of the copy of lower version; it takes effect at the next start. -/
def actSecConfig (p : Pkt) (s : State) : State :=
  let k := lowerCopy s
  let r := recordFrom (recordBytes p s)
  withSe 2 p (fun t =>
    let t1 := { t with freeCtr := t.freeCtr + 1 }
    if Config.norVerifies t.freeCtr then completeOk p k 0 0 (readWords 0 (fld p 16 8) (fld p 24 4) { t1 with boot.copies := tput t1.boot.copies k r })
    else reject p { code := .eLowerTier } 0 t1) s

/-- SEC_CONFIG (R441). -/
def execSecConfig (p : Pkt) (s : State) : Res :=
  runHost p s (rangeHost s 0 (fld p 16 8) (fld p 24 4)) (chkSecConfig p s) (actSecConfig p)

/-! ### The live update (R448, R449) -/

/-- The device was host-booted in recovery (R451). -/
def hostRecovery (s : State) : Bool := s.boot.slot == 2 && (startNow s).source.testBit 4

/-- The slot that is not running (R448); under a host image, the slot that is not preferred. -/
def idleSlot (s : State) : Nat := if s.boot.slot < 2 then 1 - s.boot.slot else 1 - s.boot.prefer

/-- The image that UPD_STAGE names. -/
def stageBytes (p : Pkt) (s : State) : List Byte := vread s 0 (fld p 16 8) (fld p 24 4)

/-- Checks of UPD_STAGE. -/
def chkUpdStage (p : Pkt) (s : State) : Option Fail :=
  let a := fld p 16 8
  let n := fld p 24 4
  let img := match imageCode s.boot.fwFloor (stageBytes p s) with | some c => [(true, c, 16)] | none => []
  orFail (firstFails [addrChk s 0 a n 16 16, [(n < 4484 || 16777092 < n, .eRange, 24)], img, permChk s 0 a n false 16,
    [(s.boot.updStage != 0 || hostRecovery s, .eState, 0xFFFF)]]) (wordFail s 0 a n 16)

/-- Effect of UPD_STAGE: stage 1 begins; the image is written to the slot that is not running. -/
def actUpdStage (p : Pkt) (s : State) : State :=
  let s := readWords 0 (fld p 16 8) (fld p 24 4) s
  handOn p { s with
    boot.updStage := 1, boot.updBusy := true, boot.updSlot := idleSlot s, boot.updImage := imageFrom (stageBytes p s), boot.updPkt := some p }

/-- UPD_STAGE (R439, R448). -/
def execUpdStage (p : Pkt) (s : State) : Res := runHost p s (rangeHost s 0 (fld p 16 8) (fld p 24 4)) (chkUpdStage p s) (actUpdStage p)

/-- Checks of UPD_ACTIVATE: an image is staged, and not activated yet. -/
def chkUpdActivate (s : State) : Option Fail :=
  firstFail [(s.boot.updStage != 1 || s.boot.updBusy || hostRecovery s, .eState, 0xFFFF)]

/-- Effect of UPD_ACTIVATE: stage 2 begins. -/
def actUpdActivate (p : Pkt) (s : State) : State :=
  handOn p { s with boot.updStage := 2, boot.updBusy := true, boot.updPkt := some p }

/-- UPD_ACTIVATE (R448). -/
def execUpdActivate (p : Pkt) (s : State) : Res := runCmd p s (chkUpdActivate s) (actUpdActivate p)

/-- Checks of UPD_CANCEL. -/
def chkUpdCancel (s : State) : Option Fail := firstFail [(s.boot.updStage = 0 || hostRecovery s, .eState, 0xFFFF)]

/-- Effect of UPD_CANCEL: the handovers made are reversed, the command that waits ends with E_CHECK (R449). -/
def actUpdCancel (p : Pkt) (s : State) : State := completeOk p s.boot.updStage 0 0 (cancelUpdate .eCheck s)

/-- UPD_CANCEL (R449). -/
def execUpdCancel (p : Pkt) (s : State) : Res := runCmd p s (chkUpdCancel s) (actUpdCancel p)

/-- Checks of UPD_QUERY. -/
def chkUpdQuery (s : State) : Option Fail := firstFail [(hostRecovery s, .eState, 0xFFFF)]

/-- Effect of UPD_QUERY. -/
def actUpdQuery (p : Pkt) (s : State) : State := completeOk p s.boot.updStage s.boot.updImage.fwver s.boot.updImage.secver s

/-- UPD_QUERY (R450). -/
def execUpdQuery (p : Pkt) (s : State) : Res := runCmd p s (chkUpdQuery s) (actUpdQuery p)

/-- Stage 1 ends: the image stands in its slot, or the NOR write failed to verify and nothing is staged (R448, R451). -/
def stageDone (passed : Bool) (s : State) : State :=
  let s1 := { s with boot.updBusy := false, boot.updPkt := none }
  if passed then
    let s2 := glbEvent 6 { s1 with boot.images := tput s1.boot.images s1.boot.updSlot s1.boot.updImage }
    match s.boot.updPkt with
    | some p => completeOk p s.boot.updSlot 0 0 s2
    | none => s2
  else
    let s2 := { s1 with boot.updStage := 0, boot.updImage := {} }
    match s.boot.updPkt with
    | some p => complete p .eLowerTier 0 0 0 0 s2
    | none => s2

/-- Stage 5 ends: the slot selector prefers the new slot, and the update is over; start steps return to their primary methods at the
next start (R435, R448). -/
def commitUpdate (s : State) : State :=
  let s1 := glbEvent 6 { s with
    boot.updStage := 0, boot.updBusy := false, boot.updPkt := none, boot.updImage := {}
    boot.prefer := s.boot.updSlot, boot.slot := s.boot.updSlot, boot.running := s.boot.updImage
    boot.retry := (List.range 17).map (· + 1) }
  match s.boot.updPkt with
  | some p => completeOk p s.boot.updImage.fwver 0 0 s1
  | none => s1

/-- A stage from 2 on passes: standby, command handover, safety handover, commit (R448). -/
def stagePasses (s : State) : State :=
  let next := fun (t : State) => glbEvent 6 { t with boot.updStage := t.boot.updStage + 1 }
  match s.boot.updStage with
  | 2 => next s
  | 3 => next (swapPairs 0 2 { s with glb.fwver := BitVec.ofNat 32 s.boot.updImage.fwver })
  | 4 => next (swapPairs 1 2 s)
  | _ => commitUpdate s

/-- UPDATE_STAGE_COMPLETE (R448, R449): from stage 2 on a pair that fails its tests cancels the update and is taken out of use. -/
def execUpdateStageComplete (passed : Bool) (s : State) : Res :=
  if s.boot.updStage = 0 ∨ !s.boot.updBusy then .next s
  else if s.boot.updStage = 1 then .next (stageDone passed s)
  else if passed ∧ s.safe.standby then .next (stagePasses s)
  else
    let s1 := { s with safe.standby := false, safe.pairsOut := s.safe.pairsOut + b2n s.safe.standby }
    .next (cancelUpdate .eCheck s1)

end Sys2Proof.Machine
end

