-- ==== Sys2Proof/Machine/Dispatch.lean ====
section
/-! DEFINITION. One arm per command: the direct call of its meaning. -/

namespace Sys2Proof.Machine

def exec (i : Instr) (s : State) : Host.Outcome State Fault Refusal :=
  match i with
  | .devNop p => Sys2Proof.Machine.execDevNop p s
  | .devInfo p => Sys2Proof.Machine.execDevInfo p s
  | .devStats p => Sys2Proof.Machine.execDevStats p s
  | .devRejectLog p => Sys2Proof.Machine.execDevRejectLog p s
  | .devReset p => Sys2Proof.Machine.execDevReset p s
  | .devResetGraceEnd p => Sys2Proof.Machine.execDevResetGraceEnd p s
  | .devKeyEnroll p => Sys2Proof.Machine.execDevKeyEnroll p s
  | .devKeyRevoke p => Sys2Proof.Machine.execDevKeyRevoke p s
  | .devKeyList p => Sys2Proof.Machine.execDevKeyList p s
  | .devNetConfig p => Sys2Proof.Machine.execDevNetConfig p s
  | .devSessions p => Sys2Proof.Machine.execDevSessions p s
  | .devSessionClose p => Sys2Proof.Machine.execDevSessionClose p s
  | .cascQuery p => Sys2Proof.Machine.execCascQuery p s
  | .cascSetSource p => Sys2Proof.Machine.execCascSetSource p s
  | .cascBind p => Sys2Proof.Machine.execCascBind p s
  | .cascSetHold p => Sys2Proof.Machine.execCascSetHold p s
  | .cascLift p => Sys2Proof.Machine.execCascLift p s
  | .cascBallast p => Sys2Proof.Machine.execCascBallast p s
  | .cascReadLog p => Sys2Proof.Machine.execCascReadLog p s
  | .cascReadReel p => Sys2Proof.Machine.execCascReadReel p s
  | .cascCounters p => Sys2Proof.Machine.execCascCounters p s
  | .cascSetTimer p => Sys2Proof.Machine.execCascSetTimer p s
  | .energyGateDecision level => Sys2Proof.Machine.execEnergyGateDecision level s
  | .detectorDecision reason score input trigger frame => Sys2Proof.Machine.execDetectorDecision reason score input trigger frame s
  | .sampleHoldEnd => Sys2Proof.Machine.execSampleHoldEnd s
  | .updraftWindowEnd tier => Sys2Proof.Machine.execUpdraftWindowEnd tier s
  | .warmUpComplete tier => Sys2Proof.Machine.execWarmUpComplete tier s
  | .armingComplete tier => Sys2Proof.Machine.execArmingComplete tier s
  | .idleHoldEnd tier => Sys2Proof.Machine.execIdleHoldEnd tier s
  | .tierPowerDownComplete tier => Sys2Proof.Machine.execTierPowerDownComplete tier s
  | .reelSourceHandover => Sys2Proof.Machine.execReelSourceHandover s
  | .reelReaderSupply tier => Sys2Proof.Machine.execReelReaderSupply tier s
  | .rtcAlarm => Sys2Proof.Machine.execRtcAlarm s
  | .aonGpioEdge pin level => Sys2Proof.Machine.execAonGpioEdge pin level s
  | .presenceFrame payload => Sys2Proof.Machine.execPresenceFrame payload s
  | .bar0UnsupportedAccess write => Sys2Proof.Machine.execBar0UnsupportedAccess write s
  | .registerWrite off width value => Sys2Proof.Machine.execRegisterWrite off width value s
  | .glbTimeLoRead wide => Sys2Proof.Machine.execGlbTimeLoRead wide s
  | .glbEventClear value hwSets => Sys2Proof.Machine.execGlbEventClear value hwSets s
  | .glbErrClear value hwSets => Sys2Proof.Machine.execGlbErrClear value hwSets s
  | .resume => Sys2Proof.Machine.execResume s
  | .abandon => Sys2Proof.Machine.execAbandon s
  | .mgmtRingEnable value => Sys2Proof.Machine.execMgmtRingEnable value s
  | .mgmtRingDisable value => Sys2Proof.Machine.execMgmtRingDisable value s
  | .dbSqWrite page queue value => Sys2Proof.Machine.execDbSqWrite page queue value s
  | .dbSrWrite page value => Sys2Proof.Machine.execDbSrWrite page value s
  | .bar2Read off size => Sys2Proof.Machine.execBar2Read off size s
  | .bar2Write off data => Sys2Proof.Machine.execBar2Write off data s
  | .msixEntryUnmask vector => Sys2Proof.Machine.execMsixEntryUnmask vector s
  | .linkReset kind => Sys2Proof.Machine.execLinkReset kind s
  | .d3hotEntry => Sys2Proof.Machine.execD3hotEntry s
  | .d0Resume busMaster => Sys2Proof.Machine.execD0Resume busMaster s
  | .atsInvalidation ctx page => Sys2Proof.Machine.execAtsInvalidation ctx page s
  | .hostReadFailure ctx kind what => Sys2Proof.Machine.execHostReadFailure ctx kind what s
  | .rootPortLinkDown => Sys2Proof.Machine.execRootPortLinkDown s
  | .rootPortRetrain up speed width => Sys2Proof.Machine.execRootPortRetrain up speed width s
  | .packetFetch p chain => Sys2Proof.Machine.execPacketFetch p chain s
  | .packetDispatch ctx tag => Sys2Proof.Machine.execPacketDispatch ctx tag s
  | .dependencyTimeout ctx tag => Sys2Proof.Machine.execDependencyTimeout ctx tag s
  | .stolpHello d => Sys2Proof.Machine.execStolpHello d s
  | .stolpFinish d => Sys2Proof.Machine.execStolpFinish d s
  | .stolpData d => Sys2Proof.Machine.execStolpData d s
  | .stolpClose d => Sys2Proof.Machine.execStolpClose d s
  | .handshakeTimeout session => Sys2Proof.Machine.execHandshakeTimeout session s
  | .sessionIdleTimeout session => Sys2Proof.Machine.execSessionIdleTimeout session s
  | .creditTimer session => Sys2Proof.Machine.execCreditTimer session s
  | .replyBatchTimeout session => Sys2Proof.Machine.execReplyBatchTimeout session s
  | .ctxOpen p => Sys2Proof.Machine.execCtxOpen p s
  | .ctxClose p => Sys2Proof.Machine.execCtxClose p s
  | .ctxCloseGraceEnd ctx => Sys2Proof.Machine.execCtxCloseGraceEnd ctx s
  | .ctxQuery p => Sys2Proof.Machine.execCtxQuery p s
  | .ctxSetQuota p => Sys2Proof.Machine.execCtxSetQuota p s
  | .ctxSeal p => Sys2Proof.Machine.execCtxSeal p s
  | .ctxQueueCreate p => Sys2Proof.Machine.execCtxQueueCreate p s
  | .ctxQueueDestroy p => Sys2Proof.Machine.execCtxQueueDestroy p s
  | .gangCreate p => Sys2Proof.Machine.execGangCreate p s
  | .gangDestroy p => Sys2Proof.Machine.execGangDestroy p s
  | .gangQuery p => Sys2Proof.Machine.execGangQuery p s
  | .ctxLeases p => Sys2Proof.Machine.execCtxLeases p s
  | .ctxXlate p => Sys2Proof.Machine.execCtxXlate p s
  | .leaseLimitExpiry lease => Sys2Proof.Machine.execLeaseLimitExpiry lease s
  | .ripcordScrubComplete ctx => Sys2Proof.Machine.execRipcordScrubComplete ctx s
  | .legAccessFault ctx gang channel command => Sys2Proof.Machine.execLegAccessFault ctx gang channel s command
  | .legEnd e => Sys2Proof.Machine.execLegEnd e s
  | .prefetchComplete gang stall => Sys2Proof.Machine.execPrefetchComplete gang stall s
  | .stallLimitExpiry gang => Sys2Proof.Machine.execStallLimitExpiry gang s
  | .legLateLimit gang => Sys2Proof.Machine.execLegLateLimit gang s
  | .pageReclaim page => Sys2Proof.Machine.execPageReclaim page s
  | .stripeGroupStart gang stripe tiles => Sys2Proof.Machine.execStripeGroupStart gang stripe s tiles
  | .pipelineStageStep gang stage => Sys2Proof.Machine.execPipelineStageStep gang stage s
  | .qstatArm p => Sys2Proof.Machine.execQstatArm p s
  | .qstatDisarm p => Sys2Proof.Machine.execQstatDisarm p s
  | .qstatRead p => Sys2Proof.Machine.execQstatRead p s
  | .qstatQuery p => Sys2Proof.Machine.execQstatQuery p s
  | .qconvert p => Sys2Proof.Machine.execQconvert p s
  | .dmaTransferComplete channel outcome => Sys2Proof.Machine.execDmaTransferComplete channel outcome s
  | .planLoad p => Sys2Proof.Machine.execPlanLoad p s
  | .planUnload p => Sys2Proof.Machine.execPlanUnload p s
  | .planQuery p => Sys2Proof.Machine.execPlanQuery p s
  | .planRun p => Sys2Proof.Machine.execPlanRun p s
  | .planStop p => Sys2Proof.Machine.execPlanStop p s
  | .planFeed p => Sys2Proof.Machine.execPlanFeed p s
  | .planBindEvent p => Sys2Proof.Machine.execPlanBindEvent p s
  | .planUnbind p => Sys2Proof.Machine.execPlanUnbind p s
  | .gangStats p => Sys2Proof.Machine.execGangStats p s
  | .panelQuery p => Sys2Proof.Machine.execPanelQuery p s
  | .planReload p => Sys2Proof.Machine.execPlanReload p s
  | .moorLoad p => Sys2Proof.Machine.execMoorLoad p s
  | .moorQuery p => Sys2Proof.Machine.execMoorQuery p s
  | .kvPoolCreate p => Sys2Proof.Machine.execKvPoolCreate p s
  | .kvPoolDestroy p => Sys2Proof.Machine.execKvPoolDestroy p s
  | .kvSeqCreate p => Sys2Proof.Machine.execKvSeqCreate p s
  | .kvFork p => Sys2Proof.Machine.execKvFork p s
  | .kvTruncate p => Sys2Proof.Machine.execKvTruncate p s
  | .kvFree p => Sys2Proof.Machine.execKvFree p s
  | .kvSeqQuery p => Sys2Proof.Machine.execKvSeqQuery p s
  | .kvPageQuery p => Sys2Proof.Machine.execKvPageQuery p s
  | .kvRead p => Sys2Proof.Machine.execKvRead p s
  | .kvWait p => Sys2Proof.Machine.execKvWait p s
  | .kvPoolQuery p => Sys2Proof.Machine.execKvPoolQuery p s
  | .kvExport p => Sys2Proof.Machine.execKvExport p s
  | .kvImport p => Sys2Proof.Machine.execKvImport p s
  | .strmSetCreate p => Sys2Proof.Machine.execStrmSetCreate p s
  | .strmSetDestroy p => Sys2Proof.Machine.execStrmSetDestroy p s
  | .strmStart p => Sys2Proof.Machine.execStrmStart p s
  | .strmPause p => Sys2Proof.Machine.execStrmPause p s
  | .strmResume p => Sys2Proof.Machine.execStrmResume p s
  | .strmEnd p => Sys2Proof.Machine.execStrmEnd p s
  | .strmQuery p => Sys2Proof.Machine.execStrmQuery p s
  | .strmSentinel p => Sys2Proof.Machine.execStrmSentinel p s
  | .strmRead p => Sys2Proof.Machine.execStrmRead p s
  | .strmExport p => Sys2Proof.Machine.execStrmExport p s
  | .strmImport p => Sys2Proof.Machine.execStrmImport p s
  | .strmPeer p => Sys2Proof.Machine.execStrmPeer p s
  | .memAlloc p => Sys2Proof.Machine.execMemAlloc p s
  | .memFree p => Sys2Proof.Machine.execMemFree p s
  | .memMapHost p => Sys2Proof.Machine.execMemMapHost p s
  | .memProtect p => Sys2Proof.Machine.execMemProtect p s
  | .memCopy p => Sys2Proof.Machine.execMemCopy p s
  | .memPlace p => Sys2Proof.Machine.execMemPlace p s
  | .memPin p => Sys2Proof.Machine.execMemPin p s
  | .memQuery p => Sys2Proof.Machine.execMemQuery p s
  | .memChannels p => Sys2Proof.Machine.execMemChannels p s
  | .memChannelRetire p => Sys2Proof.Machine.execMemChannelRetire p s
  | .memColdIo p => Sys2Proof.Machine.execMemColdIo p s
  | .memMovePageComplete owner readable => Sys2Proof.Machine.execMemMovePageComplete owner readable s
  | .firmwarePlacement => Sys2Proof.Machine.execFirmwarePlacement s
  | .coldTierCompletion object ok => Sys2Proof.Machine.execColdTierCompletion object ok s
  | .coldTierDeadline object => Sys2Proof.Machine.execColdTierDeadline object s
  | .channelRetirementComplete => Sys2Proof.Machine.execChannelRetirementComplete s
  | .patrolScrub word => Sys2Proof.Machine.execPatrolScrub word s
  | .camQuery p => Sys2Proof.Machine.execCamQuery p s
  | .camAssign p => Sys2Proof.Machine.execCamAssign p s
  | .camPort p => Sys2Proof.Machine.execCamPort p s
  | .camParams p => Sys2Proof.Machine.execCamParams p s
  | .camOutput p => Sys2Proof.Machine.execCamOutput p s
  | .camStart p => Sys2Proof.Machine.execCamStart p s
  | .camStop p => Sys2Proof.Machine.execCamStop p s
  | .camPower p => Sys2Proof.Machine.execCamPower p s
  | .camSync p => Sys2Proof.Machine.execCamSync p s
  | .camWindow p => Sys2Proof.Machine.execCamWindow p s
  | .camAttach p => Sys2Proof.Machine.execCamAttach p s
  | .camWait p => Sys2Proof.Machine.execCamWait p s
  | .camPresence p => Sys2Proof.Machine.execCamPresence p s
  | .csiFrameStart port vc ecc => Sys2Proof.Machine.execCsiFrameStart port vc ecc s
  | .csiLine l => Sys2Proof.Machine.execCsiLine l s
  | .csiFrameEnd port vc ecc => Sys2Proof.Machine.execCsiFrameEnd port vc ecc s
  | .slotComplete port => Sys2Proof.Machine.execSlotComplete port s
  | .frameIntervalTimeout port => Sys2Proof.Machine.execFrameIntervalTimeout port s
  | .mutedFrameTimer port => Sys2Proof.Machine.execMutedFrameTimer port s
  | .privCamAssert => Sys2Proof.Machine.execPrivCamAssert s
  | .privCamRelease => Sys2Proof.Machine.execPrivCamRelease s
  | .audQuery p => Sys2Proof.Machine.execAudQuery p s
  | .audAssign p => Sys2Proof.Machine.execAudAssign p s
  | .audClock p => Sys2Proof.Machine.execAudClock p s
  | .audLp p => Sys2Proof.Machine.execAudLp p s
  | .audBeam p => Sys2Proof.Machine.execAudBeam p s
  | .audCapture p => Sys2Proof.Machine.execAudCapture p s
  | .audStart p => Sys2Proof.Machine.execAudStart p s
  | .audStop p => Sys2Proof.Machine.execAudStop p s
  | .audI2s p => Sys2Proof.Machine.execAudI2s p s
  | .audPlay p => Sys2Proof.Machine.execAudPlay p s
  | .audWait p => Sys2Proof.Machine.execAudWait p s
  | .audioBlockEnd b => Sys2Proof.Machine.execAudioBlockEnd b s
  | .playbackBlockFetch port => Sys2Proof.Machine.execPlaybackBlockFetch port s
  | .i2sClockLoss port => Sys2Proof.Machine.execI2sClockLoss port s
  | .privMicAssert => Sys2Proof.Machine.execPrivMicAssert s
  | .privMicRelease => Sys2Proof.Machine.execPrivMicRelease s
  | .tkQuery p => Sys2Proof.Machine.execTkQuery p s
  | .tkConfig p => Sys2Proof.Machine.execTkConfig p s
  | .tkSelect p => Sys2Proof.Machine.execTkSelect p s
  | .evAssign p => Sys2Proof.Machine.execEvAssign p s
  | .evConfig p => Sys2Proof.Machine.execEvConfig p s
  | .evQuery p => Sys2Proof.Machine.execEvQuery p s
  | .evReadCapture p => Sys2Proof.Machine.execEvReadCapture p s
  | .eventTriggerFire channel => Sys2Proof.Machine.execEventTriggerFire channel s
  | .eventCaptureEdge channel rising time => Sys2Proof.Machine.execEventCaptureEdge channel rising time s
  | .gptpSync m => Sys2Proof.Machine.execGptpSync m s
  | .gptpAnnounce domain port grandmaster receiptTimeout => Sys2Proof.Machine.execGptpAnnounce domain port grandmaster receiptTimeout s
  | .gptpPdelay port delay => Sys2Proof.Machine.execGptpPdelay port delay s
  | .syncReceiptTimeout domain => Sys2Proof.Machine.execSyncReceiptTimeout domain s
  | .revertiveTimer => Sys2Proof.Machine.execRevertiveTimer s
  | .netConfig p => Sys2Proof.Machine.execNetConfig p s
  | .netQuery p => Sys2Proof.Machine.execNetQuery p s
  | .netBind p => Sys2Proof.Machine.execNetBind p s
  | .netSend p => Sys2Proof.Machine.execNetSend p s
  | .ethFrameReceive f => Sys2Proof.Machine.execEthFrameReceive f s
  | .ethFrameDepart port time => Sys2Proof.Machine.execEthFrameDepart port time s
  | .ethLinkChange port up => Sys2Proof.Machine.execEthLinkChange port up s
  | .neighborResolutionTimeout port ip => Sys2Proof.Machine.execNeighborResolutionTimeout port ip s
  | .gwFleet p => Sys2Proof.Machine.execGwFleet p s
  | .gwInbox p => Sys2Proof.Machine.execGwInbox p s
  | .gwSend p => Sys2Proof.Machine.execGwSend p s
  | .gwQuery p => Sys2Proof.Machine.execGwQuery p s
  | .gwHandshakeMessage m => Sys2Proof.Machine.execGwHandshakeMessage m s
  | .gwOffer m => Sys2Proof.Machine.execGwOffer m s
  | .gwAnswer m => Sys2Proof.Machine.execGwAnswer m s
  | .gwData m => Sys2Proof.Machine.execGwData m s
  | .gwAck m => Sys2Proof.Machine.execGwAck m s
  | .gwClose m => Sys2Proof.Machine.execGwClose m s
  | .gwAckTimer session transfer => Sys2Proof.Machine.execGwAckTimer session transfer s
  | .gwChunkRetransmit session transfer chunk => Sys2Proof.Machine.execGwChunkRetransmit session transfer chunk s
  | .gwTransferDeadline session transfer sender => Sys2Proof.Machine.execGwTransferDeadline session transfer sender s
  | .gwSessionIdleTimeout session => Sys2Proof.Machine.execGwSessionIdleTimeout session s
  | .safeQuery p => Sys2Proof.Machine.execSafeQuery p s
  | .safeLogRead p => Sys2Proof.Machine.execSafeLogRead p s
  | .safeChannels p => Sys2Proof.Machine.execSafeChannels p s
  | .safeConfig p => Sys2Proof.Machine.execSafeConfig p s
  | .safeRetire p => Sys2Proof.Machine.execSafeRetire p s
  | .safeClear p => Sys2Proof.Machine.execSafeClear p s
  | .safeInject p => Sys2Proof.Machine.execSafeInject p s
  | .safeE2e p => Sys2Proof.Machine.execSafeE2e p s
  | .safeEnter p => Sys2Proof.Machine.execSafeEnter p s
  | .safeSelftest p => Sys2Proof.Machine.execSafeSelftest p s
  | .spareReady panel passed => Sys2Proof.Machine.execSpareReady panel passed s
  | .scoreLeak => Sys2Proof.Machine.execScoreLeak s
  | .selfTestDeadline type index => Sys2Proof.Machine.execSelfTestDeadline type index s
  | .windowWatchdogLate unit => Sys2Proof.Machine.execWindowWatchdogLate unit s
  | .lockstepMismatch role => Sys2Proof.Machine.execLockstepMismatch role s
  | .standbyTakeover passed => Sys2Proof.Machine.execStandbyTakeover passed s
  | .supplyExcursion rail below50 => Sys2Proof.Machine.execSupplyExcursion rail below50 s
  | .clockMonitorFault unit => Sys2Proof.Machine.execClockMonitorFault unit s
  | .pwrQuery p => Sys2Proof.Machine.execPwrQuery p s
  | .pwrCap p => Sys2Proof.Machine.execPwrCap p s
  | .pwrPolicy p => Sys2Proof.Machine.execPwrPolicy p s
  | .pwrWake p => Sys2Proof.Machine.execPwrWake p s
  | .pwrEnter p => Sys2Proof.Machine.execPwrEnter p s
  | .pwrEnterDeadline => Sys2Proof.Machine.execPwrEnterDeadline s
  | .padsRelease p => Sys2Proof.Machine.execPadsRelease p s
  | .pwrPads p => Sys2Proof.Machine.execPwrPads p s
  | .moorEntry => Sys2Proof.Machine.execMoorEntry s
  | .dormantDelayExpiry => Sys2Proof.Machine.execDormantDelayExpiry s
  | .i2c0AddressMatch address argument => Sys2Proof.Machine.execI2c0AddressMatch address argument s
  | .pePerst0Deassert => Sys2Proof.Machine.execPePerst0Deassert s
  | .peWakeNSense => Sys2Proof.Machine.execPeWakeNSense s
  | .governorTick power roomed => Sys2Proof.Machine.execGovernorTick power roomed s
  | .thermalCapTick others panels => Sys2Proof.Machine.execThermalCapTick others s panels
  | .thermalTrip hottest => Sys2Proof.Machine.execThermalTrip hottest s
  | .thermalTripRelease hottest => Sys2Proof.Machine.execThermalTripRelease hottest s
  | .powerOnReset => Sys2Proof.Machine.execPowerOnReset s
  | .warmReset cause => Sys2Proof.Machine.execWarmReset cause s
  | .startStepComplete o => Sys2Proof.Machine.execStartStepComplete o s
  | .startStepLimit => Sys2Proof.Machine.execStartStepLimit s
  | .hostBootDescriptorPoll => Sys2Proof.Machine.execHostBootDescriptorPoll s
  | .bootJournal p => Sys2Proof.Machine.execBootJournal p s
  | .bootRetry p => Sys2Proof.Machine.execBootRetry p s
  | .secCert p => Sys2Proof.Machine.execSecCert p s
  | .secAttest p => Sys2Proof.Machine.execSecAttest p s
  | .secPair p => Sys2Proof.Machine.execSecPair p s
  | .secOwner p => Sys2Proof.Machine.execSecOwner p s
  | .secConfig p => Sys2Proof.Machine.execSecConfig p s
  | .secFloor p => Sys2Proof.Machine.execSecFloor p s
  | .updStage p => Sys2Proof.Machine.execUpdStage p s
  | .updActivate p => Sys2Proof.Machine.execUpdActivate p s
  | .updCancel p => Sys2Proof.Machine.execUpdCancel p s
  | .updQuery p => Sys2Proof.Machine.execUpdQuery p s
  | .updateStageComplete passed => Sys2Proof.Machine.execUpdateStageComplete passed s
  | .reelReaderCopyComplete => Sys2Proof.Machine.execReelReaderCopyComplete s
  | .busMasterEnableSet w => Sys2Proof.Machine.execBusMasterEnableSet s w
  | .scratchpadScrubComplete panel => Sys2Proof.Machine.execScratchpadScrubComplete panel s
  | .selfTestSliceComplete type index passed => Sys2Proof.Machine.execSelfTestSliceComplete type index passed s
  | .i2sClockResume port => Sys2Proof.Machine.execI2sClockResume port s
  | .outputPulseEnd channel camera => Sys2Proof.Machine.execOutputPulseEnd channel camera s
  | .powerStateMoveComplete => Sys2Proof.Machine.execPowerStateMoveComplete s
  | .bootRomStart bootSrc => Sys2Proof.Machine.execBootRomStart bootSrc s

end Sys2Proof.Machine
end

