-- ==== Sys2Proof/Safety.lean ====
section
/-! DEFINITION. What a safe state of the model is, and the words in which the statements speak of commands: a packet that passes the
shared checks, its reply, its being handed on, and what a command leaves unchanged. -/

namespace Sys2Proof.Machine

/-- Keys strictly rising: the canonical form of a keyed table. -/
def Tbl.wf {α : Type} (t : Tbl α) : Prop := t.Pairwise fun a b => a.1 < b.1

/-- Both memories are in canonical form. -/
def State.memWf (s : State) : Prop := Memory.wf s.store.mem = true ∧ Memory.wf s.store.host = true

/-- The context table and the table of stored words are in canonical form. -/
def State.tblWf (s : State) : Prop := Tbl.wf s.ctxs ∧ Tbl.wf s.store.words

/-- The reserved bits of the global registers that hold flags, enables, bases and sizes are 0 (R66, R70, R71, R72). -/
def State.glbWf (s : State) : Prop :=
  s.glb.event &&& 0xFFFFFC00 = 0 ∧ s.glb.eventEn &&& 0xFFFFFC00 = 0 ∧ s.glb.err &&& 0xFFFFFF00 = 0 ∧ s.glb.errEn &&& 0xFFFFFF00 = 0 ∧
    s.glb.winLo &&& 0xFFFF = 0 ∧ s.glb.winHi &&& 0xFFFFFF00 = 0 ∧ s.glb.mqLo &&& 0xFFF = 0 ∧ s.glb.msLo &&& 0xFFF = 0 ∧
    s.glb.mring &&& 0x7FFFE0E0 = 0

/-- The two privacy gates follow their pins (R329, R349). -/
def State.gateWf (s : State) : Prop := s.cams.gate = s.cams.pin ∧ s.audio.gate = s.audio.pin

/-- The state is well formed. -/
def State.wf (s : State) : Prop := s.memWf ∧ s.tblWf ∧ s.glbWf ∧ s.gateWf

/-- The counts that no command and no reset lowers: the two rollback floors (R443) and the export count (R274). -/
structure Floors where
  fw : Nat
  cfg : Nat
  exports : Nat
  deriving DecidableEq, Repr

/-- The counts of a state. -/
def State.floors (s : State) : Floors := ⟨s.boot.fwFloor, s.boot.cfgFloor, s.models.exports⟩

/-- No count of the state lies below `f`. -/
def State.above (s : State) (f : Floors) : Prop := f.fw ≤ s.boot.fwFloor ∧ f.cfg ≤ s.boot.cfgFloor ∧ f.exports ≤ s.models.exports

/-- The state is well formed and no count lies below `f`. -/
def State.inv (s : State) (f : Floors) : Prop := s.memWf ∧ s.tblWf ∧ s.glbWf ∧ s.gateWf ∧ s.above f

/-! ### Packets -/

/-- The packet passes the checks that every command shares (R81 checks 1–4 and 7, R407, R434), and if a fetch has put it in flight, it has
been dispatched (R87). -/
abbrev Passes (p : Pkt) (s : State) : Prop := cmdGate p s = none ∧ unitsOut p s = false ∧ mayAct p s = true

/-- As Passes, while no host-memory request is held (R482). -/
abbrev PassesHost (p : Pkt) (s : State) : Prop := Passes p s ∧ held s = false

/-- The newest tag record of the packet's context (R89). -/
def newest (p : Pkt) (t : State) : Option TagRec := (ctxOf t p.ctx).tags.head?

/-- The packet has been answered with OK, or with OK_NOTES where `notes` is not 0, and these result words (R77, R78, R89). -/
def Answered (p : Pkt) (notes w0 w1 w2 : Nat) (t : State) : Prop :=
  ∃ r, newest p t = some r ∧ r.tag = pTag p ∧ r.bytes = p.bytes ∧ r.reply.code = (if notes = 0 then Code.ok else .okNotes) ∧
    r.reply.opcode = pOp p % 0x8000 ∧ r.reply.tag = pTag p ∧ r.reply.notes = notes ∧
    r.reply.w0 = w0 % 2 ^ 32 ∧ r.reply.w1 = w1 % 2 ^ 32 ∧ r.reply.w2 = w2 % 2 ^ 32

/-- The packet has been answered with this failing code and result word 2 (R80, R89). -/
def Refused (p : Pkt) (code : Code) (w2 : Nat) (t : State) : Prop :=
  ∃ r, newest p t = some r ∧ r.tag = pTag p ∧ r.bytes = p.bytes ∧ r.reply.code = code ∧ r.reply.opcode = pOp p % 0x8000 ∧
    r.reply.tag = pTag p ∧ r.reply.notes = 0 ∧ r.reply.w0 = 0 ∧ r.reply.w1 = 0 ∧ r.reply.w2 = w2 % 2 ^ 32

/-- Every flight of the packet is handed on: it waits for an event and holds no dispatch slot (R483). -/
def HandedOn (p : Pkt) (t : State) : Prop := ∀ f ∈ t.cmd.flights, f.pkt = p → f.handed = true ∧ f.slot = false

/-! ### The packet commands, family by family -/

/-- The device commands, as packet `p` spells them. -/
def IsDeviceCommand (p : Pkt) (c : Instr) : Prop :=
  c = .devNop p ∨ c = .devInfo p ∨ c = .devStats p ∨ c = .devRejectLog p ∨ c = .devReset p ∨ c = .devKeyEnroll p ∨
    c = .devKeyRevoke p ∨ c = .devKeyList p ∨ c = .devNetConfig p ∨ c = .devSessions p ∨ c = .devSessionClose p

/-- The cascade commands, as packet `p` spells them. -/
def IsCascadeCommand (p : Pkt) (c : Instr) : Prop :=
  c = .cascQuery p ∨ c = .cascSetSource p ∨ c = .cascBind p ∨ c = .cascSetHold p ∨ c = .cascLift p ∨ c = .cascBallast p ∨
    c = .cascReadLog p ∨ c = .cascReadReel p ∨ c = .cascCounters p ∨ c = .cascSetTimer p

/-- The context and gang commands, as packet `p` spells them. -/
def IsContextAndGangCommand (p : Pkt) (c : Instr) : Prop :=
  c = .ctxOpen p ∨ c = .ctxClose p ∨ c = .ctxQuery p ∨ c = .ctxSetQuota p ∨ c = .ctxSeal p ∨ c = .ctxQueueCreate p ∨
    c = .ctxQueueDestroy p ∨ c = .gangCreate p ∨ c = .gangDestroy p ∨ c = .gangQuery p ∨ c = .ctxLeases p ∨ c = .ctxXlate p

/-- The memory commands, as packet `p` spells them. -/
def IsMemoryCommand (p : Pkt) (c : Instr) : Prop :=
  c = .memAlloc p ∨ c = .memFree p ∨ c = .memMapHost p ∨ c = .memProtect p ∨ c = .memCopy p ∨ c = .memPlace p ∨ c = .memPin p ∨
    c = .memQuery p ∨ c = .memChannels p ∨ c = .memChannelRetire p ∨ c = .memColdIo p

/-- The plan commands, as packet `p` spells them. -/
def IsPlanCommand (p : Pkt) (c : Instr) : Prop :=
  c = .planLoad p ∨ c = .planUnload p ∨ c = .planQuery p ∨ c = .planRun p ∨ c = .planStop p ∨ c = .planFeed p ∨
    c = .planBindEvent p ∨ c = .planUnbind p ∨ c = .gangStats p ∨ c = .panelQuery p ∨ c = .planReload p ∨ c = .moorLoad p ∨
    c = .moorQuery p

/-- The attention pool commands, as packet `p` spells them. -/
def IsAttentionPoolCommand (p : Pkt) (c : Instr) : Prop :=
  c = .kvPoolCreate p ∨ c = .kvPoolDestroy p ∨ c = .kvSeqCreate p ∨ c = .kvFork p ∨ c = .kvTruncate p ∨ c = .kvFree p ∨
    c = .kvSeqQuery p ∨ c = .kvPageQuery p ∨ c = .kvRead p ∨ c = .kvWait p ∨ c = .kvPoolQuery p ∨ c = .kvExport p ∨
    c = .kvImport p

/-- The stream commands, as packet `p` spells them. -/
def IsStreamCommand (p : Pkt) (c : Instr) : Prop :=
  c = .strmSetCreate p ∨ c = .strmSetDestroy p ∨ c = .strmStart p ∨ c = .strmPause p ∨ c = .strmResume p ∨ c = .strmEnd p ∨
    c = .strmQuery p ∨ c = .strmSentinel p ∨ c = .strmRead p ∨ c = .strmExport p ∨ c = .strmImport p ∨ c = .strmPeer p

/-- The camera commands, as packet `p` spells them. -/
def IsCameraCommand (p : Pkt) (c : Instr) : Prop :=
  c = .camQuery p ∨ c = .camAssign p ∨ c = .camPort p ∨ c = .camParams p ∨ c = .camOutput p ∨ c = .camStart p ∨ c = .camStop p ∨
    c = .camPower p ∨ c = .camSync p ∨ c = .camWindow p ∨ c = .camAttach p ∨ c = .camWait p ∨ c = .camPresence p

/-- The audio commands, as packet `p` spells them. -/
def IsAudioCommand (p : Pkt) (c : Instr) : Prop :=
  c = .audQuery p ∨ c = .audAssign p ∨ c = .audClock p ∨ c = .audLp p ∨ c = .audBeam p ∨ c = .audCapture p ∨ c = .audStart p ∨
    c = .audStop p ∨ c = .audI2s p ∨ c = .audPlay p ∨ c = .audWait p

/-- The time and event commands, as packet `p` spells them. -/
def IsTimeAndEventCommand (p : Pkt) (c : Instr) : Prop :=
  c = .tkQuery p ∨ c = .tkConfig p ∨ c = .tkSelect p ∨ c = .evAssign p ∨ c = .evConfig p ∨ c = .evQuery p ∨ c = .evReadCapture p

/-- The network commands, as packet `p` spells them. -/
def IsNetworkCommand (p : Pkt) (c : Instr) : Prop :=
  c = .netConfig p ∨ c = .netQuery p ∨ c = .netBind p ∨ c = .netSend p ∨ c = .gwFleet p ∨ c = .gwInbox p ∨ c = .gwSend p ∨
    c = .gwQuery p

/-- The safety commands, as packet `p` spells them. -/
def IsSafetyCommand (p : Pkt) (c : Instr) : Prop :=
  c = .safeQuery p ∨ c = .safeLogRead p ∨ c = .safeChannels p ∨ c = .safeConfig p ∨ c = .safeRetire p ∨ c = .safeClear p ∨
    c = .safeInject p ∨ c = .safeE2e p ∨ c = .safeEnter p ∨ c = .safeSelftest p

/-- The power commands, as packet `p` spells them. -/
def IsPowerCommand (p : Pkt) (c : Instr) : Prop :=
  c = .pwrQuery p ∨ c = .pwrCap p ∨ c = .pwrPolicy p ∨ c = .pwrWake p ∨ c = .pwrEnter p ∨ c = .padsRelease p ∨ c = .pwrPads p

/-- The security and update commands, as packet `p` spells them. -/
def IsSecurityAndUpdateCommand (p : Pkt) (c : Instr) : Prop :=
  c = .bootJournal p ∨ c = .bootRetry p ∨ c = .secCert p ∨ c = .secAttest p ∨ c = .secPair p ∨ c = .secOwner p ∨
    c = .secConfig p ∨ c = .secFloor p ∨ c = .updStage p ∨ c = .updActivate p ∨ c = .updCancel p ∨ c = .updQuery p

/-- The statistics commands, as packet `p` spells them. -/
def IsStatisticsCommand (p : Pkt) (c : Instr) : Prop :=
  c = .qstatArm p ∨ c = .qstatDisarm p ∨ c = .qstatRead p ∨ c = .qstatQuery p ∨ c = .qconvert p

/-- The packet commands: the operations of the packet format, each with its packet. -/
def IsPacketCommand (p : Pkt) (c : Instr) : Prop :=
  IsDeviceCommand p c ∨ IsCascadeCommand p c ∨ IsContextAndGangCommand p c ∨ IsMemoryCommand p c ∨ IsPlanCommand p c ∨
    IsAttentionPoolCommand p c ∨ IsStreamCommand p c ∨ IsCameraCommand p c ∨ IsAudioCommand p c ∨ IsTimeAndEventCommand p c ∨
    IsNetworkCommand p c ∨ IsSafetyCommand p c ∨ IsPowerCommand p c ∨ IsSecurityAndUpdateCommand p c ∨ IsStatisticsCommand p c

/-! ### Frames -/

/-- What a reply to packet `p`, or its being handed on, leaves unchanged: the whole state but the packets in flight, the messages and
the status entry on their way, the session that the reply goes to, and in the packet's own context the tag records, the count of
status entries and the reject log (R80, R84, R89, R102). -/
structure SameDevice (p : Pkt) (s t : State) : Prop where
  pending : t.pending = s.pending
  glb : t.glb = s.glb
  link : { t.link with msixPending := s.link.msixPending, wakeDriven := s.link.wakeDriven, held := s.link.held } = s.link
  others : ∀ h, h ≠ p.ctx → ctxOf t h = ctxOf s h
  own : { ctxOf t p.ctx with
    tags := (ctxOf s p.ctx).tags, ring := (ctxOf s p.ctx).ring, rejected := (ctxOf s p.ctx).rejected
    rejLog := (ctxOf s p.ctx).rejLog, rejLost := (ctxOf s p.ctx).rejLost } = ctxOf s p.ctx
  cmd : { t.cmd with flights := s.cmd.flights, chainFailed := s.cmd.chainFailed } = s.cmd
  stolp : { t.stolp with sessions := s.stolp.sessions } = s.stolp
  casc : t.casc = s.casc
  reel : t.reel = s.reel
  sched : t.sched = s.sched
  models : t.models = s.models
  store : { t.store with host := s.store.host } = s.store
  cams : t.cams = s.cams
  audio : t.audio = s.audio
  time : t.time = s.time
  net : t.net = s.net
  safe : t.safe = s.safe
  power : t.power = s.power
  boot : t.boot = s.boot
  pins : t.pins = s.pins
  freeCtr : t.freeCtr = s.freeCtr

/-- The command answers a next state in which its packet has been answered with OK, or OK_NOTES with `notes`, and these result words,
and which is otherwise `u`. -/
def Does (c : Instr) (p : Pkt) (s : State) (notes w0 w1 w2 : Nat) (u : State) : Prop :=
  ∃ t, exec c s = .next t ∧ Answered p notes w0 w1 w2 t ∧ SameDevice p u t

/-- As Does, and then `post` follows the reply. -/
def DoesThen (c : Instr) (p : Pkt) (s : State) (notes w0 w1 w2 : Nat) (u : State) (post : State → State) : Prop :=
  ∃ t, exec c s = .next (post t) ∧ Answered p notes w0 w1 w2 t ∧ SameDevice p u t

/-- The command answers a next state in which its packet waits, handed on, and which is otherwise `u`. -/
def Waits (c : Instr) (p : Pkt) (s : State) (u : State) : Prop :=
  ∃ t, exec c s = .next t ∧ HandedOn p t ∧ SameDevice p u t

end Sys2Proof.Machine
end

