-- ==== Sys2Proof/Certificates/Slice0/Obligations.lean ====
section
/-! DEFINITION. The statements for the provers. -/

open Sys2Proof Sys2Proof.Machine

/-- A step takes the command at the front of the queue. The queue is the model's form of the rows' arrival (log 2). -/
def Obligations.StepRunsFrontCommand : Prop :=
  ∀ (c : Instr) (rest : List Instr) (s : State), step { s with pending := c :: rest } = exec c { s with pending := rest }

/-- R17's increment. That a tick passes when no command waits is the model's choice (log 1). (R17, R361, R363, R406) -/
def Obligations.IdleStepTicks : Prop :=
  ∀ s : State, s.pending = [] →
    step s = .next (idle s) ∧ (idle s).time.ticks = s.time.ticks + 1 ∧
    (2 ≤ s.time.sel →
      let d : Nat := (s.time.ticks + 1) * 10 ^ 9 / 32768 - s.time.ticks * 10 ^ 9 / 32768
      (idle s).time.now = s.time.now + ((d : Int) + if keeperOn s then (d : Int) * s.time.rate / 10 ^ 9 else 0).toNat) ∧
    { idle s with time := s.time, pins := s.pins } = s

/-- Values of reset that the named rules give. (R66, R481, R363, R427, R425, R393, R471, R477, R43, R25, R108) -/
def Obligations.ResetState : Prop :=
  State.reset.pending = [] ∧ State.reset.glb = {} ∧
    (∀ v : Nat, (msixWord State.reset (4 * v + 3)).getLsbD 0 = true) ∧
    State.reset.link.up = false ∧ State.reset.link.bme = false ∧ State.reset.link.hold = .none ∧ State.reset.link.held = [] ∧
    State.reset.time.now = 0 ∧ State.reset.time.ticks = 0 ∧ State.reset.time.sel = 3 ∧
    State.reset.power.thermal = 60 ∧ State.reset.power.p0Floor = 6 ∧ State.reset.safe.cfg.threshold = 48 ∧
    State.reset.casc.kiteHold = 1500 ∧ State.reset.casc.gangHold = 5000 ∧ State.reset.casc.sampleHold = 2000 ∧
    State.reset.pins.safeState = true ∧ State.reset.pins.safeFaultLow = true ∧ State.reset.pins.rstOutLow = true ∧
    State.reset.boot.phase = .reset ∧ (∀ h, h ≠ 0 → (ctxOf State.reset h).state = .closed)

/-- The invariant of StepKeepsWf holds after reset. (R66, R329, R349) -/
def Obligations.ResetIsWellFormed : Prop :=
  State.reset.wf

/-- No command, register access or event overrides a privacy gate (R329, R349), and reserved register bits read 0 (R8). (R8, R66, R70, R71, R72, R329, R349) -/
def Obligations.StepKeepsWf : Prop :=
  ∀ s t : State, s.wf → step s = .next t → t.wf

/-- A floor never moves backward (R443), and a parcel number is never used again (R274). (R443, R274) -/
def Obligations.StepNeverLowersFloors : Prop :=
  ∀ s t : State, s.wf → step s = .next t → t.above s.floors

/-- A packet that passes no check is answered, never lost (R77); every other row has an effect or names a unit that no part has (R2). (R2, R77, R80) -/
def Obligations.CommandsNeverStop : Prop :=
  (∀ (c : Instr) (s : State), (∀ r, exec c s ≠ .refused r) ∧ (∀ f, exec c s = .fault f → f = .noSuchUnit)) ∧
    (∀ (p : Pkt) (c : Instr) (s : State), IsPacketCommand p c → ∃ t, exec c s = .next t)

/-- Units that no ordering code carries (R2). (R2, R123) -/
def Obligations.EventsOnMissingUnitsFault : Prop :=
  ∀ s : State,
    (∀ (reason score : Nat) (input : List Byte) (trigger frame : Nat), (reason = 0 ∨ 3 < reason) → exec (.detectorDecision reason score input trigger frame) s = .fault .noSuchUnit) ∧
    (∀ (k : Nat), noTier k = true → exec (.updraftWindowEnd k) s = .fault .noSuchUnit) ∧
    (∀ (k : Nat), noTier k = true → exec (.warmUpComplete k) s = .fault .noSuchUnit) ∧
    (∀ (k : Nat), noTier k = true → exec (.armingComplete k) s = .fault .noSuchUnit) ∧
    (∀ (k : Nat), noTier k = true → exec (.idleHoldEnd k) s = .fault .noSuchUnit) ∧
    (∀ (k : Nat), noTier k = true → exec (.tierPowerDownComplete k) s = .fault .noSuchUnit) ∧
    (∀ (pin : Nat) (level : Bool), 7 < pin → exec (.aonGpioEdge pin level) s = .fault .noSuchUnit) ∧
    (∀ (ctx page : Nat), 512 < ctx → exec (.atsInvalidation ctx page) s = .fault .noSuchUnit) ∧
    (∀ (ctx : Nat) (kind : ReadFail) (what : ReadFor), 512 < ctx → exec (.hostReadFailure ctx kind what) s = .fault .noSuchUnit) ∧
    (∀ (ctx g : Nat) (kind : ReadFail), 16 < g → exec (.hostReadFailure ctx kind (.leg g)) s = .fault .noSuchUnit) ∧
    (∀ (word : Nat), 2 ^ 40 ≤ word * 16 → exec (.patrolScrub word) s = .fault .noSuchUnit) ∧
    (∀ (ctx : Nat), 512 < ctx → exec (.ctxCloseGraceEnd ctx) s = .fault .noSuchUnit) ∧
    (∀ (ctx : Nat), 512 < ctx → exec (.ripcordScrubComplete ctx) s = .fault .noSuchUnit) ∧
    (∀ (ctx : Nat) (gang channel command : Option Nat), (512 < ctx ∨ 16 < gang.getD 0 ∨ 31 < channel.getD 0) → exec (.legAccessFault ctx gang channel command) s = .fault .noSuchUnit) ∧
    (∀ (e : LegEnd), 16 < e.gang → exec (.legEnd e) s = .fault .noSuchUnit) ∧
    (∀ (gang stall : Nat), 16 < gang → exec (.prefetchComplete gang stall) s = .fault .noSuchUnit) ∧
    (∀ (gang : Nat), 16 < gang → exec (.stallLimitExpiry gang) s = .fault .noSuchUnit) ∧
    (∀ (gang : Nat), 16 < gang → exec (.legLateLimit gang) s = .fault .noSuchUnit) ∧
    (∀ (page : Nat), 1048576 ≤ page → exec (.pageReclaim page) s = .fault .noSuchUnit) ∧
    (∀ (gang stripe : Nat) (tiles : List Nat), 16 < gang → exec (.stripeGroupStart gang stripe tiles) s = .fault .noSuchUnit) ∧
    (∀ (gang stage : Nat), 16 < gang → exec (.pipelineStageStep gang stage) s = .fault .noSuchUnit) ∧
    (∀ (panel : Nat), 34 < panel → exec (.scratchpadScrubComplete panel) s = .fault .noSuchUnit) ∧
    (∀ (channel : Nat) (o : Done), 30 < channel → exec (.dmaTransferComplete channel o) s = .fault .noSuchUnit) ∧
    (∀ (port vc : Nat) (ecc : CsiEcc), 11 < port → exec (.csiFrameStart port vc ecc) s = .fault .noSuchUnit) ∧
    (∀ (port vc : Nat) (ecc : CsiEcc), 11 < port → exec (.csiFrameEnd port vc ecc) s = .fault .noSuchUnit) ∧
    (∀ (l : CsiLine), 11 < l.port → exec (.csiLine l) s = .fault .noSuchUnit) ∧
    (∀ (port : Nat), 11 < port → exec (.slotComplete port) s = .fault .noSuchUnit) ∧
    (∀ (port : Nat), 11 < port → exec (.frameIntervalTimeout port) s = .fault .noSuchUnit) ∧
    (∀ (port : Nat), 11 < port → exec (.mutedFrameTimer port) s = .fault .noSuchUnit) ∧
    (∀ (port : Nat), 1 < port → exec (.playbackBlockFetch port) s = .fault .noSuchUnit) ∧
    (∀ (port : Nat), 1 < port → exec (.i2sClockLoss port) s = .fault .noSuchUnit) ∧
    (∀ (port : Nat), 1 < port → exec (.i2sClockResume port) s = .fault .noSuchUnit) ∧
    (∀ (n : Nat), 31 < n → exec (.eventTriggerFire n) s = .fault .noSuchUnit) ∧
    (∀ (n : Nat) (rising : Bool) (time : Nat), 31 < n → exec (.eventCaptureEdge n rising time) s = .fault .noSuchUnit) ∧
    (∀ (m : SyncMsg), (1 < m.domain ∨ 1 < m.port) → exec (.gptpSync m) s = .fault .noSuchUnit) ∧
    (∀ (d n r : Nat) (g : Announced), (1 < d ∨ 1 < n) → exec (.gptpAnnounce d n g r) s = .fault .noSuchUnit) ∧
    (∀ (n : Nat) (d : Pdelay), 1 < n → exec (.gptpPdelay n d) s = .fault .noSuchUnit) ∧
    (∀ (d : Nat), 1 < d → exec (.syncReceiptTimeout d) s = .fault .noSuchUnit) ∧
    (∀ (f : EthFrame), 1 < f.port → exec (.ethFrameReceive f) s = .fault .noSuchUnit) ∧
    (∀ (n t : Nat), 1 < n → exec (.ethFrameDepart n t) s = .fault .noSuchUnit) ∧
    (∀ (n : Nat) (up : Bool), 1 < n → exec (.ethLinkChange n up) s = .fault .noSuchUnit) ∧
    (∀ (n : Nat) (ip : List Byte), 1 < n → exec (.neighborResolutionTimeout n ip) s = .fault .noSuchUnit) ∧
    (∀ (n : Nat) (b : Bool), 33 < n → exec (.spareReady n b) s = .fault .noSuchUnit) ∧
    (∀ (ty ix : Nat), ¬(ty = 1 ∧ ix < 34 ∨ ty = 2 ∧ ix = 0) → exec (.selfTestDeadline ty ix) s = .fault .noSuchUnit) ∧
    (∀ (ty ix : Nat) (b : Bool), ¬(ty = 1 ∧ ix < 34 ∨ ty = 2 ∧ ix = 0) → exec (.selfTestSliceComplete ty ix b) s = .fault .noSuchUnit) ∧
    (∀ (n : Nat), 11 < n → exec (.windowWatchdogLate (.camera n)) s = .fault .noSuchUnit) ∧
    (∀ (n : Nat), 33 < n → exec (.windowWatchdogLate (.tail n)) s = .fault .noSuchUnit) ∧
    (∀ (n : Nat), 30 < n → exec (.windowWatchdogLate (.dmaEarly n)) s = .fault .noSuchUnit) ∧
    (∀ (n : Nat), 1 < n → exec (.windowWatchdogLate (.ethernet n)) s = .fault .noSuchUnit) ∧
    (∀ (n : Nat), 7 < n → exec (.windowWatchdogLate (.audio n)) s = .fault .noSuchUnit) ∧
    (∀ (n : Nat), 33 < n → exec (.clockMonitorFault (.panel n)) s = .fault .noSuchUnit) ∧
    (∀ (n : Nat), 11 < n → exec (.clockMonitorFault (.camera n)) s = .fault .noSuchUnit) ∧
    (∀ (n : Nat) (c : Option Nat), 31 < n → exec (.outputPulseEnd (some n) c) s = .fault .noSuchUnit) ∧
    (∀ (e : Option Nat) (n : Nat), 11 < n → exec (.outputPulseEnd e (some n)) s = .fault .noSuchUnit)

/-- R80 for the checks that every command shares; R87 for a packet that waits; R434 for units that a failed start step left out. (R80, R81, R87, R407, R102, R434) -/
def Obligations.FailedSharedCheckChangesNothing : Prop :=
  ∀ (p : Pkt) (s : State) (c : Instr), IsPacketCommand p c →
    (mayAct p s = false → exec c s = .next s) ∧
    (∀ f, mayAct p s = true → cmdGate p s = some f →
      ∃ t, exec c s = .next t ∧ Refused p f.code 0 t ∧ SameDevice p s t) ∧
    (mayAct p s = true → cmdGate p s = none → unitsOut p s = true →
      ∃ t u, exec c s = .next t ∧ (u = s ∨ ∃ w, u = wordEvent w p.ctx s) ∧ SameDevice p u t)

/-- R80 for the checks of one command, R482 for held requests. (R80, R81, R102, R297, R482) -/
def Obligations.FailedOwnCheckChangesNothing : Prop :=
  ∀ (p : Pkt) (s : State) (f : Fail) (act : State → State), Passes p s → f.code ≠ .ok →
    let u := match f.word with | some w => wordEvent w p.ctx s | none => s
    (∃ t, runCmd p s (some f) act = .next t ∧ Refused p f.code 0 t ∧ SameDevice p u t) ∧
    (∀ host : Bool, held s = false →
      ∃ t, runHost p s host (some f) act = .next t ∧ Refused p f.code 0 t ∧ SameDevice p u t) ∧
    (held s = true → (∀ chk : Option Fail, runHost p s true chk act = .next (hostWait p s)) ∧
      (heldWrites s < heldWrites (act s) → runHost p s false none act = .next (hostWait p s)) ∧ SameDevice p s (hostWait p s))

/-- The effect of each device command where it completes, and with it its frame: everything outside the state written out and outside SameDevice is unchanged. Where a clause follows a choice of the model and no rule, it is that of log 21, 52, 58. (R77, R100, R101, R102, R103, R104, R105, R106, R107) -/
def Obligations.DeviceCommandsComplete : Prop :=
  ∀ (p : Pkt) (s : State), Passes p s →
    (
      Does (.devNop p) p s 0 (pLen p) 0 0 s) ∧
    (held s = false → chkDevInfo p s = none → 
      Does (.devInfo p) p s 0 (0x0100 + 65536 * p.ctx) s.glb.fwver.toNat glbId
        (if pLen p = 1 then s else vwrite p.ctx (fld p 16 8) (deviceRecord s) s)) ∧
    (chkDevStats p s = none → 
      let h := fld p 16 2
      let c := ctxOf s h
      let s1 := if (fld p 18 1).testBit 0 then
          modCtx h (fun c => { c with accepted := 0, rejected := 0, depOrder := 0, pauses := 0, discards := 0 }) s
        else s
      Does (.devStats p) p s 0 c.accepted.toNat (c.rejected + (if h = 0 then c.discards else 0)).toNat (c.depOrder.toNat % 65536 + 65536 * (c.pauses.toNat % 65536))
        s1) ∧
    (held s = false → chkDevRejectLog p s = none → 
      let h := fld p 16 2
      let c := ctxOf s h
      let es := c.rejLog.take (fld p 18 2)
      let s1 := modCtx h (fun c => { c with rejLog := c.rejLog.drop es.length, rejLost := 0 }) s
      Does (.devRejectLog p) p s 0 es.length (sat 32 c.rejLost) 0
        (vwrite p.ctx (fld p 24 8) (es.map rejBytes).flatten s1)) ∧
    (chkDevReset p s = none → s.cmd.stopped = false → 
      DoesThen (.devReset p) p s 0 0 0 0 { s with cmd.stopped := true, glb.ready := false }
        fun t => workEnded { t with
          cmd.devReset := some (fld p 16 1 == 1, s.time.now + (if fld p 20 4 = 0 then 1000 else fld p 20 4) * 1000000) }) ∧
    (held s = false → chkDevKeyEnroll p s = none → 
      let v := readWords 0 (fld p 16 8) 256 s
      let k := keyFrom (vread v 0 (fld p 16 8) 256) false
      Does (.devKeyEnroll p) p s 0 (k.keyId % 2 ^ 32) (k.keyId / 2 ^ 32) 0
        { v with stolp.keys := v.stolp.keys ++ [k] }) ∧
    (chkDevKeyRevoke p s = none → 
      let k := fld p 16 8
      let ids := (s.stolp.sessions.filter fun e => e.2.keyId == k).map Prod.fst
      let s1 := ids.foldl (fun t i => closeSession i t) s
      Does (.devKeyRevoke p) p s 0 ids.length 0 0
        { s1 with
    stolp.keys := s1.stolp.keys.filter fun e => e.keyId != k
    stolp.pending := tkeep s1.stolp.pending fun _ h => h.keyId != k }) ∧
    (held s = false → chkList512 p s = none → 
      Does (.devKeyList p) p s 0 s.stolp.keys.length 0 0
        (vwrite p.ctx (fld p 16 8) (s.stolp.keys.map (keyListBytes s)).flatten s)) ∧
    (chkDevNetConfig p s = none → 
      DoesThen (.devNetConfig p) p s 0 0 0 0
        { s with
          stolp.udpPort := fld p 16 2, stolp.enable := fld p 18 1, stolp.limit := fld p 19 1, stolp.idle := fld p 20 2
          stolp.batchUs := fld p 22 2 }
        fun t => (([0, 1] : List Nat).filter fun e => s.stolp.enable.testBit e && !(fld p 18 1).testBit e).foldl
          (fun t e => closePort e t) (if p.queue = 8 then flushBatch p.session t else t)) ∧
    (held s = false → chkList512 p s = none → 
      Does (.devSessions p) p s 0 s.stolp.sessions.length 0 0
        (vwrite p.ctx (fld p 16 8) (s.stolp.sessions.map fun e => sessBytes e.1 e.2).flatten s)) ∧
    (chkDevSessionClose p s = none → 
      DoesThen (.devSessionClose p) p s 0 0 0 0 s fun t =>
        closeSession (fld p 16 4) (sendSess (fld p 16 4) 6 (toLE 16 0)
          (if p.queue = 8 ∧ p.session = fld p 16 4 then flushBatch (fld p 16 4) t else t)))

/-- The effect of each cascade command where it completes, and with it its frame: everything outside the state written out and outside SameDevice is unchanged. Where a clause follows a choice of the model and no rule, it is that of log 22, 46. (R31, R46, R47, R48, R77) -/
def Obligations.CascadeCommandsComplete : Prop :=
  ∀ (p : Pkt) (s : State), Passes p s →
    (
      Does (.cascQuery p) p s 0 (cascWord s) s.casc.liftSeq s.casc.updrafts
        s) ∧
    (chkCascSetSource p s = none → 
      let fl := fld p 18 1
      let c : SourceCfg :=
        { enable := fl.testBit 0, updraft := fl.testBit 1, reach := bits fl 3 2, aux := fld p 19 1
          lift := fld p 20 2, pre := fld p 22 2, window := fld p 24 2, preroll := fld p 26 2 }
      Does (.cascSetSource p) p s 0 0 0 0
        { s with casc.sources := tput s.casc.sources (fld p 16 1 * 8 + fld p 17 1) c }) ∧
    (held s = false → chkCascBind p s = none → 
      let b : CascBind :=
        { ctx := fld p 18 2, plan := fld p 20 4, gang := fld p 24 1, level := fld p 25 1
          made := ((gangOf s (fld p 24 1)).map Gang.made).getD 0 }
      let s1 := { s with casc.binds := tput s.casc.binds (fld p 16 1 * 8 + fld p 17 1) b }
      Does (.cascBind p) p s 0 0 0 0
        (if fld p 16 1 = 1 then copyPlan b.ctx b.plan s1 else s1)) ∧
    (chkCascSetHold p s = none → 
      let f := fld p 27 1
      Does (.cascSetHold p) p s 0 0 0 0
        { s with
    casc.kiteHold := fld p 16 4
    casc.gangHold := fld p 20 4
    casc.sampleHold := fld p 24 2
    casc.hqSettle := fld p 26 1
    casc.notifyLift := f.testBit 0
    casc.notifyBallast := f.testBit 1
    casc.sampleEn := f.testBit 2 }) ∧
    (chkTier p s = none → 
      let trig := sampleNow s
      let l : LiftRec :=
        { source := 3, target := fld p 16 1, reason := 6, score := fld p 20 2, threshold := 0, time := s.time.now
          trigger := trig, aux := fld p 22 2 }
      let u := raiseLift (if fld p 24 8 = 0 then (trig : Int) - 3200 else (fld p 24 8 : Nat)) l s
      Does (.cascLift p) p s (tgetD u.casc.answers 3).2 u.casc.liftSeq 0 0 u) ∧
    (chkTier p s = none → 
      let ks := if fld p 16 1 = 1 then [0] else cascGangs s
      let c := fld p 24 8
      DoesThen (.cascBallast p) p s 0 0 0 0
        (boundaries (ks.foldl (fun t k => releaseTier k 4 (some (if c = 0 then readerPos t k else c)) t) s)) workEnded) ∧
    (held s = false → chkCascReadLog p s = none → 
      Does (.cascReadLog p) p s 0 (logPick p s).1.length (logPick p s).2.length 0
        (vwrite p.ctx (fld p 16 8) (logPickBytes p s) s)) ∧
    (chkCascReadReel p s = none → 
      let first := max (fld p 24 8 / 160) (oldestBlock s)
      Waits (.cascReadReel p) p s { s with
        reel.copy := some { pkt := p, dest := fld p 16 8, first := first, count := fld p 32 4 }
        reel.readers := tput s.reel.readers 17 { next := first } }) ∧
    (
      let s1 := if (fld p 16 1).testBit 0 then
          { s with casc.ignored := 0, casc.suppressed := 0, casc.overflow := 0, reel.overruns := 0
                   casc.tiers := tmap s.casc.tiers fun _ t => { t with ignored := 0 } }
        else s
      Does (.cascCounters p) p s 0 s.casc.ignored s.casc.suppressed (s.casc.overflow + 65536 * s.reel.overruns)
        s1) ∧
    (
      let a := fld p 16 8
      Does (.cascSetTimer p) p s 0 0 0 0
        { s with casc.alarm := if a = 0 then none else some a, casc.period := fld p 24 8 })

/-- The effect of each context and gang command where it completes, and with it its frame: everything outside the state written out and outside SameDevice is unchanged. Where a clause follows a choice of the model and no rule, it is that of log 9, 14, 15, 25, 50. (R77, R110, R117, R118, R122, R124, R134, R136, R138, R139) -/
def Obligations.ContextAndGangCommandsComplete : Prop :=
  ∀ (p : Pkt) (s : State), Passes p s →
    (held s = false → chkCtxOpen p s = none → 
      let v := readWords 0 (fld p 48 8) 64 s
      let h := fld p 16 2
      let c : Ctx :=
        { state := .opened, pasid := fld p 20 4, quota := quotaOf (vread v 0 (fld p 48 8) 64), netLevel := fld p 43 1
          queues := [(0, { level := fld p 42 1, base := fld p 32 8, log2 := fld p 41 1 })]
          ring := { base := fld p 24 8, log2 := fld p 40 1 }
          coldKey := some ((Config.fresh v.freeCtr).toNat % 2 ^ 128) }
      Does (.ctxOpen p) p s 0 h 0 0
        { v with ctxs := tput v.ctxs h c, freeCtr := v.freeCtr + 1 }) ∧
    (chkCtxClose p s = none → 
      let h := fld p 16 2
      let down := (ctxOf s h).state == .tornDown
      let limit := if fld p 20 4 = 0 then 1000 else fld p 20 4
      let k : Closing := { pkt := p, graceEnd := if down || fld p 18 1 = 1 then none else some (s.time.now + limit * 1000000) }
      ∃ t, exec (.ctxClose p) s =
          .next (if down then closeIfDone h t else if fld p 18 1 = 1 then workEnded (closeRipcord h t) else workEnded t) ∧
        HandedOn p t ∧ SameDevice p (modCtx h (fun c =>
          { c with state := .closing, wasSealed := c.wasSealed || c.state == .sealed, closing := some k }) s) t) ∧
    (chkCtxQuery p s = none → 
      let h := fld p 16 2
      let c := ctxOf s h
      Does (.ctxQuery p) p s 0 (ctxStateCode c.state + 8 * queueMask c + 2048 * (c.cause % 256)) c.pages.length (sat 16 (inFlight s h).length + 65536 * c.preempted.toNat)
        s) ∧
    (held s = false → chkCtxSetQuota p s = none → 
      let v := readWords 0 (fld p 24 8) 64 s
      Does (.ctxSetQuota p) p s 0 0 0 0
        (modCtx (fld p 16 2) (fun c => { c with quota := quotaOf (vread v 0 (fld p 24 8) 64) }) v)) ∧
    (chkCtxSeal p s = none → mgmtTouches s (fld p 16 2) = false → 
      let h := fld p 16 2
      let u := modCtx h (fun c => { c with state := .sealed }) (extend h 5 (slice p.bytes 32 32) s)
      Does (.ctxSeal p) p s 0 (sat 32 (ctxOf u h).extensions) 0 0 u) ∧
    (chkCtxSeal p s = none → mgmtTouches s (fld p 16 2) = true → 
      exec (.ctxSeal p) s = .next s) ∧
    (chkCtxQueueCreate p s = none → 
      Does (.ctxQueueCreate p) p s 0 0 0 0
        (modCtx (fld p 16 2) (fun c =>
    { c with queues := tput c.queues (fld p 18 1) { level := fld p 19 1, base := fld p 24 8, log2 := fld p 20 1 } }) s)) ∧
    (chkCtxQueueDestroy p s = none → 
      let h := fld p 16 2
      let q := tgetD (ctxOf s h).queues (fld p 18 1)
      Does (.ctxQueueDestroy p) p s 0 (q.tail - q.fetched).toNat 0 0
        (modCtx h (fun c => { c with queues := tdel c.queues (fld p 18 1) }) s)) ∧
    (chkGangCreate p s = none → 
      let g := fld p 16 1
      let ps := sortBy (fun a b => placeOf s a ≤ placeOf s b) (choosePanels s (fld p 17 1))
      let x : Gang := { kind := fld p 18 1, owner := fld p 20 2, size := fld p 17 1, panels := ps, made := s.sched.gangSeq + 1 }
      let s1 := { s with sched.gangs := tput s.sched.gangs g x, sched.gangSeq := s.sched.gangSeq + 1 }
      let s2 := ps.foldl (fun t n => modPanel n (fun q => { q with state := .inGang, gang := g }) (modTest (chKey 1 n) (fun x => { x with last := t.time.now }) t)) s1
      let s3 := if fld p 20 2 = 0 then s2 else takeLease 2 (fld p 20 2) g 0 s2
      Does (.gangCreate p) p s 0 (maskOf ps % 2 ^ 32) (maskOf ps / 2 ^ 32) 0
        s3) ∧
    (chkGangDestroy p s = none → 
      Does (.gangDestroy p) p s 0 0 0 0
        (removeGang (fld p 16 1) s)) ∧
    (chkGangQuery p s = none → fld p 16 1 = 0 → 
      Does (.gangQuery p) p s 0 (gangSize s 0) 0 0 s) ∧
    (chkGangQuery p s = none → fld p 16 1 ≠ 0 → 
      let x := tgetD s.sched.gangs (fld p 16 1)
      let m := maskOf x.panels
      Does (.gangQuery p) p s 0 (x.panels.length + 64 * x.kind + 256 * x.owner) (m % 2 ^ 32) (m / 2 ^ 32) s) ∧
    (held s = false → chkCtxLeases p s = none → 
      let ls := leasesOf s (fld p 16 2)
      let w := ls.take (fld p 18 2)
      Does (.ctxLeases p) p s 0 w.length ls.length 0
        (vwrite p.ctx (fld p 24 8) (w.map leaseBytes).flatten s)) ∧
    (chkCtxXlate p s = none → 
      let (lvl, e) := walk s (fld p 16 2) (fld p 24 8)
      Does (.ctxXlate p) p s 0 (e % 2 ^ 32) (e / 2 ^ 32) lvl
        s)

/-- The effect of each memory command where it completes, and with it its frame: everything outside the state written out and outside SameDevice is unchanged. Where a clause follows a choice of the model and no rule, it is that of log 9, 28, 37. (R77, R301, R303, R304, R307, R312, R313) -/
def Obligations.MemoryCommandsComplete : Prop :=
  ∀ (p : Pkt) (s : State), Passes p s →
    (held s = false → chkMemAlloc p s = none → 
      let init := fld p 40 8
      let size := fld p 24 8
      let bs := if init = 0 then [] else vread s p.ctx init size
      let b := buildObj p s
      let s2 := if init = 0 then b.2 else correctedWords (vcorrected s p.ctx init size) (fillObj b.1 bs b.2)
      let s3 := if (fld p 32 1).testBit 2 then extendHash p.ctx 4 (if init = 0 then List.replicate size 0 else bs) s2 else s2
      let o := tgetD s3.store.objs b.1
      DoesThen (.memAlloc p) p s 0 (mkHandle o.gen b.1) (o.va % 2 ^ 32) (o.va / 2 ^ 32) s3 settle) ∧
    (chkMemFree p s = none → 
      let k := pObjK p s
      (engineObj s = some k ∨ s.store.cold.any (fun c => c.obj == some k)) →
      Waits (.memFree p) p s (modMove k (fun m => { m with freeing := some p }) s)) ∧
    (chkMemFree p s = none → 
      let k := pObjK p s
      ¬(engineObj s = some k ∨ s.store.cold.any (fun c => c.obj == some k)) →
      Does (.memFree p) p s 0 (((tget s.store.objs k).map MemObj.pages).getD 0) 0 0 (releaseObj k s)) ∧
    (chkMemMapHost p s = none → 
      let fl := fld p 40 1
      let o : MemObj :=
        { ctx := p.ctx, va := newPage p s * 65536, pages := newPages p, host := true, hostAddr := fld p 32 8, read := fl.testBit 0
          write := fl.testBit 1, tier := 3 }
      let (k, s1) := addObj o s
      let s2 := mapPages k ((List.range (newPages p)).map (· + fld p 32 8 / 65536)) s1
      let x := tgetD s2.store.objs k
      Does (.memMapHost p) p s 0 (mkHandle x.gen k) (x.va % 2 ^ 32) (x.va / 2 ^ 32)
        s2) ∧
    (chkMemProtect p s = none → 
      let o := pObjD p s
      let r := (fld p 20 1).testBit 0
      let w := (fld p 20 1).testBit 1
      let inside := fun (q : Nat) => o.va / 65536 ≤ q && q < o.va / 65536 + o.pages
      let s1 := modObj (pObjK p s) (fun x => { x with read := r, write := w }) s
      Does (.memProtect p) p s 0 0 0 0
        (modCtx o.ctx (fun c => { c with pages := tmap c.pages fun q l => if inside q then { l with read := r, write := w } else l }) s1)) ∧
    (∀ (c : Nat), chkMemCopy p s = none → freeDma (pinDma p true s) = some c →
      let u := pinDma p true s
      Waits (.memCopy p) p s (takeLease 1 p.ctx c (u.time.now + (fld p 32 8 + 15) / 16 + 1000000) { u with
        store.dma := tput u.store.dma c
          { pkt := p, ctx := p.ctx, lease := u.sched.nextLease, start := u.time.now, convert := false
            arms := u.models.arms }
        store.rest := false })) ∧
    (chkMemPlace p s = none → moveOf s (pObjK p s) = none →
      ∃ t, exec (.memPlace p) s = .next (serveMoves (pObjK p s) t) ∧ HandedOn p t ∧ SameDevice p { s with
        store.moves := s.store.moves ++
          [{ obj := pObjK p s, target := fld p 20 1, pkts := [p], ms := if fld p 22 2 = 0 then 1000 else fld p 22 2 }] } t) ∧
    (∀ x, chkMemPlace p s = none → moveOf s (pObjK p s) = some x → x.pkts = [] → (pObjD p s).mstate = 1 →
      (engineObj s = some (pObjK p s) ∨ s.store.cold.any (fun c => c.obj == some (pObjK p s))) →
      let u := modMove (pObjK p s) (fun y => { y with stopping := true }) s
      Waits (.memPlace p) p s { u with
        store.moves := u.store.moves ++
          [{ obj := pObjK p s, target := fld p 20 1, pkts := [p], ms := if fld p 22 2 = 0 then 1000 else fld p 22 2 }] }) ∧
    (∀ x, chkMemPlace p s = none → moveOf s (pObjK p s) = some x → x.pkts = [] → (pObjD p s).mstate = 1 →
      ¬(engineObj s = some (pObjK p s) ∨ s.store.cold.any (fun c => c.obj == some (pObjK p s))) →
      let u := popMove (pObjK p s) (modObj (pObjK p s) (fun o => { o with mstate := 0 }) s)
      ∃ t, exec (.memPlace p) s = .next (serveMoves (pObjK p s) t) ∧ HandedOn p t ∧ SameDevice p { u with
        store.moves := u.store.moves ++
          [{ obj := pObjK p s, target := fld p 20 1, pkts := [p], ms := if fld p 22 2 = 0 then 1000 else fld p 22 2 }] } t) ∧
    (∀ x, chkMemPlace p s = none → moveOf s (pObjK p s) = some x → (x.pkts ≠ [] ∨ (pObjD p s).mstate ≠ 1) →
      joinsMove (pObjD p s) x (fld p 20 1) = false →
      Waits (.memPlace p) p s { s with
        store.moves := s.store.moves ++
          [{ obj := pObjK p s, target := fld p 20 1, pkts := [p], ms := if fld p 22 2 = 0 then 1000 else fld p 22 2
             deferred := fld p 20 1 == 2 && (pObjD p s).mstate == 1 }] }) ∧
    (∀ x, chkMemPlace p s = none → moveOf s (pObjK p s) = some x → (x.pkts ≠ [] ∨ (pObjD p s).mstate ≠ 1) →
      joinsMove (pObjD p s) x (fld p 20 1) = true →
      Waits (.memPlace p) p s (modMove (pObjK p s) (fun y => { y with pkts := y.pkts ++ [p] }) s)) ∧
    (chkMemPin p s = none → 
      let un := (fld p 20 1).testBit 0
      let s1 := modObj (pObjK p s) (fun o => { o with pinsMem := if un then o.pinsMem - 1 else o.pinsMem + 1 }) s
      Does (.memPin p) p s 0 (sat 16 (pinCount (pObjD p s1))) 0 0
        s1) ∧
    (firstFails [objChk p s] = none → 
      let o := pObjD p s
      Does (.memQuery p) p s 0 (o.tier + 4 * o.mstate + 16 * b2n o.manual + 65536 * sat 16 (pinCount o)) o.pages (poisonedFrames s o)
        s) ∧
    (held s = false → chkMemChannels p s = none → 
      let s1 := vwrite p.ctx (fld p 16 8) ((List.range 16).map (channelBytes s)).flatten s
      let s2 := if (fld p 24 1).testBit 0 then
          { s1 with store.channels := tmap s1.store.channels fun _ d => { d with corrected := 0, uncorrectable := 0, address := 0 } }
        else s1
      Does (.memChannels p) p s 0 (channelsOpen s).length (((List.range 16).map (channelFree s)).foldl (· + ·) 0) 0
        s2) ∧
    (chkMemChannelRetire p s = none → 
      Waits (.memChannelRetire p) p s (startRetire (fld p 16 1) (some p) s)) ∧
    (held s = false → chkMemColdIo p s = none → 
      let v := if fld p 17 1 = 1 then readWords 0 (fld p 40 8) (ioBytes p) s else s
      let u := pinIo p true v
      Waits (.memColdIo p) p s { u with
        store.cold := u.store.cold ++ [{ pkt := some p, deadline := u.time.now + 1000000000 }]
        out := u.out ++ [.nvme 0 (fld p 17 1) [fld p 16 1, fld p 20 4, fld p 24 8, fld p 32 4]] })

/-- The effect of each flight plan, panel and Mooring command where it completes, and with it its frame: everything outside the state written out and outside SameDevice is unchanged. Where a clause follows a choice of the model and no rule, it is that of log 9, 23, 45, 49. (R77, R125, R185, R187, R188, R190, R192, R206, R207) -/
def Obligations.PlanCommandsComplete : Prop :=
  ∀ (p : Pkt) (s : State), Passes p s →
    (held s = false → contWord p s (fld p 16 8) (fld p 24 4) 16 (firstFails (contFields p s (fld p 16 8) (fld p 24 4) 16 24)) = none → 
      let c := vread s p.ctx (fld p 16 8) (fld p 24 4)
      contCheck s p.ctx c none = none →
      let v := readWords p.ctx (fld p 16 8) (fld p 24 4) s
      let slot := (freeKey v.sched.plans 0 65535).getD 0
      let q := { planOfCont c p.ctx with gen := v.sched.planGen }
      Does (.planLoad p) p s 0 (mkHandle q.gen slot) q.legs.length 0
        (storePlan p slot q c { v with sched.planGen := nextGen v.sched.planGen })) ∧
    (∀ f, held s = false → contWord p s (fld p 16 8) (fld p 24 4) 16 (firstFails (contFields p s (fld p 16 8) (fld p 24 4) 16 24)) = none →
      contCheck s p.ctx (vread s p.ctx (fld p 16 8) (fld p 24 4)) none = some f → f.1 ≠ .ok →
      ∃ t, exec (.planLoad p) s = .next t ∧ Refused p f.1 f.2 t ∧ SameDevice p s t) ∧
    (chkPlanUnload p s = none → 
      let k := ((pPlan p s).map Prod.fst).getD 0
      let s1 := pinPlan p.ctx (pPlanD p s).objs false s
      Does (.planUnload p) p s 0 0 0 0
        (orphanSlots (fld p 16 4) (fun _ => false) { s1 with sched.plans := tdel s1.sched.plans k })) ∧
    (firstFails [planChk p s] = none → 
      let q := pPlanD p s
      Does (.planQuery p) p s 0 (q.legs.length % 65536 + 65536 * (q.gangSize % 64) + 2 ^ 22 * q.engine + 2 ^ 23 * b2n q.signed) (planRuns s (fld p 16 4)) q.reloads
        s) ∧
    (chkPlanRun p s = none → 
      let q := pPlanD p s
      let g := fld p 20 1
      let ring : Option InRing :=
        if fld p 32 8 = 0 then none else some { addr := fld p 32 8, itemSize := fld p 40 4, items := fld p 44 4 }
      let r : Run :=
        { kind := .packet p, ctx := p.ctx, tag := pTag p, plan := fld p 16 4, gang := g, level := queueLevel s p.ctx p.queue
          queue := p.queue, order := s.cmd.nextOrder, start := if fld p 24 4 = 0xFFFFFFFF then none else some (fld p 24 4)
          counter := if fld p 24 4 = 0xFFFFFFFF then q.entry else fld p 24 4, seed := fld p 28 4, ring := ring
          state := if ring.isSome then .idle else .ready }
      let s1 := { s with
        sched.runs := tput s.sched.runs s.sched.nextRun r, sched.nextRun := s.sched.nextRun + 1
        cmd.nextOrder := s.cmd.nextOrder + 1 }
      ∃ t, exec (.planRun p) s = .next (boundary g false t) ∧ HandedOn p t ∧ SameDevice p
        (match ring with | some x => pinRange p.ctx x.addr (x.items * x.itemSize) true s1 | none => s1) t) ∧
    (∀ k r, firstFails [runChk p s] = none → runByTag s p.ctx (fld p 16 4) = some (k, r) →
      ∃ t, exec (.planStop p) s = .next (if legExecutes s k r then t else workEnded (finishRun k .ok true t)) ∧ HandedOn p t ∧
        SameDevice p (modRun k (fun r => { r with stops := r.stops ++ [p] }) s) t) ∧
    (∀ k r, chkPlanFeed p s = none → runByTag s p.ctx (fld p 16 4) = some (k, r) →
      let q := r.ring.getD {}
      let n := q.tail + fld p 20 4
      DoesThen (.planFeed p) p s 0 n q.head 0
        (modRun k (fun r => { r with ring := some { q with tail := n }, state := if r.state = .idle then .ready else r.state }) s)
        (boundary r.gang false)) ∧
    (chkPlanBindEvent p s = none → 
      let k := (freeKey s.sched.binds 1 64).getD 0
      let b : EvBind :=
        { ctx := p.ctx, plan := fld p 16 4, gang := fld p 20 1, channel := fld p 21 1, queue := fld p 22 1 = 1, level := fld p 23 1
          limit := fld p 24 4, tag := pTag p }
      Does (.planBindEvent p) p s 0 k 0 0
        { s with sched.binds := tput s.sched.binds k b }) ∧
    (chkPlanUnbind p s = none → 
      let b := tgetD s.sched.binds (fld p 16 1)
      Does (.planUnbind p) p s 0 b.started b.drops 0
        (endBind (fld p 16 1) s)) ∧
    (chkGangStats p s = none → 
      let x := (gangOf s (fld p 16 1)).getD {}
      let s1 := if (fld p 17 1).testBit 0 then modGang (fld p 16 1) (fun x => { x with misses := 0, stall := 0, committed := 0 }) s else s
      Does (.gangStats p) p s 0 (sat 32 x.misses) (sat 32 (x.stall / 1000)) (sat 32 x.committed)
        s1) ∧
    (held s = false → chkPanelQuery p s = none → 
      let recs := (List.range 34).map (panelBytes s)
      Does (.panelQuery p) p s 0 (inService s).length (spares s).length (panelsIn s (· == .retired)).length
        (vwrite p.ctx (fld p 16 8) recs.flatten s)) ∧
    (held s = false → contWord p s (fld p 24 8) (fld p 20 4) 24 (firstFails (planChk p s :: contFields p s (fld p 24 8) (fld p 20 4) 24 20)) = none → 
      let c := vread s p.ctx (fld p 24 8) (fld p 20 4)
      let old := pPlanD p s
      contCheck s p.ctx c (some old) = none →
      let v := readWords p.ctx (fld p 24 8) (fld p 20 4) s
      let slot := ((pPlan p v).map Prod.fst).getD 0
      let q := { planOfCont c p.ctx with gen := old.gen, reloads := old.reloads + 1 }
      let u := storePlan p slot q c (pinPlan p.ctx old.objs false v)
      Does (.planReload p) p s 0 (fld p 16 4) q.legs.length 0
        (orphanSlots (fld p 16 4) (fun t => (planTags q).contains t)
          (reloadRuns (fld p 16 4) q (if thas u.casc.partition (fld p 16 4) then copyPlan p.ctx (fld p 16 4) u else u)))) ∧
    (held s = false → chkMoorLoad p s = none → 
      let v := readWords 0 (fld p 16 8) (fld p 24 4) s
      let n := fld p 24 4
      let r := vread v 0 (fld p 16 8) n
      let m := if n = 0 then tdel v.sched.models (fld p 28 1)
        else tput v.sched.models (fld p 28 1) { size := n, cycles := num r 12 4, outputs := num r 10 1, record := r }
      let s1 := { v with sched.models := m }
      Does (.moorLoad p) p s 0 (moorUsed s1) 0 0
        s1) ∧
    (
      let cyc := fun k => ((tget s.sched.models k).map MoorModel.cycles).getD 0
      Does (.moorQuery p) p s 0 (moorUsed s) (cyc 1) (cyc 2)
        s)

/-- The effect of each key-value pool and sequence command where it completes, and with it its frame: everything outside the state written out and outside SameDevice is unchanged. Where a clause follows a choice of the model and no rule, it is that of log 9, 24, 38. (R77, R229, R231, R233, R234, R235, R253, R254, R255, R256) -/
def Obligations.AttentionPoolCommandsComplete : Prop :=
  ∀ (p : Pkt) (s : State), Passes p s →
    (chkKvPoolCreate p s = none → 
      let q := poolOf p
      let k := (freeKey s.models.pools 1 255).getD 0
      Does (.kvPoolCreate p) p s 0 k (pageBytes q) (poolCharge q)
        (let (fs, s1) := allocFrames p.ctx (poolCharge q) s
     { s1 with models.pools := tput s1.models.pools k { q with frames := fs } })) ∧
    (chkKvPoolDestroy p s = none → 
      let k := fld p 16 1
      let n := (s.models.seqs.filter fun e => e.2.pool == k).length
      let s1 := freeFramesOf (tgetD s.models.pools k).frames s
      Does (.kvPoolDestroy p) p s 0 n 0 0
        { s1 with
    models.pools := tdel s1.models.pools k
    models.seqs := tkeep s1.models.seqs fun _ q => q.pool != k
    models.kvPages := tkeep s1.models.kvPages fun _ q => q.pool != k }) ∧
    (chkKvSeqCreate p s = none → 
      let k := fld p 16 1
      let (h, s1) := newSeq { pool := k, ctx := p.ctx, tables := List.replicate (tgetD s.models.pools k).layers [] } s
      Does (.kvSeqCreate p) p s 0 h 0 0
        s1) ∧
    (held s = false → (∀ k q, pSeq p s = some (k, q) → q.claimed = none) → chkKvFork p s = none → 
      let q := pSeqD p s
      let n := forkLen p s
      let tables := q.tables.map fun t => t.take ((n + 63) / 64)
      let s1 := tables.flatten.foldl (fun t pg => refPage pg t) s
      let (hd, s2) := newSeq { pool := q.pool, ctx := p.ctx, len := n, tables := tables } s1
      Does (.kvFork p) p s 0 hd tables.flatten.length 0
        s2) ∧
    (∀ k q, held s = false → pSeq p s = some (k, q) → q.claimed.isSome = true →
      firstFails ([seqChk p s] ++ ([[(64 ≤ kvQueued s q.pool, .eBusy, 0xFFFF)]] : List (List (Bool × Code × Nat)))) = none →
      Waits (.kvFork p) p s (pinKv p { s with models.kvQueue := s.models.kvQueue ++ [(k, p)] })) ∧
    (held s = false → (∀ k q, pSeq p s = some (k, q) → q.claimed = none) → chkKvTruncate p s = none → 
      let k := ((pSeq p s).map Prod.fst).getD 0
      let n := fld p 20 4
      let (gone, s1) := dropBeyond k n s
      Does (.kvTruncate p) p s 0 n gone 0
        (modSeq k (fun q => { q with len := n }) s1)) ∧
    (∀ k q, held s = false → pSeq p s = some (k, q) → q.claimed.isSome = true →
      firstFails ([seqChk p s] ++ ([[(64 ≤ kvQueued s q.pool, .eBusy, 0xFFFF)]] : List (List (Bool × Code × Nat)))) = none →
      Waits (.kvTruncate p) p s (pinKv p { s with models.kvQueue := s.models.kvQueue ++ [(k, p)] })) ∧
    (held s = false → (∀ k q, pSeq p s = some (k, q) → q.claimed = none) → chkKvFree p s = none → 
      let k := ((pSeq p s).map Prod.fst).getD 0
      let (gone, s1) := dropBeyond k 0 s
      Does (.kvFree p) p s 0 gone 0 0
        { s1 with models.seqs := tdel s1.models.seqs k }) ∧
    (∀ k q, held s = false → pSeq p s = some (k, q) → q.claimed.isSome = true →
      firstFails ([seqChk p s] ++ ([[(64 ≤ kvQueued s q.pool, .eBusy, 0xFFFF)]] : List (List (Bool × Code × Nat)))) = none →
      Waits (.kvFree p) p s (pinKv p { s with models.kvQueue := s.models.kvQueue ++ [(k, p)] })) ∧
    (held s = false → chkKvSeqQuery p s = none → 
      let k := ((pSeq p s).map Prod.fst).getD 0
      let q := pSeqD p s
      let tb := ((if q.claimed.isSome then q.before else q.tables).getD (fld p 20 1) []).take (tableLen q)
      let s1 := if fld p 24 8 = 0 then s else vwrite p.ctx (fld p 24 8) (tb.map (toLE 4)).flatten s
      Does (.kvSeqQuery p) p s 0 q.len (b2n q.claimed.isSome + 256 * (s.models.kvQueue.filter fun e => e.1 == k).length) (q.tables.length * tableLen q)
        s1) ∧
    (chkKvPageQuery p s = none → tget s.models.kvPages (fld p 16 4) = none → 
      Does (.kvPageQuery p) p s 0 0 0 0 s) ∧
    (∀ q, chkKvPageQuery p s = none → tget s.models.kvPages (fld p 16 4) = some q →
      Does (.kvPageQuery p) p s 0 (sat 16 q.refs + 65536 * q.state + 262144 * pageFill s (fld p 16 4))
        ((tgetD s.models.pools q.pool).ctx + 1024 * q.pool + 262144 * q.layer) (if q.state = 3 then q.freeEpoch else 0) s) ∧
    (held s = false → (∀ k q, pSeq p s = some (k, q) → q.claimed = none) → chkKvRead p s = none → 
      let v := kvFound (pSeqD p s) (fld p 20 1) (fld p 24 4) (fld p 28 4) s
      let q := pSeqD p v
      let n := fld p 28 4
      let rows := (List.range n).map fun i => fit (kvRowBytes v q) (kvRow v q (fld p 20 1) (fld p 24 4 + i))
      Does (.kvRead p) p s 0 n 0 0
        (vwrite p.ctx (fld p 32 8) rows.flatten v)) ∧
    (∀ k q, held s = false → pSeq p s = some (k, q) → q.claimed.isSome = true →
      firstFails (readStatic p s ++ ([[(64 ≤ kvQueued s q.pool, .eBusy, 0xFFFF)]] : List (List (Bool × Code × Nat)))) = none →
      Waits (.kvRead p) p s (pinKv p { s with models.kvQueue := s.models.kvQueue ++ [(k, p)] })) ∧
    (∀ k r, chkKvWait p s = none → runByTag s p.ctx (fld p 16 4) = some (k, r) → fld p 20 4 ≤ headOf r →
      Does (.kvWait p) p s 0 (headOf r) 0 0 s) ∧
    (∀ k r, chkKvWait p s = none → runByTag s p.ctx (fld p 16 4) = some (k, r) → headOf r < fld p 20 4 →
      Waits (.kvWait p) p s { s with models.kvWaits := s.models.kvWaits ++ [(k, fld p 20 4, p)] }) ∧
    (chkKvPoolQuery p s = none → 
      let k := fld p 16 1
      Does (.kvPoolQuery p) p s 0 (poolFree s k) (s.models.kvPages.filter fun e => e.2.pool == k && e.2.state == 3).length (s.models.seqs.filter fun e => e.2.pool == k).length
        s) ∧
    (held s = false → chkKvExport p s = none → 
      let v := (List.range (pSeqD p s).tables.length).foldl (fun t l => kvFound (pSeqD p s) l 0 (exportLen p s) t) s
      let q := pSeqD p v
      let P := tgetD v.models.pools q.pool
      let rows := (List.range P.layers).map fun l => ((List.range (exportLen p v)).map fun i => fit (kvRowBytes v q) (kvRow v q l i)).flatten
      let (b, s1) := makeParcel p 2 (seqRecord P (exportLen p v) ++ rows.flatten) v
      Does (.kvExport p) p s 0 b.length 0 0
        (vwrite p.ctx (fld p 24 8) b s1)) ∧
    (held s = false → chkKvImport p s = none → 
      let v := readWords p.ctx (fld p 16 8) (parcelAt s p.ctx (fld p 16 8)).length s
      let k := fld p 24 1
      let P := tgetD v.models.pools k
      let b := parcelAt v p.ctx (fld p 16 8)
      let pl := bundleOf p v
      let (tbs, s1) := (List.range P.layers).foldl (fun (ts, t) l => let (tb, t1) := importLayer P k l pl t; (ts ++ [tb], t1)) ([], v)
      let (h, s2) := newSeq { pool := k, ctx := p.ctx, len := bundleLen pl, tables := tbs } s1
      Does (.kvImport p) p s 0 h (bundleLen pl) 0
        (noteImport p.ctx 3 b s2))

/-- The effect of each recurrent stream command where it completes, and with it its frame: everything outside the state written out and outside SameDevice is unchanged. Where a clause follows a choice of the model and no rule, it is that of log 9, 24, 38. (R77, R259, R261, R268, R273, R274, R277, R281) -/
def Obligations.StreamCommandsComplete : Prop :=
  ∀ (p : Pkt) (s : State), Passes p s →
    (held s = false → chkStrmSetCreate p s = none → 
      let v := readWords p.ctx (fld p 24 8) (4 * fld p 16 1) s
      let q := newSetOf p v
      let k := (freeKey v.models.sets 1 255).getD 0
      Does (.strmSetCreate p) p s 0 k (strmBytes q) (strmFoot q)
        { v with models.sets := tput v.models.sets k q }) ∧
    (chkStrmSetDestroy p s = none → 
      let k := fld p 16 1
      let mine := (s.models.streams.filter fun e => e.2.set == k).map Prod.fst
      let s1 := mine.foldl (fun t i => endStrm i t) s
      Does (.strmSetDestroy p) p s 0 mine.length 0 0
        { s1 with models.sets := tdel s1.models.sets k }) ∧
    (held s = false → chkStrmStart p s = none → 
      let v := if fld p 24 8 = 0 then s else readWords p.ctx (fld p 24 8) (pSetBytes p s 16) s
      let n := pSetBytes p v 16
      let img := if fld p 24 8 = 0 then List.replicate n 0 else vread v p.ctx (fld p 24 8) n
      let (h, s1) := newStrm { set := fld p 16 1, ctx := p.ctx, active := !(fld p 17 1).testBit 0, seed := fld p 20 4 } img v
      Does (.strmStart p) p s 0 h 0 0
        s1) ∧
    (held s = false → (∀ k x, pStrm p s = some (k, x) → x.claimed = none) → chkStrmPause p s = none → 
      Does (.strmPause p) p s 0 (strmBytes (setOf s (pStrmD p s))) 0 0
        (pauseStrm (pStrmK p s) s)) ∧
    (∀ k x, held s = false → pStrm p s = some (k, x) → x.claimed.isSome = true →
      firstFails [[(64 ≤ strmQueued s x.set, .eBusy, 0xFFFF)]] = none →
      Waits (.strmPause p) p s (pinStrm p { s with models.strmQueue := s.models.strmQueue ++ [(k, p)] })) ∧
    (chkStrmResume p s = none → 
      Does (.strmResume p) p s 0 (strmBytes (setOf s (pStrmD p s))) 0 0
        (resumeStrm (pStrmK p s) s)) ∧
    (held s = false → (∀ k x, pStrm p s = some (k, x) → x.claimed = none) → chkStrmEnd p s = none → 
      let n := (pStrmD p s).steps
      Does (.strmEnd p) p s 0 n (n / 2 ^ 32) 0
        (endStrm (pStrmK p s) s)) ∧
    (∀ k x, held s = false → pStrm p s = some (k, x) → x.claimed.isSome = true →
      firstFails [[(64 ≤ strmQueued s x.set, .eBusy, 0xFFFF)]] = none →
      Waits (.strmEnd p) p s (pinStrm p { s with models.strmQueue := s.models.strmQueue ++ [(k, p)] })) ∧
    (firstFails [strmChk p s] = none → 
      let x := pStrmD p s
      let queued := (s.models.strmQueue.filter fun e => e.1 == pStrmK p s).length
      Does (.strmQuery p) p s 0 ((if x.active then 1 else 2) + 4 * b2n x.claimed.isSome + 8 * b2n x.enable + 256 * queued + 65536 * sat 16 x.excursions) x.steps (x.steps / 2 ^ 32)
        s) ∧
    (chkStrmSentinel p s = none → 
      let fl := fld p 28 1
      Does (.strmSentinel p) p s 0 (sat 32 (pStrmD p s).excursions) 0 0
        (modStrm (pStrmK p s) (fun x =>
    { x with enable := fl.testBit 0, pause := fl.testBit 1, lo := fld p 20 4, hi := fld p 24 4 }) s)) ∧
    (held s = false → (∀ k x, pStrm p s = some (k, x) → x.claimed = none) → chkStrmRead p s = none → 
      let v := readPhys (strmWords s (pStrmD p s)) s
      let x := pStrmD p v
      let n := strmBytes (setOf v x)
      Does (.strmRead p) p s 0 n 0 0
        (vwrite p.ctx (fld p 24 8) (fit n (strmState v x)) v)) ∧
    (∀ k x, held s = false → pStrm p s = some (k, x) → x.claimed.isSome = true →
      firstFails [[(64 ≤ strmQueued s x.set, .eBusy, 0xFFFF)]] = none →
      Waits (.strmRead p) p s (pinStrm p { s with models.strmQueue := s.models.strmQueue ++ [(k, p)] })) ∧
    (held s = false → (∀ k x, pStrm p s = some (k, x) → x.claimed = none) → chkStrmExport p s = none → 
      let v := readPhys (strmWords s (pStrmD p s)) s
      let x := pStrmD p v
      let st := setOf v x
      let (b, s1) := makeParcel p 1 (strmRecord st x ++ fit (strmBytes st) (strmState v x)) v
      let s2 := vwrite p.ctx (fld p 24 8) b s1
      let s3 := if (fld p 20 1).testBit 0 then endStrm (pStrmK p v) s2 else s2
      Does (.strmExport p) p s 0 b.length s1.models.exports 0
        s3) ∧
    (∀ k x, held s = false → pStrm p s = some (k, x) → x.claimed.isSome = true →
      firstFails [[(64 ≤ strmQueued s x.set, .eBusy, 0xFFFF)]] = none →
      Waits (.strmExport p) p s (pinStrm p { s with models.strmQueue := s.models.strmQueue ++ [(k, p)] })) ∧
    (held s = false → chkStrmImport p s = none → 
      let v := readWords p.ctx (fld p 16 8) (parcelAt s p.ctx (fld p 16 8)).length s
      let b := parcelAt v p.ctx (fld p 16 8)
      let pl := (parcelOpen b).getD []
      let x : Stream :=
        { set := fld p 24 1, ctx := p.ctx, active := !(fld p 25 1).testBit 0, seed := num pl 32 4, steps := num pl 40 8
          enable := (num pl 36 4).testBit 0, pause := (num pl 36 4).testBit 1, lo := num pl 48 4, hi := num pl 52 4 }
      let (h, s1) := newStrm x (pl.drop 64) v
      Does (.strmImport p) p s 0 h x.steps 0
        (noteImport p.ctx 2 b s1)) ∧
    (held s = false → chkStrmPeer p s = none → 
      let v := if fld p 16 8 = 0 then s else readWords p.ctx (fld p 16 8) 272 s
      let b := peerRec p v
      let to_ := if fld p 16 8 = 0 then [] else slice b 0 133
      let from_ := if fld p 16 8 = 0 then [] else slice b 136 133
      Does (.strmPeer p) p s 0 0 0 0
        (modCtx p.ctx (fun c => { c with peerTo := to_, peerFrom := from_ }) v))

/-- The effect of each camera command where it completes, and with it its frame: everything outside the state written out and outside SameDevice is unchanged. Where a clause follows a choice of the model and no rule, it is that of log 9, 29. (R77, R320, R321, R327, R328, R331, R332, R333) -/
def Obligations.CameraCommandsComplete : Prop :=
  ∀ (p : Pkt) (s : State), Passes p s →
    (chkCamQuery p s = none → 
      let n := pPort p
      let c := camOf s n
      let w0 := camState s n + 4 * b2n s.cams.gate + 8 * b2n c.pwrEn + 16 * c.owner
      let newest := if n = 12 then s.reel.frameNo else ((newestSlot c).map fun e => e.2.number).getD 0
      Does (.camQuery p) p s 0 w0 (newest % 2 ^ 32) (c.truncated + 65536 * c.dropped)
        s) ∧
    (chkCamAssign p s = none → (camOf s (pPort p)).owner = fld p 18 2 → 
      Does (.camAssign p) p s 0 0 0 0 s) ∧
    (chkCamAssign p s = none → (camOf s (pPort p)).owner ≠ fld p 18 2 → 
      Does (.camAssign p) p s 0 0 0 0 (modCam (pPort p) (fun c =>
        { owner := fld p 18 2, frameNo := c.frameNo, truncated := c.truncated, dropped := c.dropped, power := c.power
          pwrEn := c.pwrEn, latched := c.latched, doneCount := c.doneCount })
        ((windowsOf s (pPort p)).foldl (fun t w => dropWindow w t) s))) ∧
    (chkCamPort p s = none → 
      let cfg : CamPort :=
        { lanes := fld p 17 1, dt := fld p 18 1, vc := fld p 19 1, width := fld p 20 2, height := fld p 22 2, pattern := fld p 24 1
          laneMap := fld p 25 1, polarity := fld p 26 1, embedded := (fld p 27 1).testBit 0, rate := fld p 28 2
          minUs := fld p 32 4, maxUs := fld p 36 4 }
      Does (.camPort p) p s 0 0 0 0
        (modCam (pPort p) (fun c =>
    { c with port := some cfg, state := 1, sections := [], tables := [], enableMask := 0, paramSet := 0 }) s)) ∧
    (held s = false → chkCamParams p s = none → 
      let n := pPort p
      let blk := vread s p.ctx (fld p 24 8) 160
      let v := (loadedSections p).foldl (fun t i => readWords p.ctx (num (camSection blk i) 8 8) (secTable i (camSection blk i)) t)
        (readWords p.ctx (fld p 24 8) 160 s)
      let k := ((camOf v n).paramSet + 1) % 2 ^ 32
      let s1 := modCam n (fun c =>
        { c with
          enableMask := fld p 20 2, paramSet := k
          sections := (loadedSections p).foldl (fun t i => tput t i (camSection blk i)) c.sections
          tables := (loadedSections p).foldl (fun t i =>
            let sec := camSection blk i
            tput t i (vread v p.ctx (num sec 8 8) (secTable i sec))) c.tables }) v
      Does (.camParams p) p s 0 k 0 0
        s1) ∧
    (chkCamOutput p s = none → 
      let n := pPort p
      let o := outputOf p
      let old := (((camOf s n).out).getD {}).size / 65536
      let wins := windowsOf s n
      let s1 := wins.foldl (fun t w =>
        let x := tgetD t.cams.windows w
        modCtx x.ctx (fun c => { c with pages := tkeep c.pages fun k _ => !(x.va / 65536 ≤ k && k < x.va / 65536 + old) }) t) s
      let s2 := modCam n (fun c => { c with out := some o, slots := [] }) s1
      Does (.camOutput p) p s 0 o.size 0 0
        (wins.foldl (fun t w => mapWindow w 0 t) s2)) ∧
    (chkCamStart p s = none → 
      Does (.camStart p) p s 0 0 0 0
        (modCam (pPort p) (fun c => { c with state := 2 }) s)) ∧
    (chkCamStop p s = none → (camOf s (pPort p)).frame.isSome = true → 
      Waits (.camStop p) p s (modCam (pPort p) (fun c => { c with stop := c.stop ++ [p] }) s)) ∧
    (chkCamStop p s = none → (camOf s (pPort p)).frame = none → 
      let n := pPort p
      (camOf s n).stop = [] → (camOf s n).waits = [] →
      Does (.camStop p) p s 0 ((((newestSlot (camOf s n)).map fun e => e.2.number).getD 0) % 2 ^ 32) 0 0 (modCam n (fun c =>
        { c with state := if c.state = 2 then 1 else c.state, frame := none, finishing := [], stop := [], waits := [] })
        (modCam n (fun c => { c with stop := c.stop ++ [p] }) s))) ∧
    (chkCamPower p s = none → 
      let n := pPort p
      let lv := fld p 17 1 == 1
      Does (.camPower p) p s 0 0 0 0
        (modCam n (fun c =>
    let d := { c with power := lv }
    { d with pwrEn := if s.cams.gate then false else pwrLevel s n d }) s)) ∧
    (chkCamSync p s = none → 
      let ch := fld p 17 1
      Does (.camSync p) p s 0 0 0 0
        (modCam (pPort p) (fun c =>
    { c with sync := if ch = 0xFF then none else some ch, syncHigh := fld p 18 1 == 1, syncWidth := fld p 20 2, fsync := false }) s)) ∧
    (chkCamWindow p s = none → winDestroy p = true → 
      Does (.camWindow p) p s 0 (fld p 18 2) 0 0 (dropWindow (fld p 18 2) s)) ∧
    (chkCamWindow p s = none → winDestroy p = false → 
      let w := (freeKey s.cams.windows 1 0xFFFF).getD 1
      Does (.camWindow p) p s 0 w 0 0 (mapWindow w 0 { s with
        cams.windows := tput s.cams.windows w { port := pPort p, ctx := p.ctx, va := fld p 24 8 } })) ∧
    (chkCamAttach p s = none → 
      let w := fld p 16 2
      let b := fld p 18 1
      let bind : Option Nat := if b = 0 then none else some b
      let binds := tmap s.sched.binds fun k x =>
        let rest := x.windows.filter (· != w)
        { x with windows := if some k = bind then rest ++ [w] else rest }
      Does (.camAttach p) p s 0 0 0 0
        { s with cams.windows := tupd s.cams.windows w fun x => { x with binding := bind }, sched.binds := binds }) ∧
    (∀ i x, chkCamWait p s = none → waitSlot (camOf s (pPort p)) (fld p 24 8) = some (i, x) →
      Does (.camWait p) p s (if x.muted then nMuted else 0) i (x.number % 2 ^ 32) (x.number / 2 ^ 32) s) ∧
    (chkCamWait p s = none → waitSlot (camOf s (pPort p)) (fld p 24 8) = none →
      Waits (.camWait p) p s (modCam (pPort p) (fun c => { c with waits := c.waits ++ [(fld p 24 8, p)] }) s)) ∧
    (held s = false → chkCamPresence p s = none → 
      let v := if fld p 24 8 = 0 then s else readWords p.ctx (fld p 24 8) 514 s
      let va := fld p 24 8
      Does (.camPresence p) p s 0 0 0 0
        { v with
    cams.presFlags := fld p 16 1, cams.presBlack := fld p 18 2, cams.presGain := fld p 20 2, cams.presRate := fld p 22 2
    cams.presCurve := if va = 0 then [] else vread v p.ctx va 514 })

/-- The effect of each audio command where it completes, and with it its frame: everything outside the state written out and outside SameDevice is unchanged. Where a clause follows a choice of the model and no rule, it is that of log 30. (R77, R341, R342, R345, R347, R352, R353) -/
def Obligations.AudioCommandsComplete : Prop :=
  ∀ (p : Pkt) (s : State), Passes p s →
    (
      let (w0, w1, w2) := audWords s
      Does (.audQuery p) p s 0 w0 w1 w2
        s) ∧
    (chkAudAssign p s = none → 
      let u := fld p 16 1
      let h := fld p 18 2
      Does (.audAssign p) p s 0 0 0 0
        (
    if u = 0 then { s with audio.arrayOwner := h }
    else if (i2sOf s (u - 1)).owner = h then s
    else modI2s (u - 1) (fun q => { owner := h, micClass := q.micClass }) s)) ∧
    (chkAudClock p s = none → 
      Does (.audClock p) p s 0 0 0 0
        { s with audio.clk1Next := some (fld p 16 1) }) ∧
    (held s = false → chkAudLp p s = none → 
      let v := readWords p.ctx (fld p 16 8) 64 s
      Does (.audLp p) p s 0 0 0 0
        { v with audio.lpNext := some (vread v p.ctx (fld p 16 8) 64) }) ∧
    (held s = false → chkAudBeam p s = none → 
      let v := readWords p.ctx (fld p 24 8) 64 s
      Does (.audBeam p) p s 0 0 0 0
        { v with
    audio.beamsNext := tput v.audio.beamsNext (fld p 16 1) (vread v p.ctx (fld p 24 8) 64)
    audio.dcNext := some ((fld p 17 1).testBit 0) }) ∧
    (chkAudCapture p s = none → fld p 17 1 = 0 → 
      Does (.audCapture p) p s 0 0 0 0 { s with audio.rings := tdel s.audio.rings (fld p 16 1) }) ∧
    (chkAudCapture p s = none → fld p 17 1 ≠ 0 → 
      let c : Capture :=
        { owner := p.ctx, channels := fld p 17 1, rate := fld p 18 1, fmt := fld p 19 1, blocks := fld p 20 4, addr := fld p 24 8
          sources := captureSources p }
      Does (.audCapture p) p s 0 (blockBytes c) 0 0 { s with audio.rings := tput s.audio.rings (fld p 16 1) c }) ∧
    (chkAudStart p s = none → 
      Does (.audStart p) p s 0 0 0 0
        { s with audio.rings := tupd s.audio.rings (fld p 16 1) fun c => { c with starting := true, block := 0 } }) ∧
    (chkAudStop p s = none → 
      Waits (.audStop p) p s { s with
        audio.rings := tupd s.audio.rings (fld p 16 1) fun c => { c with stop := c.stop ++ [p] } }) ∧
    (chkAudI2s p s = none → 
      Does (.audI2s p) p s 0 0 0 0
        (modI2s (fld p 16 1) (fun q =>
    { owner := q.owner, configured := true, mode := fld p 17 1, target := fld p 18 1 == 1, rate := fld p 19 1, slots := fld p 20 1
      width := fld p 21 1, dataWidth := fld p 22 1, flags := fld p 23 1, micClass := q.micClass || (fld p 23 1).testBit 0
      play := q.play }) s)) ∧
    (held s = false → chkAudPlay p s = none → playStop p = true → 
      Does (.audPlay p) p s 0 (playBytes (i2sOf s (fld p 16 1))) 0 0
        (modI2s (fld p 16 1) (fun q => { q with play := q.play.map fun g => { g with running := false } }) s)) ∧
    (held s = false → chkAudPlay p s = none → playStop p = false → 
      let g : Play :=
        { addr := fld p 24 8, blocks := fld p 20 4, running := true
          point := if fld p 32 8 = 0 then s.time.now else max (fld p 32 8) s.time.now }
      Does (.audPlay p) p s 0 (playBytes (i2sOf s (fld p 16 1))) 0 0
        (modI2s (fld p 16 1) (fun q => { q with play := some g }) (vwrite p.ctx (g.addr + 4) (List.replicate 12 0) s))) ∧
    (∀ c, chkAudWait p s = none → tget s.audio.rings (fld p 16 1) = some c → ringHolds s (fld p 16 1) (fld p 24 8) = true →
      Does (.audWait p) p s (waitNotes c.lastFlags) ((c.block - 1) % c.blocks) (c.block % 2 ^ 32) (c.block / 2 ^ 32) s) ∧
    (∀ c, chkAudWait p s = none → tget s.audio.rings (fld p 16 1) = some c → ringHolds s (fld p 16 1) (fld p 24 8) = false →
      Waits (.audWait p) p s { s with
        audio.rings := tput s.audio.rings (fld p 16 1) { c with waits := c.waits ++ [(fld p 24 8, p)] } })

/-- The effect of each time and event channel command where it completes, and with it its frame: everything outside the state written out and outside SameDevice is unchanged. Where a clause follows a choice of the model and no rule, it is that of log 31. (R77, R362, R370, R371, R372, R382, R383) -/
def Obligations.TimeAndEventCommandsComplete : Prop :=
  ∀ (p : Pkt) (s : State), Passes p s →
    (held s = false → chkTkQuery p s = none → 
      Does (.tkQuery p) p s 0 (s.time.now % 2 ^ 32) (s.time.now / 2 ^ 32) (unsigned 32 (reportedResidual s))
        (vwrite p.ctx (fld p 16 8) (timeRecord s) s)) ∧
    (chkTkConfig p s = none → 
      let fl := fld p 18 1
      let adj := (List.range 4).map fun i => signed 16 (fld p (20 + 2 * i) 2)
      let pb := fl.testBit 2
      let s1 := { s with
        time.domA := setDomain (fl.testBit 0) (fld p 16 1) (bits (fld p 19 1) 1 0) s.time.domA
        time.domB := setDomain (fl.testBit 1) (fld p 17 1) (bits (fld p 19 1) 3 2) s.time.domB
        time.preferB := pb, time.revertive := fl.testBit 3, time.adjust := adj
        time.switched := if pb = s.time.preferB then s.time.switched else false }
      Does (.tkConfig p) p s 0 0 0 0
        (reselect s1)) ∧
    (chkTkSelect p s = none → 
      let d := fld p 16 1
      Does (.tkSelect p) p s 0 0 0 0
        (
    if d = 2 then reselect { s with time.forced := false }
    else if s.time.sel = d then { s with time.forced := true }
    else
      let s1 := selectDom d (leaveDom s)
      let s2 := { s1 with time.forced := true }
      if s.time.sel < 2 then glbEvent 5 s2 else s2)) ∧
    (chkEvAssign p s = none → 
      Does (.evAssign p) p s 0 0 0 0
        (modEv (fld p 16 1) (fun e => { e with owner := fld p 18 2 }) s)) ∧
    (chkEvConfig p s = none → 
      let n := fld p 16 1
      let s0 := if fireDue n s then settle (fireTrigger n false s) else s
      let s1 := modEv n (imageEv p) s0
      let e := evOf s1 n
      let late := evMode e == 1 && evArm e && diff48 e.cmp.toNat (now48 s1) ≤ 0
      let s2 := if late then settle (fireTrigger n true s1) else s1
      Does (.evConfig p) p s 0 (evOf s2 n).stat.toNat 0 0
        s2) ∧
    (held s = false → chkEvQuery p s = none → 
      let e := evOf s (fld p 16 1)
      let (cnt, lost) := evCounts e
      Does (.evQuery p) p s 0 e.stat.toNat cnt lost
        (vwrite p.ctx (fld p 24 8) (evBlock e) s)) ∧
    (held s = false → chkEvReadCapture p s = none → 
      let n := fld p 16 1
      let k := captureCount p s
      let s1 := vwrite p.ctx (fld p 24 8) (((evOf s n).fifo.take k).map (toLE 8)).flatten s
      Does (.evReadCapture p) p s 0 k 0 0
        (modEv n (fun e => { e with fifo := e.fifo.drop k }) s1))

/-- The effect of each network and Gweug command where it completes, and with it its frame: everything outside the state written out and outside SameDevice is unchanged. Where a clause follows a choice of the model and no rule, it is that of log 9, 32. (R77, R373, R375, R376, R377, R380, R381, R382, R383) -/
def Obligations.NetworkCommandsComplete : Prop :=
  ∀ (p : Pkt) (s : State), Passes p s →
    (held s = false → chkNetConfig p s = none → 
      let v := readWords p.ctx (fld p 24 8) 256 s
      let n := fld p 16 1
      let r := vread v p.ctx (fld p 24 8) 256
      let fl := num r 0 1
      let e := ethOf v n
      let same := e.enable && fl.testBit 0 && e.tenG == fl.testBit 1 && e.autoneg == fl.testBit 2 && e.fec == num r 1 1
      let s1 := if fl.testBit 0 then v else closeGwPort n (closePort n v)
      let s2 := modEth n (fun e =>
        { e with
          enable := fl.testBit 0, tenG := fl.testBit 1, autoneg := fl.testBit 2, vlan := fl.testBit 3, fec := num r 1 1
          mtu := num r 2 2, mac := slice r 4 6, tci := num r 10 2, addrs := slice r 16 112
          up := e.up && same, anDone := e.anDone && same, neighbors := if same then e.neighbors else [] }) s1
      Does (.netConfig p) p s 0 0 0 0
        { s2 with net.gwPort := if num r 12 2 = 0 then s2.net.gwPort else num r 12 2 }) ∧
    (chkNetQuery p s = none → 
      let n := fld p 16 1
      let e := ethOf s n
      let w0 := b2n e.up + 2 * b2n (!e.tenG) + 4 * e.fec + 16 * b2n e.anDone + 32 * b2n (chanRetired s 6 n)
      let s1 := if (fld p 17 1).testBit 0 then modEth n (fun e => { e with discards := 0, sockDrops := 0 }) s else s
      Does (.netQuery p) p s 0 w0 e.discards e.sockDrops
        s1) ∧
    (chkNetBind p s = none → bindClose p = true → 
      Does (.netBind p) p s 0 (fld p 22 2) 0 0 { s with net.socks := tdel s.net.socks (fld p 22 2) }) ∧
    (chkNetBind p s = none → bindClose p = false → 
      let h := (freeKey s.net.socks 1 256).getD 1
      Does (.netBind p) p s 0 h 0 0 { s with
        net.socks := tput s.net.socks h
          { ctx := p.ctx, port := fld p 17 1, addr := fld p 18 1, udp := fld p 20 2, slots := fld p 24 2, size := fld p 28 4
            ring := fld p 32 8 } }) ∧
    (held s = false → chkNetSend p s = none → 
      let v := readWords p.ctx (fld p 40 8) (fld p 48 2) s
      let n := sendPort p v
      let hop := nextHop (ethOf v n) (sendIp p)
      let data := vread v p.ctx (fld p 40 8) (fld p 48 2)
      let x : Sending :=
        { pkt := p, level := queueLevel v p.ctx p.queue, time := v.time.now, data := data, hop := hop, sum := builtSum p n data v }
      (isGroup (sendIp p) || (ethOf v n).neighbors.contains hop) = true →
      Waits (.netSend p) p s (modEth n (fun e => { e with sending := e.sending ++ [x] }) v)) ∧
    (held s = false → chkNetSend p s = none → 
      let v := readWords p.ctx (fld p 40 8) (fld p 48 2) s
      let n := sendPort p v
      let hop := nextHop (ethOf v n) (sendIp p)
      let data := vread v p.ctx (fld p 40 8) (fld p 48 2)
      let x : Sending :=
        { pkt := p, level := queueLevel v p.ctx p.queue, time := v.time.now, data := data, hop := hop, sum := builtSum p n data v }
      (isGroup (sendIp p) || (ethOf v n).neighbors.contains hop) = false →
      Waits (.netSend p) p s { modEth n (fun e => { e with resolving := e.resolving ++ [x] }) v with
        out := v.out ++ [.dgram 4 n hop 0 [] (vlanTag v n)] }) ∧
    (held s = false → chkGwFleet p s = none → 
      let v := if gwOp p = 1 then readWords p.ctx (fld p 24 8) (160 * fld p 20 4) s else s
      let first := fld p 18 2
      let n := fld p 20 4
      let inside := fun k => first ≤ k && k < first + n
      let s1 := match gwOp p with
        | 0 => { v with net.own := some first }
        | 1 =>
          let t := { v with net.gws := tkeep v.net.gws fun _ q => !inside q.peer || fleetEntry p v (q.peer - first) == memberOf v q.peer }
          { t with net.fleet := (List.range n).foldl (fun f i => tput f (first + i) (fleetEntry p v i)) v.net.fleet }
        | _ => { v with net.gws := tkeep v.net.gws fun _ q => !inside q.peer, net.fleet := tkeep v.net.fleet fun k _ => !inside k }
      Does (.gwFleet p) p s 0 (validMembers s1) 0 0
        s1) ∧
    (held s = false → chkGwInbox p s = none → gwOp p = 0 → 
      let b : Inbox := { ctx := p.ctx, slots := fld p 20 4, size := fld p 24 4, addr := fld p 32 8 }
      let s1 := (List.range (fld p 20 4)).foldl (fun t i => vwrite p.ctx (b.addr + i * b.size + 60) (toLE 4 0) t) s
      Does (.gwInbox p) p s 0 0 0 0 { s1 with net.inboxes := tput s1.net.inboxes (fld p 18 2) b }) ∧
    (held s = false → chkGwInbox p s = none → gwOp p = 1 → 
      Does (.gwInbox p) p s 0 0 0 0 (closeInbox (fld p 18 2) s)) ∧
    (held s = false → chkGwInbox p s = none → 2 ≤ gwOp p → 
      let b := tgetD s.net.inboxes (fld p 18 2)
      let c := { b with full := b.full.filter (· != fld p 20 4) }
      let s1 := if b.full.contains (fld p 20 4) then vwrite p.ctx (b.addr + fld p 20 4 * b.size + 60) (toLE 4 0) s else s
      Does (.gwInbox p) p s 0 c.full.length 0 0 { s1 with net.inboxes := tput s1.net.inboxes (fld p 18 2) c }) ∧
    (held s = false → chkGwSend p s = none → 
      let v := readWords p.ctx (fld p 24 8) (fld p 32 4) s
      let k := fld p 16 2
      let o := match gwWith v k with
        | some (id, _) => (id, v)
        | none => sendHello k v
      let q := tgetD o.2.net.gws o.1
      let x : GwOut :=
        { pkt := p, session := o.1, id := q.nextTransfer, inbox := fld p 18 2, parcel := vread v p.ctx (fld p 24 8) (fld p 32 4)
          chunk := chunkSize v k, last := v.time.now, deadlineMs := if fld p 20 4 = 0 then 2000 else fld p 20 4 }
      let u := modGw o.1 (fun q => { q with nextTransfer := q.nextTransfer + 1 }) o.2
      ∃ t, exec (.gwSend p) s = .next (if q.phase = 3 then offer x t else t) ∧ HandedOn p t ∧
        SameDevice p { u with net.gwOut := u.net.gwOut ++ [x] } t) ∧
    (
      let open_ := (s.net.gws.filter fun e => e.2.phase == 3).length
      Does (.gwQuery p) p s 0 open_ (s.net.own.getD 0xFFFF) (s.net.gwOut.length + s.net.gwIn.length)
        s)

/-- The effect of each safety command where it completes, and with it its frame: everything outside the state written out and outside SameDevice is unchanged. Where a clause follows a choice of the model and no rule, it is that of log 34. (R77, R391, R407, R408, R409, R410, R411) -/
def Obligations.SafetyCommandsComplete : Prop :=
  ∀ (p : Pkt) (s : State), Passes p s →
    (
      Does (.safeQuery p) p s 0 (safeWord s) s.safe.seq (deviceScore s)
        s) ∧
    (held s = false → chkSafeLogRead p s = none → 
      let rs := logRecs p s
      Does (.safeLogRead p) p s 0 rs.length (logLost p s) 0
        (vwrite p.ctx (fld p 24 8) (rs.map safeRecBytes).flatten s)) ∧
    (held s = false → chkSafeChannels p s = none → 
      Does (.safeChannels p) p s 0 (allChannels.filter fun c => chanState s c == 0).length (retiredCount s) 0
        (vwrite p.ctx (fld p 16 8) (allChannels.map (chanBytes s)).flatten s)) ∧
    (held s = false → chkSafeConfig p s = none → 
      let v := if fld p 16 8 = 0 then s else readWords 0 (fld p 16 8) 64 s
      let a := fld p 16 8
      Does (.safeConfig p) p s 0 0 0 0
        { v with safe.cfg := if a = 0 then {} else safeCfgOf (vread v 0 a 64) }) ∧
    (chkSafeRetire p s = none → 
      let k := chKey (fld p 16 1) (fld p 17 1)
      ∃ t, exec (.safeRetire p) s = .next (workEnded (boundaries (settleTiers (settle t)))) ∧ HandedOn p t ∧ SameDevice p
        { s with safe.chans := tmod s.safe.chans k fun c => { c with due := true, retirePkts := c.retirePkts ++ [p] } } t) ∧
    (chkSafeClear s = none → 
      Does (.safeClear p) p s 0 0 0 0
        (safetyPins { s with safe.signalled := false })) ∧
    (chkSafeInject p s = none → 
      ∃ t, exec (.safeInject p) s = .next (workEnded (boundaries (settleTiers (serveInjects t)))) ∧ HandedOn p t ∧ SameDevice p
        { s with safe.injects := s.safe.injects ++ [p] } t) ∧
    (chkSafeE2e p s = none → 
      Does (.safeE2e p) p s 0 0 0 0
        { s with sched.binds := tupd s.sched.binds (fld p 16 1) fun b => { b with maxAge := fld p 20 4 } }) ∧
    (
      DoesThen (.safeEnter p) p s 0 0 0 0 (enterSafe s) workEnded) ∧
    (chkSafeSelftest p s = none → 
      let k := chKey (fld p 16 1) (fld p 17 1)
      ∃ t, exec (.safeSelftest p) s = .next (match unitGang t (fld p 16 1) (fld p 17 1) with
          | some g => boundary g false t
          | none => testFree k t) ∧
        HandedOn p t ∧ SameDevice p (modTest k (fun x => { x with pkts := x.pkts ++ [p] }) s) t)

/-- The effect of each power and pad command where it completes, and with it its frame: everything outside the state written out and outside SameDevice is unchanged. Where a clause follows a choice of the model and no rule, it is that of log 33. (R77, R414, R417, R421, R423, R429, R430) -/
def Obligations.PowerCommandsComplete : Prop :=
  ∀ (p : Pkt) (s : State), Passes p s →
    (held s = false → chkPwrQuery p s = none → 
      let w0 := pCode s.power.state + 8 * s.power.cap + 1024 * effCap s + 131072 * s.power.held
      let s1 := if fld p 16 8 = 0 then s else vwrite p.ctx (fld p 16 8) (powerRec s) s
      Does (.pwrQuery p) p s 0 w0 (avgPower s) (unsigned 32 s.power.hottest)
        s1) ∧
    (chkPwrCap p = none → 
      let u := { s with power.cap := fld p 16 1, power.p0Floor := fld p 17 1, power.pt0 := max s.power.pt0 (fld p 17 1) }
      (s.power.pt0 < fld p 17 1 → DoesThen (.pwrCap p) p s 0 0 0 0 u fun t => boundaries (trimState (glbEvent 3 t))) ∧
      (fld p 17 1 ≤ s.power.pt0 → Does (.pwrCap p) p s 0 0 0 0 u)) ∧
    (chkPwrPolicy p = none → 
      Does (.pwrPolicy p) p s 0 0 0 0
        { s with power.floor := fld p 16 1, power.netDrop := (fld p 17 1).testBit 0, power.dormantS := fld p 18 2 }) ∧
    (chkPwrWake p s = none → 
      Does (.pwrWake p) p s 0 0 0 0
        { s with
      power.i2c := fld p 16 1, power.nack := (fld p 17 1).testBit 0, power.gpioEn := fld p 18 1, power.gpioPol := fld p 19 1
      power.gpioEdge := fld p 20 1, power.wakeFlags := fld p 21 1 }) ∧
    (chkPwrEnter p s = none → 
      Does (.pwrEnter p) p s 0 0 0 0
        { s with power.enter := some (fld p 16 1, s.time.now + fld p 18 2 * 1000000), power.lapsed := false }) ∧
    (chkPadsRelease p s = none → 
      let s1 := releasePads (fld p 16 1) s
      Does (.padsRelease p) p s 0 (fld p 16 1) s1.power.held 0
        s1) ∧
    (
      Does (.pwrPads p) p s 0 0 0 0
        (releasePads (fld p 16 1) { s with power.autoPads := fld p 16 1 }))

/-- The effect of each start journal, security and update command where it completes, and with it its frame: everything outside the state written out and outside SameDevice is unchanged. Where a clause follows a choice of the model and no rule, it is that of log 35, 44. (R77, R435, R439, R441, R442, R443, R445, R446, R448, R449, R450, R451) -/
def Obligations.SecurityAndUpdateCommandsComplete : Prop :=
  ∀ (p : Pkt) (s : State), Passes p s →
    (held s = false → chkBootJournal p s = none → 
      let x := (s.boot.journal.reverse.drop (fld p 16 1)).head?.getD {}
      Does (.bootJournal p) p s 0 x.entries.length x.number 0
        (vwrite p.ctx (fld p 24 8) (startBytes x) s)) ∧
    (chkBootRetry p = none → 
      let l := retrySteps (fld p 16 4)
      Does (.bootRetry p) p s 0 (retryCount (fld p 16 4) s) 0 0
        { s with boot.retry := s.boot.retry.filter (fun n => !l.contains n) ++ l }) ∧
    (held s = false → chkSecCert p s = none → 
      let c := Config.certChain.take 16384
      Does (.secCert p) p s 0 c.length 0 0
        (vwrite p.ctx (fld p 16 8) c s)) ∧
    (held s = false → chkSecAttest p s = none → 
      let b := attestBody s (fld p 16 2) (slice p.bytes 32 32)
      let sig := toLE 132 (Config.ecdsaSign s.freeCtr b).toNat
      Does (.secAttest p) p s 0 516 0 0
        (vwrite p.ctx (fld p 24 8) (b ++ sig) { s with freeCtr := s.freeCtr + 1 })) ∧
    (chkSecPair s = none → 
      let good := (List.range (1)).all fun i => Config.seAnswers (s.freeCtr + i)
      (good = true → Does (.secPair p) p s 0 1 0 0
        { s with freeCtr := s.freeCtr + 1, boot.paired := true }) ∧
      (good = false → ∃ t, exec (.secPair p) s = .next t ∧ Refused p .eTransient 0 t ∧ SameDevice p { s with freeCtr := s.freeCtr + (1) } t)) ∧
    (held s = false → chkSecOwner p s = none → 
      let good := (List.range (1)).all fun i => Config.seAnswers (s.freeCtr + i)
      (good = true → Does (.secOwner p) p s 0 (keyIdOf (slice (ownerTransfer p s) 0 133) % 2 ^ 32) (keyIdOf (slice (ownerTransfer p s) 0 133) / 2 ^ 32) 0
        (readWords 0 (fld p 16 8) 268
          { s with freeCtr := s.freeCtr + 1, boot.owner := keyIdOf (slice (ownerTransfer p s) 0 133) })) ∧
      (good = false → ∃ t, exec (.secOwner p) s = .next t ∧ Refused p .eTransient 0 t ∧ SameDevice p { s with freeCtr := s.freeCtr + (1) } t)) ∧
    (held s = false → chkSecConfig p s = none → 
      let good := Config.seAnswers s.freeCtr && Config.seAnswers (s.freeCtr + 1)
      let kept := Config.norVerifies (s.freeCtr + 2)
      (good = true → kept = true → Does (.secConfig p) p s 0 (lowerCopy s) 0 0
        (readWords 0 (fld p 16 8) (fld p 24 4)
          { s with freeCtr := s.freeCtr + 3, boot.copies := tput s.boot.copies (lowerCopy s) (recordFrom (recordBytes p s)) })) ∧
      (good = true → kept = false → ∃ t, exec (.secConfig p) s = .next t ∧ Refused p .eLowerTier 0 t ∧
        SameDevice p { s with freeCtr := s.freeCtr + 3 } t) ∧
      (good = false → ∃ t, exec (.secConfig p) s = .next t ∧ Refused p .eTransient 0 t ∧
        SameDevice p { s with freeCtr := s.freeCtr + 2 } t)) ∧
    (chkSecFloor s = none → 
      let good := (List.range ((bitsOf 2 (fld p 16 1)).length)).all fun i => Config.seAnswers (s.freeCtr + i)
      (good = true → Does (.secFloor p) p s 0 (raisedFloors (fld p 16 1) s).1 (raisedFloors (fld p 16 1) s).2 0
        { s with
          freeCtr := s.freeCtr + (bitsOf 2 (fld p 16 1)).length, boot.fwFloor := (raisedFloors (fld p 16 1) s).1
          boot.cfgFloor := (raisedFloors (fld p 16 1) s).2 }) ∧
      (good = false → ∃ t, exec (.secFloor p) s = .next t ∧ Refused p .eTransient 0 t ∧ SameDevice p { s with freeCtr := s.freeCtr + ((bitsOf 2 (fld p 16 1)).length) } t)) ∧
    (held s = false → chkUpdStage p s = none → 
      let v := readWords 0 (fld p 16 8) (fld p 24 4) s
      Waits (.updStage p) p s { v with
        boot.updStage := 1, boot.updBusy := true, boot.updSlot := idleSlot v, boot.updImage := imageFrom (stageBytes p v)
        boot.updPkt := some p }) ∧
    (chkUpdActivate s = none → 
      Waits (.updActivate p) p s { s with boot.updStage := 2, boot.updBusy := true, boot.updPkt := some p }) ∧
    (chkUpdCancel s = none → 
      Does (.updCancel p) p s 0 s.boot.updStage 0 0
        (cancelUpdate .eCheck s)) ∧
    (chkUpdQuery s = none → 
      Does (.updQuery p) p s 0 s.boot.updStage s.boot.updImage.fwver s.boot.updImage.secver
        s)

/-- The effect of each quantisation command where it completes, and with it its frame: everything outside the state written out and outside SameDevice is unchanged. Where a clause follows a choice of the model and no rule, it is that of log 9, 27. (R77, R163, R164, R165, R166) -/
def Obligations.StatisticsCommandsComplete : Prop :=
  ∀ (p : Pkt) (s : State), Passes p s →
    (chkQstatArm p s = none → 
      let k := (freeKey s.models.qslots 1 256).getD 0
      let q : QSlot := { ctx := p.ctx, plan := fld p 16 4, tag := fld p 20 1, channels := fld p 22 2, arm := s.models.arms + 1 }
      Does (.qstatArm p) p s 0 k 0 0
        { s with models.qslots := tput s.models.qslots k q, models.arms := s.models.arms + 1 }) ∧
    (firstFails [slotChk p s] = none → 
      Does (.qstatDisarm p) p s 0 (pSlotD p s).legsArm 0 0
        { s with models.qslots := tdel s.models.qslots (fld p 16 2) }) ∧
    (held s = false → chkQstatRead p s = none → 
      let q := pSlotD p s
      let first := fld p 20 2
      let n := fld p 22 2
      let data := ((List.range n).map fun i => statBytes (tgetD q.recs (first + i))).flatten
      let s1 := vwrite p.ctx (fld p 24 8) data s
      let q1 : QSlot := { q with legsClear := 0, elements := 0, recs := tkeep q.recs fun k _ => k < first || first + n ≤ k }
      let s2 := if (fld p 18 1).testBit 0 then { s1 with models.qslots := tput s1.models.qslots (fld p 16 2) q1 } else s1
      Does (.qstatRead p) p s 0 n q.legsClear (slotState q)
        s2) ∧
    (firstFails [slotChk p s] = none → 
      let q := pSlotD p s
      Does (.qstatQuery p) p s 0 (slotState q + 4 * (q.channels % 4096)) q.legsArm q.elements
        s) ∧
    (∀ (c : Nat), chkQconvert p s = none → freeDma (pinDma p true s) = some c →
      let u := pinDma p true s
      Waits (.qconvert p) p s (takeLease 1 p.ctx c (u.time.now + ((convCmd p).k * (convCmd p).rows + 1) / 2 + 1000000) { u with
        store.dma := tput u.store.dma c
          { pkt := p, ctx := p.ctx, lease := u.sched.nextLease, start := u.time.now, convert := true
            arms := u.models.arms }
        store.rest := false }))

/-- The effect of each start, reset and update event where it applies. Where a clause follows a choice of the model and no rule, it is that of log 4, 21, 35. (R103, R432, R433, R448, R466, R477, R481) -/
def Obligations.StartAndResetEventsComplete : Prop :=
  ∀ s : State,
    (∀ (p : Pkt) (t : Nat), s.cmd.devReset = some (false, t) →
      exec (.devResetGraceEnd p) s = .next (finishReset (elapseTo t s))) ∧
    (exec .powerOnReset s = .next (powerState s)) ∧
    (∀ (cause : WarmCause), s.boot.phase ≠ .reset → cause = .devReset → s.cmd.devReset.isSome = true →
      exec (.warmReset cause) s = .next (finishReset s)) ∧
    (∀ (cause : WarmCause), s.boot.phase ≠ .reset → cause ≠ .devReset → cause ≠ .sysreset →
      exec (.warmReset cause) s = .next (warmState (causeCode cause) s)) ∧
    (s.boot.phase ≠ .reset →
      exec (.warmReset .sysreset) s = .next ({ warmState (causeCode .sysreset) s with pins.sysreset := true })) ∧
    (∀ (bootSrc : Nat), s.boot.phase = .reset →
      let s1 := if s.boot.cause = 0 then reloadJournal s else s
      let no := (s1.boot.startNo + 1) % 2 ^ 32
      let s2 := { s1 with
        boot.strap := bootSrc % 4, boot.recovery := decide (3 ≤ s1.boot.failed), boot.hostSrc := false, boot.startNo := no, boot.slot := 0 }
      let x : Start := { number := no, cause := s.boot.cause, failed := min s1.boot.failed 255, source := sourceByte s2.boot }
      exec (.bootRomStart bootSrc) s = .next
        (safetyPins (nextStep 1 { s2 with
          boot.journal := (s2.boot.journal ++ [x]).drop (s2.boot.journal.length + 1 - 8)
          pins.sysreset := false, pins.rstOutLow := false
          link.x4x4 := s2.boot.linkSel.getD false && !decide (3 ≤ s1.boot.failed) }))) ∧
    (∀ (o : StepOut) (n : Nat), s.boot.phase = .step n → o.pass = true → passCode n o s = none →
      exec (.startStepComplete o) s = .next (passStep n o.units o.detail s)) ∧
    (∀ (o : StepOut) (n c : Nat), s.boot.phase = .step n → o.pass = true → passCode n o s = some c →
      exec (.startStepComplete o) s = .next (failStep n o.units c s)) ∧
    (∀ (o : StepOut) (n : Nat), s.boot.phase = .step n → o.pass = false →
      exec (.startStepComplete o) s = .next (failStep n o.units o.code s)) ∧
    (∀ (n : Nat), s.boot.phase = .step n →
      exec .startStepLimit s = .next (failStep n [] (codeVal .eTimeout) (elapseTo (limitTime n (takeFree s).1 s) (takeFree s).2))) ∧
    (∀ (c : Code), s.boot.phase = .hostWait → num (physRead s 0 64) 0 4 = 0x33425459 → hostImageCode s = some c →
      exec .hostBootDescriptorPoll s = .next (physWrite 8 (toLE 2 (codeVal c)) s)) ∧
    (s.boot.phase = .hostWait → num (physRead s 0 64) 0 4 = 0x33425459 → hostImageCode s = none →
      let i := imageFrom (hostImage s)
      let s1 := physWrite 8 (toLE 2 0) s
      let s2 := noteSource { s1 with boot.slot := 2, boot.running := i, glb.fwver := BitVec.ofNat 32 i.fwver }
      exec .hostBootDescriptorPoll s = .next (nextStep 6 (glbEvent 0 (journalStep 5 s.boot.method 0 0 0 0 s2)))) ∧
    (∀ (passed : Bool), s.boot.updStage = 1 → s.boot.updBusy = true →
      exec (.updateStageComplete passed) s = .next (stageDone passed s)) ∧
    (2 ≤ s.boot.updStage → s.boot.updBusy = true → s.safe.standby = true →
      exec (.updateStageComplete true) s = .next (stagePasses s)) ∧
    (2 ≤ s.boot.updStage → s.boot.updBusy = true →
      exec (.updateStageComplete false) s = .next
        (cancelUpdate .eCheck { s with safe.standby := false, safe.pairsOut := s.safe.pairsOut + b2n s.safe.standby }))

/-- The effect of each cascade event where it applies. Where a clause follows a choice of the model and no rule, it is that of log 12, 22, 46. (R25, R30, R31, R33, R37, R38, R39, R46, R191, R331, R417) -/
def Obligations.CascadeEventsComplete : Prop :=
  ∀ s : State,
    (∀ (level : Nat), s.power.state = .sample → (srcCfg s 0 0).enable = true → (srcCfg s 0 0).lift ≤ heldScore s 0 level →
      exec (.energyGateDecision level) s = .next (wakeTo .moor 1 0 s)) ∧
    (∀ (level : Nat), s.power.state = .moor → (srcCfg s 0 0).enable = true → (srcCfg s 0 0).lift ≤ heldScore s 0 level →
      exec (.energyGateDecision level) s = .next ({ s with casc.gateFrom := s.time.now })) ∧
    (∀ (reason score : Nat) (input : List Byte) (trigger frame : Nat), 0 < reason → reason ≤ 3 → detectorRuns s = true →
      let r := detectorScore reason score input trigger s
      let sc := heldScore s reason r.1
      exec (.detectorDecision reason score input trigger frame) s = .next
        (decide_ 0 reason sc (detectorLift reason sc trigger r.2 frame) { s with freeCtr := s.freeCtr + 1 })) ∧
    (s.power.state = .moor → s.power.move = none → s.casc.sampleEn = true → 3 ≤ s.power.floor → tiersUp s = false →
      exec .sampleHoldEnd s = .next
        (elapseTo (s.casc.gateFrom + s.casc.sampleHold * 1000000)
          { s with power.move := some { target := .sample, origin := .moor } })) ∧
    (∀ (tier e : Nat), noTier tier = false → (tierOf s tier).windowEnd = some e →
      (tierOf s tier).state = .warming ∨ (tierOf s tier).state = .warm → (tierOf s tier).lift = none →
      exec (.updraftWindowEnd tier) s = .next (fallTier tier (elapseTo e s))) ∧
    (∀ (tier : Nat), noTier tier = false → (tierOf s tier).state = .warming → (tierOf s tier).lift = none →
      let u := elapseTo ((tierOf s tier).warmFrom.getD (tierOf s tier).since + warmNs tier) s
      let s1 := modTier tier (fun t => { t with warmFrom := none }) u
      exec (.warmUpComplete tier) s = .next (enterTier tier .warm id s1)) ∧
    (∀ (tier : Nat) (l : LiftRec), noTier tier = false → (tierOf s tier).state = .warming → (tierOf s tier).lift = some l →
      let u := elapseTo ((tierOf s tier).warmFrom.getD (tierOf s tier).since + warmNs tier) s
      let s1 := modTier tier (fun t => { t with warmFrom := none }) u
      exec (.warmUpComplete tier) s = .next
        (if (l.bind.map fun b => bindValid s1 l.target b).getD false then armTier tier l s1 else ballast tier 6 l.rewind s1)) ∧
    (∀ (tier : Nat), noTier tier = false → (tierOf s tier).state = .arming →
      exec (.armingComplete tier) s = .next (supplyFrames tier (enterTier tier .active id (elapseTo ((tierOf s tier).since + armNs tier) s)))) ∧
    (∀ (tier : Nat), noTier tier = false → holdOf s tier ≠ 0xFFFFFFFF → (tierOf s tier).state = .idle →
      exec (.idleHoldEnd tier) s = .next
        (workEnded (boundaries (ballast tier 2 (tierConsumed s tier) (elapseTo ((tierOf s tier).since + holdOf s tier * 1000000) s))))) ∧
    (∀ (tier : Nat), noTier tier = false → (tierOf s tier).state = .falling ∨ (tierOf s tier).state = .sinking →
      let u := elapseTo ((tierOf s tier).since + downNs tier) s
      let s1 := restDram tier (settlePower tier (enterTier tier .off (fun t =>
        { t with lift := none, held := [], windowEnd := none, warmFrom := none }) u))
      exec (.tierPowerDownComplete tier) s = .next ((tierOf s tier).held.foldl (fun u l => serveHeld tier l u) s1)) ∧
    (
      exec .reelSourceHandover s = .next
        ({ s with
          reel.source := ((s.reel.handover.filter fun h => h.2 ≤ s.reel.index).getLast?.map Prod.fst).getD s.reel.source
          reel.handover := s.reel.handover.filter fun h => s.reel.index < h.2 })) ∧
    (∀ (tier : Nat) (q : ReelReader) (b : ReelBlock), tget s.reel.readers tier = some q →
      reelBlock s (max q.next (oldestBlock s)) = some b → tierServes (tierOf s tier) = true →
      ((tierOf s tier).run.map (ringRoom s)).getD false = true →
      let n := max q.next (oldestBlock s)
      exec (.reelReaderSupply tier) s = .next
        (supplyItem tier (some n) (reelBytes b (decide (0 < n - q.next))) { s with
          reel.readers := tput s.reel.readers tier { next := n + 1, overruns := q.overruns + (n - q.next) }
          reel.overruns := sat 16 (s.reel.overruns + (n - q.next)) })) ∧
    (∀ (a : Nat), s.casc.alarm = some a → (srcCfg s 0 4).enable = true →
      let s1 := elapseTo a s
      let s2 := { s1 with casc.alarm := if s.casc.period = 0 then none else some (nextAlarm a s.casc.period s1.time.now) }
      exec .rtcAlarm s = .next (plainLift 4 0 s2)) ∧
    (∀ (a : Nat), s.casc.alarm = some a → (srcCfg s 0 4).enable = false →
      let s1 := elapseTo a s
      let s2 := { s1 with casc.alarm := if s.casc.period = 0 then none else some (nextAlarm a s.casc.period s1.time.now) }
      exec .rtcAlarm s = .next (s2)) ∧
    (∀ (pin : Nat) (level : Bool), pin ≤ 7 → s.power.gpio.testBit pin = level →
      let s1 := { s with power.gpio := maskOf ((bitsOf 8 s.power.gpio).filter (· != pin)) + (if level then 2 ^ pin else 0) }
      exec (.aonGpioEdge pin level) s = .next (s1)) ∧
    (∀ (pin : Nat) (level : Bool), pin ≤ 7 → s.power.gpio.testBit pin ≠ level →
      let s1 := { s with power.gpio := maskOf ((bitsOf 8 s.power.gpio).filter (· != pin)) + (if level then 2 ^ pin else 0) }
      exec (.aonGpioEdge pin level) s = .next
        (if pinLift s1 pin level then plainLift 5 pin s1
        else if pinWake s1 pin level then wakeTo (if s1.power.wakeFlags.testBit 2 then .run else .moor) 3 pin s1
        else s1)) ∧
    (∀ (payload : List Byte), presenceOn s = true →
      let f : PresFrame :=
        { number := s.reel.frameNo + 1, luma := presLuma s payload
          sealBytes := sealOf (s.reel.frameNo + 1) s.time.now (crc32c payload) 12 false }
      let s1 := { s with
        reel.frameNo := s.reel.frameNo + 1, reel.frames := (s.reel.frames ++ [f]).drop (s.reel.frames.length + 1 - 2) }
      exec (.presenceFrame payload) s = .next ((tkeys s1.casc.tiers).foldl (fun t k => supplyFrames k t) s1)) ∧
    (∀ (c : ReelCopy), s.reel.copy = some c → held s = false ∨ rangeHost s c.pkt.ctx c.dest (1296 * c.count) = false →
      let first := max c.first (oldestBlock s)
      let lost := first - c.first
      let bs := (s.reel.blocks.filter fun b => first ≤ b.num).take c.count
      let s1 := vwrite c.pkt.ctx c.dest ((bs.zipIdx.map fun (b, i) => reelBytes b (i = 0 && 0 < lost)).flatten) s
      exec .reelReaderCopyComplete s = .next
        (workEnded (completeOk c.pkt bs.length ((bs.head?.map ReelBlock.num).getD 0) 0 { s1 with
          reel.copy := none, reel.readers := tdel s1.reel.readers 17, reel.overruns := sat 16 (s1.reel.overruns + lost) }))) ∧
    (∀ (c : ReelCopy), s.reel.copy = some c → held s = true → rangeHost s c.pkt.ctx c.dest (1296 * c.count) = true →
      exec .reelReaderCopyComplete s = .next (hostWait c.pkt s))

/-- The effect of each register, doorbell, BAR2 and link event where it applies. Where a clause follows a choice of the model and no rule, it is that of log 16, 43, 50. (R51, R52, R53, R55, R57, R58, R60, R62, R64, R65, R66, R72) -/
def Obligations.HostAttachmentEventsComplete : Prop :=
  ∀ s : State,
    (s.link.mse = true →
      exec (.bar0UnsupportedAccess true) s = .next (glbErr 0 s)) ∧
    (s.link.mse = true →
      exec (.bar0UnsupportedAccess false) s = .next (glbErr 0 { s with out := s.out ++ [.completion [0] false] })) ∧
    (∀ (off value : Nat), s.link.mse = true → off < 0x02000000 → off % 4 = 0 →
      exec (.registerWrite off 4 value) s = .next (regWrite off (value % 2 ^ 32) s)) ∧
    (∀ (off value : Nat), s.link.mse = true → off < 0x02000000 → off % 8 = 0 →
      exec (.registerWrite off 8 value) s = .next (regWrite (off + 4) (value / 2 ^ 32 % 2 ^ 32) (regWrite off (value % 2 ^ 32) s))) ∧
    (∀ (off width value : Nat), s.link.mse = false →
      exec (.registerWrite off width value) s = .next (s)) ∧
    (∀ (wide : Bool), s.link.mse = true →
      exec (.glbTimeLoRead wide) s = .next
        ({ s with
        glb.timeHi := BitVec.ofNat 32 (s.time.now / 2 ^ 32 % 2 ^ 32)
        out := s.out ++ [.completion (toLE (if wide then 8 else 4) s.time.now) false] })) ∧
    (∀ (value hwSets : Nat), s.link.mse = true →
      exec (.glbEventClear value hwSets) s = .next
        ((bitsOf 10 hwSets).foldl (fun t k => glbEvent k t) { s with glb.event := s.glb.event &&& ~~~(BitVec.ofNat 32 value) })) ∧
    (∀ (value hwSets : Nat), s.link.mse = true →
      exec (.glbErrClear value hwSets) s = .next
        ((bitsOf 8 hwSets).foldl (fun t k => glbErr k t) { s with glb.err := s.glb.err &&& ~~~(BitVec.ofNat 32 value) })) ∧
    (∀ (b : Bool), s.link.mse = true → s.link.hold = .linkReset b →
      exec .resume s = .next (settleHold { s with link.hold := .linkReset true })) ∧
    (∀ (b : Bool), s.link.mse = true → s.link.hold = .linkReset b →
      exec .abandon s = .next (abandonHold s)) ∧
    (∀ (value : Nat), s.link.mse = true →
      exec (.mgmtRingEnable value) s = .next (writeMring (value % 2 ^ 31 + 2 ^ 31) s)) ∧
    (∀ (value : Nat), s.link.mse = true → mringOn s = true →
      exec (.mgmtRingDisable value) s = .next ({ s with glb.mring := s.glb.mring &&& 0x7FFFFFFF })) ∧
    (∀ (value : Nat), s.link.mse = true → mringOn s = false →
      exec (.mgmtRingDisable value) s = .next ({ s with glb.mring := BitVec.ofNat 32 (value % 2 ^ 31) &&& 0x1F1F })) ∧
    (∀ (page queue value : Nat) (x : Queue), s.link.mse = true → page ≤ 512 → queue ≤ 7 → tget (ctxOf s page).queues queue = some x →
      pageOpen s page = true → (BitVec.ofNat 32 value - x.tail).msb = false → (BitVec.ofNat 32 value - x.tail).toNat ≤ 2 ^ x.log2 →
      exec (.dbSqWrite page queue value) s = .next
        (modCtx page (fun c => { c with queues := tput c.queues queue { x with tail := BitVec.ofNat 32 value } })
          { s with cmd.ringFailed := s.cmd.ringFailed && page != 0 })) ∧
    (∀ (page value : Nat), s.link.mse = true → page ≤ 512 → pageOpen s page = true →
      (BitVec.ofNat 32 value - (ctxOf s page).ring.head).msb = false →
      ((ctxOf s page).ring.written - BitVec.ofNat 32 (heldEntries s page) - BitVec.ofNat 32 value).msb = false →
      exec (.dbSrWrite page value) s = .next (modCtx page (fun c => { c with ring.head := BitVec.ofNat 32 value }) s)) ∧
    (∀ (off size : Nat), s.link.mse = true → off + size ≤ 0x40000000 →
      let as := winBytes s off size
      let data := as.map fun a => match winCase s a with
        | .plain => memGet s.store.mem a
        | .failed => Config.freeByte (s.freeCtr + a)
        | _ => 0xFF
      let bad := distinct ((as.filter fun a => winCase s a == .failed).map (· / 16))
      let cor := distinct ((as.filter fun a => winCase s a == .plain && wordAt s a == .corrected).map (· / 16))
      let s1 := winCharge bad cor { s with out := s.out ++ [.completion data (!bad.isEmpty)], freeCtr := s.freeCtr + 1 }
      exec (.bar2Read off size) s = .next (settle (winReserved as (winErrs (as.map (winCase s)) s1)))) ∧
    (∀ (off : Nat) (data : List Byte), s.link.mse = true → off + data.length ≤ 0x40000000 →
      let as := winBytes s off data.length
      let base := winBase s + off
      let case := fun a =>
        let c := winCase s a
        if c == .failed && wordCovered base data.length a then .plain else c
      let bad := distinct ((as.filter fun a => case a == .failed).map (· / 16))
      let cor := distinct ((as.filter fun a => case a == .plain && wordAt s a == .corrected
        && !wordCovered base data.length a).map (· / 16))
      let good := as.filter fun a => case a == .plain
      let mem := good.foldl (fun m a => memSet m a (data.getD (a - base) 0)) s.store.mem
      let done := distinct (good.map (· / 16))
      let s1 := { s with store.mem := mem, store.words := tkeep s.store.words fun w _ => !done.contains w }
      exec (.bar2Write off data) s = .next (settle (winReserved as (winErrs (as.map case) (winCharge bad cor s1))))) ∧
    (cfgAnswers s = true →
      exec (.msixEntryUnmask none) s = .next (sendPending { s with link.funcMask := false })) ∧
    (∀ (v : Nat), s.link.mse = true → v ≤ 1023 →
      exec (.msixEntryUnmask (some v)) s = .next
        (sendPending { s with link.msixTable := tput s.link.msixTable (4 * v + 3) (msixWord s (4 * v + 3) &&& 0xFFFFFFFE) })) ∧
    (
      let s1 := { resetConfigSpace (beginHold s) with link.hold := .linkReset false, link.d3hold := false }
      exec (.linkReset .perst) s = .next (linkDown { s1 with link.perst0 := true })) ∧
    (
      let s1 := { resetConfigSpace (beginHold s) with link.hold := .linkReset false, link.d3hold := false }
      exec (.linkReset .linkLoss) s = .next (linkDown s1)) ∧
    (
      let s1 := { resetConfigSpace (beginHold s) with link.hold := .linkReset false, link.d3hold := false }
      exec (.linkReset .hotReset) s = .next (s1)) ∧
    (
      let s1 := { resetConfigSpace (beginHold s) with link.hold := .linkReset false, link.d3hold := false }
      exec (.linkReset .flr) s = .next (s1)) ∧
    (cfgAnswers s = true →
      exec .d3hotEntry s = .next ({ beginHold s with link.d3hot := true, link.d3hold := true })) ∧
    (∀ (busMaster : Bool), s.link.d3hot = true → cfgAnswers s = true →
      exec (.d0Resume busMaster) s = .next (settleHold { s with link.d3hot := false, link.bme := busMaster })) ∧
    (∀ (ctx page : Nat), ctx ≤ 512 →
      exec (.atsInvalidation ctx page) s = .next ({ s with out := s.out ++ [.atsDone ctx page] })) ∧
    (∀ (ctx : Nat) (kind : ReadFail) (what : ReadFor), ctx ≤ 512 → (match what with | .leg g => g | _ => 0) ≤ 16 → ctx ≠ 0 →
      (ctxOf s ctx).state ≠ .closed →
      exec (.hostReadFailure ctx kind what) s = .next (workEnded (ripcord ctx 2 (readFailed kind s)))) ∧
    (∀ (kind : ReadFail),
      exec (.hostReadFailure 0 kind .ringUnits) s = .next ({ readFailed kind s with cmd.ringFailed := true })) ∧
    (∀ (kind : ReadFail) (g : Nat) (c : Cur), g ≤ 16 → (gangOf (readFailed kind s) g).bind Gang.cur = some c →
      ((runOf (readFailed kind s) c.run).map fun r => r.ctx == 0).getD false = true →
      exec (.hostReadFailure 0 kind (.leg g)) s = .next (workEnded (finishRun c.run .eTransient false (readFailed kind s)))) ∧
    (∀ (kind : ReadFail) (tag : Nat) (e : Nat × Dma), (readFailed kind s).store.dma.find? (fun e => e.2.ctx == 0 && pTag e.2.pkt == tag) = some e →
      exec (.hostReadFailure 0 kind (.command tag)) s = .next
        (workEnded (complete e.2.pkt .eTransient 0 0 0 0 (undefineDest e.2 (dropDma e.1 (readFailed kind s)))))) ∧
    (∀ (kind : ReadFail) (tag : Nat) (f : Flight), (readFailed kind s).store.dma.find? (fun e => e.2.ctx == 0 && pTag e.2.pkt == tag) = none →
      (inFlight (readFailed kind s) 0).find? (fun f => pTag f.pkt == tag) = some f →
      exec (.hostReadFailure 0 kind (.command tag)) s = .next (workEnded (stopCommand f.pkt (readFailed kind s)))) ∧
    (s.link.rpUp = true →
      let s1 := failCold (glbEvent 8 { s with link.rpUp := false, link.rpSpeed := 0, link.rpWidth := 0 })
      exec .rootPortLinkDown s = .next (workEnded (settle (chanEvent 0x09 7 1 0 0xFFFF s1.safe.cfg.wLoss 0 0 s1)))) ∧
    (∀ (speed width : Nat), s.link.x4x4 = true → s.link.rpUp = false → chanRetired s 7 1 = false → startPast s 0x0A = true →
      s.boot.missing.contains 0x0A = false →
      exec (.rootPortRetrain true speed width) s = .next
        (glbEvent 8 { elapseTo 100000000 s with link.rpUp := true, link.rpSpeed := speed, link.rpWidth := width, link.perst1Low := false })) ∧
    (∀ (w : CfgWrite), cfgAnswers (tryTrain s) = true →
      let t := tryTrain s
      exec (.busMasterEnableSet w) s = .next
        (settleHold { t with
          link.bme := t.link.bme || w.busMaster
          link.mse := true
          link.pasid := t.link.pasid || w.pasid
          link.ats := t.link.ats || w.ats
          link.bar0 := w.bar0 / 2 ^ 25 * 2 ^ 25
          link.bar2 := w.bar2 / 2 ^ 30 * 2 ^ 30 })) ∧
    (∀ (w : CfgWrite), cfgAnswers (tryTrain s) = false →
      exec (.busMasterEnableSet w) s = .next (tryTrain s))

/-- The effect of each packet queue and Stolp session event where it applies. Where a clause follows a choice of the model and no rule, it is that of log 10, 19, 20, 51, 58. (R81, R87, R89, R93, R95, R96, R97, R99) -/
def Obligations.QueueAndSessionEventsComplete : Prop :=
  ∀ s : State,
    (∀ (p : Pkt) (chain : List Pkt) (q : Queue), tget (ctxOf s p.ctx).queues p.queue = some q → fetching s = true → held s = false →
      p.ctx ≠ 0 ∨ s.cmd.ringFailed = false → pageOpen s p.ctx = true → p.queue ≤ 7 →
      let given := (p :: chain).map ringPkt
      let units := (given.map pLen).foldl (· + ·) 0
      let s1 := ringPut s p.ctx q q.fetched.toNat (given.map Pkt.bytes).flatten
      let ps := cutPkts p.ctx p.queue given.length (ringGet s1 p.ctx q q.fetched.toNat units)
      chainShape given = true → units ≤ (q.tail - q.fetched).toNat → q.badChain = false → chainBad ps = false → flightRoom s p.ctx ps.length = true →
      exec (.packetFetch p chain) s = .next (fetchAll false ps s1)) ∧
    (∀ (p : Pkt) (chain : List Pkt) (q : Queue), tget (ctxOf s p.ctx).queues p.queue = some q → fetching s = true → held s = false →
      p.ctx ≠ 0 ∨ s.cmd.ringFailed = false → pageOpen s p.ctx = true → p.queue ≤ 7 →
      let given := (p :: chain).map ringPkt
      let units := (given.map pLen).foldl (· + ·) 0
      let s1 := ringPut s p.ctx q q.fetched.toNat (given.map Pkt.bytes).flatten
      let ps := cutPkts p.ctx p.queue given.length (ringGet s1 p.ctx q q.fetched.toNat units)
      chainShape given = true → units ≤ (q.tail - q.fetched).toNat → (q.badChain || chainBad ps) = true →
      exec (.packetFetch p chain) s = .next (fetchBad ps s1)) ∧
    (∀ (p : Pkt) (chain : List Pkt) (q : Queue), tget (ctxOf s p.ctx).queues p.queue = some q → fetching s = true → held s = false →
      p.ctx ≠ 0 ∨ s.cmd.ringFailed = false → pageOpen s p.ctx = true → p.queue ≤ 7 →
      let given := (p :: chain).map ringPkt
      let units := (given.map pLen).foldl (· + ·) 0
      let s1 := ringPut s p.ctx q q.fetched.toNat (given.map Pkt.bytes).flatten
      let ps := cutPkts p.ctx p.queue given.length (ringGet s1 p.ctx q q.fetched.toNat units)
      chainShape given = true → units ≤ (q.tail - q.fetched).toNat → q.badChain = false → chainBad ps = false → flightRoom s p.ctx ps.length = false →
      exec (.packetFetch p chain) s = .next (modCtx p.ctx (fun c => { c with pauses := c.pauses + 1 }) s)) ∧
    (∀ (ctx tag : Nat) (f : Flight), (inFlight s ctx).find? (fun f => pTag f.pkt == tag) = some f → f.dispatched = false →
      bridleOn s = true → s.safe.takeover ≠ some false → queueLets s f = true → chainWaits s f = false →
      s.safe.safeState = false ∨ safeServed (pOp f.pkt) = true → chainDead s f = false → depState s f.pkt = .met →
      dispatchSlot s f = true →
      exec (.packetDispatch ctx tag) s = .next
        (modFlight f.pkt (fun g => { g with dispatched := true, slot := true, peers := peersAt f.pkt s }) s)) ∧
    (∀ (ctx tag : Nat) (f : Flight), (inFlight s ctx).find? (fun f => pTag f.pkt == tag) = some f → f.dispatched = false →
      bridleOn s = true → s.safe.takeover ≠ some false → queueLets s f = true → chainWaits s f = false → s.safe.safeState = true →
      safeServed (pOp f.pkt) = false →
      exec (.packetDispatch ctx tag) s = .next (reject f.pkt { code := .eState } 0 s)) ∧
    (∀ (ctx tag : Nat) (f : Flight), (inFlight s ctx).find? (fun f => pTag f.pkt == tag) = some f → f.dispatched = false →
      bridleOn s = true → s.safe.takeover ≠ some false → queueLets s f = true → chainWaits s f = false →
      s.safe.safeState = false ∨ safeServed (pOp f.pkt) = true → chainDead s f = true →
      exec (.packetDispatch ctx tag) s = .next (endMember f s)) ∧
    (∀ (ctx tag : Nat) (f : Flight), (inFlight s ctx).find? (fun f => pTag f.pkt == tag) = some f → f.dispatched = false →
      bridleOn s = true → s.safe.takeover ≠ some false → queueLets s f = true → chainWaits s f = false →
      s.safe.safeState = false ∨ safeServed (pOp f.pkt) = true → chainDead s f = false → depState s f.pkt = .failed →
      exec (.packetDispatch ctx tag) s = .next (endDependent f.pkt s)) ∧
    (∀ (ctx tag : Nat) (f : Flight), (inFlight s ctx).find? (fun f => pTag f.pkt == tag) = some f → f.dispatched = false →
      bridleOn s = true → s.safe.takeover ≠ some false → queueLets s f = true → chainWaits s f = false →
      s.safe.safeState = false ∨ safeServed (pOp f.pkt) = true → chainDead s f = false → depState s f.pkt = .waits →
      exec (.packetDispatch ctx tag) s = .next (modFlight f.pkt (fun f => { f with depSince := none }) s)) ∧
    (∀ (ctx tag : Nat) (f : Flight), (inFlight s ctx).find? (fun f => pTag f.pkt == tag) = some f → f.dispatched = false →
      bridleOn s = true → s.safe.takeover ≠ some false → queueLets s f = true → chainWaits s f = false →
      s.safe.safeState = false ∨ safeServed (pOp f.pkt) = true → chainDead s f = false → depState s f.pkt = .unknown →
      exec (.packetDispatch ctx tag) s = .next (modFlight f.pkt (fun f => { f with depSince := some (f.depSince.getD s.time.now) }) s)) ∧
    (∀ (ctx tag : Nat) (f : Flight), (inFlight s ctx).find? (fun f => pTag f.pkt == tag) = some f → f.dispatched = false →
      bridleOn s = true → s.safe.takeover ≠ some false → queueLets s f = true → chainWaits s f = false →
      s.safe.safeState = false ∨ safeServed (pOp f.pkt) = true → chainDead s f = false → depState s f.pkt = .met →
      dispatchSlot s f = false →
      exec (.packetDispatch ctx tag) s = .next (s)) ∧
    (∀ (ctx tag t : Nat) (f : Flight), (inFlight s ctx).find? (fun f => pTag f.pkt == tag) = some f → f.depSince = some t →
      depState s f.pkt = .unknown →
      exec (.dependencyTimeout ctx tag) s = .next (endDependent f.pkt (elapseTo (t + 100000000) s))) ∧
    (∀ (d : Dgram), s.stolp.enable.testBit d.port = true → chanRetired s 6 d.port = false → s.boot.missing.contains 0x10 = false →
      ¬(d.data.length = 192 ∧ num d.data 0 1 = 2 ∧ num d.data 1 1 = 0x10 ∧ num d.data 4 4 = 0 ∧ (keyOf s (num d.data 16 8)).isSome = true ∧
      Config.onCurve (slice d.data 56 133) = true ∧ (s.stolp.hellos.filter fun t => s.time.now < t + 10 ^ 9).length < 16) →
      let recent := s.stolp.hellos.filter fun t => s.time.now < t + 10 ^ 9
      let s1 := { s with stolp.hellos := recent ++ [s.time.now] }
      exec (.stolpHello d) s = .next (discard s1)) ∧
    (∀ (d : Dgram) (e : Nat × Handshake), s.stolp.enable.testBit d.port = true → chanRetired s 6 d.port = false →
      s.boot.missing.contains 0x10 = false →
      d.data.length = 192 ∧ num d.data 0 1 = 2 ∧ num d.data 1 1 = 0x10 ∧ num d.data 4 4 = 0 ∧ (keyOf s (num d.data 16 8)).isSome = true ∧
      Config.onCurve (slice d.data 56 133) = true ∧ (s.stolp.hellos.filter fun t => s.time.now < t + 10 ^ 9).length < 16 →
      s.stolp.pending.find? (fun e => e.2.keyId == num d.data 16 8 && e.2.nonce == slice d.data 24 32) = some e →
      let recent := s.stolp.hellos.filter fun t => s.time.now < t + 10 ^ 9
      let s1 := { s with stolp.hellos := recent ++ [s.time.now] }
      exec (.stolpHello d) s = .next ({ s1 with out := s1.out ++ [.dgram 0 d.port d.ip d.udp e.2.reply (vlanTag s1 d.port)] })) ∧
    (∀ (d : Dgram), s.stolp.enable.testBit d.port = true → chanRetired s 6 d.port = false → s.boot.missing.contains 0x10 = false →
      d.data.length = 192 ∧ num d.data 0 1 = 2 ∧ num d.data 1 1 = 0x10 ∧ num d.data 4 4 = 0 ∧ (keyOf s (num d.data 16 8)).isSome = true ∧
      Config.onCurve (slice d.data 56 133) = true ∧ (s.stolp.hellos.filter fun t => s.time.now < t + 10 ^ 9).length < 16 →
      s.stolp.pending.find? (fun e => e.2.keyId == num d.data 16 8 && e.2.nonce == slice d.data 24 32) = none →
      s.stolp.sessions.length < min s.stolp.limit 16 →
      let recent := s.stolp.hellos.filter fun t => s.time.now < t + 10 ^ 9
      let s1 := { s with stolp.hellos := recent ++ [s.time.now] }
      exec (.stolpHello d) s = .next
        ({ s1 with
          out := s1.out ++ [.dgram 0 d.port d.ip d.udp (helloReply d s1).1 (vlanTag s1 d.port)]
          stolp.pending := tput s1.stolp.pending s1.stolp.nextId (helloReply d s1).2
          stolp.nextId := s1.stolp.nextId + 1
          freeCtr := s1.freeCtr + 2 })) ∧
    (∀ (d : Dgram) (h : Handshake) (sig : List Byte), tget s.stolp.pending (num d.data 4 4) = some h →
      let t := transcript h.hello h.reply
      let secret := keySchedule h.draw (slice h.hello 56 133) h.hello h.reply
      let key := ((keyOf s h.keyId).map ClientKey.point).getD []
      d.data.length = 164 → num d.data 0 1 = 4 → num d.data 1 1 = 0x10 → num d.data 8 8 = 0 → h.port = d.port → h.ip = d.ip → h.udp = d.udp →
      openUp secret (slice d.data 0 16) (d.data.drop 16) = some sig → Config.ecdsaVerify key (t ++ slice d.data 0 16) sig = true →
      exec (.stolpFinish d) s = .next
        (sendCredit (num d.data 4 4) { s with
          stolp.pending := tdel s.stolp.pending (num d.data 4 4)
          stolp.sessions := tput s.stolp.sessions (num d.data 4 4)
            { keyId := h.keyId, port := h.port, ip := h.ip, udp := h.udp, secret := secret, rxSeen := [0], lastRx := s.time.now
              idle := s.stolp.idle, batchUs := s.stolp.batchUs } })) ∧
    (∀ (d : Dgram), tget s.stolp.pending (num d.data 4 4) = none →
      exec (.stolpFinish d) s = .next (discard s)) ∧
    (∀ (d : Dgram) (o : Nat × List Byte), dgramFits s d = true → openDgram s d 1 = some o →
      fetching (noteDgram o.1 (num d.data 8 8) s) = true →
      let r := (splitPackets (o.2.length / 16) o.2).foldl
        (fun (l, t) x => let (k, t1) := netPacket o.1 x t; (l || k, t1)) (false, noteDgram o.1 (num d.data 8 8) s)
      exec (.stolpData d) s = .next (if r.1 then sendCredit o.1 r.2 else r.2)) ∧
    (∀ (d : Dgram), dgramFits s d = true → openDgram s d 1 = none →
      exec (.stolpData d) s = .next (discard s)) ∧
    (∀ (d : Dgram), dgramFits s d = false →
      exec (.stolpData d) s = .next (s)) ∧
    (∀ (d : Dgram) (o : Nat × List Byte), dgramFits s d = true → openDgram s d 1 = some o →
      fetching (noteDgram o.1 (num d.data 8 8) s) = false →
      exec (.stolpData d) s = .next (noteDgram o.1 (num d.data 8 8) s)) ∧
    (∀ (d : Dgram) (o : Nat × List Byte), openDgram s d 6 = some o →
      exec (.stolpClose d) s = .next (closeSession o.1 s)) ∧
    (∀ (session : Nat) (h : Handshake), tget s.stolp.pending session = some h →
      let s1 := elapseTo (h.started + 2 * 10 ^ 9) s
      exec (.handshakeTimeout session) s = .next ({ s1 with stolp.pending := tdel s1.stolp.pending session })) ∧
    (∀ (session : Nat) (q : Session), tget s.stolp.sessions session = some q →
      exec (.sessionIdleTimeout session) s = .next
        (closeSession session (sendSess session 6 (toLE 16 0) (elapseTo (q.lastRx + q.idle * 10 ^ 9) s)))) ∧
    (∀ (session : Nat), s.cmd.flights.any (fun f => f.pkt.queue == 8 && f.pkt.session == session) = true →
      exec (.creditTimer session) s = .next (sendCredit session s)) ∧
    (∀ (session : Nat),
      exec (.replyBatchTimeout session) s = .next (flushBatch session s))

/-- The effect of each context and lease event where it applies. Where a clause follows a choice of the model and no rule, it is that of log 42. (R115, R130, R132, R134) -/
def Obligations.ContextEventsComplete : Prop :=
  ∀ s : State,
    (∀ (ctx t : Nat) (k : Closing), ctx ≤ 512 → (ctxOf s ctx).closing = some k → k.graceEnd = some t →
      exec (.ctxCloseGraceEnd ctx) s = .next (workEnded (closeRipcord ctx (elapseTo t s)))) ∧
    (∀ (lease : Nat) (l : Lease), tget s.sched.leases lease = some l → l.limit ≠ 0 → leaseWaits s l = false → l.owner ≠ 0 →
      s.safe.takeover ≠ some true →
      let s1 := elapseTo l.limit s
      let s2 := if l.kind = 1 ∧ !ctxLive s1 l.owner then stopDma l.resource .eTornDown s1 else s1
      exec (.leaseLimitExpiry lease) s = .next (workEnded (ripcord l.owner 3 { s2 with sched.leases := tdel s2.sched.leases lease }))) ∧
    (∀ (lease : Nat) (l : Lease), tget s.sched.leases lease = some l → l.limit ≠ 0 → leaseWaits s l = false → l.owner = 0 →
      s.safe.takeover ≠ some true →
      let s1 := elapseTo l.limit s
      let s2 := match l.kind, lockRun s l.resource with
        | 1, _ => stopDma l.resource .eTimeout s1
        | 3, some k => finishRun k .eTimeout false s1
        | _, _ => s1
      exec (.leaseLimitExpiry lease) s = .next
        (workEnded (logEvent 0x07 0 0 0 0 (deviceScore s2) 0 0 { s2 with sched.leases := tdel s2.sched.leases lease }))) ∧
    (∀ (ctx side : Nat), ctx ≤ 512 → s.store.scrubs.head? = some (ctx, side) →
      exec (.ripcordScrubComplete ctx) s = .next (closeIfDone ctx (scrubCtx ctx side s))) ∧
    (∀ (ctx : Nat) (gang channel command : Option Nat), ctx ≤ 512 → gang.getD 0 ≤ 16 → channel.getD 0 ≤ 31 → ctx ≠ 0 →
      exec (.legAccessFault ctx gang channel command) s = .next (workEnded (ripcord ctx 1 s))) ∧
    (∀ (g : Nat) (channel command : Option Nat) (x : Gang) (c : Cur), g ≤ 16 → channel.getD 0 ≤ 31 → gangOf s g = some x →
      x.cur = some c → ((runOf s c.run).map fun r => r.ctx == 0).getD false = true →
      exec (.legAccessFault 0 (some g) channel command) s = .next (workEnded (finishRun c.run .eTransient false s))) ∧
    (∀ (n : Nat) (command : Option Nat) (d : Dma), n ≤ 31 → tget s.store.dma n = some d → d.ctx = 0 →
      exec (.legAccessFault 0 none (some n) command) s = .next (workEnded (stopDma n .eTransient s))) ∧
    (∀ (tag : Nat) (f : Flight), (inFlight s 0).find? (fun f => pTag f.pkt == tag) = some f →
      exec (.legAccessFault 0 none none (some tag)) s = .next (workEnded (stopCommand f.pkt s)))

/-- The effect of each leg, page and scratchpad event where it applies. Where a clause follows a choice of the model and no rule, it is that of log 26, 36, 54, 55. (R125, R171, R196, R197, R198, R224, R255, R270) -/
def Obligations.LegEventsComplete : Prop :=
  ∀ s : State,
    (∀ (e : LegEnd) (x : Gang) (c : Cur) (r : Run), e.gang ≤ 16 → gangOf s e.gang = some x → x.cur = some c → c.phase = .executing →
      runOf s c.run = some r →
      let p := runPlan s r
      let leg := legOf p r.counter
      let s1 := elapseTo (c.startAt + e.elapsed) s
      let own := checkErrs s1 e.gang c.attempt (computeLeg e.gang c.run r p leg c.draw s1).out
      let hard := gangErrs s1 e.gang e.errs
      let a : Attempt := { e := e, n := c.draw, sound := hard.isEmpty, no := c.attempt }
      aboveScaled s1 e.gang leg (num leg 4 4) e.elapsed = false → failCode e.fail = none → legBad s1 r p leg = [] → legWaits s r = false →
      exec (.legEnd e) s = .next
        (if (hard ++ own).isEmpty then agreeLeg e.gang c.run r c a s1 else disagreeLeg e.gang c.run r c (hard ++ own) a s1)) ∧
    (∀ (e : LegEnd) (x : Gang) (c : Cur) (r : Run), e.gang ≤ 16 → gangOf s e.gang = some x → x.cur = some c → c.phase = .executing →
      runOf s c.run = some r →
      let p := runPlan s r
      let leg := legOf p r.counter
      let s1 := elapseTo (c.startAt + e.elapsed) s
      aboveScaled s1 e.gang leg (num leg 4 4) e.elapsed = true →
      exec (.legEnd e) s = .next (lateLeg e.gang c s1)) ∧
    (∀ (e : LegEnd) (x : Gang) (c : Cur) (r : Run) (code : Code), e.gang ≤ 16 → gangOf s e.gang = some x → x.cur = some c →
      c.phase = .executing → runOf s c.run = some r →
      let p := runPlan s r
      let leg := legOf p r.counter
      let s1 := elapseTo (c.startAt + e.elapsed) s
      aboveScaled s1 e.gang leg (num leg 4 4) e.elapsed = false → failCode e.fail = some code → legWaits s r = false →
      exec (.legEnd e) s = .next (faultLeg c.run r code (legBad s1 r p leg) s1)) ∧
    (∀ (e : LegEnd) (x : Gang) (c : Cur) (r : Run), e.gang ≤ 16 → gangOf s e.gang = some x → x.cur = some c → c.phase = .executing →
      runOf s c.run = some r →
      let p := runPlan s r
      let leg := legOf p r.counter
      let s1 := elapseTo (c.startAt + e.elapsed) s
      aboveScaled s1 e.gang leg (num leg 4 4) e.elapsed = false → legWaits s r = true →
      exec (.legEnd e) s = .next (s)) ∧
    (∀ (gang stall : Nat) (x : Gang) (c : Cur) (r : Run), gang ≤ 16 → gangOf s gang = some x → x.cur = some c →
      runOf s c.run = some r → c.phase = .stalled →
      let leg := legOf (runPlan s r) r.counter
      let s1 := elapseTo (c.commitAt + stall) s
      aboveScaled s1 gang leg (num leg 12 4) stall = false → legWaits s r = false → c.attempt ≠ 0 ∨ (ctxOf s r.ctx).state ≠ .closing →
      exec (.prefetchComplete gang stall) s = .next (startLeg gang (countMiss gang c stall s1))) ∧
    (∀ (gang stall n : Nat) (x : Gang) (c : Cur) (r : Run) (q : Run) (b : Nat), gang ≤ 16 → gangOf s gang = some x → x.cur = some c →
      runOf s c.run = some r → c.phase = .executing → (pickLeg (predicted s gang) gang).1 = some (n, q, b) →
      exec (.prefetchComplete gang stall) s = .next (modGang gang (fun x => { x with prefetched := some (n, q.counter) }) s)) ∧
    (∀ (gang stall : Nat) (x : Gang) (c : Cur) (r : Run), gang ≤ 16 → gangOf s gang = some x → x.cur = some c →
      runOf s c.run = some r → c.phase = .stalled →
      let leg := legOf (runPlan s r) r.counter
      let s1 := elapseTo (c.commitAt + stall) s
      aboveScaled s1 gang leg (num leg 12 4) stall = true →
      exec (.prefetchComplete gang stall) s = .next (stallOver c r s1)) ∧
    (∀ (gang stall : Nat) (x : Gang) (c : Cur) (r : Run), gang ≤ 16 → gangOf s gang = some x → x.cur = some c →
      runOf s c.run = some r → c.phase = .stalled →
      let leg := legOf (runPlan s r) r.counter
      let s1 := elapseTo (c.commitAt + stall) s
      aboveScaled s1 gang leg (num leg 12 4) stall = false → (legWaits s r || (c.attempt == 0 && (ctxOf s r.ctx).state == .closing)) = true →
      exec (.prefetchComplete gang stall) s = .next (s)) ∧
    (∀ (gang : Nat) (x : Gang) (c : Cur) (r : Run), gang ≤ 16 → gangOf s gang = some x → x.cur = some c → runOf s c.run = some r →
      c.phase = .stalled →
      let leg := legOf (runPlan s r) r.counter
      exec (.stallLimitExpiry gang) s = .next (stallOver c r (elapseTo (c.commitAt + scaledNs s gang leg (num leg 12 4)) s))) ∧
    (∀ (gang : Nat) (x : Gang) (c : Cur) (r : Run), gang ≤ 16 → gangOf s gang = some x → x.cur = some c → runOf s c.run = some r →
      c.phase = .executing →
      let leg := legOf (runPlan s r) r.counter
      exec (.legLateLimit gang) s = .next (lateLeg gang c (elapseTo (c.startAt + scaledNs s gang leg (num leg 4 4)) s))) ∧
    (∀ (page : Nat) (q : KvPage), page < 1048576 → tget s.models.kvPages page = some q → reclaimable s q = true →
      exec (.pageReclaim page) s = .next ({ s with models.kvPages := tdel s.models.kvPages page })) ∧
    (∀ (gang stripe : Nat) (tiles : List Nat) (x : Gang) (c : Cur) (r : Run), gang ≤ 16 → gangOf s gang = some x → x.cur = some c →
      runOf s c.run = some r → c.phase = .executing →
      let p := runPlan s r
      let leg := legOf p r.counter
      let q0 := stripeLeg s gang p leg x
      let order := sortBy (fun a b => decide ((stripeAt x a).1 ≤ (stripeAt x b).1)) (List.range q0.n)
      let res := order.foldl (fun a b => advanceStripe r p leg c.draw b (tiles.getD b 0) a) (q0, s)
      let q := res.1
      let s1 := res.2
      let g := (stripeAt q.gang stripe).1 + 1
      let mates := (List.range q.n).filter fun b => b % q.panels == stripe % q.panels
      let go := g ≤ q.groups.length && (g = 1 || mates.all (q.through (g - 1))) && q.tileReady g stripe 0
      let y := if go then { q.gang with stripes := tput q.gang.stripes stripe (g, 0) } else q.gang
      num leg 24 1 = 3 → stripe < num leg 2 2 →
      exec (.stripeGroupStart gang stripe tiles) s = .next
        (modGang gang (fun x => { x with stripes := y.stripes })
          (if go then ownWrite gang (writeHalves r p leg y stripe) s1 else s1))) ∧
    (∀ (gang stage : Nat) (x : Gang) (c : Cur) (r : Run), gang ≤ 16 → gangOf s gang = some x → x.cur = some c →
      runOf s c.run = some r → c.phase = .executing →
      let p := runPlan s r
      let sts := stagesOf (legOf p r.counter)
      let steps := match r.step.bind StepInfo.cell with | some a => num (vread s r.ctx (a + 4) 2) 0 2 | none => 0
      let done := fun i => (tget x.stages i).getD 0
      (sts.all fun st => num st 0 1 == 4 && (num (descOf p st) 1 1).testBit 0) = true → stage < sts.length → done stage < steps →
      (stage = 0 ∨ done stage < done (stage - 1)) →
      exec (.pipelineStageStep gang stage) s = .next (modGang gang (fun y => { y with stages := tput y.stages stage (done stage + 1) }) s)) ∧
    (∀ (panel : Nat), panel ≤ 34 → (panelOf s panel).scrub = true →
      exec (.scratchpadScrubComplete panel) s = .next
        (boundary (if panel = 34 then 0 else (panelOf s panel).gang) false (modPanel panel (fun q => { q with scrub := false }) s)))

/-- The effect of each memory event where it applies. Where a clause follows a choice of the model and no rule, it is that of log 9, 28, 38, 39, 40. (R298, R302, R303, R305, R306, R308, R312) -/
def Obligations.MemoryEventsComplete : Prop :=
  ∀ s : State,
    (∀ (channel : Nat) (d : Dma) (outcome : Done), channel ≤ 30 → tget s.store.dma channel = some d →
      held s = false ∨ dmaHost s d = false → dmaBad s d.pkt = [] → doneCode outcome = none → keeperOn s = true →
      let t := correctedWords (dmaCorrected s d.pkt) (dropDma channel s)
      exec (.dmaTransferComplete channel outcome) s = .next
        (workEnded (settle (if d.convert then finishConvert d.pkt d.arms t else finishCopy d.pkt t)))) ∧
    (∀ (channel w : Nat) (ws : List Nat) (d : Dma) (outcome : Done), channel ≤ 30 → tget s.store.dma channel = some d →
      held s = false ∨ dmaHost s d = false → dmaBad s d.pkt = w :: ws → doneCode outcome = none → keeperOn s = true →
      exec (.dmaTransferComplete channel outcome) s = .next (workEnded (settle (failDma channel d (wordCode w) (wordEvent w d.ctx s))))) ∧
    (∀ (channel : Nat) (d : Dma) (outcome : Done) (code : Code), channel ≤ 30 → tget s.store.dma channel = some d →
      held s = false ∨ dmaHost s d = false → doneCode outcome = some code →
      exec (.dmaTransferComplete channel outcome) s = .next
        (workEnded (settle (failDma channel d code
          (match (dmaBad s d.pkt).find? (fun w => wordCode w == code) with | some w => wordEvent w d.ctx s | none => s))))) ∧
    (∀ (channel : Nat) (d : Dma) (outcome : Done), channel ≤ 30 → tget s.store.dma channel = some d → held s = true →
      dmaHost s d = true →
      exec (.dmaTransferComplete channel outcome) s = .next (s)) ∧
    (∀ (owner : PageOwner) (i f : Nat) (readable : Bool) (r : Retiring), s.safe.safeState = false ∨ s.safe.moveDone = false →
      s.store.retiring = some r → nextMigrate { s with safe.moveDone := s.safe.safeState } r.channel = some (owner, i, f) →
      exec (.memMovePageComplete owner readable) s = .next
        (workEnded (settle (migrateFrame r owner i f readable { s with safe.moveDone := s.safe.safeState })))) ∧
    (∀ (object i : Nat) (readable : Bool) (m : Move) (o : MemObj), s.safe.safeState = false ∨ s.safe.moveDone = false →
      (s.store.retiring.bind fun r => (nextMigrate { s with safe.moveDone := s.safe.safeState } r.channel).map fun x => (r, x)) = none →
      engineObj { s with safe.moveDone := s.safe.safeState } = some object → moveOf s object = some m →
      tget s.store.objs object = some o → nextPage { s with safe.moveDone := s.safe.safeState } o (stepTier o m.target) = some i →
      exec (.memMovePageComplete (.object object) readable) s = .next
        (workEnded (settle (afterPage object (movePage object i (stepTier o m.target) o { s with safe.moveDone := s.safe.safeState }))))) ∧
    (∀ (object : Nat) (readable : Bool) (m : Move) (o : MemObj), s.safe.safeState = false ∨ s.safe.moveDone = false →
      (s.store.retiring.bind fun r => (nextMigrate { s with safe.moveDone := s.safe.safeState } r.channel).map fun x => (r, x)) = none →
      engineObj { s with safe.moveDone := s.safe.safeState } = some object → moveOf s object = some m →
      tget s.store.objs object = some o → nextPage { s with safe.moveDone := s.safe.safeState } o (stepTier o m.target) = none →
      exec (.memMovePageComplete (.object object) readable) s = .next
        (workEnded (afterPage object { s with safe.moveDone := s.safe.safeState }))) ∧
    (∀ (owner : PageOwner) (readable : Bool), s.safe.safeState = true → s.safe.moveDone = true →
      exec (.memMovePageComplete owner readable) s = .next (s)) ∧
    (s.safe.safeState = false →
      exec .firmwarePlacement s = .next (placeAuto s)) ∧
    (s.safe.safeState = true →
      exec .firmwarePlacement s = .next (s)) ∧
    (∀ (ok : Bool) (c : ColdOp), oldestIo s = some c → ioWaits c s = false →
      exec (.coldTierCompletion 0 ok) s = .next (workEnded (endIo c ok s))) ∧
    (∀ (ok : Bool) (c : ColdOp), oldestIo s = some c → ioWaits c s = true →
      exec (.coldTierCompletion 0 ok) s = .next ((c.pkt.map fun p => hostWait p s).getD s)) ∧
    (∀ (object : Nat) (ok : Bool) (c : ColdOp) (o : MemObj) (m : Move), object ≠ 0 →
      s.store.cold.find? (fun c => c.obj == some object) = some c → tget s.store.objs object = some o → moveOf s object = some m →
      ok = false ∨ m.freeing.isSome = true →
      exec (.coldTierCompletion object ok) s = .next (workEnded (failColdOp object .eLowerTier s))) ∧
    (∀ (object : Nat) (c : ColdOp) (o : MemObj) (m : Move), object ≠ 0 → s.store.cold.find? (fun c => c.obj == some object) = some c →
      tget s.store.objs object = some o → moveOf s object = some m → m.freeing = none → c.done + 1 < o.pages → m.stopping = false →
      exec (.coldTierCompletion object true) s = .next
        ({ s with store.cold := s.store.cold.map fun x => if x.obj == some object then { x with done := x.done + 1 } else x })) ∧
    (∀ (object : Nat) (c : ColdOp) (o : MemObj) (m : Move), object ≠ 0 → s.store.cold.find? (fun c => c.obj == some object) = some c →
      tget s.store.objs object = some o → moveOf s object = some m → m.freeing = none → o.pages ≤ c.done + 1 →
      exec (.coldTierCompletion object true) s = .next
        (workEnded (settle (if o.tier = 2 then finishPromote object o s else finishEvict object o s)))) ∧
    (∀ (object : Nat) (c : ColdOp) (o : MemObj) (m : Move), object ≠ 0 → s.store.cold.find? (fun c => c.obj == some object) = some c →
      tget s.store.objs object = some o → moveOf s object = some m → m.freeing = none → c.done + 1 < o.pages → m.stopping = true →
      exec (.coldTierCompletion object true) s = .next (workEnded (pausePromote object (c.done + 1) s))) ∧
    (∀ (c : ColdOp), oldestIo s = some c → ioWaits c s = false →
      exec (.coldTierDeadline 0) s = .next (workEnded (endIo c false (elapseTo c.deadline s)))) ∧
    (∀ (object : Nat) (c : ColdOp), object ≠ 0 → s.store.cold.find? (fun c => c.obj == some object) = some c →
      exec (.coldTierDeadline object) s = .next (workEnded (failColdOp object .eLowerTier (elapseTo c.deadline s)))) ∧
    (∀ (c : ColdOp), oldestIo s = some c → ioWaits c s = true →
      exec (.coldTierDeadline 0) s = .next (s)) ∧
    (∀ (r : Retiring), s.store.retiring = some r → nextMigrate s r.channel = none →
      let s1 := { s with
        store.retiring := none
        store.channels := tmod s.store.channels r.channel fun d => { d with state := 2 }
        store.frames := tkeep s.store.frames fun f _ => dramChannel (f * 65536) != some r.channel }
      let s2 := retireReplies 3 r.channel (markRetired 3 r.channel 3 s1)
      exec .channelRetirementComplete s = .next
        (workEnded (nextRetire (r.pkts.foldl (fun t p => completeOk p r.migrated r.poisoned r.objects.length t) s2)))) ∧
    (∀ (word : Nat), word * 16 < 0x1800000 → dramChannel (word * 16) = none → addrReserved (word * 16) = false →
      wordAt s (word * 16) = .corrected →
      exec (.patrolScrub word) s = .next (settled (correctedWords [word] { s with store.words := tdel s.store.words word }))) ∧
    (∀ (word ch : Nat), word * 16 < 2 ^ 40 → addrReserved (word * 16) = false → dramChannel (word * 16) = some ch →
      chRetired s ch = false → dramFrame (word * 16) < 128 ∨ thas s.store.frames (word * 16 / 65536) = true →
      wordAt s (word * 16) = .corrected →
      exec (.patrolScrub word) s = .next (settled (correctedWords [word] { s with store.words := tdel s.store.words word }))) ∧
    (∀ (word : Nat), word * 16 < 2 ^ 40 → addrReserved (word * 16) = true →
      exec (.patrolScrub word) s = .next (settled (addressFault (word * 16) 0xFFFF s)))

/-- The effect of each camera event where it applies. Where a clause follows a choice of the model and no rule, it is that of log 29. (R316, R322, R329, R330, R332) -/
def Obligations.CameraEventsComplete : Prop :=
  ∀ s : State,
    (∀ (port vc : Nat), port ≤ 11 → camReceives s port = true →
      exec (.csiFrameStart port vc .bad) s = .next (settled (camLinkError port true (dropPacket port s)))) ∧
    (∀ (port vc : Nat) (ecc : CsiEcc), port ≤ 11 → camReceives s port = true → ecc ≠ .bad → vc ≠ ((camOf s port).port.getD {}).vc →
      exec (.csiFrameStart port vc ecc) s = .next (dropPacket port s)) ∧
    (∀ (port vc : Nat) (ecc : CsiEcc), port ≤ 11 → camReceives s port = true → vc = ((camOf s port).port.getD {}).vc → ecc ≠ .bad →
      (camOf (endLines port fTruncated s) port).state = 2 →
      let s1 := endLines port fTruncated s
      let now := s1.time.now
      let cfg := (camOf s port).port.getD {}
      let early := cfg.minUs != 0 && (((camOf s port).lastStart.map fun t => decide (now < t + cfg.minUs * 1000)).getD false)
      let s3 := beginFrame port ((if early then fEarly else 0) ||| (if ecc = .corrected then fEcc else 0))
        (modCam port (fun c => { c with lastStart := some now, interval := (c.lastStart.map fun t => now - t).or c.interval }) s1)
      let s4 := if ecc = .corrected then camLinkError port false s3 else s3
      exec (.csiFrameStart port vc ecc) s = .next
        (settled (if early then chanEvent 0x08 4 port 0 (camOf s port).owner s4.safe.cfg.wWatchdog 0 (camOf s4 port).frameNo s4 else s4))) ∧
    (∀ (l : CsiLine), l.port ≤ 11 → camReceives s l.port = true → l.ecc = .bad →
      exec (.csiLine l) s = .next
        (settled (camLinkError l.port true (dropPacket l.port (modCam l.port (missLine ((camOf s l.port).port.getD {}) l) s))))) ∧
    (∀ (l : CsiLine), l.port ≤ 11 → camReceives s l.port = true → l.ecc ≠ .bad → l.vc = ((camOf s l.port).port.getD {}).vc →
      l.dt = 0x12 → ((camOf s l.port).port.getD {}).embedded = true →
      let soft := fun t => if l.ecc = .corrected then camLinkError l.port false t else t
      let hard := fun t => if l.crcOk then t else camLinkError l.port true t
      exec (.csiLine l) s = .next
        (settled (hard (soft (modCam l.port (fun c =>
          { c with frame := c.frame.map fun f =>
              { f with
                embedded := (f.embedded ++ l.payload).take 1024
                flags := f.flags ||| lineFlags l } }) s))))) ∧
    (∀ (l : CsiLine), l.port ≤ 11 → camReceives s l.port = true → l.ecc ≠ .bad → l.vc = ((camOf s l.port).port.getD {}).vc →
      ¬(l.dt = 0x12 ∧ ((camOf s l.port).port.getD {}).embedded = true) → l.dt = ((camOf s l.port).port.getD {}).dt →
      let soft := fun t => if l.ecc = .corrected then camLinkError l.port false t else t
      let hard := fun t => if l.crcOk then t else camLinkError l.port true t
      exec (.csiLine l) s = .next (settled (hard (soft (modCam l.port (camLine ((camOf s l.port).port.getD {}) l) s))))) ∧
    (∀ (l : CsiLine), l.port ≤ 11 → camReceives s l.port = true → l.ecc ≠ .bad → l.vc = ((camOf s l.port).port.getD {}).vc →
      ¬(l.dt = 0x12 ∧ ((camOf s l.port).port.getD {}).embedded = true) → l.dt ≠ ((camOf s l.port).port.getD {}).dt →
      exec (.csiLine l) s = .next (dropPacket l.port s)) ∧
    (∀ (port vc : Nat), port ≤ 11 → camReceives s port = true → vc = ((camOf s port).port.getD {}).vc →
      exec (.csiFrameEnd port vc .good) s = .next (settled (endLines port 0 s))) ∧
    (∀ (port vc : Nat), port ≤ 11 → camReceives s port = true → vc = ((camOf s port).port.getD {}).vc →
      exec (.csiFrameEnd port vc .corrected) s = .next (settled (camLinkError port false (endLines port fEcc s)))) ∧
    (∀ (port vc : Nat), port ≤ 11 → camReceives s port = true →
      exec (.csiFrameEnd port vc .bad) s = .next (settled (camLinkError port true (dropPacket port s)))) ∧
    (∀ (port : Nat) (f : CamFrame) (rest : List CamFrame), port ≤ 11 → (camOf s port).finishing = f :: rest →
      exec (.slotComplete port) s = .next (completeSlot port f (modCam port (fun c => { c with finishing := rest }) s))) ∧
    (∀ (port : Nat) (f : CamFrame), port ≤ 11 → (camOf s port).finishing = [] → (camOf s port).frame = some f →
      exec (.slotComplete port) s = .next (settled (chanEvent 0x08 4 port 0 (camOf s port).owner s.safe.cfg.wWatchdog 0 f.number s))) ∧
    (∀ (port : Nat), port ≤ 11 → camReceives s port = true → ((camOf s port).port.getD {}).maxUs ≠ 0 →
      let s1 := match (camOf s port).lastStart with | some t => elapseTo (t + ((camOf s port).port.getD {}).maxUs * 1000) s | none => s
      exec (.frameIntervalTimeout port) s = .next
        (settled (chanEvent 0x07 4 port 0 (camOf s port).owner s1.safe.cfg.wWatchdog 0 (camOf s port).frameNo s1))) ∧
    (∀ (port : Nat), port ≤ 11 → s.cams.gate = true → (camOf s port).state = 2 → (camOf s port).sync = none →
      let s1 := match (camOf s port).lastStart with | some t => elapseTo (t + (camOf s port).interval.getD 33333000) s | none => s
      exec (.mutedFrameTimer port) s = .next (settled (mutedFrame port s1))) ∧
    (s.cams.pin = false →
      let s1 := glbEvent 4 { s with
        cams.pin := true, cams.gate := true
        cams.ports := tmap s.cams.ports fun _ c => { c with pwrEn := false } }
      exec .privCamAssert s = .next
        (settled ((List.range 12).foldl (fun t n =>
          if (camOf t n).frame.isSome then
            endFrame n 0 (modCam n (fun c => { c with frame := c.frame.map fun f => { f with flags := f.flags ||| fMuted, payload := [], embedded := [], rows := [] } }) t)
          else t) s1))) ∧
    (s.cams.pin = true →
      let s1 := elapseTo (s.time.now + 10000000) s
      exec .privCamRelease s = .next
        (glbEvent 4 { s1 with
          cams.pin := false, cams.gate := false
          cams.ports := tmap s1.cams.ports fun n c => { c with pwrEn := pwrLevel s1 n c } }))

/-- The effect of each audio event where it applies. Where a clause follows a choice of the model and no rule, it is that of log 30. (R344, R346, R348, R349) -/
def Obligations.AudioEventsComplete : Prop :=
  ∀ s : State,
    (∀ (b : AudioBlock),
      let i := s.reel.index
      let s1 := takeOffsets b (elapseTo ((i + 160) * 62500) s)
      let s3 := keepLines i b (reelBlockEnd i b ((tkeys s1.audio.rings).foldl (fun t r => ringBlock r i b t) s1))
      exec (.audioBlockEnd b) s = .next
        (settled (lineFaults b (takeRecords { s3 with
          audio.i2s := tmap s3.audio.i2s fun _ q => dropPlayed ((i + 160) * 62500) q })))) ∧
    (∀ (port : Nat) (g : Play), port ≤ 1 → (i2sOf s port).play = some g → g.running = true → (i2sOf s port).lost = false →
      s.safe.safeState = false → g.last = false → (held s && rangeHost s (i2sOf s port).owner g.addr 64) = false →
      let s1 := elapseTo (g.point - 1000000) s
      exec (.playbackBlockFetch port) s = .next
        (if num (vread s1 (i2sOf s port).owner g.addr 4) 0 4 = g.head then playZeros port (i2sOf s port) g s1
        else playBlock port (i2sOf s port) g s1)) ∧
    (∀ (port : Nat) (g : Play), port ≤ 1 → (i2sOf s port).play = some g → g.running = true → g.last = true →
      exec (.playbackBlockFetch port) s = .next
        (modI2s port (fun q => { q with play := some { g with running := false } }) (elapseTo g.point s))) ∧
    (∀ (port : Nat), port ≤ 1 → (i2sOf s port).target = true → (i2sOf s port).lost = false →
      exec (.i2sClockLoss port) s = .next
        (modI2s port (fun q => { q with
          lost := true, since := s.time.now - framesNs 2 q
          played := q.played.map fun e => (e.1, e.2.take ((s.time.now - framesNs 2 q - e.1) * portRate q / 10 ^ 18)) }) s)) ∧
    (∀ (port : Nat), port ≤ 1 → (i2sOf s port).lost = true →
      exec (.i2sClockResume port) s = .next
        (modI2s port (fun q => { q with
          lost := false, gaps := q.gaps ++ [(q.since, s.time.now)]
          play := q.play.map fun g => { g with point := max g.point s.time.now } }) s)) ∧
    (s.audio.pin = false →
      exec .privMicAssert s = .next (glbEvent 4 (micPins { s with audio.pin := true, audio.gate := true }))) ∧
    (s.audio.pin = true →
      exec .privMicRelease s = .next (glbEvent 4 (releaseMic (elapseTo (s.time.now + 10000000) s))))

/-- The effect of each time and event channel event where it applies. Where a clause follows a choice of the model and no rule, it is that of log 31. (R358, R359, R362, R369, R370) -/
def Obligations.TimekeeperEventsComplete : Prop :=
  ∀ s : State,
    (∀ (channel : Nat), channel ≤ 31 → keeperOn s = true → evMode (evOf s channel) = 1 → evArm (evOf s channel) = true →
      exec (.eventTriggerFire channel) s = .next
        (settled (fireTrigger channel false (elapseTo (s.time.now + (diff48 (evOf s channel).next.toNat (now48 s)).toNat) s)))) ∧
    (∀ (channel : Nat) (rising : Bool) (time : Nat), channel ≤ 31 → keeperOn s = true → takesEdge (evOf s channel) rising = true →
      edgeLost (evOf s channel) time = true →
      exec (.eventCaptureEdge channel rising time) s = .next
        (modEv channel (fun e => { e with stat := e.stat ||| 16, lost := e.lost + 1 }) (elapseTo time s))) ∧
    (∀ (channel : Nat) (rising : Bool) (time : Nat), channel ≤ 31 → keeperOn s = true → takesEdge (evOf s channel) rising = true →
      edgeLost (evOf s channel) time = false →
      exec (.eventCaptureEdge channel rising time) s = .next (settled (capture channel time (elapseTo time s)))) ∧
    (∀ (m : SyncMsg), m.domain ≤ 1 → m.port ≤ 1 → syncFollowed s m.domain m.port = true →
      let s1 := modDom m.domain (takeSync m s.time.now (syncOffset m s)) s
      exec (.gptpSync m) s = .next (reselect (if s1.time.sel = m.domain then { s1 with time.residual := residualOf s1 m.domain } else s1))) ∧
    (∀ (m : SyncMsg), m.domain ≤ 1 → m.port ≤ 1 → syncFollowed s m.domain m.port = false →
      exec (.gptpSync m) s = .next (s)) ∧
    (∀ (domain port receiptTimeout : Nat) (announced : Announced), domain ≤ 1 → port ≤ 1 → gptpHears s domain port = true →
      exec (.gptpAnnounce domain port announced receiptTimeout) s = .next
        (reselect (modDom domain (takeAnnounce port announced (s.time.now + receiptTimeout)) s))) ∧
    (∀ (port delay : Nat), port ≤ 1 → keeperOn s = true → (ethOf s port).up = true →
      let adj : Int := (s.time.adjust.getD (2 * port) 0 - s.time.adjust.getD (2 * port + 1) 0) / 2
      exec (.gptpPdelay port (.measured delay)) s = .next ({ s with time.delay := tput s.time.delay port ((delay : Int) + adj).toNat })) ∧
    (∀ (port time : Nat), port ≤ 1 → keeperOn s = true → (ethOf s port).up = true →
      let s1 := elapseTo time s
      exec (.gptpPdelay port (.request time)) s = .next
        (modEth port (fun e => { e with gptp := e.gptp ++ [.pdelayResp (ingress s1 port time).toNat] }) s1)) ∧
    (∀ (domain : Nat), domain ≤ 1 → 2 ≤ (domOf s domain).state →
      exec (.syncReceiptTimeout domain) s = .next (reselect (loseDom domain (elapseTo (receiptDue (domOf s domain)) s)))) ∧
    (s.time.revertive = true → s.time.forced = false → s.time.sel < 2 → s.time.sel ≠ preferred s → domLocked s (preferred s) = true →
      exec .revertiveTimer s = .next (glbEvent 5 (selectDom (preferred s) (elapseTo ((domOf s (preferred s)).lockedSince + 10 * 10 ^ 9) s)))) ∧
    (∀ (n : Nat), n ≤ 31 → (evOf s n).pulse = true →
      exec (.outputPulseEnd (some n) none) s = .next (modEv n (fun e => { e with pulse := false }) (elapseTo (evOf s n).pulseEnd s))) ∧
    (∀ (n : Nat), n ≤ 11 → (camOf s n).fsync = true →
      exec (.outputPulseEnd none (some n)) s = .next (modCam n (fun c => { c with fsync := false }) (elapseTo (camOf s n).fsyncEnd s)))

/-- The effect of each Ethernet and Gweug event where it applies. Where a clause follows a choice of the model and no rule, it is that of log 32. (R355, R357, R373, R378, R379, R380) -/
def Obligations.NetworkEventsComplete : Prop :=
  ∀ s : State,
    (∀ (f : EthFrame), f.port ≤ 1 → ethLive s f.port = true → f.kind ≠ .badFcs →
      frameFits (ethOf (elapseTo f.time s) f.port) f = true →
      exec (.ethFrameReceive f) s = .next (deliverFrame f (elapseTo f.time s))) ∧
    (∀ (f : EthFrame), f.port ≤ 1 → ethLive s f.port = true → f.kind = .badFcs →
      let s1 := elapseTo f.time s
      exec (.ethFrameReceive f) s = .next (settled (chanEvent 0x09 6 f.port 0 0xFFFF s1.safe.cfg.wSoft 0 0 (dropFrame f.port s1)))) ∧
    (∀ (f : EthFrame), f.port ≤ 1 → ethLive s f.port = true → f.kind ≠ .badFcs →
      frameFits (ethOf (elapseTo f.time s) f.port) f = false →
      exec (.ethFrameReceive f) s = .next (dropFrame f.port (elapseTo f.time s))) ∧
    (∀ (port time : Nat) (x : Sending), port ≤ 1 → ethLive s port = true → (ethOf s port).gptp = [] →
      nextSending (ethOf s port) = some x →
      let s0 := elapseTo time s
      let td := ((time : Int) + s.time.adjust.getD (2 * port + 1) 0).toNat
      let data := if fld x.pkt 19 1 = 0 then x.data else oneStep (clockTime s0 (fld x.pkt 19 1) td) (fld x.pkt 22 2) x.data
      let sum := if x.sum = 0 ∧ isV4 (slice x.pkt.bytes 24 16) then 0 else updateSum x.sum x.data data
      let s1 := modEth port (fun e => { e with
        sending := e.sending.filter fun y => y != x
        served := e.served.filter (· != sendQueue x) ++ [sendQueue x] }) s0
      let s3 := completeOk x.pkt (td % 2 ^ 32) (td / 2 ^ 32) x.data.length
        { s1 with out := s1.out ++ [.dgram 2 port (slice x.pkt.bytes 24 16) (fld x.pkt 20 2) data (vlanTag s1 port) sum] }
      exec (.ethFrameDepart port time) s = .next
        (workEnded (settle (if time < x.time then chanEvent 0x08 6 port 0 x.pkt.ctx s3.safe.cfg.wWatchdog 0 0 s3 else s3)))) ∧
    (∀ (port time : Nat) (g : GptpFrame) (rest : List GptpFrame), port ≤ 1 → ethLive s port = true → (ethOf s port).gptp = g :: rest →
      exec (.ethFrameDepart port time) s = .next (departGptp port time g (elapseTo time s))) ∧
    (∀ (port : Nat), port ≤ 1 → (ethOf s port).enable = true → chanRetired s 6 port = false → keeperOn s = true →
      (ethOf s port).up = false →
      exec (.ethLinkChange port true) s = .next (modEth port (fun e => { e with up := true, anDone := e.autoneg }) s)) ∧
    (∀ (port : Nat), port ≤ 1 → (ethOf s port).enable = true → chanRetired s 6 port = false → keeperOn s = true →
      (ethOf s port).up = true →
      let s1 := modEth port (fun e => { e with up := false, anDone := false, neighbors := [] }) s
      exec (.ethLinkChange port false) s = .next (settled (chanEvent 0x09 6 port 0 0xFFFF s1.safe.cfg.wLoss 0 0 s1))) ∧
    (∀ (port : Nat) (ip : List Byte), port ≤ 1 →
      let gone := (ethOf s port).resolving.filter fun x => x.hop == ip
      let s1 := match gone with | x :: _ => elapseTo (x.time + 10 ^ 9) s | [] => s
      exec (.neighborResolutionTimeout port ip) s = .next
        (workEnded (gone.foldl (fun t x => complete x.pkt .eTimeout 0 0 0 0 t)
          (modEth port (fun e => { e with resolving := e.resolving.filter fun x => x.hop != ip }) s1)))) ∧
    (∀ (m : GwMsg), m.type = 2 →
      exec (.gwHandshakeMessage m) s = .next (takeHello m s)) ∧
    (∀ (m : GwMsg), m.type = 3 →
      exec (.gwHandshakeMessage m) s = .next (takeReply m s)) ∧
    (∀ (m : GwMsg), m.type = 4 →
      exec (.gwHandshakeMessage m) s = .next (takeFinish m s)) ∧
    (∀ (m : GwMsg) (id : Nat), gwOpen m 7 s = some id →
      exec (.gwOffer m) s = .next (takeOffer m id (gwNote id m.counter s))) ∧
    (∀ (m : GwMsg) (id : Nat), gwOpen m 8 s = some id →
      exec (.gwAnswer m) s = .next (takeAnswer m id (gwNote id m.counter s))) ∧
    (∀ (m : GwMsg) (id : Nat), gwOpen m 1 s = some id →
      exec (.gwData m) s = .next (takeData m id (gwNote id m.counter s))) ∧
    (∀ (m : GwMsg) (id : Nat), gwOpen m 5 s = some id →
      exec (.gwAck m) s = .next (takeAck m id (gwNote id m.counter s))) ∧
    (∀ (m : GwMsg) (id : Nat), gwOpen m 6 s = some id →
      exec (.gwClose m) s = .next (gwDrop id (gwNote id m.counter s))) ∧
    (∀ (session transfer : Nat) (x : GwIn), inOf s session transfer = some x → x.unacked ≠ 0 →
      exec (.gwAckTimer session transfer) s = .next (sendAck x 0 (elapseTo (x.since + 1000000) s))) ∧
    (∀ (session transfer chunk : Nat) (x : GwOut), outOf s session transfer = some x → x.phase = 2 → chunk < x.sent → x.acked ≤ chunk →
      ¬(x.acked < chunk ∧ x.bitmap.testBit (chunk - x.acked - 1) = true) →
      let s1 := elapseTo ((tget x.times chunk).getD 0 + 5000000) s
      exec (.gwChunkRetransmit session transfer chunk) s = .next
        (modOut session transfer
          (fun x => { x with again := x.again + 1, times := tput x.times chunk s1.time.now }) (sendChunk x chunk s1))) ∧
    (∀ (session transfer : Nat) (x : GwOut), outOf s session transfer = some x →
      exec (.gwTransferDeadline session transfer true) s = .next
        (workEnded (complete x.pkt .eTimeout 0 0 0 0 (dropOut session transfer (elapseTo (x.last + x.deadlineMs * 1000000) s))))) ∧
    (∀ (session transfer : Nat) (x : GwIn), inOf s session transfer = some x →
      exec (.gwTransferDeadline session transfer false) s = .next (freeSlot x s)) ∧
    (∀ (session : Nat) (q : GwSession), tget s.net.gws session = some q →
      let s1 := elapseTo (q.lastRx + 60 * 10 ^ 9) s
      exec (.gwSessionIdleTimeout session) s = .next (gwDrop session (if q.phase = 3 then gwSend session 6 (toLE 16 0) s1 else s1)))

/-- The effect of each safety event where it applies. Where a clause follows a choice of the model and no rule, it is that of log 17, 18, 25, 34, 59. (R199, R386, R389, R393, R400, R401, R403, R463) -/
def Obligations.SafetyEventsComplete : Prop :=
  ∀ s : State,
    (∀ (panel n pos : Nat) (x : Gang), panel ≤ 33 → gangOf s (panelOf s panel).gang = some x →
      x.awaiting.find? (fun e => e.1 == panel) = some (panel, n, pos) →
      let g := (panelOf s panel).gang
      let s1 := modGang g (fun x => { x with awaiting := x.awaiting.filter fun e => e.1 != panel }) s
      let s2 := modTest (chKey 1 panel) (fun x => { x with last := s.time.now }) s1
      exec (.spareReady panel true) s = .next (boundary g false (modGang g (fun x => { x with ready := x.ready ++ [(panel, n, pos)] }) s2))) ∧
    (∀ (panel n pos : Nat) (x : Gang), panel ≤ 33 → gangOf s (panelOf s panel).gang = some x →
      x.awaiting.find? (fun e => e.1 == panel) = some (panel, n, pos) →
      let g := (panelOf s panel).gang
      let s1 := modGang g (fun x => { x with awaiting := x.awaiting.filter fun e => e.1 != panel }) s
      let s2 := modPanel panel (fun q => { q with state := .retired, gang := 0, powered := false, replaces := none, place := none }) s1
      let s3 := markRetired 1 panel 3 (logEvent 0x0D 1 panel 3 0xFFFF (chanScore s2 1 panel) 0 0 s2)
      exec (.spareReady panel false) s = .next (afterBound (callSpare g n pos (retireReplies 1 panel s3)))) ∧
    (∀ (t : Nat), (leakTimes s).min? = some t →
      exec .scoreLeak s = .next (dropLeaked (elapseTo t s))) ∧
    (∀ (type index : Nat), type = 1 ∧ index < 34 ∨ type = 2 ∧ index = 0 → testedUnit s type index = true →
      (tgetD s.safe.tests (chKey type index)).degraded = false →
      let s1 := elapseTo ((tgetD s.safe.tests (chKey type index)).last + s.safe.cfg.intervalMs * 1000000) s
      exec (.selfTestDeadline type index) s = .next
        (logEvent 0x0C type index 0 0xFFFF (chanScore s1 type index) 0 0
          (modTest (chKey type index) (fun x => { x with degraded := true }) s1))) ∧
    (∀ (n : Nat) (f : CamFrame), n ≤ 11 → (camOf s n).finishing.find? (fun f => !f.late) = some f →
      let s2 := modCam n (fun c =>
        { c with finishing := c.finishing.map fun x => if x.number = f.number then { x with late := true } else x })
        (elapseTo (f.ended.getD 0 + 5000000) s)
      exec (.windowWatchdogLate (.camera n)) s = .next (settle (chanEvent 0x07 4 n 0 (camOf s n).owner s2.safe.cfg.wWatchdog 0 f.number s2))) ∧
    (∀ (n : Nat) (x : Gang) (c : Cur), n ≤ 33 → (panelOf s n).state = .inGang → gangOf s (panelOf s n).gang = some x →
      (panelOf s n).gang ≤ 16 → x.cur = some c → x.panels.contains n = true →
      ∃ t, exec (.windowWatchdogLate (.tail n)) s = .next t ∧ exec (.legEnd
        { gang := (panelOf s n).gang, errs := [{ slice := sliceAt x.panels.length c.attempt (x.panels.findIdx (· == n)), panel := n, kind := .tailWatchdog }]
          fail := .none, writes := [], notes := 0, stats := [], cells := [], emptyRows := [], unchecked := []
          elapsed := s.time.now - c.startAt }) s = .next t) ∧
    (∀ (x : Gang) (c : Cur), gangOf s 0 = some x → x.cur = some c →
      ∃ t, exec (.windowWatchdogLate .kiteTail) s = .next t ∧ exec (.legEnd
        { gang := 0, errs := [{ slice := sliceAt 2 c.attempt 0, panel := 0, kind := .tailWatchdog }]
          fail := .none, writes := [], notes := 0, stats := [], cells := [], emptyRows := [], unchecked := []
          elapsed := s.time.now - c.startAt }) s = .next t) ∧
    (∀ (n : Nat) (d : Dma), n ≤ 30 → tget s.store.dma n = some d →
      exec (.windowWatchdogLate (.dmaEarly n)) s = .next (deviceEvent 0x08 0 d.ctx s.safe.cfg.wWatchdog 0 0 s)) ∧
    (∀ (n : Nat) (x : Sending), n ≤ 1 → (ethOf s n).sending.find? (fun x => !x.late) = some x → (ethOf s n).up = true →
      let s2 := modEth n (fun e =>
        { e with sending := e.sending.map fun y => if y.pkt == x.pkt then { y with late := true } else y }) (elapseTo (x.time + 1000000) s)
      exec (.windowWatchdogLate (.ethernet n)) s = .next (settle (chanEvent 0x07 6 n 0 x.pkt.ctx s2.safe.cfg.wWatchdog 0 0 s2))) ∧
    (∀ (ring : Nat), ring ≤ 7 →
      exec (.windowWatchdogLate (.audio ring)) s = .next (ringLate ring s)) ∧
    (∀ (role : PairRole), role = .standby → s.safe.standby = true →
      let s1 := noteMismatch (pairNo role) s
      let s2 := logEvent 0x0E 0 0 0 0xFFFF (deviceScore s1) 0 0 (if role = .safety then assertFault true s1 else s1)
      let s3 := if 2 ≤ s.boot.updStage then cancelUpdate .eCheck s2 else s2
      exec (.lockstepMismatch role) s = .next ({ s3 with safe.standby := false })) ∧
    (∀ (role : PairRole), role ≠ .standby → standbyFree s = false →
      let s1 := noteMismatch (pairNo role) s
      let s2 := logEvent 0x0E 0 0 0 0xFFFF (deviceScore s1) 0 0 (if role = .safety then assertFault true s1 else s1)
      let s3 := if 2 ≤ s.boot.updStage then cancelUpdate .eCheck s2 else s2
      exec (.lockstepMismatch role) s = .next (workEnded (enterSafe s3))) ∧
    (∀ (role : PairRole), role ≠ .standby → standbyFree s = true →
      let s1 := noteMismatch (pairNo role) s
      let s2 := logEvent 0x0E 0 0 0 0xFFFF (deviceScore s1) 0 0 (if role = .safety then assertFault true s1 else s1)
      let s3 := if 2 ≤ s.boot.updStage then cancelUpdate .eCheck s2 else s2
      let s4 := { s3 with safe.standby := false, safe.takeover := some (decide (role = .safety)) }
      exec (.lockstepMismatch role) s = .next (if role = .command then endInterpretation s4 else s4)) ∧
    (∀ (passed safety : Bool), s.safe.takeover = some safety →
      exec (.standbyTakeover passed) s = .next
        (workEnded (boundaries (settleTiers (settle (newStandby passed (swapPairs (b2n safety) 2 { s with safe.takeover := none }))))))) ∧
    (∀ (passed : Bool), s.safe.takeover = none → s.safe.standby = false → s.safe.pairsOut = 0 →
      exec (.standbyTakeover passed) s = .next (newStandby passed s)) ∧
    (∀ (rail : Rail) (below50 : Bool), s.boot.phase ≠ .reset →
      rail = .aon ∨ rail = .aonio ∨ (below50 = true ∧ rail ≠ .bal ∧ rail ≠ .ser ∧ rail ≠ .hser ∧ rail ≠ .phy18) →
      exec (.supplyExcursion rail below50) s = .next (powerState s)) ∧
    (∀ (rail : Rail) (below50 : Bool), s.boot.phase ≠ .reset →
      ¬(rail = .aon ∨ rail = .aonio ∨ (below50 = true ∧ rail ≠ .bal ∧ rail ≠ .ser ∧ rail ≠ .hser ∧ rail ≠ .phy18)) →
      exec (.supplyExcursion rail below50) s = .next (railStop rail (deviceEvent 0x14 0 0xFFFF s.safe.cfg.wLoss 0 0 s))) ∧
    (∀ (n : Nat), n ≤ 33 →
      exec (.clockMonitorFault (.panel n)) s = .next
        (stopLegs (fun g => (panelOf s n).state == .inGang && g == (panelOf s n).gang) (clockCharge 1 n s))) ∧
    (exec (.clockMonitorFault .kite) s = .next (stopLegs (fun g => g == 0) (clockCharge 2 0 s))) ∧
    (∀ (n : Nat), n ≤ 11 →
      exec (.clockMonitorFault (.camera n)) s = .next (settled (haltCam n (clockCharge 4 n s)))) ∧
    (exec (.clockMonitorFault .presence) s = .next (settled (clockCharge 4 12 s))) ∧
    (exec (.clockMonitorFault .network) s = .next (settled (ethDown 0 (ethDown 1 (clockDevice s))))) ∧
    (exec (.clockMonitorFault .host) s = .next (hostDown (clockDevice s))) ∧
    (∀ (u : ClockUnit), u = .stateStore ∨ u = .memory →
      exec (.clockMonitorFault u) s = .next (haltMemory (clockDevice s))) ∧
    (exec (.clockMonitorFault .mooring) s = .next (startLp (clockDevice s))) ∧
    (exec (.clockMonitorFault .audio) s = .next (haltAudio (clockDevice s))) ∧
    (exec (.clockMonitorFault .bridle) s = .next (endInterpretation (clockDevice s))) ∧
    (∀ (type index : Nat) (passed : Bool), type = 1 ∧ index < 34 ∨ type = 2 ∧ index = 0 →
      (tgetD s.safe.tests (chKey type index)).running = true →
      let k := chKey type index
      let x := tgetD s.safe.tests k
      let g := testGang s k
      let s1 := modPanel (if type = 2 then 34 else index) (fun q => { q with scrub := true }) (modTest k (fun x => { x with running := false }) s)
      let s2 := modTest k (fun x => { x with slice := 0, forced := false, degraded := false }) s1
      exec (.selfTestSliceComplete type index passed) s = .next
        (if passed then
          if x.slice + 1 < 4 then boundary g false (testFree k (modTest k (fun x => { x with slice := x.slice + 1 }) s1))
          else boundary g false (testReplies k true
            (modTest k (fun x => { x with slice := 0, last := s.time.now, forced := false, degraded := false }) s1))
        else boundary g false (afterBound (testReplies k false
          (retireNow type index (logEvent 0x0D type index 3 0xFFFF (chanScore s2 type index) 0 0 s2))))))

/-- The effect of each power event where it applies. Where a clause follows a choice of the model and no rule, it is that of log 33, 53. (R413, R415, R418, R419, R425, R427, R428, R429) -/
def Obligations.PowerEventsComplete : Prop :=
  ∀ s : State,
    (∀ (a t : Nat), s.power.enter = some (a, t) →
      exec .pwrEnterDeadline s = .next ({ elapseTo t s with power.enter := none, power.lapsed := true })) ∧
    (moorReady s = true → s.power.move = none →
      exec .moorEntry s = .next (leaveHq { s with power.move := some { target := .moor, origin := s.power.state } })) ∧
    (s.power.state = .moor ∨ s.power.state = .sample → s.power.move = none → s.power.floor = 4 → s.power.dormantS ≠ 0 →
      let s1 := elapseTo (s.power.quietFrom + s.power.dormantS * 1000000000) s
      exec .dormantDelayExpiry s = .next ({ s1 with power.move := some { target := .dormant, origin := s1.power.state } })) ∧
    (∀ (address : Nat) (argument : Option Nat), wakeArmed s = true → s.power.i2c.testBit 7 = true → s.power.i2c % 128 = address →
      let s1 := wakeTo (if s.power.wakeFlags.testBit 1 then .run else .moor) 4 (if s.power.nack then 0 else argument.getD 0 % 256) s
      exec (.i2c0AddressMatch address argument) s = .next ({ s1 with pins.stretch := !s.power.nack && s1.power.state == .dormant })) ∧
    (
      let s1 := { s with link.perst0 := false, link.wakeDriven := false }
      exec .pePerst0Deassert s = .next (if wakeArmed s1 then wakeTo .run 5 0 s1 else tryTrain s1)) ∧
    (wakeArmed s = true → s.power.wakeFlags.testBit 0 = true → s.link.wakeDriven = false →
      exec .peWakeNSense s = .next (wakeTo (if s.power.wakeFlags.testBit 3 then .run else .moor) 6 0 s)) ∧
    (∀ (power roomed : Nat) (t : State), keeperOn s = true →
      let s1 := takeSample power (elapseTo (nextGrid 1000000 s) s)
      effCap s1 * 1000 < power → throttle s1 = some t →
      exec (.governorTick power roomed) s = .next (boundaries (trimState (glbEvent 3 t)))) ∧
    (∀ (power roomed : Nat) (t : State), keeperOn s = true →
      let s1 := takeSample power (elapseTo (nextGrid 1000000 s) s)
      power ≤ effCap s1 * 1000 → roomed + 1000 ≤ effCap s1 * 1000 → unthrottle s1 = some t →
      exec (.governorTick power roomed) s = .next (boundaries (trimState (glbEvent 3 t)))) ∧
    (∀ (power roomed : Nat), keeperOn s = true →
      let s1 := takeSample power (elapseTo (nextGrid 1000000 s) s)
      power ≤ effCap s1 * 1000 → effCap s1 * 1000 < roomed + 1000 →
      exec (.governorTick power roomed) s = .next (s1)) ∧
    (∀ (others : Int) (panels : List (Nat × Int)), keeperOn s = true →
      let s0 := readPanels panels (elapseTo (nextGrid 100000000 s) s)
      let hot := hottestOf others panels s0
      let s1 := readHot hot s0
      exec (.thermalCapTick others panels) s = .next
        (boundaries (if nextThermal hot s1.power.thermal = s1.power.thermal then s1
        else glbEvent 3 { s1 with power.thermal := nextThermal hot s1.power.thermal }))) ∧
    (∀ (hottest : Int), tjMax + 20 ≤ hottest → s.power.tripped = false →
      exec (.thermalTrip hottest) s = .next
        (stopLegs (fun _ => true) (ballastAll 5 (glbEvent 3 (readHot hottest { s with power.tripped := true, power.trippedEver := true }))))) ∧
    (∀ (hottest : Int), hottest < tjMax - 32 → s.power.tripped = true →
      exec (.thermalTripRelease hottest) s = .next
        (boundaries (glbEvent 3 (readHot hottest { s with power.tripped := false, power.thermal := 15 })))) ∧
    (∀ (m : PMove), s.power.move = some m → s.power.state = .run ∨ s.power.state = .trim → m.target = .moor → moorReady s = true →
      s.reel.source ≠ 2 →
      exec .powerStateMoveComplete s = .next (enterMoor s)) ∧
    (∀ (m : PMove), s.power.move = some m → s.power.state = .run ∨ s.power.state = .trim → m.target = .moor → moorReady s = true →
      s.reel.source = 2 →
      exec .powerStateMoveComplete s = .next (leaveHq s)) ∧
    (∀ (m : PMove), s.power.move = some m → s.power.state = .run ∨ s.power.state = .trim → ¬(m.target = .moor ∧ moorReady s = true) →
      exec .powerStateMoveComplete s = .next (keepHq { s with power.move := none })) ∧
    (∀ (m : PMove), s.power.move = some m → s.power.state ≠ .run → s.power.state ≠ .trim → viaMoor s m = true →
      exec .powerStateMoveComplete s = .next ({ riseMoor s with power.move := some { target := .run, origin := .moor } })) ∧
    (∀ (m : PMove), s.power.move = some m → s.power.state ≠ .run → s.power.state ≠ .trim → viaMoor s m = false →
      exec .powerStateMoveComplete s = .next
        (match m.target with
        | .run => riseRun s
        | .trim => riseRun s
        | .moor => afterLow (riseMoor s)
        | .sample => micPins (afterLow (reach .sample (sleepMics s)))
        | .dormant => enterDormant s))

/-- A frame that holds whatever the outcome. (R101, R106, R136, R312, R80) -/
def Obligations.HostSideCommandsFrame : Prop :=
  ∀ (p : Pkt) (c : Instr) (s t : State),
    (c = .devNop p ∨ c = .devInfo p ∨ c = .devStats p ∨ c = .devRejectLog p ∨ c = .devKeyEnroll p ∨ c = .devKeyRevoke p ∨
      c = .devKeyList p ∨ c = .devNetConfig p ∨ c = .devSessions p ∨ c = .devSessionClose p ∨ c = .ctxQuery p ∨
      c = .ctxSetQuota p ∨ c = .ctxSeal p ∨ c = .ctxQueueCreate p ∨ c = .ctxQueueDestroy p ∨ c = .ctxLeases p ∨
      c = .ctxXlate p ∨ c = .memMapHost p ∨ c = .memProtect p ∨ c = .memPin p ∨ c = .memQuery p ∨ c = .memChannels p ∨
      c = .memChannelRetire p ∨ c = .memColdIo p) → exec c s = .next t →
    t.pending = s.pending ∧ t.casc = s.casc ∧ t.reel = s.reel ∧ t.sched = s.sched ∧ t.models = s.models ∧
      t.cams = s.cams ∧ t.audio = s.audio ∧ t.time = s.time ∧ t.net = s.net ∧ t.power = s.power ∧ t.boot = s.boot ∧
      t.freeCtr = s.freeCtr ∧
      (∃ u, (u = s ∨ ((c = .devKeyEnroll p ∨ c = .ctxSetQuota p ∨ c = .memColdIo p) ∧ ∃ w, u = wordEvent w p.ctx s) ∨
        ((c = .devKeyEnroll p ∨ c = .ctxSetQuota p ∨ c = .memColdIo p) ∧ ∃ ws, u = correctedWords ws s)) ∧
        t.glb = u.glb ∧ t.safe = u.safe ∧ t.pins = u.pins)

/-- A frame that holds whatever the outcome. (R46, R80) -/
def Obligations.CascadeCommandsFrame : Prop :=
  ∀ (p : Pkt) (c : Instr) (s t : State),
    (c = .cascQuery p ∨ c = .cascSetSource p ∨ c = .cascBind p ∨ c = .cascSetHold p ∨ c = .cascReadLog p ∨
      c = .cascReadReel p ∨ c = .cascCounters p ∨ c = .cascSetTimer p) → exec c s = .next t →
    t.pending = s.pending ∧ t.glb = s.glb ∧ t.sched = s.sched ∧ t.models = s.models ∧ t.cams = s.cams ∧
      t.audio = s.audio ∧ t.time = s.time ∧ t.net = s.net ∧ t.safe = s.safe ∧ t.power = s.power ∧ t.boot = s.boot ∧
      t.pins = s.pins ∧ t.freeCtr = s.freeCtr

/-- A frame that holds whatever the outcome. (R136, R163, R312, R80) -/
def Obligations.ScheduleCommandsFrame : Prop :=
  ∀ (p : Pkt) (c : Instr) (s t : State),
    (c = .gangQuery p ∨ c = .gangDestroy p ∨ c = .memFree p ∨ c = .memCopy p ∨ c = .memPlace p ∨ c = .planLoad p ∨
      c = .planQuery p ∨ c = .planBindEvent p ∨ c = .gangStats p ∨ c = .panelQuery p ∨ c = .moorLoad p ∨ c = .moorQuery p ∨
      c = .safeE2e p ∨ c = .qconvert p) → exec c s = .next t →
    t.pending = s.pending ∧ t.casc = s.casc ∧ t.reel = s.reel ∧ t.models = s.models ∧ t.cams = s.cams ∧
      t.audio = s.audio ∧ t.time = s.time ∧ t.net = s.net ∧ t.power = s.power ∧ t.boot = s.boot ∧ t.freeCtr = s.freeCtr ∧
      (∃ u, (u = s ∨ ((c = .planLoad p ∨ c = .moorLoad p) ∧ ∃ w, u = wordEvent w p.ctx s) ∨
        ((c = .planLoad p ∨ c = .moorLoad p) ∧ ∃ ws, u = correctedWords ws s)) ∧
        t.glb = u.glb ∧ t.safe = u.safe ∧ t.pins = u.pins)

/-- A frame that holds whatever the outcome. (R163, R80) -/
def Obligations.ModelStateCommandsFrame : Prop :=
  ∀ (p : Pkt) (c : Instr) (s t : State),
    (c = .kvPoolCreate p ∨ c = .kvPoolDestroy p ∨ c = .kvSeqCreate p ∨ c = .kvFork p ∨ c = .kvTruncate p ∨ c = .kvFree p ∨
      c = .kvSeqQuery p ∨ c = .kvPageQuery p ∨ c = .kvRead p ∨ c = .kvWait p ∨ c = .kvPoolQuery p ∨ c = .kvExport p ∨
      c = .kvImport p ∨ c = .strmSetCreate p ∨ c = .strmSetDestroy p ∨ c = .strmStart p ∨ c = .strmPause p ∨
      c = .strmResume p ∨ c = .strmEnd p ∨ c = .strmQuery p ∨ c = .strmSentinel p ∨ c = .strmRead p ∨ c = .strmExport p ∨
      c = .strmImport p ∨ c = .strmPeer p ∨ c = .qstatArm p ∨ c = .qstatDisarm p ∨ c = .qstatRead p ∨ c = .qstatQuery p) → exec c s = .next t →
    t.pending = s.pending ∧ t.casc = s.casc ∧ t.reel = s.reel ∧ t.cams = s.cams ∧ t.audio = s.audio ∧ t.time = s.time ∧
      t.net = s.net ∧ t.power = s.power ∧ t.boot = s.boot ∧
      (∃ u, (u = s ∨ ((c = .kvRead p ∨ c = .kvExport p ∨ c = .kvImport p ∨ c = .strmSetCreate p ∨ c = .strmStart p ∨
        c = .strmRead p ∨ c = .strmExport p ∨ c = .strmImport p ∨ c = .strmPeer p) ∧ ∃ w, u = wordEvent w p.ctx s) ∨
        ((c = .kvRead p ∨ c = .kvExport p ∨ c = .kvImport p ∨ c = .strmSetCreate p ∨ c = .strmStart p ∨ c = .strmRead p ∨
          c = .strmExport p ∨ c = .strmImport p ∨ c = .strmPeer p) ∧ ∃ ws, u = correctedWords ws s)) ∧
        t.glb = u.glb ∧ t.safe = u.safe ∧ t.pins = u.pins)

/-- A frame that holds whatever the outcome. (R332, R80) -/
def Obligations.CameraCommandsFrame : Prop :=
  ∀ (p : Pkt) (c : Instr) (s t : State),
    (c = .camQuery p ∨ c = .camAssign p ∨ c = .camPort p ∨ c = .camParams p ∨ c = .camOutput p ∨ c = .camStart p ∨
      c = .camStop p ∨ c = .camPower p ∨ c = .camSync p ∨ c = .camWindow p ∨ c = .camAttach p ∨ c = .camWait p ∨
      c = .camPresence p) → exec c s = .next t →
    t.pending = s.pending ∧ t.casc = s.casc ∧ t.reel = s.reel ∧ t.models = s.models ∧ t.audio = s.audio ∧
      t.time = s.time ∧ t.net = s.net ∧ t.power = s.power ∧ t.boot = s.boot ∧ t.freeCtr = s.freeCtr ∧
      (∃ u, (u = s ∨ ((c = .camParams p ∨ c = .camPresence p) ∧ ∃ w, u = wordEvent w p.ctx s) ∨
        ((c = .camParams p ∨ c = .camPresence p) ∧ ∃ ws, u = correctedWords ws s)) ∧
        t.glb = u.glb ∧ t.safe = u.safe ∧ t.pins = u.pins)

/-- A frame that holds whatever the outcome. (R352, R80) -/
def Obligations.AudioCommandsFrame : Prop :=
  ∀ (p : Pkt) (c : Instr) (s t : State),
    (c = .audQuery p ∨ c = .audAssign p ∨ c = .audClock p ∨ c = .audLp p ∨ c = .audBeam p ∨ c = .audCapture p ∨
      c = .audStart p ∨ c = .audStop p ∨ c = .audI2s p ∨ c = .audPlay p ∨ c = .audWait p) → exec c s = .next t →
    t.pending = s.pending ∧ t.casc = s.casc ∧ t.reel = s.reel ∧ t.sched = s.sched ∧ t.models = s.models ∧
      t.cams = s.cams ∧ t.time = s.time ∧ t.net = s.net ∧ t.power = s.power ∧ t.boot = s.boot ∧ t.freeCtr = s.freeCtr ∧
      (∃ u, (u = s ∨ ((c = .audLp p ∨ c = .audBeam p) ∧ ∃ w, u = wordEvent w p.ctx s) ∨
        ((c = .audLp p ∨ c = .audBeam p) ∧ ∃ ws, u = correctedWords ws s)) ∧
        t.glb = u.glb ∧ t.safe = u.safe ∧ t.pins = u.pins)

/-- A frame that holds whatever the outcome. (R382, R80) -/
def Obligations.TimeAndNetworkCommandsFrame : Prop :=
  ∀ (p : Pkt) (c : Instr) (s t : State),
    (c = .tkQuery p ∨ c = .tkConfig p ∨ c = .tkSelect p ∨ c = .evAssign p ∨ c = .evQuery p ∨ c = .evReadCapture p ∨
      c = .netConfig p ∨ c = .netQuery p ∨ c = .netBind p ∨ c = .netSend p ∨ c = .gwFleet p ∨ c = .gwInbox p ∨
      c = .gwSend p ∨ c = .gwQuery p) → exec c s = .next t →
    t.pending = s.pending ∧ t.casc = s.casc ∧ t.reel = s.reel ∧ t.sched = s.sched ∧ t.models = s.models ∧
      t.cams = s.cams ∧ t.audio = s.audio ∧ t.power = s.power ∧ t.boot = s.boot ∧
      (∃ u, (u = s ∨ ((c = .netConfig p ∨ c = .netSend p ∨ c = .gwFleet p ∨ c = .gwSend p) ∧ ∃ w, u = wordEvent w p.ctx s) ∨
        ((c = .netConfig p ∨ c = .netSend p ∨ c = .gwFleet p ∨ c = .gwSend p) ∧ ∃ ws, u = correctedWords ws s)) ∧
        t.safe = u.safe ∧ t.pins = u.pins)

/-- A frame that holds whatever the outcome. (R408, R429, R450, R80) -/
def Obligations.SafetyPowerAndSecurityCommandsFrame : Prop :=
  ∀ (p : Pkt) (c : Instr) (s t : State),
    (c = .safeQuery p ∨ c = .safeLogRead p ∨ c = .safeChannels p ∨ c = .safeConfig p ∨ c = .safeClear p ∨ c = .pwrQuery p ∨
      (c = .pwrCap p ∧ fld p 17 1 ≤ s.power.pt0) ∨ c = .pwrPolicy p ∨ c = .pwrWake p ∨ c = .pwrEnter p ∨
      c = .padsRelease p ∨ c = .pwrPads p ∨ c = .bootJournal p ∨ c = .bootRetry p ∨ c = .secCert p ∨ c = .secAttest p ∨
      c = .secPair p ∨ c = .secOwner p ∨ c = .secConfig p ∨ c = .secFloor p ∨ c = .updStage p ∨ c = .updActivate p ∨
      c = .updCancel p ∨ c = .updQuery p) → exec c s = .next t →
    t.pending = s.pending ∧ t.casc = s.casc ∧ t.reel = s.reel ∧ t.sched = s.sched ∧ t.models = s.models ∧
      t.audio = s.audio ∧ t.time = s.time ∧ t.net = s.net

/-- A frame that holds whatever the outcome. (R81, R87, R93, R96) -/
def Obligations.SessionEventsFrame : Prop :=
  ∀ (c : Instr) (s t : State), (
    (∃ (p : Pkt) (chain : List Pkt), c = .packetFetch p chain) ∨
    (∃ (ctx : Nat) (tag : Nat), c = .packetDispatch ctx tag) ∨
    (∃ (ctx : Nat) (tag : Nat), c = .dependencyTimeout ctx tag) ∨
    (∃ (d : Dgram), c = .stolpHello d) ∨
    (∃ (d : Dgram), c = .stolpFinish d) ∨
    (∃ (d : Dgram), c = .stolpData d) ∨
    (∃ (d : Dgram), c = .stolpClose d) ∨
    (∃ (session : Nat), c = .handshakeTimeout session) ∨
    (∃ (session : Nat), c = .sessionIdleTimeout session) ∨
    (∃ (session : Nat), c = .creditTimer session) ∨
    (∃ (session : Nat), c = .replyBatchTimeout session)) → exec c s = .next t →
    t.pending = s.pending ∧ t.glb = s.glb ∧ t.casc = s.casc ∧ t.reel = s.reel ∧ t.sched = s.sched ∧ t.models = s.models ∧
      t.cams = s.cams ∧ t.audio = s.audio ∧ t.net = s.net ∧ t.safe = s.safe ∧ t.power = s.power ∧ t.boot = s.boot ∧
      t.pins = s.pins

/-- A frame that holds whatever the outcome. (R51, R57, R62, R73) -/
def Obligations.RegisterEventsFrame : Prop :=
  ∀ (c : Instr) (s t : State), (
    (∃ (write : Bool), c = .bar0UnsupportedAccess write) ∨
    (∃ (wide : Bool), c = .glbTimeLoRead wide) ∨
    (∃ (value : Nat) (hwSets : Nat), c = .glbEventClear value hwSets) ∨
    (∃ (value : Nat) (hwSets : Nat), c = .glbErrClear value hwSets) ∨
    (∃ (value : Nat), c = .mgmtRingEnable value) ∨
    (∃ (value : Nat), c = .mgmtRingDisable value) ∨
    (∃ (page : Nat) (queue : Nat) (value : Nat), c = .dbSqWrite page queue value) ∨
    (∃ (page : Nat) (value : Nat), c = .dbSrWrite page value) ∨
    (∃ (vector : Option Nat), c = .msixEntryUnmask vector) ∨
    (∃ (kind : LinkReset), c = .linkReset kind) ∨
    (c = .d3hotEntry) ∨
    (∃ (ctx : Nat) (page : Nat), c = .atsInvalidation ctx page) ∨
    (∃ (up : Bool) (speed : Nat) (width : Nat), c = .rootPortRetrain up speed width)) → exec c s = .next t →
    t.pending = s.pending ∧ t.casc = s.casc ∧ t.reel = s.reel ∧ t.sched = s.sched ∧ t.models = s.models ∧
      t.cams = s.cams ∧ t.audio = s.audio ∧ (t.time = s.time ∨ ((∃ up speed width, c = .rootPortRetrain up speed width) ∧ t.time = (elapseTo 100000000 s).time)) ∧ t.net = s.net ∧ t.safe = s.safe ∧ t.power = s.power ∧
      t.boot = s.boot ∧ t.pins = s.pins ∧ t.freeCtr = s.freeCtr

/-- A frame that holds whatever the outcome. (R359, R362, R378, R380) -/
def Obligations.NetworkEventsFrame : Prop :=
  ∀ (c : Instr) (s t : State), (
    (∃ (m : SyncMsg), c = .gptpSync m) ∨
    (∃ (domain : Nat) (port : Nat) (grandmaster : Announced) (receiptTimeout : Nat), c = .gptpAnnounce domain port grandmaster receiptTimeout) ∨
    (∃ (port : Nat) (delay : Pdelay), c = .gptpPdelay port delay) ∨
    (∃ (domain : Nat), c = .syncReceiptTimeout domain) ∨
    (c = .revertiveTimer) ∨
    (s.cmd.devReset = none ∧ (∀ h, (ctxOf s h).closing = none) ∧ ∃ (port : Nat) (ip : List Byte), c = .neighborResolutionTimeout port ip) ∨
    (∃ (m : GwMsg), c = .gwHandshakeMessage m) ∨
    (∃ (m : GwMsg), c = .gwOffer m) ∨
    (s.cmd.devReset = none ∧ (∀ h, (ctxOf s h).closing = none) ∧ ∃ (m : GwMsg), c = .gwAnswer m) ∨
    (∃ (m : GwMsg), c = .gwData m) ∨
    (s.cmd.devReset = none ∧ (∀ h, (ctxOf s h).closing = none) ∧ ∃ (m : GwMsg), c = .gwAck m) ∨
    (∃ (m : GwMsg), c = .gwClose m) ∨
    (∃ (session : Nat) (transfer : Nat), c = .gwAckTimer session transfer) ∨
    (∃ (session : Nat) (transfer : Nat) (chunk : Nat), c = .gwChunkRetransmit session transfer chunk) ∨
    (s.cmd.devReset = none ∧ (∀ h, (ctxOf s h).closing = none) ∧ ∃ (session : Nat) (transfer : Nat) (sender : Bool), c = .gwTransferDeadline session transfer sender) ∨
    (∃ (session : Nat), c = .gwSessionIdleTimeout session)) → exec c s = .next t →
    t.pending = s.pending ∧ t.casc = s.casc ∧ t.reel = s.reel ∧ t.sched = s.sched ∧ t.models = s.models ∧
      t.cams = s.cams ∧ t.audio = s.audio ∧ t.safe = s.safe ∧ t.power = s.power ∧ t.boot = s.boot ∧ t.pins = s.pins

/-- R51. (R51, R52) -/
def Obligations.LinkResetKeepsTheDevice : Prop :=
  ∀ (kind : LinkReset) (s : State), ∃ t, exec (.linkReset kind) s = .next t ∧ { t with link := s.link } = s ∧
    t.link.bme = false ∧ t.link.mse = false ∧ t.link.pasid = false ∧ t.link.ats = false ∧
    t.link.bar0 = 0 ∧ t.link.bar2 = 0 ∧ t.link.d3hot = false ∧ held t = true ∧
    (∀ v : Nat, (msixWord t (4 * v + 3)).getLsbD 0 = true)

/-- R292. (R292) -/
def Obligations.AddressTagIsTheXor : Prop :=
  ∀ w : Nat, w < 2 ^ 36 →
    wordTag w < 2 ^ 7 ∧
    (∀ i, i < 7 → (wordTag w).testBit i = (((List.range 36).filter fun j => j % 7 = i).map w.testBit).foldl xor false) ∧
    (∀ j, j < 36 → wordTag (w ^^^ 2 ^ j) ≠ wordTag w)

/-- R293 and R294 together give single correction and double detection. (R291, R292, R293, R294, R296) -/
def Obligations.WordCodeCorrectsOneDetectsTwo : Prop :=
  ∀ d w : Nat, d < 2 ^ 128 → w < 2 ^ 36 →
    (wordDec (wordEnc d w) w = .clean ∧ wordCovBits (wordEnc d w) % 2 ^ 128 = d) ∧
    (∀ k, k < 144 → wordDec (wordEnc d w ^^^ 2 ^ k) w = .corrected ∧ wordCovBits (wordEnc d w ^^^ 2 ^ k) % 2 ^ 128 = d) ∧
    (∀ j k, j < 144 → k < 144 → j ≠ k → wordDec (wordEnc d w ^^^ 2 ^ j ^^^ 2 ^ k) w = .uncorrectable) ∧
    (∀ j, j < 36 → wordDec (wordEnc d w) (w ^^^ 2 ^ j) = .address) ∧
    (∀ v, wordDec 0 v = .uncorrectable ∧ wordDec (poisonWord w) v = .uncorrectable)

/-- R149. (R149) -/
def Obligations.ScalesHaveTheirValues : Prop :=
  scaleSize false = 1 ∧ scaleSize true = 2 ∧
    (∀ e, e < 255 → scaleVal false e = .fin false 1 ((e : Int) - 127)) ∧ scaleVal false 255 = .nan false ∧
    (∀ e m, e < 255 → m < 8 → scaleVal true (8 * e + m) = .fin false (8 + m) ((e : Int) - 130)) ∧
    (∀ m, m < 8 → scaleVal true (0x7F8 + m) = .nan false) ∧
    (∀ k r, k < 2 ^ 11 → r < 2 ^ 5 → scaleVal true (k + 2 ^ 11 * r) = scaleVal true k) ∧
    (∀ num den, scaleFor true num den < 2 ^ 11 ∧ scaleFor true num den / 8 ≠ 255 ∧ scaleFor false num den < 255) ∧ nanScale true = 0x7F8 ∧ nanScale false = 0xFF ∧
    scaleVal false 0 = .fin false 1 (-127) ∧ scaleVal true 0 = .fin false 8 (-130) ∧
    scaleVal false 254 = .fin false 1 127 ∧ scaleVal true 0x7F7 = .fin false 15 124

/-- R145, R146, R147. (R145, R146, R147) -/
def Obligations.BellCodesDecodeAndEncode : Prop :=
  (∀ c, c < 16 → decodeVal 0x30 c = .fin (decide (8 ≤ c)) ([0, 11, 23, 36, 51, 68, 90, 128].getD (c % 8) 0) (-7)) ∧
    (∀ c, c < 8 → decodeVal 0x31 c = .fin (decide (4 ≤ c)) ([0, 28, 60, 128].getD (c % 4) 0) (-7)) ∧
    (∀ draw v s, (encodeVal 0x30 draw v s).code ≠ 8 ∧ (encodeVal 0x31 draw v s).code ≠ 4) ∧
    (∀ c, c < 16 → c ≠ 8 → (encodeVal 0x30 none (decodeVal 0x30 c) (.fin false 1 0)).code = c) ∧
    (∀ c, c < 8 → c ≠ 4 → (encodeVal 0x31 none (decodeVal 0x31 c) (.fin false 1 0)).code = c)

/-- R62. (R62, R61, R65, R70) -/
def Obligations.DoorbellRejections : Prop :=
  ∀ (s : State) (n q v : Nat), s.link.mse = true → n ≤ 512 → q ≤ 7 →
    (let t := rejectDoorbell n s
     (ctxOf t n).dbReject = (ctxOf s n).dbReject + 1 ∧ t.glb.event.getLsbD 7 = true ∧
     { ctxOf t n with dbReject := (ctxOf s n).dbReject } = ctxOf s n ∧ (∀ h, h ≠ n → ctxOf t h = ctxOf s h) ∧
     { t with glb := s.glb, link := s.link, ctxs := s.ctxs, out := s.out } = s) ∧
    (tget (ctxOf s n).queues q = none → exec (.dbSqWrite n q v) s = .next (rejectDoorbell n s)) ∧
    (∀ x, tget (ctxOf s n).queues q = some x →
      (pageOpen s n = false ∨ (BitVec.ofNat 32 v - x.tail).msb = true ∨ 2 ^ x.log2 < (BitVec.ofNat 32 v - x.tail).toNat →
        exec (.dbSqWrite n q v) s = .next (rejectDoorbell n s)) ∧
      (pageOpen s n = true → BitVec.ofNat 32 v = x.tail →
        ∃ t, exec (.dbSqWrite n q v) s = .next t ∧ (∀ k, tget (ctxOf t n).queues k = tget (ctxOf s n).queues k) ∧
          { ctxOf t n with queues := (ctxOf s n).queues } = ctxOf s n ∧ (∀ h, h ≠ n → ctxOf t h = ctxOf s h) ∧
          { t with ctxs := s.ctxs, cmd.ringFailed := s.cmd.ringFailed } = s)) ∧
    (pageOpen s n = false ∨ (BitVec.ofNat 32 v - (ctxOf s n).ring.head).msb = true ∨
        ((ctxOf s n).ring.written - BitVec.ofNat 32 (heldEntries s n) - BitVec.ofNat 32 v).msb = true →
      exec (.dbSrWrite n v) s = .next (rejectDoorbell n s))

/-- R73, set wins. (R73, R70, R71) -/
def Obligations.SetWinsOverClear : Prop :=
  ∀ (s : State) (value sets k : Nat), s.link.mse = true →
    (k < 10 → ∃ t, exec (.glbEventClear value sets) s = .next t ∧
      t.glb.event.getLsbD k = (sets.testBit k || (s.glb.event.getLsbD k && !value.testBit k)) ∧
      tgetD t.glb.evCnt k = tgetD s.glb.evCnt k + (if sets.testBit k then 1 else 0)) ∧
    (k < 8 → ∃ t, exec (.glbErrClear value sets) s = .next t ∧
      t.glb.err.getLsbD k = (sets.testBit k || (s.glb.err.getLsbD k && !value.testBit k)) ∧
      tgetD t.glb.errCnt k = tgetD s.glb.errCnt k + (if sets.testBit k then 1 else 0))

/-- R329, R349. (R329, R349, R68) -/
def Obligations.PrivacyGatesHold : Prop :=
  ∀ s : State,
    (s.cams.gate = true →
      (∀ (n vc : Nat) (ecc : CsiEcc), n ≤ 11 → exec (.csiFrameStart n vc ecc) s = .next s ∧ exec (.csiFrameEnd n vc ecc) s = .next s) ∧
      (∀ l : CsiLine, l.port ≤ 11 → exec (.csiLine l) s = .next s) ∧
      (∀ (p : Pkt) (t : State), Passes p s → chkCamPower p s = none → exec (.camPower p) s = .next t →
        (camOf t (pPort p)).pwrEn = false)) ∧
    (s.audio.pin = false → ∃ t, exec .privMicAssert s = .next t ∧ t.audio.gate = true ∧ t.pins.pdm0 = false ∧
      t.pins.pdm1 = false ∧ t.pins.micPwr = false)

/-- What the memory side of every frame rests on. (R111, R113, R296) -/
def Obligations.MemoryWritesStayInRange : Prop :=
  ∀ (s : State) (bs : List Byte) (a h va : Nat),
    (∀ x, ¬(a ≤ x ∧ x < a + bs.length) → memGet (physWrite a bs s).store.mem x = memGet s.store.mem x) ∧
    (∀ i, i < bs.length → (wordBad s (a + i) = false ∨ wordCovered a bs.length (a + i) = true) →
      memGet (physWrite a bs s).store.mem (a + i) = bs.getD i 0) ∧
    (∀ x, (∀ i, i < bs.length → locate s h (va + i) ≠ some (.dev x)) →
      memGet (vwrite h va bs s).store.mem x = memGet s.store.mem x) ∧
    { vwrite h va bs s with store := s.store, link := s.link, out := s.out } = s

/-- R84. (R84, R77) -/
def Obligations.StatusEntryIsWritten : Prop :=
  ∀ (h : Nat) (r : Reply) (notify : Bool) (s : State), entriesDiscarded s h = false → held s = false →
    let i := (ctxOf s h).ring.written.toNat
    let ring := statusRing s h
    let key := hostKey s h (ring.1 + 32 * (i % 2 ^ ring.2))
    let t := statusWrite h r notify s
    (ctxOf t h).ring.written = (ctxOf s h).ring.written + 1 ∧
    (∀ j, j < 32 → memGet t.store.host (key + j) = (replyBytes r (i / 2 ^ ring.2 % 2 == 0)).getD j 0) ∧
    (∀ x, ¬(key ≤ x ∧ x < key + 32) → memGet t.store.host x = memGet s.store.host x)

/-- R102. (R102) -/
def Obligations.RejectLogKeepsSixtyFour : Prop :=
  ∀ (p : Pkt) (f : Fail) (s : State), (ctxOf s p.ctx).rejLog.length ≤ 64 →
    let e : RejRec := { header := fit 16 p.bytes, code := f.code, queue := p.queue, off := f.off, time := s.time.now }
    let t := logReject p f s
    (ctxOf t p.ctx).rejLog =
      (if (ctxOf s p.ctx).rejLog.length = 64 then (ctxOf s p.ctx).rejLog.drop 1 else (ctxOf s p.ctx).rejLog) ++ [e] ∧
    (ctxOf t p.ctx).rejLog.length ≤ 64
end

