-- ==== Sys2Proof/Laws/PacketShape.lean ====
section
/-! SUPPORT. The one shape of every packet command: its meaning is runCmd or runHost on some checks and some effect. -/

namespace Sys2Proof.Machine

/-- The answer `r` is that of runHost or of runCmd for packet `p`. -/
def RunsPkt (p : Pkt) (s : State) (r : Res) : Prop :=
  ∃ host chk act, r = runHost p s host chk act ∨ r = runCmd p s chk act

theorem runCmd_runsPkt (p : Pkt) (s : State) (chk : Option Fail) (act : State → State) : RunsPkt p s (runCmd p s chk act) :=
  ⟨false, chk, act, .inr rfl⟩

theorem runHost_runsPkt (p : Pkt) (s : State) (h : Bool) (chk : Option Fail) (act : State → State) :
    RunsPkt p s (runHost p s h chk act) := ⟨h, chk, act, .inl rfl⟩

theorem kvOrQueue_runsPkt (p : Pkt) (s : State) (h : Bool) (st : List (List (Bool × Code × Nat))) (chk : Option Fail)
    (act : State → State) : RunsPkt p s (kvOrQueue p s h st chk act) := by
  unfold kvOrQueue
  repeat' split
  all_goals exact runHost_runsPkt _ _ _ _ _

theorem strmOrQueue_runsPkt (p : Pkt) (s : State) (h : Bool) (chk : Option Fail) (act : State → State) :
    RunsPkt p s (strmOrQueue p s h chk act) := by
  unfold strmOrQueue
  repeat' split
  all_goals exact runHost_runsPkt _ _ _ _ _

theorem deviceCommand_runsPkt {p : Pkt} {c : Instr} (s : State) (h : IsDeviceCommand p c) : RunsPkt p s (exec c s) := by
  rcases h with rfl | rfl | rfl | rfl | rfl | rfl | rfl | rfl | rfl | rfl | rfl
  all_goals simp only [exec, execDevNop, execDevInfo, execDevStats, execDevRejectLog, execDevReset, execDevKeyEnroll, execDevKeyRevoke, execDevKeyList,
    execDevNetConfig, execDevSessions, execDevSessionClose]
  all_goals
    with_reducible first
    | exact runCmd_runsPkt _ _ _ _
    | exact runHost_runsPkt _ _ _ _ _

theorem cascadeCommand_runsPkt {p : Pkt} {c : Instr} (s : State) (h : IsCascadeCommand p c) : RunsPkt p s (exec c s) := by
  rcases h with rfl | rfl | rfl | rfl | rfl | rfl | rfl | rfl | rfl | rfl
  all_goals simp only [exec, execCascQuery, execCascSetSource, execCascBind, execCascSetHold, execCascLift, execCascBallast, execCascReadLog,
    execCascReadReel, execCascCounters, execCascSetTimer]
  all_goals
    with_reducible first
    | exact runCmd_runsPkt _ _ _ _
    | exact runHost_runsPkt _ _ _ _ _

theorem contextAndGangCommand_runsPkt {p : Pkt} {c : Instr} (s : State) (h : IsContextAndGangCommand p c) : RunsPkt p s (exec c s) := by
  rcases h with rfl | rfl | rfl | rfl | rfl | rfl | rfl | rfl | rfl | rfl | rfl | rfl
  all_goals simp only [exec, execCtxOpen, execCtxClose, execCtxQuery, execCtxSetQuota, execCtxSeal, execCtxQueueCreate, execCtxQueueDestroy,
    execGangCreate, execGangDestroy, execGangQuery, execCtxLeases, execCtxXlate]
  all_goals
    with_reducible first
    | exact runCmd_runsPkt _ _ _ _
    | exact runHost_runsPkt _ _ _ _ _

theorem memoryCommand_runsPkt {p : Pkt} {c : Instr} (s : State) (h : IsMemoryCommand p c) : RunsPkt p s (exec c s) := by
  rcases h with rfl | rfl | rfl | rfl | rfl | rfl | rfl | rfl | rfl | rfl | rfl
  all_goals simp only [exec, execMemAlloc, execMemFree, execMemMapHost, execMemProtect, execMemCopy, execMemPlace, execMemPin, execMemQuery,
    execMemChannels, execMemChannelRetire, execMemColdIo]
  all_goals
    with_reducible first
    | exact runCmd_runsPkt _ _ _ _
    | exact runHost_runsPkt _ _ _ _ _

theorem planCommand_runsPkt {p : Pkt} {c : Instr} (s : State) (h : IsPlanCommand p c) : RunsPkt p s (exec c s) := by
  rcases h with rfl | rfl | rfl | rfl | rfl | rfl | rfl | rfl | rfl | rfl | rfl | rfl | rfl
  all_goals simp only [exec, execPlanLoad, execPlanUnload, execPlanQuery, execPlanRun, execPlanStop, execPlanFeed, execPlanBindEvent, execPlanUnbind,
    execGangStats, execPanelQuery, execPlanReload, execMoorLoad, execMoorQuery]
  all_goals
    with_reducible first
    | exact runCmd_runsPkt _ _ _ _
    | exact runHost_runsPkt _ _ _ _ _

theorem attentionPoolCommand_runsPkt {p : Pkt} {c : Instr} (s : State) (h : IsAttentionPoolCommand p c) : RunsPkt p s (exec c s) := by
  rcases h with rfl | rfl | rfl | rfl | rfl | rfl | rfl | rfl | rfl | rfl | rfl | rfl | rfl
  all_goals simp only [exec, execKvPoolCreate, execKvPoolDestroy, execKvSeqCreate, execKvFork, execKvTruncate, execKvFree, execKvSeqQuery,
    execKvPageQuery, execKvRead, execKvWait, execKvPoolQuery, execKvExport, execKvImport]
  all_goals
    with_reducible first
    | exact runCmd_runsPkt _ _ _ _
    | exact runHost_runsPkt _ _ _ _ _
    | exact kvOrQueue_runsPkt _ _ _ _ _ _

theorem streamCommand_runsPkt {p : Pkt} {c : Instr} (s : State) (h : IsStreamCommand p c) : RunsPkt p s (exec c s) := by
  rcases h with rfl | rfl | rfl | rfl | rfl | rfl | rfl | rfl | rfl | rfl | rfl | rfl
  all_goals simp only [exec, execStrmSetCreate, execStrmSetDestroy, execStrmStart, execStrmPause, execStrmResume, execStrmEnd, execStrmQuery,
    execStrmSentinel, execStrmRead, execStrmExport, execStrmImport, execStrmPeer]
  all_goals
    with_reducible first
    | exact runCmd_runsPkt _ _ _ _
    | exact runHost_runsPkt _ _ _ _ _
    | exact kvOrQueue_runsPkt _ _ _ _ _ _
    | exact strmOrQueue_runsPkt _ _ _ _ _

theorem cameraCommand_runsPkt {p : Pkt} {c : Instr} (s : State) (h : IsCameraCommand p c) : RunsPkt p s (exec c s) := by
  rcases h with rfl | rfl | rfl | rfl | rfl | rfl | rfl | rfl | rfl | rfl | rfl | rfl | rfl
  all_goals simp only [exec, execCamQuery, execCamAssign, execCamPort, execCamParams, execCamOutput, execCamStart, execCamStop, execCamPower,
    execCamSync, execCamWindow, execCamAttach, execCamWait, execCamPresence]
  all_goals
    with_reducible first
    | exact runCmd_runsPkt _ _ _ _
    | exact runHost_runsPkt _ _ _ _ _

theorem audioCommand_runsPkt {p : Pkt} {c : Instr} (s : State) (h : IsAudioCommand p c) : RunsPkt p s (exec c s) := by
  rcases h with rfl | rfl | rfl | rfl | rfl | rfl | rfl | rfl | rfl | rfl | rfl
  all_goals simp only [exec, execAudQuery, execAudAssign, execAudClock, execAudLp, execAudBeam, execAudCapture, execAudStart, execAudStop, execAudI2s,
    execAudPlay, execAudWait]
  all_goals
    with_reducible first
    | exact runCmd_runsPkt _ _ _ _
    | exact runHost_runsPkt _ _ _ _ _

theorem timeAndEventCommand_runsPkt {p : Pkt} {c : Instr} (s : State) (h : IsTimeAndEventCommand p c) : RunsPkt p s (exec c s) := by
  rcases h with rfl | rfl | rfl | rfl | rfl | rfl | rfl
  all_goals simp only [exec, execTkQuery, execTkConfig, execTkSelect, execEvAssign, execEvConfig, execEvQuery, execEvReadCapture]
  all_goals
    with_reducible first
    | exact runCmd_runsPkt _ _ _ _
    | exact runHost_runsPkt _ _ _ _ _

theorem networkCommand_runsPkt {p : Pkt} {c : Instr} (s : State) (h : IsNetworkCommand p c) : RunsPkt p s (exec c s) := by
  rcases h with rfl | rfl | rfl | rfl | rfl | rfl | rfl | rfl
  all_goals simp only [exec, execNetConfig, execNetQuery, execNetBind, execNetSend, execGwFleet, execGwInbox, execGwSend, execGwQuery]
  all_goals
    with_reducible first
    | exact runCmd_runsPkt _ _ _ _
    | exact runHost_runsPkt _ _ _ _ _

theorem safetyCommand_runsPkt {p : Pkt} {c : Instr} (s : State) (h : IsSafetyCommand p c) : RunsPkt p s (exec c s) := by
  rcases h with rfl | rfl | rfl | rfl | rfl | rfl | rfl | rfl | rfl | rfl
  all_goals simp only [exec, execSafeQuery, execSafeLogRead, execSafeChannels, execSafeConfig, execSafeRetire, execSafeClear, execSafeInject,
    execSafeE2e, execSafeEnter, execSafeSelftest]
  all_goals
    with_reducible first
    | exact runCmd_runsPkt _ _ _ _
    | exact runHost_runsPkt _ _ _ _ _

theorem powerCommand_runsPkt {p : Pkt} {c : Instr} (s : State) (h : IsPowerCommand p c) : RunsPkt p s (exec c s) := by
  rcases h with rfl | rfl | rfl | rfl | rfl | rfl | rfl
  all_goals simp only [exec, execPwrQuery, execPwrCap, execPwrPolicy, execPwrWake, execPwrEnter, execPadsRelease, execPwrPads]
  all_goals
    with_reducible first
    | exact runCmd_runsPkt _ _ _ _
    | exact runHost_runsPkt _ _ _ _ _

theorem securityAndUpdateCommand_runsPkt {p : Pkt} {c : Instr} (s : State) (h : IsSecurityAndUpdateCommand p c) : RunsPkt p s (exec c s) := by
  rcases h with rfl | rfl | rfl | rfl | rfl | rfl | rfl | rfl | rfl | rfl | rfl | rfl
  all_goals simp only [exec, execBootJournal, execBootRetry, execSecCert, execSecAttest, execSecPair, execSecOwner, execSecConfig, execSecFloor,
    execUpdStage, execUpdActivate, execUpdCancel, execUpdQuery]
  all_goals
    with_reducible first
    | exact runCmd_runsPkt _ _ _ _
    | exact runHost_runsPkt _ _ _ _ _

theorem statisticsCommand_runsPkt {p : Pkt} {c : Instr} (s : State) (h : IsStatisticsCommand p c) : RunsPkt p s (exec c s) := by
  rcases h with rfl | rfl | rfl | rfl | rfl
  all_goals simp only [exec, execQstatArm, execQstatDisarm, execQstatRead, execQstatQuery, execQconvert]
  all_goals
    with_reducible first
    | exact runCmd_runsPkt _ _ _ _
    | exact runHost_runsPkt _ _ _ _ _

/-- Every packet command runs by runHost or by runCmd. -/
theorem packetCommand_runsPkt {p : Pkt} {c : Instr} (s : State) (h : IsPacketCommand p c) : RunsPkt p s (exec c s) := by
  rcases h with h | h | h | h | h | h | h | h | h | h | h | h | h | h | h
  · exact deviceCommand_runsPkt s h
  · exact cascadeCommand_runsPkt s h
  · exact contextAndGangCommand_runsPkt s h
  · exact memoryCommand_runsPkt s h
  · exact planCommand_runsPkt s h
  · exact attentionPoolCommand_runsPkt s h
  · exact streamCommand_runsPkt s h
  · exact cameraCommand_runsPkt s h
  · exact audioCommand_runsPkt s h
  · exact timeAndEventCommand_runsPkt s h
  · exact networkCommand_runsPkt s h
  · exact safetyCommand_runsPkt s h
  · exact powerCommand_runsPkt s h
  · exact securityAndUpdateCommand_runsPkt s h
  · exact statisticsCommand_runsPkt s h

end Sys2Proof.Machine
end

