-- ==== Sys2Proof/Laws/Tables.lean ====
section
/-! SUPPORT. Keyed tables and memory: read after write, and that every table and memory operation keeps the canonical form. -/

namespace Sys2Proof.Machine

/-! ### Reading after a change -/

theorem tget_tput_self {α : Type} (t : Tbl α) (k : Nat) (v : α) : tget (tput t k v) k = some v := by
  induction t with
  | nil => simp [tput, tget]
  | cons e r ih =>
    obtain ⟨j, w⟩ := e
    unfold tput
    split
    · simp [tget]
    · split
      · simp [tget]
      · next h1 h2 => simp only [tget]; rw [if_neg (fun h => h2 h.symm)]; exact ih

theorem tget_tput_other {α : Type} (t : Tbl α) {k j : Nat} (v : α) (h : j ≠ k) : tget (tput t k v) j = tget t j := by
  induction t with
  | nil => simp [tput, tget, Ne.symm h]
  | cons e r ih =>
    obtain ⟨i, w⟩ := e
    unfold tput
    split
    · simp [tget, Ne.symm h]
    · split
      · next h1 h2 => subst h2; simp [tget, Ne.symm h]
      · simp only [tget]; split
        · rfl
        · exact ih

theorem tget_filter {α : Type} (t : Tbl α) (f : Nat → Bool) (k : Nat) :
    tget (t.filter fun e => f e.1) k = if f k then tget t k else none := by
  induction t with
  | nil => simp [tget]
  | cons e r ih =>
    obtain ⟨j, w⟩ := e
    by_cases hf : f j
    · by_cases hj : j = k <;> simp_all [tget]
    · by_cases hj : j = k <;> simp_all [tget]

theorem tget_tdel_self {α : Type} (t : Tbl α) (k : Nat) : tget (tdel t k) k = none := by
  simp [tdel, tget_filter t (fun j => j != k)]

theorem tget_tdel_other {α : Type} (t : Tbl α) {k j : Nat} (h : j ≠ k) : tget (tdel t k) j = tget t j := by
  simp [tdel, tget_filter t (fun i => i != k), h]

@[simp] theorem tgetD_tmod_self {α : Type} [Inhabited α] (t : Tbl α) (k : Nat) (f : α → α) :
    tgetD (tmod t k f) k = f (tgetD t k) := by
  simp [tmod, tgetD, tget_tput_self]

theorem tgetD_tmod_other {α : Type} [Inhabited α] (t : Tbl α) {k j : Nat} (f : α → α) (h : j ≠ k) :
    tgetD (tmod t k f) j = tgetD t j := by
  simp [tmod, tgetD, tget_tput_other t _ h]

/-- A read after a write of one byte gives the byte at that address, and what stood there before elsewhere. -/
theorem memGet_memSet (m : Mem) (a b : Nat) (x : Byte) : memGet (memSet m a x) b = if b = a then x else memGet m b := by
  unfold memSet memGet
  by_cases h : b = a
  · subst h
    split
    · next hx => simp [tget_tdel_self, hx]
    · simp [tget_tput_self]
  · split
    · simp [tget_tdel_other m h]
    · simp [tget_tput_other m x h]

/-- A read after a write of bytes: the written byte inside the range, what stood there before outside it. -/
theorem memGet_memWrite (m : Mem) (a : Nat) (bs : List Byte) (b : Nat) :
    memGet (memWrite m a bs) b = if a ≤ b ∧ b < a + bs.length then bs.getD (b - a) 0 else memGet m b := by
  induction bs generalizing m a with
  | nil => simp [memWrite]
  | cons x t ih =>
    rw [memWrite, ih, memGet_memSet]
    by_cases h : b = a
    · subst h; simp
    · by_cases h2 : a + 1 ≤ b ∧ b < a + 1 + t.length
      · have e : b - a = (b - (a + 1)) + 1 := by omega
        rw [if_pos h2, if_pos (by simp; omega), e, List.getD_cons_succ]
      · rw [if_neg h2, if_neg h, if_neg (by simp; omega)]

/-! ### The canonical form -/

theorem tbl_wf_nil {α : Type} : Tbl.wf ([] : Tbl α) := List.Pairwise.nil

theorem tput_mem_keys {α : Type} (t : Tbl α) (k : Nat) (v : α) (e : Nat × α) (h : e ∈ tput t k v) : e.1 = k ∨ e ∈ t := by
  induction t with
  | nil => simp [tput] at h; simp [h]
  | cons d r ih =>
    obtain ⟨j, w⟩ := d
    unfold tput at h
    split at h
    · rcases List.mem_cons.1 h with h | h
      · simp [h]
      · exact .inr h
    · split at h
      · rcases List.mem_cons.1 h with h | h
        · simp [h]
        · exact .inr (List.mem_cons_of_mem _ h)
      · rcases List.mem_cons.1 h with h | h
        · exact .inr (by simp [h])
        · rcases ih h with h | h
          · exact .inl h
          · exact .inr (List.mem_cons_of_mem _ h)

theorem tput_wf {α : Type} (t : Tbl α) (k : Nat) (v : α) (h : Tbl.wf t) : Tbl.wf (tput t k v) := by
  induction t with
  | nil => simp [tput, Tbl.wf]
  | cons e r ih =>
    obtain ⟨j, w⟩ := e
    have hr : Tbl.wf r := (List.pairwise_cons.1 h).2
    have hj := (List.pairwise_cons.1 h).1
    unfold tput
    split
    · next hk =>
      refine List.pairwise_cons.2 ⟨?_, h⟩
      intro d hd
      rcases List.mem_cons.1 hd with hd | hd
      · simpa [hd] using hk
      · exact Nat.lt_trans hk (hj d hd)
    · split
      · next hk => subst hk; exact List.pairwise_cons.2 ⟨hj, hr⟩
      · next h1 h2 =>
        refine List.pairwise_cons.2 ⟨?_, ih hr⟩
        intro d hd
        rcases tput_mem_keys r k v d hd with hd | hd
        · simp only [hd]; omega
        · exact hj d hd

theorem filter_wf {α : Type} (t : Tbl α) (f : Nat × α → Bool) (h : Tbl.wf t) : Tbl.wf (t.filter f) := List.Pairwise.filter f h

theorem tdel_wf {α : Type} (t : Tbl α) (k : Nat) (h : Tbl.wf t) : Tbl.wf (tdel t k) := filter_wf t _ h

theorem tkeep_wf {α : Type} (t : Tbl α) (f : Nat → α → Bool) (h : Tbl.wf t) : Tbl.wf (tkeep t f) := filter_wf t _ h

theorem tmod_wf {α : Type} [Inhabited α] (t : Tbl α) (k : Nat) (f : α → α) (h : Tbl.wf t) : Tbl.wf (tmod t k f) := tput_wf t _ _ h

theorem tupd_wf {α : Type} (t : Tbl α) (k : Nat) (f : α → α) (h : Tbl.wf t) : Tbl.wf (tupd t k f) := by
  unfold tupd
  split
  · exact tput_wf _ _ _ h
  · exact h

theorem tmap_wf {α β : Type} (t : Tbl α) (f : Nat → α → β) (h : Tbl.wf t) : Tbl.wf (tmap t f) :=
  List.Pairwise.map (fun e : Nat × α => (e.1, f e.1 e.2)) (fun _ _ hab => hab) h

/-- Memory is canonical: rising addresses, and no byte listed that an unlisted address reads as. -/
def Mem.canon (m : Mem) : Prop := Tbl.wf m ∧ ∀ c ∈ m, c.2 ≠ 0

theorem memory_wf_iff (m : Mem) : Memory.wf m = true ↔ Mem.canon m := by
  unfold Mem.canon Tbl.wf
  induction m with
  | nil => simp [Memory.wf]
  | cons c t ih =>
    obtain ⟨a, b⟩ := c
    cases t with
    | nil => simp [Memory.wf]
    | cons d r =>
      obtain ⟨a', b'⟩ := d
      rw [Memory.wf, Bool.and_eq_true, Bool.and_eq_true, ih, List.pairwise_cons (l := (a', b') :: r)]
      constructor
      · rintro ⟨⟨h1, h2⟩, h3, h4⟩
        have h2' : a < a' := by simpa using h2
        refine ⟨⟨?_, h3⟩, ?_⟩
        · intro e he
          rcases List.mem_cons.1 he with he | he
          · simpa [he] using h2'
          · exact Nat.lt_trans h2' ((List.pairwise_cons.1 h3).1 e he)
        · intro e he
          rcases List.mem_cons.1 he with he | he
          · simpa [he] using h1
          · exact h4 e he
      · rintro ⟨⟨h1, h3⟩, h4⟩
        refine ⟨⟨?_, ?_⟩, h3, fun e he => h4 e (List.mem_cons_of_mem _ he)⟩
        · simpa using h4 (a, b) (List.mem_cons_self ..)
        · simpa using h1 (a', b') (List.mem_cons_self ..)

theorem memSet_wf (m : Mem) (a : Nat) (b : Byte) (h : Memory.wf m = true) : Memory.wf (memSet m a b) = true := by
  rw [memory_wf_iff] at *
  unfold memSet
  split
  · exact ⟨tdel_wf _ _ h.1, fun c hc => h.2 c (List.mem_of_mem_filter hc)⟩
  · next hb =>
    refine ⟨tput_wf _ _ _ h.1, ?_⟩
    have hput : ∀ (t : Mem), (∀ c ∈ t, c.2 ≠ 0) → ∀ c ∈ tput t a b, c.2 ≠ 0 := by
      intro t
      induction t with
      | nil => intro _ c hc; simp [tput] at hc; simpa [hc] using hb
      | cons e r ih =>
        obtain ⟨j, w⟩ := e
        intro ht c hc
        unfold tput at hc
        split at hc
        · rcases List.mem_cons.1 hc with hc | hc
          · simpa [hc] using hb
          · exact ht c hc
        · split at hc
          · rcases List.mem_cons.1 hc with hc | hc
            · simpa [hc] using hb
            · exact ht c (List.mem_cons_of_mem _ hc)
          · rcases List.mem_cons.1 hc with hc | hc
            · exact ht c (by simp [hc])
            · exact ih (fun d hd => ht d (List.mem_cons_of_mem _ hd)) c hc
    exact hput m h.2

theorem memWrite_wf (m : Mem) (a : Nat) (bs : List Byte) (h : Memory.wf m = true) : Memory.wf (memWrite m a bs) = true := by
  induction bs generalizing m a with
  | nil => exact h
  | cons x t ih => exact ih _ _ (memSet_wf m a x h)

theorem memZero_wf (m : Mem) (a n : Nat) (h : Memory.wf m = true) : Memory.wf (memZero m a n) = true := by
  rw [memory_wf_iff] at *
  exact ⟨filter_wf _ _ h.1, fun c hc => h.2 c (List.mem_of_mem_filter hc)⟩

theorem memPutCells_wf (m cs : Mem) (h : Memory.wf m = true) : Memory.wf (memPutCells m cs) = true := by
  induction cs generalizing m with
  | nil => exact h
  | cons c t ih => exact ih _ (memSet_wf m c.1 c.2 h)

theorem memCopyFrom_wf (src m : Mem) (a n b : Nat) (h : Memory.wf m = true) : Memory.wf (memCopyFrom src m a n b) = true :=
  memPutCells_wf _ _ (memZero_wf _ _ _ h)

theorem foldl_memSet_wf {α : Type} (l : List α) (f : α → Nat) (g : α → Byte) (m : Mem) (h : Memory.wf m = true) :
    Memory.wf (l.foldl (fun m i => memSet m (f i) (g i)) m) = true := by
  induction l generalizing m with
  | nil => exact h
  | cons x t ih => exact ih _ (memSet_wf m _ _ h)

end Sys2Proof.Machine
end

