-- ==== Sys2Proof/Laws/Reply.lean ====
section
/-! SUPPORT. What one status reply changes and what it leaves unchanged. -/

namespace Sys2Proof.Machine

/-! ### Contexts -/

@[simp] theorem ctxOf_modCtx_self (h : Nat) (f : Ctx → Ctx) (s : State) : ctxOf (modCtx h f s) h = f (ctxOf s h) := by
  simp [ctxOf, modCtx]

theorem ctxOf_modCtx_other {h k : Nat} (f : Ctx → Ctx) (s : State) (hk : k ≠ h) : ctxOf (modCtx h f s) k = ctxOf s k :=
  tgetD_tmod_other _ _ hk

/-! ### What leaves the contexts as they are -/

@[simp] theorem raiseVec_ctxs (v : Nat) (s : State) : (raiseVec v s).ctxs = s.ctxs := by
  unfold raiseVec
  dsimp only
  split <;> rfl

@[simp] theorem perform_ctxs (o : Out) (s : State) : (perform o s).ctxs = s.ctxs := by
  unfold perform
  split <;> first | rfl | exact raiseVec_ctxs _ _

@[simp] theorem statusMsg_ctxs (h : Nat) (s : State) : (statusMsg h s).ctxs = s.ctxs := by
  unfold statusMsg
  split <;> first | rfl | exact raiseVec_ctxs _ _

@[simp] theorem emitHost_ctxs (o : Out) (s : State) : (emitHost o s).ctxs = s.ctxs := by
  unfold emitHost
  split
  · rfl
  · exact perform_ctxs o s

@[simp] theorem closeSession_ctxs (id : Nat) (s : State) : (closeSession id s).ctxs = s.ctxs := rfl

@[simp] theorem sendSess_ctxs (id type : Nat) (payload : List Byte) (s : State) : (sendSess id type payload s).ctxs = s.ctxs := by
  unfold sendSess
  split
  · rfl
  · dsimp only
    split <;> rfl

theorem foldl_ctxs {α : Type} {f : State → α → State} (hf : ∀ t a, (f t a).ctxs = t.ctxs) (l : List α) (s : State) :
    (l.foldl f s).ctxs = s.ctxs := by
  induction l generalizing s with
  | nil => rfl
  | cons a r ih => rw [List.foldl_cons, ih, hf]

@[simp] theorem flushBatch_ctxs (id : Nat) (s : State) : (flushBatch id s).ctxs = s.ctxs := by
  unfold flushBatch
  split
  · rfl
  · exact foldl_ctxs (fun t a => sendSess_ctxs id 1 _ t) _ _

@[simp] theorem sessReply_ctxs (id : Nat) (r : Reply) (now : Bool) (s : State) : (sessReply id r now s).ctxs = s.ctxs := by
  unfold sessReply
  split
  · rfl
  · dsimp only
    split
    · exact flushBatch_ctxs id _
    · rfl

/-- A status entry changes no context but for the count of entries written. -/
theorem statusWrite_tags (h : Nat) (r : Reply) (n : Bool) (s : State) (k : Nat) :
    (ctxOf (statusWrite h r n s) k).tags = (ctxOf s k).tags := by
  have key : ∀ (t : State) (f : Ctx → Ctx), t.ctxs = s.ctxs → (∀ c, (f c).tags = c.tags) →
      (ctxOf (modCtx h f t) k).tags = (ctxOf s k).tags := by
    intro t f ht hf
    have e : ctxOf t k = ctxOf s k := by simp [ctxOf, ht]
    by_cases hk : k = h
    · subst hk
      rw [ctxOf_modCtx_self, hf, e]
    · rw [ctxOf_modCtx_other f t hk, e]
  unfold statusWrite
  split
  · rfl
  · dsimp only
    split
    · have e : ∀ (t : State), ctxOf (statusMsg h t) k = ctxOf t k := fun t => by simp [ctxOf]
      rw [e]
      exact key _ _ (emitHost_ctxs _ _) fun _ => rfl
    · exact key _ _ (emitHost_ctxs _ _) fun _ => rfl

theorem deliver_tags (p : Pkt) (r : Reply) (s : State) (k : Nat) : (ctxOf (deliver p r s) k).tags = (ctxOf s k).tags := by
  unfold deliver
  split
  · simp [ctxOf]
  · exact statusWrite_tags _ _ _ _ _

/-! ### The reply of a packet -/

/-- Answering a packet records exactly one reply for its tag (R77, R89). -/
theorem newest_answerPkt (p : Pkt) (code : Code) (notes w0 w1 w2 : Nat) (s : State) :
    ∃ r, newest p (answerPkt p code notes w0 w1 w2 s) = some r ∧ r.tag = pTag p ∧ r.bytes = p.bytes ∧
      r.reply = mkReply p code notes w0 w1 w2 s := by
  unfold newest answerPkt recordTag
  dsimp only
  refine ⟨{ tag := pTag p, reply := mkReply p code notes w0 w1 w2 s, bytes := p.bytes, queue := p.queue, session := p.session,
            order := ((flightOf s p).map Flight.order).getD (s.cmd.nextOrder - 1), repeated := false }, ?_, rfl, rfl, rfl⟩
  rw [deliver_tags]
  unfold landFlight
  split <;> (first | rw [ctxOf_modCtx_self] | (simp only [ctxOf, modCtx]; rw [tgetD_tmod_self])) <;> rfl

theorem answered_answerPkt (p : Pkt) (notes w0 w1 w2 : Nat) (s : State) :
    Answered p notes w0 w1 w2 (answerPkt p .ok notes w0 w1 w2 s) := by
  obtain ⟨r, h, ht, hb, hr⟩ := newest_answerPkt p .ok notes w0 w1 w2 s
  refine ⟨r, h, ht, hb, ?_, ?_, ?_, ?_, ?_, ?_, ?_⟩ <;> rw [hr] <;> first | rfl | skip
  by_cases hn : notes = 0 <;> simp [mkReply, hn]

theorem complete_ok (p : Pkt) (notes w0 w1 w2 : Nat) (s : State) :
    complete p .ok notes w0 w1 w2 s = answerPkt p .ok notes w0 w1 w2 s := rfl

theorem answered_complete (p : Pkt) (notes w0 w1 w2 : Nat) (s : State) :
    Answered p notes w0 w1 w2 (complete p .ok notes w0 w1 w2 s) := by
  rw [complete_ok]
  exact answered_answerPkt p notes w0 w1 w2 s

theorem answered_completeOk (p : Pkt) (w0 w1 w2 : Nat) (s : State) : Answered p 0 w0 w1 w2 (completeOk p w0 w1 w2 s) :=
  answered_answerPkt p 0 w0 w1 w2 s

theorem refused_reject (p : Pkt) (f : Fail) (w2 : Nat) (s : State) (h : f.code ≠ .ok) : Refused p f.code w2 (reject p f w2 s) := by
  unfold reject
  obtain ⟨r, hn, ht, hb, hr⟩ := newest_answerPkt p f.code 0 0 0 w2 (if codeRejects f.code then logReject p f s else s)
  refine ⟨r, hn, ht, hb, ?_, ?_, ?_, ?_, ?_, ?_, ?_⟩ <;> rw [hr] <;> first | rfl | skip
  simp [mkReply, h]

/-! ### What a reply leaves unchanged -/

theorem SameDevice.refl (p : Pkt) (s : State) : SameDevice p s s := by
  constructor <;> first | rfl | exact fun _ _ => rfl

theorem SameDevice.trans {p : Pkt} {s t u : State} (h : SameDevice p s t) (k : SameDevice p t u) : SameDevice p s u where
  pending := k.pending.trans h.pending
  glb := k.glb.trans h.glb
  link := by
    have e := h.link
    rw [← k.link] at e
    exact e
  others := fun x hx => (k.others x hx).trans (h.others x hx)
  own := by
    have e := h.own
    rw [← k.own] at e
    exact e
  cmd := by
    have e := h.cmd
    rw [← k.cmd] at e
    exact e
  stolp := by
    have e := h.stolp
    rw [← k.stolp] at e
    exact e
  casc := k.casc.trans h.casc
  reel := k.reel.trans h.reel
  sched := k.sched.trans h.sched
  models := k.models.trans h.models
  store := by
    have e := h.store
    rw [← k.store] at e
    exact e
  cams := k.cams.trans h.cams
  audio := k.audio.trans h.audio
  time := k.time.trans h.time
  net := k.net.trans h.net
  safe := k.safe.trans h.safe
  power := k.power.trans h.power
  boot := k.boot.trans h.boot
  pins := k.pins.trans h.pins
  freeCtr := k.freeCtr.trans h.freeCtr

/-- A change of the parts that SameDevice leaves out. -/
theorem sameDevice_of {p : Pkt} {s t : State} (hc : t.ctxs = s.ctxs) (h : SameDevice p s { t with ctxs := s.ctxs }) :
    SameDevice p s t := by
  have e : ({ t with ctxs := s.ctxs } : State) = t := by rw [← hc]
  rw [e] at h
  exact h

theorem sameDevice_modCtx (p : Pkt) (f : Ctx → Ctx) (s : State)
    (hf : ∀ c, { f c with tags := c.tags, ring := c.ring, rejected := c.rejected, rejLog := c.rejLog, rejLost := c.rejLost } = c) :
    SameDevice p s (modCtx p.ctx f s) := by
  constructor
  case others => exact fun h hh => ctxOf_modCtx_other f s hh
  case own => rw [ctxOf_modCtx_self]; exact hf _
  all_goals rfl

theorem sameDevice_raiseVec (p : Pkt) (v : Nat) (s : State) : SameDevice p s (raiseVec v s) := by
  unfold raiseVec
  dsimp only
  split <;> (constructor <;> first | rfl | exact fun _ _ => rfl)

theorem sameDevice_perform (p : Pkt) (o : Out) (s : State) : SameDevice p s (perform o s) := by
  unfold perform
  split <;> first | exact sameDevice_raiseVec p _ s | (constructor <;> first | rfl | exact fun _ _ => rfl)

theorem sameDevice_statusMsg (p : Pkt) (h : Nat) (s : State) : SameDevice p s (statusMsg h s) := by
  unfold statusMsg
  split <;> first | exact sameDevice_raiseVec p _ s | (constructor <;> first | rfl | exact fun _ _ => rfl)

theorem sameDevice_emitHost (p : Pkt) (o : Out) (s : State) : SameDevice p s (emitHost o s) := by
  unfold emitHost
  split
  · constructor <;> first | rfl | exact fun _ _ => rfl
  · exact sameDevice_perform p o s

theorem sameDevice_statusWrite (p : Pkt) (r : Reply) (n : Bool) (s : State) : SameDevice p s (statusWrite p.ctx r n s) := by
  unfold statusWrite
  split
  · exact SameDevice.refl p s
  · dsimp only
    split
    · refine SameDevice.trans (SameDevice.trans (sameDevice_emitHost p _ s) (sameDevice_modCtx p _ _ ?_)) (sameDevice_statusMsg p _ _)
      exact fun _ => rfl
    · refine SameDevice.trans (sameDevice_emitHost p _ s) (sameDevice_modCtx p _ _ ?_)
      exact fun _ => rfl

theorem sameDevice_sendSess (p : Pkt) (id type : Nat) (payload : List Byte) (s : State) :
    SameDevice p s (sendSess id type payload s) := by
  unfold sendSess
  split
  · exact SameDevice.refl p s
  · dsimp only
    split <;> (constructor <;> first | rfl | exact fun _ _ => rfl)

theorem sameDevice_foldl {p : Pkt} {α : Type} {f : State → α → State} (hf : ∀ t a, SameDevice p t (f t a)) (l : List α)
    (s : State) : SameDevice p s (l.foldl f s) := by
  induction l generalizing s with
  | nil => exact SameDevice.refl p s
  | cons a r ih => exact (hf s a).trans (ih _)

theorem sameDevice_sessions (p : Pkt) (x : Tbl Session) (s : State) : SameDevice p s { s with stolp.sessions := x } := by
  constructor <;> first | rfl | exact fun _ _ => rfl

theorem sameDevice_flushBatch (p : Pkt) (id : Nat) (s : State) : SameDevice p s (flushBatch id s) := by
  unfold flushBatch
  split
  · exact SameDevice.refl p s
  · exact (sameDevice_sessions p _ s).trans (sameDevice_foldl (fun t a => sameDevice_sendSess p id 1 _ t) _ _)

theorem sameDevice_sessReply (p : Pkt) (id : Nat) (r : Reply) (now : Bool) (s : State) : SameDevice p s (sessReply id r now s) := by
  unfold sessReply
  split
  · exact SameDevice.refl p s
  · dsimp only
    split
    · exact (sameDevice_sessions p _ s).trans (sameDevice_flushBatch p _ _)
    · exact sameDevice_sessions p _ s

theorem sameDevice_deliver (p : Pkt) (r : Reply) (s : State) : SameDevice p s (deliver p r s) := by
  unfold deliver
  split
  · exact sameDevice_sessReply p _ _ _ _
  · exact sameDevice_statusWrite p _ _ _

theorem sameDevice_landFlight (p q : Pkt) (ok : Bool) (s : State) : SameDevice p s (landFlight q ok s) := by
  unfold landFlight
  split
  · exact SameDevice.refl p s
  · constructor <;> first | rfl | exact fun _ _ => rfl

theorem sameDevice_recordTag (p : Pkt) (r : Reply) (b : Bool) (s : State) : SameDevice p s (recordTag p r b s) :=
  sameDevice_modCtx p _ s fun _ => rfl

theorem sameDevice_logReject (p : Pkt) (f : Fail) (s : State) : SameDevice p s (logReject p f s) :=
  sameDevice_modCtx p _ s fun _ => rfl

theorem sameDevice_ite (p : Pkt) {s t : State} (b : Bool) (h : SameDevice p s t) : SameDevice p s (if b then t else s) := by
  cases b
  · exact SameDevice.refl p s
  · exact h

/-- A status reply leaves the device unchanged, but for what SameDevice leaves out (R80). -/
theorem sameDevice_answerPkt (p : Pkt) (code : Code) (notes w0 w1 w2 : Nat) (s : State) :
    SameDevice p s (answerPkt p code notes w0 w1 w2 s) :=
  ((sameDevice_recordTag p _ _ s).trans (sameDevice_landFlight p p _ _)).trans (sameDevice_deliver p _ _)

theorem sameDevice_complete (p : Pkt) (code : Code) (notes w0 w1 w2 : Nat) (s : State) :
    SameDevice p s (complete p code notes w0 w1 w2 s) :=
  (sameDevice_ite p _ (sameDevice_logReject p _ s)).trans (sameDevice_answerPkt p _ _ _ _ _ _)

theorem sameDevice_completeOk (p : Pkt) (w0 w1 w2 : Nat) (s : State) : SameDevice p s (completeOk p w0 w1 w2 s) :=
  sameDevice_answerPkt p .ok 0 w0 w1 w2 s

theorem sameDevice_reject (p : Pkt) (f : Fail) (w2 : Nat) (s : State) : SameDevice p s (reject p f w2 s) :=
  (sameDevice_ite p _ (sameDevice_logReject p _ s)).trans (sameDevice_answerPkt p _ _ _ _ _ _)

theorem sameDevice_handOn (p : Pkt) (s : State) : SameDevice p s (handOn p s) := by
  constructor <;> first | rfl | exact fun _ _ => rfl

theorem sameDevice_hostWait (p : Pkt) (s : State) : SameDevice p s (hostWait p s) := by
  constructor <;> first | rfl | exact fun _ _ => rfl

theorem handedOn_handOn (p : Pkt) (s : State) : HandedOn p (handOn p s) := by
  intro f hf hp
  simp only [handOn, List.mem_map] at hf
  obtain ⟨g, hg, rfl⟩ := hf
  by_cases h : g.pkt == p
  · simp [h]
  · simp [h] at hp
    simp [hp] at h

/-! ### The shared checks -/

/-- A command that passes every check has its effect (R81). -/
theorem runCmd_of_passes {p : Pkt} {s : State} {chk : Option Fail} {act : State → State} (h : Passes p s) (hc : chk = none) :
    runCmd p s chk act = .next (act s) := by
  simp [runCmd, h.1, h.2.1, h.2.2, hc]

theorem actHost_of_free {s : State} (p : Pkt) (act : State → State) (h : held s = false) : actHost p act s = act s := by
  simp [actHost, h]

theorem runHost_of_passes {p : Pkt} {s : State} {host : Bool} {chk : Option Fail} {act : State → State} (h : PassesHost p s)
    (hc : chk = none) : runHost p s host chk act = .next (act s) := by
  unfold runHost
  rw [h.2, Bool.and_false, Bool.false_and, Bool.false_and, if_neg Bool.false_ne_true, runCmd_of_passes h.1 hc,
    actHost_of_free p act h.2]

/-- A command that fails its own checks ends with that code (R80, R81, R297). -/
theorem runCmd_of_fail {p : Pkt} {s : State} {f : Fail} {act : State → State} (h : Passes p s) :
    runCmd p s (some f) act = .next (refuse p f s) := by
  simp [runCmd, h.1, h.2.2]

theorem runHost_of_fail {p : Pkt} {s : State} {host : Bool} {f : Fail} {act : State → State} (h : PassesHost p s) :
    runHost p s host (some f) act = .next (refuse p f s) := by
  unfold runHost
  rw [h.2, Bool.and_false, Bool.false_and, Bool.false_and, if_neg Bool.false_ne_true, runCmd_of_fail h.1]

/-- Everything runCmd can answer: the packet waits for its dispatch, a failing code, or the command's effect. -/
theorem runCmd_cases {p : Pkt} {s t : State} {chk : Option Fail} {act : State → State} (h : runCmd p s chk act = .next t) :
    t = s ∨ (∃ f, t = reject p f 0 s) ∨ (∃ f, t = refuse p f s) ∨ (Passes p s ∧ chk = none ∧ t = act s) := by
  unfold runCmd at h
  split at h
  · cases h; exact .inl rfl
  · next hm =>
    split at h
    · cases h; exact .inr (.inl ⟨_, rfl⟩)
    · split at h
      · cases h; exact .inr (.inr (.inl ⟨_, rfl⟩))
      · split at h
        · cases h; exact .inr (.inl ⟨_, rfl⟩)
        · next hu => cases h; exact .inr (.inr (.inr ⟨⟨by assumption, by simpa using hu, by simpa using hm⟩, rfl, rfl⟩))

/-- Everything runHost can answer: it waits for its dispatch or at a held host-memory request, a failing code, or the effect. -/
theorem runHost_cases {p : Pkt} {s t : State} {host : Bool} {chk : Option Fail} {act : State → State}
    (h : runHost p s host chk act = .next t) :
    t = s ∨ t = hostWait p s ∨ (∃ f, t = reject p f 0 s) ∨ (∃ f, t = refuse p f s) ∨ (Passes p s ∧ chk = none ∧ t = act s) := by
  unfold runHost at h
  split at h
  · cases h; exact .inr (.inl rfl)
  · obtain h | h | h | ⟨hp, hc, h⟩ := runCmd_cases h
    · exact .inl h
    · exact .inr (.inr (.inl h))
    · exact .inr (.inr (.inr (.inl h)))
    · unfold actHost at h
      dsimp only at h
      split at h
      · exact .inr (.inl h)
      · exact .inr (.inr (.inr (.inr ⟨hp, hc, h⟩)))

end Sys2Proof.Machine
end

