-- ==== Sys2Proof/Laws/State.lean ====
section
/-! SUPPORT. What each named update of the state leaves unchanged: one lemma for each field and update, true by rfl. -/

namespace Sys2Proof.Machine

/-! ### modCtx changes only ctxs -/

@[simp] theorem modCtx_pending (h : Nat) (f : Ctx → Ctx) (s : State) : (modCtx h f s).pending = s.pending := rfl
@[simp] theorem modCtx_glb (h : Nat) (f : Ctx → Ctx) (s : State) : (modCtx h f s).glb = s.glb := rfl
@[simp] theorem modCtx_link (h : Nat) (f : Ctx → Ctx) (s : State) : (modCtx h f s).link = s.link := rfl
@[simp] theorem modCtx_cmd (h : Nat) (f : Ctx → Ctx) (s : State) : (modCtx h f s).cmd = s.cmd := rfl
@[simp] theorem modCtx_stolp (h : Nat) (f : Ctx → Ctx) (s : State) : (modCtx h f s).stolp = s.stolp := rfl
@[simp] theorem modCtx_casc (h : Nat) (f : Ctx → Ctx) (s : State) : (modCtx h f s).casc = s.casc := rfl
@[simp] theorem modCtx_reel (h : Nat) (f : Ctx → Ctx) (s : State) : (modCtx h f s).reel = s.reel := rfl
@[simp] theorem modCtx_sched (h : Nat) (f : Ctx → Ctx) (s : State) : (modCtx h f s).sched = s.sched := rfl
@[simp] theorem modCtx_models (h : Nat) (f : Ctx → Ctx) (s : State) : (modCtx h f s).models = s.models := rfl
@[simp] theorem modCtx_store (h : Nat) (f : Ctx → Ctx) (s : State) : (modCtx h f s).store = s.store := rfl
@[simp] theorem modCtx_cams (h : Nat) (f : Ctx → Ctx) (s : State) : (modCtx h f s).cams = s.cams := rfl
@[simp] theorem modCtx_audio (h : Nat) (f : Ctx → Ctx) (s : State) : (modCtx h f s).audio = s.audio := rfl
@[simp] theorem modCtx_time (h : Nat) (f : Ctx → Ctx) (s : State) : (modCtx h f s).time = s.time := rfl
@[simp] theorem modCtx_net (h : Nat) (f : Ctx → Ctx) (s : State) : (modCtx h f s).net = s.net := rfl
@[simp] theorem modCtx_safe (h : Nat) (f : Ctx → Ctx) (s : State) : (modCtx h f s).safe = s.safe := rfl
@[simp] theorem modCtx_power (h : Nat) (f : Ctx → Ctx) (s : State) : (modCtx h f s).power = s.power := rfl
@[simp] theorem modCtx_boot (h : Nat) (f : Ctx → Ctx) (s : State) : (modCtx h f s).boot = s.boot := rfl
@[simp] theorem modCtx_pins (h : Nat) (f : Ctx → Ctx) (s : State) : (modCtx h f s).pins = s.pins := rfl
@[simp] theorem modCtx_out (h : Nat) (f : Ctx → Ctx) (s : State) : (modCtx h f s).out = s.out := rfl
@[simp] theorem modCtx_freeCtr (h : Nat) (f : Ctx → Ctx) (s : State) : (modCtx h f s).freeCtr = s.freeCtr := rfl

/-! ### modPanel changes only sched -/

@[simp] theorem modPanel_pending (n : Nat) (f : Panel → Panel) (s : State) : (modPanel n f s).pending = s.pending := rfl
@[simp] theorem modPanel_glb (n : Nat) (f : Panel → Panel) (s : State) : (modPanel n f s).glb = s.glb := rfl
@[simp] theorem modPanel_link (n : Nat) (f : Panel → Panel) (s : State) : (modPanel n f s).link = s.link := rfl
@[simp] theorem modPanel_ctxs (n : Nat) (f : Panel → Panel) (s : State) : (modPanel n f s).ctxs = s.ctxs := rfl
@[simp] theorem modPanel_cmd (n : Nat) (f : Panel → Panel) (s : State) : (modPanel n f s).cmd = s.cmd := rfl
@[simp] theorem modPanel_stolp (n : Nat) (f : Panel → Panel) (s : State) : (modPanel n f s).stolp = s.stolp := rfl
@[simp] theorem modPanel_casc (n : Nat) (f : Panel → Panel) (s : State) : (modPanel n f s).casc = s.casc := rfl
@[simp] theorem modPanel_reel (n : Nat) (f : Panel → Panel) (s : State) : (modPanel n f s).reel = s.reel := rfl
@[simp] theorem modPanel_models (n : Nat) (f : Panel → Panel) (s : State) : (modPanel n f s).models = s.models := rfl
@[simp] theorem modPanel_store (n : Nat) (f : Panel → Panel) (s : State) : (modPanel n f s).store = s.store := rfl
@[simp] theorem modPanel_cams (n : Nat) (f : Panel → Panel) (s : State) : (modPanel n f s).cams = s.cams := rfl
@[simp] theorem modPanel_audio (n : Nat) (f : Panel → Panel) (s : State) : (modPanel n f s).audio = s.audio := rfl
@[simp] theorem modPanel_time (n : Nat) (f : Panel → Panel) (s : State) : (modPanel n f s).time = s.time := rfl
@[simp] theorem modPanel_net (n : Nat) (f : Panel → Panel) (s : State) : (modPanel n f s).net = s.net := rfl
@[simp] theorem modPanel_safe (n : Nat) (f : Panel → Panel) (s : State) : (modPanel n f s).safe = s.safe := rfl
@[simp] theorem modPanel_power (n : Nat) (f : Panel → Panel) (s : State) : (modPanel n f s).power = s.power := rfl
@[simp] theorem modPanel_boot (n : Nat) (f : Panel → Panel) (s : State) : (modPanel n f s).boot = s.boot := rfl
@[simp] theorem modPanel_pins (n : Nat) (f : Panel → Panel) (s : State) : (modPanel n f s).pins = s.pins := rfl
@[simp] theorem modPanel_out (n : Nat) (f : Panel → Panel) (s : State) : (modPanel n f s).out = s.out := rfl
@[simp] theorem modPanel_freeCtr (n : Nat) (f : Panel → Panel) (s : State) : (modPanel n f s).freeCtr = s.freeCtr := rfl

/-! ### modGang changes only sched -/

@[simp] theorem modGang_pending (g : Nat) (f : Gang → Gang) (s : State) : (modGang g f s).pending = s.pending := rfl
@[simp] theorem modGang_glb (g : Nat) (f : Gang → Gang) (s : State) : (modGang g f s).glb = s.glb := rfl
@[simp] theorem modGang_link (g : Nat) (f : Gang → Gang) (s : State) : (modGang g f s).link = s.link := rfl
@[simp] theorem modGang_ctxs (g : Nat) (f : Gang → Gang) (s : State) : (modGang g f s).ctxs = s.ctxs := rfl
@[simp] theorem modGang_cmd (g : Nat) (f : Gang → Gang) (s : State) : (modGang g f s).cmd = s.cmd := rfl
@[simp] theorem modGang_stolp (g : Nat) (f : Gang → Gang) (s : State) : (modGang g f s).stolp = s.stolp := rfl
@[simp] theorem modGang_casc (g : Nat) (f : Gang → Gang) (s : State) : (modGang g f s).casc = s.casc := rfl
@[simp] theorem modGang_reel (g : Nat) (f : Gang → Gang) (s : State) : (modGang g f s).reel = s.reel := rfl
@[simp] theorem modGang_models (g : Nat) (f : Gang → Gang) (s : State) : (modGang g f s).models = s.models := rfl
@[simp] theorem modGang_store (g : Nat) (f : Gang → Gang) (s : State) : (modGang g f s).store = s.store := rfl
@[simp] theorem modGang_cams (g : Nat) (f : Gang → Gang) (s : State) : (modGang g f s).cams = s.cams := rfl
@[simp] theorem modGang_audio (g : Nat) (f : Gang → Gang) (s : State) : (modGang g f s).audio = s.audio := rfl
@[simp] theorem modGang_time (g : Nat) (f : Gang → Gang) (s : State) : (modGang g f s).time = s.time := rfl
@[simp] theorem modGang_net (g : Nat) (f : Gang → Gang) (s : State) : (modGang g f s).net = s.net := rfl
@[simp] theorem modGang_safe (g : Nat) (f : Gang → Gang) (s : State) : (modGang g f s).safe = s.safe := rfl
@[simp] theorem modGang_power (g : Nat) (f : Gang → Gang) (s : State) : (modGang g f s).power = s.power := rfl
@[simp] theorem modGang_boot (g : Nat) (f : Gang → Gang) (s : State) : (modGang g f s).boot = s.boot := rfl
@[simp] theorem modGang_pins (g : Nat) (f : Gang → Gang) (s : State) : (modGang g f s).pins = s.pins := rfl
@[simp] theorem modGang_out (g : Nat) (f : Gang → Gang) (s : State) : (modGang g f s).out = s.out := rfl
@[simp] theorem modGang_freeCtr (g : Nat) (f : Gang → Gang) (s : State) : (modGang g f s).freeCtr = s.freeCtr := rfl

/-! ### modRun changes only sched -/

@[simp] theorem modRun_pending (k : Nat) (f : Run → Run) (s : State) : (modRun k f s).pending = s.pending := rfl
@[simp] theorem modRun_glb (k : Nat) (f : Run → Run) (s : State) : (modRun k f s).glb = s.glb := rfl
@[simp] theorem modRun_link (k : Nat) (f : Run → Run) (s : State) : (modRun k f s).link = s.link := rfl
@[simp] theorem modRun_ctxs (k : Nat) (f : Run → Run) (s : State) : (modRun k f s).ctxs = s.ctxs := rfl
@[simp] theorem modRun_cmd (k : Nat) (f : Run → Run) (s : State) : (modRun k f s).cmd = s.cmd := rfl
@[simp] theorem modRun_stolp (k : Nat) (f : Run → Run) (s : State) : (modRun k f s).stolp = s.stolp := rfl
@[simp] theorem modRun_casc (k : Nat) (f : Run → Run) (s : State) : (modRun k f s).casc = s.casc := rfl
@[simp] theorem modRun_reel (k : Nat) (f : Run → Run) (s : State) : (modRun k f s).reel = s.reel := rfl
@[simp] theorem modRun_models (k : Nat) (f : Run → Run) (s : State) : (modRun k f s).models = s.models := rfl
@[simp] theorem modRun_store (k : Nat) (f : Run → Run) (s : State) : (modRun k f s).store = s.store := rfl
@[simp] theorem modRun_cams (k : Nat) (f : Run → Run) (s : State) : (modRun k f s).cams = s.cams := rfl
@[simp] theorem modRun_audio (k : Nat) (f : Run → Run) (s : State) : (modRun k f s).audio = s.audio := rfl
@[simp] theorem modRun_time (k : Nat) (f : Run → Run) (s : State) : (modRun k f s).time = s.time := rfl
@[simp] theorem modRun_net (k : Nat) (f : Run → Run) (s : State) : (modRun k f s).net = s.net := rfl
@[simp] theorem modRun_safe (k : Nat) (f : Run → Run) (s : State) : (modRun k f s).safe = s.safe := rfl
@[simp] theorem modRun_power (k : Nat) (f : Run → Run) (s : State) : (modRun k f s).power = s.power := rfl
@[simp] theorem modRun_boot (k : Nat) (f : Run → Run) (s : State) : (modRun k f s).boot = s.boot := rfl
@[simp] theorem modRun_pins (k : Nat) (f : Run → Run) (s : State) : (modRun k f s).pins = s.pins := rfl
@[simp] theorem modRun_out (k : Nat) (f : Run → Run) (s : State) : (modRun k f s).out = s.out := rfl
@[simp] theorem modRun_freeCtr (k : Nat) (f : Run → Run) (s : State) : (modRun k f s).freeCtr = s.freeCtr := rfl

/-! ### modCam changes only cams -/

@[simp] theorem modCam_pending (n : Nat) (f : Cam → Cam) (s : State) : (modCam n f s).pending = s.pending := rfl
@[simp] theorem modCam_glb (n : Nat) (f : Cam → Cam) (s : State) : (modCam n f s).glb = s.glb := rfl
@[simp] theorem modCam_link (n : Nat) (f : Cam → Cam) (s : State) : (modCam n f s).link = s.link := rfl
@[simp] theorem modCam_ctxs (n : Nat) (f : Cam → Cam) (s : State) : (modCam n f s).ctxs = s.ctxs := rfl
@[simp] theorem modCam_cmd (n : Nat) (f : Cam → Cam) (s : State) : (modCam n f s).cmd = s.cmd := rfl
@[simp] theorem modCam_stolp (n : Nat) (f : Cam → Cam) (s : State) : (modCam n f s).stolp = s.stolp := rfl
@[simp] theorem modCam_casc (n : Nat) (f : Cam → Cam) (s : State) : (modCam n f s).casc = s.casc := rfl
@[simp] theorem modCam_reel (n : Nat) (f : Cam → Cam) (s : State) : (modCam n f s).reel = s.reel := rfl
@[simp] theorem modCam_sched (n : Nat) (f : Cam → Cam) (s : State) : (modCam n f s).sched = s.sched := rfl
@[simp] theorem modCam_models (n : Nat) (f : Cam → Cam) (s : State) : (modCam n f s).models = s.models := rfl
@[simp] theorem modCam_store (n : Nat) (f : Cam → Cam) (s : State) : (modCam n f s).store = s.store := rfl
@[simp] theorem modCam_audio (n : Nat) (f : Cam → Cam) (s : State) : (modCam n f s).audio = s.audio := rfl
@[simp] theorem modCam_time (n : Nat) (f : Cam → Cam) (s : State) : (modCam n f s).time = s.time := rfl
@[simp] theorem modCam_net (n : Nat) (f : Cam → Cam) (s : State) : (modCam n f s).net = s.net := rfl
@[simp] theorem modCam_safe (n : Nat) (f : Cam → Cam) (s : State) : (modCam n f s).safe = s.safe := rfl
@[simp] theorem modCam_power (n : Nat) (f : Cam → Cam) (s : State) : (modCam n f s).power = s.power := rfl
@[simp] theorem modCam_boot (n : Nat) (f : Cam → Cam) (s : State) : (modCam n f s).boot = s.boot := rfl
@[simp] theorem modCam_pins (n : Nat) (f : Cam → Cam) (s : State) : (modCam n f s).pins = s.pins := rfl
@[simp] theorem modCam_out (n : Nat) (f : Cam → Cam) (s : State) : (modCam n f s).out = s.out := rfl
@[simp] theorem modCam_freeCtr (n : Nat) (f : Cam → Cam) (s : State) : (modCam n f s).freeCtr = s.freeCtr := rfl

/-! ### modTier changes only casc -/

@[simp] theorem modTier_pending (k : Nat) (f : Tier → Tier) (s : State) : (modTier k f s).pending = s.pending := rfl
@[simp] theorem modTier_glb (k : Nat) (f : Tier → Tier) (s : State) : (modTier k f s).glb = s.glb := rfl
@[simp] theorem modTier_link (k : Nat) (f : Tier → Tier) (s : State) : (modTier k f s).link = s.link := rfl
@[simp] theorem modTier_ctxs (k : Nat) (f : Tier → Tier) (s : State) : (modTier k f s).ctxs = s.ctxs := rfl
@[simp] theorem modTier_cmd (k : Nat) (f : Tier → Tier) (s : State) : (modTier k f s).cmd = s.cmd := rfl
@[simp] theorem modTier_stolp (k : Nat) (f : Tier → Tier) (s : State) : (modTier k f s).stolp = s.stolp := rfl
@[simp] theorem modTier_reel (k : Nat) (f : Tier → Tier) (s : State) : (modTier k f s).reel = s.reel := rfl
@[simp] theorem modTier_sched (k : Nat) (f : Tier → Tier) (s : State) : (modTier k f s).sched = s.sched := rfl
@[simp] theorem modTier_models (k : Nat) (f : Tier → Tier) (s : State) : (modTier k f s).models = s.models := rfl
@[simp] theorem modTier_store (k : Nat) (f : Tier → Tier) (s : State) : (modTier k f s).store = s.store := rfl
@[simp] theorem modTier_cams (k : Nat) (f : Tier → Tier) (s : State) : (modTier k f s).cams = s.cams := rfl
@[simp] theorem modTier_audio (k : Nat) (f : Tier → Tier) (s : State) : (modTier k f s).audio = s.audio := rfl
@[simp] theorem modTier_time (k : Nat) (f : Tier → Tier) (s : State) : (modTier k f s).time = s.time := rfl
@[simp] theorem modTier_net (k : Nat) (f : Tier → Tier) (s : State) : (modTier k f s).net = s.net := rfl
@[simp] theorem modTier_safe (k : Nat) (f : Tier → Tier) (s : State) : (modTier k f s).safe = s.safe := rfl
@[simp] theorem modTier_power (k : Nat) (f : Tier → Tier) (s : State) : (modTier k f s).power = s.power := rfl
@[simp] theorem modTier_boot (k : Nat) (f : Tier → Tier) (s : State) : (modTier k f s).boot = s.boot := rfl
@[simp] theorem modTier_pins (k : Nat) (f : Tier → Tier) (s : State) : (modTier k f s).pins = s.pins := rfl
@[simp] theorem modTier_out (k : Nat) (f : Tier → Tier) (s : State) : (modTier k f s).out = s.out := rfl
@[simp] theorem modTier_freeCtr (k : Nat) (f : Tier → Tier) (s : State) : (modTier k f s).freeCtr = s.freeCtr := rfl

/-! ### modSeq changes only models -/

@[simp] theorem modSeq_pending (k : Nat) (f : KvSeq → KvSeq) (s : State) : (modSeq k f s).pending = s.pending := rfl
@[simp] theorem modSeq_glb (k : Nat) (f : KvSeq → KvSeq) (s : State) : (modSeq k f s).glb = s.glb := rfl
@[simp] theorem modSeq_link (k : Nat) (f : KvSeq → KvSeq) (s : State) : (modSeq k f s).link = s.link := rfl
@[simp] theorem modSeq_ctxs (k : Nat) (f : KvSeq → KvSeq) (s : State) : (modSeq k f s).ctxs = s.ctxs := rfl
@[simp] theorem modSeq_cmd (k : Nat) (f : KvSeq → KvSeq) (s : State) : (modSeq k f s).cmd = s.cmd := rfl
@[simp] theorem modSeq_stolp (k : Nat) (f : KvSeq → KvSeq) (s : State) : (modSeq k f s).stolp = s.stolp := rfl
@[simp] theorem modSeq_casc (k : Nat) (f : KvSeq → KvSeq) (s : State) : (modSeq k f s).casc = s.casc := rfl
@[simp] theorem modSeq_reel (k : Nat) (f : KvSeq → KvSeq) (s : State) : (modSeq k f s).reel = s.reel := rfl
@[simp] theorem modSeq_sched (k : Nat) (f : KvSeq → KvSeq) (s : State) : (modSeq k f s).sched = s.sched := rfl
@[simp] theorem modSeq_store (k : Nat) (f : KvSeq → KvSeq) (s : State) : (modSeq k f s).store = s.store := rfl
@[simp] theorem modSeq_cams (k : Nat) (f : KvSeq → KvSeq) (s : State) : (modSeq k f s).cams = s.cams := rfl
@[simp] theorem modSeq_audio (k : Nat) (f : KvSeq → KvSeq) (s : State) : (modSeq k f s).audio = s.audio := rfl
@[simp] theorem modSeq_time (k : Nat) (f : KvSeq → KvSeq) (s : State) : (modSeq k f s).time = s.time := rfl
@[simp] theorem modSeq_net (k : Nat) (f : KvSeq → KvSeq) (s : State) : (modSeq k f s).net = s.net := rfl
@[simp] theorem modSeq_safe (k : Nat) (f : KvSeq → KvSeq) (s : State) : (modSeq k f s).safe = s.safe := rfl
@[simp] theorem modSeq_power (k : Nat) (f : KvSeq → KvSeq) (s : State) : (modSeq k f s).power = s.power := rfl
@[simp] theorem modSeq_boot (k : Nat) (f : KvSeq → KvSeq) (s : State) : (modSeq k f s).boot = s.boot := rfl
@[simp] theorem modSeq_pins (k : Nat) (f : KvSeq → KvSeq) (s : State) : (modSeq k f s).pins = s.pins := rfl
@[simp] theorem modSeq_out (k : Nat) (f : KvSeq → KvSeq) (s : State) : (modSeq k f s).out = s.out := rfl
@[simp] theorem modSeq_freeCtr (k : Nat) (f : KvSeq → KvSeq) (s : State) : (modSeq k f s).freeCtr = s.freeCtr := rfl

/-! ### modStrm changes only models -/

@[simp] theorem modStrm_pending (k : Nat) (f : Stream → Stream) (s : State) : (modStrm k f s).pending = s.pending := rfl
@[simp] theorem modStrm_glb (k : Nat) (f : Stream → Stream) (s : State) : (modStrm k f s).glb = s.glb := rfl
@[simp] theorem modStrm_link (k : Nat) (f : Stream → Stream) (s : State) : (modStrm k f s).link = s.link := rfl
@[simp] theorem modStrm_ctxs (k : Nat) (f : Stream → Stream) (s : State) : (modStrm k f s).ctxs = s.ctxs := rfl
@[simp] theorem modStrm_cmd (k : Nat) (f : Stream → Stream) (s : State) : (modStrm k f s).cmd = s.cmd := rfl
@[simp] theorem modStrm_stolp (k : Nat) (f : Stream → Stream) (s : State) : (modStrm k f s).stolp = s.stolp := rfl
@[simp] theorem modStrm_casc (k : Nat) (f : Stream → Stream) (s : State) : (modStrm k f s).casc = s.casc := rfl
@[simp] theorem modStrm_reel (k : Nat) (f : Stream → Stream) (s : State) : (modStrm k f s).reel = s.reel := rfl
@[simp] theorem modStrm_sched (k : Nat) (f : Stream → Stream) (s : State) : (modStrm k f s).sched = s.sched := rfl
@[simp] theorem modStrm_store (k : Nat) (f : Stream → Stream) (s : State) : (modStrm k f s).store = s.store := rfl
@[simp] theorem modStrm_cams (k : Nat) (f : Stream → Stream) (s : State) : (modStrm k f s).cams = s.cams := rfl
@[simp] theorem modStrm_audio (k : Nat) (f : Stream → Stream) (s : State) : (modStrm k f s).audio = s.audio := rfl
@[simp] theorem modStrm_time (k : Nat) (f : Stream → Stream) (s : State) : (modStrm k f s).time = s.time := rfl
@[simp] theorem modStrm_net (k : Nat) (f : Stream → Stream) (s : State) : (modStrm k f s).net = s.net := rfl
@[simp] theorem modStrm_safe (k : Nat) (f : Stream → Stream) (s : State) : (modStrm k f s).safe = s.safe := rfl
@[simp] theorem modStrm_power (k : Nat) (f : Stream → Stream) (s : State) : (modStrm k f s).power = s.power := rfl
@[simp] theorem modStrm_boot (k : Nat) (f : Stream → Stream) (s : State) : (modStrm k f s).boot = s.boot := rfl
@[simp] theorem modStrm_pins (k : Nat) (f : Stream → Stream) (s : State) : (modStrm k f s).pins = s.pins := rfl
@[simp] theorem modStrm_out (k : Nat) (f : Stream → Stream) (s : State) : (modStrm k f s).out = s.out := rfl
@[simp] theorem modStrm_freeCtr (k : Nat) (f : Stream → Stream) (s : State) : (modStrm k f s).freeCtr = s.freeCtr := rfl

/-! ### modEv changes only net -/

@[simp] theorem modEv_pending (n : Nat) (f : Ev → Ev) (s : State) : (modEv n f s).pending = s.pending := rfl
@[simp] theorem modEv_glb (n : Nat) (f : Ev → Ev) (s : State) : (modEv n f s).glb = s.glb := rfl
@[simp] theorem modEv_link (n : Nat) (f : Ev → Ev) (s : State) : (modEv n f s).link = s.link := rfl
@[simp] theorem modEv_ctxs (n : Nat) (f : Ev → Ev) (s : State) : (modEv n f s).ctxs = s.ctxs := rfl
@[simp] theorem modEv_cmd (n : Nat) (f : Ev → Ev) (s : State) : (modEv n f s).cmd = s.cmd := rfl
@[simp] theorem modEv_stolp (n : Nat) (f : Ev → Ev) (s : State) : (modEv n f s).stolp = s.stolp := rfl
@[simp] theorem modEv_casc (n : Nat) (f : Ev → Ev) (s : State) : (modEv n f s).casc = s.casc := rfl
@[simp] theorem modEv_reel (n : Nat) (f : Ev → Ev) (s : State) : (modEv n f s).reel = s.reel := rfl
@[simp] theorem modEv_sched (n : Nat) (f : Ev → Ev) (s : State) : (modEv n f s).sched = s.sched := rfl
@[simp] theorem modEv_models (n : Nat) (f : Ev → Ev) (s : State) : (modEv n f s).models = s.models := rfl
@[simp] theorem modEv_store (n : Nat) (f : Ev → Ev) (s : State) : (modEv n f s).store = s.store := rfl
@[simp] theorem modEv_cams (n : Nat) (f : Ev → Ev) (s : State) : (modEv n f s).cams = s.cams := rfl
@[simp] theorem modEv_audio (n : Nat) (f : Ev → Ev) (s : State) : (modEv n f s).audio = s.audio := rfl
@[simp] theorem modEv_time (n : Nat) (f : Ev → Ev) (s : State) : (modEv n f s).time = s.time := rfl
@[simp] theorem modEv_safe (n : Nat) (f : Ev → Ev) (s : State) : (modEv n f s).safe = s.safe := rfl
@[simp] theorem modEv_power (n : Nat) (f : Ev → Ev) (s : State) : (modEv n f s).power = s.power := rfl
@[simp] theorem modEv_boot (n : Nat) (f : Ev → Ev) (s : State) : (modEv n f s).boot = s.boot := rfl
@[simp] theorem modEv_pins (n : Nat) (f : Ev → Ev) (s : State) : (modEv n f s).pins = s.pins := rfl
@[simp] theorem modEv_out (n : Nat) (f : Ev → Ev) (s : State) : (modEv n f s).out = s.out := rfl
@[simp] theorem modEv_freeCtr (n : Nat) (f : Ev → Ev) (s : State) : (modEv n f s).freeCtr = s.freeCtr := rfl

/-! ### modEth changes only net -/

@[simp] theorem modEth_pending (n : Nat) (f : Eth → Eth) (s : State) : (modEth n f s).pending = s.pending := rfl
@[simp] theorem modEth_glb (n : Nat) (f : Eth → Eth) (s : State) : (modEth n f s).glb = s.glb := rfl
@[simp] theorem modEth_link (n : Nat) (f : Eth → Eth) (s : State) : (modEth n f s).link = s.link := rfl
@[simp] theorem modEth_ctxs (n : Nat) (f : Eth → Eth) (s : State) : (modEth n f s).ctxs = s.ctxs := rfl
@[simp] theorem modEth_cmd (n : Nat) (f : Eth → Eth) (s : State) : (modEth n f s).cmd = s.cmd := rfl
@[simp] theorem modEth_stolp (n : Nat) (f : Eth → Eth) (s : State) : (modEth n f s).stolp = s.stolp := rfl
@[simp] theorem modEth_casc (n : Nat) (f : Eth → Eth) (s : State) : (modEth n f s).casc = s.casc := rfl
@[simp] theorem modEth_reel (n : Nat) (f : Eth → Eth) (s : State) : (modEth n f s).reel = s.reel := rfl
@[simp] theorem modEth_sched (n : Nat) (f : Eth → Eth) (s : State) : (modEth n f s).sched = s.sched := rfl
@[simp] theorem modEth_models (n : Nat) (f : Eth → Eth) (s : State) : (modEth n f s).models = s.models := rfl
@[simp] theorem modEth_store (n : Nat) (f : Eth → Eth) (s : State) : (modEth n f s).store = s.store := rfl
@[simp] theorem modEth_cams (n : Nat) (f : Eth → Eth) (s : State) : (modEth n f s).cams = s.cams := rfl
@[simp] theorem modEth_audio (n : Nat) (f : Eth → Eth) (s : State) : (modEth n f s).audio = s.audio := rfl
@[simp] theorem modEth_time (n : Nat) (f : Eth → Eth) (s : State) : (modEth n f s).time = s.time := rfl
@[simp] theorem modEth_safe (n : Nat) (f : Eth → Eth) (s : State) : (modEth n f s).safe = s.safe := rfl
@[simp] theorem modEth_power (n : Nat) (f : Eth → Eth) (s : State) : (modEth n f s).power = s.power := rfl
@[simp] theorem modEth_boot (n : Nat) (f : Eth → Eth) (s : State) : (modEth n f s).boot = s.boot := rfl
@[simp] theorem modEth_pins (n : Nat) (f : Eth → Eth) (s : State) : (modEth n f s).pins = s.pins := rfl
@[simp] theorem modEth_out (n : Nat) (f : Eth → Eth) (s : State) : (modEth n f s).out = s.out := rfl
@[simp] theorem modEth_freeCtr (n : Nat) (f : Eth → Eth) (s : State) : (modEth n f s).freeCtr = s.freeCtr := rfl

/-! ### modObj changes only store -/

@[simp] theorem modObj_pending (k : Nat) (f : MemObj → MemObj) (s : State) : (modObj k f s).pending = s.pending := rfl
@[simp] theorem modObj_glb (k : Nat) (f : MemObj → MemObj) (s : State) : (modObj k f s).glb = s.glb := rfl
@[simp] theorem modObj_link (k : Nat) (f : MemObj → MemObj) (s : State) : (modObj k f s).link = s.link := rfl
@[simp] theorem modObj_ctxs (k : Nat) (f : MemObj → MemObj) (s : State) : (modObj k f s).ctxs = s.ctxs := rfl
@[simp] theorem modObj_cmd (k : Nat) (f : MemObj → MemObj) (s : State) : (modObj k f s).cmd = s.cmd := rfl
@[simp] theorem modObj_stolp (k : Nat) (f : MemObj → MemObj) (s : State) : (modObj k f s).stolp = s.stolp := rfl
@[simp] theorem modObj_casc (k : Nat) (f : MemObj → MemObj) (s : State) : (modObj k f s).casc = s.casc := rfl
@[simp] theorem modObj_reel (k : Nat) (f : MemObj → MemObj) (s : State) : (modObj k f s).reel = s.reel := rfl
@[simp] theorem modObj_sched (k : Nat) (f : MemObj → MemObj) (s : State) : (modObj k f s).sched = s.sched := rfl
@[simp] theorem modObj_models (k : Nat) (f : MemObj → MemObj) (s : State) : (modObj k f s).models = s.models := rfl
@[simp] theorem modObj_cams (k : Nat) (f : MemObj → MemObj) (s : State) : (modObj k f s).cams = s.cams := rfl
@[simp] theorem modObj_audio (k : Nat) (f : MemObj → MemObj) (s : State) : (modObj k f s).audio = s.audio := rfl
@[simp] theorem modObj_time (k : Nat) (f : MemObj → MemObj) (s : State) : (modObj k f s).time = s.time := rfl
@[simp] theorem modObj_net (k : Nat) (f : MemObj → MemObj) (s : State) : (modObj k f s).net = s.net := rfl
@[simp] theorem modObj_safe (k : Nat) (f : MemObj → MemObj) (s : State) : (modObj k f s).safe = s.safe := rfl
@[simp] theorem modObj_power (k : Nat) (f : MemObj → MemObj) (s : State) : (modObj k f s).power = s.power := rfl
@[simp] theorem modObj_boot (k : Nat) (f : MemObj → MemObj) (s : State) : (modObj k f s).boot = s.boot := rfl
@[simp] theorem modObj_pins (k : Nat) (f : MemObj → MemObj) (s : State) : (modObj k f s).pins = s.pins := rfl
@[simp] theorem modObj_out (k : Nat) (f : MemObj → MemObj) (s : State) : (modObj k f s).out = s.out := rfl
@[simp] theorem modObj_freeCtr (k : Nat) (f : MemObj → MemObj) (s : State) : (modObj k f s).freeCtr = s.freeCtr := rfl

/-! ### modI2s changes only audio -/

@[simp] theorem modI2s_pending (n : Nat) (f : I2s → I2s) (s : State) : (modI2s n f s).pending = s.pending := rfl
@[simp] theorem modI2s_glb (n : Nat) (f : I2s → I2s) (s : State) : (modI2s n f s).glb = s.glb := rfl
@[simp] theorem modI2s_link (n : Nat) (f : I2s → I2s) (s : State) : (modI2s n f s).link = s.link := rfl
@[simp] theorem modI2s_ctxs (n : Nat) (f : I2s → I2s) (s : State) : (modI2s n f s).ctxs = s.ctxs := rfl
@[simp] theorem modI2s_cmd (n : Nat) (f : I2s → I2s) (s : State) : (modI2s n f s).cmd = s.cmd := rfl
@[simp] theorem modI2s_stolp (n : Nat) (f : I2s → I2s) (s : State) : (modI2s n f s).stolp = s.stolp := rfl
@[simp] theorem modI2s_casc (n : Nat) (f : I2s → I2s) (s : State) : (modI2s n f s).casc = s.casc := rfl
@[simp] theorem modI2s_reel (n : Nat) (f : I2s → I2s) (s : State) : (modI2s n f s).reel = s.reel := rfl
@[simp] theorem modI2s_sched (n : Nat) (f : I2s → I2s) (s : State) : (modI2s n f s).sched = s.sched := rfl
@[simp] theorem modI2s_models (n : Nat) (f : I2s → I2s) (s : State) : (modI2s n f s).models = s.models := rfl
@[simp] theorem modI2s_store (n : Nat) (f : I2s → I2s) (s : State) : (modI2s n f s).store = s.store := rfl
@[simp] theorem modI2s_cams (n : Nat) (f : I2s → I2s) (s : State) : (modI2s n f s).cams = s.cams := rfl
@[simp] theorem modI2s_time (n : Nat) (f : I2s → I2s) (s : State) : (modI2s n f s).time = s.time := rfl
@[simp] theorem modI2s_net (n : Nat) (f : I2s → I2s) (s : State) : (modI2s n f s).net = s.net := rfl
@[simp] theorem modI2s_safe (n : Nat) (f : I2s → I2s) (s : State) : (modI2s n f s).safe = s.safe := rfl
@[simp] theorem modI2s_power (n : Nat) (f : I2s → I2s) (s : State) : (modI2s n f s).power = s.power := rfl
@[simp] theorem modI2s_boot (n : Nat) (f : I2s → I2s) (s : State) : (modI2s n f s).boot = s.boot := rfl
@[simp] theorem modI2s_pins (n : Nat) (f : I2s → I2s) (s : State) : (modI2s n f s).pins = s.pins := rfl
@[simp] theorem modI2s_out (n : Nat) (f : I2s → I2s) (s : State) : (modI2s n f s).out = s.out := rfl
@[simp] theorem modI2s_freeCtr (n : Nat) (f : I2s → I2s) (s : State) : (modI2s n f s).freeCtr = s.freeCtr := rfl

end Sys2Proof.Machine
end

