-- ==== Sys2Proof/Laws/WfBase.lean ====
section
/-! SUPPORT. Every shared operation keeps the canonical form of both memories, of the context table and of the table of stored words:
the base lemmas. -/

namespace Sys2Proof.Machine

variable {fl : Floors}

/-- A result keeps the canonical form if its next state has it. -/
def Res.wf (fl : Floors) (r : Res) : Prop :=
  match r with
  | .next t => t.inv fl
  | _ => True

theorem res_next {t : State} (h : t.inv fl) : Res.wf fl (.next t) := h

theorem res_fault {r : Fault} : Res.wf fl (.fault r) := trivial

theorem res_refused {r : Refusal} : Res.wf fl (.refused r) := trivial

theorem wf_ite {c : Prop} [Decidable c] {a b : State} (ha : a.inv fl) (hb : b.inv fl) : (if c then a else b).inv fl := by
  split
  · exact ha
  · exact hb

theorem res_ite {c : Prop} [Decidable c] {a b : Res} (ha : Res.wf fl a) (hb : Res.wf fl b) : Res.wf fl (if c then a else b) := by
  split
  · exact ha
  · exact hb

theorem wf_mk {pending : List Instr} {glb : Glb} {link : Link} {ctxs : Tbl Ctx} {cmd : Cmd} {stolp : Stolp} {casc : Casc}
    {reel : Reel} {sched : Sched} {models : Models} {store : Store} {cams : Cams} {audio : Audio} {time : Time} {net : Net}
    {safe : Safe} {power : Power} {boot : Boot} {pins : Pins} {out : List Out} {freeCtr : Nat} :
    (State.mk pending glb link ctxs cmd stolp casc reel sched models store cams audio time net safe power boot pins out freeCtr).inv fl ↔
      (Memory.wf store.mem = true ∧ Memory.wf store.host = true) ∧ (Tbl.wf ctxs ∧ Tbl.wf store.words) ∧
        (glb.event &&& 0xFFFFFC00 = 0 ∧ glb.eventEn &&& 0xFFFFFC00 = 0 ∧ glb.err &&& 0xFFFFFF00 = 0 ∧ glb.errEn &&& 0xFFFFFF00 = 0 ∧
          glb.winLo &&& 0xFFFF = 0 ∧ glb.winHi &&& 0xFFFFFF00 = 0 ∧ glb.mqLo &&& 0xFFF = 0 ∧ glb.msLo &&& 0xFFF = 0 ∧
          glb.mring &&& 0x7FFFE0E0 = 0) ∧ (cams.gate = cams.pin ∧ audio.gate = audio.pin) ∧
        fl.fw ≤ boot.fwFloor ∧ fl.cfg ≤ boot.cfgFloor ∧ fl.exports ≤ models.exports := Iff.rfl

theorem wf_parts {s : State} (h : s.inv fl) :
    (Memory.wf s.store.mem = true ∧ Memory.wf s.store.host = true) ∧ (Tbl.wf s.ctxs ∧ Tbl.wf s.store.words) ∧
      (s.glb.event &&& 0xFFFFFC00 = 0 ∧ s.glb.eventEn &&& 0xFFFFFC00 = 0 ∧ s.glb.err &&& 0xFFFFFF00 = 0 ∧ s.glb.errEn &&& 0xFFFFFF00 = 0 ∧
        s.glb.winLo &&& 0xFFFF = 0 ∧ s.glb.winHi &&& 0xFFFFFF00 = 0 ∧ s.glb.mqLo &&& 0xFFF = 0 ∧ s.glb.msLo &&& 0xFFF = 0 ∧
        s.glb.mring &&& 0x7FFFE0E0 = 0) ∧ (s.cams.gate = s.cams.pin ∧ s.audio.gate = s.audio.pin) ∧
      fl.fw ≤ s.boot.fwFloor ∧ fl.cfg ≤ s.boot.cfgFloor ∧ fl.exports ≤ s.models.exports := h

theorem wf_of {s : State} (h1 : Memory.wf s.store.mem = true) (h2 : Memory.wf s.store.host = true) (h3 : Tbl.wf s.ctxs)
    (h4 : Tbl.wf s.store.words) (h5 : s.glbWf ∧ s.gateWf ∧ s.above fl) : s.inv fl := ⟨⟨h1, h2⟩, ⟨h3, h4⟩, h5⟩

theorem wf_mem {s : State} (h : s.inv fl) : Memory.wf s.store.mem = true := h.1.1
theorem wf_host {s : State} (h : s.inv fl) : Memory.wf s.store.host = true := h.1.2
theorem wf_ctxs {s : State} (h : s.inv fl) : Tbl.wf s.ctxs := h.2.1.1
theorem wf_words {s : State} (h : s.inv fl) : Tbl.wf s.store.words := h.2.1.2
theorem wf_dev {s : State} (h : s.inv fl) : s.glbWf ∧ s.gateWf ∧ s.above fl := h.2.2

theorem foldl_wf {α : Type} {f : State → α → State} {l : List α} {s : State} (hf : ∀ t a, t.inv fl → (f t a).inv fl) (h : s.inv fl) :
    (l.foldl f s).inv fl := by
  induction l generalizing s with
  | nil => exact h
  | cons a r ih => exact ih (hf s a h)

theorem foldl2_wf {α β : Type} {f : β × State → α → β × State} {l : List α} {b : β} {s : State}
    (hf : ∀ c t a, t.inv fl → (f (c, t) a).2.inv fl) (h : s.inv fl) : (l.foldl f (b, s)).2.inv fl := by
  induction l generalizing b s with
  | nil => exact h
  | cons a r ih => exact ih (hf b s a h)

theorem foldl_inv {α β : Type} {P : β → Prop} {f : β → α → β} {l : List α} {b : β} (hf : ∀ c a, P c → P (f c a)) (h : P b) :
    P (l.foldl f b) := by
  induction l generalizing b with
  | nil => exact h
  | cons a r ih => exact ih (hf b a h)

theorem snd_wf_of {α : Type} {x : α × State} {a : α} {t : State} (h : x = (a, t)) (hx : x.2.inv fl) : t.inv fl := by
  rw [h] at hx
  exact hx

theorem last_wf_of {α β γ : Type} {x : α × β × γ × State} {a : α} {b : β} {c : γ} {t : State} (h : x = (a, b, c, t))
    (hx : x.2.2.2.inv fl) : t.inv fl := by
  rw [h] at hx
  exact hx

theorem foldl_tput_wf {α β : Type} (l : List β) (k : β → Nat) (v : β → α) (t : Tbl α) (h : Tbl.wf t) :
    Tbl.wf (l.foldl (fun t e => tput t (k e) (v e)) t) := by
  induction l generalizing t with
  | nil => exact h
  | cons a r ih => exact ih _ (tput_wf _ _ _ h)

theorem and_keep {a b m : Word} (h : a &&& m = 0) : (a &&& b) &&& m = 0 := by
  rw [BitVec.and_assoc, BitVec.and_comm b m, ← BitVec.and_assoc, h]
  exact BitVec.zero_and

theorem mask_keep {a k m : Word} (h : k &&& m = 0) : (a &&& k) &&& m = 0 := by
  rw [BitVec.and_assoc, h]
  exact BitVec.and_zero

theorem or_keep {a b m : Word} (ha : a &&& m = 0) (hb : b &&& m = 0) : (a ||| b) &&& m = 0 := by
  rw [BitVec.and_comm, BitVec.and_or_distrib_left, BitVec.and_comm m a, BitVec.and_comm m b, ha, hb]
  rfl

/-- A state that differs in the global registers alone. -/
theorem wf_glb {s : State} {g : Glb} (h : s.inv fl) (hg : ({ s with glb := g } : State).glbWf) : ({ s with glb := g } : State).inv fl :=
  ⟨h.1, h.2.1, hg, h.2.2.2⟩

theorem modCtx_wf (h : Nat) (f : Ctx → Ctx) (s : State) (hs : s.inv fl) : (modCtx h f s).inv fl :=
  wf_of (wf_mem (s := s) hs) (wf_host (s := s) hs) (tmod_wf _ _ _ (wf_ctxs (s := s) hs)) (wf_words (s := s) hs) (wf_dev (s := s) hs)

theorem physWrite_wf (a : Nat) (bs : List Byte) (s : State) (hs : s.inv fl) : (physWrite a bs s).inv fl :=
  wf_of (foldl_memSet_wf _ _ _ _ (wf_mem (s := s) hs)) (wf_host (s := s) hs) (wf_ctxs (s := s) hs) (filter_wf _ _ (wf_words (s := s) hs)) (wf_dev (s := s) hs)

theorem physZero_wf (a n : Nat) (s : State) (hs : s.inv fl) : (physZero a n s).inv fl :=
  wf_of (memZero_wf _ _ _ (wf_mem (s := s) hs)) (wf_host (s := s) hs) (wf_ctxs (s := s) hs) (filter_wf _ _ (wf_words (s := s) hs)) (wf_dev (s := s) hs)

end Sys2Proof.Machine
end

