-- ==== Sys2Proof/Laws/WfOps.lean ====
section
/-! SUPPORT. Every operation and command of Machine/Ops.lean keeps the canonical form of the tables: one lemma per function. -/

namespace Sys2Proof.Machine

variable {fl : Floors}

theorem slewFor_wf (d : ℕ) (s : State) (hs : s.inv fl) :
    (slewFor d s).inv fl := by
  unfold slewFor
  try dsimp only
  repeat' first
    | with_reducible assumption | split
    | (simp only [wf_mk]; with_reducible refine wf_parts ?_)

theorem elapseTo_wf (t : ℕ) (s : State) (hs : s.inv fl) :
    (elapseTo t s).inv fl := by
  unfold elapseTo
  try dsimp only
  repeat' first
    | with_reducible assumption | with_reducible apply slewFor_wf | split
    | (simp only [wf_mk]; with_reducible refine wf_parts ?_)

theorem takeFree_wf (s : State) (hs : s.inv fl) :
    (takeFree s).2.inv fl := by
  unfold takeFree
  try dsimp only
  repeat' first
    | with_reducible assumption | split
    | (simp only [wf_mk]; with_reducible refine wf_parts ?_)

theorem raiseVec_wf (v : ℕ) (s0 : State) (hs0 : s0.inv fl) :
    (raiseVec v s0).inv fl := by
  unfold raiseVec
  try dsimp only
  repeat' first
    | with_reducible assumption | split
    | (simp only [wf_mk]; with_reducible refine wf_parts ?_)

theorem sendPending_wf (s : State) (hs : s.inv fl) :
    (sendPending s).inv fl := by
  unfold sendPending
  try dsimp only
  repeat' first
    | with_reducible assumption | split
    | (simp only [wf_mk]; with_reducible refine wf_parts ?_)

theorem glbEvent_wf (k : ℕ) (s : State) (hs : s.inv fl) :
    (glbEvent k s).inv fl := by
  obtain ⟨g1, g2, g3, g4, g5, g6, g7, g8, g9⟩ := hs.2.2.1
  have h1 : ({ s with
      glb.event := s.glb.event ||| (BitVec.ofNat 32 (1 <<< k) &&& 0x3FF)
      glb.evCnt := tmod s.glb.evCnt k (· + 1) } : State).inv fl :=
    wf_glb hs ⟨or_keep g1 (mask_keep (by decide)), g2, g3, g4, g5, g6, g7, g8, g9⟩
  unfold glbEvent
  dsimp only
  split
  · exact raiseVec_wf _ _ h1
  · exact h1

theorem glbErr_wf (k : ℕ) (s : State) (hs : s.inv fl) :
    (glbErr k s).inv fl := by
  obtain ⟨g1, g2, g3, g4, g5, g6, g7, g8, g9⟩ := hs.2.2.1
  have h1 : ({ s with
      glb.err := s.glb.err ||| (BitVec.ofNat 32 (1 <<< k) &&& 0xFF)
      glb.errCnt := tmod s.glb.errCnt k (· + 1) } : State).inv fl :=
    wf_glb hs ⟨g1, g2, or_keep g3 (mask_keep (by decide)), g4, g5, g6, g7, g8, g9⟩
  unfold glbErr
  dsimp only
  split
  · exact glbEvent_wf _ _ h1
  · exact h1

theorem perform_wf (o : Out) (s : State) (hs : s.inv fl) :
    (perform o s).inv fl := by
  unfold perform
  split
  · exact wf_of (wf_mem (s := s) hs) (memWrite_wf _ _ _ (wf_host (s := s) hs)) (wf_ctxs (s := s) hs) (wf_words (s := s) hs) (wf_dev (s := s) hs)
  · exact wf_of (wf_mem (s := s) hs) (memWrite_wf _ _ _ (wf_host (s := s) hs)) (wf_ctxs (s := s) hs) (wf_words (s := s) hs) (wf_dev (s := s) hs)
  · exact raiseVec_wf _ _ hs
  · exact hs

theorem emitHost_wf (o : Out) (s : State) (hs : s.inv fl) :
    (emitHost o s).inv fl := by
  unfold emitHost
  try dsimp only
  repeat' first
    | with_reducible assumption | with_reducible apply perform_wf | split
    | (simp only [wf_mk]; with_reducible refine wf_parts ?_)

theorem touchGuards_wf (h : ℕ) (va : ℕ) (n : ℕ) (s : State) (hs : s.inv fl) :
    (touchGuards h va n s).inv fl := by
  unfold touchGuards
  try dsimp only
  repeat' first
    | with_reducible assumption | split
    | (simp only [wf_mk]; with_reducible refine wf_parts ?_)

theorem vwrite_wf (h : ℕ) (va : ℕ) (bs : List Byte) (s : State) (hs : s.inv fl) :
    (vwrite h va bs s).inv fl := by
  unfold vwrite
  try dsimp only
  repeat' first
    | with_reducible assumption | with_reducible apply touchGuards_wf | with_reducible apply emitHost_wf
    | with_reducible apply physWrite_wf | (with_reducible refine foldl_wf ?_ ?_; intro _ _ _) | split

theorem statusMsg_wf (h : ℕ) (s : State) (hs : s.inv fl) :
    (statusMsg h s).inv fl := by
  unfold statusMsg
  try dsimp only
  repeat' first
    | with_reducible assumption | with_reducible apply raiseVec_wf | split
    | (simp only [wf_mk]; with_reducible refine wf_parts ?_)

theorem statusWrite_wf (h : ℕ) (r : Reply) (notify : Bool) (s : State) (hs : s.inv fl) :
    (statusWrite h r notify s).inv fl := by
  unfold statusWrite
  try dsimp only
  repeat' first
    | with_reducible assumption | with_reducible apply statusMsg_wf | with_reducible apply emitHost_wf | with_reducible apply modCtx_wf
    | split

theorem closeSession_wf (id : ℕ) (s : State) (hs : s.inv fl) :
    (closeSession id s).inv fl := by
  unfold closeSession
  try dsimp only
  repeat' first
    | with_reducible assumption | split
    | (simp only [wf_mk]; with_reducible refine wf_parts ?_)

theorem sendSess_wf (id : ℕ) (type : ℕ) (payload : List Byte) (s : State) (hs : s.inv fl) :
    (sendSess id type payload s).inv fl := by
  unfold sendSess
  try dsimp only
  repeat' first
    | with_reducible assumption | with_reducible apply closeSession_wf | split
    | (simp only [wf_mk]; with_reducible refine wf_parts ?_)

theorem flushBatch_wf (id : ℕ) (s : State) (hs : s.inv fl) :
    (flushBatch id s).inv fl := by
  unfold flushBatch
  try dsimp only
  repeat' first
    | with_reducible assumption | with_reducible apply sendSess_wf | (with_reducible refine foldl_wf ?_ ?_; intro _ _ _) | split
    | (simp only [wf_mk]; with_reducible refine wf_parts ?_)

theorem sessReply_wf (id : ℕ) (r : Reply) (now : Bool) (s : State) (hs : s.inv fl) :
    (sessReply id r now s).inv fl := by
  unfold sessReply
  try dsimp only
  repeat' first
    | with_reducible assumption | with_reducible apply flushBatch_wf | split
    | (simp only [wf_mk]; with_reducible refine wf_parts ?_)

theorem landFlight_wf (p : Pkt) (ok : Bool) (s : State) (hs : s.inv fl) :
    (landFlight p ok s).inv fl := by
  unfold landFlight
  try dsimp only
  repeat' first
    | with_reducible assumption | split
    | (simp only [wf_mk]; with_reducible refine wf_parts ?_)

theorem deliver_wf (p : Pkt) (r : Reply) (s : State) (hs : s.inv fl) :
    (deliver p r s).inv fl := by
  unfold deliver
  try dsimp only
  repeat' first
    | with_reducible assumption | with_reducible apply sessReply_wf | with_reducible apply statusWrite_wf
    | split

theorem recordTag_wf (p : Pkt) (r : Reply) (repeated : Bool) (s : State) (hs : s.inv fl) :
    (recordTag p r repeated s).inv fl := by
  unfold recordTag
  try dsimp only
  repeat' first
    | with_reducible assumption | with_reducible apply modCtx_wf

theorem answerPkt_wf (p : Pkt) (code : Code) (notes : ℕ) (w0 : ℕ) (w1 : ℕ) (w2 : ℕ) (s : State) (hs : s.inv fl) :
    (answerPkt p code notes w0 w1 w2 s).inv fl := by
  unfold answerPkt
  try dsimp only
  repeat' first
    | with_reducible assumption | with_reducible apply recordTag_wf | with_reducible apply deliver_wf | with_reducible apply landFlight_wf

theorem completeOk_wf (p : Pkt) (w0 : ℕ) (w1 : ℕ) (w2 : ℕ) (s : State) (hs : s.inv fl) :
    (completeOk p w0 w1 w2 s).inv fl := by
  unfold completeOk
  try dsimp only
  repeat' first
    | with_reducible assumption | with_reducible apply answerPkt_wf

theorem logReject_wf (p : Pkt) (f : Fail) (s : State) (hs : s.inv fl) :
    (logReject p f s).inv fl := by
  unfold logReject
  try dsimp only
  repeat' first
    | with_reducible assumption | with_reducible apply modCtx_wf

theorem complete_wf (p : Pkt) (code : Code) (notes : ℕ) (w0 : ℕ) (w1 : ℕ) (w2 : ℕ) (s : State) (hs : s.inv fl) :
    (complete p code notes w0 w1 w2 s).inv fl := by
  unfold complete
  try dsimp only
  repeat' first
    | with_reducible assumption | with_reducible apply logReject_wf | with_reducible apply answerPkt_wf
    | split

theorem reject_wf (p : Pkt) (f : Fail) (w2 : ℕ) (s : State) (hs : s.inv fl) :
    (reject p f w2 s).inv fl := by
  unfold reject
  try dsimp only
  repeat' first
    | with_reducible assumption | with_reducible apply logReject_wf | with_reducible apply answerPkt_wf
    | split

theorem handOn_wf (p : Pkt) (s : State) (hs : s.inv fl) :
    (handOn p s).inv fl := by
  unfold handOn
  try dsimp only
  repeat' first
    | with_reducible assumption | split
    | (simp only [wf_mk]; with_reducible refine wf_parts ?_)

theorem tick_wf (s : State) (hs : s.inv fl) :
    (tick s).inv fl := by
  unfold tick
  try dsimp only
  repeat' first
    | with_reducible assumption | with_reducible apply slewFor_wf | split
    | (simp only [wf_mk]; with_reducible refine wf_parts ?_)

end Sys2Proof.Machine
end

