-- ==== Sys2Proof/Laws/WfSafeOps.lean ====
section
/-! SUPPORT. Every operation and command of Machine/SafeOps.lean keeps the canonical form of the tables: one lemma per function. -/

namespace Sys2Proof.Machine

variable {fl : Floors}

theorem assertFault_wf (hardware : Bool) (s : State) (hs : s.inv fl) :
    (assertFault hardware s).inv fl := by
  unfold assertFault
  try dsimp only
  repeat' first
    | with_reducible assumption | split
    | (simp only [wf_mk]; with_reducible refine wf_parts ?_)

theorem safetyPins_wf (s : State) (hs : s.inv fl) :
    (safetyPins s).inv fl := by
  unfold safetyPins
  try dsimp only
  repeat' first
    | with_reducible assumption | split
    | (simp only [wf_mk]; with_reducible refine wf_parts ?_)

theorem idle_wf (s : State) (hs : s.inv fl) :
    (idle s).inv fl := by
  unfold idle
  try dsimp only
  repeat' first
    | with_reducible assumption | with_reducible apply safetyPins_wf | with_reducible apply tick_wf

theorem logEvent_wf (kind : ℕ) (ty : ℕ) (ix : ℕ) (action : ℕ) (ctx : ℕ) (score : ℕ) (detail : ℕ) (loc : ℕ) (s : State) (hs : s.inv fl) :
    (logEvent kind ty ix action ctx score detail loc s).inv fl := by
  unfold logEvent
  try dsimp only
  repeat' first
    | with_reducible assumption | with_reducible apply assertFault_wf | with_reducible apply glbEvent_wf
    | split | (simp only [wf_mk]; with_reducible refine wf_parts ?_)

theorem addScore_wf (ty : ℕ) (ix : ℕ) (weight : ℕ) (transient : Bool) (s : State) (hs : s.inv fl) :
    (addScore ty ix weight transient s).inv fl := by
  unfold addScore
  try dsimp only
  repeat' first
    | with_reducible assumption | split
    | (simp only [wf_mk]; with_reducible refine wf_parts ?_)

theorem chanEvent_wf (kind : ℕ) (ty : ℕ) (ix : ℕ) (action : ℕ) (ctx : ℕ) (weight : ℕ) (detail : ℕ) (loc : ℕ) (s : State) (hs : s.inv fl) :
    (chanEvent kind ty ix action ctx weight detail loc s).inv fl := by
  unfold chanEvent
  try dsimp only
  repeat' first
    | with_reducible assumption | with_reducible apply addScore_wf | with_reducible apply logEvent_wf

theorem deviceLimit_wf (before : ℕ) (s : State) (hs : s.inv fl) :
    (deviceLimit before s).inv fl := by
  unfold deviceLimit
  try dsimp only
  repeat' first
    | with_reducible assumption | with_reducible apply logEvent_wf | split

theorem deviceEvent_wf (kind : ℕ) (action : ℕ) (ctx : ℕ) (weight : ℕ) (detail : ℕ) (loc : ℕ) (s : State) (hs : s.inv fl) :
    (deviceEvent kind action ctx weight detail loc s).inv fl := by
  unfold deviceEvent
  try dsimp only
  repeat' first
    | with_reducible assumption | with_reducible apply deviceLimit_wf | with_reducible apply logEvent_wf
    | split | (simp only [wf_mk]; with_reducible refine wf_parts ?_)

theorem correctedLog_wf (ty : ℕ) (ix : ℕ) (sc : ℕ) (s : State) (hs : s.inv fl) :
    (correctedLog ty ix sc s).inv fl := by
  unfold correctedLog
  try dsimp only
  repeat' first
    | with_reducible assumption | with_reducible apply logEvent_wf | split
    | (simp only [wf_mk]; with_reducible refine wf_parts ?_)

theorem correctedEvent_wf (ty : ℕ) (ix : ℕ) (s : State) (hs : s.inv fl) :
    (correctedEvent ty ix s).inv fl := by
  unfold correctedEvent
  try dsimp only
  repeat' first
    | with_reducible assumption | with_reducible apply correctedLog_wf | with_reducible apply addScore_wf

theorem correctedDevice_wf (s : State) (hs : s.inv fl) :
    (correctedDevice s).inv fl := by
  unfold correctedDevice
  try dsimp only
  repeat' first
    | with_reducible assumption | with_reducible apply correctedLog_wf | with_reducible apply deviceLimit_wf
    | split | (simp only [wf_mk]; with_reducible refine wf_parts ?_)

theorem wordEvent_wf (w : ℕ) (ctx : ℕ) (s : State) (hs : s.inv fl) :
    (wordEvent w ctx s).inv fl := by
  unfold wordEvent
  try dsimp only
  repeat' first
    | with_reducible assumption | with_reducible apply deviceEvent_wf | with_reducible apply chanEvent_wf
    | split | (simp only [wf_mk]; with_reducible refine wf_parts ?_)

theorem correctedWords_wf (ws : List ℕ) (s : State) (hs : s.inv fl) :
    (correctedWords ws s).inv fl := by
  unfold correctedWords
  try dsimp only
  repeat' first
    | with_reducible assumption | with_reducible apply correctedDevice_wf | with_reducible apply correctedEvent_wf
    | (with_reducible refine foldl_wf ?_ ?_; intro _ _ _) | split | (simp only [wf_mk]; with_reducible refine wf_parts ?_)

theorem readWords_wf (h : ℕ) (va : ℕ) (n : ℕ) (s : State) (hs : s.inv fl) :
    (readWords h va n s).inv fl := by
  unfold readWords
  try dsimp only
  repeat' first
    | with_reducible assumption | with_reducible apply correctedWords_wf | split

theorem readPhys_wf (as : List ℕ) (s : State) (hs : s.inv fl) :
    (readPhys as s).inv fl := by
  unfold readPhys
  try dsimp only
  repeat' first
    | with_reducible assumption | with_reducible apply correctedWords_wf | split

theorem addressFault_wf (a : ℕ) (ctx : ℕ) (s : State) (hs : s.inv fl) :
    (addressFault a ctx s).inv fl := by
  unfold addressFault
  try dsimp only
  repeat' first
    | with_reducible assumption | with_reducible apply deviceEvent_wf

theorem internalEvent_wf (ctx : ℕ) (s : State) (hs : s.inv fl) :
    (internalEvent ctx s).inv fl := by
  unfold internalEvent
  try dsimp only
  repeat' first
    | with_reducible assumption | with_reducible apply logEvent_wf

theorem modPanel_wf (n : ℕ) (f : Panel → Panel) (s : State) (hs : s.inv fl) :
    (modPanel n f s).inv fl := by
  unfold modPanel
  try dsimp only
  repeat' first
    | with_reducible assumption | split
    | (simp only [wf_mk]; with_reducible refine wf_parts ?_)

theorem modGang_wf (g : ℕ) (f : Gang → Gang) (s : State) (hs : s.inv fl) :
    (modGang g f s).inv fl := by
  unfold modGang
  try dsimp only
  repeat' first
    | with_reducible assumption | split
    | (simp only [wf_mk]; with_reducible refine wf_parts ?_)

theorem takeLease_wf (kind : ℕ) (owner : ℕ) (res : ℕ) (limit : ℕ) (s : State) (hs : s.inv fl) :
    (takeLease kind owner res limit s).inv fl := by
  unfold takeLease
  try dsimp only
  repeat' first
    | with_reducible assumption | split
    | (simp only [wf_mk]; with_reducible refine wf_parts ?_)

theorem dropLease_wf (kind : ℕ) (res : ℕ) (s : State) (hs : s.inv fl) :
    (dropLease kind res s).inv fl := by
  unfold dropLease
  try dsimp only
  repeat' first
    | with_reducible assumption | split
    | (simp only [wf_mk]; with_reducible refine wf_parts ?_)

end Sys2Proof.Machine
end

