-- ==== Sys2Proof/Laws/WfCommands.lean ====
section
/-! SUPPORT. Every operation and command of Machine/Commands.lean keeps the canonical form of the tables: one lemma per function. -/

namespace Sys2Proof.Machine

variable {fl : Floors}

theorem hostWait_wf (p : Pkt) (s : State) (hs : s.inv fl) :
    (hostWait p s).inv fl := by
  unfold hostWait
  try dsimp only
  repeat' first
    | with_reducible assumption | split
    | (simp only [wf_mk]; with_reducible refine wf_parts ?_)

theorem refuse_wf (p : Pkt) (f : Fail) (s : State) (hs : s.inv fl) :
    (refuse p f s).inv fl := by
  unfold refuse
  try dsimp only
  repeat' first
    | with_reducible assumption | with_reducible apply wordEvent_wf | with_reducible apply reject_wf
    | split

theorem runCmd_wf {p : Pkt} {s : State} {chk : Option Fail} {act : State → State} (hs : s.inv fl) (ha : (act s).inv fl) :
    Res.wf fl (runCmd p s chk act) := by
  unfold runCmd
  repeat' first
    | with_reducible assumption | with_reducible apply res_next | with_reducible apply reject_wf | with_reducible apply refuse_wf | split

theorem actHost_wf {p : Pkt} {act : State → State} {s : State} (hs : s.inv fl) (ha : (act s).inv fl) : (actHost p act s).inv fl := by
  unfold actHost
  dsimp only
  split
  · exact hostWait_wf _ _ hs
  · exact ha

theorem actServed_wf {act : State → State} {s t : State} (ha : (act s).inv fl) (ht : t.inv fl) : (actServed act s t).inv fl := by
  unfold actServed
  dsimp only
  split
  · exact ht
  · exact ha

theorem runHost_wf {p : Pkt} {s : State} {host : Bool} {chk : Option Fail} {act : State → State} (hs : s.inv fl) (ha : (act s).inv fl) :
    Res.wf fl (runHost p s host chk act) := by
  unfold runHost
  split
  · exact hostWait_wf _ _ hs
  · exact runCmd_wf hs (actHost_wf hs ha)


end Sys2Proof.Machine
end

