-- ==== Sys2Proof/Laws/WfMemOps.lean ====
section
/-! SUPPORT. Every operation and command of Machine/MemOps.lean keeps the canonical form of the tables: one lemma per function. -/

namespace Sys2Proof.Machine

variable {fl : Floors}

theorem allocFrames_wf (h n : ℕ) (s : State) (hs : s.inv fl) : (allocFrames h n s).2.inv fl := by
  induction n generalizing s with
  | zero => exact hs
  | succ n ih =>
    unfold allocFrames
    dsimp only
    split
    · exact hs
    · exact ih _ hs

theorem allocStore_wf (h n : ℕ) (s : State) (hs : s.inv fl) : (allocStore h n s).2.inv fl := by
  induction n generalizing s with
  | zero => exact hs
  | succ n ih =>
    unfold allocStore
    dsimp only
    split
    · exact hs
    · exact ih _ hs

theorem freeFramesOf_wf (fs : List ℕ) (s : State) (hs : s.inv fl) :
    (freeFramesOf fs s).inv fl := by
  unfold freeFramesOf
  try dsimp only
  repeat' first
    | with_reducible assumption | with_reducible apply physZero_wf | (with_reducible refine foldl_wf ?_ ?_; intro _ _ _) | split
    | (simp only [wf_mk]; with_reducible refine wf_parts ?_)

theorem moveWords_wf (a : ℕ) (b : ℕ) (n : ℕ) (s : State) (hs : s.inv fl) :
    (moveWords a b n s).inv fl := by
  unfold moveWords
  exact wf_of (memCopyFrom_wf _ _ _ _ _ (wf_mem (s := s) hs)) (wf_host (s := s) hs) (wf_ctxs (s := s) hs)
    (foldl_tput_wf _ _ _ _ (filter_wf _ _ (wf_words (s := s) hs))) (wf_dev (s := s) hs)

theorem modObj_wf (k : ℕ) (f : MemObj → MemObj) (s : State) (hs : s.inv fl) :
    (modObj k f s).inv fl := by
  unfold modObj
  try dsimp only
  repeat' first
    | with_reducible assumption | split
    | (simp only [wf_mk]; with_reducible refine wf_parts ?_)

theorem pinPlan_wf (h : ℕ) (objs : List PlanObj) (up : Bool) (s : State) (hs : s.inv fl) :
    (pinPlan h objs up s).inv fl := by
  unfold pinPlan
  try dsimp only
  repeat' first
    | with_reducible assumption | with_reducible apply modObj_wf | (with_reducible refine foldl_wf ?_ ?_; intro _ _ _)

theorem pinRange_wf (h : ℕ) (va : ℕ) (n : ℕ) (up : Bool) (s : State) (hs : s.inv fl) :
    (pinRange h va n up s).inv fl := by
  unfold pinRange
  try dsimp only
  repeat' first
    | with_reducible assumption | with_reducible apply modObj_wf | (with_reducible refine foldl_wf ?_ ?_; intro _ _ _)

theorem pinQueued_wf (p : Pkt) (va : ℕ) (n : ℕ) (s : State) (hs : s.inv fl) :
    (pinQueued p va n s).inv fl := by
  unfold pinQueued
  try dsimp only
  repeat' first
    | with_reducible assumption | with_reducible apply pinRange_wf | split
    | (simp only [wf_mk]; with_reducible refine wf_parts ?_)

theorem unpinQueued_wf (go : Pkt → Bool) (s : State) (hs : s.inv fl) :
    (unpinQueued go s).inv fl := by
  unfold unpinQueued
  try dsimp only
  repeat' first
    | with_reducible assumption | with_reducible apply pinRange_wf | (with_reducible refine foldl_wf ?_ ?_; intro _ _ _) | split
    | (simp only [wf_mk]; with_reducible refine wf_parts ?_)

theorem extend_wf (h : ℕ) (kind : ℕ) (body : List Byte) (s : State) (hs : s.inv fl) :
    (extend h kind body s).inv fl := by
  unfold extend
  try dsimp only
  repeat' first
    | with_reducible assumption | with_reducible apply modCtx_wf

theorem extendHash_wf (h : ℕ) (kind : ℕ) (bs : List Byte) (s : State) (hs : s.inv fl) :
    (extendHash h kind bs s).inv fl := by
  unfold extendHash
  try dsimp only
  repeat' first
    | with_reducible assumption | with_reducible apply extend_wf

end Sys2Proof.Machine
end

