-- ==== Sys2Proof/Laws/WfStepOps.lean ====
section
/-! SUPPORT. Every operation and command of Machine/StepOps.lean keeps the canonical form of the tables: one lemma per function. -/

namespace Sys2Proof.Machine

variable {fl : Floors}

theorem allocPage_wf (pool : ℕ) (layer : ℕ) (s : State) (hs : s.inv fl) :
    (allocPage pool layer s).2.inv fl := by
  unfold allocPage
  try dsimp only
  repeat' first
    | with_reducible assumption | split
    | (simp only [wf_mk]; with_reducible refine wf_parts ?_)

theorem copySlot_wf (p : KvPool) (old : KvPage) (new : KvPage) (j : ℕ) (s : State) (hs : s.inv fl) :
    (copySlot p old new j s).inv fl := by
  unfold copySlot
  try dsimp only
  repeat' first
    | with_reducible assumption | with_reducible apply moveWords_wf | (with_reducible refine foldl_wf ?_ ?_; intro _ _ _)

theorem refPage_wf (pg : ℕ) (s : State) (hs : s.inv fl) :
    (refPage pg s).inv fl := by
  unfold refPage
  try dsimp only
  repeat' first
    | with_reducible assumption | split
    | (simp only [wf_mk]; with_reducible refine wf_parts ?_)

theorem unrefPage_wf (pg : ℕ) (s : State) (hs : s.inv fl) :
    (unrefPage pg s).inv fl := by
  unfold unrefPage
  try dsimp only
  repeat' first
    | with_reducible assumption | split
    | (simp only [wf_mk]; with_reducible refine wf_parts ?_)

theorem modSeq_wf (k : ℕ) (f : KvSeq → KvSeq) (s : State) (hs : s.inv fl) :
    (modSeq k f s).inv fl := by
  unfold modSeq
  try dsimp only
  repeat' first
    | with_reducible assumption | split
    | (simp only [wf_mk]; with_reducible refine wf_parts ?_)

theorem prepEntry_wf (k : ℕ) (layer : ℕ) (i : ℕ) (s : State) (hs : s.inv fl) :
    (prepEntry k layer i s).2.inv fl := by
  unfold prepEntry
  try dsimp only
  repeat' first
    | with_reducible assumption | with_reducible apply modSeq_wf | with_reducible apply unrefPage_wf | with_reducible apply copySlot_wf
    | with_reducible apply allocPage_wf | (with_reducible refine foldl_wf ?_ ?_; intro _ _ _) | split

theorem prepSeq_wf (k : ℕ) (n : ℕ) (s : State) (hs : s.inv fl) :
    (prepSeq k n s).2.inv fl := by
  unfold prepSeq
  dsimp only
  repeat' first
    | with_reducible assumption | with_reducible apply res_next | with_reducible exact res_fault | with_reducible apply prepEntry_wf
    | (with_reducible refine foldl2_wf ?_ ?_; intro _ _ _ _)

theorem markFull_wf (k : ℕ) (s : State) (hs : s.inv fl) :
    (markFull k s).inv fl := by
  unfold markFull
  try dsimp only
  repeat' first
    | with_reducible assumption | (with_reducible refine foldl_wf ?_ ?_; intro _ _ _) | split
    | (simp only [wf_mk]; with_reducible refine wf_parts ?_)

theorem dropBeyond_wf (k : ℕ) (n : ℕ) (s : State) (hs : s.inv fl) :
    (dropBeyond k n s).2.inv fl := by
  unfold dropBeyond
  try dsimp only
  repeat' first
    | with_reducible assumption | with_reducible apply modSeq_wf | with_reducible apply unrefPage_wf
    | (with_reducible refine foldl_wf ?_ ?_; intro _ _ _)

theorem modStrm_wf (k : ℕ) (f : Stream → Stream) (s : State) (hs : s.inv fl) :
    (modStrm k f s).inv fl := by
  unfold modStrm
  try dsimp only
  repeat' first
    | with_reducible assumption | split
    | (simp only [wf_mk]; with_reducible refine wf_parts ?_)

theorem strmPut_wf (x : Stream) (bs : List Byte) (s : State) (hs : s.inv fl) :
    (strmPut x bs s).inv fl := by
  unfold strmPut
  try dsimp only
  repeat' first
    | with_reducible assumption | with_reducible apply physWrite_wf | (with_reducible refine foldl_wf ?_ ?_; intro _ _ _)

theorem takeUnit_wf (k : ℕ) (u : ℕ) (s : State) (hs : s.inv fl) :
    (takeUnit k u s).inv fl := by
  unfold takeUnit
  try dsimp only
  repeat' first
    | with_reducible assumption | with_reducible apply takeLease_wf | split
    | (simp only [wf_mk]; with_reducible refine wf_parts ?_)

theorem trimSet_wf (k : ℕ) (s : State) (hs : s.inv fl) :
    (trimSet k s).inv fl := by
  unfold trimSet
  try dsimp only
  repeat' first
    | with_reducible assumption | with_reducible apply dropLease_wf | with_reducible apply physZero_wf
    | (with_reducible refine foldl_wf ?_ ?_; intro _ _ _) | split | (simp only [wf_mk]; with_reducible refine wf_parts ?_)

theorem seatStrm_wf (k : ℕ) (s : State) (hs : s.inv fl) :
    (seatStrm k s).inv fl := by
  unfold seatStrm
  try dsimp only
  repeat' first
    | with_reducible assumption | with_reducible apply takeUnit_wf | with_reducible apply modStrm_wf
    | (with_reducible refine foldl_wf ?_ ?_; intro _ _ _)

theorem moveStrm_wf (old : List ℕ) (k : ℕ) (s : State) (hs : s.inv fl) :
    (moveStrm old k s).inv fl := by
  unfold moveStrm
  try dsimp only
  repeat' first
    | with_reducible assumption | with_reducible apply moveWords_wf | (with_reducible refine foldl_wf ?_ ?_; intro _ _ _)

theorem resumeStrm_wf (k : ℕ) (s : State) (hs : s.inv fl) :
    (resumeStrm k s).inv fl := by
  unfold resumeStrm
  try dsimp only
  repeat' first
    | with_reducible assumption | with_reducible apply moveStrm_wf | with_reducible apply seatStrm_wf | with_reducible apply modStrm_wf
    | with_reducible apply freeFramesOf_wf | split

theorem parkStrm_wf (k : ℕ) (s : State) (hs : s.inv fl) :
    (parkStrm k s).inv fl := by
  unfold parkStrm
  exact modStrm_wf _ _ _ (allocFrames_wf _ _ _ hs)

theorem pauseStrm_wf (k : ℕ) (s : State) (hs : s.inv fl) :
    (pauseStrm k s).inv fl := by
  unfold pauseStrm
  try dsimp only
  repeat' first
    | with_reducible assumption | with_reducible apply parkStrm_wf | with_reducible apply moveStrm_wf | with_reducible apply trimSet_wf

theorem endStrm_wf (k : ℕ) (s : State) (hs : s.inv fl) :
    (endStrm k s).inv fl := by
  unfold endStrm
  try dsimp only
  repeat' first
    | with_reducible assumption | with_reducible apply trimSet_wf | with_reducible apply freeFramesOf_wf
    | split | (simp only [wf_mk]; with_reducible refine wf_parts ?_)

theorem attnStart_wf (k : ℕ) (r : Run) (base : ℕ) (rec_ : List Byte) (st : StepInfo) (s : State) (hs : s.inv fl) :
    (attnStart k r base rec_ st s).2.inv fl := by
  unfold attnStart
  dsimp only
  repeat' first
    | with_reducible assumption | with_reducible apply res_next | with_reducible exact res_fault | with_reducible apply modSeq_wf
    | with_reducible apply prepSeq_wf | with_reducible apply vwrite_wf | (with_reducible refine foldl2_wf ?_ ?_; intro _ _ _ _)
    | (with_reducible refine foldl_wf ?_ ?_; intro _ _ _) | split | (simp only [wf_mk]; with_reducible refine wf_parts ?_)

theorem cellStart_wf (k : ℕ) (r : Run) (base : ℕ) (rec_ : List Byte) (st : StepInfo) (s : State) (hs : s.inv fl) :
    (cellStart k r base rec_ st s).2.inv fl := by
  unfold cellStart
  try dsimp only
  repeat' first
    | with_reducible assumption | with_reducible apply resumeStrm_wf | with_reducible apply modStrm_wf
    | (with_reducible refine foldl_wf ?_ ?_; intro _ _ _)

theorem stepStart_wf (k : ℕ) (s : State) (hs : s.inv fl) :
    (stepStart k s).2.inv fl := by
  unfold stepStart
  try dsimp only
  repeat' first
    | with_reducible assumption | with_reducible apply cellStart_wf | with_reducible apply attnStart_wf
    | split | (simp only [wf_mk]; with_reducible refine wf_parts ?_)

theorem writeSlot_wf (p : KvPool) (i : ℕ) (j : ℕ) (bs : List Byte) (s : State) (hs : s.inv fl) :
    (writeSlot p i j bs s).inv fl := by
  unfold writeSlot
  try dsimp only
  repeat' first
    | with_reducible assumption | with_reducible apply physWrite_wf | (with_reducible refine foldl_wf ?_ ?_; intro _ _ _)

theorem attnRows_wf (r : Run) (p : Plan) (st : StepInfo) (stage : List Byte) (s : State) (hs : s.inv fl) :
    (attnRows r p st stage s).inv fl := by
  unfold attnRows
  try dsimp only
  repeat' first
    | with_reducible assumption | with_reducible apply writeSlot_wf | (with_reducible refine foldl_wf ?_ ?_; intro _ _ _) | split

theorem kvFound_wf (q : KvSeq) (layer : ℕ) (from_ : ℕ) (n : ℕ) (s : State) (hs : s.inv fl) :
    (kvFound q layer from_ n s).inv fl := by
  unfold kvFound
  try dsimp only
  repeat' first
    | with_reducible assumption | with_reducible apply readPhys_wf

theorem moveRow_wf (k : ℕ) (a : ℕ) (b : ℕ) (s : State) (hs : s.inv fl) :
    (moveRow k a b s).inv fl := by
  unfold moveRow
  try dsimp only
  repeat' first
    | with_reducible assumption | with_reducible apply moveWords_wf | (with_reducible refine foldl_wf ?_ ?_; intro _ _ _)

theorem commitSeq_wf (mode : ℕ) (n : ℕ) (Q : ℕ) (i : ℕ) (e : List Byte) (k : ℕ) (ctx : ℕ) (base : ℕ) (preds : ℕ) (toks : ℕ) (s : State) (hs : s.inv fl) :
    (commitSeq mode n Q i e k ctx base preds toks s).2.inv fl := by
  unfold commitSeq
  try dsimp only
  repeat' first
    | with_reducible assumption | with_reducible apply moveRow_wf | with_reducible apply dropBeyond_wf | with_reducible apply markFull_wf
    | with_reducible apply modSeq_wf | (with_reducible refine foldl_wf ?_ ?_; intro _ _ _) | split

theorem attnEnd_wf (k : ℕ) (r : Run) (st : StepInfo) (code : Code) (failed : Bool) (notes : ℕ) (s : State) (hs : s.inv fl) :
    (attnEnd k r st code failed notes s).inv fl := by
  unfold attnEnd
  dsimp only
  repeat' first
    | with_reducible assumption | with_reducible apply res_next | with_reducible exact res_fault | with_reducible apply modSeq_wf
    | with_reducible apply dropBeyond_wf | with_reducible apply commitSeq_wf | with_reducible apply vwrite_wf
    | (with_reducible refine foldl2_wf ?_ ?_; intro _ _ _ _) | (with_reducible refine foldl_wf ?_ ?_; intro _ _ _) | split
    | (simp only [wf_mk]; with_reducible refine wf_parts ?_)

theorem cellEnd_wf (k : ℕ) (r : Run) (st : StepInfo) (code : Code) (failed : Bool) (notes : ℕ) (s : State) (hs : s.inv fl) :
    (cellEnd k r st code failed notes s).inv fl := by
  unfold cellEnd
  dsimp only
  repeat' first
    | with_reducible assumption | with_reducible apply res_next | with_reducible exact res_fault | with_reducible apply vwrite_wf
    | with_reducible apply pauseStrm_wf | with_reducible apply modStrm_wf | with_reducible apply strmPut_wf
    | (with_reducible refine foldl2_wf ?_ ?_; intro _ _ _ _) | split

theorem rejectedResult_wf (r : Run) (p : Plan) (code : Code) (s : State) (hs : s.inv fl) :
    (rejectedResult r p code s).inv fl := by
  unfold rejectedResult
  try dsimp only
  repeat' first
    | with_reducible assumption | with_reducible apply vwrite_wf | split

end Sys2Proof.Machine
end

