-- ==== Sys2Proof/Laws/WfParcels.lean ====
section
/-! SUPPORT. Every operation and command of Machine/Parcels.lean keeps the canonical form of the tables: one lemma per function. -/

namespace Sys2Proof.Machine

variable {fl : Floors}

theorem makeParcel_wf (p : Pkt) (type : ℕ) (payload : List Byte) (s : State) (hs : s.inv fl) :
    (makeParcel p type payload s).2.inv fl := by
  unfold makeParcel
  exact ⟨hs.1, hs.2.1, hs.2.2.1, hs.2.2.2.1, hs.2.2.2.2.1, hs.2.2.2.2.2.1, Nat.le_succ_of_le hs.2.2.2.2.2.2⟩

theorem noteImport_wf (h : ℕ) (kind : ℕ) (b : List Byte) (s : State) (hs : s.inv fl) :
    (noteImport h kind b s).inv fl := by
  unfold noteImport
  try dsimp only
  repeat' first
    | with_reducible assumption | with_reducible apply extendHash_wf | split
    | (simp only [wf_mk]; with_reducible refine wf_parts ?_)

end Sys2Proof.Machine
end

