-- ==== Sys2Proof/Laws/WfKvEdits.lean ====
section
/-! SUPPORT. Every operation and command of Machine/KvEdits.lean keeps the canonical form of the tables: one lemma per function. -/

namespace Sys2Proof.Machine

variable {fl : Floors}

theorem newSeq_wf (q : KvSeq) (s : State) (hs : s.inv fl) :
    (newSeq q s).2.inv fl := by
  unfold newSeq
  try dsimp only
  repeat' first
    | with_reducible assumption | split
    | (simp only [wf_mk]; with_reducible refine wf_parts ?_)

theorem actKvFork_wf (p : Pkt) (s : State) (hs : s.inv fl) :
    (actKvFork p s).inv fl := by
  unfold actKvFork
  try dsimp only
  repeat' first
    | with_reducible assumption | with_reducible apply newSeq_wf | with_reducible apply refPage_wf | with_reducible apply completeOk_wf
    | (with_reducible refine foldl_wf ?_ ?_; intro _ _ _)

theorem actKvTruncate_wf (p : Pkt) (s : State) (hs : s.inv fl) :
    (actKvTruncate p s).inv fl := by
  unfold actKvTruncate
  try dsimp only
  repeat' first
    | with_reducible assumption | with_reducible apply dropBeyond_wf | with_reducible apply modSeq_wf | with_reducible apply completeOk_wf

theorem actKvFree_wf (p : Pkt) (s : State) (hs : s.inv fl) :
    (actKvFree p s).inv fl := by
  unfold actKvFree
  try dsimp only
  repeat' first
    | with_reducible assumption | with_reducible apply dropBeyond_wf | with_reducible apply completeOk_wf
    | split | (simp only [wf_mk]; with_reducible refine wf_parts ?_)

theorem actKvRead_wf (p : Pkt) (s : State) (hs : s.inv fl) :
    (actKvRead p s).inv fl := by
  unfold actKvRead
  try dsimp only
  repeat' first
    | with_reducible assumption | with_reducible apply kvFound_wf | with_reducible apply completeOk_wf | with_reducible apply vwrite_wf

theorem kvApply_wf (p : Pkt) (s : State) (hs : s.inv fl) :
    (kvApply p s).inv fl := by
  unfold kvApply
  try dsimp only
  repeat' first
    | with_reducible assumption | with_reducible apply actKvRead_wf | with_reducible apply actKvFree_wf
    | with_reducible apply actKvTruncate_wf | with_reducible apply actKvFork_wf | with_reducible apply refuse_wf
    | split

theorem serveKv_wf (s : State) (hs : s.inv fl) :
    (serveKv s).inv fl := by
  unfold serveKv
  try dsimp only
  repeat' first
    | with_reducible assumption | with_reducible apply kvApply_wf | with_reducible apply unpinQueued_wf
    | with_reducible apply actServed_wf | (with_reducible refine foldl_wf ?_ ?_; intro _ _ _) | split
    | (simp only [wf_mk]; with_reducible refine wf_parts ?_)

theorem pinKv_wf (p : Pkt) (s : State) (hs : s.inv fl) :
    (pinKv p s).inv fl := by
  unfold pinKv
  try dsimp only
  repeat' first
    | with_reducible assumption | with_reducible apply pinQueued_wf | split

theorem kvOrQueue_wf (p : Pkt) (s : State) (host : Bool) (static : List (List (Bool × Code × ℕ))) (chk : Option Fail) (act : State → State) (hs : s.inv fl) (ha : (act s).inv fl) :
    Res.wf fl (kvOrQueue p s host static chk act) := by
  unfold kvOrQueue
  repeat' first
    | with_reducible assumption | with_reducible apply runHost_wf | with_reducible apply handOn_wf | with_reducible apply pinKv_wf | split
    | (simp only [wf_mk]; with_reducible refine wf_parts ?_)


end Sys2Proof.Machine
end

