-- ==== Sys2Proof/Laws/WfStrmEdits.lean ====
section
/-! SUPPORT. Every operation and command of Machine/StrmEdits.lean keeps the canonical form of the tables: one lemma per function. -/

namespace Sys2Proof.Machine

variable {fl : Floors}

theorem actStrmPause_wf (p : Pkt) (s : State) (hs : s.inv fl) :
    (actStrmPause p s).inv fl := by
  unfold actStrmPause
  try dsimp only
  repeat' first
    | with_reducible assumption | with_reducible apply pauseStrm_wf | with_reducible apply completeOk_wf

theorem actStrmEnd_wf (p : Pkt) (s : State) (hs : s.inv fl) :
    (actStrmEnd p s).inv fl := by
  unfold actStrmEnd
  try dsimp only
  repeat' first
    | with_reducible assumption | with_reducible apply endStrm_wf | with_reducible apply completeOk_wf

theorem actStrmRead_wf (p : Pkt) (s : State) (hs : s.inv fl) :
    (actStrmRead p s).inv fl := by
  unfold actStrmRead
  try dsimp only
  repeat' first
    | with_reducible assumption | with_reducible apply readPhys_wf | with_reducible apply completeOk_wf | with_reducible apply vwrite_wf

theorem actStrmExport_wf (p : Pkt) (s : State) (hs : s.inv fl) :
    (actStrmExport p s).inv fl := by
  unfold actStrmExport
  try dsimp only
  repeat' first
    | with_reducible assumption | with_reducible apply makeParcel_wf | with_reducible apply endStrm_wf | with_reducible apply readPhys_wf
    | with_reducible apply completeOk_wf | with_reducible apply vwrite_wf | split

theorem strmApply_wf (p : Pkt) (s : State) (hs : s.inv fl) :
    (strmApply p s).inv fl := by
  unfold strmApply
  try dsimp only
  repeat' first
    | with_reducible assumption | with_reducible apply actStrmExport_wf | with_reducible apply actStrmRead_wf
    | with_reducible apply actStrmEnd_wf | with_reducible apply actStrmPause_wf | with_reducible apply refuse_wf
    | split

theorem serveStrm_wf (s : State) (hs : s.inv fl) :
    (serveStrm s).inv fl := by
  unfold serveStrm
  try dsimp only
  repeat' first
    | with_reducible assumption | with_reducible apply strmApply_wf | with_reducible apply unpinQueued_wf
    | with_reducible apply actServed_wf | (with_reducible refine foldl_wf ?_ ?_; intro _ _ _) | split
    | (simp only [wf_mk]; with_reducible refine wf_parts ?_)

theorem pinStrm_wf (p : Pkt) (s : State) (hs : s.inv fl) :
    (pinStrm p s).inv fl := by
  unfold pinStrm
  try dsimp only
  repeat' first
    | with_reducible assumption | with_reducible apply pinQueued_wf | split

theorem strmOrQueue_wf (p : Pkt) (s : State) (host : Bool) (chk : Option Fail) (act : State → State) (hs : s.inv fl) (ha : (act s).inv fl) :
    Res.wf fl (strmOrQueue p s host chk act) := by
  unfold strmOrQueue
  repeat' first
    | with_reducible assumption | with_reducible apply runHost_wf | with_reducible apply handOn_wf | with_reducible apply pinStrm_wf
    | split | (simp only [wf_mk]; with_reducible refine wf_parts ?_)


end Sys2Proof.Machine
end

