-- ==== Sys2Proof/Laws/WfLayout.lean ====
section
/-! SUPPORT. Every operation and command of Machine/Layout.lean keeps the canonical form of the tables: one lemma per function. -/

namespace Sys2Proof.Machine

variable {fl : Floors}

theorem freeBytes_wf (n : ℕ) (s : State) (hs : s.inv fl) :
    (freeBytes n s).2.inv fl := by
  unfold freeBytes
  try dsimp only
  repeat' first
    | with_reducible assumption | split
    | (simp only [wf_mk]; with_reducible refine wf_parts ?_)

theorem undefine_wf (h : ℕ) (va : ℕ) (n : ℕ) (s : State) (hs : s.inv fl) :
    (undefine h va n s).inv fl := by
  unfold undefine
  try dsimp only
  repeat' first
    | with_reducible assumption | with_reducible apply freeBytes_wf | with_reducible apply vwrite_wf

theorem undefineLeg_wf (r : Run) (p : Plan) (leg : List Byte) (s : State) (hs : s.inv fl) :
    (undefineLeg r p leg s).inv fl := by
  unfold undefineLeg
  try dsimp only
  repeat' first
    | with_reducible assumption | with_reducible apply undefine_wf | (with_reducible refine foldl_wf ?_ ?_; intro _ _ _)

end Sys2Proof.Machine
end

