-- ==== Sys2Proof/Laws/WfSched.lean ====
section
/-! SUPPORT. Every operation and command of Machine/Sched.lean keeps the canonical form of the tables: one lemma per function. -/

namespace Sys2Proof.Machine

variable {fl : Floors}

theorem modRun_wf (k : ℕ) (f : Run → Run) (s : State) (hs : s.inv fl) :
    (modRun k f s).inv fl := by
  unfold modRun
  try dsimp only
  repeat' first
    | with_reducible assumption | split
    | (simp only [wf_mk]; with_reducible refine wf_parts ?_)

theorem noteRun_wf (k : ℕ) (bits : ℕ) (s : State) (hs : s.inv fl) :
    (noteRun k bits s).inv fl := by
  unfold noteRun
  try dsimp only
  repeat' first
    | with_reducible assumption | with_reducible apply modRun_wf

theorem pickLeg_wf (s : State) (g : ℕ) (hs : s.inv fl) :
    (pickLeg s g).2.inv fl := by
  unfold pickLeg
  try dsimp only
  repeat' first
    | with_reducible assumption | split
    | (simp only [wf_mk]; with_reducible refine wf_parts ?_)

theorem modCam_wf (n : ℕ) (f : Cam → Cam) (s : State) (hs : s.inv fl) :
    (modCam n f s).inv fl := by
  unfold modCam
  try dsimp only
  repeat' first
    | with_reducible assumption | split
    | (simp only [wf_mk]; with_reducible refine wf_parts ?_)

theorem releaseSlots_wf (w : List (ℕ × ℕ)) (s : State) (hs : s.inv fl) :
    (releaseSlots w s).inv fl := by
  unfold releaseSlots
  try dsimp only
  repeat' first
    | with_reducible assumption | with_reducible apply modCam_wf | (with_reducible refine foldl_wf ?_ ?_; intro _ _ _)

theorem boundStatus_wf (b : EvBind) (r : Run) (code : Code) (w0 : ℕ) (w1 : ℕ) (s : State) (hs : s.inv fl) :
    (boundStatus b r code w0 w1 s).inv fl := by
  unfold boundStatus
  try dsimp only
  repeat' first
    | with_reducible assumption | with_reducible apply statusWrite_wf

theorem endStep_wf (k : ℕ) (code : Code) (s : State) (hs : s.inv fl) :
    (endStep k code s).inv fl := by
  unfold endStep
  try dsimp only
  repeat' first
    | with_reducible assumption | with_reducible apply modRun_wf | with_reducible apply serveStrm_wf | with_reducible apply serveKv_wf
    | with_reducible apply cellEnd_wf | with_reducible apply attnEnd_wf | split

theorem kvWake_wf (k : ℕ) (head : ℕ) (ended : Bool) (s : State) (hs : s.inv fl) :
    (kvWake k head ended s).inv fl := by
  unfold kvWake
  try dsimp only
  repeat' first
    | with_reducible assumption | with_reducible apply completeOk_wf | (with_reducible refine foldl_wf ?_ ?_; intro _ _ _) | split
    | (simp only [wf_mk]; with_reducible refine wf_parts ?_)

theorem scrubGang_wf (g : ℕ) (s : State) (hs : s.inv fl) :
    (scrubGang g s).inv fl := by
  unfold scrubGang
  try dsimp only
  repeat' first
    | with_reducible assumption | with_reducible apply modPanel_wf | (with_reducible refine foldl_wf ?_ ?_; intro _ _ _)

theorem dropLocks_wf (g : ℕ) (s : State) (hs : s.inv fl) :
    (dropLocks g s).inv fl := by
  unfold dropLocks
  try dsimp only
  repeat' first
    | with_reducible assumption | with_reducible apply dropLease_wf | with_reducible apply modGang_wf
    | (with_reducible refine foldl_wf ?_ ?_; intro _ _ _) | split

theorem unguard_wf (g : ℕ) (s : State) (hs : s.inv fl) :
    (unguard g s).inv fl := by
  unfold unguard
  try dsimp only
  repeat' first
    | with_reducible assumption | split
    | (simp only [wf_mk]; with_reducible refine wf_parts ?_)

theorem takeLocks_wf (g : ℕ) (s : State) (hs : s.inv fl) :
    (takeLocks g s).inv fl := by
  unfold takeLocks
  try dsimp only
  repeat' first
    | with_reducible assumption | with_reducible apply takeLease_wf | with_reducible apply modGang_wf
    | (with_reducible refine foldl_wf ?_ ?_; intro _ _ _) | split

theorem settlePower_wf (g : ℕ) (s : State) (hs : s.inv fl) :
    (settlePower g s).inv fl := by
  unfold settlePower
  try dsimp only
  repeat' first
    | with_reducible assumption | with_reducible apply modPanel_wf | (with_reducible refine foldl_wf ?_ ?_; intro _ _ _) | split

theorem countMiss_wf (g : ℕ) (c : Cur) (ns : ℕ) (s : State) (hs : s.inv fl) :
    (countMiss g c ns s).inv fl := by
  unfold countMiss
  try dsimp only
  repeat' first
    | with_reducible assumption | with_reducible apply modRun_wf | with_reducible apply modGang_wf
    | split

theorem endStall_wf (g : ℕ) (c : Cur) (s : State) (hs : s.inv fl) :
    (endStall g c s).inv fl := by
  unfold endStall
  try dsimp only
  repeat' first
    | with_reducible assumption | with_reducible apply countMiss_wf | split

theorem leaveGang_wf (k : ℕ) (r : Run) (s : State) (hs : s.inv fl) :
    (leaveGang k r s).inv fl := by
  unfold leaveGang
  try dsimp only
  repeat' first
    | with_reducible assumption | with_reducible apply endStall_wf | with_reducible apply unguard_wf | with_reducible apply dropLocks_wf
    | with_reducible apply scrubGang_wf | with_reducible apply undefineLeg_wf | with_reducible apply modGang_wf
    | split

theorem endRun_wf (k : ℕ) (code : Code) (stopped : Bool) (s : State) (hs : s.inv fl) :
    (endRun k code stopped s).inv fl := by
  unfold endRun
  try dsimp only
  repeat' first
    | with_reducible assumption | with_reducible apply leaveGang_wf | with_reducible apply settlePower_wf | with_reducible apply kvWake_wf
    | with_reducible apply endStep_wf | with_reducible apply boundStatus_wf | with_reducible apply releaseSlots_wf
    | with_reducible apply pinRange_wf | with_reducible apply internalEvent_wf | with_reducible apply complete_wf
    | with_reducible apply completeOk_wf | (with_reducible refine foldl_wf ?_ ?_; intro _ _ _) | split
    | (simp only [wf_mk]; with_reducible refine wf_parts ?_)

theorem takeStops_wf (k : ℕ) (s : State) (hs : s.inv fl) :
    (takeStops k s).inv fl := by
  unfold takeStops
  try dsimp only
  repeat' first
    | with_reducible assumption | with_reducible apply endRun_wf | split

theorem modTier_wf (k : ℕ) (f : Tier → Tier) (s : State) (hs : s.inv fl) :
    (modTier k f s).inv fl := by
  unfold modTier
  try dsimp only
  repeat' first
    | with_reducible assumption | split
    | (simp only [wf_mk]; with_reducible refine wf_parts ?_)

theorem enterTier_wf (k : ℕ) (st : TierState) (f : Tier → Tier) (s : State) (hs : s.inv fl) :
    (enterTier k st f s).inv fl := by
  unfold enterTier
  try dsimp only
  repeat' first
    | with_reducible assumption | with_reducible apply modTier_wf

theorem releaseItem_wf (k : ℕ) (go : RunState) (target : ℕ) (s : State) (hs : s.inv fl) :
    (releaseItem k go target s).inv fl := by
  unfold releaseItem
  try dsimp only
  repeat' first
    | with_reducible assumption | with_reducible apply enterTier_wf | with_reducible apply settlePower_wf | with_reducible apply kvWake_wf
    | with_reducible apply modRun_wf | split

theorem zeroExch_wf (r : Run) (p : Plan) (leg : List Byte) (s : State) (hs : s.inv fl) :
    (zeroExch r p leg s).inv fl := by
  unfold zeroExch
  try dsimp only
  repeat' first
    | with_reducible assumption | with_reducible apply vwrite_wf | (with_reducible refine foldl_wf ?_ ?_; intro _ _ _) | split

theorem guardLeg_wf (g : ℕ) (r : Run) (p : Plan) (leg : List Byte) (first : Bool) (s : State) (hs : s.inv fl) :
    (guardLeg g r p leg first s).inv fl := by
  unfold guardLeg
  try dsimp only
  repeat' first
    | with_reducible assumption | split
    | (simp only [wf_mk]; with_reducible refine wf_parts ?_)

theorem ownWrite_wf (g : ℕ) (f : State → State) (s : State) (hf : ∀ t, t.inv fl → (f t).inv fl) (hs : s.inv fl) : (ownWrite g f s).inv fl := by
  unfold ownWrite
  split
  · exact hf _ hs
  · simp only [wf_mk]
    exact wf_parts (hf _ hs)

theorem legBegins_wf (g : ℕ) (s : State) (hs : s.inv fl) :
    (legBegins g s).inv fl := by
  unfold legBegins
  try dsimp only
  repeat' first
    | with_reducible assumption | with_reducible apply guardLeg_wf | split
    | (simp only [wf_mk]; with_reducible refine wf_parts ?_)

theorem startLeg_wf (g : ℕ) (s : State) (hs : s.inv fl) :
    (startLeg g s).inv fl := by
  unfold startLeg
  try dsimp only
  repeat' first
    | with_reducible assumption | with_reducible apply legBegins_wf | with_reducible apply takeLocks_wf
    | with_reducible apply dropLocks_wf | with_reducible apply modGang_wf

theorem commitLeg_wf (g : ℕ) (k : ℕ) (p : ℕ) (afterLeg : Bool) (resumes : Bool) (s : State) (hs : s.inv fl) :
    (commitLeg g k p afterLeg resumes s).inv fl := by
  unfold commitLeg
  try dsimp only
  repeat' first
    | with_reducible assumption | with_reducible apply startLeg_wf | with_reducible apply zeroExch_wf | with_reducible apply modRun_wf
    | with_reducible apply modPanel_wf | (with_reducible refine foldl_wf ?_ ?_; intro _ _ _) | split
    | (simp only [wf_mk]; with_reducible refine wf_parts ?_)

theorem boundaryF_wf (n g : ℕ) (b : Bool) (s : State) (hs : s.inv fl) : (boundaryF n g b s).inv fl := by
  induction n generalizing s with
  | zero => exact hs
  | succ n ih =>
    unfold boundaryF
    dsimp only
    repeat' first
      | with_reducible assumption | with_reducible apply ih | with_reducible apply releaseItem_wf | with_reducible apply endRun_wf
      | with_reducible apply rejectedResult_wf | with_reducible apply commitLeg_wf | with_reducible apply modRun_wf
      | (exact snd_wf_of ‹pickLeg _ _ = _› (pickLeg_wf _ _ hs)) | (exact snd_wf_of ‹stepStart _ s = _› (stepStart_wf _ _ hs)) | split
      | (simp only [wf_mk]; with_reducible refine wf_parts ?_)

theorem countPreempted_wf (h : ℕ) (s : State) (hs : s.inv fl) :
    (countPreempted h s).inv fl := by
  unfold countPreempted
  try dsimp only
  repeat' first
    | with_reducible assumption | with_reducible apply modCtx_wf

theorem yieldStall_wf (g : ℕ) (c : Cur) (s : State) (hs : s.inv fl) :
    (yieldStall g c s).inv fl := by
  unfold yieldStall
  try dsimp only
  repeat' first
    | with_reducible assumption | with_reducible apply countPreempted_wf | with_reducible apply countMiss_wf
    | with_reducible apply modRun_wf | with_reducible apply modGang_wf

theorem modTest_wf (k : ℕ) (f : SelfTest → SelfTest) (s : State) (hs : s.inv fl) :
    (modTest k f s).inv fl := by
  unfold modTest
  try dsimp only
  repeat' first
    | with_reducible assumption | split
    | (simp only [wf_mk]; with_reducible refine wf_parts ?_)

theorem startSlice_wf (g : ℕ) (s : State) (hs : s.inv fl) :
    (startSlice g s).inv fl := by
  unfold startSlice
  try dsimp only
  repeat' first
    | with_reducible assumption | with_reducible apply modTest_wf | (with_reducible refine foldl_wf ?_ ?_; intro _ _ _)

theorem dropSlice_wf (g : ℕ) (s : State) (hs : s.inv fl) :
    (dropSlice g s).inv fl := by
  unfold dropSlice
  try dsimp only
  repeat' first
    | with_reducible assumption | with_reducible apply modTest_wf | with_reducible apply scrubGang_wf
    | (with_reducible refine foldl_wf ?_ ?_; intro _ _ _)

theorem joinSpares_wf (g : ℕ) (s : State) (hs : s.inv fl) :
    (joinSpares g s).inv fl := by
  unfold joinSpares
  try dsimp only
  repeat' first
    | with_reducible assumption | with_reducible apply modGang_wf | with_reducible apply logEvent_wf
    | (with_reducible refine foldl_wf ?_ ?_; intro _ _ _) | split

theorem markBehind_wf (g : ℕ) (after : Bool) (s : State) (hs : s.inv fl) :
    (markBehind g after s).inv fl := by
  unfold markBehind
  try dsimp only
  repeat' first
    | with_reducible assumption | with_reducible apply modGang_wf

theorem boundary_wf (g : ℕ) (afterLeg : Bool) (s : State) (hs : s.inv fl) :
    (boundary g afterLeg s).inv fl := by
  unfold boundary
  try dsimp only
  repeat' first
    | with_reducible assumption | with_reducible apply markBehind_wf | with_reducible apply joinSpares_wf
    | with_reducible apply dropSlice_wf | with_reducible apply startSlice_wf | with_reducible apply yieldStall_wf
    | with_reducible apply boundaryF_wf | split

theorem boundaries_wf (s : State) (hs : s.inv fl) :
    (boundaries s).inv fl := by
  unfold boundaries
  try dsimp only
  repeat' first
    | with_reducible assumption | with_reducible apply boundary_wf | (with_reducible refine foldl_wf ?_ ?_; intro _ _ _)

theorem mapWindow_wf (win : ℕ) (slot : ℕ) (s : State) (hs : s.inv fl) :
    (mapWindow win slot s).inv fl := by
  unfold mapWindow
  try dsimp only
  repeat' first
    | with_reducible assumption | with_reducible apply modCtx_wf | (with_reducible refine foldl_wf ?_ ?_; intro _ _ _) | split
    | (simp only [wf_mk]; with_reducible refine wf_parts ?_)

theorem dropTrigger_wf (b : ℕ) (s : State) (hs : s.inv fl) :
    (dropTrigger b s).inv fl := by
  unfold dropTrigger
  try dsimp only
  repeat' first
    | with_reducible assumption | split
    | (simp only [wf_mk]; with_reducible refine wf_parts ?_)

theorem endBind_wf (b : ℕ) (s : State) (hs : s.inv fl) :
    (endBind b s).inv fl := by
  unfold endBind
  try dsimp only
  repeat' first
    | with_reducible assumption | with_reducible apply modRun_wf | split
    | (simp only [wf_mk]; with_reducible refine wf_parts ?_)

theorem takeSlot_wf (b : ℕ) (x : EvBind) (w : ℕ) (port : ℕ) (n : ℕ) (c : CamSlot) (s : State) (hs : s.inv fl) :
    (takeSlot b x w port n c s).2.inv fl := by
  unfold takeSlot
  try dsimp only
  repeat' first
    | with_reducible assumption | with_reducible apply mapWindow_wf | with_reducible apply modCam_wf | with_reducible apply chanEvent_wf
    | split | (simp only [wf_mk]; with_reducible refine wf_parts ?_)

theorem beginBound_wf (b : ℕ) (s : State) (hs : s.inv fl) :
    (beginBound b s).inv fl := by
  unfold beginBound
  split
  · exact hs
  · dsimp only
    iterate 3
      split
      · exact dropTrigger_wf _ _ hs
    split
    · simp only [wf_mk]
      exact wf_parts hs
    split
    · refine endBind_wf _ _ ?_
      simp only [wf_mk]
      with_reducible refine wf_parts ?_
      refine foldl_inv (P := fun x : Bool × Bool × List (ℕ × ℕ) × State => x.2.2.2.inv fl) ?_ hs
      intro c y hc
      split
      · exact hc
      · dsimp only
        with_reducible apply takeSlot_wf
        exact hc
    · simp only [wf_mk]
      with_reducible refine wf_parts ?_
      refine foldl_inv (P := fun x : Bool × Bool × List (ℕ × ℕ) × State => x.2.2.2.inv fl) ?_ hs
      intro c y hc
      split
      · exact hc
      · dsimp only
        with_reducible apply takeSlot_wf
        exact hc

theorem triggerBind_wf (b : ℕ) (s : State) (hs : s.inv fl) :
    (triggerBind b s).inv fl := by
  unfold triggerBind
  try dsimp only
  repeat' first
    | with_reducible assumption | with_reducible apply beginBound_wf | with_reducible apply dropTrigger_wf
    | split | (simp only [wf_mk]; with_reducible refine wf_parts ?_)

theorem afterBound_wf (s : State) (hs : s.inv fl) :
    (afterBound s).inv fl := by
  unfold afterBound
  try dsimp only
  repeat' first
    | with_reducible assumption | with_reducible apply beginBound_wf | (with_reducible refine foldl_wf ?_ ?_; intro _ _ _) | split
    | (simp only [wf_mk]; with_reducible refine wf_parts ?_)

theorem startBoundRuns_wf (n : ℕ) (s : State) (hs : s.inv fl) :
    (startBoundRuns n s).inv fl := by
  unfold startBoundRuns
  try dsimp only
  repeat' first
    | with_reducible assumption | with_reducible apply triggerBind_wf | with_reducible apply boundaries_wf
    | (with_reducible refine foldl_wf ?_ ?_; intro _ _ _)

theorem wakeRec_wf (src : ℕ) (aux : ℕ) (s : State) (hs : s.inv fl) :
    (wakeRec src aux s).inv fl := by
  unfold wakeRec
  try dsimp only
  repeat' first
    | with_reducible assumption | split
    | (simp only [wf_mk]; with_reducible refine wf_parts ?_)

theorem keepHq_wf (s : State) (hs : s.inv fl) :
    (keepHq s).inv fl := by
  unfold keepHq
  try dsimp only
  repeat' first
    | with_reducible assumption | split
    | (simp only [wf_mk]; with_reducible refine wf_parts ?_)

theorem wakeTo_wf (target : PState) (src : ℕ) (aux : ℕ) (s : State) (hs : s.inv fl) :
    (wakeTo target src aux s).inv fl := by
  unfold wakeTo
  try dsimp only
  repeat' first
    | with_reducible assumption | with_reducible apply keepHq_wf | with_reducible apply wakeRec_wf
    | split | (simp only [wf_mk]; with_reducible refine wf_parts ?_)

theorem ignoreTier_wf (k : ℕ) (s : State) (hs : s.inv fl) :
    (ignoreTier k s).inv fl := by
  unfold ignoreTier
  try dsimp only
  repeat' first
    | with_reducible assumption | with_reducible apply modTier_wf | split
    | (simp only [wf_mk]; with_reducible refine wf_parts ?_)

theorem cascNotify_wf (on : Bool) (s : State) (hs : s.inv fl) :
    (cascNotify on s).inv fl := by
  unfold cascNotify
  try dsimp only
  repeat' first
    | with_reducible assumption | with_reducible apply glbEvent_wf | split
    | (simp only [wf_mk]; with_reducible refine wf_parts ?_)

theorem logLift_wf (l : LiftRec) (s : State) (hs : s.inv fl) :
    (logLift l s).inv fl := by
  unfold logLift
  try dsimp only
  repeat' first
    | with_reducible assumption | with_reducible apply cascNotify_wf | split
    | (simp only [wf_mk]; with_reducible refine wf_parts ?_)

theorem queueLift_wf (k : ℕ) (l : LiftRec) (s : State) (hs : s.inv fl) :
    (queueLift k l s).inv fl := by
  unfold queueLift
  try dsimp only
  repeat' first
    | with_reducible assumption | with_reducible apply modTier_wf | split
    | (simp only [wf_mk]; with_reducible refine wf_parts ?_)

theorem copyPlan_wf (h : ℕ) (plan : ℕ) (s : State) (hs : s.inv fl) :
    (copyPlan h plan s).inv fl := by
  unfold copyPlan
  try dsimp only
  repeat' first
    | with_reducible assumption | split
    | (simp only [wf_mk]; with_reducible refine wf_parts ?_)

theorem armPrefetch_wf (k : ℕ) (g : ℕ) (plan : ℕ) (n : ℕ) (entry : ℕ) (s : State) (hs : s.inv fl) :
    (armPrefetch k g plan n entry s).inv fl := by
  unfold armPrefetch
  try dsimp only
  repeat' first
    | with_reducible assumption | with_reducible apply modGang_wf | split

theorem closeReader_wf (k : ℕ) (s : State) (hs : s.inv fl) :
    (closeReader k s).inv fl := by
  unfold closeReader
  try dsimp only
  repeat' first
    | with_reducible assumption | split
    | (simp only [wf_mk]; with_reducible refine wf_parts ?_)

theorem discardCovered_wf (c : ℕ) (s : State) (hs : s.inv fl) :
    (discardCovered c s).inv fl := by
  unfold discardCovered
  try dsimp only
  repeat' first
    | with_reducible assumption | split
    | (simp only [wf_mk]; with_reducible refine wf_parts ?_)

theorem ballast_wf (k : ℕ) (cause : ℕ) (consumed : ℕ) (s : State) (hs : s.inv fl) :
    (ballast k cause consumed s).inv fl := by
  unfold ballast
  try dsimp only
  repeat' first
    | with_reducible assumption | with_reducible apply discardCovered_wf | with_reducible apply closeReader_wf
    | with_reducible apply cascNotify_wf | with_reducible apply enterTier_wf | with_reducible apply endRun_wf
    | split | (simp only [wf_mk]; with_reducible refine wf_parts ?_)

theorem armTier_wf (k : ℕ) (l : LiftRec) (s : State) (hs : s.inv fl) :
    (armTier k l s).inv fl := by
  unfold armTier
  try dsimp only
  repeat' first
    | with_reducible assumption | with_reducible apply ballast_wf | with_reducible apply armPrefetch_wf
    | with_reducible apply enterTier_wf | with_reducible apply modTier_wf | with_reducible apply pinRange_wf
    | split | (simp only [wf_mk]; with_reducible refine wf_parts ?_)

theorem raiseTier_wf (k : ℕ) (f : Tier → Tier) (s : State) (hs : s.inv fl) :
    (raiseTier k f s).inv fl := by
  unfold raiseTier
  try dsimp only
  repeat' first
    | with_reducible assumption | with_reducible apply enterTier_wf | with_reducible apply settlePower_wf
    | split | (simp only [wf_mk]; with_reducible refine wf_parts ?_)

theorem tierLift_wf (k : ℕ) (l : LiftRec) (s : State) (hs : s.inv fl) :
    (tierLift k l s).inv fl := by
  unfold tierLift
  try dsimp only
  repeat' first
    | with_reducible assumption | with_reducible apply raiseTier_wf | with_reducible apply armTier_wf | with_reducible apply queueLift_wf
    | with_reducible apply enterTier_wf | with_reducible apply modTier_wf | split

theorem renewWindows_wf (source : ℕ) (s : State) (hs : s.inv fl) :
    (renewWindows source s).inv fl := by
  unfold renewWindows
  try dsimp only
  repeat' first
    | with_reducible assumption | split
    | (simp only [wf_mk]; with_reducible refine wf_parts ?_)

theorem raiseLift_wf (rewind : ℤ) (l : LiftRec) (s : State) (hs : s.inv fl) :
    (raiseLift rewind l s).inv fl := by
  unfold raiseLift
  try dsimp only
  repeat' first
    | with_reducible assumption | with_reducible apply renewWindows_wf | with_reducible apply tierLift_wf
    | with_reducible apply logLift_wf | with_reducible apply wakeTo_wf | split
    | (simp only [wf_mk]; with_reducible refine wf_parts ?_)

theorem tierUpdraft_wf (k : ℕ) (source : ℕ) (window : ℕ) (plan : ℕ) (s : State) (hs : s.inv fl) :
    (tierUpdraft k source window plan s).inv fl := by
  unfold tierUpdraft
  try dsimp only
  repeat' first
    | with_reducible assumption | with_reducible apply raiseTier_wf | with_reducible apply ignoreTier_wf | with_reducible apply modTier_wf
    | split

theorem raiseUpdraft_wf (source : ℕ) (reason : ℕ) (s : State) (hs : s.inv fl) :
    (raiseUpdraft source reason s).inv fl := by
  unfold raiseUpdraft
  try dsimp only
  repeat' first
    | with_reducible assumption | with_reducible apply tierUpdraft_wf | with_reducible apply wakeTo_wf
    | (with_reducible refine foldl_wf ?_ ?_; intro _ _ _) | split | (simp only [wf_mk]; with_reducible refine wf_parts ?_)

theorem fallTier_wf (k : ℕ) (s : State) (hs : s.inv fl) :
    (fallTier k s).inv fl := by
  unfold fallTier
  try dsimp only
  repeat' first
    | with_reducible assumption | with_reducible apply enterTier_wf

theorem releaseTier_wf (k : ℕ) (cause : ℕ) (consumed : Option ℕ) (s : State) (hs : s.inv fl) :
    (releaseTier k cause consumed s).inv fl := by
  unfold releaseTier
  try dsimp only
  repeat' first
    | with_reducible assumption | with_reducible apply fallTier_wf | with_reducible apply ballast_wf | with_reducible apply ignoreTier_wf
    | split

theorem settleTiers_wf (s : State) (hs : s.inv fl) :
    (settleTiers s).inv fl := by
  unfold settleTiers
  try dsimp only
  repeat' first
    | with_reducible assumption | with_reducible apply ballast_wf | (with_reducible refine foldl_wf ?_ ?_; intro _ _ _)

theorem finishRun_wf (k : ℕ) (code : Code) (stopped : Bool) (s : State) (hs : s.inv fl) :
    (finishRun k code stopped s).inv fl := by
  unfold finishRun
  try dsimp only
  repeat' first
    | with_reducible assumption | with_reducible apply settleTiers_wf | with_reducible apply afterBound_wf
    | with_reducible apply boundary_wf | with_reducible apply endRun_wf | split

end Sys2Proof.Machine
end

