-- ==== Sys2Proof/Laws/WfTeardown.lean ====
section
/-! SUPPORT. Every operation and command of Machine/Teardown.lean keeps the canonical form of the tables: one lemma per function. -/

namespace Sys2Proof.Machine

variable {fl : Floors}

theorem freePanels_wf (g : ℕ) (s : State) (hs : s.inv fl) :
    (freePanels g s).inv fl := by
  unfold freePanels
  try dsimp only
  repeat' first
    | with_reducible assumption | with_reducible apply modPanel_wf | (with_reducible refine foldl_wf ?_ ?_; intro _ _ _) | split

theorem removeGang_wf (g : ℕ) (s : State) (hs : s.inv fl) :
    (removeGang g s).inv fl := by
  unfold removeGang
  try dsimp only
  repeat' first
    | with_reducible assumption | with_reducible apply freePanels_wf | with_reducible apply dropLease_wf
    | split | (simp only [wf_mk]; with_reducible refine wf_parts ?_)

theorem endRuns_wf (f : ℕ → Run → Bool) (code : Code) (s : State) (hs : s.inv fl) :
    (endRuns f code s).inv fl := by
  unfold endRuns
  try dsimp only
  repeat' first
    | with_reducible assumption | with_reducible apply endRun_wf | (with_reducible refine foldl_wf ?_ ?_; intro _ _ _)

theorem failTiers_wf (f : ℕ → Tier → Bool) (s : State) (hs : s.inv fl) :
    (failTiers f s).inv fl := by
  unfold failTiers
  try dsimp only
  repeat' first
    | with_reducible assumption | with_reducible apply releaseTier_wf | (with_reducible refine foldl_wf ?_ ?_; intro _ _ _)

theorem purgeWaits_wf (h : ℕ) (s0 : State) (hs0 : s0.inv fl) :
    (purgeWaits h s0).inv fl := by
  unfold purgeWaits
  try dsimp only
  repeat' first
    | with_reducible assumption | with_reducible apply unpinQueued_wf | split
    | (simp only [wf_mk]; with_reducible refine wf_parts ?_)

theorem unlist_wf (p : Pkt) (s0 : State) (hs0 : s0.inv fl) :
    (unlist p s0).inv fl := by
  unfold unlist
  try dsimp only
  repeat' first
    | with_reducible assumption | with_reducible apply unpinQueued_wf | split
    | (simp only [wf_mk]; with_reducible refine wf_parts ?_)

theorem endFlights_wf (h : ℕ) (code : Code) (s : State) (hs : s.inv fl) :
    (endFlights h code s).inv fl := by
  unfold endFlights
  try dsimp only
  repeat' first
    | with_reducible assumption | with_reducible apply complete_wf | (with_reducible refine foldl_wf ?_ ?_; intro _ _ _)

theorem dropModels_wf (h : ℕ) (s : State) (hs : s.inv fl) :
    (dropModels h s).inv fl := by
  unfold dropModels
  try dsimp only
  repeat' first
    | with_reducible assumption | split
    | (simp only [wf_mk]; with_reducible refine wf_parts ?_)

theorem dropCams_wf (h : ℕ) (s : State) (hs : s.inv fl) :
    (dropCams h s).inv fl := by
  unfold dropCams
  try dsimp only
  repeat' first
    | with_reducible assumption | split
    | (simp only [wf_mk]; with_reducible refine wf_parts ?_)

theorem dropAudio_wf (h : ℕ) (s : State) (hs : s.inv fl) :
    (dropAudio h s).inv fl := by
  unfold dropAudio
  try dsimp only
  repeat' first
    | with_reducible assumption | split
    | (simp only [wf_mk]; with_reducible refine wf_parts ?_)

theorem gwEmit_wf (k : ℕ) (bs : List Byte) (s : State) (hs : s.inv fl) :
    (gwEmit k bs s).inv fl := by
  unfold gwEmit
  try dsimp only
  repeat' first
    | with_reducible assumption | split
    | (simp only [wf_mk]; with_reducible refine wf_parts ?_)

theorem gwDrop_wf (id : ℕ) (s : State) (hs : s.inv fl) :
    (gwDrop id s).inv fl := by
  unfold gwDrop
  try dsimp only
  repeat' first
    | with_reducible assumption | split
    | (simp only [wf_mk]; with_reducible refine wf_parts ?_)

theorem gwSend_wf (id : ℕ) (type : ℕ) (payload : List Byte) (s : State) (hs : s.inv fl) :
    (gwSend id type payload s).inv fl := by
  unfold gwSend
  try dsimp only
  repeat' first
    | with_reducible assumption | with_reducible apply gwDrop_wf | with_reducible apply gwEmit_wf
    | split | (simp only [wf_mk]; with_reducible refine wf_parts ?_)

theorem closeInbox_wf (n : ℕ) (s : State) (hs : s.inv fl) :
    (closeInbox n s).inv fl := by
  unfold closeInbox
  try dsimp only
  repeat' first
    | with_reducible assumption | with_reducible apply gwSend_wf | (with_reducible refine foldl_wf ?_ ?_; intro _ _ _) | split
    | (simp only [wf_mk]; with_reducible refine wf_parts ?_)

theorem dropNet_wf (h : ℕ) (s : State) (hs : s.inv fl) :
    (dropNet h s).inv fl := by
  unfold dropNet
  try dsimp only
  repeat' first
    | with_reducible assumption | with_reducible apply closeInbox_wf | (with_reducible refine foldl_wf ?_ ?_; intro _ _ _) | split
    | (simp only [wf_mk]; with_reducible refine wf_parts ?_)

theorem releaseAll_wf (h : ℕ) (s : State) (hs : s.inv fl) :
    (releaseAll h s).inv fl := by
  unfold releaseAll
  try dsimp only
  repeat' first
    | with_reducible assumption | with_reducible apply dropNet_wf | with_reducible apply dropAudio_wf | with_reducible apply dropCams_wf
    | with_reducible apply dropModels_wf | with_reducible apply removeGang_wf | with_reducible apply complete_wf
    | with_reducible apply modCtx_wf | (with_reducible refine foldl_wf ?_ ?_; intro _ _ _) | split
    | (simp only [wf_mk]; with_reducible refine wf_parts ?_)

theorem ripcordTo_wf (st : CtxState) (h : ℕ) (cause : ℕ) (s : State) (hs : s.inv fl) :
    (ripcordTo st h cause s).inv fl := by
  unfold ripcordTo
  try dsimp only
  repeat' first
    | with_reducible assumption | with_reducible apply releaseAll_wf | with_reducible apply endFlights_wf
    | with_reducible apply purgeWaits_wf | with_reducible apply failTiers_wf | with_reducible apply endRuns_wf
    | with_reducible apply afterBound_wf | with_reducible apply boundaries_wf | with_reducible apply logEvent_wf
    | with_reducible apply modCtx_wf | split

theorem ripcord_wf (h : ℕ) (cause : ℕ) (s : State) (hs : s.inv fl) :
    (ripcord h cause s).inv fl := by
  unfold ripcord
  try dsimp only
  repeat' first
    | with_reducible assumption | with_reducible apply ripcordTo_wf | with_reducible apply modCtx_wf
    | split

theorem scrubCtx_wf (h : ℕ) (side : ℕ) (s : State) (hs : s.inv fl) :
    (scrubCtx h side s).inv fl := by
  unfold scrubCtx
  try dsimp only
  repeat' first
    | with_reducible assumption | with_reducible apply freeFramesOf_wf | with_reducible apply physZero_wf | with_reducible apply modCtx_wf
    | (with_reducible refine foldl_wf ?_ ?_; intro _ _ _) | split | (simp only [wf_mk]; with_reducible refine wf_parts ?_)

theorem closeIfDone_wf (h : ℕ) (s : State) (hs : s.inv fl) :
    (closeIfDone h s).inv fl := by
  unfold closeIfDone
  dsimp only
  have h1 : ({ s with ctxs := tdel s.ctxs h } : State).inv fl :=
    wf_of (wf_mem (s := s) hs) (wf_host (s := s) hs) (tdel_wf _ _ (wf_ctxs (s := s) hs)) (wf_words (s := s) hs) (wf_dev (s := s) hs)
  split
  · split
    · exact completeOk_wf _ _ _ _ _ h1
    · exact h1
  · exact hs

theorem pinDma_wf (p : Pkt) (up : Bool) (s : State) (hs : s.inv fl) :
    (pinDma p up s).inv fl := by
  unfold pinDma
  try dsimp only
  repeat' first
    | with_reducible assumption | with_reducible apply pinRange_wf | (with_reducible refine foldl_wf ?_ ?_; intro _ _ _) | split

theorem pinIo_wf (p : Pkt) (up : Bool) (s : State) (hs : s.inv fl) :
    (pinIo p up s).inv fl := by
  unfold pinIo
  try dsimp only
  repeat' first
    | with_reducible assumption | with_reducible apply pinRange_wf

theorem dropDma_wf (c : ℕ) (s : State) (hs : s.inv fl) :
    (dropDma c s).inv fl := by
  unfold dropDma
  try dsimp only
  repeat' first
    | with_reducible assumption | with_reducible apply pinDma_wf | split
    | (simp only [wf_mk]; with_reducible refine wf_parts ?_)

theorem undefineDest_wf (d : Dma) (s : State) (hs : s.inv fl) :
    (undefineDest d s).inv fl := by
  unfold undefineDest
  try dsimp only
  repeat' first
    | with_reducible assumption | with_reducible apply undefine_wf | (with_reducible refine foldl_wf ?_ ?_; intro _ _ _)

theorem stopDma_wf (c : ℕ) (code : Code) (s : State) (hs : s.inv fl) :
    (stopDma c code s).inv fl := by
  unfold stopDma
  try dsimp only
  repeat' first
    | with_reducible assumption | with_reducible apply undefineDest_wf | with_reducible apply dropDma_wf
    | with_reducible apply complete_wf | split

end Sys2Proof.Machine
end

