-- ==== Sys2Proof/Laws/WfResets.lean ====
section
/-! SUPPORT. Every operation and command of Machine/Resets.lean keeps the canonical form of the tables: one lemma per function. -/

namespace Sys2Proof.Machine

variable {fl : Floors}

theorem warmState_wf (cause : ℕ) (s : State) (hs : s.inv fl) :
    (warmState cause s).inv fl := by
  have hz : State.reset.glbWf := by unfold State.glbWf; decide
  exact wf_of rfl (wf_host (s := s) hs) (List.pairwise_singleton _ _) tbl_wf_nil ⟨hz, (wf_dev (s := s) hs).2⟩

theorem powerState_wf (s : State) (hs : s.inv fl) :
    (powerState s).inv fl := by
  have hz : State.reset.glbWf := by unfold State.glbWf; decide
  exact wf_of rfl (wf_host (s := s) hs) (List.pairwise_singleton _ _) tbl_wf_nil ⟨hz, (wf_dev (s := s) hs).2⟩

theorem endAllFlights_wf (s : State) (hs : s.inv fl) :
    (endAllFlights s).inv fl := by
  unfold endAllFlights
  try dsimp only
  repeat' first
    | with_reducible assumption | with_reducible apply complete_wf | (with_reducible refine foldl_wf ?_ ?_; intro _ _ _)

theorem finishReset_wf (s : State) (hs : s.inv fl) :
    (finishReset s).inv fl := by
  unfold finishReset
  try dsimp only
  repeat' first
    | with_reducible assumption | with_reducible apply endAllFlights_wf | with_reducible apply warmState_wf
    | with_reducible apply flushBatch_wf | (with_reducible refine foldl_wf ?_ ?_; intro _ _ _) | split
    | (simp only [wf_mk]; with_reducible refine wf_parts ?_)

theorem resetCheck_wf (s : State) (hs : s.inv fl) :
    (resetCheck s).inv fl := by
  unfold resetCheck
  try dsimp only
  repeat' first
    | with_reducible assumption | with_reducible apply finishReset_wf | split

theorem closeWith_wf (cause : ℕ) (h : ℕ) (s : State) (hs : s.inv fl) :
    (closeWith cause h s).inv fl := by
  unfold closeWith
  try dsimp only
  repeat' first
    | with_reducible assumption | with_reducible apply closeIfDone_wf | with_reducible apply ripcordTo_wf | with_reducible apply modCtx_wf

theorem closeRipcord_wf (h : ℕ) (s : State) (hs : s.inv fl) :
    (closeRipcord h s).inv fl := by
  unfold closeRipcord
  try dsimp only
  repeat' first
    | with_reducible assumption | with_reducible apply closeWith_wf

theorem gracefulCheck_wf (h : ℕ) (s : State) (hs : s.inv fl) :
    (gracefulCheck h s).inv fl := by
  unfold gracefulCheck
  try dsimp only
  repeat' first
    | with_reducible assumption | with_reducible apply closeRipcord_wf | split

theorem workEnded_wf (s : State) (hs : s.inv fl) :
    (workEnded s).inv fl := by
  unfold workEnded
  try dsimp only
  repeat' first
    | with_reducible assumption | with_reducible apply gracefulCheck_wf | with_reducible apply resetCheck_wf
    | (with_reducible refine foldl_wf ?_ ?_; intro _ _ _)

end Sys2Proof.Machine
end

