-- ==== Sys2Proof/Laws/WfMemMoves.lean ====
section
/-! SUPPORT. Every operation and command of Machine/MemMoves.lean keeps the canonical form of the tables: one lemma per function. -/

namespace Sys2Proof.Machine

variable {fl : Floors}

theorem mapPage_wf (k : ℕ) (i : ℕ) (frame : ℕ) (s : State) (hs : s.inv fl) :
    (mapPage k i frame s).inv fl := by
  unfold mapPage
  try dsimp only
  repeat' first
    | with_reducible assumption | with_reducible apply modCtx_wf | split

theorem mapPages_wf (k : ℕ) (frames : List ℕ) (s : State) (hs : s.inv fl) :
    (mapPages k frames s).inv fl := by
  unfold mapPages
  try dsimp only
  repeat' first
    | with_reducible assumption | with_reducible apply mapPage_wf | (with_reducible refine foldl_wf ?_ ?_; intro _ _ _)

theorem unmapObj_wf (o : MemObj) (s : State) (hs : s.inv fl) :
    (unmapObj o s).inv fl := by
  unfold unmapObj
  try dsimp only
  repeat' first
    | with_reducible assumption | with_reducible apply modCtx_wf

theorem leaseStore_wf (h : ℕ) (fs : List ℕ) (s : State) (hs : s.inv fl) :
    (leaseStore h fs s).inv fl := by
  unfold leaseStore
  try dsimp only
  repeat' first
    | with_reducible assumption | with_reducible apply takeLease_wf | (with_reducible refine foldl_wf ?_ ?_; intro _ _ _)

theorem takeStore_wf (k : ℕ) (h : ℕ) (n : ℕ) (s : State) (hs : s.inv fl) :
    (takeStore k h n s).inv fl := by
  unfold takeStore
  try dsimp only
  repeat' first
    | with_reducible assumption | with_reducible apply leaseStore_wf | with_reducible apply modObj_wf | with_reducible apply allocStore_wf

theorem dropStore_wf (k : ℕ) (s : State) (hs : s.inv fl) :
    (dropStore k s).inv fl := by
  unfold dropStore
  try dsimp only
  repeat' first
    | with_reducible assumption | with_reducible apply modObj_wf | with_reducible apply freeFramesOf_wf
    | with_reducible apply dropLease_wf | (with_reducible refine foldl_wf ?_ ?_; intro _ _ _) | split

theorem dropDram_wf (k : ℕ) (s : State) (hs : s.inv fl) :
    (dropDram k s).inv fl := by
  unfold dropDram
  try dsimp only
  repeat' first
    | with_reducible assumption | with_reducible apply modObj_wf | with_reducible apply freeFramesOf_wf
    | split

theorem dropExtents_wf (k : ℕ) (s : State) (hs : s.inv fl) :
    (dropExtents k s).inv fl := by
  unfold dropExtents
  try dsimp only
  repeat' first
    | with_reducible assumption | with_reducible apply modObj_wf | split
    | (simp only [wf_mk]; with_reducible refine wf_parts ?_)

theorem releaseObj_wf (k : ℕ) (s : State) (hs : s.inv fl) :
    (releaseObj k s).inv fl := by
  unfold releaseObj
  try dsimp only
  repeat' first
    | with_reducible assumption | with_reducible apply dropExtents_wf | with_reducible apply dropDram_wf
    | with_reducible apply dropStore_wf | with_reducible apply unmapObj_wf | with_reducible apply complete_wf
    | (with_reducible refine foldl_wf ?_ ?_; intro _ _ _) | split | (simp only [wf_mk]; with_reducible refine wf_parts ?_)

theorem chargeWords_wf (a : ℕ) (n : ℕ) (ctx : ℕ) (s : State) (hs : s.inv fl) :
    (chargeWords a n ctx s).inv fl := by
  unfold chargeWords
  try dsimp only
  repeat' first
    | with_reducible assumption | with_reducible apply correctedWords_wf | with_reducible apply wordEvent_wf
    | (with_reducible refine foldl_wf ?_ ?_; intro _ _ _)

theorem modMove_wf (k : ℕ) (f : Move → Move) (s : State) (hs : s.inv fl) :
    (modMove k f s).inv fl := by
  unfold modMove
  try dsimp only
  repeat' first
    | with_reducible assumption | split
    | (simp only [wf_mk]; with_reducible refine wf_parts ?_)

theorem popMove_wf (k : ℕ) (s : State) (hs : s.inv fl) :
    (popMove k s).inv fl := by
  unfold popMove
  try dsimp only
  repeat' first
    | with_reducible assumption | split
    | (simp only [wf_mk]; with_reducible refine wf_parts ?_)

theorem startStep_wf (k : ℕ) (m : Move) (o : MemObj) (s : State) (hs : s.inv fl) :
    (startStep k m o s).inv fl := by
  unfold startStep
  try dsimp only
  repeat' first
    | with_reducible assumption | with_reducible apply takeStore_wf | with_reducible apply modObj_wf | with_reducible apply allocFrames_wf
    | split | (simp only [wf_mk]; with_reducible refine wf_parts ?_)

theorem endMove_wf (k : ℕ) (m : Move) (code : Option Code) (s : State) (hs : s.inv fl) :
    (endMove k m code s).inv fl := by
  unfold endMove
  try dsimp only
  repeat' first
    | with_reducible assumption | with_reducible apply popMove_wf | with_reducible apply modObj_wf | with_reducible apply complete_wf
    | (with_reducible refine foldl_wf ?_ ?_; intro _ _ _) | split

theorem runMoves_wf (n k : ℕ) (s : State) (hs : s.inv fl) : (runMoves n k s).inv fl := by
  induction n generalizing s with
  | zero => exact hs
  | succ n ih =>
    unfold runMoves
    dsimp only
    repeat' first
      | with_reducible assumption | with_reducible apply ih | with_reducible apply dropDram_wf | with_reducible apply endMove_wf
      | with_reducible apply startStep_wf | with_reducible apply modObj_wf | with_reducible apply modMove_wf
      | with_reducible apply dropStore_wf | split

theorem serveMoves_wf (k : ℕ) (s : State) (hs : s.inv fl) :
    (serveMoves k s).inv fl := by
  unfold serveMoves
  try dsimp only
  repeat' first
    | with_reducible assumption | with_reducible apply runMoves_wf

theorem finishFree_wf (k : ℕ) (p : Pkt) (s : State) (hs : s.inv fl) :
    (finishFree k p s).inv fl := by
  unfold finishFree
  try dsimp only
  repeat' first
    | with_reducible assumption | with_reducible apply releaseObj_wf | with_reducible apply completeOk_wf

theorem movePage_wf (k : ℕ) (i : ℕ) (t : ℕ) (o : MemObj) (s : State) (hs : s.inv fl) :
    (movePage k i t o s).inv fl := by
  unfold movePage
  try dsimp only
  repeat' first
    | with_reducible assumption | with_reducible apply modMove_wf | with_reducible apply chargeWords_wf | with_reducible apply mapPage_wf
    | with_reducible apply moveWords_wf | split

theorem afterPage_wf (k : ℕ) (s : State) (hs : s.inv fl) :
    (afterPage k s).inv fl := by
  unfold afterPage
  try dsimp only
  repeat' first
    | with_reducible assumption | with_reducible apply finishFree_wf | with_reducible apply serveMoves_wf
    | with_reducible apply popMove_wf | with_reducible apply modObj_wf | split

theorem failColdOp_wf (k : ℕ) (code : Code) (s : State) (hs : s.inv fl) :
    (failColdOp k code s).inv fl := by
  unfold failColdOp
  try dsimp only
  repeat' first
    | with_reducible assumption | with_reducible apply finishFree_wf | with_reducible apply serveMoves_wf
    | with_reducible apply endMove_wf | with_reducible apply dropDram_wf | with_reducible apply modObj_wf
    | split | (simp only [wf_mk]; with_reducible refine wf_parts ?_)

theorem finishEvict_wf (k : ℕ) (o : MemObj) (s : State) (hs : s.inv fl) :
    (finishEvict k o s).inv fl := by
  unfold finishEvict
  try dsimp only
  repeat' first
    | with_reducible assumption | with_reducible apply failColdOp_wf | with_reducible apply afterPage_wf | with_reducible apply modMove_wf
    | with_reducible apply chargeWords_wf | with_reducible apply dropDram_wf | with_reducible apply dropStore_wf
    | with_reducible apply unmapObj_wf | with_reducible apply modObj_wf | (with_reducible refine foldl_wf ?_ ?_; intro _ _ _) | split
    | (simp only [wf_mk]; with_reducible refine wf_parts ?_)

theorem finishPromote_wf (k : ℕ) (o : MemObj) (s : State) (hs : s.inv fl) :
    (finishPromote k o s).inv fl := by
  unfold finishPromote
  dsimp only
  split
  · exact failColdOp_wf _ _ _ hs
  · refine afterPage_wf _ _ (modMove_wf _ _ _ (modObj_wf _ _ _ (dropExtents_wf _ _ (mapPages_wf _ _ _ (foldl_wf (fun t x ht => physWrite_wf _ _ _ ht) ?_)))))
    simp only [wf_mk]
    exact wf_parts hs

theorem pausePromote_wf (k : ℕ) (done : ℕ) (s : State) (hs : s.inv fl) :
    (pausePromote k done s).inv fl := by
  unfold pausePromote
  try dsimp only
  repeat' first
    | with_reducible assumption | with_reducible apply afterPage_wf | with_reducible apply modObj_wf
    | split | (simp only [wf_mk]; with_reducible refine wf_parts ?_)

theorem failCold_wf (s : State) (hs : s.inv fl) :
    (failCold s).inv fl := by
  unfold failCold
  try dsimp only
  repeat' first
    | with_reducible assumption | with_reducible apply failColdOp_wf | with_reducible apply pinIo_wf | with_reducible apply complete_wf
    | (with_reducible refine foldl_wf ?_ ?_; intro _ _ _) | split | (simp only [wf_mk]; with_reducible refine wf_parts ?_)

theorem firmwareMove_wf (k : ℕ) (target : ℕ) (s : State) (hs : s.inv fl) :
    (firmwareMove k target s).inv fl := by
  unfold firmwareMove
  try dsimp only
  repeat' first
    | with_reducible assumption | with_reducible apply serveMoves_wf | split
    | (simp only [wf_mk]; with_reducible refine wf_parts ?_)

theorem shrinkStore_wf (h : ℕ) (s : State) (hs : s.inv fl) :
    (shrinkStore h s).inv fl := by
  unfold shrinkStore
  try dsimp only
  repeat' first
    | with_reducible assumption | with_reducible apply firmwareMove_wf | (with_reducible refine foldl_wf ?_ ?_; intro _ _ _) | split

theorem promoteAuto_wf (k : ℕ) (s : State) (hs : s.inv fl) :
    (promoteAuto k s).inv fl := by
  unfold promoteAuto
  dsimp only
  repeat' first
    | with_reducible assumption | with_reducible apply firmwareMove_wf | (with_reducible refine foldl2_wf ?_ ?_; intro _ _ _ _) | split

theorem placeAuto_wf (s : State) (hs : s.inv fl) :
    (placeAuto s).inv fl := by
  unfold placeAuto
  try dsimp only
  repeat' first
    | with_reducible assumption | with_reducible apply promoteAuto_wf | with_reducible apply shrinkStore_wf
    | (with_reducible refine foldl_wf ?_ ?_; intro _ _ _)

end Sys2Proof.Machine
end

