-- ==== Sys2Proof/Laws/WfRetire.lean ====
section
/-! SUPPORT. Every operation and command of Machine/Retire.lean keeps the canonical form of the tables: one lemma per function. -/

namespace Sys2Proof.Machine

variable {fl : Floors}

theorem stopLeg_wf (g : ℕ) (s : State) (hs : s.inv fl) :
    (stopLeg g s).inv fl := by
  unfold stopLeg
  try dsimp only
  repeat' first
    | with_reducible assumption | with_reducible apply takeStops_wf | with_reducible apply endStall_wf | with_reducible apply unguard_wf
    | with_reducible apply dropLocks_wf | with_reducible apply scrubGang_wf | with_reducible apply modRun_wf
    | with_reducible apply modGang_wf | split

theorem enterSafe_wf (s : State) (hs : s.inv fl) :
    (enterSafe s).inv fl := by
  unfold enterSafe
  try dsimp only
  repeat' first
    | with_reducible assumption | with_reducible apply stopLeg_wf | with_reducible apply logEvent_wf
    | (with_reducible refine foldl_wf ?_ ?_; intro _ _ _) | split | (simp only [wf_mk]; with_reducible refine wf_parts ?_)

theorem markRetired_wf (ty : ℕ) (ix : ℕ) (action : ℕ) (s : State) (hs : s.inv fl) :
    (markRetired ty ix action s).inv fl := by
  unfold markRetired
  try dsimp only
  repeat' first
    | with_reducible assumption | with_reducible apply logEvent_wf | split
    | (simp only [wf_mk]; with_reducible refine wf_parts ?_)

theorem retireReplies_wf (ty : ℕ) (ix : ℕ) (s : State) (hs : s.inv fl) :
    (retireReplies ty ix s).inv fl := by
  unfold retireReplies
  try dsimp only
  repeat' first
    | with_reducible assumption | with_reducible apply completeOk_wf | (with_reducible refine foldl_wf ?_ ?_; intro _ _ _) | split
    | (simp only [wf_mk]; with_reducible refine wf_parts ?_)

theorem emptyGang_wf (g : ℕ) (s : State) (hs : s.inv fl) :
    (emptyGang g s).inv fl := by
  unfold emptyGang
  try dsimp only
  repeat' first
    | with_reducible assumption | with_reducible apply failTiers_wf | with_reducible apply endRuns_wf
    | split

theorem callSpare_wf (g : ℕ) (n : ℕ) (pos : ℕ) (s : State) (hs : s.inv fl) :
    (callSpare g n pos s).inv fl := by
  unfold callSpare
  try dsimp only
  repeat' first
    | with_reducible assumption | with_reducible apply emptyGang_wf | with_reducible apply modGang_wf | with_reducible apply modPanel_wf
    | split

theorem retirePanel_wf (n : ℕ) (s : State) (hs : s.inv fl) :
    (retirePanel n s).inv fl := by
  unfold retirePanel
  try dsimp only
  repeat' first
    | with_reducible assumption | with_reducible apply callSpare_wf | with_reducible apply markRetired_wf
    | with_reducible apply modGang_wf | with_reducible apply modPanel_wf | split

theorem retireKite_wf (s : State) (hs : s.inv fl) :
    (retireKite s).inv fl := by
  unfold retireKite
  try dsimp only
  repeat' first
    | with_reducible assumption | with_reducible apply markRetired_wf | with_reducible apply failTiers_wf
    | with_reducible apply endRuns_wf

theorem startRetire_wf (c : ℕ) (p : Option Pkt) (s : State) (hs : s.inv fl) :
    (startRetire c p s).inv fl := by
  unfold startRetire
  try dsimp only
  repeat' first
    | with_reducible assumption | split
    | (simp only [wf_mk]; with_reducible refine wf_parts ?_)

theorem stopCam_wf (n : ℕ) (s : State) (hs : s.inv fl) :
    (stopCam n s).inv fl := by
  unfold stopCam
  try dsimp only
  repeat' first
    | with_reducible assumption | with_reducible apply modCam_wf | with_reducible apply complete_wf | with_reducible apply completeOk_wf
    | (with_reducible refine foldl_wf ?_ ?_; intro _ _ _)

theorem retireCam_wf (n : ℕ) (s : State) (hs : s.inv fl) :
    (retireCam n s).inv fl := by
  unfold retireCam
  try dsimp only
  repeat' first
    | with_reducible assumption | with_reducible apply stopCam_wf | with_reducible apply markRetired_wf
    | with_reducible apply failTiers_wf | with_reducible apply modCam_wf | split

theorem retirePdm_wf (n : ℕ) (s : State) (hs : s.inv fl) :
    (retirePdm n s).inv fl := by
  unfold retirePdm
  try dsimp only
  repeat' first
    | with_reducible assumption | with_reducible apply markRetired_wf | with_reducible apply failTiers_wf
    | split

theorem closePort_wf (e : ℕ) (s : State) (hs : s.inv fl) :
    (closePort e s).inv fl := by
  unfold closePort
  try dsimp only
  repeat' first
    | with_reducible assumption | split
    | (simp only [wf_mk]; with_reducible refine wf_parts ?_)

theorem retireEth_wf (n : ℕ) (s : State) (hs : s.inv fl) :
    (retireEth n s).inv fl := by
  unfold retireEth
  try dsimp only
  repeat' first
    | with_reducible assumption | with_reducible apply closePort_wf | with_reducible apply markRetired_wf | with_reducible apply gwDrop_wf
    | (with_reducible refine foldl_wf ?_ ?_; intro _ _ _)

theorem beginHold_wf (s : State) (hs : s.inv fl) :
    (beginHold s).inv fl := by
  unfold beginHold
  try dsimp only
  repeat' first
    | with_reducible assumption | split
    | (simp only [wf_mk]; with_reducible refine wf_parts ?_)

theorem resetConfigSpace_wf (s : State) (hs : s.inv fl) :
    (resetConfigSpace s).inv fl := by
  unfold resetConfigSpace
  try dsimp only
  repeat' first
    | with_reducible assumption | split
    | (simp only [wf_mk]; with_reducible refine wf_parts ?_)

theorem linkDown_wf (s : State) (hs : s.inv fl) :
    (linkDown s).inv fl := by
  unfold linkDown
  try dsimp only
  repeat' first
    | with_reducible assumption | split
    | (simp only [wf_mk]; with_reducible refine wf_parts ?_)

theorem hostDown_wf (s : State) (hs : s.inv fl) :
    (hostDown s).inv fl := by
  unfold hostDown
  try dsimp only
  repeat' first
    | with_reducible assumption | with_reducible apply linkDown_wf | with_reducible apply resetConfigSpace_wf
    | with_reducible apply beginHold_wf | split
    | (simp only [wf_mk]; with_reducible refine wf_parts ?_)

theorem retireLanes_wf (n : ℕ) (s : State) (hs : s.inv fl) :
    (retireLanes n s).inv fl := by
  unfold retireLanes
  try dsimp only
  repeat' first
    | with_reducible assumption | with_reducible apply hostDown_wf | with_reducible apply markRetired_wf
    | with_reducible apply failCold_wf | with_reducible apply glbEvent_wf | split
    | (simp only [wf_mk]; with_reducible refine wf_parts ?_)

theorem retireNow_wf (ty : ℕ) (ix : ℕ) (s : State) (hs : s.inv fl) :
    (retireNow ty ix s).inv fl := by
  unfold retireNow
  try dsimp only
  repeat' first
    | with_reducible assumption | with_reducible apply retireLanes_wf | with_reducible apply retireEth_wf
    | with_reducible apply retirePdm_wf | with_reducible apply retireCam_wf | with_reducible apply startRetire_wf
    | with_reducible apply retireKite_wf | with_reducible apply retirePanel_wf | with_reducible apply retireReplies_wf
    | split

theorem retireDue_wf (s : State) (hs : s.inv fl) :
    (retireDue s).inv fl := by
  unfold retireDue
  try dsimp only
  repeat' first
    | with_reducible assumption | with_reducible apply retireNow_wf | (with_reducible refine foldl_wf ?_ ?_; intro _ _ _) | split

theorem serveInject_wf (p : Pkt) (s : State) (hs : s.inv fl) :
    (serveInject p s).inv fl := by
  unfold serveInject
  try dsimp only
  repeat' first
    | with_reducible assumption | with_reducible apply retireNow_wf | with_reducible apply logEvent_wf | with_reducible apply complete_wf
    | with_reducible apply completeOk_wf | with_reducible apply takeFree_wf | split

theorem serveInjects_wf (s : State) (hs : s.inv fl) :
    (serveInjects s).inv fl := by
  unfold serveInjects
  try dsimp only
  repeat' first
    | with_reducible assumption | with_reducible apply serveInject_wf | (with_reducible refine foldl_wf ?_ ?_; intro _ _ _) | split
    | (simp only [wf_mk]; with_reducible refine wf_parts ?_)

theorem settle_wf (s : State) (hs : s.inv fl) :
    (settle s).inv fl := by
  unfold settle
  try dsimp only
  repeat' first
    | with_reducible assumption | with_reducible apply serveInjects_wf | with_reducible apply retireDue_wf

theorem settled_wf (s : State) (hs : s.inv fl) :
    (settled s).inv fl := by
  unfold settled
  try dsimp only
  repeat' first
    | with_reducible assumption | with_reducible apply settle_wf | with_reducible apply workEnded_wf

end Sys2Proof.Machine
end

