-- ==== Sys2Proof/Laws/WfContexts.lean ====
section
/-! SUPPORT. Every operation and command of Machine/Contexts.lean keeps the canonical form of the tables: one lemma per function. -/

namespace Sys2Proof.Machine

variable {fl : Floors}

theorem actCtxOpen_wf (p : Pkt) (s : State) (hs : s.inv fl) :
    (actCtxOpen p s).inv fl := by
  unfold actCtxOpen
  have h := readWords_wf 0 (fld p 48 8) 64 s hs
  generalize readWords 0 (fld p 48 8) 64 s = t at h ⊢
  exact completeOk_wf _ _ _ _ _ (wf_of (wf_mem (s := t) h) (wf_host (s := t) h) (tput_wf _ _ _ (wf_ctxs (s := t) h)) (wf_words (s := t) h) (wf_dev (s := t) h))

theorem execCtxOpen_wf (p : Pkt) (s : State) (hs : s.inv fl) :
    Res.wf fl (execCtxOpen p s) := by
  unfold execCtxOpen
  try dsimp only
  repeat' first
    | with_reducible assumption | with_reducible apply res_next | with_reducible exact res_fault | with_reducible exact res_refused
    | with_reducible apply actCtxOpen_wf | with_reducible apply runHost_wf

theorem actCtxClose_wf (p : Pkt) (s : State) (hs : s.inv fl) :
    (actCtxClose p s).inv fl := by
  unfold actCtxClose
  try dsimp only
  repeat' first
    | with_reducible assumption | with_reducible apply workEnded_wf | with_reducible apply closeRipcord_wf
    | with_reducible apply closeIfDone_wf | with_reducible apply handOn_wf | with_reducible apply modCtx_wf
    | split

theorem execCtxClose_wf (p : Pkt) (s : State) (hs : s.inv fl) :
    Res.wf fl (execCtxClose p s) := by
  unfold execCtxClose
  try dsimp only
  repeat' first
    | with_reducible assumption | with_reducible apply res_next | with_reducible exact res_fault | with_reducible exact res_refused
    | with_reducible apply actCtxClose_wf | with_reducible apply runCmd_wf

theorem execCtxCloseGraceEnd_wf (ctx : ℕ) (s : State) (hs : s.inv fl) :
    Res.wf fl (execCtxCloseGraceEnd ctx s) := by
  unfold execCtxCloseGraceEnd
  try dsimp only
  repeat' first
    | with_reducible assumption | with_reducible apply res_next | with_reducible exact res_fault | with_reducible exact res_refused
    | with_reducible apply workEnded_wf | with_reducible apply closeRipcord_wf | with_reducible apply elapseTo_wf
    | split

theorem actCtxQuery_wf (p : Pkt) (s : State) (hs : s.inv fl) :
    (actCtxQuery p s).inv fl := by
  unfold actCtxQuery
  try dsimp only
  repeat' first
    | with_reducible assumption | with_reducible apply completeOk_wf

theorem execCtxQuery_wf (p : Pkt) (s : State) (hs : s.inv fl) :
    Res.wf fl (execCtxQuery p s) := by
  unfold execCtxQuery
  try dsimp only
  repeat' first
    | with_reducible assumption | with_reducible apply res_next | with_reducible exact res_fault | with_reducible exact res_refused
    | with_reducible apply actCtxQuery_wf | with_reducible apply runCmd_wf

theorem actCtxSetQuota_wf (p : Pkt) (s : State) (hs : s.inv fl) :
    (actCtxSetQuota p s).inv fl := by
  unfold actCtxSetQuota
  try dsimp only
  repeat' first
    | with_reducible assumption | with_reducible apply readWords_wf | with_reducible apply completeOk_wf | with_reducible apply modCtx_wf

theorem execCtxSetQuota_wf (p : Pkt) (s : State) (hs : s.inv fl) :
    Res.wf fl (execCtxSetQuota p s) := by
  unfold execCtxSetQuota
  try dsimp only
  repeat' first
    | with_reducible assumption | with_reducible apply res_next | with_reducible exact res_fault | with_reducible exact res_refused
    | with_reducible apply actCtxSetQuota_wf | with_reducible apply runHost_wf

theorem actCtxSeal_wf (p : Pkt) (s : State) (hs : s.inv fl) :
    (actCtxSeal p s).inv fl := by
  unfold actCtxSeal
  try dsimp only
  repeat' first
    | with_reducible assumption | with_reducible apply extend_wf | with_reducible apply completeOk_wf | with_reducible apply modCtx_wf
    | split

theorem execCtxSeal_wf (p : Pkt) (s : State) (hs : s.inv fl) :
    Res.wf fl (execCtxSeal p s) := by
  unfold execCtxSeal
  try dsimp only
  repeat' first
    | with_reducible assumption | with_reducible apply res_next | with_reducible exact res_fault | with_reducible exact res_refused
    | with_reducible apply actCtxSeal_wf | with_reducible apply runCmd_wf

theorem actCtxQueueCreate_wf (p : Pkt) (s : State) (hs : s.inv fl) :
    (actCtxQueueCreate p s).inv fl := by
  unfold actCtxQueueCreate
  try dsimp only
  repeat' first
    | with_reducible assumption | with_reducible apply completeOk_wf | with_reducible apply modCtx_wf

theorem execCtxQueueCreate_wf (p : Pkt) (s : State) (hs : s.inv fl) :
    Res.wf fl (execCtxQueueCreate p s) := by
  unfold execCtxQueueCreate
  try dsimp only
  repeat' first
    | with_reducible assumption | with_reducible apply res_next | with_reducible exact res_fault | with_reducible exact res_refused
    | with_reducible apply actCtxQueueCreate_wf | with_reducible apply runCmd_wf

theorem actCtxQueueDestroy_wf (p : Pkt) (s : State) (hs : s.inv fl) :
    (actCtxQueueDestroy p s).inv fl := by
  unfold actCtxQueueDestroy
  try dsimp only
  repeat' first
    | with_reducible assumption | with_reducible apply completeOk_wf | with_reducible apply modCtx_wf

theorem execCtxQueueDestroy_wf (p : Pkt) (s : State) (hs : s.inv fl) :
    Res.wf fl (execCtxQueueDestroy p s) := by
  unfold execCtxQueueDestroy
  try dsimp only
  repeat' first
    | with_reducible assumption | with_reducible apply res_next | with_reducible exact res_fault | with_reducible exact res_refused
    | with_reducible apply actCtxQueueDestroy_wf | with_reducible apply runCmd_wf

theorem actGangCreate_wf (p : Pkt) (s : State) (hs : s.inv fl) :
    (actGangCreate p s).inv fl := by
  unfold actGangCreate
  try dsimp only
  repeat' first
    | with_reducible assumption | with_reducible apply modTest_wf | with_reducible apply takeLease_wf | with_reducible apply modPanel_wf
    | with_reducible apply completeOk_wf | (with_reducible refine foldl_wf ?_ ?_; intro _ _ _) | split
    | (simp only [wf_mk]; with_reducible refine wf_parts ?_)

theorem execGangCreate_wf (p : Pkt) (s : State) (hs : s.inv fl) :
    Res.wf fl (execGangCreate p s) := by
  unfold execGangCreate
  try dsimp only
  repeat' first
    | with_reducible assumption | with_reducible apply res_next | with_reducible exact res_fault | with_reducible exact res_refused
    | with_reducible apply actGangCreate_wf | with_reducible apply runCmd_wf

theorem actGangDestroy_wf (p : Pkt) (s : State) (hs : s.inv fl) :
    (actGangDestroy p s).inv fl := by
  unfold actGangDestroy
  try dsimp only
  repeat' first
    | with_reducible assumption | with_reducible apply removeGang_wf | with_reducible apply completeOk_wf

theorem execGangDestroy_wf (p : Pkt) (s : State) (hs : s.inv fl) :
    Res.wf fl (execGangDestroy p s) := by
  unfold execGangDestroy
  try dsimp only
  repeat' first
    | with_reducible assumption | with_reducible apply res_next | with_reducible exact res_fault | with_reducible exact res_refused
    | with_reducible apply actGangDestroy_wf | with_reducible apply runCmd_wf

theorem actGangQuery_wf (p : Pkt) (s : State) (hs : s.inv fl) :
    (actGangQuery p s).inv fl := by
  unfold actGangQuery
  try dsimp only
  repeat' first
    | with_reducible assumption | with_reducible apply completeOk_wf | split

theorem execGangQuery_wf (p : Pkt) (s : State) (hs : s.inv fl) :
    Res.wf fl (execGangQuery p s) := by
  unfold execGangQuery
  try dsimp only
  repeat' first
    | with_reducible assumption | with_reducible apply res_next | with_reducible exact res_fault | with_reducible exact res_refused
    | with_reducible apply actGangQuery_wf | with_reducible apply runCmd_wf

theorem actCtxLeases_wf (p : Pkt) (s : State) (hs : s.inv fl) :
    (actCtxLeases p s).inv fl := by
  unfold actCtxLeases
  try dsimp only
  repeat' first
    | with_reducible assumption | with_reducible apply completeOk_wf | with_reducible apply vwrite_wf

theorem execCtxLeases_wf (p : Pkt) (s : State) (hs : s.inv fl) :
    Res.wf fl (execCtxLeases p s) := by
  unfold execCtxLeases
  try dsimp only
  repeat' first
    | with_reducible assumption | with_reducible apply res_next | with_reducible exact res_fault | with_reducible exact res_refused
    | with_reducible apply actCtxLeases_wf | with_reducible apply runHost_wf

theorem actCtxXlate_wf (p : Pkt) (s : State) (hs : s.inv fl) :
    (actCtxXlate p s).inv fl := by
  unfold actCtxXlate
  try dsimp only
  repeat' first
    | with_reducible assumption | with_reducible apply completeOk_wf

theorem execCtxXlate_wf (p : Pkt) (s : State) (hs : s.inv fl) :
    Res.wf fl (execCtxXlate p s) := by
  unfold execCtxXlate
  try dsimp only
  repeat' first
    | with_reducible assumption | with_reducible apply res_next | with_reducible exact res_fault | with_reducible exact res_refused
    | with_reducible apply actCtxXlate_wf | with_reducible apply runCmd_wf

theorem execLeaseLimitExpiry_wf (lease : ℕ) (s : State) (hs : s.inv fl) :
    Res.wf fl (execLeaseLimitExpiry lease s) := by
  unfold execLeaseLimitExpiry
  try dsimp only
  repeat' first
    | with_reducible assumption | with_reducible apply res_next | with_reducible exact res_fault | with_reducible exact res_refused
    | with_reducible apply workEnded_wf | with_reducible apply stopDma_wf | with_reducible apply ripcord_wf
    | with_reducible apply finishRun_wf | with_reducible apply logEvent_wf | with_reducible apply elapseTo_wf
    | split | (simp only [wf_mk]; with_reducible refine wf_parts ?_)

theorem execRipcordScrubComplete_wf (ctx : ℕ) (s : State) (hs : s.inv fl) :
    Res.wf fl (execRipcordScrubComplete ctx s) := by
  unfold execRipcordScrubComplete
  try dsimp only
  repeat' first
    | with_reducible assumption | with_reducible apply res_next | with_reducible exact res_fault | with_reducible exact res_refused
    | with_reducible apply closeIfDone_wf | with_reducible apply scrubCtx_wf | split

theorem stopCommand_wf (p : Pkt) (s : State) (code : optParam Code Code.eTransient) (hs : s.inv fl) :
    (stopCommand p s code).inv fl := by
  unfold stopCommand
  try dsimp only
  repeat' first
    | with_reducible assumption | with_reducible apply pinIo_wf | with_reducible apply unlist_wf | with_reducible apply undefine_wf
    | with_reducible apply complete_wf | (with_reducible refine foldl_wf ?_ ?_; intro _ _ _) | split
    | (simp only [wf_mk]; with_reducible refine wf_parts ?_)

theorem execLegAccessFault_wf (ctx : ℕ) (gang : Option ℕ) (channel : Option ℕ) (s : State) (command : optParam (Option ℕ) Option.none) (hs : s.inv fl) :
    Res.wf fl (execLegAccessFault ctx gang channel s command) := by
  unfold execLegAccessFault
  try dsimp only
  repeat' first
    | with_reducible assumption | with_reducible apply res_next | with_reducible exact res_fault | with_reducible exact res_refused
    | with_reducible apply stopCommand_wf | with_reducible apply workEnded_wf | with_reducible apply stopDma_wf
    | with_reducible apply ripcord_wf | with_reducible apply finishRun_wf | split

end Sys2Proof.Machine
end

