-- ==== Sys2Proof/Laws/WfHostAttach.lean ====
section
/-! SUPPORT. Every operation and command of Machine/HostAttach.lean keeps the canonical form of the tables: one lemma per function. -/

namespace Sys2Proof.Machine

variable {fl : Floors}

theorem sampleBranches_wf (s : State) (hs : s.inv fl) :
    (sampleBranches s).inv fl := by
  unfold sampleBranches
  try dsimp only
  repeat' first
    | with_reducible assumption | split
    | (simp only [wf_mk]; with_reducible refine wf_parts ?_)

theorem releaseHold_wf (s : State) (hs : s.inv fl) :
    (releaseHold s).inv fl := by
  unfold releaseHold
  try dsimp only
  repeat' first
    | with_reducible assumption | with_reducible apply sampleBranches_wf | with_reducible apply afterBound_wf
    | with_reducible apply boundaries_wf | with_reducible apply serveStrm_wf | with_reducible apply serveKv_wf
    | with_reducible apply perform_wf | with_reducible apply sendPending_wf | (with_reducible refine foldl_wf ?_ ?_; intro _ _ _) | split
    | (simp only [wf_mk]; with_reducible refine wf_parts ?_)

theorem settleHold_wf (s : State) (hs : s.inv fl) :
    (settleHold s).inv fl := by
  unfold settleHold
  try dsimp only
  repeat' first
    | with_reducible assumption | with_reducible apply releaseHold_wf | split
    | (simp only [wf_mk]; with_reducible refine wf_parts ?_)

theorem endHeld_wf (p : Pkt) (s : State) (hs : s.inv fl) :
    (endHeld p s).inv fl := by
  unfold endHeld
  try dsimp only
  repeat' first
    | with_reducible assumption | with_reducible apply recordTag_wf | with_reducible apply landFlight_wf

theorem abandonCtx_wf (h : ℕ) (s : State) (hs : s.inv fl) :
    (abandonCtx h s).inv fl := by
  unfold abandonCtx
  try dsimp only
  repeat' first
    | with_reducible assumption | with_reducible apply closeWith_wf | with_reducible apply ripcord_wf
    | split

theorem abandonRuns_wf (s : State) (hs : s.inv fl) :
    (abandonRuns s).inv fl := by
  unfold abandonRuns
  try dsimp only
  repeat' first
    | with_reducible assumption | with_reducible apply endRun_wf | (with_reducible refine foldl_wf ?_ ?_; intro _ _ _)

theorem abandonHold_wf (s : State) (hs : s.inv fl) :
    (abandonHold s).inv fl := by
  unfold abandonHold
  dsimp only
  refine workEnded_wf _ (boundaries_wf _ (afterBound_wf _ (settleTiers_wf _ (sendPending_wf _ ?_))))
  refine (fun (t : State) (c : List ColdOp) (ht : t.inv fl) => ?_ : ∀ (t : State) (c : List ColdOp), t.inv fl →
    ({ t with store.cold := c, link.hold := .none, link.held := [], glb.mring := t.glb.mring &&& 0x7FFFFFFF } : State).inv fl) _ _ ?_
  · obtain ⟨g1, g2, g3, g4, g5, g6, g7, g8, g9⟩ := ht.2.2.1
    exact ⟨ht.1, ht.2.1, ⟨g1, g2, g3, g4, g5, g6, g7, g8, and_keep g9⟩, ht.2.2.2⟩
  · refine foldl_wf (fun t c ht => ?_) (foldl_wf (fun t p ht => unlist_wf _ _ (endHeld_wf _ _ ht)) (foldl_wf (fun t x ht =>
      endHeld_wf _ _ (undefineDest_wf _ _ (dropDma_wf _ _ ht))) (abandonRuns_wf _ (foldl_wf (fun t h ht => abandonCtx_wf _ _ ht) hs))))
    cases c.pkt with
    | none => exact ht
    | some p => exact pinIo_wf _ _ _ ht

theorem writeResume_wf (s : State) (hs : s.inv fl) :
    (writeResume s).inv fl := by
  unfold writeResume
  try dsimp only
  repeat' first
    | with_reducible assumption | with_reducible apply settleHold_wf | split
    | (simp only [wf_mk]; with_reducible refine wf_parts ?_)

theorem writeAbandon_wf (s : State) (hs : s.inv fl) :
    (writeAbandon s).inv fl := by
  unfold writeAbandon
  try dsimp only
  repeat' first
    | with_reducible assumption | with_reducible apply abandonHold_wf | split

theorem writeMring_wf (v : ℕ) (s : State) (hs : s.inv fl) :
    (writeMring v s).inv fl := by
  obtain ⟨g1, g2, g3, g4, g5, g6, g7, g8, g9⟩ := hs.2.2.1
  have hm : ∀ w : Word, w &&& 0x7FFFE0E0 = 0 → ({ s with glb.mring := w } : State).inv fl := fun w hw =>
    wf_glb hs ⟨g1, g2, g3, g4, g5, g6, g7, g8, hw⟩
  have hw : (BitVec.ofNat 32 v &&& 0x1F1F : Word) &&& 0x7FFFE0E0 = 0 := mask_keep (by decide)
  unfold writeMring
  dsimp only
  split
  · split
    · exact hs
    · exact hm _ (and_keep g9)
  · split
    · exact hm _ hw
    · split
      · exact glbErr_wf _ _ (hm _ hw)
      · exact modCtx_wf _ _ _ (hm _ (or_keep hw (by decide)))

theorem clearEvent_wf (v : ℕ) (sets : ℕ) (s : State) (hs : s.inv fl) :
    (clearEvent v sets s).inv fl := by
  obtain ⟨g1, g2, g3, g4, g5, g6, g7, g8, g9⟩ := hs.2.2.1
  unfold clearEvent
  exact foldl_wf (fun t a ht => glbEvent_wf _ _ ht) (wf_glb hs ⟨and_keep g1, g2, g3, g4, g5, g6, g7, g8, g9⟩)

theorem clearErr_wf (v : ℕ) (sets : ℕ) (s : State) (hs : s.inv fl) :
    (clearErr v sets s).inv fl := by
  obtain ⟨g1, g2, g3, g4, g5, g6, g7, g8, g9⟩ := hs.2.2.1
  unfold clearErr
  exact foldl_wf (fun t a ht => glbErr_wf _ _ ht) (wf_glb hs ⟨g1, g2, and_keep g3, g4, g5, g6, g7, g8, g9⟩)

theorem rejectDoorbell_wf (n : ℕ) (s : State) (hs : s.inv fl) :
    (rejectDoorbell n s).inv fl := by
  unfold rejectDoorbell
  try dsimp only
  repeat' first
    | with_reducible assumption | with_reducible apply glbEvent_wf | with_reducible apply modCtx_wf

theorem writeTail_wf (n : ℕ) (q : ℕ) (v : ℕ) (s : State) (hs : s.inv fl) :
    (writeTail n q v s).inv fl := by
  unfold writeTail
  try dsimp only
  repeat' first
    | with_reducible assumption | with_reducible apply rejectDoorbell_wf | with_reducible apply modCtx_wf
    | split | (simp only [wf_mk]; with_reducible refine wf_parts ?_)

theorem writeHead_wf (n : ℕ) (v : ℕ) (s : State) (hs : s.inv fl) :
    (writeHead n v s).inv fl := by
  unfold writeHead
  try dsimp only
  repeat' first
    | with_reducible assumption | with_reducible apply rejectDoorbell_wf | with_reducible apply modCtx_wf
    | split

theorem regWrite_wf (off : ℕ) (v : ℕ) (s : State) (hs : s.inv fl) :
    (regWrite off v s).inv fl := by
  obtain ⟨g1, g2, g3, g4, g5, g6, g7, g8, g9⟩ := hs.2.2.1
  have hg : ∀ x : Glb, ({ s with glb := x } : State).glbWf → ({ s with glb := x } : State).inv fl := fun x hx => wf_glb hs hx
  unfold regWrite
  dsimp only
  split
  · repeat' first | with_reducible assumption | with_reducible apply writeTail_wf | with_reducible apply writeHead_wf | split
  · split
    · apply sendPending_wf
      exact hs
    · split
      · exact clearEvent_wf _ _ _ hs
      · exact hg _ ⟨g1, mask_keep (by decide), g3, g4, g5, g6, g7, g8, g9⟩
      · exact clearErr_wf _ _ _ hs
      · exact hg _ ⟨g1, g2, g3, mask_keep (by decide), g5, g6, g7, g8, g9⟩
      · exact hg _ ⟨g1, g2, g3, g4, mask_keep (by decide), g6, g7, g8, g9⟩
      · exact hg _ ⟨g1, g2, g3, g4, g5, mask_keep (by decide), g7, g8, g9⟩
      · split
        · exact hs
        · exact hg _ ⟨g1, g2, g3, g4, g5, g6, mask_keep (by decide), g8, g9⟩
      · split
        · exact hs
        · exact hg _ ⟨g1, g2, g3, g4, g5, g6, g7, g8, g9⟩
      · split
        · exact hs
        · exact hg _ ⟨g1, g2, g3, g4, g5, g6, g7, mask_keep (by decide), g9⟩
      · split
        · exact hs
        · exact hg _ ⟨g1, g2, g3, g4, g5, g6, g7, g8, g9⟩
      · exact writeMring_wf _ _ hs
      · repeat' first | with_reducible assumption | with_reducible apply writeAbandon_wf | with_reducible apply writeResume_wf | split
      · exact hg _ ⟨g1, g2, g3, g4, g5, g6, g7, g8, g9⟩
      · exact hs

theorem barAccess_wf {s : State} {act : State → State} (hs : s.inv fl) (ha : (act s).inv fl) : Res.wf fl (barAccess s act) := by
  unfold barAccess
  split
  · exact ha
  · exact hs

theorem execBar0UnsupportedAccess_wf (write : Bool) (s : State) (hs : s.inv fl) :
    Res.wf fl (execBar0UnsupportedAccess write s) := by
  unfold execBar0UnsupportedAccess
  try dsimp only
  repeat' first
    | with_reducible assumption | with_reducible apply res_next | with_reducible exact res_fault | with_reducible exact res_refused
    | with_reducible apply barAccess_wf | with_reducible apply glbErr_wf | split
    | (simp only [wf_mk]; with_reducible refine wf_parts ?_)

theorem execRegisterWrite_wf (off : ℕ) (width : ℕ) (value : ℕ) (s : State) (hs : s.inv fl) :
    Res.wf fl (execRegisterWrite off width value s) := by
  unfold execRegisterWrite
  try dsimp only
  repeat' first
    | with_reducible assumption | with_reducible apply res_next | with_reducible exact res_fault | with_reducible exact res_refused
    | with_reducible apply barAccess_wf | with_reducible apply regWrite_wf | with_reducible apply glbErr_wf
    | split

theorem execGlbTimeLoRead_wf (wide : Bool) (s : State) (hs : s.inv fl) :
    Res.wf fl (execGlbTimeLoRead wide s) := by
  unfold execGlbTimeLoRead
  try dsimp only
  repeat' first
    | with_reducible assumption | with_reducible apply res_next | with_reducible exact res_fault | with_reducible exact res_refused
    | with_reducible apply barAccess_wf | split
    | (simp only [wf_mk]; with_reducible refine wf_parts ?_)

theorem execGlbEventClear_wf (value : ℕ) (hwSets : ℕ) (s : State) (hs : s.inv fl) :
    Res.wf fl (execGlbEventClear value hwSets s) := by
  unfold execGlbEventClear
  try dsimp only
  repeat' first
    | with_reducible assumption | with_reducible apply res_next | with_reducible exact res_fault | with_reducible exact res_refused
    | with_reducible apply barAccess_wf | with_reducible apply clearEvent_wf

theorem execGlbErrClear_wf (value : ℕ) (hwSets : ℕ) (s : State) (hs : s.inv fl) :
    Res.wf fl (execGlbErrClear value hwSets s) := by
  unfold execGlbErrClear
  try dsimp only
  repeat' first
    | with_reducible assumption | with_reducible apply res_next | with_reducible exact res_fault | with_reducible exact res_refused
    | with_reducible apply barAccess_wf | with_reducible apply clearErr_wf

theorem execResume_wf (s : State) (hs : s.inv fl) :
    Res.wf fl (execResume s) := by
  unfold execResume
  try dsimp only
  repeat' first
    | with_reducible assumption | with_reducible apply res_next | with_reducible exact res_fault | with_reducible exact res_refused
    | with_reducible apply barAccess_wf | with_reducible apply writeResume_wf

theorem execAbandon_wf (s : State) (hs : s.inv fl) :
    Res.wf fl (execAbandon s) := by
  unfold execAbandon
  try dsimp only
  repeat' first
    | with_reducible assumption | with_reducible apply res_next | with_reducible exact res_fault | with_reducible exact res_refused
    | with_reducible apply barAccess_wf | with_reducible apply writeAbandon_wf

theorem execMgmtRingEnable_wf (value : ℕ) (s : State) (hs : s.inv fl) :
    Res.wf fl (execMgmtRingEnable value s) := by
  unfold execMgmtRingEnable
  try dsimp only
  repeat' first
    | with_reducible assumption | with_reducible apply res_next | with_reducible exact res_fault | with_reducible exact res_refused
    | with_reducible apply barAccess_wf | with_reducible apply writeMring_wf

theorem execMgmtRingDisable_wf (value : ℕ) (s : State) (hs : s.inv fl) :
    Res.wf fl (execMgmtRingDisable value s) := by
  unfold execMgmtRingDisable
  try dsimp only
  repeat' first
    | with_reducible assumption | with_reducible apply res_next | with_reducible exact res_fault | with_reducible exact res_refused
    | with_reducible apply barAccess_wf | with_reducible apply writeMring_wf

theorem execDbSqWrite_wf (page : ℕ) (queue : ℕ) (value : ℕ) (s : State) (hs : s.inv fl) :
    Res.wf fl (execDbSqWrite page queue value s) := by
  unfold execDbSqWrite
  try dsimp only
  repeat' first
    | with_reducible assumption | with_reducible apply res_next | with_reducible exact res_fault | with_reducible exact res_refused
    | with_reducible apply barAccess_wf | with_reducible apply writeTail_wf | split

theorem execDbSrWrite_wf (page : ℕ) (value : ℕ) (s : State) (hs : s.inv fl) :
    Res.wf fl (execDbSrWrite page value s) := by
  unfold execDbSrWrite
  try dsimp only
  repeat' first
    | with_reducible assumption | with_reducible apply res_next | with_reducible exact res_fault | with_reducible exact res_refused
    | with_reducible apply barAccess_wf | with_reducible apply writeHead_wf | split

theorem winErrs_wf (cs : List WinCase) (s : State) (hs : s.inv fl) :
    (winErrs cs s).inv fl := by
  unfold winErrs
  try dsimp only
  repeat' first
    | with_reducible assumption | with_reducible apply glbErr_wf | split

theorem winReserved_wf (as : List ℕ) (s : State) (hs : s.inv fl) :
    (winReserved as s).inv fl := by
  unfold winReserved
  cases as.find? addrReserved with
  | none => exact hs
  | some a => exact addressFault_wf _ _ _ hs

theorem winCharge_wf (bad : List ℕ) (cor : List ℕ) (s : State) (hs : s.inv fl) :
    (winCharge bad cor s).inv fl := by
  unfold winCharge
  try dsimp only
  repeat' first
    | with_reducible assumption | with_reducible apply correctedWords_wf | with_reducible apply wordEvent_wf
    | (with_reducible refine foldl_wf ?_ ?_; intro _ _ _)

theorem execBar2Read_wf (off : ℕ) (size : ℕ) (s : State) (hs : s.inv fl) :
    Res.wf fl (execBar2Read off size s) := by
  unfold execBar2Read
  try dsimp only
  repeat' first
    | with_reducible assumption | with_reducible apply res_next | with_reducible exact res_fault | with_reducible exact res_refused
    | with_reducible apply winCharge_wf | with_reducible apply winReserved_wf | with_reducible apply winErrs_wf
    | with_reducible apply barAccess_wf | with_reducible apply settle_wf | split
    | (simp only [wf_mk]; with_reducible refine wf_parts ?_)

theorem execBar2Write_wf (off : ℕ) (data : List Byte) (s : State) (hs : s.inv fl) :
    Res.wf fl (execBar2Write off data s) := by
  unfold execBar2Write
  refine barAccess_wf hs ?_
  dsimp only
  split
  · exact hs
  · exact settle_wf _ (winReserved_wf _ _ (winErrs_wf _ _ (winCharge_wf _ _ _ (wf_of (foldl_memSet_wf _ _ _ _ (wf_mem (s := s) hs)) (wf_host (s := s) hs)
      (wf_ctxs (s := s) hs) (filter_wf _ _ (wf_words (s := s) hs)) (wf_dev (s := s) hs)))))

theorem execMsixEntryUnmask_wf (vector : Option ℕ) (s : State) (hs : s.inv fl) :
    Res.wf fl (execMsixEntryUnmask vector s) := by
  unfold execMsixEntryUnmask
  try dsimp only
  repeat' first
    | with_reducible assumption | with_reducible apply res_next | with_reducible exact res_fault | with_reducible exact res_refused
    | with_reducible apply barAccess_wf | with_reducible apply sendPending_wf
    | split | (simp only [wf_mk]; with_reducible refine wf_parts ?_)

theorem trainLink_wf (s : State) (hs : s.inv fl) :
    (trainLink s).inv fl := by
  unfold trainLink
  try dsimp only
  repeat' first
    | with_reducible assumption | with_reducible apply takeFree_wf | split
    | (simp only [wf_mk]; with_reducible refine wf_parts ?_)

theorem tryTrain_wf (s : State) (hs : s.inv fl) :
    (tryTrain s).inv fl := by
  unfold tryTrain
  try dsimp only
  repeat' first
    | with_reducible assumption | with_reducible apply trainLink_wf | split

theorem execLinkReset_wf (kind : LinkReset) (s : State) (hs : s.inv fl) :
    Res.wf fl (execLinkReset kind s) := by
  unfold execLinkReset
  try dsimp only
  repeat' first
    | with_reducible assumption | with_reducible apply res_next | with_reducible exact res_fault | with_reducible exact res_refused
    | with_reducible apply linkDown_wf | with_reducible apply resetConfigSpace_wf | with_reducible apply beginHold_wf
    | split | (simp only [wf_mk]; with_reducible refine wf_parts ?_)

theorem execD3hotEntry_wf (s : State) (hs : s.inv fl) :
    Res.wf fl (execD3hotEntry s) := by
  unfold execD3hotEntry
  try dsimp only
  repeat' first
    | with_reducible assumption | with_reducible apply res_next | with_reducible exact res_fault | with_reducible exact res_refused
    | with_reducible apply beginHold_wf | split
    | (simp only [wf_mk]; with_reducible refine wf_parts ?_)

theorem execD0Resume_wf (busMaster : Bool) (s : State) (hs : s.inv fl) :
    Res.wf fl (execD0Resume busMaster s) := by
  unfold execD0Resume
  try dsimp only
  repeat' first
    | with_reducible assumption | with_reducible apply res_next | with_reducible exact res_fault | with_reducible exact res_refused
    | with_reducible apply settleHold_wf | split
    | (simp only [wf_mk]; with_reducible refine wf_parts ?_)

theorem execBusMasterEnableSet_wf (s : State) (w : optParam CfgWrite { }) (hs : s.inv fl) :
    Res.wf fl (execBusMasterEnableSet s w) := by
  unfold execBusMasterEnableSet
  try dsimp only
  repeat' first
    | with_reducible assumption | with_reducible apply res_next | with_reducible exact res_fault | with_reducible exact res_refused
    | with_reducible apply tryTrain_wf | with_reducible apply settleHold_wf | split
    | (simp only [wf_mk]; with_reducible refine wf_parts ?_)

theorem execAtsInvalidation_wf (ctx : ℕ) (page : ℕ) (s : State) (hs : s.inv fl) :
    Res.wf fl (execAtsInvalidation ctx page s) := by
  unfold execAtsInvalidation
  try dsimp only
  repeat' first
    | with_reducible assumption | with_reducible apply res_next | with_reducible exact res_fault | with_reducible exact res_refused
    | split | (simp only [wf_mk]; with_reducible refine wf_parts ?_)

theorem readFailed_wf (k : ReadFail) (s : State) (hs : s.inv fl) :
    (readFailed k s).inv fl := by
  unfold readFailed
  try dsimp only
  repeat' first
    | with_reducible assumption | with_reducible apply glbErr_wf | split
    | (simp only [wf_mk]; with_reducible refine wf_parts ?_)

theorem execHostReadFailure_wf (ctx : ℕ) (kind : ReadFail) (what : ReadFor) (s : State) (hs : s.inv fl) :
    Res.wf fl (execHostReadFailure ctx kind what s) := by
  unfold execHostReadFailure
  try dsimp only
  repeat' first
    | with_reducible assumption | with_reducible apply res_next | with_reducible exact res_fault | with_reducible exact res_refused
    | with_reducible apply readFailed_wf | with_reducible apply stopCommand_wf | with_reducible apply workEnded_wf
    | with_reducible apply undefineDest_wf | with_reducible apply dropDma_wf | with_reducible apply ripcord_wf
    | with_reducible apply finishRun_wf | with_reducible apply complete_wf | split
    | (simp only [wf_mk]; with_reducible refine wf_parts ?_)

theorem execRootPortLinkDown_wf (s : State) (hs : s.inv fl) :
    Res.wf fl (execRootPortLinkDown s) := by
  unfold execRootPortLinkDown
  try dsimp only
  repeat' first
    | with_reducible assumption | with_reducible apply res_next | with_reducible exact res_fault | with_reducible exact res_refused
    | with_reducible apply settle_wf | with_reducible apply failCold_wf | with_reducible apply workEnded_wf
    | with_reducible apply chanEvent_wf | with_reducible apply glbEvent_wf | split
    | (simp only [wf_mk]; with_reducible refine wf_parts ?_)

theorem execRootPortRetrain_wf (up : Bool) (speed : ℕ) (width : ℕ) (s : State) (hs : s.inv fl) :
    Res.wf fl (execRootPortRetrain up speed width s) := by
  unfold execRootPortRetrain
  try dsimp only
  repeat' first
    | with_reducible assumption | with_reducible apply res_next | with_reducible exact res_fault | with_reducible exact res_refused
    | with_reducible apply glbEvent_wf | with_reducible apply elapseTo_wf | split
    | (simp only [wf_mk]; with_reducible refine wf_parts ?_)

end Sys2Proof.Machine
end

