-- ==== Sys2Proof/Laws/WfStolp.lean ====
section
/-! SUPPORT. Every operation and command of Machine/Stolp.lean keeps the canonical form of the tables: one lemma per function. -/

namespace Sys2Proof.Machine

variable {fl : Floors}

theorem endAtFetch_wf (p : Pkt) (f : Fail) (dup : Bool) (s : State) (hs : s.inv fl) :
    (endAtFetch p f dup s).inv fl := by
  unfold endAtFetch
  try dsimp only
  repeat' first
    | with_reducible assumption | with_reducible apply reject_wf | with_reducible apply logReject_wf | with_reducible apply recordTag_wf
    | with_reducible apply deliver_wf | split

theorem countFetch_wf (p : Pkt) (s : State) (hs : s.inv fl) :
    (countFetch p s).inv fl := by
  unfold countFetch
  try dsimp only
  repeat' first
    | with_reducible assumption | with_reducible apply modCtx_wf | split
    | (simp only [wf_mk]; with_reducible refine wf_parts ?_)

theorem fetchOne_wf (bad : Bool) (taken : Bool) (acc : Option ℕ × State) (p : Pkt) (hacc : acc.2.inv fl) :
    (fetchOne bad taken acc p).2.inv fl := by
  unfold fetchOne
  try dsimp only
  repeat' first
    | with_reducible assumption | with_reducible apply countFetch_wf | with_reducible apply endAtFetch_wf
    | split | (simp only [wf_mk]; with_reducible refine wf_parts ?_)

theorem fetchAll_wf (bad : Bool) (ps : List Pkt) (s : State) (hs : s.inv fl) :
    (fetchAll bad ps s).inv fl := by
  unfold fetchAll
  have key : ∀ (l : List Pkt) (a : Option ℕ × State), a.2.inv fl → (l.foldl (fetchOne bad false) a).2.inv fl := by
    intro l
    induction l with
    | nil => intro a h; exact h
    | cons y r ih => intro a h; exact ih _ (fetchOne_wf _ _ _ _ h)
  exact key _ _ hs

theorem fetchBad_wf (l : List Pkt) (s : State) (hs : s.inv fl) : (fetchBad l s).inv fl := by
  induction l generalizing s with
  | nil => exact hs
  | cons p r ih =>
    unfold fetchBad
    split
    · exact ih _ (modCtx_wf _ _ _ (fetchAll_wf _ _ _ hs))
    · exact modCtx_wf _ _ _ hs

theorem ringPut_wf (s : State) (h : ℕ) (q : Queue) (i : ℕ) (bs : List Byte) (hs : s.inv fl) :
    (ringPut s h q i bs).inv fl := by
  unfold ringPut
  refine foldl_wf (fun t k ht => ?_) hs
  exact wf_of (wf_mem (s := t) ht) (memWrite_wf _ _ _ (wf_host (s := t) ht)) (wf_ctxs (s := t) ht) (wf_words (s := t) ht) (wf_dev (s := t) ht)

theorem execPacketFetch_wf (p : Pkt) (chain : List Pkt) (s : State) (hs : s.inv fl) :
    Res.wf fl (execPacketFetch p chain s) := by
  unfold execPacketFetch
  try dsimp only
  repeat' first
    | with_reducible assumption | with_reducible apply res_next | with_reducible exact res_fault | with_reducible exact res_refused
    | with_reducible apply ringPut_wf | with_reducible apply fetchBad_wf | with_reducible apply fetchAll_wf
    | with_reducible apply modCtx_wf | split

theorem modFlight_wf (p : Pkt) (g : Flight → Flight) (s : State) (hs : s.inv fl) :
    (modFlight p g s).inv fl := by
  unfold modFlight
  try dsimp only
  repeat' first
    | with_reducible assumption | split
    | (simp only [wf_mk]; with_reducible refine wf_parts ?_)

theorem endDependent_wf (p : Pkt) (s : State) (hs : s.inv fl) :
    (endDependent p s).inv fl := by
  unfold endDependent
  try dsimp only
  repeat' first
    | with_reducible assumption | with_reducible apply reject_wf | with_reducible apply modCtx_wf

theorem endMember_wf (f : Flight) (s : State) (hs : s.inv fl) :
    (endMember f s).inv fl := by
  unfold endMember
  try dsimp only
  repeat' first
    | with_reducible assumption | with_reducible apply reject_wf | split
    | (simp only [wf_mk]; with_reducible refine wf_parts ?_)

theorem execPacketDispatch_wf (ctx : ℕ) (tag : ℕ) (s : State) (hs : s.inv fl) :
    Res.wf fl (execPacketDispatch ctx tag s) := by
  unfold execPacketDispatch
  try dsimp only
  repeat' first
    | with_reducible assumption | with_reducible apply res_next | with_reducible exact res_fault | with_reducible exact res_refused
    | with_reducible apply endMember_wf | with_reducible apply endDependent_wf | with_reducible apply modFlight_wf
    | with_reducible apply reject_wf | split

theorem execDependencyTimeout_wf (ctx : ℕ) (tag : ℕ) (s : State) (hs : s.inv fl) :
    Res.wf fl (execDependencyTimeout ctx tag s) := by
  unfold execDependencyTimeout
  try dsimp only
  repeat' first
    | with_reducible assumption | with_reducible apply res_next | with_reducible exact res_fault | with_reducible exact res_refused
    | with_reducible apply endDependent_wf | with_reducible apply elapseTo_wf
    | split

theorem discard_wf (s : State) (hs : s.inv fl) :
    (discard s).inv fl := by
  unfold discard
  try dsimp only
  repeat' first
    | with_reducible assumption | with_reducible apply modCtx_wf

theorem sendCredit_wf (id : ℕ) (s : State) (hs : s.inv fl) :
    (sendCredit id s).inv fl := by
  unfold sendCredit
  try dsimp only
  repeat' first
    | with_reducible assumption | with_reducible apply sendSess_wf | split

theorem noteDgram_wf (id : ℕ) (n : ℕ) (s : State) (hs : s.inv fl) :
    (noteDgram id n s).inv fl := by
  unfold noteDgram
  try dsimp only
  repeat' first
    | with_reducible assumption | with_reducible apply closeSession_wf | split
    | (simp only [wf_mk]; with_reducible refine wf_parts ?_)

theorem execStolpHello_wf (d : Dgram) (s : State) (hs : s.inv fl) :
    Res.wf fl (execStolpHello d s) := by
  unfold execStolpHello
  try dsimp only
  repeat' first
    | with_reducible assumption | with_reducible apply res_next | with_reducible exact res_fault | with_reducible exact res_refused
    | with_reducible apply discard_wf | split
    | (simp only [wf_mk]; with_reducible refine wf_parts ?_)

theorem execStolpFinish_wf (d : Dgram) (s : State) (hs : s.inv fl) :
    Res.wf fl (execStolpFinish d s) := by
  unfold execStolpFinish
  try dsimp only
  repeat' first
    | with_reducible assumption | with_reducible apply res_next | with_reducible exact res_fault | with_reducible exact res_refused
    | with_reducible apply sendCredit_wf | with_reducible apply discard_wf | split
    | (simp only [wf_mk]; with_reducible refine wf_parts ?_)

theorem resend_wf (id : ℕ) (r : Reply) (s : State) (hs : s.inv fl) :
    (resend id r s).inv fl := by
  unfold resend
  try dsimp only
  repeat' first
    | with_reducible assumption | with_reducible apply sendSess_wf

theorem fetchNet_wf (bad : Bool) (taken : List ℕ) (ps : List Pkt) (s : State) (hs : s.inv fl) :
    (fetchNet bad taken ps s).inv fl := by
  unfold fetchNet
  exact foldl_inv (P := fun x : Option ℕ × State => x.2.inv fl) (fun c a h => fetchOne_wf _ _ _ _ h) hs

theorem netTake_wf (taken : Bool) (p : Pkt) (s : State) (hs : s.inv fl) :
    (netTake taken p s).inv fl := by
  unfold netTake
  try dsimp only
  repeat' first
    | with_reducible assumption | with_reducible apply fetchNet_wf | with_reducible apply modCtx_wf
    | split

theorem netPacket_wf (id : ℕ) (b : List Byte) (s : State) (hs : s.inv fl) :
    (netPacket id b s).2.inv fl := by
  unfold netPacket
  try dsimp only
  repeat' first
    | with_reducible assumption | with_reducible apply netTake_wf | with_reducible apply resend_wf
    | split

theorem execStolpData_wf (d : Dgram) (s : State) (hs : s.inv fl) :
    Res.wf fl (execStolpData d s) := by
  unfold execStolpData
  dsimp only
  repeat' first
    | with_reducible assumption | with_reducible apply res_next | with_reducible exact res_fault | with_reducible apply discard_wf
    | with_reducible apply sendCredit_wf | with_reducible apply netPacket_wf | with_reducible apply noteDgram_wf
    | (with_reducible refine foldl2_wf ?_ ?_; intro _ _ _ _) | split

theorem execStolpClose_wf (d : Dgram) (s : State) (hs : s.inv fl) :
    Res.wf fl (execStolpClose d s) := by
  unfold execStolpClose
  try dsimp only
  repeat' first
    | with_reducible assumption | with_reducible apply res_next | with_reducible exact res_fault | with_reducible exact res_refused
    | with_reducible apply discard_wf | with_reducible apply closeSession_wf | split

theorem execHandshakeTimeout_wf (session : ℕ) (s : State) (hs : s.inv fl) :
    Res.wf fl (execHandshakeTimeout session s) := by
  unfold execHandshakeTimeout
  try dsimp only
  repeat' first
    | with_reducible assumption | with_reducible apply res_next | with_reducible exact res_fault | with_reducible exact res_refused
    | with_reducible apply elapseTo_wf | split
    | (simp only [wf_mk]; with_reducible refine wf_parts ?_)

theorem execSessionIdleTimeout_wf (session : ℕ) (s : State) (hs : s.inv fl) :
    Res.wf fl (execSessionIdleTimeout session s) := by
  unfold execSessionIdleTimeout
  try dsimp only
  repeat' first
    | with_reducible assumption | with_reducible apply res_next | with_reducible exact res_fault | with_reducible exact res_refused
    | with_reducible apply sendSess_wf | with_reducible apply closeSession_wf | with_reducible apply elapseTo_wf
    | split

theorem execCreditTimer_wf (session : ℕ) (s : State) (hs : s.inv fl) :
    Res.wf fl (execCreditTimer session s) := by
  unfold execCreditTimer
  try dsimp only
  repeat' first
    | with_reducible assumption | with_reducible apply res_next | with_reducible exact res_fault | with_reducible exact res_refused
    | with_reducible apply sendCredit_wf | split

theorem execReplyBatchTimeout_wf (session : ℕ) (s : State) (hs : s.inv fl) :
    Res.wf fl (execReplyBatchTimeout session s) := by
  unfold execReplyBatchTimeout
  try dsimp only
  repeat' first
    | with_reducible assumption | with_reducible apply res_next | with_reducible exact res_fault | with_reducible exact res_refused
    | with_reducible apply flushBatch_wf

theorem execDevNop_wf (p : Pkt) (s : State) (hs : s.inv fl) :
    Res.wf fl (execDevNop p s) := by
  unfold execDevNop
  try dsimp only
  repeat' first
    | with_reducible assumption | with_reducible apply res_next | with_reducible exact res_fault | with_reducible exact res_refused
    | with_reducible apply runCmd_wf | with_reducible apply completeOk_wf

theorem actDevInfo_wf (p : Pkt) (s : State) (hs : s.inv fl) :
    (actDevInfo p s).inv fl := by
  unfold actDevInfo
  try dsimp only
  repeat' first
    | with_reducible assumption | with_reducible apply completeOk_wf | with_reducible apply vwrite_wf
    | split

theorem execDevInfo_wf (p : Pkt) (s : State) (hs : s.inv fl) :
    Res.wf fl (execDevInfo p s) := by
  unfold execDevInfo
  try dsimp only
  repeat' first
    | with_reducible assumption | with_reducible apply res_next | with_reducible exact res_fault | with_reducible exact res_refused
    | with_reducible apply actDevInfo_wf | with_reducible apply runHost_wf

theorem actDevStats_wf (p : Pkt) (s : State) (hs : s.inv fl) :
    (actDevStats p s).inv fl := by
  unfold actDevStats
  try dsimp only
  repeat' first
    | with_reducible assumption | with_reducible apply completeOk_wf | with_reducible apply modCtx_wf
    | split

theorem execDevStats_wf (p : Pkt) (s : State) (hs : s.inv fl) :
    Res.wf fl (execDevStats p s) := by
  unfold execDevStats
  try dsimp only
  repeat' first
    | with_reducible assumption | with_reducible apply res_next | with_reducible exact res_fault | with_reducible exact res_refused
    | with_reducible apply actDevStats_wf | with_reducible apply runCmd_wf

theorem actDevRejectLog_wf (p : Pkt) (s : State) (hs : s.inv fl) :
    (actDevRejectLog p s).inv fl := by
  unfold actDevRejectLog
  try dsimp only
  repeat' first
    | with_reducible assumption | with_reducible apply completeOk_wf | with_reducible apply vwrite_wf | with_reducible apply modCtx_wf

theorem execDevRejectLog_wf (p : Pkt) (s : State) (hs : s.inv fl) :
    Res.wf fl (execDevRejectLog p s) := by
  unfold execDevRejectLog
  try dsimp only
  repeat' first
    | with_reducible assumption | with_reducible apply res_next | with_reducible exact res_fault | with_reducible exact res_refused
    | with_reducible apply actDevRejectLog_wf | with_reducible apply runHost_wf

theorem actDevReset_wf (p : Pkt) (s : State) (hs : s.inv fl) :
    (actDevReset p s).inv fl := by
  unfold actDevReset
  try dsimp only
  repeat' first
    | with_reducible assumption | with_reducible apply workEnded_wf | with_reducible apply completeOk_wf
    | split | (simp only [wf_mk]; with_reducible refine wf_parts ?_)

theorem execDevReset_wf (p : Pkt) (s : State) (hs : s.inv fl) :
    Res.wf fl (execDevReset p s) := by
  unfold execDevReset
  try dsimp only
  repeat' first
    | with_reducible assumption | with_reducible apply res_next | with_reducible exact res_fault | with_reducible exact res_refused
    | with_reducible apply actDevReset_wf | with_reducible apply runCmd_wf

theorem execDevResetGraceEnd_wf (_p : Pkt) (s : State) (hs : s.inv fl) :
    Res.wf fl (execDevResetGraceEnd _p s) := by
  unfold execDevResetGraceEnd
  try dsimp only
  repeat' first
    | with_reducible assumption | with_reducible apply res_next | with_reducible exact res_fault | with_reducible exact res_refused
    | with_reducible apply finishReset_wf | with_reducible apply elapseTo_wf | split

theorem actDevKeyEnroll_wf (p : Pkt) (s : State) (hs : s.inv fl) :
    (actDevKeyEnroll p s).inv fl := by
  unfold actDevKeyEnroll
  try dsimp only
  repeat' first
    | with_reducible assumption | with_reducible apply readWords_wf | with_reducible apply completeOk_wf
    | split | (simp only [wf_mk]; with_reducible refine wf_parts ?_)

theorem execDevKeyEnroll_wf (p : Pkt) (s : State) (hs : s.inv fl) :
    Res.wf fl (execDevKeyEnroll p s) := by
  unfold execDevKeyEnroll
  try dsimp only
  repeat' first
    | with_reducible assumption | with_reducible apply res_next | with_reducible exact res_fault | with_reducible exact res_refused
    | with_reducible apply actDevKeyEnroll_wf | with_reducible apply runHost_wf

theorem actDevKeyRevoke_wf (p : Pkt) (s : State) (hs : s.inv fl) :
    (actDevKeyRevoke p s).inv fl := by
  unfold actDevKeyRevoke
  try dsimp only
  repeat' first
    | with_reducible assumption | with_reducible apply completeOk_wf | with_reducible apply closeSession_wf
    | (with_reducible refine foldl_wf ?_ ?_; intro _ _ _) | split | (simp only [wf_mk]; with_reducible refine wf_parts ?_)

theorem execDevKeyRevoke_wf (p : Pkt) (s : State) (hs : s.inv fl) :
    Res.wf fl (execDevKeyRevoke p s) := by
  unfold execDevKeyRevoke
  try dsimp only
  repeat' first
    | with_reducible assumption | with_reducible apply res_next | with_reducible exact res_fault | with_reducible exact res_refused
    | with_reducible apply actDevKeyRevoke_wf | with_reducible apply runCmd_wf

theorem actDevKeyList_wf (p : Pkt) (s : State) (hs : s.inv fl) :
    (actDevKeyList p s).inv fl := by
  unfold actDevKeyList
  try dsimp only
  repeat' first
    | with_reducible assumption | with_reducible apply completeOk_wf | with_reducible apply vwrite_wf

theorem execDevKeyList_wf (p : Pkt) (s : State) (hs : s.inv fl) :
    Res.wf fl (execDevKeyList p s) := by
  unfold execDevKeyList
  try dsimp only
  repeat' first
    | with_reducible assumption | with_reducible apply res_next | with_reducible exact res_fault | with_reducible exact res_refused
    | with_reducible apply actDevKeyList_wf | with_reducible apply runHost_wf

theorem actDevNetConfig_wf (p : Pkt) (s : State) (hs : s.inv fl) :
    (actDevNetConfig p s).inv fl := by
  unfold actDevNetConfig
  try dsimp only
  repeat' first
    | with_reducible assumption | with_reducible apply closePort_wf | with_reducible apply completeOk_wf
    | with_reducible apply flushBatch_wf | (with_reducible refine foldl_wf ?_ ?_; intro _ _ _) | split
    | (simp only [wf_mk]; with_reducible refine wf_parts ?_)

theorem execDevNetConfig_wf (p : Pkt) (s : State) (hs : s.inv fl) :
    Res.wf fl (execDevNetConfig p s) := by
  unfold execDevNetConfig
  try dsimp only
  repeat' first
    | with_reducible assumption | with_reducible apply res_next | with_reducible exact res_fault | with_reducible exact res_refused
    | with_reducible apply actDevNetConfig_wf | with_reducible apply runCmd_wf

theorem actDevSessions_wf (p : Pkt) (s : State) (hs : s.inv fl) :
    (actDevSessions p s).inv fl := by
  unfold actDevSessions
  try dsimp only
  repeat' first
    | with_reducible assumption | with_reducible apply completeOk_wf | with_reducible apply vwrite_wf

theorem execDevSessions_wf (p : Pkt) (s : State) (hs : s.inv fl) :
    Res.wf fl (execDevSessions p s) := by
  unfold execDevSessions
  try dsimp only
  repeat' first
    | with_reducible assumption | with_reducible apply res_next | with_reducible exact res_fault | with_reducible exact res_refused
    | with_reducible apply actDevSessions_wf | with_reducible apply runHost_wf

theorem actDevSessionClose_wf (p : Pkt) (s : State) (hs : s.inv fl) :
    (actDevSessionClose p s).inv fl := by
  unfold actDevSessionClose
  try dsimp only
  repeat' first
    | with_reducible assumption | with_reducible apply completeOk_wf | with_reducible apply flushBatch_wf
    | with_reducible apply sendSess_wf | with_reducible apply closeSession_wf
    | split

theorem execDevSessionClose_wf (p : Pkt) (s : State) (hs : s.inv fl) :
    Res.wf fl (execDevSessionClose p s) := by
  unfold execDevSessionClose
  try dsimp only
  repeat' first
    | with_reducible assumption | with_reducible apply res_next | with_reducible exact res_fault | with_reducible exact res_refused
    | with_reducible apply actDevSessionClose_wf | with_reducible apply runCmd_wf

end Sys2Proof.Machine
end

