-- ==== Sys2Proof/Laws/WfCascade.lean ====
section
/-! SUPPORT. Every operation and command of Machine/Cascade.lean keeps the canonical form of the tables: one lemma per function. -/

namespace Sys2Proof.Machine

variable {fl : Floors}

theorem actCascQuery_wf (p : Pkt) (s : State) (hs : s.inv fl) :
    (actCascQuery p s).inv fl := by
  unfold actCascQuery
  try dsimp only
  repeat' first
    | with_reducible assumption | with_reducible apply completeOk_wf

theorem execCascQuery_wf (p : Pkt) (s : State) (hs : s.inv fl) :
    Res.wf fl (execCascQuery p s) := by
  unfold execCascQuery
  try dsimp only
  repeat' first
    | with_reducible assumption | with_reducible apply res_next | with_reducible exact res_fault | with_reducible exact res_refused
    | with_reducible apply actCascQuery_wf | with_reducible apply runCmd_wf

theorem actCascSetSource_wf (p : Pkt) (s : State) (hs : s.inv fl) :
    (actCascSetSource p s).inv fl := by
  unfold actCascSetSource
  try dsimp only
  repeat' first
    | with_reducible assumption | with_reducible apply completeOk_wf | split
    | (simp only [wf_mk]; with_reducible refine wf_parts ?_)

theorem execCascSetSource_wf (p : Pkt) (s : State) (hs : s.inv fl) :
    Res.wf fl (execCascSetSource p s) := by
  unfold execCascSetSource
  try dsimp only
  repeat' first
    | with_reducible assumption | with_reducible apply res_next | with_reducible exact res_fault | with_reducible exact res_refused
    | with_reducible apply actCascSetSource_wf | with_reducible apply runCmd_wf

theorem actCascBind_wf (p : Pkt) (s : State) (hs : s.inv fl) :
    (actCascBind p s).inv fl := by
  unfold actCascBind
  try dsimp only
  repeat' first
    | with_reducible assumption | with_reducible apply copyPlan_wf | with_reducible apply completeOk_wf
    | split | (simp only [wf_mk]; with_reducible refine wf_parts ?_)

theorem execCascBind_wf (p : Pkt) (s : State) (hs : s.inv fl) :
    Res.wf fl (execCascBind p s) := by
  unfold execCascBind
  try dsimp only
  repeat' first
    | with_reducible assumption | with_reducible apply res_next | with_reducible exact res_fault | with_reducible exact res_refused
    | with_reducible apply actCascBind_wf | with_reducible apply runHost_wf

theorem actCascSetHold_wf (p : Pkt) (s : State) (hs : s.inv fl) :
    (actCascSetHold p s).inv fl := by
  unfold actCascSetHold
  try dsimp only
  repeat' first
    | with_reducible assumption | with_reducible apply completeOk_wf | split
    | (simp only [wf_mk]; with_reducible refine wf_parts ?_)

theorem execCascSetHold_wf (p : Pkt) (s : State) (hs : s.inv fl) :
    Res.wf fl (execCascSetHold p s) := by
  unfold execCascSetHold
  try dsimp only
  repeat' first
    | with_reducible assumption | with_reducible apply res_next | with_reducible exact res_fault | with_reducible exact res_refused
    | with_reducible apply actCascSetHold_wf | with_reducible apply runCmd_wf

theorem actCascLift_wf (p : Pkt) (s : State) (hs : s.inv fl) :
    (actCascLift p s).inv fl := by
  unfold actCascLift
  try dsimp only
  repeat' first
    | with_reducible assumption | with_reducible apply raiseLift_wf | with_reducible apply complete_wf

theorem execCascLift_wf (p : Pkt) (s : State) (hs : s.inv fl) :
    Res.wf fl (execCascLift p s) := by
  unfold execCascLift
  try dsimp only
  repeat' first
    | with_reducible assumption | with_reducible apply res_next | with_reducible exact res_fault | with_reducible exact res_refused
    | with_reducible apply actCascLift_wf | with_reducible apply runCmd_wf

theorem actCascBallast_wf (p : Pkt) (s : State) (hs : s.inv fl) :
    (actCascBallast p s).inv fl := by
  unfold actCascBallast
  try dsimp only
  repeat' first
    | with_reducible assumption | with_reducible apply workEnded_wf | with_reducible apply releaseTier_wf
    | with_reducible apply boundaries_wf | with_reducible apply completeOk_wf | (with_reducible refine foldl_wf ?_ ?_; intro _ _ _)

theorem execCascBallast_wf (p : Pkt) (s : State) (hs : s.inv fl) :
    Res.wf fl (execCascBallast p s) := by
  unfold execCascBallast
  try dsimp only
  repeat' first
    | with_reducible assumption | with_reducible apply res_next | with_reducible exact res_fault | with_reducible exact res_refused
    | with_reducible apply actCascBallast_wf | with_reducible apply runCmd_wf

theorem actCascReadLog_wf (p : Pkt) (s : State) (hs : s.inv fl) :
    (actCascReadLog p s).inv fl := by
  unfold actCascReadLog
  try dsimp only
  repeat' first
    | with_reducible assumption | with_reducible apply completeOk_wf | with_reducible apply vwrite_wf

theorem execCascReadLog_wf (p : Pkt) (s : State) (hs : s.inv fl) :
    Res.wf fl (execCascReadLog p s) := by
  unfold execCascReadLog
  try dsimp only
  repeat' first
    | with_reducible assumption | with_reducible apply res_next | with_reducible exact res_fault | with_reducible exact res_refused
    | with_reducible apply actCascReadLog_wf | with_reducible apply runHost_wf

theorem actCascCounters_wf (p : Pkt) (s : State) (hs : s.inv fl) :
    (actCascCounters p s).inv fl := by
  unfold actCascCounters
  try dsimp only
  repeat' first
    | with_reducible assumption | with_reducible apply completeOk_wf | split
    | (simp only [wf_mk]; with_reducible refine wf_parts ?_)

theorem execCascCounters_wf (p : Pkt) (s : State) (hs : s.inv fl) :
    Res.wf fl (execCascCounters p s) := by
  unfold execCascCounters
  try dsimp only
  repeat' first
    | with_reducible assumption | with_reducible apply res_next | with_reducible exact res_fault | with_reducible exact res_refused
    | with_reducible apply actCascCounters_wf | with_reducible apply runCmd_wf

theorem actCascSetTimer_wf (p : Pkt) (s : State) (hs : s.inv fl) :
    (actCascSetTimer p s).inv fl := by
  unfold actCascSetTimer
  try dsimp only
  repeat' first
    | with_reducible assumption | with_reducible apply completeOk_wf | split
    | (simp only [wf_mk]; with_reducible refine wf_parts ?_)

theorem execCascSetTimer_wf (p : Pkt) (s : State) (hs : s.inv fl) :
    Res.wf fl (execCascSetTimer p s) := by
  unfold execCascSetTimer
  try dsimp only
  repeat' first
    | with_reducible assumption | with_reducible apply res_next | with_reducible exact res_fault | with_reducible exact res_refused
    | with_reducible apply actCascSetTimer_wf | with_reducible apply runCmd_wf

theorem actCascReadReel_wf (p : Pkt) (s : State) (hs : s.inv fl) :
    (actCascReadReel p s).inv fl := by
  unfold actCascReadReel
  try dsimp only
  repeat' first
    | with_reducible assumption | with_reducible apply handOn_wf | split
    | (simp only [wf_mk]; with_reducible refine wf_parts ?_)

theorem execCascReadReel_wf (p : Pkt) (s : State) (hs : s.inv fl) :
    Res.wf fl (execCascReadReel p s) := by
  unfold execCascReadReel
  try dsimp only
  repeat' first
    | with_reducible assumption | with_reducible apply res_next | with_reducible exact res_fault | with_reducible exact res_refused
    | with_reducible apply actCascReadReel_wf | with_reducible apply runCmd_wf

theorem execReelReaderCopyComplete_wf (s : State) (hs : s.inv fl) :
    Res.wf fl (execReelReaderCopyComplete s) := by
  unfold execReelReaderCopyComplete
  try dsimp only
  repeat' first
    | with_reducible assumption | with_reducible apply res_next | with_reducible exact res_fault | with_reducible exact res_refused
    | with_reducible apply workEnded_wf | with_reducible apply hostWait_wf | with_reducible apply completeOk_wf
    | with_reducible apply vwrite_wf | split
    | (simp only [wf_mk]; with_reducible refine wf_parts ?_)

theorem nextLift_wf (k : ℕ) (first : Bool) (s : State) (hs : s.inv fl) :
    (nextLift k first s).2.inv fl := by
  unfold nextLift
  try dsimp only
  repeat' first
    | with_reducible assumption | with_reducible apply modTier_wf | split

theorem supplyItem_wf (k : ℕ) (block : Option ℕ) (bs : List Byte) (s : State) (hs : s.inv fl) :
    (supplyItem k block bs s).inv fl := by
  unfold supplyItem
  try dsimp only
  repeat' first
    | with_reducible assumption | with_reducible apply nextLift_wf | with_reducible apply boundary_wf | with_reducible apply enterTier_wf
    | with_reducible apply modRun_wf | with_reducible apply vwrite_wf | split

theorem supplyFrames_wf (k : ℕ) (s : State) (hs : s.inv fl) :
    (supplyFrames k s).inv fl := by
  unfold supplyFrames
  try dsimp only
  repeat' first
    | with_reducible assumption | with_reducible apply supplyItem_wf | with_reducible apply modTier_wf
    | (with_reducible refine foldl_wf ?_ ?_; intro _ _ _) | split

theorem execReelReaderSupply_wf (k : ℕ) (s : State) (hs : s.inv fl) :
    Res.wf fl (execReelReaderSupply k s) := by
  unfold execReelReaderSupply
  try dsimp only
  repeat' first
    | with_reducible assumption | with_reducible apply res_next | with_reducible exact res_fault | with_reducible exact res_refused
    | with_reducible apply supplyItem_wf | split
    | (simp only [wf_mk]; with_reducible refine wf_parts ?_)

theorem takeSource_wf (i : ℕ) (s : State) (hs : s.inv fl) :
    (takeSource i s).inv fl := by
  unfold takeSource
  try dsimp only
  repeat' first
    | with_reducible assumption | split
    | (simp only [wf_mk]; with_reducible refine wf_parts ?_)

theorem execReelSourceHandover_wf (s : State) (hs : s.inv fl) :
    Res.wf fl (execReelSourceHandover s) := by
  unfold execReelSourceHandover
  try dsimp only
  repeat' first
    | with_reducible assumption | with_reducible apply res_next | with_reducible exact res_fault | with_reducible exact res_refused
    | with_reducible apply takeSource_wf

theorem execEnergyGateDecision_wf (level : ℕ) (s : State) (hs : s.inv fl) :
    Res.wf fl (execEnergyGateDecision level s) := by
  unfold execEnergyGateDecision
  try dsimp only
  repeat' first
    | with_reducible assumption | with_reducible apply res_next | with_reducible exact res_fault | with_reducible exact res_refused
    | with_reducible apply wakeTo_wf | split
    | (simp only [wf_mk]; with_reducible refine wf_parts ?_)

theorem detectorLift_wf (reason : ℕ) (score : ℕ) (trigger : ℕ) (base : ℤ) (frame : ℕ) (s : State) (hs : s.inv fl) :
    (detectorLift reason score trigger base frame s).inv fl := by
  unfold detectorLift
  try dsimp only
  repeat' first
    | with_reducible assumption | with_reducible apply raiseLift_wf

theorem unrefract_wf (key : ℕ) (score : ℕ) (pre : ℕ) (s : State) (hs : s.inv fl) :
    (unrefract key score pre s).inv fl := by
  unfold unrefract
  try dsimp only
  repeat' first
    | with_reducible assumption | split
    | (simp only [wf_mk]; with_reducible refine wf_parts ?_)

theorem decide__wf (source reason score : ℕ) (lift : State → State) (s : State) (hl : ∀ t, t.inv fl → (lift t).inv fl) (hs : s.inv fl) :
    (decide_ source reason score lift s).inv fl := by
  unfold decide_
  dsimp only
  repeat' first
    | with_reducible assumption | with_reducible apply hl | with_reducible apply raiseUpdraft_wf | with_reducible apply unrefract_wf
    | split | (simp only [wf_mk]; with_reducible refine wf_parts ?_)

theorem execDetectorDecision_wf (reason : ℕ) (score : ℕ) (input : List Byte) (trigger : ℕ) (frame : ℕ) (s : State) (hs : s.inv fl) :
    Res.wf fl (execDetectorDecision reason score input trigger frame s) := by
  unfold execDetectorDecision
  try dsimp only
  repeat' first
    | with_reducible assumption | with_reducible apply res_next | with_reducible exact res_fault | with_reducible exact res_refused
    | with_reducible apply decide__wf | with_reducible apply detectorLift_wf | split
    | (simp only [wf_mk]; with_reducible refine wf_parts ?_)

theorem execSampleHoldEnd_wf (s : State) (hs : s.inv fl) :
    Res.wf fl (execSampleHoldEnd s) := by
  unfold execSampleHoldEnd
  try dsimp only
  repeat' first
    | with_reducible assumption | with_reducible apply res_next | with_reducible exact res_fault | with_reducible exact res_refused
    | with_reducible apply elapseTo_wf | split
    | (simp only [wf_mk]; with_reducible refine wf_parts ?_)

theorem execUpdraftWindowEnd_wf (k : ℕ) (s : State) (hs : s.inv fl) :
    Res.wf fl (execUpdraftWindowEnd k s) := by
  unfold execUpdraftWindowEnd
  try dsimp only
  repeat' first
    | with_reducible assumption | with_reducible apply res_next | with_reducible exact res_fault | with_reducible exact res_refused
    | with_reducible apply fallTier_wf | with_reducible apply ignoreTier_wf | with_reducible apply elapseTo_wf
    | split

theorem execWarmUpComplete_wf (k : ℕ) (s0 : State) (hs0 : s0.inv fl) :
    Res.wf fl (execWarmUpComplete k s0) := by
  unfold execWarmUpComplete
  try dsimp only
  repeat' first
    | with_reducible assumption | with_reducible apply res_next | with_reducible exact res_fault | with_reducible exact res_refused
    | with_reducible apply armTier_wf | with_reducible apply ballast_wf | with_reducible apply ignoreTier_wf
    | with_reducible apply enterTier_wf | with_reducible apply modTier_wf | with_reducible apply elapseTo_wf
    | split

theorem execArmingComplete_wf (k : ℕ) (s : State) (hs : s.inv fl) :
    Res.wf fl (execArmingComplete k s) := by
  unfold execArmingComplete
  try dsimp only
  repeat' first
    | with_reducible assumption | with_reducible apply res_next | with_reducible exact res_fault | with_reducible exact res_refused
    | with_reducible apply supplyFrames_wf | with_reducible apply ignoreTier_wf | with_reducible apply enterTier_wf
    | with_reducible apply elapseTo_wf | split

theorem execIdleHoldEnd_wf (k : ℕ) (s : State) (hs : s.inv fl) :
    Res.wf fl (execIdleHoldEnd k s) := by
  unfold execIdleHoldEnd
  try dsimp only
  repeat' first
    | with_reducible assumption | with_reducible apply res_next | with_reducible exact res_fault | with_reducible exact res_refused
    | with_reducible apply workEnded_wf | with_reducible apply ballast_wf | with_reducible apply ignoreTier_wf
    | with_reducible apply boundaries_wf | with_reducible apply elapseTo_wf | split

theorem serveHeld_wf (k : ℕ) (l : LiftRec) (s : State) (hs : s.inv fl) :
    (serveHeld k l s).inv fl := by
  unfold serveHeld
  try dsimp only
  repeat' first
    | with_reducible assumption | with_reducible apply tierLift_wf | split
    | (simp only [wf_mk]; with_reducible refine wf_parts ?_)

theorem restDram_wf (k : ℕ) (s : State) (hs : s.inv fl) :
    (restDram k s).inv fl := by
  unfold restDram
  try dsimp only
  repeat' first
    | with_reducible assumption | split
    | (simp only [wf_mk]; with_reducible refine wf_parts ?_)

theorem execTierPowerDownComplete_wf (k : ℕ) (s0 : State) (hs0 : s0.inv fl) :
    Res.wf fl (execTierPowerDownComplete k s0) := by
  unfold execTierPowerDownComplete
  try dsimp only
  repeat' first
    | with_reducible assumption | with_reducible apply res_next | with_reducible exact res_fault | with_reducible exact res_refused
    | with_reducible apply restDram_wf | with_reducible apply serveHeld_wf | with_reducible apply ignoreTier_wf
    | with_reducible apply enterTier_wf | with_reducible apply settlePower_wf | with_reducible apply elapseTo_wf
    | (with_reducible refine foldl_wf ?_ ?_; intro _ _ _) | split

theorem plainLift_wf (reason : ℕ) (aux : ℕ) (s : State) (hs : s.inv fl) :
    (plainLift reason aux s).inv fl := by
  unfold plainLift
  try dsimp only
  repeat' first
    | with_reducible assumption | with_reducible apply raiseLift_wf

theorem execRtcAlarm_wf (s : State) (hs : s.inv fl) :
    Res.wf fl (execRtcAlarm s) := by
  unfold execRtcAlarm
  try dsimp only
  repeat' first
    | with_reducible assumption | with_reducible apply res_next | with_reducible exact res_fault | with_reducible exact res_refused
    | with_reducible apply plainLift_wf | with_reducible apply elapseTo_wf | split
    | (simp only [wf_mk]; with_reducible refine wf_parts ?_)

theorem execAonGpioEdge_wf (pin : ℕ) (level : Bool) (s : State) (hs : s.inv fl) :
    Res.wf fl (execAonGpioEdge pin level s) := by
  unfold execAonGpioEdge
  try dsimp only
  repeat' first
    | with_reducible assumption | with_reducible apply res_next | with_reducible exact res_fault | with_reducible exact res_refused
    | with_reducible apply plainLift_wf | with_reducible apply wakeTo_wf | split
    | (simp only [wf_mk]; with_reducible refine wf_parts ?_)

end Sys2Proof.Machine
end

