-- ==== Sys2Proof/Laws/WfKv.lean ====
section
/-! SUPPORT. Every operation and command of Machine/Kv.lean keeps the canonical form of the tables: one lemma per function. -/

namespace Sys2Proof.Machine

variable {fl : Floors}

theorem actKvPoolCreate_wf (p : Pkt) (s : State) (hs : s.inv fl) :
    (actKvPoolCreate p s).inv fl := by
  unfold actKvPoolCreate
  try dsimp only
  repeat' first
    | with_reducible assumption | with_reducible apply allocFrames_wf | with_reducible apply completeOk_wf
    | split | (simp only [wf_mk]; with_reducible refine wf_parts ?_)

theorem execKvPoolCreate_wf (p : Pkt) (s : State) (hs : s.inv fl) :
    Res.wf fl (execKvPoolCreate p s) := by
  unfold execKvPoolCreate
  try dsimp only
  repeat' first
    | with_reducible assumption | with_reducible apply res_next | with_reducible exact res_fault | with_reducible exact res_refused
    | with_reducible apply actKvPoolCreate_wf | with_reducible apply runCmd_wf

theorem actKvPoolDestroy_wf (p : Pkt) (s : State) (hs : s.inv fl) :
    (actKvPoolDestroy p s).inv fl := by
  unfold actKvPoolDestroy
  try dsimp only
  repeat' first
    | with_reducible assumption | with_reducible apply freeFramesOf_wf | with_reducible apply completeOk_wf
    | split | (simp only [wf_mk]; with_reducible refine wf_parts ?_)

theorem execKvPoolDestroy_wf (p : Pkt) (s : State) (hs : s.inv fl) :
    Res.wf fl (execKvPoolDestroy p s) := by
  unfold execKvPoolDestroy
  try dsimp only
  repeat' first
    | with_reducible assumption | with_reducible apply res_next | with_reducible exact res_fault | with_reducible exact res_refused
    | with_reducible apply actKvPoolDestroy_wf | with_reducible apply runCmd_wf

theorem actKvPoolQuery_wf (p : Pkt) (s : State) (hs : s.inv fl) :
    (actKvPoolQuery p s).inv fl := by
  unfold actKvPoolQuery
  try dsimp only
  repeat' first
    | with_reducible assumption | with_reducible apply completeOk_wf

theorem execKvPoolQuery_wf (p : Pkt) (s : State) (hs : s.inv fl) :
    Res.wf fl (execKvPoolQuery p s) := by
  unfold execKvPoolQuery
  try dsimp only
  repeat' first
    | with_reducible assumption | with_reducible apply res_next | with_reducible exact res_fault | with_reducible exact res_refused
    | with_reducible apply actKvPoolQuery_wf | with_reducible apply runCmd_wf

theorem actKvSeqCreate_wf (p : Pkt) (s : State) (hs : s.inv fl) :
    (actKvSeqCreate p s).inv fl := by
  unfold actKvSeqCreate
  try dsimp only
  repeat' first
    | with_reducible assumption | with_reducible apply newSeq_wf | with_reducible apply completeOk_wf

theorem execKvSeqCreate_wf (p : Pkt) (s : State) (hs : s.inv fl) :
    Res.wf fl (execKvSeqCreate p s) := by
  unfold execKvSeqCreate
  try dsimp only
  repeat' first
    | with_reducible assumption | with_reducible apply res_next | with_reducible exact res_fault | with_reducible exact res_refused
    | with_reducible apply actKvSeqCreate_wf | with_reducible apply runCmd_wf

theorem execKvFork_wf (p : Pkt) (s : State) (hs : s.inv fl) :
    Res.wf fl (execKvFork p s) := by
  unfold execKvFork
  try dsimp only
  repeat' first
    | with_reducible assumption | with_reducible apply res_next | with_reducible exact res_fault | with_reducible exact res_refused
    | with_reducible apply kvOrQueue_wf | with_reducible apply actKvFork_wf

theorem execKvTruncate_wf (p : Pkt) (s : State) (hs : s.inv fl) :
    Res.wf fl (execKvTruncate p s) := by
  unfold execKvTruncate
  try dsimp only
  repeat' first
    | with_reducible assumption | with_reducible apply res_next | with_reducible exact res_fault | with_reducible exact res_refused
    | with_reducible apply kvOrQueue_wf | with_reducible apply actKvTruncate_wf

theorem execKvFree_wf (p : Pkt) (s : State) (hs : s.inv fl) :
    Res.wf fl (execKvFree p s) := by
  unfold execKvFree
  try dsimp only
  repeat' first
    | with_reducible assumption | with_reducible apply res_next | with_reducible exact res_fault | with_reducible exact res_refused
    | with_reducible apply kvOrQueue_wf | with_reducible apply actKvFree_wf

theorem execKvRead_wf (p : Pkt) (s : State) (hs : s.inv fl) :
    Res.wf fl (execKvRead p s) := by
  unfold execKvRead
  try dsimp only
  repeat' first
    | with_reducible assumption | with_reducible apply res_next | with_reducible exact res_fault | with_reducible exact res_refused
    | with_reducible apply kvOrQueue_wf | with_reducible apply actKvRead_wf

theorem actKvSeqQuery_wf (p : Pkt) (s : State) (hs : s.inv fl) :
    (actKvSeqQuery p s).inv fl := by
  unfold actKvSeqQuery
  try dsimp only
  repeat' first
    | with_reducible assumption | with_reducible apply completeOk_wf | with_reducible apply vwrite_wf
    | split

theorem execKvSeqQuery_wf (p : Pkt) (s : State) (hs : s.inv fl) :
    Res.wf fl (execKvSeqQuery p s) := by
  unfold execKvSeqQuery
  try dsimp only
  repeat' first
    | with_reducible assumption | with_reducible apply res_next | with_reducible exact res_fault | with_reducible exact res_refused
    | with_reducible apply actKvSeqQuery_wf | with_reducible apply runHost_wf

theorem actKvPageQuery_wf (p : Pkt) (s : State) (hs : s.inv fl) :
    (actKvPageQuery p s).inv fl := by
  unfold actKvPageQuery
  try dsimp only
  repeat' first
    | with_reducible assumption | with_reducible apply completeOk_wf | split

theorem execKvPageQuery_wf (p : Pkt) (s : State) (hs : s.inv fl) :
    Res.wf fl (execKvPageQuery p s) := by
  unfold execKvPageQuery
  try dsimp only
  repeat' first
    | with_reducible assumption | with_reducible apply res_next | with_reducible exact res_fault | with_reducible exact res_refused
    | with_reducible apply actKvPageQuery_wf | with_reducible apply runCmd_wf

theorem actKvWait_wf (p : Pkt) (s : State) (hs : s.inv fl) :
    (actKvWait p s).inv fl := by
  unfold actKvWait
  try dsimp only
  repeat' first
    | with_reducible assumption | with_reducible apply handOn_wf | with_reducible apply completeOk_wf
    | split | (simp only [wf_mk]; with_reducible refine wf_parts ?_)

theorem execKvWait_wf (p : Pkt) (s : State) (hs : s.inv fl) :
    Res.wf fl (execKvWait p s) := by
  unfold execKvWait
  try dsimp only
  repeat' first
    | with_reducible assumption | with_reducible apply res_next | with_reducible exact res_fault | with_reducible exact res_refused
    | with_reducible apply actKvWait_wf | with_reducible apply runCmd_wf

theorem actKvExport_wf (p : Pkt) (s : State) (hs : s.inv fl) :
    (actKvExport p s).inv fl := by
  unfold actKvExport
  try dsimp only
  repeat' first
    | with_reducible assumption | with_reducible apply makeParcel_wf | with_reducible apply kvFound_wf
    | with_reducible apply completeOk_wf | with_reducible apply vwrite_wf | (with_reducible refine foldl_wf ?_ ?_; intro _ _ _)

theorem execKvExport_wf (p : Pkt) (s : State) (hs : s.inv fl) :
    Res.wf fl (execKvExport p s) := by
  unfold execKvExport
  try dsimp only
  repeat' first
    | with_reducible assumption | with_reducible apply res_next | with_reducible exact res_fault | with_reducible exact res_refused
    | with_reducible apply actKvExport_wf | with_reducible apply runHost_wf

theorem importPage_wf (P : KvPool) (k : ℕ) (l : ℕ) (rows : List (List Byte)) (full : Bool) (s : State) (hs : s.inv fl) :
    (importPage P k l rows full s).2.inv fl := by
  unfold importPage
  try dsimp only
  repeat' first
    | with_reducible assumption | with_reducible apply writeSlot_wf | with_reducible apply allocPage_wf
    | (with_reducible refine foldl_wf ?_ ?_; intro _ _ _) | split | (simp only [wf_mk]; with_reducible refine wf_parts ?_)

theorem importLayer_wf (P : KvPool) (k : ℕ) (l : ℕ) (pl : List Byte) (s : State) (hs : s.inv fl) :
    (importLayer P k l pl s).2.inv fl := by
  unfold importLayer
  dsimp only
  repeat' first
    | with_reducible assumption | with_reducible apply res_next | with_reducible exact res_fault | with_reducible apply importPage_wf
    | (with_reducible refine foldl2_wf ?_ ?_; intro _ _ _ _)

theorem actKvImport_wf (p : Pkt) (s : State) (hs : s.inv fl) :
    (actKvImport p s).inv fl := by
  unfold actKvImport
  dsimp only
  refine completeOk_wf _ _ _ _ _ (noteImport_wf _ _ _ _ (newSeq_wf _ _ (foldl2_wf (fun c t a ht => ?_) (readWords_wf _ _ _ _ hs))))
  exact importLayer_wf _ _ _ _ _ ht

theorem execKvImport_wf (p : Pkt) (s : State) (hs : s.inv fl) :
    Res.wf fl (execKvImport p s) := by
  unfold execKvImport
  with_reducible refine runHost_wf hs ?_
  with_reducible exact actKvImport_wf _ _ hs

theorem execPageReclaim_wf (page : ℕ) (s : State) (hs : s.inv fl) :
    Res.wf fl (execPageReclaim page s) := by
  unfold execPageReclaim
  try dsimp only
  repeat' first
    | with_reducible assumption | with_reducible apply res_next | with_reducible exact res_fault | with_reducible exact res_refused
    | split | (simp only [wf_mk]; with_reducible refine wf_parts ?_)

end Sys2Proof.Machine
end

