-- ==== Sys2Proof/Laws/WfStrm.lean ====
section
/-! SUPPORT. Every operation and command of Machine/Strm.lean keeps the canonical form of the tables: one lemma per function. -/

namespace Sys2Proof.Machine

variable {fl : Floors}

theorem actStrmSetCreate_wf (p : Pkt) (s : State) (hs : s.inv fl) :
    (actStrmSetCreate p s).inv fl := by
  unfold actStrmSetCreate
  try dsimp only
  repeat' first
    | with_reducible assumption | with_reducible apply readWords_wf | with_reducible apply completeOk_wf
    | split | (simp only [wf_mk]; with_reducible refine wf_parts ?_)

theorem execStrmSetCreate_wf (p : Pkt) (s : State) (hs : s.inv fl) :
    Res.wf fl (execStrmSetCreate p s) := by
  unfold execStrmSetCreate
  try dsimp only
  repeat' first
    | with_reducible assumption | with_reducible apply res_next | with_reducible exact res_fault | with_reducible exact res_refused
    | with_reducible apply actStrmSetCreate_wf | with_reducible apply runHost_wf

theorem actStrmSetDestroy_wf (p : Pkt) (s : State) (hs : s.inv fl) :
    (actStrmSetDestroy p s).inv fl := by
  unfold actStrmSetDestroy
  try dsimp only
  repeat' first
    | with_reducible assumption | with_reducible apply endStrm_wf | with_reducible apply completeOk_wf
    | (with_reducible refine foldl_wf ?_ ?_; intro _ _ _) | split | (simp only [wf_mk]; with_reducible refine wf_parts ?_)

theorem execStrmSetDestroy_wf (p : Pkt) (s : State) (hs : s.inv fl) :
    Res.wf fl (execStrmSetDestroy p s) := by
  unfold execStrmSetDestroy
  try dsimp only
  repeat' first
    | with_reducible assumption | with_reducible apply res_next | with_reducible exact res_fault | with_reducible exact res_refused
    | with_reducible apply actStrmSetDestroy_wf | with_reducible apply runCmd_wf

theorem newStrm_wf (x : Stream) (state : List Byte) (s : State) (hs : s.inv fl) :
    (newStrm x state s).2.inv fl := by
  unfold newStrm
  try dsimp only
  repeat' first
    | with_reducible assumption | with_reducible apply parkStrm_wf | with_reducible apply seatStrm_wf | with_reducible apply strmPut_wf
    | split | (simp only [wf_mk]; with_reducible refine wf_parts ?_)

theorem actStrmStart_wf (p : Pkt) (s : State) (hs : s.inv fl) :
    (actStrmStart p s).inv fl := by
  unfold actStrmStart
  try dsimp only
  repeat' first
    | with_reducible assumption | with_reducible apply newStrm_wf | with_reducible apply readWords_wf | with_reducible apply completeOk_wf
    | split

theorem execStrmStart_wf (p : Pkt) (s : State) (hs : s.inv fl) :
    Res.wf fl (execStrmStart p s) := by
  unfold execStrmStart
  try dsimp only
  repeat' first
    | with_reducible assumption | with_reducible apply res_next | with_reducible exact res_fault | with_reducible exact res_refused
    | with_reducible apply actStrmStart_wf | with_reducible apply runHost_wf

theorem execStrmPause_wf (p : Pkt) (s : State) (hs : s.inv fl) :
    Res.wf fl (execStrmPause p s) := by
  unfold execStrmPause
  try dsimp only
  repeat' first
    | with_reducible assumption | with_reducible apply res_next | with_reducible exact res_fault | with_reducible exact res_refused
    | with_reducible apply strmOrQueue_wf | with_reducible apply actStrmPause_wf

theorem actStrmResume_wf (p : Pkt) (s : State) (hs : s.inv fl) :
    (actStrmResume p s).inv fl := by
  unfold actStrmResume
  try dsimp only
  repeat' first
    | with_reducible assumption | with_reducible apply resumeStrm_wf | with_reducible apply completeOk_wf

theorem execStrmResume_wf (p : Pkt) (s : State) (hs : s.inv fl) :
    Res.wf fl (execStrmResume p s) := by
  unfold execStrmResume
  try dsimp only
  repeat' first
    | with_reducible assumption | with_reducible apply res_next | with_reducible exact res_fault | with_reducible exact res_refused
    | with_reducible apply actStrmResume_wf | with_reducible apply runCmd_wf

theorem execStrmEnd_wf (p : Pkt) (s : State) (hs : s.inv fl) :
    Res.wf fl (execStrmEnd p s) := by
  unfold execStrmEnd
  try dsimp only
  repeat' first
    | with_reducible assumption | with_reducible apply res_next | with_reducible exact res_fault | with_reducible exact res_refused
    | with_reducible apply strmOrQueue_wf | with_reducible apply actStrmEnd_wf

theorem execStrmRead_wf (p : Pkt) (s : State) (hs : s.inv fl) :
    Res.wf fl (execStrmRead p s) := by
  unfold execStrmRead
  try dsimp only
  repeat' first
    | with_reducible assumption | with_reducible apply res_next | with_reducible exact res_fault | with_reducible exact res_refused
    | with_reducible apply strmOrQueue_wf | with_reducible apply actStrmRead_wf

theorem execStrmExport_wf (p : Pkt) (s : State) (hs : s.inv fl) :
    Res.wf fl (execStrmExport p s) := by
  unfold execStrmExport
  try dsimp only
  repeat' first
    | with_reducible assumption | with_reducible apply res_next | with_reducible exact res_fault | with_reducible exact res_refused
    | with_reducible apply strmOrQueue_wf | with_reducible apply actStrmExport_wf

theorem actStrmQuery_wf (p : Pkt) (s : State) (hs : s.inv fl) :
    (actStrmQuery p s).inv fl := by
  unfold actStrmQuery
  try dsimp only
  repeat' first
    | with_reducible assumption | with_reducible apply completeOk_wf

theorem execStrmQuery_wf (p : Pkt) (s : State) (hs : s.inv fl) :
    Res.wf fl (execStrmQuery p s) := by
  unfold execStrmQuery
  try dsimp only
  repeat' first
    | with_reducible assumption | with_reducible apply res_next | with_reducible exact res_fault | with_reducible exact res_refused
    | with_reducible apply actStrmQuery_wf | with_reducible apply runCmd_wf

theorem actStrmSentinel_wf (p : Pkt) (s : State) (hs : s.inv fl) :
    (actStrmSentinel p s).inv fl := by
  unfold actStrmSentinel
  try dsimp only
  repeat' first
    | with_reducible assumption | with_reducible apply modStrm_wf | with_reducible apply completeOk_wf

theorem execStrmSentinel_wf (p : Pkt) (s : State) (hs : s.inv fl) :
    Res.wf fl (execStrmSentinel p s) := by
  unfold execStrmSentinel
  try dsimp only
  repeat' first
    | with_reducible assumption | with_reducible apply res_next | with_reducible exact res_fault | with_reducible exact res_refused
    | with_reducible apply actStrmSentinel_wf | with_reducible apply runCmd_wf

theorem actStrmImport_wf (p : Pkt) (s : State) (hs : s.inv fl) :
    (actStrmImport p s).inv fl := by
  unfold actStrmImport
  try dsimp only
  repeat' first
    | with_reducible assumption | with_reducible apply newStrm_wf | with_reducible apply noteImport_wf | with_reducible apply readWords_wf
    | with_reducible apply completeOk_wf

theorem execStrmImport_wf (p : Pkt) (s : State) (hs : s.inv fl) :
    Res.wf fl (execStrmImport p s) := by
  unfold execStrmImport
  with_reducible refine runHost_wf hs ?_
  with_reducible exact actStrmImport_wf _ _ hs

theorem actStrmPeer_wf (p : Pkt) (s : State) (hs : s.inv fl) :
    (actStrmPeer p s).inv fl := by
  unfold actStrmPeer
  try dsimp only
  repeat' first
    | with_reducible assumption | with_reducible apply readWords_wf | with_reducible apply completeOk_wf | with_reducible apply modCtx_wf
    | split

theorem execStrmPeer_wf (p : Pkt) (s : State) (hs : s.inv fl) :
    Res.wf fl (execStrmPeer p s) := by
  unfold execStrmPeer
  try dsimp only
  repeat' first
    | with_reducible assumption | with_reducible apply res_next | with_reducible exact res_fault | with_reducible exact res_refused
    | with_reducible apply actStrmPeer_wf | with_reducible apply runHost_wf

end Sys2Proof.Machine
end

