-- ==== Sys2Proof/Laws/WfPlans.lean ====
section
/-! SUPPORT. Every operation and command of Machine/Plans.lean keeps the canonical form of the tables: one lemma per function. -/

namespace Sys2Proof.Machine

variable {fl : Floors}

theorem contReject_wf (p : Pkt) (off : ℕ) (f : Code × ℕ) (s : State) (hs : s.inv fl) :
    (contReject p off f s).inv fl := by
  unfold contReject
  try dsimp only
  repeat' first
    | with_reducible assumption | with_reducible apply reject_wf

theorem storePlan_wf (p : Pkt) (slot : ℕ) (q : Plan) (c : List Byte) (s : State) (hs : s.inv fl) :
    (storePlan p slot q c s).inv fl := by
  unfold storePlan
  try dsimp only
  repeat' first
    | with_reducible assumption | with_reducible apply extendHash_wf | with_reducible apply pinPlan_wf
    | split | (simp only [wf_mk]; with_reducible refine wf_parts ?_)

theorem actPlanLoad_wf (p : Pkt) (s : State) (hs : s.inv fl) :
    (actPlanLoad p s).inv fl := by
  unfold actPlanLoad
  try dsimp only
  repeat' first
    | with_reducible assumption | with_reducible apply storePlan_wf | with_reducible apply contReject_wf
    | with_reducible apply readWords_wf | with_reducible apply completeOk_wf | split
    | (simp only [wf_mk]; with_reducible refine wf_parts ?_)

theorem execPlanLoad_wf (p : Pkt) (s : State) (hs : s.inv fl) :
    Res.wf fl (execPlanLoad p s) := by
  unfold execPlanLoad
  try dsimp only
  repeat' first
    | with_reducible assumption | with_reducible apply res_next | with_reducible exact res_fault | with_reducible exact res_refused
    | with_reducible apply actPlanLoad_wf | with_reducible apply runHost_wf

theorem orphanSlots_wf (h : ℕ) (keep : ℕ → Bool) (s : State) (hs : s.inv fl) :
    (orphanSlots h keep s).inv fl := by
  unfold orphanSlots
  try dsimp only
  repeat' first
    | with_reducible assumption | split
    | (simp only [wf_mk]; with_reducible refine wf_parts ?_)

theorem actPlanUnload_wf (p : Pkt) (s : State) (hs : s.inv fl) :
    (actPlanUnload p s).inv fl := by
  unfold actPlanUnload
  try dsimp only
  repeat' first
    | with_reducible assumption | with_reducible apply orphanSlots_wf | with_reducible apply pinPlan_wf
    | with_reducible apply completeOk_wf | split
    | (simp only [wf_mk]; with_reducible refine wf_parts ?_)

theorem execPlanUnload_wf (p : Pkt) (s : State) (hs : s.inv fl) :
    Res.wf fl (execPlanUnload p s) := by
  unfold execPlanUnload
  try dsimp only
  repeat' first
    | with_reducible assumption | with_reducible apply res_next | with_reducible exact res_fault | with_reducible exact res_refused
    | with_reducible apply actPlanUnload_wf | with_reducible apply runCmd_wf

theorem actPlanQuery_wf (p : Pkt) (s : State) (hs : s.inv fl) :
    (actPlanQuery p s).inv fl := by
  unfold actPlanQuery
  try dsimp only
  repeat' first
    | with_reducible assumption | with_reducible apply completeOk_wf

theorem execPlanQuery_wf (p : Pkt) (s : State) (hs : s.inv fl) :
    Res.wf fl (execPlanQuery p s) := by
  unfold execPlanQuery
  try dsimp only
  repeat' first
    | with_reducible assumption | with_reducible apply res_next | with_reducible exact res_fault | with_reducible exact res_refused
    | with_reducible apply actPlanQuery_wf | with_reducible apply runCmd_wf

theorem reloadRuns_wf (h : ℕ) (q : Plan) (s : State) (hs : s.inv fl) :
    (reloadRuns h q s).inv fl := by
  unfold reloadRuns
  try dsimp only
  repeat' first
    | with_reducible assumption | with_reducible apply workEnded_wf | with_reducible apply finishRun_wf
    | (with_reducible refine foldl_wf ?_ ?_; intro _ _ _) | split | (simp only [wf_mk]; with_reducible refine wf_parts ?_)

theorem actPlanReload_wf (p : Pkt) (s : State) (hs : s.inv fl) :
    (actPlanReload p s).inv fl := by
  unfold actPlanReload
  try dsimp only
  repeat' first
    | with_reducible assumption | with_reducible apply reloadRuns_wf | with_reducible apply orphanSlots_wf
    | with_reducible apply storePlan_wf | with_reducible apply contReject_wf | with_reducible apply copyPlan_wf
    | with_reducible apply pinPlan_wf | with_reducible apply readWords_wf | with_reducible apply completeOk_wf
    | split

theorem execPlanReload_wf (p : Pkt) (s : State) (hs : s.inv fl) :
    Res.wf fl (execPlanReload p s) := by
  unfold execPlanReload
  try dsimp only
  repeat' first
    | with_reducible assumption | with_reducible apply res_next | with_reducible exact res_fault | with_reducible exact res_refused
    | with_reducible apply actPlanReload_wf | with_reducible apply runHost_wf

theorem actPlanRun_wf (p : Pkt) (s : State) (hs : s.inv fl) :
    (actPlanRun p s).inv fl := by
  unfold actPlanRun
  try dsimp only
  repeat' first
    | with_reducible assumption | with_reducible apply boundary_wf | with_reducible apply pinRange_wf | with_reducible apply handOn_wf
    | split | (simp only [wf_mk]; with_reducible refine wf_parts ?_)

theorem execPlanRun_wf (p : Pkt) (s : State) (hs : s.inv fl) :
    Res.wf fl (execPlanRun p s) := by
  unfold execPlanRun
  try dsimp only
  repeat' first
    | with_reducible assumption | with_reducible apply res_next | with_reducible exact res_fault | with_reducible exact res_refused
    | with_reducible apply actPlanRun_wf | with_reducible apply runCmd_wf

theorem actPlanStop_wf (p : Pkt) (s : State) (hs : s.inv fl) :
    (actPlanStop p s).inv fl := by
  unfold actPlanStop
  try dsimp only
  repeat' first
    | with_reducible assumption | with_reducible apply workEnded_wf | with_reducible apply finishRun_wf | with_reducible apply modRun_wf
    | with_reducible apply handOn_wf | split

theorem execPlanStop_wf (p : Pkt) (s : State) (hs : s.inv fl) :
    Res.wf fl (execPlanStop p s) := by
  unfold execPlanStop
  try dsimp only
  repeat' first
    | with_reducible assumption | with_reducible apply res_next | with_reducible exact res_fault | with_reducible exact res_refused
    | with_reducible apply actPlanStop_wf | with_reducible apply runCmd_wf

theorem actPlanFeed_wf (p : Pkt) (s : State) (hs : s.inv fl) :
    (actPlanFeed p s).inv fl := by
  unfold actPlanFeed
  try dsimp only
  repeat' first
    | with_reducible assumption | with_reducible apply boundary_wf | with_reducible apply modRun_wf | with_reducible apply completeOk_wf
    | split

theorem execPlanFeed_wf (p : Pkt) (s : State) (hs : s.inv fl) :
    Res.wf fl (execPlanFeed p s) := by
  unfold execPlanFeed
  try dsimp only
  repeat' first
    | with_reducible assumption | with_reducible apply res_next | with_reducible exact res_fault | with_reducible exact res_refused
    | with_reducible apply actPlanFeed_wf | with_reducible apply runCmd_wf

theorem actPlanBindEvent_wf (p : Pkt) (s : State) (hs : s.inv fl) :
    (actPlanBindEvent p s).inv fl := by
  unfold actPlanBindEvent
  try dsimp only
  repeat' first
    | with_reducible assumption | with_reducible apply completeOk_wf | split
    | (simp only [wf_mk]; with_reducible refine wf_parts ?_)

theorem execPlanBindEvent_wf (p : Pkt) (s : State) (hs : s.inv fl) :
    Res.wf fl (execPlanBindEvent p s) := by
  unfold execPlanBindEvent
  try dsimp only
  repeat' first
    | with_reducible assumption | with_reducible apply res_next | with_reducible exact res_fault | with_reducible exact res_refused
    | with_reducible apply actPlanBindEvent_wf | with_reducible apply runCmd_wf

theorem actPlanUnbind_wf (p : Pkt) (s : State) (hs : s.inv fl) :
    (actPlanUnbind p s).inv fl := by
  unfold actPlanUnbind
  try dsimp only
  repeat' first
    | with_reducible assumption | with_reducible apply endBind_wf | with_reducible apply completeOk_wf

theorem execPlanUnbind_wf (p : Pkt) (s : State) (hs : s.inv fl) :
    Res.wf fl (execPlanUnbind p s) := by
  unfold execPlanUnbind
  try dsimp only
  repeat' first
    | with_reducible assumption | with_reducible apply res_next | with_reducible exact res_fault | with_reducible exact res_refused
    | with_reducible apply actPlanUnbind_wf | with_reducible apply runCmd_wf

theorem actGangStats_wf (p : Pkt) (s : State) (hs : s.inv fl) :
    (actGangStats p s).inv fl := by
  unfold actGangStats
  try dsimp only
  repeat' first
    | with_reducible assumption | with_reducible apply modGang_wf | with_reducible apply completeOk_wf
    | split

theorem execGangStats_wf (p : Pkt) (s : State) (hs : s.inv fl) :
    Res.wf fl (execGangStats p s) := by
  unfold execGangStats
  try dsimp only
  repeat' first
    | with_reducible assumption | with_reducible apply res_next | with_reducible exact res_fault | with_reducible exact res_refused
    | with_reducible apply actGangStats_wf | with_reducible apply runCmd_wf

theorem actPanelQuery_wf (p : Pkt) (s : State) (hs : s.inv fl) :
    (actPanelQuery p s).inv fl := by
  unfold actPanelQuery
  try dsimp only
  repeat' first
    | with_reducible assumption | with_reducible apply completeOk_wf | with_reducible apply vwrite_wf

theorem execPanelQuery_wf (p : Pkt) (s : State) (hs : s.inv fl) :
    Res.wf fl (execPanelQuery p s) := by
  unfold execPanelQuery
  try dsimp only
  repeat' first
    | with_reducible assumption | with_reducible apply res_next | with_reducible exact res_fault | with_reducible exact res_refused
    | with_reducible apply actPanelQuery_wf | with_reducible apply runHost_wf

theorem actMoorLoad_wf (p : Pkt) (s : State) (hs : s.inv fl) :
    (actMoorLoad p s).inv fl := by
  unfold actMoorLoad
  try dsimp only
  repeat' first
    | with_reducible assumption | with_reducible apply readWords_wf | with_reducible apply completeOk_wf
    | split | (simp only [wf_mk]; with_reducible refine wf_parts ?_)

theorem execMoorLoad_wf (p : Pkt) (s : State) (hs : s.inv fl) :
    Res.wf fl (execMoorLoad p s) := by
  unfold execMoorLoad
  try dsimp only
  repeat' first
    | with_reducible assumption | with_reducible apply res_next | with_reducible exact res_fault | with_reducible exact res_refused
    | with_reducible apply actMoorLoad_wf | with_reducible apply runHost_wf

theorem actMoorQuery_wf (p : Pkt) (s : State) (hs : s.inv fl) :
    (actMoorQuery p s).inv fl := by
  unfold actMoorQuery
  try dsimp only
  repeat' first
    | with_reducible assumption | with_reducible apply completeOk_wf

theorem execMoorQuery_wf (p : Pkt) (s : State) (hs : s.inv fl) :
    Res.wf fl (execMoorQuery p s) := by
  unfold execMoorQuery
  try dsimp only
  repeat' first
    | with_reducible assumption | with_reducible apply res_next | with_reducible exact res_fault | with_reducible exact res_refused
    | with_reducible apply actMoorQuery_wf | with_reducible apply runCmd_wf

end Sys2Proof.Machine
end

