-- ==== Sys2Proof/Laws/WfTail.lean ====
section
/-! SUPPORT. Every operation and command of Machine/Tail.lean keeps the canonical form of the tables: one lemma per function. -/

namespace Sys2Proof.Machine

variable {fl : Floors}

theorem writeRef_wf (r : Run) (p : Plan) (x : ℕ × ℕ) (off : ℕ) (bs : List Byte) (s : State) (hs : s.inv fl) :
    (writeRef r p x off bs s).inv fl := by
  unfold writeRef
  try dsimp only
  repeat' first
    | with_reducible assumption | with_reducible apply vwrite_wf | split

theorem emitRows_wf (r : Run) (p : Plan) (st : List Byte) (rows : List RowOut) (s : State) (hs : s.inv fl) :
    (emitRows r p st rows s).inv fl := by
  unfold emitRows
  try dsimp only
  repeat' first
    | with_reducible assumption | with_reducible apply writeRef_wf | (with_reducible refine foldl_wf ?_ ?_; intro _ _ _) | split

end Sys2Proof.Machine
end

