-- ==== Sys2Proof/Laws/WfWindows.lean ====
section
/-! SUPPORT. Every operation and command of Machine/Windows.lean keeps the canonical form of the tables: one lemma per function. -/

namespace Sys2Proof.Machine

variable {fl : Floors}

theorem emitPixels_wf (r : Run) (p : Plan) (st : List Byte) (w : Win) (keep : ℕ → Bool) (rows : List RowOut) (s : State) (hs : s.inv fl) :
    (emitPixels r p st w keep rows s).inv fl := by
  unfold emitPixels
  try dsimp only
  repeat' first
    | with_reducible assumption | with_reducible apply writeRef_wf | (with_reducible refine foldl_wf ?_ ?_; intro _ _ _) | split

theorem emitImage_wf (r : Run) (p : Plan) (st : List Byte) (w : Win) (rows : List RowOut) (s : State) (hs : s.inv fl) :
    (emitImage r p st w rows s).inv fl := by
  unfold emitImage
  try dsimp only
  repeat' first
    | with_reducible assumption | with_reducible apply emitPixels_wf

end Sys2Proof.Machine
end

