-- ==== Sys2Proof/Laws/WfLegCompute.lean ====
section
/-! SUPPORT. Every operation and command of Machine/LegCompute.lean keeps the canonical form of the tables: one lemma per function. -/

namespace Sys2Proof.Machine

variable {fl : Floors}

theorem cellResult_wf (k : ℕ) (c : CellOut) (s : State) (hs : s.inv fl) :
    (cellResult k c s).inv fl := by
  unfold cellResult
  try dsimp only
  repeat' first
    | with_reducible assumption | with_reducible apply noteRun_wf | with_reducible apply modRun_wf
    | split

theorem cellResults_wf (k : ℕ) (cs : List CellOut) (s : State) (hs : s.inv fl) :
    (cellResults k cs s).inv fl := by
  unfold cellResults
  try dsimp only
  repeat' first
    | with_reducible assumption | with_reducible apply cellResult_wf | (with_reducible refine foldl_wf ?_ ?_; intro _ _ _)

theorem stripeHalves_wf (h : ℕ) (base : ℕ) (n : ℕ) (b : ℕ) (rows : ℕ) (g : ℕ) (s : State) (hs : s.inv fl) :
    (stripeHalves h base n b rows g s).inv fl := by
  unfold stripeHalves
  try dsimp only
  repeat' first
    | with_reducible assumption | with_reducible apply vwrite_wf | split

theorem stripeEnds_wf (r : Run) (p : Plan) (leg : List Byte) (s : State) (hs : s.inv fl) :
    (stripeEnds r p leg s).inv fl := by
  unfold stripeEnds
  try dsimp only
  repeat' first
    | with_reducible assumption | with_reducible apply stripeHalves_wf | (with_reducible refine foldl_wf ?_ ?_; intro _ _ _) | split

end Sys2Proof.Machine
end

