-- ==== Sys2Proof/Laws/WfLegEnds.lean ====
section
/-! SUPPORT. Every operation and command of Machine/LegEnds.lean keeps the canonical form of the tables: one lemma per function. -/

namespace Sys2Proof.Machine

variable {fl : Floors}

theorem scoreErrs_wf (g : ℕ) (r : Run) (action : ℕ) (errs : List LegErr) (s : State) (hs : s.inv fl) :
    (scoreErrs g r action errs s).inv fl := by
  unfold scoreErrs
  try dsimp only
  repeat' first
    | with_reducible assumption | with_reducible apply chanEvent_wf | (with_reducible refine foldl_wf ?_ ?_; intro _ _ _) | split

theorem finishLeg_wf (k : ℕ) (code : Code) (s : State) (hs : s.inv fl) :
    (finishLeg k code s).inv fl := by
  unfold finishLeg
  try dsimp only
  repeat' first
    | with_reducible assumption | with_reducible apply settle_wf | with_reducible apply settleTiers_wf
    | with_reducible apply afterBound_wf | with_reducible apply boundary_wf | with_reducible apply endRun_wf
    | split

theorem failLeg_wf (k : ℕ) (code : Code) (s : State) (hs : s.inv fl) :
    (failLeg k code s).inv fl := by
  unfold failLeg
  try dsimp only
  repeat' first
    | with_reducible assumption | with_reducible apply finishLeg_wf

theorem afterLegs_wf (s : State) (hs : s.inv fl) :
    (afterLegs s).inv fl := by
  unfold afterLegs
  try dsimp only
  repeat' first
    | with_reducible assumption | with_reducible apply settle_wf | with_reducible apply workEnded_wf | with_reducible apply settleTiers_wf

theorem lateLeg_wf (g : ℕ) (c : Cur) (s : State) (hs : s.inv fl) :
    (lateLeg g c s).inv fl := by
  unfold lateLeg
  try dsimp only
  repeat' first
    | with_reducible assumption | with_reducible apply afterLegs_wf | with_reducible apply failLeg_wf | with_reducible apply ripcord_wf
    | with_reducible apply scrubGang_wf | with_reducible apply logEvent_wf | with_reducible apply modCtx_wf
    | split

theorem faultLeg_wf (k : ℕ) (r : Run) (code : Code) (bad : List ℕ) (s : State) (hs : s.inv fl) :
    (faultLeg k r code bad s).inv fl := by
  unfold faultLeg
  try dsimp only
  repeat' first
    | with_reducible assumption | with_reducible apply afterLegs_wf | with_reducible apply failLeg_wf | with_reducible apply ripcord_wf
    | with_reducible apply wordEvent_wf | split

theorem legWrites_wf (r : Run) (p : Plan) (leg : List Byte) (ws : List LegWrite) (s : State) (hs : s.inv fl) :
    (legWrites r p leg ws s).inv fl := by
  unfold legWrites
  try dsimp only
  repeat' first
    | with_reducible assumption | with_reducible apply vwrite_wf | (with_reducible refine foldl_wf ?_ ?_; intro _ _ _) | split

theorem emptyResults_wf (k : ℕ) (rows : List ℕ) (s : State) (hs : s.inv fl) :
    (emptyResults k rows s).inv fl := by
  unfold emptyResults
  try dsimp only
  repeat' first
    | with_reducible assumption | with_reducible apply noteRun_wf | with_reducible apply modRun_wf
    | split

theorem mergeStats_wf (r : Run) (g : ℕ) (leg : List Byte) (adds : ℕ → ℕ → List StatAdd) (s : State) (hs : s.inv fl) :
    (mergeStats r g leg adds s).inv fl := by
  unfold mergeStats
  try dsimp only
  repeat' first
    | with_reducible assumption | split
    | (simp only [wf_mk]; with_reducible refine wf_parts ?_)

theorem uncheckedRows_wf (g : ℕ) (l : List (ℕ × ℕ)) (s : State) (hs : s.inv fl) :
    (uncheckedRows g l s).inv fl := by
  unfold uncheckedRows
  try dsimp only
  repeat' first
    | with_reducible assumption | (with_reducible refine foldl_wf ?_ ?_; intro _ _ _) | split
    | (simp only [wf_mk]; with_reducible refine wf_parts ?_)

theorem attnResults_wf (k : ℕ) (p : Plan) (leg : List Byte) (s : State) (hs : s.inv fl) :
    (attnResults k p leg s).inv fl := by
  unfold attnResults
  try dsimp only
  repeat' first
    | with_reducible assumption | with_reducible apply attnRows_wf | (with_reducible refine foldl_wf ?_ ?_; intro _ _ _) | split

theorem computeStage_wf (g k : ℕ) (r : Run) (p : Plan) (leg : List Byte) (n j : ℕ) (c : LegRun) (hc : c.s.inv fl) :
    (computeStage g k r p leg n j c).s.inv fl := by
  unfold computeStage
  dsimp only
  have h0 : (if num ((stagesOf leg).getD j []) 0 1 = 3 then
      match (runOf c.s k).bind Run.step with | some x => attnRows r p x ((stagesOf leg).getD j []) c.s | none => c.s
    else c.s).inv fl := by
    split
    · split
      · exact attnRows_wf _ _ _ _ _ hc
      · exact hc
    · exact hc
  revert h0
  generalize (if num ((stagesOf leg).getD j []) 0 1 = 3 then
      match (runOf c.s k).bind Run.step with | some x => attnRows r p x ((stagesOf leg).getD j []) c.s | none => c.s
    else c.s) = s0
  intro h0
  repeat' first
    | with_reducible assumption | with_reducible apply emitImage_wf | with_reducible apply emitRows_wf
    | with_reducible apply cellResults_wf | with_reducible apply writeRef_wf | (with_reducible refine foldl_wf ?_ ?_; intro _ _ _) | split

theorem computeLeg_wf (g k : ℕ) (r : Run) (p : Plan) (leg : List Byte) (n : ℕ) (s : State) (hs : s.inv fl) :
    (computeLeg g k r p leg n s).s.inv fl := by
  unfold computeLeg
  exact foldl_inv (P := fun c : LegRun => c.s.inv fl) (fun c j hc => computeStage_wf _ _ _ _ _ _ _ _ hc) hs

theorem soundResult_wf (g k : ℕ) (r : Run) (p : Plan) (leg : List Byte) (a : Attempt) (s : State) (hs : s.inv fl) :
    (soundResult g k r p leg a s).inv fl := by
  unfold soundResult
  dsimp only
  repeat' first
    | with_reducible apply noteRun_wf | with_reducible apply uncheckedRows_wf | with_reducible apply mergeStats_wf
    | with_reducible apply emptyResults_wf | with_reducible apply stripeEnds_wf | exact computeLeg_wf _ _ _ _ _ _ _ hs

theorem faultyResult_wf (g : ℕ) (k : ℕ) (r : Run) (p : Plan) (leg : List Byte) (e : LegEnd) (s : State) (hs : s.inv fl) :
    (faultyResult g k r p leg e s).inv fl := by
  unfold faultyResult
  try dsimp only
  repeat' first
    | with_reducible assumption | with_reducible apply attnResults_wf | with_reducible apply uncheckedRows_wf
    | with_reducible apply mergeStats_wf | with_reducible apply emptyResults_wf | with_reducible apply legWrites_wf
    | with_reducible apply stripeEnds_wf | with_reducible apply cellResults_wf | with_reducible apply noteRun_wf

theorem legResult_wf (g : ℕ) (k : ℕ) (r : Run) (p : Plan) (leg : List Byte) (a : Attempt) (s : State) (hs : s.inv fl) :
    (legResult g k r p leg a s).inv fl := by
  unfold legResult
  try dsimp only
  repeat' first
    | with_reducible assumption | with_reducible apply faultyResult_wf | with_reducible apply soundResult_wf
    | with_reducible apply undefineLeg_wf | with_reducible apply correctedWords_wf
    | split

theorem scoreLift_wf (r : Run) (reason : ℕ) (rec_ : List Byte) (s : State) (hs : s.inv fl) :
    (scoreLift r reason rec_ s).inv fl := by
  unfold scoreLift
  try dsimp only
  repeat' first
    | with_reducible assumption | with_reducible apply raiseLift_wf

theorem scoreAction_wf (r : Run) (reason : ℕ) (rec_ : List Byte) (s : State) (hs : s.inv fl) :
    (scoreAction r reason rec_ s).inv fl := by
  unfold scoreAction
  try dsimp only
  repeat' first
    | with_reducible assumption | with_reducible apply scoreLift_wf | with_reducible apply decide__wf | with_reducible apply ignoreTier_wf
    | split

theorem goOn_wf (k : ℕ) (n : ℕ) (s : State) (hs : s.inv fl) :
    (goOn k n s).inv fl := by
  unfold goOn
  try dsimp only
  repeat' first
    | with_reducible assumption | with_reducible apply modRun_wf

theorem waitAction_wf (k : ℕ) (target : ℕ) (s : State) (hs : s.inv fl) :
    (waitAction k target s).inv fl := by
  unfold waitAction
  try dsimp only
  repeat' first
    | with_reducible assumption | with_reducible apply releaseItem_wf | with_reducible apply endStep_wf

theorem endAction_wf (k : ℕ) (r : Run) (leg : List Byte) (s : State) (hs : s.inv fl) :
    (endAction k r leg s).inv fl := by
  unfold endAction
  try dsimp only
  repeat' first
    | with_reducible assumption | with_reducible apply waitAction_wf | with_reducible apply goOn_wf | with_reducible apply scoreAction_wf
    | with_reducible apply ballast_wf | with_reducible apply endRun_wf | split

theorem legBoundary_wf (g : ℕ) (k : ℕ) (h : ℕ) (s : State) (hs : s.inv fl) :
    (legBoundary g k h s).inv fl := by
  unfold legBoundary
  try dsimp only
  repeat' first
    | with_reducible assumption | with_reducible apply settle_wf | with_reducible apply afterBound_wf | with_reducible apply boundary_wf
    | with_reducible apply countPreempted_wf | with_reducible apply modRun_wf
    | split

theorem acceptLeg_wf (g : ℕ) (k : ℕ) (a : Attempt) (s : State) (hs : s.inv fl) :
    (acceptLeg g k a s).inv fl := by
  unfold acceptLeg
  try dsimp only
  repeat' first
    | with_reducible assumption | with_reducible apply legBoundary_wf | with_reducible apply endAction_wf
    | with_reducible apply legResult_wf | with_reducible apply afterLegs_wf | with_reducible apply takeStops_wf
    | with_reducible apply unguard_wf | with_reducible apply dropLocks_wf | with_reducible apply noteRun_wf
    | with_reducible apply modRun_wf | with_reducible apply modGang_wf | with_reducible apply logEvent_wf
    | split

theorem startRetry_wf (g : ℕ) (k : ℕ) (r : Run) (p : Plan) (leg : List Byte) (errs : List LegErr) (s : State) (hs : s.inv fl) :
    (startRetry g k r p leg errs s).inv fl := by
  unfold startRetry
  try dsimp only
  repeat' first
    | with_reducible assumption | with_reducible apply startLeg_wf | with_reducible apply ownWrite_wf | with_reducible apply zeroExch_wf
    | with_reducible apply dropLocks_wf | with_reducible apply modRun_wf | with_reducible apply modGang_wf
    | split

theorem suspectLeg_wf (g : ℕ) (k : ℕ) (r : Run) (all : List LegErr) (a : Attempt) (s : State) (hs : s.inv fl) :
    (suspectLeg g k r all a s).inv fl := by
  unfold suspectLeg
  try dsimp only
  repeat' first
    | with_reducible assumption | with_reducible apply acceptLeg_wf | with_reducible apply scoreErrs_wf | with_reducible apply noteRun_wf

theorem retryLeg_wf (g : ℕ) (k : ℕ) (r : Run) (c : Cur) (errs : List LegErr) (a : Attempt) (s : State) (hs : s.inv fl) :
    (retryLeg g k r c errs a s).inv fl := by
  unfold retryLeg
  try dsimp only
  repeat' first
    | with_reducible assumption | with_reducible apply suspectLeg_wf | with_reducible apply startRetry_wf
    | split

theorem retirePermanent_wf (g : ℕ) (r : Run) (panels : List ℕ) (s : State) (hs : s.inv fl) :
    (retirePermanent g r panels s).inv fl := by
  unfold retirePermanent
  try dsimp only
  repeat' first
    | with_reducible assumption | with_reducible apply retireNow_wf | with_reducible apply chanEvent_wf
    | (with_reducible refine foldl_wf ?_ ?_; intro _ _ _)

theorem shelveLeg_wf (g : ℕ) (k : ℕ) (s : State) (hs : s.inv fl) :
    (shelveLeg g k s).inv fl := by
  unfold shelveLeg
  try dsimp only
  repeat' first
    | with_reducible assumption | with_reducible apply workEnded_wf | with_reducible apply takeStops_wf | with_reducible apply unguard_wf
    | with_reducible apply dropLocks_wf | with_reducible apply modRun_wf | with_reducible apply modGang_wf

theorem secondPattern_wf (g : ℕ) (k : ℕ) (r : Run) (c : Cur) (errs : List LegErr) (a : Attempt) (s : State) (hs : s.inv fl) :
    (secondPattern g k r c errs a s).inv fl := by
  unfold secondPattern
  try dsimp only
  repeat' first
    | with_reducible assumption | with_reducible apply shelveLeg_wf | with_reducible apply retirePermanent_wf
    | with_reducible apply retryLeg_wf | with_reducible apply afterLegs_wf | with_reducible apply failLeg_wf
    | with_reducible apply scoreErrs_wf | with_reducible apply modTest_wf | with_reducible apply logEvent_wf
    | split

theorem disagreeLeg_wf (g : ℕ) (k : ℕ) (r : Run) (c : Cur) (errs : List LegErr) (a : Attempt) (s : State) (hs : s.inv fl) :
    (disagreeLeg g k r c errs a s).inv fl := by
  unfold disagreeLeg
  try dsimp only
  repeat' first
    | with_reducible assumption | with_reducible apply secondPattern_wf | with_reducible apply retirePermanent_wf
    | with_reducible apply retryLeg_wf | with_reducible apply afterLegs_wf | with_reducible apply failLeg_wf
    | with_reducible apply scoreErrs_wf | split

theorem agreeLeg_wf (g : ℕ) (k : ℕ) (r : Run) (c : Cur) (a : Attempt) (s : State) (hs : s.inv fl) :
    (agreeLeg g k r c a s).inv fl := by
  unfold agreeLeg
  try dsimp only
  repeat' first
    | with_reducible assumption | with_reducible apply acceptLeg_wf | with_reducible apply scoreErrs_wf

theorem execLegEnd_wf (e : LegEnd) (s : State) (hs : s.inv fl) :
    Res.wf fl (execLegEnd e s) := by
  unfold execLegEnd
  try dsimp only
  repeat' first
    | with_reducible assumption | with_reducible apply res_next | with_reducible exact res_fault | with_reducible exact res_refused
    | with_reducible apply agreeLeg_wf | with_reducible apply disagreeLeg_wf | with_reducible apply faultLeg_wf
    | with_reducible apply lateLeg_wf | with_reducible apply elapseTo_wf | split

theorem predicted_wf (s : State) (g : ℕ) (hs : s.inv fl) :
    (predicted s g).inv fl := by
  unfold predicted
  try dsimp only
  repeat' first
    | with_reducible assumption | with_reducible apply modRun_wf | split

theorem stallOver_wf (c : Cur) (r : Run) (s : State) (hs : s.inv fl) :
    (stallOver c r s).inv fl := by
  unfold stallOver
  try dsimp only
  repeat' first
    | with_reducible assumption | with_reducible apply afterLegs_wf | with_reducible apply finishLeg_wf | with_reducible apply logEvent_wf

theorem execPrefetchComplete_wf (gang : ℕ) (stall : ℕ) (s : State) (hs : s.inv fl) :
    Res.wf fl (execPrefetchComplete gang stall s) := by
  unfold execPrefetchComplete
  try dsimp only
  repeat' first
    | with_reducible assumption | with_reducible apply res_next | with_reducible exact res_fault | with_reducible exact res_refused
    | with_reducible apply stallOver_wf | with_reducible apply predicted_wf | with_reducible apply startLeg_wf
    | with_reducible apply countMiss_wf | with_reducible apply pickLeg_wf | with_reducible apply modGang_wf
    | with_reducible apply elapseTo_wf | split

theorem execStallLimitExpiry_wf (gang : ℕ) (s : State) (hs : s.inv fl) :
    Res.wf fl (execStallLimitExpiry gang s) := by
  unfold execStallLimitExpiry
  try dsimp only
  repeat' first
    | with_reducible assumption | with_reducible apply res_next | with_reducible exact res_fault | with_reducible exact res_refused
    | with_reducible apply stallOver_wf | with_reducible apply elapseTo_wf | split

theorem execLegLateLimit_wf (gang : ℕ) (s : State) (hs : s.inv fl) :
    Res.wf fl (execLegLateLimit gang s) := by
  unfold execLegLateLimit
  try dsimp only
  repeat' first
    | with_reducible assumption | with_reducible apply res_next | with_reducible exact res_fault | with_reducible exact res_refused
    | with_reducible apply lateLeg_wf | with_reducible apply elapseTo_wf | split

theorem writeHalves_wf (r : Run) (p : Plan) (leg : List Byte) (x : Gang) (b : ℕ) (s : State) (hs : s.inv fl) :
    (writeHalves r p leg x b s).inv fl := by
  unfold writeHalves
  try dsimp only
  repeat' first
    | with_reducible assumption | with_reducible apply stripeHalves_wf | (with_reducible refine foldl_wf ?_ ?_; intro _ _ _) | split

theorem writeTiles_wf (r : Run) (p : Plan) (leg : List Byte) (n : ℕ) (q : StripeLeg) (g : ℕ) (b : ℕ) (lo : ℕ) (hi : ℕ) (s : State) (hs : s.inv fl) :
    (writeTiles r p leg n q g b lo hi s).inv fl := by
  unfold writeTiles
  try dsimp only
  repeat' first
    | with_reducible assumption | with_reducible apply emitPixels_wf | split

theorem advanceStripe_wf (r : Run) (p : Plan) (leg : List Byte) (n : ℕ) (b : ℕ) (tiles : ℕ) (a : StripeLeg × State) (ha : a.2.inv fl) :
    (advanceStripe r p leg n b tiles a).2.inv fl := by
  unfold advanceStripe
  try dsimp only
  repeat' first
    | with_reducible assumption | with_reducible apply writeTiles_wf | with_reducible apply writeHalves_wf
    | with_reducible apply ownWrite_wf | split
    | (intro _ _)

theorem execStripeGroupStart_wf (gang : ℕ) (stripe : ℕ) (s : State) (tiles : optParam (List ℕ) []) (hs : s.inv fl) :
    Res.wf fl (execStripeGroupStart gang stripe s tiles) := by
  unfold execStripeGroupStart
  dsimp only
  iterate 5
    split
    · first | exact res_fault | exact hs
  rename_i x _ _ c _ _ r _ _
  have h := foldl2_wf (f := fun a b => advanceStripe r (runPlan s r) (legOf (runPlan s r) r.counter) c.draw b (tiles.getD b 0) a)
    (l := sortBy (fun a b => decide ((stripeAt x a).1 ≤ (stripeAt x b).1)) (List.range (stripeLeg s gang (runPlan s r) (legOf (runPlan s r) r.counter) x).n))
    (b := stripeLeg s gang (runPlan s r) (legOf (runPlan s r) r.counter) x) (fun q t a ht => advanceStripe_wf _ _ _ _ _ _ _ ht) hs
  refine res_next (modGang_wf _ _ _ ?_)
  split
  · exact ownWrite_wf _ _ _ (fun t ht => writeHalves_wf _ _ _ _ _ _ ht) h
  · exact h

theorem execPipelineStageStep_wf (gang : ℕ) (stage : ℕ) (s : State) (hs : s.inv fl) :
    Res.wf fl (execPipelineStageStep gang stage s) := by
  unfold execPipelineStageStep
  try dsimp only
  repeat' first
    | with_reducible assumption | with_reducible apply res_next | with_reducible exact res_fault | with_reducible exact res_refused
    | with_reducible apply modGang_wf | split

theorem execScratchpadScrubComplete_wf (panel : ℕ) (s : State) (hs : s.inv fl) :
    Res.wf fl (execScratchpadScrubComplete panel s) := by
  unfold execScratchpadScrubComplete
  try dsimp only
  repeat' first
    | with_reducible assumption | with_reducible apply res_next | with_reducible exact res_fault | with_reducible exact res_refused
    | with_reducible apply boundary_wf | with_reducible apply modPanel_wf | split

theorem execSpareReady_wf (panel : ℕ) (passed : Bool) (s : State) (hs : s.inv fl) :
    Res.wf fl (execSpareReady panel passed s) := by
  unfold execSpareReady
  try dsimp only
  repeat' first
    | with_reducible assumption | with_reducible apply res_next | with_reducible exact res_fault | with_reducible exact res_refused
    | with_reducible apply callSpare_wf | with_reducible apply retireReplies_wf | with_reducible apply markRetired_wf
    | with_reducible apply afterBound_wf | with_reducible apply boundary_wf | with_reducible apply modTest_wf
    | with_reducible apply modGang_wf | with_reducible apply modPanel_wf | with_reducible apply logEvent_wf
    | split

theorem testReplies_wf (k : ℕ) (passed : Bool) (s : State) (hs : s.inv fl) :
    (testReplies k passed s).inv fl := by
  unfold testReplies
  try dsimp only
  repeat' first
    | with_reducible assumption | with_reducible apply modTest_wf | with_reducible apply completeOk_wf
    | (with_reducible refine foldl_wf ?_ ?_; intro _ _ _)

theorem testFree_wf (k : ℕ) (s : State) (hs : s.inv fl) :
    (testFree k s).inv fl := by
  unfold testFree
  try dsimp only
  repeat' first
    | with_reducible assumption | with_reducible apply modTest_wf | split

theorem execSelfTestSliceComplete_wf (type : ℕ) (index : ℕ) (passed : Bool) (s : State) (hs : s.inv fl) :
    Res.wf fl (execSelfTestSliceComplete type index passed s) := by
  unfold execSelfTestSliceComplete
  try dsimp only
  repeat' first
    | with_reducible assumption | with_reducible apply res_next | with_reducible exact res_fault | with_reducible exact res_refused
    | with_reducible apply testFree_wf | with_reducible apply testReplies_wf | with_reducible apply retireNow_wf
    | with_reducible apply afterBound_wf | with_reducible apply boundary_wf | with_reducible apply modTest_wf
    | with_reducible apply modPanel_wf | with_reducible apply logEvent_wf | split

end Sys2Proof.Machine
end

