-- ==== Sys2Proof/Laws/WfQuant.lean ====
section
/-! SUPPORT. Every operation and command of Machine/Quant.lean keeps the canonical form of the tables: one lemma per function. -/

namespace Sys2Proof.Machine

variable {fl : Floors}

theorem actQstatArm_wf (p : Pkt) (s : State) (hs : s.inv fl) :
    (actQstatArm p s).inv fl := by
  unfold actQstatArm
  try dsimp only
  repeat' first
    | with_reducible assumption | with_reducible apply completeOk_wf | split
    | (simp only [wf_mk]; with_reducible refine wf_parts ?_)

theorem execQstatArm_wf (p : Pkt) (s : State) (hs : s.inv fl) :
    Res.wf fl (execQstatArm p s) := by
  unfold execQstatArm
  try dsimp only
  repeat' first
    | with_reducible assumption | with_reducible apply res_next | with_reducible exact res_fault | with_reducible exact res_refused
    | with_reducible apply actQstatArm_wf | with_reducible apply runCmd_wf

theorem actQstatDisarm_wf (p : Pkt) (s : State) (hs : s.inv fl) :
    (actQstatDisarm p s).inv fl := by
  unfold actQstatDisarm
  try dsimp only
  repeat' first
    | with_reducible assumption | with_reducible apply completeOk_wf | split
    | (simp only [wf_mk]; with_reducible refine wf_parts ?_)

theorem execQstatDisarm_wf (p : Pkt) (s : State) (hs : s.inv fl) :
    Res.wf fl (execQstatDisarm p s) := by
  unfold execQstatDisarm
  try dsimp only
  repeat' first
    | with_reducible assumption | with_reducible apply res_next | with_reducible exact res_fault | with_reducible exact res_refused
    | with_reducible apply actQstatDisarm_wf | with_reducible apply runCmd_wf

theorem actQstatRead_wf (p : Pkt) (s : State) (hs : s.inv fl) :
    (actQstatRead p s).inv fl := by
  unfold actQstatRead
  try dsimp only
  repeat' first
    | with_reducible assumption | with_reducible apply completeOk_wf | with_reducible apply vwrite_wf
    | split | (simp only [wf_mk]; with_reducible refine wf_parts ?_)

theorem execQstatRead_wf (p : Pkt) (s : State) (hs : s.inv fl) :
    Res.wf fl (execQstatRead p s) := by
  unfold execQstatRead
  try dsimp only
  repeat' first
    | with_reducible assumption | with_reducible apply res_next | with_reducible exact res_fault | with_reducible exact res_refused
    | with_reducible apply actQstatRead_wf | with_reducible apply runHost_wf

theorem actQstatQuery_wf (p : Pkt) (s : State) (hs : s.inv fl) :
    (actQstatQuery p s).inv fl := by
  unfold actQstatQuery
  try dsimp only
  repeat' first
    | with_reducible assumption | with_reducible apply completeOk_wf

theorem execQstatQuery_wf (p : Pkt) (s : State) (hs : s.inv fl) :
    Res.wf fl (execQstatQuery p s) := by
  unfold execQstatQuery
  try dsimp only
  repeat' first
    | with_reducible assumption | with_reducible apply res_next | with_reducible exact res_fault | with_reducible exact res_refused
    | with_reducible apply actQstatQuery_wf | with_reducible apply runCmd_wf

theorem takeDma_wf (p : Pkt) (ns : ℕ) (convert : Bool) (s : State) (hs : s.inv fl) :
    (takeDma p ns convert s).inv fl := by
  unfold takeDma
  try dsimp only
  repeat' first
    | with_reducible assumption | with_reducible apply takeLease_wf | with_reducible apply handOn_wf
    | split | (simp only [wf_mk]; with_reducible refine wf_parts ?_)

theorem actQconvert_wf (p : Pkt) (s : State) (hs : s.inv fl) :
    (actQconvert p s).inv fl := by
  unfold actQconvert
  try dsimp only
  repeat' first
    | with_reducible assumption | with_reducible apply takeDma_wf | with_reducible apply pinDma_wf

theorem execQconvert_wf (p : Pkt) (s : State) (hs : s.inv fl) :
    Res.wf fl (execQconvert p s) := by
  unfold execQconvert
  try dsimp only
  repeat' first
    | with_reducible assumption | with_reducible apply res_next | with_reducible exact res_fault | with_reducible exact res_refused
    | with_reducible apply actQconvert_wf | with_reducible apply runCmd_wf

theorem finishConvert_wf (p : Pkt) (arms : ℕ) (s : State) (hs : s.inv fl) :
    (finishConvert p arms s).inv fl := by
  unfold finishConvert
  try dsimp only
  repeat' first
    | with_reducible assumption | with_reducible apply undefine_wf | with_reducible apply complete_wf | with_reducible apply vwrite_wf
    | split | (simp only [wf_mk]; with_reducible refine wf_parts ?_)

end Sys2Proof.Machine
end

