-- ==== Sys2Proof/Laws/WfMemory.lean ====
section
/-! SUPPORT. Every operation and command of Machine/Memory.lean keeps the canonical form of the tables: one lemma per function. -/

namespace Sys2Proof.Machine

variable {fl : Floors}

theorem addObj_wf (o : MemObj) (s : State) (hs : s.inv fl) :
    (addObj o s).2.inv fl := by
  unfold addObj
  try dsimp only
  repeat' first
    | with_reducible assumption | split
    | (simp only [wf_mk]; with_reducible refine wf_parts ?_)

theorem buildObj_wf (p : Pkt) (s : State) (hs : s.inv fl) :
    (buildObj p s).2.inv fl := by
  unfold buildObj
  try dsimp only
  repeat' first
    | with_reducible assumption | with_reducible apply addObj_wf | with_reducible apply takeStore_wf | with_reducible apply mapPages_wf
    | with_reducible apply allocFrames_wf | split

theorem fillObj_wf (k : ℕ) (bs : List Byte) (s : State) (hs : s.inv fl) :
    (fillObj k bs s).inv fl := by
  unfold fillObj
  try dsimp only
  repeat' first
    | with_reducible assumption | with_reducible apply physWrite_wf | (with_reducible refine foldl_wf ?_ ?_; intro _ _ _) | split

theorem actMemAlloc_wf (p : Pkt) (s : State) (hs : s.inv fl) :
    (actMemAlloc p s).inv fl := by
  unfold actMemAlloc
  try dsimp only
  repeat' first
    | with_reducible assumption | with_reducible apply fillObj_wf | with_reducible apply buildObj_wf | with_reducible apply settle_wf
    | with_reducible apply extendHash_wf | with_reducible apply correctedWords_wf | with_reducible apply completeOk_wf
    | split

theorem execMemAlloc_wf (p : Pkt) (s : State) (hs : s.inv fl) :
    Res.wf fl (execMemAlloc p s) := by
  unfold execMemAlloc
  try dsimp only
  repeat' first
    | with_reducible assumption | with_reducible apply res_next | with_reducible exact res_fault | with_reducible exact res_refused
    | with_reducible apply actMemAlloc_wf | with_reducible apply runHost_wf

theorem actMemMapHost_wf (p : Pkt) (s : State) (hs : s.inv fl) :
    (actMemMapHost p s).inv fl := by
  unfold actMemMapHost
  try dsimp only
  repeat' first
    | with_reducible assumption | with_reducible apply addObj_wf | with_reducible apply mapPages_wf | with_reducible apply completeOk_wf

theorem execMemMapHost_wf (p : Pkt) (s : State) (hs : s.inv fl) :
    Res.wf fl (execMemMapHost p s) := by
  unfold execMemMapHost
  try dsimp only
  repeat' first
    | with_reducible assumption | with_reducible apply res_next | with_reducible exact res_fault | with_reducible exact res_refused
    | with_reducible apply actMemMapHost_wf | with_reducible apply runCmd_wf

theorem actMemFree_wf (p : Pkt) (s : State) (hs : s.inv fl) :
    (actMemFree p s).inv fl := by
  unfold actMemFree
  try dsimp only
  repeat' first
    | with_reducible assumption | with_reducible apply finishFree_wf | with_reducible apply modMove_wf | with_reducible apply handOn_wf
    | split

theorem execMemFree_wf (p : Pkt) (s : State) (hs : s.inv fl) :
    Res.wf fl (execMemFree p s) := by
  unfold execMemFree
  try dsimp only
  repeat' first
    | with_reducible assumption | with_reducible apply res_next | with_reducible exact res_fault | with_reducible exact res_refused
    | with_reducible apply actMemFree_wf | with_reducible apply runCmd_wf

theorem actMemProtect_wf (p : Pkt) (s : State) (hs : s.inv fl) :
    (actMemProtect p s).inv fl := by
  unfold actMemProtect
  try dsimp only
  repeat' first
    | with_reducible assumption | with_reducible apply modObj_wf | with_reducible apply completeOk_wf | with_reducible apply modCtx_wf

theorem execMemProtect_wf (p : Pkt) (s : State) (hs : s.inv fl) :
    Res.wf fl (execMemProtect p s) := by
  unfold execMemProtect
  try dsimp only
  repeat' first
    | with_reducible assumption | with_reducible apply res_next | with_reducible exact res_fault | with_reducible exact res_refused
    | with_reducible apply actMemProtect_wf | with_reducible apply runCmd_wf

theorem actMemPin_wf (p : Pkt) (s : State) (hs : s.inv fl) :
    (actMemPin p s).inv fl := by
  unfold actMemPin
  try dsimp only
  repeat' first
    | with_reducible assumption | with_reducible apply modObj_wf | with_reducible apply completeOk_wf

theorem execMemPin_wf (p : Pkt) (s : State) (hs : s.inv fl) :
    Res.wf fl (execMemPin p s) := by
  unfold execMemPin
  try dsimp only
  repeat' first
    | with_reducible assumption | with_reducible apply res_next | with_reducible exact res_fault | with_reducible exact res_refused
    | with_reducible apply actMemPin_wf | with_reducible apply runCmd_wf

theorem actMemQuery_wf (p : Pkt) (s : State) (hs : s.inv fl) :
    (actMemQuery p s).inv fl := by
  unfold actMemQuery
  try dsimp only
  repeat' first
    | with_reducible assumption | with_reducible apply completeOk_wf

theorem execMemQuery_wf (p : Pkt) (s : State) (hs : s.inv fl) :
    Res.wf fl (execMemQuery p s) := by
  unfold execMemQuery
  try dsimp only
  repeat' first
    | with_reducible assumption | with_reducible apply res_next | with_reducible exact res_fault | with_reducible exact res_refused
    | with_reducible apply actMemQuery_wf | with_reducible apply runCmd_wf

theorem actMemCopy_wf (p : Pkt) (s : State) (hs : s.inv fl) :
    (actMemCopy p s).inv fl := by
  unfold actMemCopy
  try dsimp only
  repeat' first
    | with_reducible assumption | with_reducible apply takeDma_wf | with_reducible apply pinDma_wf

theorem execMemCopy_wf (p : Pkt) (s : State) (hs : s.inv fl) :
    Res.wf fl (execMemCopy p s) := by
  unfold execMemCopy
  try dsimp only
  repeat' first
    | with_reducible assumption | with_reducible apply res_next | with_reducible exact res_fault | with_reducible exact res_refused
    | with_reducible apply actMemCopy_wf | with_reducible apply runCmd_wf

theorem finishCopy_wf (p : Pkt) (s : State) (hs : s.inv fl) :
    (finishCopy p s).inv fl := by
  unfold finishCopy
  try dsimp only
  repeat' first
    | with_reducible assumption | with_reducible apply completeOk_wf | with_reducible apply vwrite_wf

theorem failDma_wf (c : ℕ) (d : Dma) (code : Code) (s : State) (hs : s.inv fl) :
    (failDma c d code s).inv fl := by
  unfold failDma
  try dsimp only
  repeat' first
    | with_reducible assumption | with_reducible apply stopDma_wf | with_reducible apply ripcord_wf
    | with_reducible apply internalEvent_wf | split

theorem execDmaTransferComplete_wf (c : ℕ) (outcome : Done) (s : State) (hs : s.inv fl) :
    Res.wf fl (execDmaTransferComplete c outcome s) := by
  unfold execDmaTransferComplete
  try dsimp only
  repeat' first
    | with_reducible assumption | with_reducible apply res_next | with_reducible exact res_fault | with_reducible exact res_refused
    | with_reducible apply failDma_wf | with_reducible apply finishCopy_wf | with_reducible apply finishConvert_wf
    | with_reducible apply settle_wf | with_reducible apply workEnded_wf | with_reducible apply dropDma_wf
    | with_reducible apply correctedWords_wf | with_reducible apply wordEvent_wf
    | split

theorem actMemPlace_wf (p : Pkt) (s : State) (hs : s.inv fl) :
    (actMemPlace p s).inv fl := by
  unfold actMemPlace
  try dsimp only
  repeat' first
    | with_reducible assumption | with_reducible apply serveMoves_wf | with_reducible apply popMove_wf | with_reducible apply modMove_wf
    | with_reducible apply modObj_wf | with_reducible apply handOn_wf | split
    | (simp only [wf_mk]; with_reducible refine wf_parts ?_)

theorem execMemPlace_wf (p : Pkt) (s : State) (hs : s.inv fl) :
    Res.wf fl (execMemPlace p s) := by
  unfold execMemPlace
  try dsimp only
  repeat' first
    | with_reducible assumption | with_reducible apply res_next | with_reducible exact res_fault | with_reducible exact res_refused
    | with_reducible apply actMemPlace_wf | with_reducible apply runCmd_wf

theorem loseMoves_wf (k : ℕ) (s : State) (hs : s.inv fl) :
    (loseMoves k s).inv fl := by
  unfold loseMoves
  try dsimp only
  repeat' first
    | with_reducible assumption | with_reducible apply failColdOp_wf | with_reducible apply finishFree_wf
    | with_reducible apply serveMoves_wf | with_reducible apply endMove_wf | with_reducible apply complete_wf
    | (with_reducible refine foldl_wf ?_ ?_; intro _ _ _) | split | (simp only [wf_mk]; with_reducible refine wf_parts ?_)

theorem losePage_wf (h : ℕ) (va : ℕ) (s : State) (hs : s.inv fl) :
    (losePage h va s).inv fl := by
  unfold losePage
  try dsimp only
  repeat' first
    | with_reducible assumption | with_reducible apply loseMoves_wf | with_reducible apply failLeg_wf
    | with_reducible apply stopCommand_wf | with_reducible apply stopDma_wf | (with_reducible refine foldl_wf ?_ ?_; intro _ _ _)

theorem swapFrame_wf (w : PageOwner) (i : ℕ) (f : ℕ) (g : ℕ) (s : State) (hs : s.inv fl) :
    (swapFrame w i f g s).inv fl := by
  unfold swapFrame
  try dsimp only
  repeat' first
    | with_reducible assumption | with_reducible apply mapPage_wf | with_reducible apply modStrm_wf | with_reducible apply modObj_wf
    | with_reducible apply freeFramesOf_wf | split
    | (simp only [wf_mk]; with_reducible refine wf_parts ?_)

theorem poisonFrame_wf (g : ℕ) (s : State) (hs : s.inv fl) :
    (poisonFrame g s).inv fl := by
  have h1 := physZero_wf (g * 65536) 65536 s hs
  unfold poisonFrame
  simp only [wf_mk]
  exact ⟨⟨wf_mem h1, wf_host h1⟩, ⟨wf_ctxs h1,
    foldl_tput_wf (List.range 4096) (fun i => g * 4096 + i) (fun i => poisonWord (g * 4096 + i)) _ (wf_words h1)⟩, wf_dev h1⟩

theorem loseFrame_wf (w : PageOwner) (i : ℕ) (f : ℕ) (s : State) (hs : s.inv fl) :
    (loseFrame w i f s).inv fl := by
  unfold loseFrame
  try dsimp only
  repeat' first
    | with_reducible assumption | with_reducible apply poisonFrame_wf | with_reducible apply losePage_wf
    | with_reducible apply freeFramesOf_wf | with_reducible apply modCtx_wf | split

theorem migrateFrame_wf (r : Retiring) (w : PageOwner) (i : ℕ) (f : ℕ) (readable : Bool) (s : State) (hs : s.inv fl) :
    (migrateFrame r w i f readable s).inv fl := by
  unfold migrateFrame
  try dsimp only
  repeat' first
    | with_reducible assumption | with_reducible apply loseFrame_wf | with_reducible apply poisonFrame_wf
    | with_reducible apply swapFrame_wf | with_reducible apply chargeWords_wf | with_reducible apply moveWords_wf
    | with_reducible apply allocFrames_wf | split
    | (simp only [wf_mk]; with_reducible refine wf_parts ?_)

theorem execMemMovePageComplete_wf (owner : PageOwner) (readable : Bool) (s0 : State) (hs0 : s0.inv fl) :
    Res.wf fl (execMemMovePageComplete owner readable s0) := by
  unfold execMemMovePageComplete
  try dsimp only
  repeat' first
    | with_reducible assumption | with_reducible apply res_next | with_reducible exact res_fault | with_reducible exact res_refused
    | with_reducible apply migrateFrame_wf | with_reducible apply settle_wf | with_reducible apply afterPage_wf
    | with_reducible apply movePage_wf | with_reducible apply workEnded_wf | split
    | (simp only [wf_mk]; with_reducible refine wf_parts ?_)

theorem execFirmwarePlacement_wf (s : State) (hs : s.inv fl) :
    Res.wf fl (execFirmwarePlacement s) := by
  unfold execFirmwarePlacement
  try dsimp only
  repeat' first
    | with_reducible assumption | with_reducible apply res_next | with_reducible exact res_fault | with_reducible exact res_refused
    | with_reducible apply placeAuto_wf | split

theorem nextRetire_wf (s : State) (hs : s.inv fl) :
    (nextRetire s).inv fl := by
  unfold nextRetire
  try dsimp only
  repeat' first
    | with_reducible assumption | with_reducible apply startRetire_wf | split
    | (simp only [wf_mk]; with_reducible refine wf_parts ?_)

theorem execChannelRetirementComplete_wf (s : State) (hs : s.inv fl) :
    Res.wf fl (execChannelRetirementComplete s) := by
  unfold execChannelRetirementComplete
  try dsimp only
  repeat' first
    | with_reducible assumption | with_reducible apply res_next | with_reducible exact res_fault | with_reducible exact res_refused
    | with_reducible apply nextRetire_wf | with_reducible apply retireReplies_wf | with_reducible apply markRetired_wf
    | with_reducible apply workEnded_wf | with_reducible apply completeOk_wf | (with_reducible refine foldl_wf ?_ ?_; intro _ _ _) | split
    | (simp only [wf_mk]; with_reducible refine wf_parts ?_)

theorem actMemChannelRetire_wf (p : Pkt) (s : State) (hs : s.inv fl) :
    (actMemChannelRetire p s).inv fl := by
  unfold actMemChannelRetire
  try dsimp only
  repeat' first
    | with_reducible assumption | with_reducible apply startRetire_wf | with_reducible apply handOn_wf

theorem execMemChannelRetire_wf (p : Pkt) (s : State) (hs : s.inv fl) :
    Res.wf fl (execMemChannelRetire p s) := by
  unfold execMemChannelRetire
  try dsimp only
  repeat' first
    | with_reducible assumption | with_reducible apply res_next | with_reducible exact res_fault | with_reducible exact res_refused
    | with_reducible apply actMemChannelRetire_wf | with_reducible apply runCmd_wf

theorem actMemChannels_wf (p : Pkt) (s : State) (hs : s.inv fl) :
    (actMemChannels p s).inv fl := by
  unfold actMemChannels
  try dsimp only
  repeat' first
    | with_reducible assumption | with_reducible apply completeOk_wf | with_reducible apply vwrite_wf
    | split | (simp only [wf_mk]; with_reducible refine wf_parts ?_)

theorem execMemChannels_wf (p : Pkt) (s : State) (hs : s.inv fl) :
    Res.wf fl (execMemChannels p s) := by
  unfold execMemChannels
  try dsimp only
  repeat' first
    | with_reducible assumption | with_reducible apply res_next | with_reducible exact res_fault | with_reducible exact res_refused
    | with_reducible apply actMemChannels_wf | with_reducible apply runHost_wf

theorem actMemColdIo_wf (p : Pkt) (s : State) (hs : s.inv fl) :
    (actMemColdIo p s).inv fl := by
  unfold actMemColdIo
  try dsimp only
  repeat' first
    | with_reducible assumption | with_reducible apply pinIo_wf | with_reducible apply readWords_wf | with_reducible apply handOn_wf
    | split | (simp only [wf_mk]; with_reducible refine wf_parts ?_)

theorem execMemColdIo_wf (p : Pkt) (s : State) (hs : s.inv fl) :
    Res.wf fl (execMemColdIo p s) := by
  unfold execMemColdIo
  try dsimp only
  repeat' first
    | with_reducible assumption | with_reducible apply res_next | with_reducible exact res_fault | with_reducible exact res_refused
    | with_reducible apply actMemColdIo_wf | with_reducible apply runHost_wf

theorem endIo_wf (c : ColdOp) (ok : Bool) (s : State) (hs : s.inv fl) :
    (endIo c ok s).inv fl := by
  unfold endIo
  try dsimp only
  repeat' first
    | with_reducible assumption | with_reducible apply pinIo_wf | with_reducible apply undefine_wf | with_reducible apply wordEvent_wf
    | with_reducible apply complete_wf | with_reducible apply completeOk_wf | split
    | (simp only [wf_mk]; with_reducible refine wf_parts ?_)

theorem execColdTierCompletion_wf (object : ℕ) (ok : Bool) (s : State) (hs : s.inv fl) :
    Res.wf fl (execColdTierCompletion object ok s) := by
  unfold execColdTierCompletion
  split
  · split
    · split
      · apply res_next
        rename_i c _ _
        cases c.pkt with
        | none => exact hs
        | some p => exact hostWait_wf _ _ hs
      · exact res_next (workEnded_wf _ (endIo_wf _ _ _ hs))
    · exact hs
  · repeat' first
    | with_reducible assumption | with_reducible apply res_next | with_reducible apply workEnded_wf | with_reducible apply pausePromote_wf
    | with_reducible apply settle_wf | with_reducible apply failColdOp_wf | with_reducible apply finishPromote_wf
    | with_reducible apply finishEvict_wf | split | (simp only [wf_mk]; with_reducible refine wf_parts ?_)

theorem execColdTierDeadline_wf (object : ℕ) (s : State) (hs : s.inv fl) :
    Res.wf fl (execColdTierDeadline object s) := by
  unfold execColdTierDeadline
  try dsimp only
  repeat' first
    | with_reducible assumption | with_reducible apply res_next | with_reducible exact res_fault | with_reducible exact res_refused
    | with_reducible apply endIo_wf | with_reducible apply failColdOp_wf | with_reducible apply workEnded_wf
    | with_reducible apply elapseTo_wf | split

theorem execPatrolScrub_wf (word : ℕ) (s : State) (hs : s.inv fl) :
    Res.wf fl (execPatrolScrub word s) := by
  unfold execPatrolScrub
  dsimp only
  have h1 : ({ s with store.words := tdel s.store.words word } : State).inv fl :=
    wf_of (wf_mem (s := s) hs) (wf_host (s := s) hs) (wf_ctxs (s := s) hs) (tdel_wf _ _ (wf_words (s := s) hs)) (wf_dev (s := s) hs)
  repeat' first
    | with_reducible assumption | with_reducible apply res_next | with_reducible exact res_fault | with_reducible apply settled_wf
    | with_reducible apply addressFault_wf | with_reducible apply correctedWords_wf | split

end Sys2Proof.Machine
end

