-- ==== Sys2Proof/Laws/WfCamera.lean ====
section
/-! SUPPORT. Every operation and command of Machine/Camera.lean keeps the canonical form of the tables: one lemma per function. -/

namespace Sys2Proof.Machine

variable {fl : Floors}

theorem beginFrame_wf (n : ℕ) (flags : ℕ) (s : State) (hs : s.inv fl) :
    (beginFrame n flags s).inv fl := by
  unfold beginFrame
  try dsimp only
  repeat' first
    | with_reducible assumption | with_reducible apply modCam_wf | with_reducible apply vwrite_wf
    | split

theorem stopAtEnd_wf (n : ℕ) (s : State) (hs : s.inv fl) :
    (stopAtEnd n s).inv fl := by
  unfold stopAtEnd
  try dsimp only
  repeat' first
    | with_reducible assumption | with_reducible apply stopCam_wf | with_reducible apply modCam_wf
    | split

theorem endFrame_wf (n : ℕ) (flags : ℕ) (s : State) (hs : s.inv fl) :
    (endFrame n flags s).inv fl := by
  unfold endFrame
  try dsimp only
  repeat' first
    | with_reducible assumption | with_reducible apply stopAtEnd_wf | with_reducible apply modCam_wf
    | split

theorem endLines_wf (n : ℕ) (extra : ℕ) (s : State) (hs : s.inv fl) :
    (endLines n extra s).inv fl := by
  unfold endLines
  try dsimp only
  repeat' first
    | with_reducible assumption | with_reducible apply endFrame_wf | split

theorem mutedFrame_wf (n : ℕ) (s : State) (hs : s.inv fl) :
    (mutedFrame n s).inv fl := by
  unfold mutedFrame
  try dsimp only
  repeat' first
    | with_reducible assumption | with_reducible apply endFrame_wf | with_reducible apply beginFrame_wf | with_reducible apply modCam_wf

theorem dropPacket_wf (n : ℕ) (s : State) (hs : s.inv fl) :
    (dropPacket n s).inv fl := by
  unfold dropPacket
  try dsimp only
  repeat' first
    | with_reducible assumption | with_reducible apply modCam_wf

theorem camLinkError_wf (n : ℕ) (hard : Bool) (s : State) (hs : s.inv fl) :
    (camLinkError n hard s).inv fl := by
  unfold camLinkError
  try dsimp only
  repeat' first
    | with_reducible assumption | with_reducible apply chanEvent_wf

theorem execCsiFrameStart_wf (n : ℕ) (vc : ℕ) (ecc : CsiEcc) (s : State) (hs : s.inv fl) :
    Res.wf fl (execCsiFrameStart n vc ecc s) := by
  unfold execCsiFrameStart
  try dsimp only
  repeat' first
    | with_reducible assumption | with_reducible apply res_next | with_reducible exact res_fault | with_reducible exact res_refused
    | with_reducible apply camLinkError_wf | with_reducible apply dropPacket_wf | with_reducible apply endLines_wf
    | with_reducible apply beginFrame_wf | with_reducible apply settled_wf | with_reducible apply settle_wf
    | with_reducible apply modCam_wf | with_reducible apply chanEvent_wf | split

theorem execCsiLine_wf (l : CsiLine) (s : State) (hs : s.inv fl) :
    Res.wf fl (execCsiLine l s) := by
  unfold execCsiLine
  dsimp only
  repeat' first
    | with_reducible assumption | with_reducible apply res_next | with_reducible exact res_fault | with_reducible apply settled_wf
    | with_reducible apply camLinkError_wf | with_reducible apply dropPacket_wf | with_reducible apply modCam_wf
    | with_reducible apply wf_ite | with_reducible apply res_ite

theorem execCsiFrameEnd_wf (n : ℕ) (vc : ℕ) (ecc : CsiEcc) (s : State) (hs : s.inv fl) :
    Res.wf fl (execCsiFrameEnd n vc ecc s) := by
  unfold execCsiFrameEnd
  try dsimp only
  repeat' first
    | with_reducible assumption | with_reducible apply res_next | with_reducible exact res_fault | with_reducible exact res_refused
    | with_reducible apply camLinkError_wf | with_reducible apply dropPacket_wf | with_reducible apply endLines_wf
    | with_reducible apply settled_wf | split

theorem completeSlot_wf (n : ℕ) (f : CamFrame) (s : State) (hs : s.inv fl) :
    (completeSlot n f s).inv fl := by
  unfold completeSlot
  try dsimp only
  repeat' first
    | with_reducible assumption | with_reducible apply modCam_wf | with_reducible apply complete_wf | with_reducible apply vwrite_wf
    | (with_reducible refine foldl_wf ?_ ?_; intro _ _ _) | split

theorem execSlotComplete_wf (port : ℕ) (s : State) (hs : s.inv fl) :
    Res.wf fl (execSlotComplete port s) := by
  unfold execSlotComplete
  try dsimp only
  repeat' first
    | with_reducible assumption | with_reducible apply res_next | with_reducible exact res_fault | with_reducible exact res_refused
    | with_reducible apply completeSlot_wf | with_reducible apply settled_wf | with_reducible apply modCam_wf
    | with_reducible apply chanEvent_wf | split

theorem execFrameIntervalTimeout_wf (n : ℕ) (s : State) (hs : s.inv fl) :
    Res.wf fl (execFrameIntervalTimeout n s) := by
  unfold execFrameIntervalTimeout
  try dsimp only
  repeat' first
    | with_reducible assumption | with_reducible apply res_next | with_reducible exact res_fault | with_reducible exact res_refused
    | with_reducible apply settled_wf | with_reducible apply chanEvent_wf | with_reducible apply elapseTo_wf
    | split

theorem execMutedFrameTimer_wf (n : ℕ) (s : State) (hs : s.inv fl) :
    Res.wf fl (execMutedFrameTimer n s) := by
  unfold execMutedFrameTimer
  try dsimp only
  repeat' first
    | with_reducible assumption | with_reducible apply res_next | with_reducible exact res_fault | with_reducible exact res_refused
    | with_reducible apply mutedFrame_wf | with_reducible apply settled_wf | with_reducible apply elapseTo_wf
    | split

theorem execPrivCamAssert_wf (s : State) (hs : s.inv fl) :
    Res.wf fl (execPrivCamAssert s) := by
  unfold execPrivCamAssert
  split
  · exact hs
  · refine settled_wf _ (foldl_wf (fun t a ht => ?_) (glbEvent_wf _ _ ?_))
    · split
      · exact endFrame_wf _ _ _ (modCam_wf _ _ _ ht)
      · exact ht
    · exact ⟨hs.1, hs.2.1, hs.2.2.1, ⟨rfl, hs.2.2.2.1.2⟩, hs.2.2.2.2⟩

theorem execPrivCamRelease_wf (s : State) (hs : s.inv fl) :
    Res.wf fl (execPrivCamRelease s) := by
  have key : ∀ (q : Tbl Cam) (t : State), t.inv fl → ({ t with cams.pin := false, cams.gate := false, cams.ports := q } : State).inv fl :=
    fun q t h => ⟨h.1, h.2.1, h.2.2.1, ⟨rfl, h.2.2.2.1.2⟩, h.2.2.2.2⟩
  unfold execPrivCamRelease
  split
  · exact hs
  · dsimp only
    with_reducible apply res_next
    with_reducible apply glbEvent_wf
    with_reducible apply key
    with_reducible apply elapseTo_wf
    exact hs

theorem execPresenceFrame_wf (payload : List Byte) (s : State) (hs : s.inv fl) :
    Res.wf fl (execPresenceFrame payload s) := by
  unfold execPresenceFrame
  try dsimp only
  repeat' first
    | with_reducible assumption | with_reducible apply res_next | with_reducible exact res_fault | with_reducible exact res_refused
    | with_reducible apply supplyFrames_wf | (with_reducible refine foldl_wf ?_ ?_; intro _ _ _) | split
    | (simp only [wf_mk]; with_reducible refine wf_parts ?_)

theorem actCamQuery_wf (p : Pkt) (s : State) (hs : s.inv fl) :
    (actCamQuery p s).inv fl := by
  unfold actCamQuery
  try dsimp only
  repeat' first
    | with_reducible assumption | with_reducible apply completeOk_wf

theorem execCamQuery_wf (p : Pkt) (s : State) (hs : s.inv fl) :
    Res.wf fl (execCamQuery p s) := by
  unfold execCamQuery
  try dsimp only
  repeat' first
    | with_reducible assumption | with_reducible apply res_next | with_reducible exact res_fault | with_reducible exact res_refused
    | with_reducible apply actCamQuery_wf | with_reducible apply runCmd_wf

theorem dropWindow_wf (w : ℕ) (s : State) (hs : s.inv fl) :
    (dropWindow w s).inv fl := by
  unfold dropWindow
  try dsimp only
  repeat' first
    | with_reducible assumption | with_reducible apply modCtx_wf | split
    | (simp only [wf_mk]; with_reducible refine wf_parts ?_)

theorem actCamAssign_wf (p : Pkt) (s : State) (hs : s.inv fl) :
    (actCamAssign p s).inv fl := by
  unfold actCamAssign
  try dsimp only
  repeat' first
    | with_reducible assumption | with_reducible apply dropWindow_wf | with_reducible apply modCam_wf | with_reducible apply completeOk_wf
    | (with_reducible refine foldl_wf ?_ ?_; intro _ _ _) | split

theorem execCamAssign_wf (p : Pkt) (s : State) (hs : s.inv fl) :
    Res.wf fl (execCamAssign p s) := by
  unfold execCamAssign
  try dsimp only
  repeat' first
    | with_reducible assumption | with_reducible apply res_next | with_reducible exact res_fault | with_reducible exact res_refused
    | with_reducible apply actCamAssign_wf | with_reducible apply runCmd_wf

theorem actCamPort_wf (p : Pkt) (s : State) (hs : s.inv fl) :
    (actCamPort p s).inv fl := by
  unfold actCamPort
  try dsimp only
  repeat' first
    | with_reducible assumption | with_reducible apply modCam_wf | with_reducible apply completeOk_wf

theorem execCamPort_wf (p : Pkt) (s : State) (hs : s.inv fl) :
    Res.wf fl (execCamPort p s) := by
  unfold execCamPort
  try dsimp only
  repeat' first
    | with_reducible assumption | with_reducible apply res_next | with_reducible exact res_fault | with_reducible exact res_refused
    | with_reducible apply actCamPort_wf | with_reducible apply runCmd_wf

theorem actCamParams_wf (p : Pkt) (s : State) (hs : s.inv fl) :
    (actCamParams p s).inv fl := by
  unfold actCamParams
  try dsimp only
  repeat' first
    | with_reducible assumption | with_reducible apply modCam_wf | with_reducible apply readWords_wf | with_reducible apply completeOk_wf
    | (with_reducible refine foldl_wf ?_ ?_; intro _ _ _)

theorem execCamParams_wf (p : Pkt) (s : State) (hs : s.inv fl) :
    Res.wf fl (execCamParams p s) := by
  unfold execCamParams
  try dsimp only
  repeat' first
    | with_reducible assumption | with_reducible apply res_next | with_reducible exact res_fault | with_reducible exact res_refused
    | with_reducible apply actCamParams_wf | with_reducible apply runHost_wf

theorem actCamOutput_wf (p : Pkt) (s : State) (hs : s.inv fl) :
    (actCamOutput p s).inv fl := by
  unfold actCamOutput
  try dsimp only
  repeat' first
    | with_reducible assumption | with_reducible apply mapWindow_wf | with_reducible apply modCam_wf | with_reducible apply completeOk_wf
    | with_reducible apply modCtx_wf | (with_reducible refine foldl_wf ?_ ?_; intro _ _ _)

theorem execCamOutput_wf (p : Pkt) (s : State) (hs : s.inv fl) :
    Res.wf fl (execCamOutput p s) := by
  unfold execCamOutput
  try dsimp only
  repeat' first
    | with_reducible assumption | with_reducible apply res_next | with_reducible exact res_fault | with_reducible exact res_refused
    | with_reducible apply actCamOutput_wf | with_reducible apply runCmd_wf

theorem actCamStart_wf (p : Pkt) (s : State) (hs : s.inv fl) :
    (actCamStart p s).inv fl := by
  unfold actCamStart
  try dsimp only
  repeat' first
    | with_reducible assumption | with_reducible apply modCam_wf | with_reducible apply completeOk_wf

theorem execCamStart_wf (p : Pkt) (s : State) (hs : s.inv fl) :
    Res.wf fl (execCamStart p s) := by
  unfold execCamStart
  try dsimp only
  repeat' first
    | with_reducible assumption | with_reducible apply res_next | with_reducible exact res_fault | with_reducible exact res_refused
    | with_reducible apply actCamStart_wf | with_reducible apply runCmd_wf

theorem actCamStop_wf (p : Pkt) (s : State) (hs : s.inv fl) :
    (actCamStop p s).inv fl := by
  unfold actCamStop
  try dsimp only
  repeat' first
    | with_reducible assumption | with_reducible apply stopCam_wf | with_reducible apply modCam_wf | with_reducible apply handOn_wf
    | split

theorem execCamStop_wf (p : Pkt) (s : State) (hs : s.inv fl) :
    Res.wf fl (execCamStop p s) := by
  unfold execCamStop
  try dsimp only
  repeat' first
    | with_reducible assumption | with_reducible apply res_next | with_reducible exact res_fault | with_reducible exact res_refused
    | with_reducible apply actCamStop_wf | with_reducible apply runCmd_wf

theorem actCamPower_wf (p : Pkt) (s : State) (hs : s.inv fl) :
    (actCamPower p s).inv fl := by
  unfold actCamPower
  try dsimp only
  repeat' first
    | with_reducible assumption | with_reducible apply modCam_wf | with_reducible apply completeOk_wf

theorem execCamPower_wf (p : Pkt) (s : State) (hs : s.inv fl) :
    Res.wf fl (execCamPower p s) := by
  unfold execCamPower
  try dsimp only
  repeat' first
    | with_reducible assumption | with_reducible apply res_next | with_reducible exact res_fault | with_reducible exact res_refused
    | with_reducible apply actCamPower_wf | with_reducible apply runCmd_wf

theorem actCamSync_wf (p : Pkt) (s : State) (hs : s.inv fl) :
    (actCamSync p s).inv fl := by
  unfold actCamSync
  try dsimp only
  repeat' first
    | with_reducible assumption | with_reducible apply modCam_wf | with_reducible apply completeOk_wf

theorem execCamSync_wf (p : Pkt) (s : State) (hs : s.inv fl) :
    Res.wf fl (execCamSync p s) := by
  unfold execCamSync
  try dsimp only
  repeat' first
    | with_reducible assumption | with_reducible apply res_next | with_reducible exact res_fault | with_reducible exact res_refused
    | with_reducible apply actCamSync_wf | with_reducible apply runCmd_wf

theorem actCamWindow_wf (p : Pkt) (s : State) (hs : s.inv fl) :
    (actCamWindow p s).inv fl := by
  unfold actCamWindow
  try dsimp only
  repeat' first
    | with_reducible assumption | with_reducible apply dropWindow_wf | with_reducible apply mapWindow_wf
    | with_reducible apply completeOk_wf | split
    | (simp only [wf_mk]; with_reducible refine wf_parts ?_)

theorem execCamWindow_wf (p : Pkt) (s : State) (hs : s.inv fl) :
    Res.wf fl (execCamWindow p s) := by
  unfold execCamWindow
  try dsimp only
  repeat' first
    | with_reducible assumption | with_reducible apply res_next | with_reducible exact res_fault | with_reducible exact res_refused
    | with_reducible apply actCamWindow_wf | with_reducible apply runCmd_wf

theorem actCamAttach_wf (p : Pkt) (s : State) (hs : s.inv fl) :
    (actCamAttach p s).inv fl := by
  unfold actCamAttach
  try dsimp only
  repeat' first
    | with_reducible assumption | with_reducible apply completeOk_wf | split
    | (simp only [wf_mk]; with_reducible refine wf_parts ?_)

theorem execCamAttach_wf (p : Pkt) (s : State) (hs : s.inv fl) :
    Res.wf fl (execCamAttach p s) := by
  unfold execCamAttach
  try dsimp only
  repeat' first
    | with_reducible assumption | with_reducible apply res_next | with_reducible exact res_fault | with_reducible exact res_refused
    | with_reducible apply actCamAttach_wf | with_reducible apply runCmd_wf

theorem actCamWait_wf (p : Pkt) (s : State) (hs : s.inv fl) :
    (actCamWait p s).inv fl := by
  unfold actCamWait
  try dsimp only
  repeat' first
    | with_reducible assumption | with_reducible apply modCam_wf | with_reducible apply handOn_wf | with_reducible apply complete_wf
    | split

theorem execCamWait_wf (p : Pkt) (s : State) (hs : s.inv fl) :
    Res.wf fl (execCamWait p s) := by
  unfold execCamWait
  try dsimp only
  repeat' first
    | with_reducible assumption | with_reducible apply res_next | with_reducible exact res_fault | with_reducible exact res_refused
    | with_reducible apply actCamWait_wf | with_reducible apply runCmd_wf

theorem actCamPresence_wf (p : Pkt) (s : State) (hs : s.inv fl) :
    (actCamPresence p s).inv fl := by
  unfold actCamPresence
  try dsimp only
  repeat' first
    | with_reducible assumption | with_reducible apply readWords_wf | with_reducible apply completeOk_wf
    | split | (simp only [wf_mk]; with_reducible refine wf_parts ?_)

theorem execCamPresence_wf (p : Pkt) (s : State) (hs : s.inv fl) :
    Res.wf fl (execCamPresence p s) := by
  unfold execCamPresence
  try dsimp only
  repeat' first
    | with_reducible assumption | with_reducible apply res_next | with_reducible exact res_fault | with_reducible exact res_refused
    | with_reducible apply actCamPresence_wf | with_reducible apply runHost_wf

end Sys2Proof.Machine
end

