-- ==== Sys2Proof/Laws/WfAudio.lean ====
section
/-! SUPPORT. Every operation and command of Machine/Audio.lean keeps the canonical form of the tables: one lemma per function. -/

namespace Sys2Proof.Machine

variable {fl : Floors}

theorem micPins_wf (s : State) (hs : s.inv fl) :
    (micPins s).inv fl := by
  unfold micPins
  try dsimp only
  repeat' first
    | with_reducible assumption | split
    | (simp only [wf_mk]; with_reducible refine wf_parts ?_)

theorem startLp_wf (s : State) (hs : s.inv fl) :
    (startLp s).inv fl := by
  unfold startLp
  try dsimp only
  repeat' first
    | with_reducible assumption | with_reducible apply micPins_wf | split
    | (simp only [wf_mk]; with_reducible refine wf_parts ?_)

theorem settleHq_wf (s : State) (hs : s.inv fl) :
    (settleHq s).inv fl := by
  unfold settleHq
  try dsimp only
  repeat' first
    | with_reducible assumption | with_reducible apply micPins_wf | split
    | (simp only [wf_mk]; with_reducible refine wf_parts ?_)

theorem startHq_wf (s : State) (hs : s.inv fl) :
    (startHq s).inv fl := by
  unfold startHq
  try dsimp only
  repeat' first
    | with_reducible assumption | with_reducible apply settleHq_wf | split
    | (simp only [wf_mk]; with_reducible refine wf_parts ?_)

theorem leaveHq_wf (s : State) (hs : s.inv fl) :
    (leaveHq s).inv fl := by
  unfold leaveHq
  try dsimp only
  repeat' first
    | with_reducible assumption | split
    | (simp only [wf_mk]; with_reducible refine wf_parts ?_)

theorem wakeMics_wf (s : State) (hs : s.inv fl) :
    (wakeMics s).inv fl := by
  unfold wakeMics
  try dsimp only
  repeat' first
    | with_reducible assumption | split
    | (simp only [wf_mk]; with_reducible refine wf_parts ?_)

theorem sleepMics_wf (s : State) (hs : s.inv fl) :
    (sleepMics s).inv fl := by
  unfold sleepMics
  try dsimp only
  repeat' first
    | with_reducible assumption | split
    | (simp only [wf_mk]; with_reducible refine wf_parts ?_)

theorem openBlock_wf (c : Capture) (k : ℕ) (s : State) (hs : s.inv fl) :
    (openBlock c k s).inv fl := by
  unfold openBlock
  try dsimp only
  repeat' first
    | with_reducible assumption | with_reducible apply vwrite_wf

theorem stopRing_wf (r : ℕ) (s : State) (hs : s.inv fl) :
    (stopRing r s).inv fl := by
  unfold stopRing
  try dsimp only
  repeat' first
    | with_reducible assumption | with_reducible apply complete_wf | with_reducible apply completeOk_wf
    | (with_reducible refine foldl_wf ?_ ?_; intro _ _ _) | split | (simp only [wf_mk]; with_reducible refine wf_parts ?_)

theorem ringBlock_wf (r : ℕ) (i : ℕ) (x : AudioBlock) (s : State) (hs : s.inv fl) :
    (ringBlock r i x s).inv fl := by
  unfold ringBlock
  try dsimp only
  repeat' first
    | with_reducible assumption | with_reducible apply stopRing_wf | with_reducible apply openBlock_wf | with_reducible apply complete_wf
    | with_reducible apply vwrite_wf | (with_reducible refine foldl_wf ?_ ?_; intro _ _ _) | split
    | (simp only [wf_mk]; with_reducible refine wf_parts ?_)

theorem reelBlockEnd_wf (i : ℕ) (x : AudioBlock) (s0 : State) (hs0 : s0.inv fl) :
    (reelBlockEnd i x s0).inv fl := by
  unfold reelBlockEnd
  try dsimp only
  repeat' first
    | with_reducible assumption | with_reducible apply takeSource_wf | split
    | (simp only [wf_mk]; with_reducible refine wf_parts ?_)

theorem lineFaults_wf (x : AudioBlock) (s : State) (hs : s.inv fl) :
    (lineFaults x s).inv fl := by
  unfold lineFaults
  try dsimp only
  repeat' first
    | with_reducible assumption | with_reducible apply chanEvent_wf | (with_reducible refine foldl_wf ?_ ?_; intro _ _ _) | split

theorem takeRecords_wf (s : State) (hs : s.inv fl) :
    (takeRecords s).inv fl := by
  unfold takeRecords
  try dsimp only
  repeat' first
    | with_reducible assumption | split
    | (simp only [wf_mk]; with_reducible refine wf_parts ?_)

theorem modI2s_wf (n : ℕ) (f : I2s → I2s) (s : State) (hs : s.inv fl) :
    (modI2s n f s).inv fl := by
  unfold modI2s
  try dsimp only
  repeat' first
    | with_reducible assumption | split
    | (simp only [wf_mk]; with_reducible refine wf_parts ?_)

theorem takeOffsets_wf (x : AudioBlock) (s : State) (hs : s.inv fl) :
    (takeOffsets x s).inv fl := by
  unfold takeOffsets
  try dsimp only
  repeat' first
    | with_reducible assumption | with_reducible apply modI2s_wf | (with_reducible refine foldl_wf ?_ ?_; intro _ _ _) | split

theorem keepLines_wf (i : ℕ) (x : AudioBlock) (s : State) (hs : s.inv fl) :
    (keepLines i x s).inv fl := by
  unfold keepLines
  try dsimp only
  repeat' first
    | with_reducible assumption | split
    | (simp only [wf_mk]; with_reducible refine wf_parts ?_)

theorem execAudioBlockEnd_wf (x : AudioBlock) (s : State) (hs : s.inv fl) :
    Res.wf fl (execAudioBlockEnd x s) := by
  unfold execAudioBlockEnd
  try dsimp only
  repeat' first
    | with_reducible assumption | with_reducible apply res_next | with_reducible exact res_fault | with_reducible exact res_refused
    | with_reducible apply keepLines_wf | with_reducible apply takeOffsets_wf | with_reducible apply takeRecords_wf
    | with_reducible apply lineFaults_wf | with_reducible apply reelBlockEnd_wf | with_reducible apply ringBlock_wf
    | with_reducible apply settled_wf | with_reducible apply elapseTo_wf | (with_reducible refine foldl_wf ?_ ?_; intro _ _ _) | split
    | (simp only [wf_mk]; with_reducible refine wf_parts ?_)

theorem playOut_wf (n : ℕ) (t : ℕ) (fs : List (List ℤ)) (s : State) (hs : s.inv fl) :
    (playOut n t fs s).inv fl := by
  unfold playOut
  try dsimp only
  repeat' first
    | with_reducible assumption | with_reducible apply modI2s_wf | split
    | (simp only [wf_mk]; with_reducible refine wf_parts ?_)

theorem playZeros_wf (n : ℕ) (q : I2s) (g : Play) (s : State) (hs : s.inv fl) :
    (playZeros n q g s).inv fl := by
  unfold playZeros
  try dsimp only
  repeat' first
    | with_reducible assumption | with_reducible apply playOut_wf | with_reducible apply modI2s_wf | with_reducible apply vwrite_wf

theorem playBlock_wf (n : ℕ) (q : I2s) (g : Play) (s : State) (hs : s.inv fl) :
    (playBlock n q g s).inv fl := by
  unfold playBlock
  try dsimp only
  repeat' first
    | with_reducible assumption | with_reducible apply playOut_wf | with_reducible apply modI2s_wf | with_reducible apply vwrite_wf

theorem execPlaybackBlockFetch_wf (n : ℕ) (s : State) (hs : s.inv fl) :
    Res.wf fl (execPlaybackBlockFetch n s) := by
  unfold execPlaybackBlockFetch
  try dsimp only
  repeat' first
    | with_reducible assumption | with_reducible apply res_next | with_reducible exact res_fault | with_reducible exact res_refused
    | with_reducible apply playBlock_wf | with_reducible apply playZeros_wf | with_reducible apply modI2s_wf
    | with_reducible apply elapseTo_wf | split

theorem execI2sClockLoss_wf (n : ℕ) (s : State) (hs : s.inv fl) :
    Res.wf fl (execI2sClockLoss n s) := by
  unfold execI2sClockLoss
  try dsimp only
  repeat' first
    | with_reducible assumption | with_reducible apply res_next | with_reducible exact res_fault | with_reducible exact res_refused
    | with_reducible apply modI2s_wf | split

theorem execI2sClockResume_wf (n : ℕ) (s : State) (hs : s.inv fl) :
    Res.wf fl (execI2sClockResume n s) := by
  unfold execI2sClockResume
  try dsimp only
  repeat' first
    | with_reducible assumption | with_reducible apply res_next | with_reducible exact res_fault | with_reducible exact res_refused
    | with_reducible apply modI2s_wf | split

theorem execPrivMicAssert_wf (s : State) (hs : s.inv fl) :
    Res.wf fl (execPrivMicAssert s) := by
  unfold execPrivMicAssert
  split
  · exact hs
  · have h1 : ({ s with audio.pin := true, audio.gate := true } : State).inv fl := ⟨hs.1, hs.2.1, hs.2.2.1, ⟨hs.2.2.2.1.1, rfl⟩, hs.2.2.2.2⟩
    exact glbEvent_wf _ _ (micPins_wf _ h1)

theorem releaseMic_wf (s : State) (hs : s.inv fl) :
    (releaseMic s).inv fl := by
  unfold releaseMic
  exact micPins_wf _ ⟨hs.1, hs.2.1, hs.2.2.1, ⟨hs.2.2.2.1.1, rfl⟩, hs.2.2.2.2⟩

theorem execPrivMicRelease_wf (s : State) (hs : s.inv fl) :
    Res.wf fl (execPrivMicRelease s) := by
  unfold execPrivMicRelease
  split
  · exact hs
  · exact glbEvent_wf _ _ (releaseMic_wf _ (elapseTo_wf _ _ hs))

theorem actAudQuery_wf (p : Pkt) (s : State) (hs : s.inv fl) :
    (actAudQuery p s).inv fl := by
  unfold actAudQuery
  try dsimp only
  repeat' first
    | with_reducible assumption | with_reducible apply completeOk_wf

theorem execAudQuery_wf (p : Pkt) (s : State) (hs : s.inv fl) :
    Res.wf fl (execAudQuery p s) := by
  unfold execAudQuery
  try dsimp only
  repeat' first
    | with_reducible assumption | with_reducible apply res_next | with_reducible exact res_fault | with_reducible exact res_refused
    | with_reducible apply actAudQuery_wf | with_reducible apply runCmd_wf

theorem actAudAssign_wf (p : Pkt) (s : State) (hs : s.inv fl) :
    (actAudAssign p s).inv fl := by
  unfold actAudAssign
  try dsimp only
  repeat' first
    | with_reducible assumption | with_reducible apply modI2s_wf | with_reducible apply completeOk_wf
    | split | (simp only [wf_mk]; with_reducible refine wf_parts ?_)

theorem execAudAssign_wf (p : Pkt) (s : State) (hs : s.inv fl) :
    Res.wf fl (execAudAssign p s) := by
  unfold execAudAssign
  try dsimp only
  repeat' first
    | with_reducible assumption | with_reducible apply res_next | with_reducible exact res_fault | with_reducible exact res_refused
    | with_reducible apply actAudAssign_wf | with_reducible apply runCmd_wf

theorem actAudClock_wf (p : Pkt) (s : State) (hs : s.inv fl) :
    (actAudClock p s).inv fl := by
  unfold actAudClock
  try dsimp only
  repeat' first
    | with_reducible assumption | with_reducible apply completeOk_wf | split
    | (simp only [wf_mk]; with_reducible refine wf_parts ?_)

theorem execAudClock_wf (p : Pkt) (s : State) (hs : s.inv fl) :
    Res.wf fl (execAudClock p s) := by
  unfold execAudClock
  try dsimp only
  repeat' first
    | with_reducible assumption | with_reducible apply res_next | with_reducible exact res_fault | with_reducible exact res_refused
    | with_reducible apply actAudClock_wf | with_reducible apply runCmd_wf

theorem actAudLp_wf (p : Pkt) (s : State) (hs : s.inv fl) :
    (actAudLp p s).inv fl := by
  unfold actAudLp
  try dsimp only
  repeat' first
    | with_reducible assumption | with_reducible apply readWords_wf | with_reducible apply completeOk_wf
    | split | (simp only [wf_mk]; with_reducible refine wf_parts ?_)

theorem execAudLp_wf (p : Pkt) (s : State) (hs : s.inv fl) :
    Res.wf fl (execAudLp p s) := by
  unfold execAudLp
  try dsimp only
  repeat' first
    | with_reducible assumption | with_reducible apply res_next | with_reducible exact res_fault | with_reducible exact res_refused
    | with_reducible apply actAudLp_wf | with_reducible apply runHost_wf

theorem actAudBeam_wf (p : Pkt) (s : State) (hs : s.inv fl) :
    (actAudBeam p s).inv fl := by
  unfold actAudBeam
  try dsimp only
  repeat' first
    | with_reducible assumption | with_reducible apply readWords_wf | with_reducible apply completeOk_wf
    | split | (simp only [wf_mk]; with_reducible refine wf_parts ?_)

theorem execAudBeam_wf (p : Pkt) (s : State) (hs : s.inv fl) :
    Res.wf fl (execAudBeam p s) := by
  unfold execAudBeam
  try dsimp only
  repeat' first
    | with_reducible assumption | with_reducible apply res_next | with_reducible exact res_fault | with_reducible exact res_refused
    | with_reducible apply actAudBeam_wf | with_reducible apply runHost_wf

theorem actAudCapture_wf (p : Pkt) (s : State) (hs : s.inv fl) :
    (actAudCapture p s).inv fl := by
  unfold actAudCapture
  try dsimp only
  repeat' first
    | with_reducible assumption | with_reducible apply completeOk_wf | split
    | (simp only [wf_mk]; with_reducible refine wf_parts ?_)

theorem execAudCapture_wf (p : Pkt) (s : State) (hs : s.inv fl) :
    Res.wf fl (execAudCapture p s) := by
  unfold execAudCapture
  try dsimp only
  repeat' first
    | with_reducible assumption | with_reducible apply res_next | with_reducible exact res_fault | with_reducible exact res_refused
    | with_reducible apply actAudCapture_wf | with_reducible apply runCmd_wf

theorem actAudStart_wf (p : Pkt) (s : State) (hs : s.inv fl) :
    (actAudStart p s).inv fl := by
  unfold actAudStart
  try dsimp only
  repeat' first
    | with_reducible assumption | with_reducible apply completeOk_wf | split
    | (simp only [wf_mk]; with_reducible refine wf_parts ?_)

theorem execAudStart_wf (p : Pkt) (s : State) (hs : s.inv fl) :
    Res.wf fl (execAudStart p s) := by
  unfold execAudStart
  try dsimp only
  repeat' first
    | with_reducible assumption | with_reducible apply res_next | with_reducible exact res_fault | with_reducible exact res_refused
    | with_reducible apply actAudStart_wf | with_reducible apply runCmd_wf

theorem actAudStop_wf (p : Pkt) (s : State) (hs : s.inv fl) :
    (actAudStop p s).inv fl := by
  unfold actAudStop
  try dsimp only
  repeat' first
    | with_reducible assumption | with_reducible apply handOn_wf | split
    | (simp only [wf_mk]; with_reducible refine wf_parts ?_)

theorem execAudStop_wf (p : Pkt) (s : State) (hs : s.inv fl) :
    Res.wf fl (execAudStop p s) := by
  unfold execAudStop
  try dsimp only
  repeat' first
    | with_reducible assumption | with_reducible apply res_next | with_reducible exact res_fault | with_reducible exact res_refused
    | with_reducible apply actAudStop_wf | with_reducible apply runCmd_wf

theorem actAudI2s_wf (p : Pkt) (s : State) (hs : s.inv fl) :
    (actAudI2s p s).inv fl := by
  unfold actAudI2s
  try dsimp only
  repeat' first
    | with_reducible assumption | with_reducible apply modI2s_wf | with_reducible apply completeOk_wf

theorem execAudI2s_wf (p : Pkt) (s : State) (hs : s.inv fl) :
    Res.wf fl (execAudI2s p s) := by
  unfold execAudI2s
  try dsimp only
  repeat' first
    | with_reducible assumption | with_reducible apply res_next | with_reducible exact res_fault | with_reducible exact res_refused
    | with_reducible apply actAudI2s_wf | with_reducible apply runCmd_wf

theorem actAudPlay_wf (p : Pkt) (s : State) (hs : s.inv fl) :
    (actAudPlay p s).inv fl := by
  unfold actAudPlay
  try dsimp only
  repeat' first
    | with_reducible assumption | with_reducible apply modI2s_wf | with_reducible apply completeOk_wf | with_reducible apply vwrite_wf
    | split

theorem execAudPlay_wf (p : Pkt) (s : State) (hs : s.inv fl) :
    Res.wf fl (execAudPlay p s) := by
  unfold execAudPlay
  try dsimp only
  repeat' first
    | with_reducible assumption | with_reducible apply res_next | with_reducible exact res_fault | with_reducible exact res_refused
    | with_reducible apply actAudPlay_wf | with_reducible apply runHost_wf

theorem actAudWait_wf (p : Pkt) (s : State) (hs : s.inv fl) :
    (actAudWait p s).inv fl := by
  unfold actAudWait
  try dsimp only
  repeat' first
    | with_reducible assumption | with_reducible apply handOn_wf | with_reducible apply complete_wf
    | split | (simp only [wf_mk]; with_reducible refine wf_parts ?_)

theorem execAudWait_wf (p : Pkt) (s : State) (hs : s.inv fl) :
    Res.wf fl (execAudWait p s) := by
  unfold execAudWait
  try dsimp only
  repeat' first
    | with_reducible assumption | with_reducible apply res_next | with_reducible exact res_fault | with_reducible exact res_refused
    | with_reducible apply actAudWait_wf | with_reducible apply runCmd_wf

end Sys2Proof.Machine
end

