-- ==== Sys2Proof/Laws/WfTimekeeper.lean ====
section
/-! SUPPORT. Every operation and command of Machine/Timekeeper.lean keeps the canonical form of the tables: one lemma per function. -/

namespace Sys2Proof.Machine

variable {fl : Floors}

theorem modDom_wf (d : ℕ) (f : Domain → Domain) (s : State) (hs : s.inv fl) :
    (modDom d f s).inv fl := by
  unfold modDom
  try dsimp only
  repeat' first
    | with_reducible assumption | split
    | (simp only [wf_mk]; with_reducible refine wf_parts ?_)

theorem modEth_wf (n : ℕ) (f : Eth → Eth) (s : State) (hs : s.inv fl) :
    (modEth n f s).inv fl := by
  unfold modEth
  try dsimp only
  repeat' first
    | with_reducible assumption | split
    | (simp only [wf_mk]; with_reducible refine wf_parts ?_)

theorem selectDom_wf (d : ℕ) (s : State) (hs : s.inv fl) :
    (selectDom d s).inv fl := by
  unfold selectDom
  try dsimp only
  repeat' first
    | with_reducible assumption | split
    | (simp only [wf_mk]; with_reducible refine wf_parts ?_)

theorem leaveDom_wf (s : State) (hs : s.inv fl) :
    (leaveDom s).inv fl := by
  unfold leaveDom
  try dsimp only
  repeat' first
    | with_reducible assumption | split
    | (simp only [wf_mk]; with_reducible refine wf_parts ?_)

theorem reselect_wf (s : State) (hs : s.inv fl) :
    (reselect s).inv fl := by
  unfold reselect
  try dsimp only
  repeat' first
    | with_reducible assumption | with_reducible apply leaveDom_wf | with_reducible apply selectDom_wf | with_reducible apply glbEvent_wf
    | split | (simp only [wf_mk]; with_reducible refine wf_parts ?_)

theorem execGptpSync_wf (m : SyncMsg) (s : State) (hs : s.inv fl) :
    Res.wf fl (execGptpSync m s) := by
  unfold execGptpSync
  try dsimp only
  repeat' first
    | with_reducible assumption | with_reducible apply res_next | with_reducible exact res_fault | with_reducible exact res_refused
    | with_reducible apply reselect_wf | with_reducible apply modDom_wf | split
    | (simp only [wf_mk]; with_reducible refine wf_parts ?_)

theorem execGptpAnnounce_wf (d : ℕ) (n : ℕ) (gm : Announced) (receiptTimeout : ℕ) (s : State) (hs : s.inv fl) :
    Res.wf fl (execGptpAnnounce d n gm receiptTimeout s) := by
  unfold execGptpAnnounce
  try dsimp only
  repeat' first
    | with_reducible assumption | with_reducible apply res_next | with_reducible exact res_fault | with_reducible exact res_refused
    | with_reducible apply reselect_wf | with_reducible apply modDom_wf | split

theorem execGptpPdelay_wf (n : ℕ) (delay : Pdelay) (s : State) (hs : s.inv fl) :
    Res.wf fl (execGptpPdelay n delay s) := by
  unfold execGptpPdelay
  try dsimp only
  repeat' first
    | with_reducible assumption | with_reducible apply res_next | with_reducible exact res_fault | with_reducible exact res_refused
    | with_reducible apply modEth_wf | with_reducible apply elapseTo_wf | split
    | (simp only [wf_mk]; with_reducible refine wf_parts ?_)

theorem loseDom_wf (d : ℕ) (s : State) (hs : s.inv fl) :
    (loseDom d s).inv fl := by
  unfold loseDom
  try dsimp only
  repeat' first
    | with_reducible assumption | with_reducible apply modDom_wf

theorem execSyncReceiptTimeout_wf (d : ℕ) (s : State) (hs : s.inv fl) :
    Res.wf fl (execSyncReceiptTimeout d s) := by
  unfold execSyncReceiptTimeout
  try dsimp only
  repeat' first
    | with_reducible assumption | with_reducible apply res_next | with_reducible exact res_fault | with_reducible exact res_refused
    | with_reducible apply loseDom_wf | with_reducible apply reselect_wf | with_reducible apply elapseTo_wf
    | split

theorem execRevertiveTimer_wf (s : State) (hs : s.inv fl) :
    Res.wf fl (execRevertiveTimer s) := by
  unfold execRevertiveTimer
  try dsimp only
  repeat' first
    | with_reducible assumption | with_reducible apply res_next | with_reducible exact res_fault | with_reducible exact res_refused
    | with_reducible apply selectDom_wf | with_reducible apply glbEvent_wf | with_reducible apply elapseTo_wf
    | split

theorem actTkQuery_wf (p : Pkt) (s : State) (hs : s.inv fl) :
    (actTkQuery p s).inv fl := by
  unfold actTkQuery
  try dsimp only
  repeat' first
    | with_reducible assumption | with_reducible apply completeOk_wf | with_reducible apply vwrite_wf

theorem execTkQuery_wf (p : Pkt) (s : State) (hs : s.inv fl) :
    Res.wf fl (execTkQuery p s) := by
  unfold execTkQuery
  try dsimp only
  repeat' first
    | with_reducible assumption | with_reducible apply res_next | with_reducible exact res_fault | with_reducible exact res_refused
    | with_reducible apply actTkQuery_wf | with_reducible apply runHost_wf

theorem actTkConfig_wf (p : Pkt) (s : State) (hs : s.inv fl) :
    (actTkConfig p s).inv fl := by
  unfold actTkConfig
  try dsimp only
  repeat' first
    | with_reducible assumption | with_reducible apply reselect_wf | with_reducible apply completeOk_wf
    | split | (simp only [wf_mk]; with_reducible refine wf_parts ?_)

theorem execTkConfig_wf (p : Pkt) (s : State) (hs : s.inv fl) :
    Res.wf fl (execTkConfig p s) := by
  unfold execTkConfig
  try dsimp only
  repeat' first
    | with_reducible assumption | with_reducible apply res_next | with_reducible exact res_fault | with_reducible exact res_refused
    | with_reducible apply actTkConfig_wf | with_reducible apply runCmd_wf

theorem actTkSelect_wf (p : Pkt) (s : State) (hs : s.inv fl) :
    (actTkSelect p s).inv fl := by
  unfold actTkSelect
  try dsimp only
  repeat' first
    | with_reducible assumption | with_reducible apply reselect_wf | with_reducible apply leaveDom_wf | with_reducible apply selectDom_wf
    | with_reducible apply completeOk_wf | with_reducible apply glbEvent_wf | split
    | (simp only [wf_mk]; with_reducible refine wf_parts ?_)

theorem execTkSelect_wf (p : Pkt) (s : State) (hs : s.inv fl) :
    Res.wf fl (execTkSelect p s) := by
  unfold execTkSelect
  try dsimp only
  repeat' first
    | with_reducible assumption | with_reducible apply res_next | with_reducible exact res_fault | with_reducible exact res_refused
    | with_reducible apply actTkSelect_wf | with_reducible apply runCmd_wf

end Sys2Proof.Machine
end

