-- ==== Sys2Proof/Laws/WfEvents.lean ====
section
/-! SUPPORT. Every operation and command of Machine/Events.lean keeps the canonical form of the tables: one lemma per function. -/

namespace Sys2Proof.Machine

variable {fl : Floors}

theorem modEv_wf (n : ℕ) (f : Ev → Ev) (s : State) (hs : s.inv fl) :
    (modEv n f s).inv fl := by
  unfold modEv
  try dsimp only
  repeat' first
    | with_reducible assumption | split
    | (simp only [wf_mk]; with_reducible refine wf_parts ?_)

theorem syncPort_wf (k : ℕ) (s : State) (hs : s.inv fl) :
    (syncPort k s).inv fl := by
  unfold syncPort
  try dsimp only
  repeat' first
    | with_reducible assumption | with_reducible apply mutedFrame_wf | with_reducible apply modCam_wf
    | split

theorem fireTrigger_wf (n : ℕ) (late : Bool) (s : State) (hs : s.inv fl) :
    (fireTrigger n late s).inv fl := by
  unfold fireTrigger
  try dsimp only
  repeat' first
    | with_reducible assumption | with_reducible apply syncPort_wf | with_reducible apply modEv_wf
    | with_reducible apply startBoundRuns_wf | with_reducible apply raiseVec_wf | (with_reducible refine foldl_wf ?_ ?_; intro _ _ _)
    | split

theorem execEventTriggerFire_wf (n : ℕ) (s : State) (hs : s.inv fl) :
    Res.wf fl (execEventTriggerFire n s) := by
  unfold execEventTriggerFire
  try dsimp only
  repeat' first
    | with_reducible assumption | with_reducible apply res_next | with_reducible exact res_fault | with_reducible exact res_refused
    | with_reducible apply fireTrigger_wf | with_reducible apply settled_wf | with_reducible apply elapseTo_wf
    | split

theorem capture_wf (n : ℕ) (t : ℕ) (s : State) (hs : s.inv fl) :
    (capture n t s).inv fl := by
  unfold capture
  try dsimp only
  repeat' first
    | with_reducible assumption | with_reducible apply modEv_wf | with_reducible apply startBoundRuns_wf
    | with_reducible apply raiseVec_wf | split

theorem execEventCaptureEdge_wf (n : ℕ) (rising : Bool) (t : ℕ) (s : State) (hs : s.inv fl) :
    Res.wf fl (execEventCaptureEdge n rising t s) := by
  unfold execEventCaptureEdge
  try dsimp only
  repeat' first
    | with_reducible assumption | with_reducible apply res_next | with_reducible exact res_fault | with_reducible exact res_refused
    | with_reducible apply capture_wf | with_reducible apply modEv_wf | with_reducible apply settled_wf | with_reducible apply elapseTo_wf
    | split

theorem execOutputPulseEnd_wf (channel : Option ℕ) (camera : Option ℕ) (s : State) (hs : s.inv fl) :
    Res.wf fl (execOutputPulseEnd channel camera s) := by
  unfold execOutputPulseEnd
  try dsimp only
  repeat' first
    | with_reducible assumption | with_reducible apply res_next | with_reducible exact res_fault | with_reducible exact res_refused
    | with_reducible apply modEv_wf | with_reducible apply modCam_wf | with_reducible apply elapseTo_wf
    | split

theorem stopEvents_wf (s : State) (hs : s.inv fl) :
    (stopEvents s).inv fl := by
  unfold stopEvents
  try dsimp only
  repeat' first
    | with_reducible assumption | split
    | (simp only [wf_mk]; with_reducible refine wf_parts ?_)

theorem resumeEvent_wf (n : ℕ) (s : State) (hs : s.inv fl) :
    (resumeEvent n s).inv fl := by
  unfold resumeEvent
  try dsimp only
  repeat' first
    | with_reducible assumption | with_reducible apply fireTrigger_wf | with_reducible apply modEv_wf
    | split

theorem resumeEvents_wf (s : State) (hs : s.inv fl) :
    (resumeEvents s).inv fl := by
  unfold resumeEvents
  try dsimp only
  repeat' first
    | with_reducible assumption | with_reducible apply resumeEvent_wf | (with_reducible refine foldl_wf ?_ ?_; intro _ _ _)

theorem actEvAssign_wf (p : Pkt) (s : State) (hs : s.inv fl) :
    (actEvAssign p s).inv fl := by
  unfold actEvAssign
  try dsimp only
  repeat' first
    | with_reducible assumption | with_reducible apply modEv_wf | with_reducible apply completeOk_wf

theorem execEvAssign_wf (p : Pkt) (s : State) (hs : s.inv fl) :
    Res.wf fl (execEvAssign p s) := by
  unfold execEvAssign
  try dsimp only
  repeat' first
    | with_reducible assumption | with_reducible apply res_next | with_reducible exact res_fault | with_reducible exact res_refused
    | with_reducible apply actEvAssign_wf | with_reducible apply runCmd_wf

theorem actEvConfig_wf (p : Pkt) (s : State) (hs : s.inv fl) :
    (actEvConfig p s).inv fl := by
  unfold actEvConfig
  try dsimp only
  repeat' first
    | with_reducible assumption | with_reducible apply fireTrigger_wf | with_reducible apply modEv_wf | with_reducible apply settle_wf
    | with_reducible apply completeOk_wf | split

theorem execEvConfig_wf (p : Pkt) (s : State) (hs : s.inv fl) :
    Res.wf fl (execEvConfig p s) := by
  unfold execEvConfig
  try dsimp only
  repeat' first
    | with_reducible assumption | with_reducible apply res_next | with_reducible exact res_fault | with_reducible exact res_refused
    | with_reducible apply actEvConfig_wf | with_reducible apply runCmd_wf

theorem actEvQuery_wf (p : Pkt) (s : State) (hs : s.inv fl) :
    (actEvQuery p s).inv fl := by
  unfold actEvQuery
  try dsimp only
  repeat' first
    | with_reducible assumption | with_reducible apply completeOk_wf | with_reducible apply vwrite_wf

theorem execEvQuery_wf (p : Pkt) (s : State) (hs : s.inv fl) :
    Res.wf fl (execEvQuery p s) := by
  unfold execEvQuery
  try dsimp only
  repeat' first
    | with_reducible assumption | with_reducible apply res_next | with_reducible exact res_fault | with_reducible exact res_refused
    | with_reducible apply actEvQuery_wf | with_reducible apply runHost_wf

theorem actEvReadCapture_wf (p : Pkt) (s : State) (hs : s.inv fl) :
    (actEvReadCapture p s).inv fl := by
  unfold actEvReadCapture
  try dsimp only
  repeat' first
    | with_reducible assumption | with_reducible apply modEv_wf | with_reducible apply completeOk_wf | with_reducible apply vwrite_wf

theorem execEvReadCapture_wf (p : Pkt) (s : State) (hs : s.inv fl) :
    Res.wf fl (execEvReadCapture p s) := by
  unfold execEvReadCapture
  try dsimp only
  repeat' first
    | with_reducible assumption | with_reducible apply res_next | with_reducible exact res_fault | with_reducible exact res_refused
    | with_reducible apply actEvReadCapture_wf | with_reducible apply runHost_wf

end Sys2Proof.Machine
end

