-- ==== Sys2Proof/Laws/WfNetwork.lean ====
section
/-! SUPPORT. Every operation and command of Machine/Network.lean keeps the canonical form of the tables: one lemma per function. -/

namespace Sys2Proof.Machine

variable {fl : Floors}

theorem execEthLinkChange_wf (n : ℕ) (up : Bool) (s : State) (hs : s.inv fl) :
    Res.wf fl (execEthLinkChange n up s) := by
  unfold execEthLinkChange
  try dsimp only
  repeat' first
    | with_reducible assumption | with_reducible apply res_next | with_reducible exact res_fault | with_reducible exact res_refused
    | with_reducible apply modEth_wf | with_reducible apply settled_wf | with_reducible apply chanEvent_wf
    | split

theorem dropFrame_wf (n : ℕ) (s : State) (hs : s.inv fl) :
    (dropFrame n s).inv fl := by
  unfold dropFrame
  try dsimp only
  repeat' first
    | with_reducible assumption | with_reducible apply modEth_wf

theorem resolved_wf (n : ℕ) (hop : List Byte) (s : State) (hs : s.inv fl) :
    (resolved n hop s).inv fl := by
  unfold resolved
  try dsimp only
  repeat' first
    | with_reducible assumption | with_reducible apply modEth_wf

theorem execNeighborResolutionTimeout_wf (n : ℕ) (ip : List Byte) (s : State) (hs : s.inv fl) :
    Res.wf fl (execNeighborResolutionTimeout n ip s) := by
  unfold execNeighborResolutionTimeout
  try dsimp only
  repeat' first
    | with_reducible assumption | with_reducible apply res_next | with_reducible exact res_fault | with_reducible exact res_refused
    | with_reducible apply modEth_wf | with_reducible apply workEnded_wf | with_reducible apply complete_wf
    | with_reducible apply elapseTo_wf | (with_reducible refine foldl_wf ?_ ?_; intro _ _ _) | split

theorem departGptp_wf (n : ℕ) (t : ℕ) (g : GptpFrame) (s : State) (hs : s.inv fl) :
    (departGptp n t g s).inv fl := by
  unfold departGptp
  try dsimp only
  repeat' first
    | with_reducible assumption | with_reducible apply modEth_wf | split
    | (simp only [wf_mk]; with_reducible refine wf_parts ?_)

theorem execEthFrameDepart_wf (n : ℕ) (t : ℕ) (s : State) (hs : s.inv fl) :
    Res.wf fl (execEthFrameDepart n t s) := by
  unfold execEthFrameDepart
  try dsimp only
  repeat' first
    | with_reducible assumption | with_reducible apply res_next | with_reducible exact res_fault | with_reducible exact res_refused
    | with_reducible apply departGptp_wf | with_reducible apply modEth_wf | with_reducible apply settle_wf
    | with_reducible apply workEnded_wf | with_reducible apply chanEvent_wf | with_reducible apply completeOk_wf
    | with_reducible apply elapseTo_wf | split
    | (simp only [wf_mk]; with_reducible refine wf_parts ?_)

theorem sockDeliver_wf (h : ℕ) (k : Sock) (f : EthFrame) (s : State) (hs : s.inv fl) :
    (sockDeliver h k f s).inv fl := by
  unfold sockDeliver
  try dsimp only
  repeat' first
    | with_reducible assumption | with_reducible apply modEth_wf | with_reducible apply vwrite_wf
    | split | (simp only [wf_mk]; with_reducible refine wf_parts ?_)

theorem echo_wf (f : EthFrame) (s : State) (hs : s.inv fl) :
    (echo f s).inv fl := by
  unfold echo
  try dsimp only
  repeat' first
    | with_reducible assumption | with_reducible apply dropFrame_wf | with_reducible apply modEth_wf
    | split | (simp only [wf_mk]; with_reducible refine wf_parts ?_)

theorem resolveReply_wf (f : EthFrame) (target : List Byte) (v4 : Bool) (s : State) (hs : s.inv fl) :
    (resolveReply f target v4 s).inv fl := by
  unfold resolveReply
  try dsimp only
  repeat' first
    | with_reducible assumption | split
    | (simp only [wf_mk]; with_reducible refine wf_parts ?_)

theorem takeInterval_wf (n : ℕ) (r : Option ℤ) (s : State) (hs : s.inv fl) :
    (takeInterval n r s).inv fl := by
  unfold takeInterval
  try dsimp only
  repeat' first
    | with_reducible assumption | with_reducible apply modEth_wf | split

theorem deliverFrame_wf (f : EthFrame) (s : State) (hs : s.inv fl) :
    (deliverFrame f s).inv fl := by
  unfold deliverFrame
  try dsimp only
  repeat' first
    | with_reducible assumption | with_reducible apply takeInterval_wf | with_reducible apply resolveReply_wf
    | with_reducible apply echo_wf | with_reducible apply sockDeliver_wf | with_reducible apply resolved_wf
    | with_reducible apply dropFrame_wf | split

theorem execEthFrameReceive_wf (f : EthFrame) (s : State) (hs : s.inv fl) :
    Res.wf fl (execEthFrameReceive f s) := by
  unfold execEthFrameReceive
  try dsimp only
  repeat' first
    | with_reducible assumption | with_reducible apply res_next | with_reducible exact res_fault | with_reducible exact res_refused
    | with_reducible apply deliverFrame_wf | with_reducible apply dropFrame_wf | with_reducible apply settled_wf
    | with_reducible apply chanEvent_wf | with_reducible apply elapseTo_wf | split

theorem closeGwPort_wf (n : ℕ) (s : State) (hs : s.inv fl) :
    (closeGwPort n s).inv fl := by
  unfold closeGwPort
  try dsimp only
  repeat' first
    | with_reducible assumption | split
    | (simp only [wf_mk]; with_reducible refine wf_parts ?_)

theorem actNetConfig_wf (p : Pkt) (s : State) (hs : s.inv fl) :
    (actNetConfig p s).inv fl := by
  unfold actNetConfig
  try dsimp only
  repeat' first
    | with_reducible assumption | with_reducible apply closeGwPort_wf | with_reducible apply modEth_wf | with_reducible apply closePort_wf
    | with_reducible apply readWords_wf | with_reducible apply completeOk_wf | split
    | (simp only [wf_mk]; with_reducible refine wf_parts ?_)

theorem execNetConfig_wf (p : Pkt) (s : State) (hs : s.inv fl) :
    Res.wf fl (execNetConfig p s) := by
  unfold execNetConfig
  try dsimp only
  repeat' first
    | with_reducible assumption | with_reducible apply res_next | with_reducible exact res_fault | with_reducible exact res_refused
    | with_reducible apply actNetConfig_wf | with_reducible apply runHost_wf

theorem actNetQuery_wf (p : Pkt) (s : State) (hs : s.inv fl) :
    (actNetQuery p s).inv fl := by
  unfold actNetQuery
  try dsimp only
  repeat' first
    | with_reducible assumption | with_reducible apply modEth_wf | with_reducible apply completeOk_wf
    | split

theorem execNetQuery_wf (p : Pkt) (s : State) (hs : s.inv fl) :
    Res.wf fl (execNetQuery p s) := by
  unfold execNetQuery
  try dsimp only
  repeat' first
    | with_reducible assumption | with_reducible apply res_next | with_reducible exact res_fault | with_reducible exact res_refused
    | with_reducible apply actNetQuery_wf | with_reducible apply runCmd_wf

theorem actNetBind_wf (p : Pkt) (s : State) (hs : s.inv fl) :
    (actNetBind p s).inv fl := by
  unfold actNetBind
  try dsimp only
  repeat' first
    | with_reducible assumption | with_reducible apply completeOk_wf | split
    | (simp only [wf_mk]; with_reducible refine wf_parts ?_)

theorem execNetBind_wf (p : Pkt) (s : State) (hs : s.inv fl) :
    Res.wf fl (execNetBind p s) := by
  unfold execNetBind
  try dsimp only
  repeat' first
    | with_reducible assumption | with_reducible apply res_next | with_reducible exact res_fault | with_reducible exact res_refused
    | with_reducible apply actNetBind_wf | with_reducible apply runCmd_wf

theorem actNetSend_wf (p : Pkt) (s : State) (hs : s.inv fl) :
    (actNetSend p s).inv fl := by
  unfold actNetSend
  try dsimp only
  repeat' first
    | with_reducible assumption | with_reducible apply modEth_wf | with_reducible apply readWords_wf | with_reducible apply handOn_wf
    | split | (simp only [wf_mk]; with_reducible refine wf_parts ?_)

theorem execNetSend_wf (p : Pkt) (s : State) (hs : s.inv fl) :
    Res.wf fl (execNetSend p s) := by
  unfold execNetSend
  try dsimp only
  repeat' first
    | with_reducible assumption | with_reducible apply res_next | with_reducible exact res_fault | with_reducible exact res_refused
    | with_reducible apply actNetSend_wf | with_reducible apply runHost_wf

end Sys2Proof.Machine
end

