-- ==== Sys2Proof/Laws/WfGweug.lean ====
section
/-! SUPPORT. Every operation and command of Machine/Gweug.lean keeps the canonical form of the tables: one lemma per function. -/

namespace Sys2Proof.Machine

variable {fl : Floors}

theorem modGw_wf (id : ℕ) (f : GwSession → GwSession) (s : State) (hs : s.inv fl) :
    (modGw id f s).inv fl := by
  unfold modGw
  try dsimp only
  repeat' first
    | with_reducible assumption | split
    | (simp only [wf_mk]; with_reducible refine wf_parts ?_)

theorem modOut_wf (id : ℕ) (t : ℕ) (f : GwOut → GwOut) (s : State) (hs : s.inv fl) :
    (modOut id t f s).inv fl := by
  unfold modOut
  try dsimp only
  repeat' first
    | with_reducible assumption | split
    | (simp only [wf_mk]; with_reducible refine wf_parts ?_)

theorem dropOut_wf (id : ℕ) (t : ℕ) (s : State) (hs : s.inv fl) :
    (dropOut id t s).inv fl := by
  unfold dropOut
  try dsimp only
  repeat' first
    | with_reducible assumption | split
    | (simp only [wf_mk]; with_reducible refine wf_parts ?_)

theorem modIn_wf (id : ℕ) (t : ℕ) (f : GwIn → GwIn) (s : State) (hs : s.inv fl) :
    (modIn id t f s).inv fl := by
  unfold modIn
  try dsimp only
  repeat' first
    | with_reducible assumption | split
    | (simp only [wf_mk]; with_reducible refine wf_parts ?_)

theorem sendChunk_wf (x : GwOut) (c : ℕ) (s : State) (hs : s.inv fl) :
    (sendChunk x c s).inv fl := by
  unfold sendChunk
  try dsimp only
  repeat' first
    | with_reducible assumption | with_reducible apply gwSend_wf

theorem fillWindow_wf (id : ℕ) (t : ℕ) (s : State) (hs : s.inv fl) :
    (fillWindow id t s).inv fl := by
  unfold fillWindow
  try dsimp only
  repeat' first
    | with_reducible assumption | with_reducible apply sendChunk_wf | with_reducible apply modOut_wf
    | (with_reducible refine foldl_wf ?_ ?_; intro _ _ _) | split

theorem offer_wf (x : GwOut) (s : State) (hs : s.inv fl) :
    (offer x s).inv fl := by
  unfold offer
  try dsimp only
  repeat' first
    | with_reducible assumption | with_reducible apply modOut_wf | with_reducible apply gwSend_wf

theorem offerAll_wf (id : ℕ) (s : State) (hs : s.inv fl) :
    (offerAll id s).inv fl := by
  unfold offerAll
  try dsimp only
  repeat' first
    | with_reducible assumption | with_reducible apply offer_wf | (with_reducible refine foldl_wf ?_ ?_; intro _ _ _)

theorem sendHello_wf (k : ℕ) (s : State) (hs : s.inv fl) :
    (sendHello k s).2.inv fl := by
  unfold sendHello
  try dsimp only
  repeat' first
    | with_reducible assumption | with_reducible apply gwEmit_wf | split
    | (simp only [wf_mk]; with_reducible refine wf_parts ?_)

theorem sendReply_wf (id : ℕ) (k : ℕ) (hello : List Byte) (s : State) (hs : s.inv fl) :
    (sendReply id k hello s).inv fl := by
  unfold sendReply
  try dsimp only
  repeat' first
    | with_reducible assumption | with_reducible apply gwEmit_wf | split
    | (simp only [wf_mk]; with_reducible refine wf_parts ?_)

theorem takeHello_wf (m : GwMsg) (s : State) (hs : s.inv fl) :
    (takeHello m s).inv fl := by
  unfold takeHello
  try dsimp only
  repeat' first
    | with_reducible assumption | with_reducible apply sendReply_wf | with_reducible apply discard_wf | with_reducible apply gwEmit_wf
    | split | (simp only [wf_mk]; with_reducible refine wf_parts ?_)

theorem takeReply_wf (m : GwMsg) (s : State) (hs : s.inv fl) :
    (takeReply m s).inv fl := by
  unfold takeReply
  try dsimp only
  repeat' first
    | with_reducible assumption | with_reducible apply offerAll_wf | with_reducible apply modGw_wf | with_reducible apply discard_wf
    | with_reducible apply gwSend_wf | split
    | (simp only [wf_mk]; with_reducible refine wf_parts ?_)

theorem takeFinish_wf (m : GwMsg) (s : State) (hs : s.inv fl) :
    (takeFinish m s).inv fl := by
  unfold takeFinish
  try dsimp only
  repeat' first
    | with_reducible assumption | with_reducible apply offerAll_wf | with_reducible apply modGw_wf | with_reducible apply discard_wf
    | split

theorem execGwHandshakeMessage_wf (m : GwMsg) (s : State) (hs : s.inv fl) :
    Res.wf fl (execGwHandshakeMessage m s) := by
  unfold execGwHandshakeMessage
  try dsimp only
  repeat' first
    | with_reducible assumption | with_reducible apply res_next | with_reducible exact res_fault | with_reducible exact res_refused
    | with_reducible apply takeFinish_wf | with_reducible apply takeReply_wf | with_reducible apply takeHello_wf
    | with_reducible apply discard_wf | split

theorem gwNote_wf (id : ℕ) (n : ℕ) (s : State) (hs : s.inv fl) :
    (gwNote id n s).inv fl := by
  unfold gwNote
  try dsimp only
  repeat' first
    | with_reducible assumption | with_reducible apply modGw_wf | with_reducible apply gwDrop_wf
    | split

theorem gwTake_wf (m : GwMsg) (type : ℕ) (act : ℕ → State → State) (s : State) (ha : ∀ i t, t.inv fl → (act i t).inv fl) (hs : s.inv fl) :
    Res.wf fl (gwTake m type act s) := by
  unfold gwTake
  split
  · exact discard_wf _ hs
  · exact ha _ _ (gwNote_wf _ _ _ hs)

theorem answer_wf (id : ℕ) (t : ℕ) (c : Code) (slot : ℕ) (s : State) (hs : s.inv fl) :
    (answer id t c slot s).inv fl := by
  unfold answer
  try dsimp only
  repeat' first
    | with_reducible assumption | with_reducible apply gwSend_wf

theorem takeOffer_wf (m : GwMsg) (id : ℕ) (s : State) (hs : s.inv fl) :
    (takeOffer m id s).inv fl := by
  unfold takeOffer
  try dsimp only
  repeat' first
    | with_reducible assumption | with_reducible apply answer_wf | split
    | (simp only [wf_mk]; with_reducible refine wf_parts ?_)

theorem execGwOffer_wf (m : GwMsg) (s : State) (hs : s.inv fl) :
    Res.wf fl (execGwOffer m s) := by
  unfold execGwOffer
  try dsimp only
  repeat' first
    | with_reducible assumption | with_reducible apply res_next | with_reducible exact res_fault | with_reducible exact res_refused
    | with_reducible apply takeOffer_wf | with_reducible apply gwTake_wf

theorem sendAck_wf (x : GwIn) (flags : ℕ) (s : State) (hs : s.inv fl) :
    (sendAck x flags s).inv fl := by
  unfold sendAck
  try dsimp only
  repeat' first
    | with_reducible assumption | with_reducible apply modIn_wf | with_reducible apply gwSend_wf

theorem freeSlot_wf (x : GwIn) (s : State) (hs : s.inv fl) :
    (freeSlot x s).inv fl := by
  unfold freeSlot
  try dsimp only
  repeat' first
    | with_reducible assumption | split
    | (simp only [wf_mk]; with_reducible refine wf_parts ?_)

theorem deliverParcel_wf (x : GwIn) (peer : ℕ) (s : State) (hs : s.inv fl) :
    (deliverParcel x peer s).inv fl := by
  unfold deliverParcel
  try dsimp only
  repeat' first
    | with_reducible assumption | with_reducible apply freeSlot_wf | with_reducible apply sendAck_wf | with_reducible apply vwrite_wf
    | split | (simp only [wf_mk]; with_reducible refine wf_parts ?_)

theorem takeData_wf (m : GwMsg) (id : ℕ) (s : State) (hs : s.inv fl) :
    (takeData m id s).inv fl := by
  unfold takeData
  try dsimp only
  repeat' first
    | with_reducible assumption | with_reducible apply deliverParcel_wf | with_reducible apply sendAck_wf | with_reducible apply modIn_wf
    | split

theorem execGwData_wf (m : GwMsg) (s : State) (hs : s.inv fl) :
    Res.wf fl (execGwData m s) := by
  unfold execGwData
  try dsimp only
  repeat' first
    | with_reducible assumption | with_reducible apply res_next | with_reducible exact res_fault | with_reducible exact res_refused
    | with_reducible apply takeData_wf | with_reducible apply gwTake_wf

theorem execGwAckTimer_wf (session : ℕ) (transfer : ℕ) (s : State) (hs : s.inv fl) :
    Res.wf fl (execGwAckTimer session transfer s) := by
  unfold execGwAckTimer
  try dsimp only
  repeat' first
    | with_reducible assumption | with_reducible apply res_next | with_reducible exact res_fault | with_reducible exact res_refused
    | with_reducible apply sendAck_wf | with_reducible apply elapseTo_wf | split

theorem takeAnswer_wf (m : GwMsg) (id : ℕ) (s : State) (hs : s.inv fl) :
    (takeAnswer m id s).inv fl := by
  unfold takeAnswer
  try dsimp only
  repeat' first
    | with_reducible assumption | with_reducible apply fillWindow_wf | with_reducible apply dropOut_wf | with_reducible apply modOut_wf
    | with_reducible apply workEnded_wf | with_reducible apply complete_wf | split

theorem execGwAnswer_wf (m : GwMsg) (s : State) (hs : s.inv fl) :
    Res.wf fl (execGwAnswer m s) := by
  unfold execGwAnswer
  try dsimp only
  repeat' first
    | with_reducible assumption | with_reducible apply res_next | with_reducible exact res_fault | with_reducible exact res_refused
    | with_reducible apply takeAnswer_wf | with_reducible apply gwTake_wf

theorem takeAck_wf (m : GwMsg) (id : ℕ) (s : State) (hs : s.inv fl) :
    (takeAck m id s).inv fl := by
  unfold takeAck
  try dsimp only
  repeat' first
    | with_reducible assumption | with_reducible apply fillWindow_wf | with_reducible apply dropOut_wf | with_reducible apply modOut_wf
    | with_reducible apply workEnded_wf | with_reducible apply complete_wf | with_reducible apply completeOk_wf
    | split

theorem execGwAck_wf (m : GwMsg) (s : State) (hs : s.inv fl) :
    Res.wf fl (execGwAck m s) := by
  unfold execGwAck
  try dsimp only
  repeat' first
    | with_reducible assumption | with_reducible apply res_next | with_reducible exact res_fault | with_reducible exact res_refused
    | with_reducible apply takeAck_wf | with_reducible apply gwTake_wf

theorem execGwChunkRetransmit_wf (session : ℕ) (transfer : ℕ) (chunk : ℕ) (s : State) (hs : s.inv fl) :
    Res.wf fl (execGwChunkRetransmit session transfer chunk s) := by
  unfold execGwChunkRetransmit
  try dsimp only
  repeat' first
    | with_reducible assumption | with_reducible apply res_next | with_reducible exact res_fault | with_reducible exact res_refused
    | with_reducible apply sendChunk_wf | with_reducible apply modOut_wf | with_reducible apply elapseTo_wf
    | split

theorem execGwTransferDeadline_wf (session : ℕ) (transfer : ℕ) (sender : Bool) (s : State) (hs : s.inv fl) :
    Res.wf fl (execGwTransferDeadline session transfer sender s) := by
  unfold execGwTransferDeadline
  try dsimp only
  repeat' first
    | with_reducible assumption | with_reducible apply res_next | with_reducible exact res_fault | with_reducible exact res_refused
    | with_reducible apply freeSlot_wf | with_reducible apply dropOut_wf | with_reducible apply workEnded_wf
    | with_reducible apply complete_wf | with_reducible apply elapseTo_wf | split

theorem execGwClose_wf (m : GwMsg) (s : State) (hs : s.inv fl) :
    Res.wf fl (execGwClose m s) := by
  unfold execGwClose
  try dsimp only
  repeat' first
    | with_reducible assumption | with_reducible apply res_next | with_reducible exact res_fault | with_reducible exact res_refused
    | with_reducible apply gwTake_wf | with_reducible apply gwDrop_wf

theorem execGwSessionIdleTimeout_wf (session : ℕ) (s : State) (hs : s.inv fl) :
    Res.wf fl (execGwSessionIdleTimeout session s) := by
  unfold execGwSessionIdleTimeout
  try dsimp only
  repeat' first
    | with_reducible assumption | with_reducible apply res_next | with_reducible exact res_fault | with_reducible exact res_refused
    | with_reducible apply gwSend_wf | with_reducible apply gwDrop_wf | with_reducible apply elapseTo_wf
    | split

theorem actGwFleet_wf (p : Pkt) (s : State) (hs : s.inv fl) :
    (actGwFleet p s).inv fl := by
  unfold actGwFleet
  try dsimp only
  repeat' first
    | with_reducible assumption | with_reducible apply readWords_wf | with_reducible apply completeOk_wf
    | split | (simp only [wf_mk]; with_reducible refine wf_parts ?_)

theorem execGwFleet_wf (p : Pkt) (s : State) (hs : s.inv fl) :
    Res.wf fl (execGwFleet p s) := by
  unfold execGwFleet
  try dsimp only
  repeat' first
    | with_reducible assumption | with_reducible apply res_next | with_reducible exact res_fault | with_reducible exact res_refused
    | with_reducible apply actGwFleet_wf | with_reducible apply runHost_wf

theorem actGwInbox_wf (p : Pkt) (s : State) (hs : s.inv fl) :
    (actGwInbox p s).inv fl := by
  unfold actGwInbox
  try dsimp only
  repeat' first
    | with_reducible assumption | with_reducible apply closeInbox_wf | with_reducible apply completeOk_wf | with_reducible apply vwrite_wf
    | (with_reducible refine foldl_wf ?_ ?_; intro _ _ _) | split | (simp only [wf_mk]; with_reducible refine wf_parts ?_)

theorem execGwInbox_wf (p : Pkt) (s : State) (hs : s.inv fl) :
    Res.wf fl (execGwInbox p s) := by
  unfold execGwInbox
  try dsimp only
  repeat' first
    | with_reducible assumption | with_reducible apply res_next | with_reducible exact res_fault | with_reducible exact res_refused
    | with_reducible apply actGwInbox_wf | with_reducible apply runHost_wf

theorem actGwSend_wf (p : Pkt) (s : State) (hs : s.inv fl) :
    (actGwSend p s).inv fl := by
  unfold actGwSend
  try dsimp only
  repeat' first
    | with_reducible assumption | with_reducible apply sendHello_wf | with_reducible apply offer_wf | with_reducible apply modGw_wf
    | with_reducible apply readWords_wf | with_reducible apply handOn_wf | split
    | (simp only [wf_mk]; with_reducible refine wf_parts ?_)

theorem execGwSend_wf (p : Pkt) (s : State) (hs : s.inv fl) :
    Res.wf fl (execGwSend p s) := by
  unfold execGwSend
  try dsimp only
  repeat' first
    | with_reducible assumption | with_reducible apply res_next | with_reducible exact res_fault | with_reducible exact res_refused
    | with_reducible apply actGwSend_wf | with_reducible apply runHost_wf

theorem actGwQuery_wf (p : Pkt) (s : State) (hs : s.inv fl) :
    (actGwQuery p s).inv fl := by
  unfold actGwQuery
  try dsimp only
  repeat' first
    | with_reducible assumption | with_reducible apply completeOk_wf

theorem execGwQuery_wf (p : Pkt) (s : State) (hs : s.inv fl) :
    Res.wf fl (execGwQuery p s) := by
  unfold execGwQuery
  try dsimp only
  repeat' first
    | with_reducible assumption | with_reducible apply res_next | with_reducible exact res_fault | with_reducible exact res_refused
    | with_reducible apply actGwQuery_wf | with_reducible apply runCmd_wf

end Sys2Proof.Machine
end

