-- ==== Sys2Proof/Laws/WfSafetyCmds.lean ====
section
/-! SUPPORT. Every operation and command of Machine/SafetyCmds.lean keeps the canonical form of the tables: one lemma per function. -/

namespace Sys2Proof.Machine

variable {fl : Floors}

theorem actSafeQuery_wf (p : Pkt) (s : State) (hs : s.inv fl) :
    (actSafeQuery p s).inv fl := by
  unfold actSafeQuery
  try dsimp only
  repeat' first
    | with_reducible assumption | with_reducible apply completeOk_wf

theorem execSafeQuery_wf (p : Pkt) (s : State) (hs : s.inv fl) :
    Res.wf fl (execSafeQuery p s) := by
  unfold execSafeQuery
  try dsimp only
  repeat' first
    | with_reducible assumption | with_reducible apply res_next | with_reducible exact res_fault | with_reducible exact res_refused
    | with_reducible apply actSafeQuery_wf | with_reducible apply runCmd_wf

theorem actSafeLogRead_wf (p : Pkt) (s : State) (hs : s.inv fl) :
    (actSafeLogRead p s).inv fl := by
  unfold actSafeLogRead
  try dsimp only
  repeat' first
    | with_reducible assumption | with_reducible apply completeOk_wf | with_reducible apply vwrite_wf

theorem execSafeLogRead_wf (p : Pkt) (s : State) (hs : s.inv fl) :
    Res.wf fl (execSafeLogRead p s) := by
  unfold execSafeLogRead
  try dsimp only
  repeat' first
    | with_reducible assumption | with_reducible apply res_next | with_reducible exact res_fault | with_reducible exact res_refused
    | with_reducible apply actSafeLogRead_wf | with_reducible apply runHost_wf

theorem actSafeChannels_wf (p : Pkt) (s : State) (hs : s.inv fl) :
    (actSafeChannels p s).inv fl := by
  unfold actSafeChannels
  try dsimp only
  repeat' first
    | with_reducible assumption | with_reducible apply completeOk_wf | with_reducible apply vwrite_wf

theorem execSafeChannels_wf (p : Pkt) (s : State) (hs : s.inv fl) :
    Res.wf fl (execSafeChannels p s) := by
  unfold execSafeChannels
  try dsimp only
  repeat' first
    | with_reducible assumption | with_reducible apply res_next | with_reducible exact res_fault | with_reducible exact res_refused
    | with_reducible apply actSafeChannels_wf | with_reducible apply runHost_wf

theorem actSafeConfig_wf (p : Pkt) (s : State) (hs : s.inv fl) :
    (actSafeConfig p s).inv fl := by
  unfold actSafeConfig
  try dsimp only
  repeat' first
    | with_reducible assumption | with_reducible apply readWords_wf | with_reducible apply completeOk_wf
    | split | (simp only [wf_mk]; with_reducible refine wf_parts ?_)

theorem execSafeConfig_wf (p : Pkt) (s : State) (hs : s.inv fl) :
    Res.wf fl (execSafeConfig p s) := by
  unfold execSafeConfig
  try dsimp only
  repeat' first
    | with_reducible assumption | with_reducible apply res_next | with_reducible exact res_fault | with_reducible exact res_refused
    | with_reducible apply actSafeConfig_wf | with_reducible apply runHost_wf

theorem actSafeE2e_wf (p : Pkt) (s : State) (hs : s.inv fl) :
    (actSafeE2e p s).inv fl := by
  unfold actSafeE2e
  try dsimp only
  repeat' first
    | with_reducible assumption | with_reducible apply completeOk_wf | split
    | (simp only [wf_mk]; with_reducible refine wf_parts ?_)

theorem execSafeE2e_wf (p : Pkt) (s : State) (hs : s.inv fl) :
    Res.wf fl (execSafeE2e p s) := by
  unfold execSafeE2e
  try dsimp only
  repeat' first
    | with_reducible assumption | with_reducible apply res_next | with_reducible exact res_fault | with_reducible exact res_refused
    | with_reducible apply actSafeE2e_wf | with_reducible apply runCmd_wf

theorem actSafeRetire_wf (p : Pkt) (s : State) (hs : s.inv fl) :
    (actSafeRetire p s).inv fl := by
  unfold actSafeRetire
  try dsimp only
  repeat' first
    | with_reducible assumption | with_reducible apply settle_wf | with_reducible apply workEnded_wf | with_reducible apply settleTiers_wf
    | with_reducible apply boundaries_wf | with_reducible apply handOn_wf | split
    | (simp only [wf_mk]; with_reducible refine wf_parts ?_)

theorem execSafeRetire_wf (p : Pkt) (s : State) (hs : s.inv fl) :
    Res.wf fl (execSafeRetire p s) := by
  unfold execSafeRetire
  try dsimp only
  repeat' first
    | with_reducible assumption | with_reducible apply res_next | with_reducible exact res_fault | with_reducible exact res_refused
    | with_reducible apply actSafeRetire_wf | with_reducible apply runCmd_wf

theorem actSafeClear_wf (p : Pkt) (s : State) (hs : s.inv fl) :
    (actSafeClear p s).inv fl := by
  unfold actSafeClear
  try dsimp only
  repeat' first
    | with_reducible assumption | with_reducible apply safetyPins_wf | with_reducible apply completeOk_wf
    | split | (simp only [wf_mk]; with_reducible refine wf_parts ?_)

theorem execSafeClear_wf (p : Pkt) (s : State) (hs : s.inv fl) :
    Res.wf fl (execSafeClear p s) := by
  unfold execSafeClear
  try dsimp only
  repeat' first
    | with_reducible assumption | with_reducible apply res_next | with_reducible exact res_fault | with_reducible exact res_refused
    | with_reducible apply actSafeClear_wf | with_reducible apply runCmd_wf

theorem actSafeInject_wf (p : Pkt) (s : State) (hs : s.inv fl) :
    (actSafeInject p s).inv fl := by
  unfold actSafeInject
  try dsimp only
  repeat' first
    | with_reducible assumption | with_reducible apply serveInjects_wf | with_reducible apply workEnded_wf
    | with_reducible apply settleTiers_wf | with_reducible apply boundaries_wf | with_reducible apply handOn_wf
    | split | (simp only [wf_mk]; with_reducible refine wf_parts ?_)

theorem execSafeInject_wf (p : Pkt) (s : State) (hs : s.inv fl) :
    Res.wf fl (execSafeInject p s) := by
  unfold execSafeInject
  try dsimp only
  repeat' first
    | with_reducible assumption | with_reducible apply res_next | with_reducible exact res_fault | with_reducible exact res_refused
    | with_reducible apply actSafeInject_wf | with_reducible apply runCmd_wf

theorem actSafeEnter_wf (p : Pkt) (s : State) (hs : s.inv fl) :
    (actSafeEnter p s).inv fl := by
  unfold actSafeEnter
  try dsimp only
  repeat' first
    | with_reducible assumption | with_reducible apply enterSafe_wf | with_reducible apply workEnded_wf
    | with_reducible apply completeOk_wf

theorem execSafeEnter_wf (p : Pkt) (s : State) (hs : s.inv fl) :
    Res.wf fl (execSafeEnter p s) := by
  unfold execSafeEnter
  try dsimp only
  repeat' first
    | with_reducible assumption | with_reducible apply res_next | with_reducible exact res_fault | with_reducible exact res_refused
    | with_reducible apply actSafeEnter_wf | with_reducible apply runCmd_wf

theorem actSafeSelftest_wf (p : Pkt) (s : State) (hs : s.inv fl) :
    (actSafeSelftest p s).inv fl := by
  unfold actSafeSelftest
  try dsimp only
  repeat' first
    | with_reducible assumption | with_reducible apply testFree_wf | with_reducible apply boundary_wf | with_reducible apply modTest_wf
    | with_reducible apply handOn_wf | split

theorem execSafeSelftest_wf (p : Pkt) (s : State) (hs : s.inv fl) :
    Res.wf fl (execSafeSelftest p s) := by
  unfold execSafeSelftest
  try dsimp only
  repeat' first
    | with_reducible assumption | with_reducible apply res_next | with_reducible exact res_fault | with_reducible exact res_refused
    | with_reducible apply actSafeSelftest_wf | with_reducible apply runCmd_wf

theorem dropLeaked_wf (s : State) (hs : s.inv fl) :
    (dropLeaked s).inv fl := by
  unfold dropLeaked
  try dsimp only
  repeat' first
    | with_reducible assumption | split
    | (simp only [wf_mk]; with_reducible refine wf_parts ?_)

theorem execScoreLeak_wf (s : State) (hs : s.inv fl) :
    Res.wf fl (execScoreLeak s) := by
  unfold execScoreLeak
  try dsimp only
  repeat' first
    | with_reducible assumption | with_reducible apply res_next | with_reducible exact res_fault | with_reducible exact res_refused
    | with_reducible apply dropLeaked_wf | with_reducible apply elapseTo_wf | split

theorem execSelfTestDeadline_wf (type : ℕ) (index : ℕ) (s : State) (hs : s.inv fl) :
    Res.wf fl (execSelfTestDeadline type index s) := by
  unfold execSelfTestDeadline
  try dsimp only
  repeat' first
    | with_reducible assumption | with_reducible apply res_next | with_reducible exact res_fault | with_reducible exact res_refused
    | with_reducible apply modTest_wf | with_reducible apply logEvent_wf | with_reducible apply elapseTo_wf
    | split

theorem tailLate_wf (g : ℕ) (unit : ℕ) (pos : ℕ) (n : ℕ) (s : State) (hs : s.inv fl) :
    Res.wf fl (tailLate g unit pos n s) := by
  unfold tailLate
  try dsimp only
  repeat' first
    | with_reducible assumption | with_reducible apply res_next | with_reducible exact res_fault | with_reducible exact res_refused
    | with_reducible apply execLegEnd_wf | split

theorem slotLate_wf (n : ℕ) (s : State) (hs : s.inv fl) :
    (slotLate n s).inv fl := by
  unfold slotLate
  try dsimp only
  repeat' first
    | with_reducible assumption | with_reducible apply settle_wf | with_reducible apply modCam_wf | with_reducible apply chanEvent_wf
    | with_reducible apply elapseTo_wf | split

theorem sendLate_wf (n : ℕ) (s : State) (hs : s.inv fl) :
    (sendLate n s).inv fl := by
  unfold sendLate
  try dsimp only
  repeat' first
    | with_reducible assumption | with_reducible apply modEth_wf | with_reducible apply settle_wf | with_reducible apply chanEvent_wf
    | with_reducible apply elapseTo_wf | split

theorem ringLate_wf (r : ℕ) (s : State) (hs : s.inv fl) :
    (ringLate r s).inv fl := by
  have key : ∀ (q : Tbl Capture) (t : State), t.inv fl → ({ t with audio.rings := q } : State).inv fl := by
    intro q t h
    simp only [wf_mk]
    exact wf_parts h
  unfold ringLate
  split
  · exact hs
  split
  · exact hs
  · with_reducible apply settle_wf
    with_reducible apply deviceEvent_wf
    with_reducible apply key
    with_reducible apply elapseTo_wf
    exact hs

theorem execWindowWatchdogLate_wf (u : Watched) (s : State) (hs : s.inv fl) :
    Res.wf fl (execWindowWatchdogLate u s) := by
  unfold execWindowWatchdogLate
  try dsimp only
  repeat' first
    | with_reducible assumption | with_reducible apply res_next | with_reducible exact res_fault | with_reducible exact res_refused
    | with_reducible apply ringLate_wf | with_reducible apply sendLate_wf | with_reducible apply slotLate_wf
    | with_reducible apply tailLate_wf | with_reducible apply deviceEvent_wf | split

theorem swapPairs_wf (a : ℕ) (b : ℕ) (s : State) (hs : s.inv fl) :
    (swapPairs a b s).inv fl := by
  unfold swapPairs
  try dsimp only
  repeat' first
    | with_reducible assumption | split
    | (simp only [wf_mk]; with_reducible refine wf_parts ?_)

theorem cancelUpdate_wf (code : Code) (s : State) (hs : s.inv fl) :
    (cancelUpdate code s).inv fl := by
  unfold cancelUpdate
  try dsimp only
  repeat' first
    | with_reducible assumption | with_reducible apply swapPairs_wf | with_reducible apply complete_wf
    | split | (simp only [wf_mk]; with_reducible refine wf_parts ?_)

theorem endInterpretation_wf (s : State) (hs : s.inv fl) :
    (endInterpretation s).inv fl := by
  unfold endInterpretation
  try dsimp only
  repeat' first
    | with_reducible assumption | with_reducible apply complete_wf | (with_reducible refine foldl_wf ?_ ?_; intro _ _ _)

theorem noteMismatch_wf (k : ℕ) (s : State) (hs : s.inv fl) :
    (noteMismatch k s).inv fl := by
  unfold noteMismatch
  try dsimp only
  repeat' first
    | with_reducible assumption | split
    | (simp only [wf_mk]; with_reducible refine wf_parts ?_)

theorem execLockstepMismatch_wf (r : PairRole) (s : State) (hs : s.inv fl) :
    Res.wf fl (execLockstepMismatch r s) := by
  unfold execLockstepMismatch
  try dsimp only
  repeat' first
    | with_reducible assumption | with_reducible apply res_next | with_reducible exact res_fault | with_reducible exact res_refused
    | with_reducible apply noteMismatch_wf | with_reducible apply endInterpretation_wf | with_reducible apply cancelUpdate_wf
    | with_reducible apply enterSafe_wf | with_reducible apply workEnded_wf | with_reducible apply logEvent_wf
    | with_reducible apply assertFault_wf | split
    | (simp only [wf_mk]; with_reducible refine wf_parts ?_)

theorem newStandby_wf (passed : Bool) (s : State) (hs : s.inv fl) :
    (newStandby passed s).inv fl := by
  unfold newStandby
  try dsimp only
  repeat' first
    | with_reducible assumption | split
    | (simp only [wf_mk]; with_reducible refine wf_parts ?_)

theorem execStandbyTakeover_wf (passed : Bool) (s : State) (hs : s.inv fl) :
    Res.wf fl (execStandbyTakeover passed s) := by
  unfold execStandbyTakeover
  try dsimp only
  repeat' first
    | with_reducible assumption | with_reducible apply res_next | with_reducible exact res_fault | with_reducible exact res_refused
    | with_reducible apply newStandby_wf | with_reducible apply swapPairs_wf | with_reducible apply settle_wf
    | with_reducible apply workEnded_wf | with_reducible apply settleTiers_wf | with_reducible apply boundaries_wf
    | split | (simp only [wf_mk]; with_reducible refine wf_parts ?_)

theorem stopLegs_wf (f : ℕ → Bool) (s : State) (hs : s.inv fl) :
    (stopLegs f s).inv fl := by
  unfold stopLegs
  try dsimp only
  repeat' first
    | with_reducible assumption | with_reducible apply failLeg_wf | with_reducible apply settle_wf | with_reducible apply workEnded_wf
    | with_reducible apply settleTiers_wf | with_reducible apply scrubGang_wf | (with_reducible refine foldl_wf ?_ ?_; intro _ _ _)
    | split

theorem haltCam_wf (n : ℕ) (s : State) (hs : s.inv fl) :
    (haltCam n s).inv fl := by
  unfold haltCam
  try dsimp only
  repeat' first
    | with_reducible assumption | with_reducible apply endFrame_wf | with_reducible apply stopCam_wf | with_reducible apply modCam_wf
    | split

theorem ethDown_wf (n : ℕ) (s : State) (hs : s.inv fl) :
    (ethDown n s).inv fl := by
  unfold ethDown
  try dsimp only
  repeat' first
    | with_reducible assumption | with_reducible apply modEth_wf

theorem rootDown_wf (s : State) (hs : s.inv fl) :
    (rootDown s).inv fl := by
  unfold rootDown
  try dsimp only
  repeat' first
    | with_reducible assumption | with_reducible apply failCold_wf | with_reducible apply glbEvent_wf
    | split | (simp only [wf_mk]; with_reducible refine wf_parts ?_)

theorem haltCams_wf (s : State) (hs : s.inv fl) :
    (haltCams s).inv fl := by
  unfold haltCams
  try dsimp only
  repeat' first
    | with_reducible assumption | with_reducible apply haltCam_wf | (with_reducible refine foldl_wf ?_ ?_; intro _ _ _)

theorem railStop_wf (r : Rail) (s : State) (hs : s.inv fl) :
    (railStop r s).inv fl := by
  unfold railStop
  try dsimp only
  repeat' first
    | with_reducible assumption | with_reducible apply haltCams_wf | with_reducible apply rootDown_wf | with_reducible apply ethDown_wf
    | with_reducible apply stopLegs_wf | with_reducible apply settled_wf | with_reducible apply hostDown_wf
    | with_reducible apply enterSafe_wf | with_reducible apply workEnded_wf | split

theorem execSupplyExcursion_wf (r : Rail) (below50 : Bool) (s : State) (hs : s.inv fl) :
    Res.wf fl (execSupplyExcursion r below50 s) := by
  unfold execSupplyExcursion
  try dsimp only
  repeat' first
    | with_reducible assumption | with_reducible apply res_next | with_reducible exact res_fault | with_reducible exact res_refused
    | with_reducible apply railStop_wf | with_reducible apply powerState_wf | with_reducible apply deviceEvent_wf
    | split

theorem clockCharge_wf (ty : ℕ) (ix : ℕ) (s : State) (hs : s.inv fl) :
    (clockCharge ty ix s).inv fl := by
  unfold clockCharge
  try dsimp only
  repeat' first
    | with_reducible assumption | with_reducible apply chanEvent_wf

theorem clockDevice_wf (s : State) (hs : s.inv fl) :
    (clockDevice s).inv fl := by
  unfold clockDevice
  try dsimp only
  repeat' first
    | with_reducible assumption | with_reducible apply deviceEvent_wf

theorem haltAudio_wf (s : State) (hs : s.inv fl) :
    (haltAudio s).inv fl := by
  unfold haltAudio
  try dsimp only
  repeat' first
    | with_reducible assumption | with_reducible apply stopRing_wf | with_reducible apply settleHq_wf
    | (with_reducible refine foldl_wf ?_ ?_; intro _ _ _) | split | (simp only [wf_mk]; with_reducible refine wf_parts ?_)

theorem haltMemory_wf (s : State) (hs : s.inv fl) :
    (haltMemory s).inv fl := by
  unfold haltMemory
  try dsimp only
  repeat' first
    | with_reducible assumption | with_reducible apply stopLegs_wf | with_reducible apply stopDma_wf
    | (with_reducible refine foldl_wf ?_ ?_; intro _ _ _)

theorem execClockMonitorFault_wf (u : ClockUnit) (s : State) (hs : s.inv fl) :
    Res.wf fl (execClockMonitorFault u s) := by
  unfold execClockMonitorFault
  try dsimp only
  repeat' first
    | with_reducible assumption | with_reducible apply res_next | with_reducible exact res_fault | with_reducible exact res_refused
    | with_reducible apply haltMemory_wf | with_reducible apply haltAudio_wf | with_reducible apply clockDevice_wf
    | with_reducible apply clockCharge_wf | with_reducible apply ethDown_wf | with_reducible apply haltCam_wf
    | with_reducible apply stopLegs_wf | with_reducible apply endInterpretation_wf | with_reducible apply startLp_wf
    | with_reducible apply settled_wf | with_reducible apply hostDown_wf | split

end Sys2Proof.Machine
end

