-- ==== Sys2Proof/Laws/WfPower.lean ====
section
/-! SUPPORT. Every operation and command of Machine/Power.lean keeps the canonical form of the tables: one lemma per function. -/

namespace Sys2Proof.Machine

variable {fl : Floors}

theorem camPads_wf (s : State) (hs : s.inv fl) :
    (camPads s).inv fl := by
  unfold camPads
  try dsimp only
  repeat' first
    | with_reducible assumption | split
    | (simp only [wf_mk]; with_reducible refine wf_parts ?_)

theorem releasePads_wf (mask : ℕ) (s : State) (hs : s.inv fl) :
    (releasePads mask s).inv fl := by
  unfold releasePads
  try dsimp only
  repeat' first
    | with_reducible assumption | with_reducible apply camPads_wf | with_reducible apply safetyPins_wf
    | split | (simp only [wf_mk]; with_reducible refine wf_parts ?_)

theorem holdPads_wf (s : State) (hs : s.inv fl) :
    (holdPads s).inv fl := by
  unfold holdPads
  try dsimp only
  repeat' first
    | with_reducible assumption | with_reducible apply stopEvents_wf | split
    | (simp only [wf_mk]; with_reducible refine wf_parts ?_)

theorem execMoorEntry_wf (s : State) (hs : s.inv fl) :
    Res.wf fl (execMoorEntry s) := by
  unfold execMoorEntry
  try dsimp only
  repeat' first
    | with_reducible assumption | with_reducible apply res_next | with_reducible exact res_fault | with_reducible exact res_refused
    | with_reducible apply leaveHq_wf | split
    | (simp only [wf_mk]; with_reducible refine wf_parts ?_)

theorem reach_wf (st : PState) (s : State) (hs : s.inv fl) :
    (reach st s).inv fl := by
  unfold reach
  try dsimp only
  repeat' first
    | with_reducible assumption | split
    | (simp only [wf_mk]; with_reducible refine wf_parts ?_)

theorem afterLow_wf (s : State) (hs : s.inv fl) :
    (afterLow s).inv fl := by
  unfold afterLow
  try dsimp only
  repeat' first
    | with_reducible assumption | with_reducible apply wakeTo_wf | split
    | (simp only [wf_mk]; with_reducible refine wf_parts ?_)

theorem enterMoor_wf (s : State) (hs : s.inv fl) :
    (enterMoor s).inv fl := by
  unfold enterMoor
  try dsimp only
  repeat' first
    | with_reducible assumption | with_reducible apply afterLow_wf | with_reducible apply reach_wf | with_reducible apply holdPads_wf
    | with_reducible apply ethDown_wf | with_reducible apply loseDom_wf | with_reducible apply reselect_wf
    | with_reducible apply micPins_wf | split
    | (simp only [wf_mk]; with_reducible refine wf_parts ?_)

theorem enterDormant_wf (s : State) (hs : s.inv fl) :
    (enterDormant s).inv fl := by
  unfold enterDormant
  try dsimp only
  repeat' first
    | with_reducible assumption | with_reducible apply afterLow_wf | with_reducible apply reach_wf | with_reducible apply micPins_wf
    | split | (simp only [wf_mk]; with_reducible refine wf_parts ?_)

theorem riseMoor_wf (s : State) (hs : s.inv fl) :
    (riseMoor s).inv fl := by
  unfold riseMoor
  try dsimp only
  repeat' first
    | with_reducible assumption | with_reducible apply reach_wf | with_reducible apply wakeMics_wf | with_reducible apply micPins_wf
    | split | (simp only [wf_mk]; with_reducible refine wf_parts ?_)

theorem riseRun_wf (s : State) (hs : s.inv fl) :
    (riseRun s).inv fl := by
  unfold riseRun
  try dsimp only
  repeat' first
    | with_reducible assumption | with_reducible apply reach_wf | with_reducible apply releasePads_wf
    | with_reducible apply resumeEvents_wf | with_reducible apply wakeMics_wf | with_reducible apply startHq_wf
    | with_reducible apply tryTrain_wf | with_reducible apply settle_wf | with_reducible apply boundaries_wf
    | split | (simp only [wf_mk]; with_reducible refine wf_parts ?_)

theorem execPowerStateMoveComplete_wf (s : State) (hs : s.inv fl) :
    Res.wf fl (execPowerStateMoveComplete s) := by
  unfold execPowerStateMoveComplete
  try dsimp only
  repeat' first
    | with_reducible assumption | with_reducible apply res_next | with_reducible exact res_fault | with_reducible exact res_refused
    | with_reducible apply riseRun_wf | with_reducible apply riseMoor_wf | with_reducible apply enterDormant_wf
    | with_reducible apply enterMoor_wf | with_reducible apply afterLow_wf | with_reducible apply reach_wf
    | with_reducible apply sleepMics_wf | with_reducible apply leaveHq_wf | with_reducible apply micPins_wf
    | with_reducible apply keepHq_wf | split
    | (simp only [wf_mk]; with_reducible refine wf_parts ?_)

theorem execDormantDelayExpiry_wf (s : State) (hs : s.inv fl) :
    Res.wf fl (execDormantDelayExpiry s) := by
  unfold execDormantDelayExpiry
  try dsimp only
  repeat' first
    | with_reducible assumption | with_reducible apply res_next | with_reducible exact res_fault | with_reducible exact res_refused
    | with_reducible apply elapseTo_wf | split
    | (simp only [wf_mk]; with_reducible refine wf_parts ?_)

theorem execI2c0AddressMatch_wf (address : ℕ) (argument : Option ℕ) (s : State) (hs : s.inv fl) :
    Res.wf fl (execI2c0AddressMatch address argument s) := by
  unfold execI2c0AddressMatch
  try dsimp only
  repeat' first
    | with_reducible assumption | with_reducible apply res_next | with_reducible exact res_fault | with_reducible exact res_refused
    | with_reducible apply wakeTo_wf | split
    | (simp only [wf_mk]; with_reducible refine wf_parts ?_)

theorem execPePerst0Deassert_wf (s : State) (hs : s.inv fl) :
    Res.wf fl (execPePerst0Deassert s) := by
  unfold execPePerst0Deassert
  try dsimp only
  repeat' first
    | with_reducible assumption | with_reducible apply res_next | with_reducible exact res_fault | with_reducible exact res_refused
    | with_reducible apply tryTrain_wf | with_reducible apply wakeTo_wf | split
    | (simp only [wf_mk]; with_reducible refine wf_parts ?_)

theorem execPeWakeNSense_wf (s : State) (hs : s.inv fl) :
    Res.wf fl (execPeWakeNSense s) := by
  unfold execPeWakeNSense
  try dsimp only
  repeat' first
    | with_reducible assumption | with_reducible apply res_next | with_reducible exact res_fault | with_reducible exact res_refused
    | with_reducible apply wakeTo_wf | split

theorem throttle_wf (s : State) (hs : s.inv fl) : ∀ t, throttle s = some t → t.inv fl := by
  intro t ht
  unfold throttle at ht
  dsimp only at ht
  repeat' split at ht
  all_goals first | (cases ht; exact hs) | cases ht

theorem unthrottle_wf (s : State) (hs : s.inv fl) : ∀ t, unthrottle s = some t → t.inv fl := by
  intro t ht
  unfold unthrottle at ht
  dsimp only at ht
  repeat' split at ht
  all_goals first | (cases ht; exact hs) | cases ht

theorem trimState_wf (s : State) (hs : s.inv fl) :
    (trimState s).inv fl := by
  unfold trimState
  try dsimp only
  repeat' first
    | with_reducible assumption | split
    | (simp only [wf_mk]; with_reducible refine wf_parts ?_)

theorem takeSample_wf (mw : ℕ) (s : State) (hs : s.inv fl) :
    (takeSample mw s).inv fl := by
  unfold takeSample
  try dsimp only
  repeat' first
    | with_reducible assumption | with_reducible apply glbEvent_wf | split
    | (simp only [wf_mk]; with_reducible refine wf_parts ?_)

theorem execGovernorTick_wf (power : ℕ) (roomed : ℕ) (s : State) (hs : s.inv fl) :
    Res.wf fl (execGovernorTick power roomed s) := by
  unfold execGovernorTick
  dsimp only
  have h1 : (takeSample power (elapseTo (nextGrid 1000000 s) s)).inv fl := takeSample_wf _ _ (elapseTo_wf _ _ hs)
  split
  · exact hs
  · split
    · next t ht =>
      have h2 : t.inv fl := by
        split at ht
        · exact throttle_wf _ h1 t ht
        · split at ht
          · exact unthrottle_wf _ h1 t ht
          · exact absurd ht (by simp)
      exact boundaries_wf _ (trimState_wf _ (glbEvent_wf _ _ h2))
    · exact h1

theorem readHot_wf (hottest : ℤ) (s : State) (hs : s.inv fl) :
    (readHot hottest s).inv fl := by
  unfold readHot
  try dsimp only
  repeat' first
    | with_reducible assumption | with_reducible apply glbEvent_wf | split
    | (simp only [wf_mk]; with_reducible refine wf_parts ?_)

theorem readPanels_wf (l : List (ℕ × ℤ)) (s : State) (hs : s.inv fl) :
    (readPanels l s).inv fl := by
  unfold readPanels
  try dsimp only
  repeat' first
    | with_reducible assumption | with_reducible apply modPanel_wf | (with_reducible refine foldl_wf ?_ ?_; intro _ _ _) | split

theorem execThermalCapTick_wf (others : ℤ) (s : State) (panels : optParam (List (ℕ × ℤ)) []) (hs : s.inv fl) :
    Res.wf fl (execThermalCapTick others s panels) := by
  unfold execThermalCapTick
  try dsimp only
  repeat' first
    | with_reducible assumption | with_reducible apply res_next | with_reducible exact res_fault | with_reducible exact res_refused
    | with_reducible apply readPanels_wf | with_reducible apply readHot_wf | with_reducible apply boundaries_wf
    | with_reducible apply glbEvent_wf | with_reducible apply elapseTo_wf | split
    | (simp only [wf_mk]; with_reducible refine wf_parts ?_)

theorem ballastAll_wf (cause : ℕ) (s : State) (hs : s.inv fl) :
    (ballastAll cause s).inv fl := by
  unfold ballastAll
  try dsimp only
  repeat' first
    | with_reducible assumption | with_reducible apply releaseTier_wf | (with_reducible refine foldl_wf ?_ ?_; intro _ _ _)

theorem execThermalTrip_wf (hottest : ℤ) (s : State) (hs : s.inv fl) :
    Res.wf fl (execThermalTrip hottest s) := by
  unfold execThermalTrip
  try dsimp only
  repeat' first
    | with_reducible assumption | with_reducible apply res_next | with_reducible exact res_fault | with_reducible exact res_refused
    | with_reducible apply ballastAll_wf | with_reducible apply readHot_wf | with_reducible apply stopLegs_wf
    | with_reducible apply glbEvent_wf | split
    | (simp only [wf_mk]; with_reducible refine wf_parts ?_)

theorem execThermalTripRelease_wf (hottest : ℤ) (s : State) (hs : s.inv fl) :
    Res.wf fl (execThermalTripRelease hottest s) := by
  unfold execThermalTripRelease
  try dsimp only
  repeat' first
    | with_reducible assumption | with_reducible apply res_next | with_reducible exact res_fault | with_reducible exact res_refused
    | with_reducible apply readHot_wf | with_reducible apply boundaries_wf | with_reducible apply glbEvent_wf
    | split | (simp only [wf_mk]; with_reducible refine wf_parts ?_)

theorem actPwrQuery_wf (p : Pkt) (s : State) (hs : s.inv fl) :
    (actPwrQuery p s).inv fl := by
  unfold actPwrQuery
  try dsimp only
  repeat' first
    | with_reducible assumption | with_reducible apply completeOk_wf | with_reducible apply vwrite_wf
    | split

theorem execPwrQuery_wf (p : Pkt) (s : State) (hs : s.inv fl) :
    Res.wf fl (execPwrQuery p s) := by
  unfold execPwrQuery
  try dsimp only
  repeat' first
    | with_reducible assumption | with_reducible apply res_next | with_reducible exact res_fault | with_reducible exact res_refused
    | with_reducible apply actPwrQuery_wf | with_reducible apply runHost_wf

theorem actPwrCap_wf (p : Pkt) (s : State) (hs : s.inv fl) :
    (actPwrCap p s).inv fl := by
  unfold actPwrCap
  try dsimp only
  repeat' first
    | with_reducible assumption | with_reducible apply trimState_wf | with_reducible apply boundaries_wf
    | with_reducible apply completeOk_wf | with_reducible apply glbEvent_wf | split
    | (simp only [wf_mk]; with_reducible refine wf_parts ?_)

theorem execPwrCap_wf (p : Pkt) (s : State) (hs : s.inv fl) :
    Res.wf fl (execPwrCap p s) := by
  unfold execPwrCap
  try dsimp only
  repeat' first
    | with_reducible assumption | with_reducible apply res_next | with_reducible exact res_fault | with_reducible exact res_refused
    | with_reducible apply actPwrCap_wf | with_reducible apply runCmd_wf

theorem actPwrPolicy_wf (p : Pkt) (s : State) (hs : s.inv fl) :
    (actPwrPolicy p s).inv fl := by
  unfold actPwrPolicy
  try dsimp only
  repeat' first
    | with_reducible assumption | with_reducible apply completeOk_wf | split
    | (simp only [wf_mk]; with_reducible refine wf_parts ?_)

theorem execPwrPolicy_wf (p : Pkt) (s : State) (hs : s.inv fl) :
    Res.wf fl (execPwrPolicy p s) := by
  unfold execPwrPolicy
  try dsimp only
  repeat' first
    | with_reducible assumption | with_reducible apply res_next | with_reducible exact res_fault | with_reducible exact res_refused
    | with_reducible apply actPwrPolicy_wf | with_reducible apply runCmd_wf

theorem actPwrWake_wf (p : Pkt) (s : State) (hs : s.inv fl) :
    (actPwrWake p s).inv fl := by
  unfold actPwrWake
  try dsimp only
  repeat' first
    | with_reducible assumption | with_reducible apply completeOk_wf | split
    | (simp only [wf_mk]; with_reducible refine wf_parts ?_)

theorem execPwrWake_wf (p : Pkt) (s : State) (hs : s.inv fl) :
    Res.wf fl (execPwrWake p s) := by
  unfold execPwrWake
  try dsimp only
  repeat' first
    | with_reducible assumption | with_reducible apply res_next | with_reducible exact res_fault | with_reducible exact res_refused
    | with_reducible apply actPwrWake_wf | with_reducible apply runCmd_wf

theorem actPwrEnter_wf (p : Pkt) (s : State) (hs : s.inv fl) :
    (actPwrEnter p s).inv fl := by
  unfold actPwrEnter
  try dsimp only
  repeat' first
    | with_reducible assumption | with_reducible apply completeOk_wf | split
    | (simp only [wf_mk]; with_reducible refine wf_parts ?_)

theorem execPwrEnter_wf (p : Pkt) (s : State) (hs : s.inv fl) :
    Res.wf fl (execPwrEnter p s) := by
  unfold execPwrEnter
  try dsimp only
  repeat' first
    | with_reducible assumption | with_reducible apply res_next | with_reducible exact res_fault | with_reducible exact res_refused
    | with_reducible apply actPwrEnter_wf | with_reducible apply runCmd_wf

theorem execPwrEnterDeadline_wf (s : State) (hs : s.inv fl) :
    Res.wf fl (execPwrEnterDeadline s) := by
  unfold execPwrEnterDeadline
  try dsimp only
  repeat' first
    | with_reducible assumption | with_reducible apply res_next | with_reducible exact res_fault | with_reducible exact res_refused
    | with_reducible apply elapseTo_wf | split
    | (simp only [wf_mk]; with_reducible refine wf_parts ?_)

theorem actPadsRelease_wf (p : Pkt) (s : State) (hs : s.inv fl) :
    (actPadsRelease p s).inv fl := by
  unfold actPadsRelease
  try dsimp only
  repeat' first
    | with_reducible assumption | with_reducible apply releasePads_wf | with_reducible apply completeOk_wf

theorem execPadsRelease_wf (p : Pkt) (s : State) (hs : s.inv fl) :
    Res.wf fl (execPadsRelease p s) := by
  unfold execPadsRelease
  try dsimp only
  repeat' first
    | with_reducible assumption | with_reducible apply res_next | with_reducible exact res_fault | with_reducible exact res_refused
    | with_reducible apply actPadsRelease_wf | with_reducible apply runCmd_wf

theorem actPwrPads_wf (p : Pkt) (s : State) (hs : s.inv fl) :
    (actPwrPads p s).inv fl := by
  unfold actPwrPads
  try dsimp only
  repeat' first
    | with_reducible assumption | with_reducible apply releasePads_wf | with_reducible apply completeOk_wf
    | split | (simp only [wf_mk]; with_reducible refine wf_parts ?_)

theorem execPwrPads_wf (p : Pkt) (s : State) (hs : s.inv fl) :
    Res.wf fl (execPwrPads p s) := by
  unfold execPwrPads
  try dsimp only
  repeat' first
    | with_reducible assumption | with_reducible apply res_next | with_reducible exact res_fault | with_reducible exact res_refused
    | with_reducible apply actPwrPads_wf | with_reducible apply runCmd_wf

end Sys2Proof.Machine
end

