-- ==== Sys2Proof/Laws/WfStart.lean ====
section
/-! SUPPORT. Every operation and command of Machine/Start.lean keeps the canonical form of the tables: one lemma per function. -/

namespace Sys2Proof.Machine

variable {fl : Floors}

theorem execPowerOnReset_wf (s : State) (hs : s.inv fl) :
    Res.wf fl (execPowerOnReset s) := by
  unfold execPowerOnReset
  try dsimp only
  repeat' first
    | with_reducible assumption | with_reducible apply res_next | with_reducible exact res_fault | with_reducible exact res_refused
    | with_reducible apply powerState_wf

theorem execWarmReset_wf (cause : WarmCause) (s : State) (hs : s.inv fl) :
    Res.wf fl (execWarmReset cause s) := by
  unfold execWarmReset
  try dsimp only
  repeat' first
    | with_reducible assumption | with_reducible apply res_next | with_reducible exact res_fault | with_reducible exact res_refused
    | with_reducible apply finishReset_wf | with_reducible apply warmState_wf
    | split | (simp only [wf_mk]; with_reducible refine wf_parts ?_)

theorem modStart_wf (f : Start → Start) (s : State) (hs : s.inv fl) :
    (modStart f s).inv fl := by
  unfold modStart
  try dsimp only
  repeat' first
    | with_reducible assumption | split
    | (simp only [wf_mk]; with_reducible refine wf_parts ?_)

theorem journalStep_wf (n : ℕ) (method : ℕ) (result : ℕ) (units : ℕ) (status : ℕ) (detail : ℕ) (s : State) (hs : s.inv fl) :
    (journalStep n method result units status detail s).inv fl := by
  unfold journalStep
  try dsimp only
  repeat' first
    | with_reducible assumption | with_reducible apply modStart_wf | split
    | (simp only [wf_mk]; with_reducible refine wf_parts ?_)

theorem noteSource_wf (s : State) (hs : s.inv fl) :
    (noteSource s).inv fl := by
  unfold noteSource
  try dsimp only
  repeat' first
    | with_reducible assumption | with_reducible apply modStart_wf

theorem leaveOut_wf (n : ℕ) (s : State) (hs : s.inv fl) :
    (leaveOut n s).inv fl := by
  unfold leaveOut
  try dsimp only
  repeat' first
    | with_reducible assumption | with_reducible apply linkDown_wf | split
    | (simp only [wf_mk]; with_reducible refine wf_parts ?_)

theorem beginStep_wf (k n : ℕ) (s : State) (hs : s.inv fl) : (beginStep k n s).inv fl := by
  induction k generalizing n s with
  | zero => exact hs
  | succ k ih =>
    unfold beginStep
    dsimp only
    repeat' first
      | with_reducible assumption | with_reducible apply ih | with_reducible apply leaveOut_wf | with_reducible apply journalStep_wf
      | with_reducible apply tryTrain_wf | split | (simp only [wf_mk]; with_reducible refine wf_parts ?_)

theorem nextStep_wf (n : ℕ) (s : State) (hs : s.inv fl) :
    (nextStep n s).inv fl := by
  unfold nextStep
  try dsimp only
  repeat' first
    | with_reducible assumption | with_reducible apply beginStep_wf

theorem reloadJournal_wf (s : State) (hs : s.inv fl) :
    (reloadJournal s).inv fl := by
  unfold reloadJournal
  try dsimp only
  repeat' first
    | with_reducible assumption | split
    | (simp only [wf_mk]; with_reducible refine wf_parts ?_)

theorem execBootRomStart_wf (bootSrc : ℕ) (s : State) (hs : s.inv fl) :
    Res.wf fl (execBootRomStart bootSrc s) := by
  unfold execBootRomStart
  try dsimp only
  repeat' first
    | with_reducible assumption | with_reducible apply res_next | with_reducible exact res_fault | with_reducible exact res_refused
    | with_reducible apply reloadJournal_wf | with_reducible apply nextStep_wf | with_reducible apply safetyPins_wf
    | split | (simp only [wf_mk]; with_reducible refine wf_parts ?_)

theorem takeRecord_wf (s : State) (hs : s.inv fl) :
    (takeRecord s).inv fl := by
  unfold takeRecord
  try dsimp only
  repeat' first
    | with_reducible assumption | split
    | (simp only [wf_mk]; with_reducible refine wf_parts ?_)

theorem replacePanel_wf (n : ℕ) (s : State) (hs : s.inv fl) :
    (replacePanel n s).inv fl := by
  unfold replacePanel
  try dsimp only
  repeat' first
    | with_reducible assumption | with_reducible apply modPanel_wf | with_reducible apply logEvent_wf
    | split

theorem retireUnits_wf (n : ℕ) (us : List ℕ) (s : State) (hs : s.inv fl) :
    (retireUnits n us s).inv fl := by
  unfold retireUnits
  try dsimp only
  repeat' first
    | with_reducible assumption | with_reducible apply replacePanel_wf | with_reducible apply retireNow_wf
    | with_reducible apply retirePanel_wf | with_reducible apply markRetired_wf | (with_reducible refine foldl_wf ?_ ?_; intro _ _ _)
    | split | (simp only [wf_mk]; with_reducible refine wf_parts ?_)

theorem testedNow_wf (k : ℕ) (s : State) (hs : s.inv fl) :
    (testedNow k s).inv fl := by
  unfold testedNow
  try dsimp only
  repeat' first
    | with_reducible assumption | with_reducible apply modTest_wf

theorem rootUp_wf (s : State) (hs : s.inv fl) :
    (rootUp s).inv fl := by
  unfold rootUp
  try dsimp only
  repeat' first
    | with_reducible assumption | with_reducible apply glbEvent_wf | with_reducible apply takeFree_wf | with_reducible apply elapseTo_wf
    | split | (simp only [wf_mk]; with_reducible refine wf_parts ?_)

theorem becomeReady_wf (s : State) (hs : s.inv fl) :
    (becomeReady s).inv fl := by
  unfold becomeReady
  try dsimp only
  repeat' first
    | with_reducible assumption | with_reducible apply modStart_wf | with_reducible apply safetyPins_wf | with_reducible apply physZero_wf
    | split | (simp only [wf_mk]; with_reducible refine wf_parts ?_)

theorem stepEffect_wf (n : ℕ) (s : State) (hs : s.inv fl) :
    (stepEffect n s).inv fl := by
  unfold stepEffect
  try dsimp only
  repeat' first
    | with_reducible assumption | with_reducible apply rootUp_wf | with_reducible apply testedNow_wf | with_reducible apply takeRecord_wf
    | with_reducible apply noteSource_wf | (with_reducible refine foldl_wf ?_ ?_; intro _ _ _) | split
    | (simp only [wf_mk]; with_reducible refine wf_parts ?_)

theorem stepAfter_wf (n : ℕ) (s : State) (hs : s.inv fl) :
    (stepAfter n s).inv fl := by
  unfold stepAfter
  try dsimp only
  repeat' first
    | with_reducible assumption | with_reducible apply startHq_wf | with_reducible apply settleHq_wf | with_reducible apply startLp_wf
    | split

theorem passStep_wf (n : ℕ) (units : List ℕ) (detail : ℕ) (s : State) (hs : s.inv fl) :
    (passStep n units detail s).inv fl := by
  unfold passStep
  try dsimp only
  repeat' first
    | with_reducible assumption | with_reducible apply stepAfter_wf | with_reducible apply stepEffect_wf
    | with_reducible apply becomeReady_wf | with_reducible apply retireUnits_wf | with_reducible apply nextStep_wf
    | with_reducible apply journalStep_wf | with_reducible apply glbEvent_wf | split

theorem journalRestart_wf (s : State) (hs : s.inv fl) :
    (journalRestart s).inv fl := by
  unfold journalRestart
  try dsimp only
  repeat' first
    | with_reducible assumption | with_reducible apply modStart_wf | with_reducible apply warmState_wf
    | split | (simp only [wf_mk]; with_reducible refine wf_parts ?_)

theorem failStep_wf (n : ℕ) (units : List ℕ) (status : ℕ) (s : State) (hs : s.inv fl) :
    (failStep n units status s).inv fl := by
  unfold failStep
  try dsimp only
  repeat' first
    | with_reducible assumption | with_reducible apply journalRestart_wf | with_reducible apply retireUnits_wf
    | with_reducible apply nextStep_wf | with_reducible apply leaveOut_wf | with_reducible apply noteSource_wf
    | with_reducible apply journalStep_wf | with_reducible apply tryTrain_wf | with_reducible apply glbEvent_wf
    | split | (simp only [wf_mk]; with_reducible refine wf_parts ?_)

theorem execStartStepComplete_wf (o : StepOut) (s : State) (hs : s.inv fl) :
    Res.wf fl (execStartStepComplete o s) := by
  unfold execStartStepComplete
  try dsimp only
  repeat' first
    | with_reducible assumption | with_reducible apply res_next | with_reducible exact res_fault | with_reducible exact res_refused
    | with_reducible apply failStep_wf | with_reducible apply passStep_wf | split

theorem execStartStepLimit_wf (s : State) (hs : s.inv fl) :
    Res.wf fl (execStartStepLimit s) := by
  unfold execStartStepLimit
  try dsimp only
  repeat' first
    | with_reducible assumption | with_reducible apply res_next | with_reducible exact res_fault | with_reducible exact res_refused
    | with_reducible apply failStep_wf | with_reducible apply takeFree_wf | with_reducible apply elapseTo_wf
    | split

theorem execHostBootDescriptorPoll_wf (s : State) (hs : s.inv fl) :
    Res.wf fl (execHostBootDescriptorPoll s) := by
  unfold execHostBootDescriptorPoll
  dsimp only
  refine res_ite hs ?_
  split
  · exact physWrite_wf _ _ _ hs
  · apply res_next
    apply nextStep_wf
    apply glbEvent_wf
    apply journalStep_wf
    apply noteSource_wf
    simp only [wf_mk]
    exact wf_parts (physWrite_wf _ _ _ hs)

theorem actBootJournal_wf (p : Pkt) (s : State) (hs : s.inv fl) :
    (actBootJournal p s).inv fl := by
  unfold actBootJournal
  try dsimp only
  repeat' first
    | with_reducible assumption | with_reducible apply completeOk_wf | with_reducible apply vwrite_wf

theorem execBootJournal_wf (p : Pkt) (s : State) (hs : s.inv fl) :
    Res.wf fl (execBootJournal p s) := by
  unfold execBootJournal
  try dsimp only
  repeat' first
    | with_reducible assumption | with_reducible apply res_next | with_reducible exact res_fault | with_reducible exact res_refused
    | with_reducible apply actBootJournal_wf | with_reducible apply runHost_wf

theorem actBootRetry_wf (p : Pkt) (s : State) (hs : s.inv fl) :
    (actBootRetry p s).inv fl := by
  unfold actBootRetry
  try dsimp only
  repeat' first
    | with_reducible assumption | with_reducible apply completeOk_wf | split
    | (simp only [wf_mk]; with_reducible refine wf_parts ?_)

theorem execBootRetry_wf (p : Pkt) (s : State) (hs : s.inv fl) :
    Res.wf fl (execBootRetry p s) := by
  unfold execBootRetry
  try dsimp only
  repeat' first
    | with_reducible assumption | with_reducible apply res_next | with_reducible exact res_fault | with_reducible exact res_refused
    | with_reducible apply actBootRetry_wf | with_reducible apply runCmd_wf

end Sys2Proof.Machine
end

