-- ==== Sys2Proof/Laws/WfSecurity.lean ====
section
/-! SUPPORT. Every operation and command of Machine/Security.lean keeps the canonical form of the tables: one lemma per function. -/

namespace Sys2Proof.Machine

variable {fl : Floors}

theorem actSecCert_wf (p : Pkt) (s : State) (hs : s.inv fl) :
    (actSecCert p s).inv fl := by
  unfold actSecCert
  try dsimp only
  repeat' first
    | with_reducible assumption | with_reducible apply completeOk_wf | with_reducible apply vwrite_wf

theorem execSecCert_wf (p : Pkt) (s : State) (hs : s.inv fl) :
    Res.wf fl (execSecCert p s) := by
  unfold execSecCert
  try dsimp only
  repeat' first
    | with_reducible assumption | with_reducible apply res_next | with_reducible exact res_fault | with_reducible exact res_refused
    | with_reducible apply actSecCert_wf | with_reducible apply runHost_wf

theorem actSecAttest_wf (p : Pkt) (s : State) (hs : s.inv fl) :
    (actSecAttest p s).inv fl := by
  unfold actSecAttest
  try dsimp only
  repeat' first
    | with_reducible assumption | with_reducible apply completeOk_wf | with_reducible apply vwrite_wf
    | split | (simp only [wf_mk]; with_reducible refine wf_parts ?_)

theorem execSecAttest_wf (p : Pkt) (s : State) (hs : s.inv fl) :
    Res.wf fl (execSecAttest p s) := by
  unfold execSecAttest
  try dsimp only
  repeat' first
    | with_reducible assumption | with_reducible apply res_next | with_reducible exact res_fault | with_reducible exact res_refused
    | with_reducible apply actSecAttest_wf | with_reducible apply runHost_wf

theorem withSe_wf (n : ℕ) (p : Pkt) (act : State → State) (s : State) (ha : ∀ t, t.inv fl → (act t).inv fl) (hs : s.inv fl) :
    (withSe n p act s).inv fl := by
  unfold withSe
  dsimp only
  split
  · exact ha _ hs
  · exact reject_wf _ _ _ _ hs

theorem actSecPair_wf (p : Pkt) (s : State) (hs : s.inv fl) :
    (actSecPair p s).inv fl := by
  unfold actSecPair
  try dsimp only
  repeat' first
    | with_reducible assumption | with_reducible apply withSe_wf | with_reducible apply completeOk_wf
    | split | (simp only [wf_mk]; with_reducible refine wf_parts ?_) | (intro _ _)

theorem execSecPair_wf (p : Pkt) (s : State) (hs : s.inv fl) :
    Res.wf fl (execSecPair p s) := by
  unfold execSecPair
  try dsimp only
  repeat' first
    | with_reducible assumption | with_reducible apply res_next | with_reducible exact res_fault | with_reducible exact res_refused
    | with_reducible apply actSecPair_wf | with_reducible apply runCmd_wf

theorem actSecOwner_wf (p : Pkt) (s : State) (hs : s.inv fl) :
    (actSecOwner p s).inv fl := by
  unfold actSecOwner
  try dsimp only
  repeat' first
    | with_reducible assumption | with_reducible apply withSe_wf | with_reducible apply readWords_wf | with_reducible apply completeOk_wf
    | split | (simp only [wf_mk]; with_reducible refine wf_parts ?_) | (intro _ _)

theorem execSecOwner_wf (p : Pkt) (s : State) (hs : s.inv fl) :
    Res.wf fl (execSecOwner p s) := by
  unfold execSecOwner
  try dsimp only
  repeat' first
    | with_reducible assumption | with_reducible apply res_next | with_reducible exact res_fault | with_reducible exact res_refused
    | with_reducible apply actSecOwner_wf | with_reducible apply runHost_wf

theorem actSecFloor_wf (p : Pkt) (s : State) (hs : s.inv fl) :
    (actSecFloor p s).inv fl := by
  have h1 : fl.fw ≤ (raisedFloors (fld p 16 1) s).1 := by
    unfold raisedFloors
    dsimp only
    split
    · exact le_trans hs.2.2.2.2.1 (le_max_left _ _)
    · exact hs.2.2.2.2.1
  have h2 : fl.cfg ≤ (raisedFloors (fld p 16 1) s).2 := by
    unfold raisedFloors
    dsimp only
    split
    · exact le_trans hs.2.2.2.2.2.1 (le_max_left _ _)
    · exact hs.2.2.2.2.2.1
  unfold actSecFloor withSe
  dsimp only
  split
  · exact completeOk_wf _ _ _ _ _ ⟨hs.1, hs.2.1, hs.2.2.1, hs.2.2.2.1, h1, h2, hs.2.2.2.2.2.2⟩
  · exact reject_wf _ _ _ _ hs

theorem execSecFloor_wf (p : Pkt) (s : State) (hs : s.inv fl) :
    Res.wf fl (execSecFloor p s) := by
  unfold execSecFloor
  try dsimp only
  repeat' first
    | with_reducible assumption | with_reducible apply res_next | with_reducible exact res_fault | with_reducible exact res_refused
    | with_reducible apply actSecFloor_wf | with_reducible apply runCmd_wf

theorem actSecConfig_wf (p : Pkt) (s : State) (hs : s.inv fl) :
    (actSecConfig p s).inv fl := by
  unfold actSecConfig
  try dsimp only
  repeat' first
    | with_reducible assumption | with_reducible apply withSe_wf | with_reducible apply readWords_wf | with_reducible apply reject_wf
    | with_reducible apply completeOk_wf | split
    | (simp only [wf_mk]; with_reducible refine wf_parts ?_) | (intro _ _)

theorem execSecConfig_wf (p : Pkt) (s : State) (hs : s.inv fl) :
    Res.wf fl (execSecConfig p s) := by
  unfold execSecConfig
  try dsimp only
  repeat' first
    | with_reducible assumption | with_reducible apply res_next | with_reducible exact res_fault | with_reducible exact res_refused
    | with_reducible apply actSecConfig_wf | with_reducible apply runHost_wf

theorem actUpdStage_wf (p : Pkt) (s : State) (hs : s.inv fl) :
    (actUpdStage p s).inv fl := by
  unfold actUpdStage
  try dsimp only
  repeat' first
    | with_reducible assumption | with_reducible apply readWords_wf | with_reducible apply handOn_wf
    | split | (simp only [wf_mk]; with_reducible refine wf_parts ?_)

theorem execUpdStage_wf (p : Pkt) (s : State) (hs : s.inv fl) :
    Res.wf fl (execUpdStage p s) := by
  unfold execUpdStage
  try dsimp only
  repeat' first
    | with_reducible assumption | with_reducible apply res_next | with_reducible exact res_fault | with_reducible exact res_refused
    | with_reducible apply actUpdStage_wf | with_reducible apply runHost_wf

theorem actUpdActivate_wf (p : Pkt) (s : State) (hs : s.inv fl) :
    (actUpdActivate p s).inv fl := by
  unfold actUpdActivate
  try dsimp only
  repeat' first
    | with_reducible assumption | with_reducible apply handOn_wf | split
    | (simp only [wf_mk]; with_reducible refine wf_parts ?_)

theorem execUpdActivate_wf (p : Pkt) (s : State) (hs : s.inv fl) :
    Res.wf fl (execUpdActivate p s) := by
  unfold execUpdActivate
  try dsimp only
  repeat' first
    | with_reducible assumption | with_reducible apply res_next | with_reducible exact res_fault | with_reducible exact res_refused
    | with_reducible apply actUpdActivate_wf | with_reducible apply runCmd_wf

theorem actUpdCancel_wf (p : Pkt) (s : State) (hs : s.inv fl) :
    (actUpdCancel p s).inv fl := by
  unfold actUpdCancel
  try dsimp only
  repeat' first
    | with_reducible assumption | with_reducible apply cancelUpdate_wf | with_reducible apply completeOk_wf

theorem execUpdCancel_wf (p : Pkt) (s : State) (hs : s.inv fl) :
    Res.wf fl (execUpdCancel p s) := by
  unfold execUpdCancel
  try dsimp only
  repeat' first
    | with_reducible assumption | with_reducible apply res_next | with_reducible exact res_fault | with_reducible exact res_refused
    | with_reducible apply actUpdCancel_wf | with_reducible apply runCmd_wf

theorem actUpdQuery_wf (p : Pkt) (s : State) (hs : s.inv fl) :
    (actUpdQuery p s).inv fl := by
  unfold actUpdQuery
  try dsimp only
  repeat' first
    | with_reducible assumption | with_reducible apply completeOk_wf

theorem execUpdQuery_wf (p : Pkt) (s : State) (hs : s.inv fl) :
    Res.wf fl (execUpdQuery p s) := by
  unfold execUpdQuery
  try dsimp only
  repeat' first
    | with_reducible assumption | with_reducible apply res_next | with_reducible exact res_fault | with_reducible exact res_refused
    | with_reducible apply actUpdQuery_wf | with_reducible apply runCmd_wf

theorem stageDone_wf (passed : Bool) (s : State) (hs : s.inv fl) :
    (stageDone passed s).inv fl := by
  unfold stageDone
  try dsimp only
  repeat' first
    | with_reducible assumption | with_reducible apply complete_wf | with_reducible apply completeOk_wf | with_reducible apply glbEvent_wf
    | split | (simp only [wf_mk]; with_reducible refine wf_parts ?_)

theorem commitUpdate_wf (s : State) (hs : s.inv fl) :
    (commitUpdate s).inv fl := by
  unfold commitUpdate
  try dsimp only
  repeat' first
    | with_reducible assumption | with_reducible apply completeOk_wf | with_reducible apply glbEvent_wf
    | split | (simp only [wf_mk]; with_reducible refine wf_parts ?_)

theorem stagePasses_wf (s : State) (hs : s.inv fl) :
    (stagePasses s).inv fl := by
  unfold stagePasses
  try dsimp only
  repeat' first
    | with_reducible assumption | with_reducible apply commitUpdate_wf | with_reducible apply swapPairs_wf
    | with_reducible apply glbEvent_wf | split
    | (simp only [wf_mk]; with_reducible refine wf_parts ?_)

theorem execUpdateStageComplete_wf (passed : Bool) (s : State) (hs : s.inv fl) :
    Res.wf fl (execUpdateStageComplete passed s) := by
  unfold execUpdateStageComplete
  try dsimp only
  repeat' first
    | with_reducible assumption | with_reducible apply res_next | with_reducible exact res_fault | with_reducible exact res_refused
    | with_reducible apply stagePasses_wf | with_reducible apply stageDone_wf | with_reducible apply cancelUpdate_wf
    | split | (simp only [wf_mk]; with_reducible refine wf_parts ?_)

end Sys2Proof.Machine
end

