-- ==== Sys2Proof/Machine/Package.lean ====
section
/-! DEFINITION. The package and the pins (18): the balls with their signals and rails, the operating conditions, the order of the supplies,
the input levels, and the levels at the pins that the state gives. Voltages are in mV, lengths in µm. -/

namespace Sys2Proof.Machine

/-! ### The grid (R452, R453) -/

/-- The names of the ball rows, from the index edge on (R453). -/
def ballRows : List String :=
  let one := ["A", "B", "C", "D", "E", "F", "G", "H", "J", "K", "L", "M", "N", "P", "T", "U", "V", "W", "Y"]
  one ++ one.map ("A" ++ ·) ++ (one.take 10).map ("B" ++ ·)

/-- Index of a row, from 1 (R453). -/
def rowIndex (r : String) : Nat := ballRows.findIdx (· == r) + 1

/-- A ball by the index of its row and its column (R453). -/
structure Ball where
  row : Nat
  col : Nat
  deriving DecidableEq, Repr

/-- The ball of a row name and a column. -/
def ballAt (r : String) (c : Nat) : Ball := { row := rowIndex r, col := c }

/-- The balls of a column, in the order of the rows named. -/
def columnOf (c : Nat) (rs : List String) : List Ball := rs.map fun r => ballAt r c

/-- A position with a ball: the grid but for the index corner (R452). -/
def populated (b : Ball) : Bool :=
  1 ≤ b.row && b.row ≤ 48 && 1 ≤ b.col && b.col ≤ 48 && !(b.row ≤ 2 && b.col ≤ 2)

/-- Centre of a ball from the body's corner, µm (R452). -/
def ballCentre (b : Ball) : Nat × Nat := (1200 + 800 * (b.col - 1), 1200 + 800 * (b.row - 1))

/-! ### Rails (R461, R463, R464, R467) -/

/-- Every rail. -/
def allRails : List Rail :=
  [.bal, .soc, .aon, .sram, .ser, .hser, .phy18, .io18, .aonio, .pll, .vdd1, .vdd2h, .vdd2l, .vddq]

/-- Nominal voltage of a rail and its range, mV (R461). -/
def railRange : Rail → Nat × Nat × Nat
  | .bal => (900, 870, 950) | .soc => (750, 725, 790) | .aon => (750, 725, 790) | .sram => (850, 825, 890) | .ser => (750, 725, 790)
  | .hser => (1200, 1164, 1236) | .phy18 => (1800, 1710, 1890) | .io18 => (1800, 1710, 1890) | .aonio => (1800, 1710, 1890)
  | .pll => (750, 725, 790) | .vdd1 => (1800, 1700, 1950) | .vdd2h => (1050, 1010, 1120) | .vdd2l => (900, 870, 970) | .vddq => (500, 470, 570)

/-- Largest 1 ms average current of a rail at the 60 W cap, mA, without output loads (R461). -/
def railCurrent : Rail → Nat
  | .bal => 60000 | .soc => 14000 | .aon => 150 | .sram => 9000 | .ser => 5000 | .hser => 2000 | .phy18 => 1200 | .io18 => 1000
  | .aonio => 150 | .pll => 400 | .vdd1 => 600 | .vdd2h => 7000 | .vdd2l => 4000 | .vddq => 5000

/-- Balls of a rail (R460, R461). -/
def railBalls : Rail → Nat
  | .bal => 312 | .soc => 81 | .aon => 9 | .sram => 54 | .ser => 38 | .hser => 28 | .phy18 => 40 | .io18 => 37
  | .aonio => 11 | .pll => 13 | .vdd1 => 21 | .vdd2h => 63 | .vdd2l => 42 | .vddq => 42

/-- A rail lies within its range (R461). -/
def railInRange (r : Rail) (mv : Nat) : Bool := (railRange r).2.1 ≤ mv && mv ≤ (railRange r).2.2

/-- What the supply monitors make of a rail's voltage (R463): nothing within the range, else an excursion, with whether the rail lies below
50 % of its nominal value. -/
def monitorRail (r : Rail) (mv : Nat) : Option Bool := if railInRange r mv then none else some (decide (2 * mv < (railRange r).1))

/-- Stage of power-up in which a rail comes up (R464). -/
def railStage : Rail → Nat
  | .aon | .aonio => 1
  | .vdd1 | .io18 | .phy18 => 2
  | .vdd2h | .sram => 3
  | .vdd2l | .soc | .pll | .ser | .hser => 4
  | .vddq | .bal => 5

/-- A stage may start once every rail of the stage before it has passed 90 % of its nominal value (R464). -/
def stageMayStart (st : Nat) (mv : Rail → Nat) : Bool :=
  allRails.all fun r => railStage r + 1 != st || decide (9 * (railRange r).1 < 10 * mv r)

/-- A stage may start to fall once every rail of the later stage is below 10 % of its nominal value (R465). -/
def stageMayFall (st : Nat) (mv : Rail → Nat) : Bool :=
  allRails.all fun r => railStage r != st + 1 || decide (10 * mv r < (railRange r).1)

/-- The reset ends at the later of the deassertion of PORESET_N and 1 ms after the last rail has entered its range (R466), ns. -/
def resetEnd (poresetHigh lastRail : Nat) : Nat := max poresetHigh (lastRail + 1000000)

/-- Highest voltage of a rail without damage, mV (R467). -/
def railMax : Rail → Nat
  | .soc | .aon | .ser | .pll => 900
  | .sram => 1000
  | .bal => 1050
  | .hser | .vdd2h => 1400
  | .vdd2l => 1300
  | .vddq => 800
  | .phy18 | .io18 | .aonio | .vdd1 => 2100

/-! ### Signal balls (R454–R458) -/

/-- Type of a signal ball (R454). -/
inductive BallType where
  | input | output | bidir | openDrain | analog | diff
  deriving DecidableEq, Repr

/-- What a signal ball does in reset (R454–R458). -/
inductive InReset where
  | highZ | terminated | txOff | input | released | low | high | pullUp | pullDown | keeper | oscillator | gate
  deriving DecidableEq, Repr

/-- A group of signal balls of one type, rail and state in reset; the balls stand in the order of the signals they carry. -/
structure BallGroup where
  name : String
  balls : List Ball
  type : BallType
  rail : Rail
  reset : InReset
  deriving DecidableEq, Repr

/-- The P and N balls of the pairs at the given columns. -/
def pairsAt (p n : String) (cs : List Nat) : List Ball := (cs.map fun c => [ballAt p c, ballAt n c]).flatten

/-- First column of main camera port `k` (R455): ports 0–5 lie in rows B and C, ports 6–11 in rows F and G. -/
def csiBalls (k : Nat) : List Ball :=
  let c := 4 + 7 * (k % 6)
  pairsAt (if k < 6 then "B" else "F") (if k < 6 then "C" else "G") ((List.range 5).map (c + ·))

/-- The camera port balls (R455). -/
def cameraGroups : List BallGroup :=
  ((List.range 12).map fun k => { name := "CSI", balls := csiBalls k, type := .diff, rail := .phy18, reset := .highZ })
    ++ [{ name := "CSIP", balls := pairsAt "B" "C" [45, 46], type := .diff, rail := .aonio, reset := .highZ }]

/-- Columns of the PCIe lanes (R456). -/
def laneColumns : List Nat := (List.range 8).map fun k => 4 + 3 * k

/-- The PCIe, Ethernet, sideband and oscillator balls (R456). -/
def southGroups : List BallGroup :=
  [{ name := "PE_TX", balls := pairsAt "BH" "BJ" laneColumns, type := .diff, rail := .ser, reset := .txOff },
   { name := "PE_RX", balls := pairsAt "BD" "BE" laneColumns, type := .diff, rail := .ser, reset := .terminated },
   { name := "PE_REFCLK", balls := pairsAt "BH" "BJ" [28], type := .diff, rail := .ser, reset := .highZ },
   { name := "ETH_TX", balls := pairsAt "BH" "BJ" [34, 37], type := .diff, rail := .ser, reset := .txOff },
   { name := "ETH_RX", balls := pairsAt "BD" "BE" [34, 37], type := .diff, rail := .ser, reset := .terminated },
   { name := "ETH_REFCLK", balls := pairsAt "BH" "BJ" [40], type := .diff, rail := .ser, reset := .highZ },
   { name := "PE_PERST0_N", balls := [ballAt "BK" 4], type := .input, rail := .aonio, reset := .input },
   { name := "PE_WAKE_N", balls := [ballAt "BK" 5], type := .openDrain, rail := .aonio, reset := .released },
   { name := "PE_CLKREQ_N", balls := [ballAt "BK" 6], type := .openDrain, rail := .aonio, reset := .released },
   { name := "PE_PERST1_N", balls := [ballAt "BK" 7], type := .openDrain, rail := .aonio, reset := .low },
   { name := "XTAL", balls := [ballAt "BK" 42, ballAt "BK" 43], type := .analog, rail := .io18, reset := .oscillator }]

/-- The rows J to AN and AP to BC of an edge, in order. -/
def edgeRows (lo n : Nat) : List String := (ballRows.drop lo).take n

/-- The west edge (R457). -/
def westGroups : List BallGroup :=
  [{ name := "CAM_FSYNC", balls := columnOf 1 (edgeRows 8 12), type := .output, rail := .io18, reset := .pullDown },
   { name := "CAM_PWR_EN", balls := columnOf 1 (edgeRows 20 12), type := .output, rail := .io18, reset := .low },
   { name := "PDM_CLK0", balls := columnOf 1 ["AP"], type := .output, rail := .aonio, reset := .low },
   { name := "PDM_D0–1", balls := columnOf 1 ["AT", "AU"], type := .input, rail := .aonio, reset := .keeper },
   { name := "MIC_PWR_EN", balls := columnOf 1 ["AV"], type := .output, rail := .aonio, reset := .low },
   { name := "MIC_LED", balls := columnOf 1 ["AW"], type := .output, rail := .aonio, reset := .gate },
   { name := "PRIV_MIC_N, PRIV_CAM_N", balls := columnOf 1 ["AY", "BA"], type := .input, rail := .aonio, reset := .pullDown },
   { name := "CAM_LED", balls := columnOf 1 ["BB"], type := .output, rail := .aonio, reset := .gate },
   { name := "XTAL32K", balls := [ballAt "BC" 1, ballAt "BC" 2], type := .analog, rail := .aonio, reset := .oscillator },
   { name := "PDM_CLK1", balls := columnOf 2 ["J"], type := .output, rail := .io18, reset := .low },
   { name := "PDM_D2–7", balls := columnOf 2 ["K", "L", "M", "N", "P", "T"], type := .input, rail := .io18, reset := .keeper },
   { name := "I2S_BCLK, I2S_LRCK", balls := columnOf 2 ["U", "V", "AA", "AB"], type := .bidir, rail := .io18, reset := .pullDown },
   { name := "I2S_DOUT", balls := columnOf 2 ["W", "AC"], type := .output, rail := .io18, reset := .pullDown },
   { name := "I2S_DIN", balls := columnOf 2 ["Y", "AD"], type := .input, rail := .io18, reset := .pullDown },
   { name := "OSPI_CLK", balls := columnOf 2 ["AE"], type := .output, rail := .io18, reset := .pullDown },
   { name := "OSPI_CS_N", balls := columnOf 2 ["AF"], type := .output, rail := .io18, reset := .pullUp },
   { name := "OSPI_DQS", balls := columnOf 2 ["AG"], type := .input, rail := .io18, reset := .pullDown },
   { name := "OSPI_DQ", balls := columnOf 2 (edgeRows 26 8), type := .bidir, rail := .io18, reset := .pullDown },
   { name := "AON_GPIO", balls := columnOf 2 ["AU", "AV", "AW", "AY", "BA", "BB"] ++ columnOf 3 ["AP", "AT"], type := .bidir, rail := .aonio,
     reset := .pullDown },
   { name := "I2C0", balls := columnOf 3 ["AU", "AV"], type := .openDrain, rail := .aonio, reset := .released },
   { name := "PORESET_N", balls := columnOf 3 ["AW"], type := .input, rail := .aonio, reset := .pullDown },
   { name := "SYSRESET_N", balls := columnOf 3 ["AY"], type := .input, rail := .aonio, reset := .pullUp },
   { name := "RST_OUT_N", balls := columnOf 3 ["BA"], type := .openDrain, rail := .aonio, reset := .low },
   { name := "BOOT_SRC", balls := columnOf 3 ["BB", "BC"], type := .input, rail := .aonio, reset := .pullDown }]

/-- The east edge (R458). -/
def eastGroups : List BallGroup :=
  [{ name := "GPIO", balls := columnOf 48 (edgeRows 8 24) ++ columnOf 47 (edgeRows 8 24), type := .bidir, rail := .io18, reset := .pullDown },
   { name := "EV", balls := columnOf 46 (edgeRows 8 32), type := .bidir, rail := .io18, reset := .pullDown },
   { name := "UART_TX", balls := columnOf 48 ["AP", "AU"], type := .output, rail := .io18, reset := .pullUp },
   { name := "UART_RX", balls := columnOf 48 ["AT", "AV"], type := .input, rail := .io18, reset := .pullUp },
   { name := "TCK", balls := columnOf 48 ["AW"], type := .input, rail := .io18, reset := .pullDown },
   { name := "TMS, TDI", balls := columnOf 48 ["AY", "BA"], type := .input, rail := .io18, reset := .pullUp },
   { name := "TDO", balls := columnOf 48 ["BB"], type := .output, rail := .io18, reset := .highZ },
   { name := "TRST_N", balls := columnOf 48 ["BC"], type := .input, rail := .io18, reset := .pullDown },
   { name := "I2C1–3", balls := columnOf 47 ["AP", "AT", "AU", "AV", "AW", "AY"], type := .openDrain, rail := .io18, reset := .released },
   { name := "SAFE_FAULT_N", balls := columnOf 47 ["BA"], type := .output, rail := .io18, reset := .low },
   { name := "SAFE_STATE", balls := columnOf 47 ["BB"], type := .output, rail := .io18, reset := .high }]

/-- Every group of signal balls. -/
def ballGroups : List BallGroup := cameraGroups ++ southGroups ++ westGroups ++ eastGroups

/-- Every signal ball (R460). -/
def signalBalls : List Ball := (ballGroups.map fun g => g.balls).flatten

/-- IEEE 1149.1 boundary scan covers the signal balls of R457 and R458 and the sideband balls of R456, but no ball of type D or A (R458). -/
def boundaryScanned (g : BallGroup) : Bool := g.type != .diff && g.type != .analog

/-! ### Supply balls (R459, R460) -/

/-- What a ball is connected to (R459). -/
inductive BallUse where
  | signal | supply (r : Rail) | vss
  deriving DecidableEq, Repr

/-- Rail of a core block (R459). -/
def coreRail (b : Ball) : Rail :=
  let r := b.row
  let c := b.col
  if r ≤ rowIndex "AN" then
    (if c ≤ 5 then .io18 else if c ≤ 31 then .bal else if r ≤ rowIndex "L" then .vdd1 else if r ≤ rowIndex "AA" then .vdd2h
     else if r ≤ rowIndex "AG" then .vdd2l else .vddq)
  else
    (if c ≤ 5 then .aonio else if c ≤ 7 then .aon else if c ≤ 19 then .sram else if c ≤ 37 then .soc else if c ≤ 41 then .ser
     else if c ≤ 43 then .hser else .pll)

/-- A ball of a region that carries no signal (R459). -/
def fillBall (b : Ball) : BallUse :=
  let r := b.row
  let c := b.col
  if r ≤ rowIndex "H" then
    (if ([2, 3, 6, 7] : List Nat).contains r && ([9, 10, 16, 17, 23, 24, 30, 31, 37, 38] : List Nat).contains c then .supply .phy18
     else if (r = 2 || r = 3) && c = 47 then .supply .aonio else .vss)
  else if rowIndex "BD" ≤ r then
    (if r = rowIndex "BG" && c % 2 = 1 && 3 ≤ c && c ≤ 41 then .supply .ser
     else if r = rowIndex "BG" && c % 2 = 0 && 4 ≤ c && c ≤ 40 then .supply .hser
     else if r = rowIndex "BK" && 44 ≤ c && c ≤ 47 then .supply .pll else .vss)
  else if c ≤ 3 then (if c = 3 && r ≤ rowIndex "AM" && r % 2 = 1 then .supply .io18 else .vss)
  else if 46 ≤ c then (if r = rowIndex "BC" && c = 46 then .supply .io18 else .vss)
  else if (r + c) % 2 = 0 then .vss
  else .supply (coreRail b)

/-- What a ball of the grid carries (R454–R459); none at the depopulated positions. -/
def ballUse (b : Ball) : Option BallUse :=
  if !populated b then none else if signalBalls.contains b then some .signal else some (fillBall b)

/-! ### Input levels (R468–R470) -/

/-- Level that a ball of VDD_IO18 or VDD_AONIO at `rail` mV reads at an input of `mv` mV (R469): between the two thresholds the
level is not stated. -/
def inputLevel (rail mv : Nat) : Option Bool :=
  if 65 * rail ≤ 100 * mv then some true else if 100 * mv ≤ 35 * rail then some false else none

/-- Level that a PCIe sideband ball reads (R470). -/
def sidebandLevel (mv : Nat) : Option Bool := if 1200 ≤ mv then some true else if mv ≤ 500 then some false else none

/-- A low pulse on a reset pin of `ns` nanoseconds (R476): acts fully, is ignored, or either. -/
def resetPulse (ns : Nat) : Option Bool := if ns < 100 then some false else if 1000 ≤ ns then some true else none

/-- A low pulse on a privacy pin of `ns` nanoseconds asserts its gate from 50 ns on; a shorter one may (R472). -/
def privPulse (ns : Nat) : Option Bool := if 50 ≤ ns then some true else none

/-! ### Levels at the pins that the state gives -/

/-- CAM_LED lights while the camera gate acts (R329). -/
def camLed (s : State) : Bool := s.cams.gate

/-- MIC_LED lights while the microphone gate acts (R349). -/
def micLed (s : State) : Bool := s.audio.gate

/-- The level of CAMn_FSYNC (R327): its active level during a pulse, else its inactive level; inactive while its pad group is held and in the
safe state (R407, R420). -/
def camFsync (n : Nat) (s : State) : Bool :=
  let c := tgetD s.cams.ports n
  (c.fsync && !s.power.held.testBit 2 && !s.safe.safeState) == c.syncHigh

/-- The pulse on EVn: inactive while its pad group is held and in the safe state (R407, R420). -/
def evPulse (n : Nat) (s : State) : Bool := (tgetD s.net.evs n).pulse && !s.power.held.testBit 1 && !s.safe.safeState

/-- The level that the part drives on EVn: the active level of POL during a pulse, else the inactive one; none where the ball is an input (R365). -/
def evBall (n : Nat) (s : State) : Option Bool :=
  let e := tgetD s.net.evs n
  if evMode e = 1 ∧ evOut e then some (evPulse n s == e.ctl.getLsbD 3) else none

/-! ### The I2S/TDM ports (R345, R353, R474) -/

/-- A port drives BCLK and LRCK: a configured controller whose pads are not held (R345, R420); any other port that is no target holds them
low or leaves them to their pull-down (R353). -/
def i2sDrives (n : Nat) (s : State) : Bool := (i2sOf s n).configured && !(i2sOf s n).target && !s.power.held.testBit 3

/-- BCLK cycles of a frame. -/
def frameBits (q : I2s) : Nat := q.slots * q.width

/-- The integer that divides the 98.304 MHz of the audio block into BCLK (R345). -/
def bclkDivider (q : I2s) : Nat := 98304000 / (rateHz q.rate * frameBits q)

/-- LRCK in BCLK cycle `k` of a frame, counted from the LRCK edge that starts the frame (R345). -/
def lrckAt (q : I2s) (k : Nat) : Bool :=
  match q.mode with
  | 0 => decide (q.width ≤ k)
  | 1 => decide (k < q.width)
  | _ => k == 0

/-- BCLK cycles from that edge to the first data bit (R345). The pulse of TDM is the first of them (DEDUCED, log 30). -/
def firstBit (q : I2s) : Nat := if q.mode = 1 then 0 else 1

/-- Slot and bit of the slot, most significant first, that a BCLK cycle carries: the last bits of a frame may stand in the next one's first cycle
(R345). -/
def slotBit (q : I2s) (k : Nat) : Nat × Nat :=
  let b := (k + frameBits q - firstBit q) % frameBits q
  (b / q.width, b % q.width)

/-- DOUT in BCLK cycle `k` of a frame whose samples are `fs` (R345): left-aligned, MSB first; low past the data bits (DESIGN CHOICE, log 30). -/
def doutBit (q : I2s) (fs : List Int) (k : Nat) : Bool :=
  let (slot, bit) := slotBit q k
  decide (bit < q.dataWidth) && (unsigned q.dataWidth (fs.getD slot 0)).testBit (q.dataWidth - 1 - bit)

/-- DOUT of port `n` in BCLK cycle `k` of the frame at working time `t`: low where the port is not configured, where DOUT enable is clear, where
nothing plays, in the safe state and while the pads are held (R352, R353, R407, R420). -/
def i2sDout (n t k : Nat) (s : State) : Bool :=
  let q := i2sOf s n
  q.configured && q.flags.testBit 3 && !s.safe.safeState && !s.power.held.testBit 3
    && doutBit q ((List.range q.slots).map fun j => loopAt q j t) k

/-- DOUT changes at the falling edge of BCLK and DIN is taken at its rising edge; with BCLK inverted the edges exchange (R352, R474). -/
def doutFalls (q : I2s) : Bool := !q.flags.testBit 1

/-- Debug access to Bridle opens while the record in force has DEBUG set; boundary scan is open at every start (R447). -/
def debugOpen (s : State) : Bool := policy s 2

/-! ### Thermal (R479) -/

/-- The allowed thermal resistance from junction to ambient, mK/W, that keeps the junction at or below Tj_max − 12 °C (R479): temperatures in
0.25 °C, power in W. -/
def thetaAllowed (tj : Int) (ambient : Int) (watts : Nat) : Int := (tj - 48 - ambient) * 250 / watts

end Sys2Proof.Machine
end

