-- ==== Sys2Proof/WellFormed.lean ====
section
/-! DEFINITION. Well-formed commands: a packet row carries a packet of its own opcode and of a length that the opcode accepts, and an
event row names a unit that the part has. exec does not ask for it; the shared checks of R81 refuse an ill-formed packet. -/

namespace Sys2Proof

open Machine

/-- A packet of opcode `op`: its bytes are its length, the opcode accepts that length, and its carrier exists (R74, R75, R102). -/
def Pkt.wf (op : Nat) (p : Pkt) : Bool :=
  pOp p == op && p.bytes.length == 16 * pLen p && ((specOf op).map fun c => lenOk c (pLen p)).getD false &&
    decide (p.ctx ≤ 512) && decide (p.queue ≤ 8) && (p.queue == 8 || p.session == 0)

/-- A datagram of Ethernet port 0 or 1, with an address of 16 bytes and a UDP port of 16 bits (R92). -/
def Dgram.wf (d : Dgram) : Bool := decide (d.port ≤ 1) && d.ip.length == 16 && decide (d.udp < 65536)

/-- A Mooring detector's reason: keyword, presence or motion (R33). -/
def reasonOk (reason : Nat) : Bool := decide (1 ≤ reason) && decide (reason ≤ 3)

/-- A unit that the self-test covers: a panel, or Kite (R401). -/
def tested (type index : Nat) : Bool := (type == 1 && decide (index < 34)) || (type == 2 && index == 0)

/-- A watched unit of the part (R389). -/
def Watched.wf (u : Watched) : Bool :=
  match u with
  | .camera n => decide (n ≤ 11)
  | .tail n => decide (n ≤ 33)
  | .kiteTail => true
  | .dmaEarly n => decide (n ≤ 30)
  | .ethernet n => decide (n ≤ 1)
  | .audio n => decide (n ≤ 7)

/-- Gang of the leg that a failed host read was for, 0 for another read (R65). -/
def ReadFor.gangNo (r : ReadFor) : Nat := match r with | .leg g => g | _ => 0

/-- A clocked island of the part (R386). -/
def ClockUnit.wf (u : ClockUnit) : Bool :=
  match u with
  | .panel n => decide (n ≤ 33)
  | .camera n => decide (n ≤ 11)
  | .kite | .presence | .mooring | .stateStore | .audio | .network | .host | .memory | .bridle => true

/-- The command is well formed: one arm per row of the table. -/
def Instr.wf (i : Instr) : Bool :=
  match i with
  | .devNop p => Pkt.wf 0x0000 p
  | .devInfo p => Pkt.wf 0x0001 p
  | .devStats p => Pkt.wf 0x0002 p
  | .devRejectLog p => Pkt.wf 0x0003 p
  | .devReset p => Pkt.wf 0x0004 p
  | .devResetGraceEnd p => Pkt.wf 0x0004 p
  | .devKeyEnroll p => Pkt.wf 0x0005 p
  | .devKeyRevoke p => Pkt.wf 0x0006 p
  | .devKeyList p => Pkt.wf 0x0007 p
  | .devNetConfig p => Pkt.wf 0x0008 p
  | .devSessions p => Pkt.wf 0x0009 p
  | .devSessionClose p => Pkt.wf 0x000A p
  | .cascQuery p => Pkt.wf 0x0A00 p
  | .cascSetSource p => Pkt.wf 0x0A01 p
  | .cascBind p => Pkt.wf 0x0A02 p
  | .cascSetHold p => Pkt.wf 0x0A03 p
  | .cascLift p => Pkt.wf 0x0A04 p
  | .cascBallast p => Pkt.wf 0x0A05 p
  | .cascReadLog p => Pkt.wf 0x0A06 p
  | .cascReadReel p => Pkt.wf 0x0A07 p
  | .cascCounters p => Pkt.wf 0x0A08 p
  | .cascSetTimer p => Pkt.wf 0x0A09 p
  | .energyGateDecision level => decide (level ≤ 0xFFFF)
  | .detectorDecision reason score input _ _ => reasonOk reason && decide (score ≤ 0xFFFF) && decide (input.length ≤ 19200)
  | .sampleHoldEnd => true
  | .updraftWindowEnd tier => decide (tier ≤ 16)
  | .warmUpComplete tier => decide (tier ≤ 16)
  | .armingComplete tier => decide (tier ≤ 16)
  | .idleHoldEnd tier => decide (tier ≤ 16)
  | .tierPowerDownComplete tier => decide (tier ≤ 16)
  | .reelSourceHandover => true
  | .reelReaderSupply tier => decide (tier ≤ 16)
  | .rtcAlarm => true
  | .aonGpioEdge pin _ => decide (pin ≤ 7)
  | .presenceFrame _ => true
  | .bar0UnsupportedAccess _ => true
  | .registerWrite off _ _ => decide (off < 0x02000000)
  | .glbTimeLoRead _ => true
  | .glbEventClear _ _ => true
  | .glbErrClear _ _ => true
  | .resume => true
  | .abandon => true
  | .mgmtRingEnable _ => true
  | .mgmtRingDisable _ => true
  | .dbSqWrite page queue _ => decide (page ≤ 512) && decide (queue ≤ 7)
  | .dbSrWrite page _ => decide (page ≤ 512)
  | .bar2Read off size => decide (1 ≤ size) && decide (off + size ≤ 0x40000000)
  | .bar2Write off data => !data.isEmpty && decide (off + data.length ≤ 0x40000000)
  | .msixEntryUnmask vector => decide (vector.getD 0 ≤ 1023)
  | .linkReset _ => true
  | .d3hotEntry => true
  | .d0Resume _ => true
  | .atsInvalidation ctx _ => decide (ctx ≤ 512)
  | .hostReadFailure ctx _ what => decide (ctx ≤ 512) && decide (what.gangNo ≤ 16)
  | .rootPortLinkDown => true
  | .rootPortRetrain _ _ _ => true
  | .packetFetch p chain => decide (p.queue ≤ 7) && chain.all (fun x => x.ctx == p.ctx && x.queue == p.queue)
  | .packetDispatch ctx tag => decide (ctx ≤ 512) && decide (tag < 2 ^ 32)
  | .dependencyTimeout ctx tag => decide (ctx ≤ 512) && decide (tag < 2 ^ 32)
  | .stolpHello d => Dgram.wf d
  | .stolpFinish d => Dgram.wf d
  | .stolpData d => Dgram.wf d
  | .stolpClose d => Dgram.wf d
  | .handshakeTimeout _ => true
  | .sessionIdleTimeout _ => true
  | .creditTimer _ => true
  | .replyBatchTimeout _ => true
  | .ctxOpen p => Pkt.wf 0x0100 p
  | .ctxClose p => Pkt.wf 0x0101 p
  | .ctxCloseGraceEnd ctx => decide (ctx ≤ 512)
  | .ctxQuery p => Pkt.wf 0x0102 p
  | .ctxSetQuota p => Pkt.wf 0x0103 p
  | .ctxSeal p => Pkt.wf 0x0104 p
  | .ctxQueueCreate p => Pkt.wf 0x0105 p
  | .ctxQueueDestroy p => Pkt.wf 0x0106 p
  | .gangCreate p => Pkt.wf 0x0107 p
  | .gangDestroy p => Pkt.wf 0x0108 p
  | .gangQuery p => Pkt.wf 0x0109 p
  | .ctxLeases p => Pkt.wf 0x010A p
  | .ctxXlate p => Pkt.wf 0x010B p
  | .leaseLimitExpiry _ => true
  | .ripcordScrubComplete ctx => decide (ctx ≤ 512)
  | .legAccessFault ctx gang channel command => decide (ctx ≤ 512) && decide (gang.getD 0 ≤ 16) && decide (channel.getD 0 ≤ 31)
    && decide (command.getD 0 < 2 ^ 32)
  | .legEnd e => decide (e.gang ≤ 16)
  | .prefetchComplete gang _ => decide (gang ≤ 16)
  | .stallLimitExpiry gang => decide (gang ≤ 16)
  | .legLateLimit gang => decide (gang ≤ 16)
  | .pageReclaim page => decide (page < 1048576)
  | .stripeGroupStart gang _ _ => decide (gang ≤ 16)
  | .pipelineStageStep gang _ => decide (gang ≤ 16)
  | .qstatArm p => Pkt.wf 0x0D00 p
  | .qstatDisarm p => Pkt.wf 0x0D01 p
  | .qstatRead p => Pkt.wf 0x0D02 p
  | .qstatQuery p => Pkt.wf 0x0D03 p
  | .qconvert p => Pkt.wf 0x0D04 p
  | .dmaTransferComplete channel _ => decide (channel ≤ 30)
  | .planLoad p => Pkt.wf 0x0300 p
  | .planUnload p => Pkt.wf 0x0301 p
  | .planQuery p => Pkt.wf 0x0302 p
  | .planRun p => Pkt.wf 0x0303 p
  | .planStop p => Pkt.wf 0x0304 p
  | .planFeed p => Pkt.wf 0x0305 p
  | .planBindEvent p => Pkt.wf 0x0306 p
  | .planUnbind p => Pkt.wf 0x0307 p
  | .gangStats p => Pkt.wf 0x0308 p
  | .panelQuery p => Pkt.wf 0x0309 p
  | .planReload p => Pkt.wf 0x030A p
  | .moorLoad p => Pkt.wf 0x030B p
  | .moorQuery p => Pkt.wf 0x030C p
  | .kvPoolCreate p => Pkt.wf 0x0400 p
  | .kvPoolDestroy p => Pkt.wf 0x0401 p
  | .kvSeqCreate p => Pkt.wf 0x0402 p
  | .kvFork p => Pkt.wf 0x0403 p
  | .kvTruncate p => Pkt.wf 0x0404 p
  | .kvFree p => Pkt.wf 0x0405 p
  | .kvSeqQuery p => Pkt.wf 0x0406 p
  | .kvPageQuery p => Pkt.wf 0x0407 p
  | .kvRead p => Pkt.wf 0x0408 p
  | .kvWait p => Pkt.wf 0x0409 p
  | .kvPoolQuery p => Pkt.wf 0x040A p
  | .kvExport p => Pkt.wf 0x040B p
  | .kvImport p => Pkt.wf 0x040C p
  | .strmSetCreate p => Pkt.wf 0x0500 p
  | .strmSetDestroy p => Pkt.wf 0x0501 p
  | .strmStart p => Pkt.wf 0x0502 p
  | .strmPause p => Pkt.wf 0x0503 p
  | .strmResume p => Pkt.wf 0x0504 p
  | .strmEnd p => Pkt.wf 0x0505 p
  | .strmQuery p => Pkt.wf 0x0506 p
  | .strmSentinel p => Pkt.wf 0x0507 p
  | .strmRead p => Pkt.wf 0x0508 p
  | .strmExport p => Pkt.wf 0x0509 p
  | .strmImport p => Pkt.wf 0x050A p
  | .strmPeer p => Pkt.wf 0x050B p
  | .memAlloc p => Pkt.wf 0x0200 p
  | .memFree p => Pkt.wf 0x0201 p
  | .memMapHost p => Pkt.wf 0x0202 p
  | .memProtect p => Pkt.wf 0x0203 p
  | .memCopy p => Pkt.wf 0x0204 p
  | .memPlace p => Pkt.wf 0x0205 p
  | .memPin p => Pkt.wf 0x0206 p
  | .memQuery p => Pkt.wf 0x0207 p
  | .memChannels p => Pkt.wf 0x0208 p
  | .memChannelRetire p => Pkt.wf 0x0209 p
  | .memColdIo p => Pkt.wf 0x020A p
  | .memMovePageComplete _ _ => true
  | .firmwarePlacement => true
  | .coldTierCompletion _ _ => true
  | .coldTierDeadline _ => true
  | .channelRetirementComplete => true
  | .patrolScrub word => decide (word < 2 ^ 36)
  | .camQuery p => Pkt.wf 0x0600 p
  | .camAssign p => Pkt.wf 0x0601 p
  | .camPort p => Pkt.wf 0x0602 p
  | .camParams p => Pkt.wf 0x0603 p
  | .camOutput p => Pkt.wf 0x0604 p
  | .camStart p => Pkt.wf 0x0605 p
  | .camStop p => Pkt.wf 0x0606 p
  | .camPower p => Pkt.wf 0x0607 p
  | .camSync p => Pkt.wf 0x0608 p
  | .camWindow p => Pkt.wf 0x0609 p
  | .camAttach p => Pkt.wf 0x060A p
  | .camWait p => Pkt.wf 0x060B p
  | .camPresence p => Pkt.wf 0x060C p
  | .csiFrameStart port vc _ => decide (port ≤ 11) && decide (vc ≤ 3)
  | .csiLine l => decide (l.port ≤ 11) && decide (l.vc ≤ 3) && decide (l.dt ≤ 0x3F)
  | .csiFrameEnd port vc _ => decide (port ≤ 11) && decide (vc ≤ 3)
  | .slotComplete port => decide (port ≤ 11)
  | .frameIntervalTimeout port => decide (port ≤ 11)
  | .mutedFrameTimer port => decide (port ≤ 11)
  | .privCamAssert => true
  | .privCamRelease => true
  | .audQuery p => Pkt.wf 0x0700 p
  | .audAssign p => Pkt.wf 0x0701 p
  | .audClock p => Pkt.wf 0x0702 p
  | .audLp p => Pkt.wf 0x0703 p
  | .audBeam p => Pkt.wf 0x0704 p
  | .audCapture p => Pkt.wf 0x0705 p
  | .audStart p => Pkt.wf 0x0706 p
  | .audStop p => Pkt.wf 0x0707 p
  | .audI2s p => Pkt.wf 0x0708 p
  | .audPlay p => Pkt.wf 0x0709 p
  | .audWait p => Pkt.wf 0x070A p
  | .audioBlockEnd _ => true
  | .playbackBlockFetch port => decide (port ≤ 1)
  | .i2sClockLoss port => decide (port ≤ 1)
  | .privMicAssert => true
  | .privMicRelease => true
  | .tkQuery p => Pkt.wf 0x0800 p
  | .tkConfig p => Pkt.wf 0x0801 p
  | .tkSelect p => Pkt.wf 0x0802 p
  | .evAssign p => Pkt.wf 0x0803 p
  | .evConfig p => Pkt.wf 0x0804 p
  | .evQuery p => Pkt.wf 0x0805 p
  | .evReadCapture p => Pkt.wf 0x0806 p
  | .eventTriggerFire channel => decide (channel ≤ 31)
  | .eventCaptureEdge channel _ _ => decide (channel ≤ 31)
  | .gptpSync m => decide (m.domain ≤ 1) && decide (m.port ≤ 1)
  | .gptpAnnounce domain port _ _ => decide (domain ≤ 1) && decide (port ≤ 1)
  | .gptpPdelay port _ => decide (port ≤ 1)
  | .syncReceiptTimeout domain => decide (domain ≤ 1)
  | .revertiveTimer => true
  | .netConfig p => Pkt.wf 0x0807 p
  | .netQuery p => Pkt.wf 0x0808 p
  | .netBind p => Pkt.wf 0x0809 p
  | .netSend p => Pkt.wf 0x080A p
  | .ethFrameReceive f => decide (f.port ≤ 1)
  | .ethFrameDepart port _ => decide (port ≤ 1)
  | .ethLinkChange port _ => decide (port ≤ 1)
  | .neighborResolutionTimeout port ip => decide (port ≤ 1) && ip.length == 16
  | .gwFleet p => Pkt.wf 0x080B p
  | .gwInbox p => Pkt.wf 0x080C p
  | .gwSend p => Pkt.wf 0x080D p
  | .gwQuery p => Pkt.wf 0x080E p
  | .gwHandshakeMessage m => decide (2 ≤ m.type) && decide (m.type ≤ 4)
  | .gwOffer m => m.type == 7
  | .gwAnswer m => m.type == 8
  | .gwData m => m.type == 1
  | .gwAck m => m.type == 5
  | .gwClose m => m.type == 6
  | .gwAckTimer _ _ => true
  | .gwChunkRetransmit _ _ _ => true
  | .gwTransferDeadline _ _ _ => true
  | .gwSessionIdleTimeout _ => true
  | .safeQuery p => Pkt.wf 0x0900 p
  | .safeLogRead p => Pkt.wf 0x0901 p
  | .safeChannels p => Pkt.wf 0x0902 p
  | .safeConfig p => Pkt.wf 0x0903 p
  | .safeRetire p => Pkt.wf 0x0904 p
  | .safeClear p => Pkt.wf 0x0905 p
  | .safeInject p => Pkt.wf 0x0906 p
  | .safeE2e p => Pkt.wf 0x0907 p
  | .safeEnter p => Pkt.wf 0x0908 p
  | .safeSelftest p => Pkt.wf 0x0909 p
  | .spareReady panel _ => decide (panel ≤ 33)
  | .scoreLeak => true
  | .selfTestDeadline type index => tested type index
  | .windowWatchdogLate unit => Watched.wf unit
  | .lockstepMismatch _ => true
  | .standbyTakeover _ => true
  | .supplyExcursion _ _ => true
  | .clockMonitorFault unit => ClockUnit.wf unit
  | .pwrQuery p => Pkt.wf 0x0B00 p
  | .pwrCap p => Pkt.wf 0x0B01 p
  | .pwrPolicy p => Pkt.wf 0x0B02 p
  | .pwrWake p => Pkt.wf 0x0B03 p
  | .pwrEnter p => Pkt.wf 0x0B04 p
  | .pwrEnterDeadline => true
  | .padsRelease p => Pkt.wf 0x0B05 p
  | .pwrPads p => Pkt.wf 0x0B06 p
  | .moorEntry => true
  | .dormantDelayExpiry => true
  | .i2c0AddressMatch address argument => decide (address ≤ 0x7F) && decide (argument.getD 0 ≤ 0xFF)
  | .pePerst0Deassert => true
  | .peWakeNSense => true
  | .governorTick _ _ => true
  | .thermalCapTick _ panels => panels.all fun e => e.1 < 34
  | .thermalTrip _ => true
  | .thermalTripRelease _ => true
  | .powerOnReset => true
  | .warmReset _ => true
  | .startStepComplete _ => true
  | .startStepLimit => true
  | .hostBootDescriptorPoll => true
  | .bootJournal p => Pkt.wf 0x0C00 p
  | .bootRetry p => Pkt.wf 0x0C01 p
  | .secCert p => Pkt.wf 0x0C02 p
  | .secAttest p => Pkt.wf 0x0C03 p
  | .secPair p => Pkt.wf 0x0C04 p
  | .secOwner p => Pkt.wf 0x0C05 p
  | .secConfig p => Pkt.wf 0x0C06 p
  | .secFloor p => Pkt.wf 0x0C07 p
  | .updStage p => Pkt.wf 0x0C08 p
  | .updActivate p => Pkt.wf 0x0C09 p
  | .updCancel p => Pkt.wf 0x0C0A p
  | .updQuery p => Pkt.wf 0x0C0B p
  | .updateStageComplete _ => true
  | .reelReaderCopyComplete => true
  | .busMasterEnableSet w => w.bar0 < 2 ^ 64 && w.bar2 < 2 ^ 64
  | .scratchpadScrubComplete panel => decide (panel ≤ 34)
  | .selfTestSliceComplete type index _ => tested type index
  | .i2sClockResume port => decide (port ≤ 1)
  | .outputPulseEnd channel camera => decide (channel.getD 0 ≤ 31) && decide (camera.getD 0 ≤ 11)
  | .powerStateMoveComplete => true
  | .bootRomStart bootSrc => decide (bootSrc ≤ 3)

end Sys2Proof
end

