-- ==== Sys2Proof/Tests/Slice0.lean ====
section
/-! SUPPORT. The model's own tests: an ill-formed term for each check of WellFormed.lean, worked examples of the spec, and for each
statement with hypotheses a state and operands that meet them. -/

set_option Elab.async false

namespace Sys2Proof.Machine

/-- A packet of context `c` on queue 0: opcode `op`, `len` units, tag 7, and parameter fields (offset, bytes, value). -/
def pk (c op len : Nat) (fs : List (Nat × Nat × Nat)) : Pkt :=
  { ctx := c, queue := 0, session := 0
    bytes := fs.foldl (fun b f => patch b f.1 (toLE f.2.1 f.2.2)) (fit (16 * len) (toLE 2 op ++ toLE 1 len ++ [0] ++ toLE 4 7 ++ toLE 2 c)) }

/-- Pages 1 to 16 of a test context, readable and writable, in frames from `f` on. -/
def testPages (f : Nat) : Tbl Leaf := (List.range 16).map fun i => (i + 1, { read := true, write := true, frame := f + i })

/-- A quota with room. -/
def testQuota : Quota :=
  { memory := 2 ^ 34, stateStore := 2 ^ 24, pages := 4096, idleStreams := 8, activeStreams := 8, panels := 8, gangs := 4, dma := 2
    shared := true, kite := true, cap := 100, legBudget := 1000, plans := 4 }

/-- A running device: the management context and tenant context 1 with 16 pages each, an exclusive gang 1 of context 1. -/
def live : State := { State.reset with
  ctxs := [(0, { state := .opened, pages := testPages 0x1000, queues := [(0, {})] }),
           (1, { state := .opened, pasid := 5, quota := testQuota, pages := testPages 0x1100, queues := [(0, {}), (1, {})] })]
  link.pasid := true
  link.mse := true
  link.bme := true
  power.state := .run
  boot.phase := .ready
  sched.gangs := [(0, {}), (1, { kind := 1, owner := 1, size := 1, panels := [0] })]
  sched.panels := [(0, { state := .inGang, gang := 1, powered := true })] }

/-- The packet passes the shared checks in the state and may act, no host-memory request is held, and the further conditions hold. -/
def meets (s : State) (p : Pkt) (f : State → Pkt → Bool) : Bool :=
  (cmdGate p s).isNone && !unitsOut p s && mayAct p s && !held s && f s p

/-- The hypotheses hold in the state. -/
def holdsIn (s : State) (f : State → Bool) : Bool := f s

/-! ### An ill-formed term for each check -/

/-- Pkt.wf: the opcode is the row's, the bytes are the length, the opcode accepts it, the context, the queue, the session. -/
theorem test_packet_wf :
    (Instr.devNop (pk 0 0 1 [])).wf = true ∧ (Instr.devNop (pk 0 1 1 [])).wf = false ∧
    (Instr.devNop { pk 0 0 1 [] with bytes := (pk 0 0 1 []).bytes ++ [0] }).wf = false ∧ (Instr.devInfo (pk 0 1 5 [])).wf = false ∧
    (Instr.devNop (pk 513 0 1 [])).wf = false ∧ (Instr.devNop { pk 0 0 1 [] with queue := 9 }).wf = false ∧
    (Instr.devNop { pk 0 0 1 [] with session := 1 }).wf = false := by decide +kernel

/-- Dgram.wf, the packet and session rows. -/
theorem test_session_wf :
    Dgram.wf { port := 2, ip := List.replicate 16 0, udp := 1, data := [] } = false ∧ Dgram.wf { port := 0, ip := [], udp := 1, data := [] } = false ∧
    Dgram.wf { port := 0, ip := List.replicate 16 0, udp := 65536, data := [] } = false ∧
    (Instr.packetFetch { pk 0 0 1 [] with queue := 8 } []).wf = false ∧ (Instr.packetFetch (pk 0 0 1 []) [pk 1 0 1 []]).wf = false ∧
    (Instr.packetFetch (pk 0 0 1 []) [{ pk 0 0 1 [] with queue := 1 }]).wf = false ∧
    (Instr.packetDispatch 513 0).wf = false ∧ (Instr.packetDispatch 0 (2 ^ 32)).wf = false ∧
    (Instr.dependencyTimeout 513 0).wf = false ∧ (Instr.dependencyTimeout 0 (2 ^ 32)).wf = false := by decide +kernel

/-- The cascade's rows. -/
theorem test_cascade_wf :
    (Instr.energyGateDecision 0x10000).wf = false ∧ (Instr.detectorDecision 0 0 [] 0 0).wf = false ∧
    (Instr.detectorDecision 4 0 [] 0 0).wf = false ∧ (Instr.detectorDecision 1 0x10000 [] 0 0).wf = false ∧
    (Instr.detectorDecision 1 0xFFFF [] 0 0).wf = true ∧ (Instr.detectorDecision 1 0 (List.replicate 19201 0) 0 0).wf = false ∧ (Instr.updraftWindowEnd 17).wf = false ∧ (Instr.warmUpComplete 17).wf = false ∧
    (Instr.armingComplete 17).wf = false ∧ (Instr.idleHoldEnd 17).wf = false ∧ (Instr.tierPowerDownComplete 17).wf = false ∧
    (Instr.reelReaderSupply 17).wf = false ∧ (Instr.aonGpioEdge 8 true).wf = false := by decide +kernel

/-- The host attachment's rows. -/
theorem test_host_wf :
    (Instr.registerWrite 0x02000000 4 0).wf = false ∧ (Instr.dbSqWrite 513 0 0).wf = false ∧ (Instr.dbSqWrite 0 8 0).wf = false ∧
    (Instr.dbSrWrite 513 0).wf = false ∧ (Instr.bar2Read 0 0).wf = false ∧ (Instr.bar2Read 0x3FFFFFFF 2).wf = false ∧
    (Instr.bar2Write 0 []).wf = false ∧ (Instr.bar2Write 0x3FFFFFFF [0, 0]).wf = false ∧ (Instr.msixEntryUnmask (some 1024)).wf = false ∧
    (Instr.atsInvalidation 513 0).wf = false ∧ (Instr.hostReadFailure 513 .ur (.leg 0)).wf = false ∧
    (Instr.hostReadFailure 0 .ur (.leg 17)).wf = false := by decide

/-- The rows of contexts, legs and memory. -/
theorem test_leg_wf :
    (Instr.ctxCloseGraceEnd 513).wf = false ∧ (Instr.ripcordScrubComplete 513).wf = false ∧ (Instr.legAccessFault 513 none none none).wf = false ∧
    (Instr.legAccessFault 0 (some 17) none none).wf = false ∧ (Instr.legAccessFault 0 none (some 32) none).wf = false ∧
    (Instr.legAccessFault 0 none none (some (2 ^ 32))).wf = false ∧
    (Instr.legEnd { gang := 17, errs := [], fail := .none, writes := [], notes := 0, stats := [], cells := [], emptyRows := [], unchecked := [], elapsed := 0 }).wf = false ∧
    (Instr.prefetchComplete 17 0).wf = false ∧ (Instr.stallLimitExpiry 17).wf = false ∧ (Instr.legLateLimit 17).wf = false ∧
    (Instr.pageReclaim 1048576).wf = false ∧ (Instr.stripeGroupStart 17 0 []).wf = false ∧ (Instr.pipelineStageStep 17 0).wf = false ∧
    (Instr.dmaTransferComplete 31 .ok).wf = false ∧ (Instr.patrolScrub (2 ^ 36)).wf = false ∧ (Instr.scratchpadScrubComplete 35).wf = false := by decide

/-- The rows of cameras and audio. -/
theorem test_camera_wf :
    (Instr.csiFrameStart 12 0 .good).wf = false ∧ (Instr.csiFrameStart 0 4 .good).wf = false ∧
    (Instr.csiLine { port := 12, vc := 0, dt := 0, ecc := .good, payload := [], crcOk := true, pixels := 0, gap := 0 }).wf = false ∧
    (Instr.csiLine { port := 0, vc := 4, dt := 0, ecc := .good, payload := [], crcOk := true, pixels := 0, gap := 0 }).wf = false ∧
    (Instr.csiLine { port := 0, vc := 0, dt := 64, ecc := .good, payload := [], crcOk := true, pixels := 0, gap := 0 }).wf = false ∧
    (Instr.csiFrameEnd 12 0 .good).wf = false ∧ (Instr.csiFrameEnd 0 4 .good).wf = false ∧ (Instr.slotComplete 12).wf = false ∧
    (Instr.frameIntervalTimeout 12).wf = false ∧ (Instr.mutedFrameTimer 12).wf = false ∧ (Instr.playbackBlockFetch 2).wf = false ∧
    (Instr.i2sClockLoss 2).wf = false ∧ (Instr.i2sClockResume 2).wf = false := by decide

/-- The rows of time and network. -/
theorem test_network_wf :
    (Instr.eventTriggerFire 32).wf = false ∧ (Instr.eventCaptureEdge 32 true 0).wf = false ∧
    (Instr.gptpSync { domain := 2, port := 0, domainTime := 0, interval := 0, receiptTimeout := 0 }).wf = false ∧
    (Instr.gptpSync { domain := 0, port := 2, domainTime := 0, interval := 0, receiptTimeout := 0 }).wf = false ∧
    (Instr.gptpAnnounce 2 0 { identity := 0, vector := 0 } 0).wf = false ∧ (Instr.gptpAnnounce 0 2 { identity := 0, vector := 0 } 0).wf = false ∧
    (Instr.gptpPdelay 2 (.measured 0)).wf = false ∧
    (Instr.syncReceiptTimeout 2).wf = false ∧ (Instr.outputPulseEnd (some 32) none).wf = false ∧ (Instr.outputPulseEnd none (some 12)).wf = false ∧
    (Instr.ethFrameReceive { port := 2, kind := .udp, dst := [], tag := none, length := 0, srcIp := [], srcUdp := 0, dstIp := [], dstUdp := 0, payload := [], time := 0 }).wf = false ∧
    (Instr.ethFrameDepart 2 0).wf = false ∧ (Instr.ethLinkChange 2 true).wf = false ∧
    (Instr.neighborResolutionTimeout 2 (List.replicate 16 0)).wf = false ∧ (Instr.neighborResolutionTimeout 0 []).wf = false := by decide

/-- A Gweug message of type `type`. -/
def gwMsg (type : Nat) : GwMsg := { peer := 0, session := 0, type := type, counter := 0, authentic := true, data := [] }

/-- The rows of Gweug, safety, power and start-up. -/
theorem test_safety_wf :
    (Instr.gwHandshakeMessage (gwMsg 1)).wf = false ∧ (Instr.gwHandshakeMessage (gwMsg 5)).wf = false ∧ (Instr.gwOffer (gwMsg 8)).wf = false ∧
    (Instr.gwAnswer (gwMsg 7)).wf = false ∧ (Instr.gwData (gwMsg 2)).wf = false ∧ (Instr.gwAck (gwMsg 6)).wf = false ∧
    (Instr.gwClose (gwMsg 5)).wf = false ∧ (Instr.spareReady 34 true).wf = false ∧ (Instr.selfTestDeadline 1 34).wf = false ∧
    (Instr.selfTestDeadline 2 1).wf = false ∧ (Instr.selfTestSliceComplete 3 0 true).wf = false ∧
    (Instr.windowWatchdogLate (.camera 12)).wf = false ∧ (Instr.windowWatchdogLate (.tail 34)).wf = false ∧
    (Instr.windowWatchdogLate (.dmaEarly 31)).wf = false ∧ (Instr.windowWatchdogLate (.ethernet 2)).wf = false ∧
    (Instr.windowWatchdogLate (.audio 8)).wf = false ∧
    (Instr.clockMonitorFault (.panel 34)).wf = false ∧ (Instr.clockMonitorFault (.camera 12)).wf = false ∧
    (Instr.i2c0AddressMatch 0x80 none).wf = false ∧ (Instr.i2c0AddressMatch 0 (some 256)).wf = false ∧ (Instr.bootRomStart 4).wf = false := by decide

/-! ### Worked examples of the spec -/

/-- R17: the first tick adds 30,517 ns, and ticks add 30,517 or 30,518 ns. -/
theorem test_tick_first : tickNs 0 = 30517 ∧ tickNs 1 = 30518 := by decide

/-- R287: data byte 1,000 of a channel lies in its second block, and its word is number 30 there. -/
theorem test_inline_check : inlineByte 1000 = 1064 ∧ inlineCheck 1000 = 1148 := by decide

/-- The example under R294: d0 = 1 at 0x10_0000_0040 has tag 0x14 and stores C = 0xFA and P = 0. -/
theorem test_word_code : wordTag 0x100000004 = 0x14 ∧ wordEnc 1 0x100000004 = 1 + 0x14 * 2 ^ 128 + 0xFA * 2 ^ 135 := by decide +kernel

/-- The example under R294: read back from 0x10_0000_0050, the word is an address error; word 0 is never accepted. -/
theorem test_word_address : wordDec (wordEnc 1 0x100000004) 0x100000005 = .address ∧ wordTag 0x100000005 = 0x15 ∧ wordDec 0 0 = .uncorrectable := by
  decide +kernel

/-- The example under R84: with 128 entries, the entry of index 130 carries PHASE 0 and that of index 2 PHASE 1. -/
theorem test_phase : phaseOf 130 7 = false ∧ phaseOf 2 7 = true := by decide

/-- The example under R367: when now is 0xFFFF_FFF0_0000 and c is 0x0000_0010_0000, d is 0x20_0000. -/
theorem test_wrap : diff48 0x100000 0xFFFFFFF00000 = 0x200000 := by decide

/-- The example under R198: 16 slices on 7 panels of 8 at 1,200 MHz, budget 400 µs and minimum 100 µs. -/
theorem test_scaled :
    holdsIn { live with sched.gangs := [(1, { kind := 1, size := 8, panels := [0, 1, 2, 3, 4, 5, 6], point := 4 })] } (fun s =>
      scaledNs s 1 (fit 64 [1, 0, 16]) 400 == 750000 && scaledNs s 1 (fit 64 [1, 0, 16]) 100 == 187500) = true := by decide +kernel

/-- The example under R150 of storage formats: a row of 4,096 Bell4 weights takes 2,048 bytes of codes and 128 bytes of E8M0 scales. -/
theorem test_row_bytes : rowBytes 4096 (codeBits 0x30) = 2048 := by decide

/-- The code table of Bell4 (R145). -/
theorem test_bell4 : decodeVal 0x30 7 = .fin false 128 (-7) ∧ decodeVal 0x30 9 = .fin true 11 (-7) := by decide +kernel

/-- A dense layer of Mooring on one block (R159, R205): 40 weights of 1, bias −2, multiplier 1.0; the codes 5, 0, 0, … give 5 − 2 = 3. -/
def denseModel : List Byte :=
  ([(3, 1, 1), (8, 1, 0), (9, 1, 1), (10, 1, 1), (64, 1, 1), (68, 1, 0x10), (70, 2, 40), (72, 2, 1), (76, 4, 128), (80, 4, 168), (84, 4, 172),
    (168, 4, 0xFFFFFFFE), (172, 4, 0x3F800000)] : List (Nat × Nat × Nat)).foldl
    (fun b f => patch b f.1 (toLE f.2.1 f.2.2)) (List.replicate 128 0 ++ List.replicate 40 1 ++ List.replicate 8 0)

/-- The model's output, and the score round(65,536 σ(x)) of an output 0 and of an output 3 (σ(3) = 0.952574, R203). -/
theorem test_mooring :
    moorRun [] denseModel (5 :: List.replicate 39 0) = [3] ∧ moorScore 0 = 32768 ∧ moorScore 3 = 62428 := by decide +kernel

/-- R460: the package has 346 signal balls. -/
theorem test_signal_balls : signalBalls.length = 346 := by decide +kernel

/-- R463: a rail at its range's end is in range, and 1 mV below it is an excursion that is not below half. -/
theorem test_rail_monitor :
    monitorRail .soc (railRange .soc).2.1 = none ∧ monitorRail .soc ((railRange .soc).2.1 - 1) = some false := by decide

/-- At reset nothing has left the device and no command waits (log 2). -/
theorem test_reset_idle : State.reset.out = [] ∧ State.reset.pending = [] := by decide

/-- A step runs the command in front, and a step on an empty queue is one tick (log 1). -/
theorem test_step_order :
    holdsIn { live with pending := [.bar0UnsupportedAccess true] } (fun s => match step s with | .next t => t.pending == [] && t.time.ticks == 0 | _ => false) = true ∧
    holdsIn live (fun s => match step s with | .next t => t.time.ticks == 1 | _ => false) = true := by decide +kernel

/-- A row without an opcode-table encoding: no word spells a command. -/
theorem test_no_words : decodeTableWord 16 0 = none ∧ State.reset.withFetchWord 16 0 = State.reset := ⟨rfl, rfl⟩

/-! ### States and operands that meet the statements' hypotheses -/

/-- live with a quota record at 0x10000 of context 0. -/
def quotaState : State := { live with store.mem := memWrite [] 0x10000000 (patch (List.replicate 64 0) 24 [1, 0, 0, 1, 1, 0, 0, 0, 1, 0, 0, 0, 1]) }

/-- live with one layer of width 16 and one vector in the layer table at 0x10000 of context 1. -/
def strmLayState : State := { live with store.mem := memWrite [] 0x11000000 [16, 0, 1, 0] }

/-- live with a low-power record of one microphone. -/
def lpState : State := { live with store.mem := memWrite [] 0x10000000 [1] }

/-- live with a port record of MTU 1,500. -/
def portState : State := { live with store.mem := memWrite [] 0x10000002 [0xDC, 5] }

/-- live with a fleet member 4,095, an own index, and a parcel header of 12 bytes. -/
def gwState : State := { live with
  net.own := some 0
  net.fleet := [(4095, patch (List.replicate 160 0) 133 [1])]
  store.mem := memWrite [] 0x11000000 [0x50, 0x52, 0x50, 0x33, 0, 1, 1, 0, 12] }

/-- live with a safety configuration record of the smallest settings. -/
def safeCfgState : State := { live with store.mem := memWrite [] 0x10000000 [10, 0, 1, 16] }

/-- A container of 512 bytes: one object, one leg of one INT8 product stored as FP32, ending its step (R178-R181). -/
def testPlan : List Byte :=
  ([(0, 4, 0x33595046), (4, 2, 0x0100), (7, 1, 1), (8, 4, 512), (12, 2, 1), (14, 2, 1), (20, 2, 0xFFFF), (24, 4, 128), (28, 4, 160), (32, 4, 176),
    (128, 8, 0x10000), (136, 8, 65536), (144, 1, 4), (145, 1, 3), (160, 4, 176),
    (176, 1, 1), (178, 2, 1), (180, 4, 10), (188, 4, 1), (192, 4, 4096), (201, 1, 3),
    (241, 1, 0x10), (242, 1, 0x10), (243, 1, 1), (248, 4, 1), (252, 4, 1), (256, 4, 1), (260, 2, 0xFFFF),
    (288, 2, 0xFFFF), (300, 4, 16), (304, 2, 0xFFFF), (316, 4, 32), (320, 2, 0xFFFF), (328, 2, 0xFFFF), (336, 2, 0xFFFF), (344, 2, 0xFFFF),
    (352, 4, 16), (356, 4, 16), (360, 2, 0x010A)] : List (Nat × Nat × Nat)).foldl
    (fun b f => patch b f.1 (toLE f.2.1 f.2.2)) (List.replicate 512 0)

/-- live with testPlan at 0x10000 of context 1. -/
def planState : State := { live with store.mem := memWrite [] 0x11000000 testPlan }

/-- Each command of DeviceCommandsComplete passes its checks in some state. -/
theorem witness_DeviceCommandsComplete :
    meets live (pk 1 0x0000 1 []) (fun _ _ => true) = true ∧
    meets live (pk 1 0x0001 2 [(16, 8, 0x10000)]) (fun s p => (chkDevInfo p s).isNone) = true ∧
    meets live (pk 1 0x0002 2 [(16, 2, 1), (18, 1, 1)]) (fun s p => (chkDevStats p s).isNone) = true ∧
    meets live (pk 1 0x0003 2 [(16, 2, 1), (18, 2, 64), (24, 8, 0x10000)]) (fun s p => (chkDevRejectLog p s).isNone) = true ∧
    meets live (pk 0 0x0004 2 [(16, 1, 1), (20, 4, 0x2710)]) (fun s p => (chkDevReset p s).isNone && !(s.cmd.stopped)) = true ∧
    meets { live with stolp.keys := [{ keyId := 9 }] } (pk 0 0x0006 2 [(16, 8, 9)]) (fun s p => (chkDevKeyRevoke p s).isNone) = true ∧
    meets live (pk 0 0x0007 2 [(16, 8, 0x10000)]) (fun s p => (chkList512 p s).isNone) = true ∧
    meets live (pk 0 0x0008 2 [(16, 2, 0x400), (18, 1, 3), (19, 1, 16), (20, 2, 0x258), (22, 2, 0x3e8)]) (fun s p => (chkDevNetConfig p s).isNone) = true ∧
    meets live (pk 0 0x0009 2 [(16, 8, 0x10000)]) (fun s p => (chkList512 p s).isNone) = true ∧
    meets { live with stolp.sessions := [(5, {})] } (pk 0 0x000A 2 [(16, 4, 5)]) (fun s p => (chkDevSessionClose p s).isNone) = true := by
  refine ⟨?_, ?_, ?_, ?_, ?_, ?_, ?_, ?_, ?_, ?_⟩ <;> decide +kernel

/-- Each command of CascadeCommandsComplete passes its checks in some state. -/
theorem witness_CascadeCommandsComplete :
    meets live (pk 0 0x0A00 1 []) (fun _ _ => true) = true ∧
    meets live (pk 0 0x0A01 2 [(16, 1, 1), (17, 1, 1), (18, 1, 4), (20, 2, 1), (24, 2, 50), (26, 2, 0x1f40)]) (fun s p => (chkCascSetSource p s).isNone) = true ∧
    meets { live with sched.plans := [(2, { ctx := 1, engine := 1, gangSize := 1, cascIn := 0, objs := [{ size := 65536 }] })] } (pk 0 0x0A02 2 [(16, 1, 1), (17, 1, 1), (18, 2, 1), (20, 4, 0x10002), (24, 1, 0), (25, 1, 3)]) (fun s p => (chkCascBind p s).isNone) = true ∧
    meets live (pk 0 0x0A03 2 [(16, 4, 100), (20, 4, 0x927c0), (24, 2, 100), (26, 1, 50)]) (fun s p => (chkCascSetHold p s).isNone) = true ∧
    meets live (pk 0 0x0A04 2 [(16, 1, 2)]) (fun s p => (chkTier p s).isNone) = true ∧
    meets live (pk 0 0x0A05 2 [(16, 1, 1)]) (fun s p => (chkTier p s).isNone) = true ∧
    meets { live with casc.liftLog := [{ seq := 1 }] } (pk 0 0x0A06 2 [(16, 8, 0x10000), (28, 4, 64)]) (fun s p => (chkCascReadLog p s).isNone) = true ∧
    meets live (pk 0 0x0A07 3 [(16, 8, 0x10000), (32, 4, 1)]) (fun s p => (chkCascReadReel p s).isNone) = true ∧
    meets live (pk 0 0x0A08 2 []) (fun _ _ => true) = true ∧
    meets live (pk 0 0x0A09 2 [(16, 8, 5)]) (fun _ _ => true) = true := by
  refine ⟨?_, ?_, ?_, ?_, ?_, ?_, ?_, ?_, ?_, ?_⟩ <;> decide +kernel

/-- Each command of ContextAndGangCommandsComplete passes its checks in some state. -/
theorem witness_ContextAndGangCommandsComplete :
    meets quotaState (pk 0 0x0100 4 [(16, 2, 0x200), (20, 4, 9), (24, 8, 0x1000), (32, 8, 0x1000), (40, 1, 7), (41, 1, 16), (42, 1, 3), (43, 1, 3), (48, 8, 0x10000)]) (fun s p => (chkCtxOpen p s).isNone) = true ∧
    meets live (pk 0 0x0101 2 [(16, 2, 1), (18, 1, 1), (20, 4, 0x2710)]) (fun s p => (chkCtxClose p s).isNone) = true ∧
    meets live (pk 1 0x0102 2 [(16, 2, 1)]) (fun s p => (chkCtxQuery p s).isNone) = true ∧
    meets quotaState (pk 0 0x0103 2 [(16, 2, 1), (24, 8, 0x10000)]) (fun s p => (chkCtxSetQuota p s).isNone) = true ∧
    meets live (pk 1 0x0104 4 [(16, 2, 1)]) (fun s p => (chkCtxSeal p s).isNone && !(mgmtTouches s (fld p 16 2))) = true ∧
    meets { live with store.moves := [{ obj := 1, running := true, pkts := [pk 0 0x0205 2 []] }], store.objs := [(1, { ctx := 1 })] } (pk 1 0x0104 4 [(16, 2, 1)]) (fun s p => (chkCtxSeal p s).isNone && (mgmtTouches s (fld p 16 2))) = true ∧
    meets live (pk 1 0x0105 2 [(16, 2, 1), (18, 1, 7), (19, 1, 3), (20, 1, 16), (24, 8, 0x1000)]) (fun s p => (chkCtxQueueCreate p s).isNone) = true ∧
    meets live (pk 1 0x0106 2 [(16, 2, 1), (18, 1, 1)]) (fun s p => (chkCtxQueueDestroy p s).isNone) = true ∧
    meets live (pk 0 0x0107 2 [(16, 1, 16), (17, 1, 8), (18, 1, 0), (20, 2, 0)]) (fun s p => (chkGangCreate p s).isNone) = true ∧
    meets live (pk 0 0x0108 2 [(16, 1, 1)]) (fun s p => (chkGangDestroy p s).isNone) = true ∧
    meets live (pk 0 0x0109 2 [(16, 1, 0)]) (fun s p => (chkGangQuery p s).isNone && decide (fld p 16 1 = 0)) = true ∧
    meets live (pk 0 0x0109 2 [(16, 1, 1)]) (fun s p => (chkGangQuery p s).isNone && decide (fld p 16 1 ≠ 0)) = true ∧
    meets live (pk 1 0x010A 2 [(16, 2, 1), (18, 2, 0x100), (24, 8, 0x10000)]) (fun s p => (chkCtxLeases p s).isNone) = true ∧
    meets live (pk 1 0x010B 2 [(16, 2, 1), (24, 8, 0xffffffffffff)]) (fun s p => (chkCtxXlate p s).isNone) = true := by
  refine ⟨?_, ?_, ?_, ?_, ?_, ?_, ?_, ?_, ?_, ?_, ?_, ?_, ?_, ?_⟩ <;> decide +kernel

/-- Each command of MemoryCommandsComplete passes its checks in some state. -/
theorem witness_MemoryCommandsComplete :
    meets { live with store.objs := [(1, { ctx := 1, va := 0x10000 })] } (pk 1 0x0201 2 [(16, 4, 0x10001)]) (fun s p => (chkMemFree p s).isNone) = true ∧
    meets { live with store.objs := [(1, { ctx := 1, va := 0x10000, mstate := 1 })], store.moves := [{ obj := 1, target := 1, running := true }] } (pk 1 0x0201 2 [(16, 4, 0x10001)]) (fun s p => (chkMemFree p s).isNone) = true ∧
    meets live (pk 1 0x0202 3 [(16, 8, 0x200000), (24, 8, 0x10000), (32, 8, 0x10000), (40, 1, 1)]) (fun s p => (chkMemMapHost p s).isNone) = true ∧
    meets { live with store.objs := [(1, { ctx := 1, va := 0x10000 })] } (pk 1 0x0203 2 [(16, 4, 0x10001), (20, 1, 3)]) (fun s p => (chkMemProtect p s).isNone) = true ∧
    meets live (pk 1 0x0204 4 [(16, 8, 0x10000), (24, 8, 0x20000), (32, 8, 16)]) (fun s p => (chkMemCopy p s).isNone && (freeDma (pinDma p true s)).isSome) = true ∧
    meets { live with store.objs := [(1, { ctx := 1, va := 0x10000 })] } (pk 1 0x0205 2 [(16, 4, 0x10001), (20, 1, 3)]) (fun s p => (chkMemPlace p s).isNone && (moveOf s (pObjK p s)).isNone) = true ∧
    meets { live with store.objs := [(1, { ctx := 1, va := 0x10000, mstate := 1 })], store.moves := [{ obj := 1, target := 1, running := true, pkts := [] }] } (pk 1 0x0205 2 [(16, 4, 0x10001), (20, 1, 1)]) (fun s p => (chkMemPlace p s).isNone && ((moveOf s (pObjK p s)).map fun x => x.pkts.isEmpty) == some true && (pObjD p s).mstate == 1 && (engineObj s == some (pObjK p s) || s.store.cold.any fun c => c.obj == some (pObjK p s))) = true ∧
    meets { live with store.objs := [(1, { ctx := 1, va := 0x10000, mstate := 1 })], store.moves := [{ obj := 1, target := 1 }] } (pk 1 0x0205 2 [(16, 4, 0x10001), (20, 1, 0)]) (fun s p => (chkMemPlace p s).isNone && ((moveOf s (pObjK p s)).map fun x => x.pkts.isEmpty) == some true && (pObjD p s).mstate == 1 && !(engineObj s == some (pObjK p s) || s.store.cold.any fun c => c.obj == some (pObjK p s))) = true ∧
    meets { live with store.objs := [(1, { ctx := 1, va := 0x10000, mstate := 1 })], store.moves := [{ obj := 1, target := 1, running := true, pkts := [pk 1 0x0205 2 []] }] } (pk 1 0x0205 2 [(16, 4, 0x10001), (20, 1, 0)]) (fun s p => (chkMemPlace p s).isNone && ((moveOf s (pObjK p s)).map fun x => !x.pkts.isEmpty && !joinsMove (pObjD p s) x (fld p 20 1)) == some true) = true ∧
    meets { live with store.objs := [(1, { ctx := 1, va := 0x10000, mstate := 1 })], store.moves := [{ obj := 1, target := 1, running := true, pkts := [pk 1 0x0205 2 []] }] } (pk 1 0x0205 2 [(16, 4, 0x10001), (20, 1, 1)]) (fun s p => (chkMemPlace p s).isNone && ((moveOf s (pObjK p s)).map fun x => !x.pkts.isEmpty && joinsMove (pObjD p s) x (fld p 20 1)) == some true) = true ∧
    meets { live with store.objs := [(1, { ctx := 1, va := 0x10000 })] } (pk 1 0x0206 2 [(16, 4, 0x10001)]) (fun s p => (chkMemPin p s).isNone) = true ∧
    meets { live with store.objs := [(1, { ctx := 1, va := 0x10000 })] } (pk 1 0x0207 2 [(16, 4, 0x10001)]) (fun s p => (firstFails [objChk p s]).isNone) = true ∧
    meets live (pk 0 0x0208 2 [(16, 8, 0x10000)]) (fun s p => (chkMemChannels p s).isNone) = true ∧
    meets live (pk 0 0x0209 2 [(16, 1, 15)]) (fun s p => (chkMemChannelRetire p s).isNone) = true := by
  refine ⟨?_, ?_, ?_, ?_, ?_, ?_, ?_, ?_, ?_, ?_, ?_, ?_, ?_, ?_⟩ <;> decide +kernel

/-- Each command of PlanCommandsComplete passes its checks in some state. -/
theorem witness_PlanCommandsComplete :
    meets planState (pk 1 0x0300 2 [(16, 8, 0x10000), (24, 4, 0x200)]) (fun s p => (contWord p s (fld p 16 8) (fld p 24 4) 16 (firstFails (contFields p s (fld p 16 8) (fld p 24 4) 16 24))).isNone && (contCheck s p.ctx (vread s p.ctx (fld p 16 8) (fld p 24 4)) none).isNone) = true ∧
    meets live (pk 1 0x0300 2 [(16, 8, 0x10000), (24, 4, 0x200)]) (fun s p => (contWord p s (fld p 16 8) (fld p 24 4) 16 (firstFails (contFields p s (fld p 16 8) (fld p 24 4) 16 24))).isNone && ((contCheck s p.ctx (vread s p.ctx (fld p 16 8) (fld p 24 4)) none).map fun f => decide (f.1 ≠ .ok)) == some true) = true ∧
    meets { live with sched.plans := [(2, { ctx := 1, legs := [[]] })] } (pk 1 0x0301 2 [(16, 4, 0x10002)]) (fun s p => (chkPlanUnload p s).isNone) = true ∧
    meets { live with sched.plans := [(2, { ctx := 1, legs := [[]] })] } (pk 1 0x0302 2 [(16, 4, 0x10002)]) (fun s p => (firstFails [planChk p s]).isNone) = true ∧
    meets { live with sched.plans := [(2, { ctx := 1, legs := [[]] })] } (pk 1 0x0303 3 [(16, 4, 0x10002), (20, 1, 1), (24, 4, 0)]) (fun s p => (chkPlanRun p s).isNone) = true ∧
    meets { live with sched.plans := [(2, { ctx := 1, legs := [[]] })], sched.runs := [(1, { kind := .packet (pk 1 0x0303 4 [(4, 4, 8)]), ctx := 1, plan := 2 + 65536, gang := 1, ring := some { addr := 0x10000, itemSize := 64, items := 4 } })] } (pk 1 0x0304 2 [(16, 4, 8)]) (fun s p => (firstFails [runChk p s]).isNone) = true ∧
    meets { live with sched.plans := [(2, { ctx := 1, legs := [[]] })], sched.runs := [(1, { kind := .packet (pk 1 0x0303 4 [(4, 4, 8)]), ctx := 1, plan := 2 + 65536, gang := 1, ring := some { addr := 0x10000, itemSize := 64, items := 4 } })] } (pk 1 0x0305 2 [(16, 4, 8), (20, 4, 4)]) (fun s p => (chkPlanFeed p s).isNone) = true ∧
    meets { live with sched.plans := [(2, { ctx := 1, legs := [[]] })], net.evs := [(31, { owner := 1 })] } (pk 1 0x0306 2 [(16, 4, 0x10002), (20, 1, 1), (21, 1, 31), (22, 1, 1), (23, 1, 3)]) (fun s p => (chkPlanBindEvent p s).isNone) = true ∧
    meets { live with sched.binds := [(64, { ctx := 1 })] } (pk 1 0x0307 2 [(16, 1, 64)]) (fun s p => (chkPlanUnbind p s).isNone) = true ∧
    meets live (pk 1 0x0308 2 [(16, 1, 1)]) (fun s p => (chkGangStats p s).isNone) = true ∧
    meets live (pk 0 0x0309 2 [(16, 8, 0x10000)]) (fun s p => (chkPanelQuery p s).isNone) = true ∧
    meets { planState with sched.plans := [(2, { ctx := 1 })] } (pk 1 0x030A 3 [(16, 4, 0x10002), (20, 4, 0x200), (24, 8, 0x10000)]) (fun s p => (contWord p s (fld p 24 8) (fld p 20 4) 24 (firstFails (planChk p s :: contFields p s (fld p 24 8) (fld p 20 4) 24 20))).isNone && (contCheck s p.ctx (vread s p.ctx (fld p 24 8) (fld p 20 4)) (some (pPlanD p s))).isNone) = true ∧
    meets live (pk 0 0x030B 2 [(28, 1, 2)]) (fun s p => (chkMoorLoad p s).isNone) = true ∧
    meets live (pk 0 0x030C 2 []) (fun _ _ => true) = true := by
  refine ⟨?_, ?_, ?_, ?_, ?_, ?_, ?_, ?_, ?_, ?_, ?_, ?_, ?_, ?_⟩ <;> decide +kernel

/-- Each command of AttentionPoolCommandsComplete passes its checks in some state. -/
theorem witness_AttentionPoolCommandsComplete :
    meets { live with models.pools := [(255, { ctx := 1, layers := 2 })] } (pk 1 0x0401 2 [(16, 1, 255)]) (fun s p => (chkKvPoolDestroy p s).isNone) = true ∧
    meets { live with models.pools := [(255, { ctx := 1, layers := 2 })] } (pk 1 0x0402 2 [(16, 1, 255)]) (fun s p => (chkKvSeqCreate p s).isNone) = true ∧
    meets { live with models.pools := [(255, { ctx := 1, layers := 2 })], models.seqs := [(3, { pool := 255, ctx := 1, len := 70, tables := [[0, 1], [2, 3]] })] } (pk 1 0x0403 2 [(16, 4, 0x10003), (20, 4, 70)]) (fun s p => ((pSeq p s).map fun e => e.2.claimed.isNone) == some true && (chkKvFork p s).isNone) = true ∧
    meets { live with models.pools := [(255, { ctx := 1, layers := 2 })], models.seqs := [(3, { pool := 255, ctx := 1, len := 70, tables := [[0, 1], [2, 3]], claimed := some 1 })] } (pk 1 0x0403 2 [(16, 4, 0x10003), (20, 4, 70)]) (fun s p => ((pSeq p s).map fun e => e.2.claimed.isSome && (firstFails ([seqChk p s] ++ ([[(decide (64 ≤ kvQueued s e.2.pool), .eBusy, 0xFFFF)]] : List (List (Bool × Code × Nat))))).isNone) == some true) = true ∧
    meets { live with models.pools := [(255, { ctx := 1, layers := 2 })], models.seqs := [(3, { pool := 255, ctx := 1, len := 70, tables := [[0, 1], [2, 3]] })] } (pk 1 0x0404 2 [(16, 4, 0x10003), (20, 4, 70)]) (fun s p => ((pSeq p s).map fun e => e.2.claimed.isNone) == some true && (chkKvTruncate p s).isNone) = true ∧
    meets { live with models.pools := [(255, { ctx := 1, layers := 2 })], models.seqs := [(3, { pool := 255, ctx := 1, len := 70, tables := [[0, 1], [2, 3]], claimed := some 1 })] } (pk 1 0x0404 2 [(16, 4, 0x10003), (20, 4, 70)]) (fun s p => ((pSeq p s).map fun e => e.2.claimed.isSome && (firstFails ([seqChk p s] ++ ([[(decide (64 ≤ kvQueued s e.2.pool), .eBusy, 0xFFFF)]] : List (List (Bool × Code × Nat))))).isNone) == some true) = true ∧
    meets { live with models.pools := [(255, { ctx := 1, layers := 2 })], models.seqs := [(3, { pool := 255, ctx := 1, len := 70, tables := [[0, 1], [2, 3]] })] } (pk 1 0x0405 2 [(16, 4, 0x10003)]) (fun s p => ((pSeq p s).map fun e => e.2.claimed.isNone) == some true && (chkKvFree p s).isNone) = true ∧
    meets { live with models.pools := [(255, { ctx := 1, layers := 2 })], models.seqs := [(3, { pool := 255, ctx := 1, len := 70, tables := [[0, 1], [2, 3]], claimed := some 1 })] } (pk 1 0x0405 2 [(16, 4, 0x10003)]) (fun s p => ((pSeq p s).map fun e => e.2.claimed.isSome && (firstFails ([seqChk p s] ++ ([[(decide (64 ≤ kvQueued s e.2.pool), .eBusy, 0xFFFF)]] : List (List (Bool × Code × Nat))))).isNone) == some true) = true ∧
    meets { live with models.pools := [(255, { ctx := 1, layers := 2 })], models.seqs := [(3, { pool := 255, ctx := 1, len := 70, tables := [[0, 1], [2, 3]] })] } (pk 1 0x0406 2 [(16, 4, 0x10003), (20, 1, 1), (24, 8, 0x10000)]) (fun s p => (chkKvSeqQuery p s).isNone) = true ∧
    meets live (pk 1 0x0407 2 [(16, 4, 0xfffff)]) (fun s p => (chkKvPageQuery p s).isNone && (tget s.models.kvPages (fld p 16 4)).isNone) = true ∧
    meets { live with models.pools := [(255, { ctx := 1, layers := 2 })], models.kvPages := [(1048575, { pool := 255 })] } (pk 1 0x0407 2 [(16, 4, 0xfffff)]) (fun s p => (chkKvPageQuery p s).isNone && (tget s.models.kvPages (fld p 16 4)).isSome) = true ∧
    meets { live with models.pools := [(255, { ctx := 1, layers := 2 })], models.seqs := [(3, { pool := 255, ctx := 1, len := 70, tables := [[0, 1], [2, 3]] })] } (pk 1 0x0408 3 [(16, 4, 0x10003), (20, 1, 1), (24, 4, 69), (28, 4, 1), (32, 8, 0x10000)]) (fun s p => ((pSeq p s).map fun e => e.2.claimed.isNone) == some true && (chkKvRead p s).isNone) = true ∧
    meets { live with models.pools := [(255, { ctx := 1, layers := 2 })], models.seqs := [(3, { pool := 255, ctx := 1, len := 70, tables := [[0, 1], [2, 3]], claimed := some 1 })] } (pk 1 0x0408 3 [(16, 4, 0x10003), (20, 1, 1), (24, 4, 69), (28, 4, 1), (32, 8, 0x10000)]) (fun s p => ((pSeq p s).map fun e => e.2.claimed.isSome && (firstFails (readStatic p s ++ ([[(decide (64 ≤ kvQueued s e.2.pool), .eBusy, 0xFFFF)]] : List (List (Bool × Code × Nat))))).isNone) == some true) = true ∧
    meets { live with sched.plans := [(2, { ctx := 1, legs := [[]] })], sched.runs := [(1, { kind := .packet (pk 1 0x0303 4 [(4, 4, 8)]), ctx := 1, plan := 2 + 65536, gang := 1, ring := some { addr := 0x10000, itemSize := 64, items := 4 } })] } (pk 1 0x0409 2 [(16, 4, 8)]) (fun s p => (chkKvWait p s).isNone && ((runByTag s p.ctx (fld p 16 4)).map fun e => decide (fld p 20 4 ≤ headOf e.2)) == some true) = true ∧
    meets { live with sched.plans := [(2, { ctx := 1, legs := [[]] })], sched.runs := [(1, { kind := .packet (pk 1 0x0303 4 [(4, 4, 8)]), ctx := 1, plan := 2 + 65536, gang := 1, ring := some { addr := 0x10000, itemSize := 64, items := 4 } })] } (pk 1 0x0409 2 [(16, 4, 8), (20, 4, 9)]) (fun s p => (chkKvWait p s).isNone && ((runByTag s p.ctx (fld p 16 4)).map fun e => decide (headOf e.2 < fld p 20 4)) == some true) = true ∧
    meets { live with models.pools := [(255, { ctx := 1, layers := 2 })] } (pk 1 0x040A 2 [(16, 1, 255)]) (fun s p => (chkKvPoolQuery p s).isNone) = true ∧
    meets { live with models.pools := [(255, { ctx := 1, layers := 2 })], models.seqs := [(3, { pool := 255, ctx := 1, len := 70, tables := [[0, 1], [2, 3]] })] } (pk 1 0x040B 3 [(16, 4, 0x10003), (20, 4, 1), (24, 8, 0x10000), (32, 8, 0x10000)]) (fun s p => (chkKvExport p s).isNone) = true := by
  refine ⟨?_, ?_, ?_, ?_, ?_, ?_, ?_, ?_, ?_, ?_, ?_, ?_, ?_, ?_, ?_, ?_, ?_⟩ <;> decide +kernel

/-- Each command of StreamCommandsComplete passes its checks in some state. -/
theorem witness_StreamCommandsComplete :
    meets strmLayState (pk 1 0x0500 2 [(16, 1, 1), (17, 1, 2), (18, 1, 3), (24, 8, 0x10000)]) (fun s p => (chkStrmSetCreate p s).isNone) = true ∧
    meets { live with models.sets := [(255, { ctx := 1, layers := [(16, 1)] })] } (pk 1 0x0501 2 [(16, 1, 255)]) (fun s p => (chkStrmSetDestroy p s).isNone) = true ∧
    meets { live with models.sets := [(255, { ctx := 1, layers := [(16, 1)] })] } (pk 1 0x0502 2 [(16, 1, 255), (24, 8, 0x10000)]) (fun s p => (chkStrmStart p s).isNone) = true ∧
    meets { live with models.sets := [(255, { ctx := 1, layers := [(16, 1)] })], models.streams := [(3, { set := 255, ctx := 1, claimed := some 1 })] } (pk 1 0x0503 2 [(16, 4, 0x10003)]) (fun s p => ((pStrm p s).map fun e => e.2.claimed.isSome && (firstFails ([[(decide (64 ≤ strmQueued s e.2.set), .eBusy, 0xFFFF)]] : List (List (Bool × Code × Nat)))).isNone) == some true) = true ∧
    meets { live with models.sets := [(255, { ctx := 1, layers := [(16, 1)] })], models.streams := [(3, { set := 255, ctx := 1, active := false })] } (pk 1 0x0504 2 [(16, 4, 0x10003)]) (fun s p => (chkStrmResume p s).isNone) = true ∧
    meets { live with models.sets := [(255, { ctx := 1, layers := [(16, 1)] })], models.streams := [(3, { set := 255, ctx := 1 })] } (pk 1 0x0505 2 [(16, 4, 0x10003)]) (fun s p => ((pStrm p s).map fun e => e.2.claimed.isNone) == some true && (chkStrmEnd p s).isNone) = true ∧
    meets { live with models.sets := [(255, { ctx := 1, layers := [(16, 1)] })], models.streams := [(3, { set := 255, ctx := 1, claimed := some 1 })] } (pk 1 0x0505 2 [(16, 4, 0x10003)]) (fun s p => ((pStrm p s).map fun e => e.2.claimed.isSome && (firstFails ([[(decide (64 ≤ strmQueued s e.2.set), .eBusy, 0xFFFF)]] : List (List (Bool × Code × Nat)))).isNone) == some true) = true ∧
    meets { live with models.sets := [(255, { ctx := 1, layers := [(16, 1)] })], models.streams := [(3, { set := 255, ctx := 1 })] } (pk 1 0x0506 2 [(16, 4, 0x10003)]) (fun s p => (firstFails [strmChk p s]).isNone) = true ∧
    meets { live with models.sets := [(255, { ctx := 1, layers := [(16, 1)] })], models.streams := [(3, { set := 255, ctx := 1 })] } (pk 1 0x0507 2 [(16, 4, 0x10003), (20, 4, 0x3f800000), (24, 4, 0x40000000)]) (fun s p => (chkStrmSentinel p s).isNone) = true ∧
    meets { live with models.sets := [(255, { ctx := 1, layers := [(16, 1)] })], models.streams := [(3, { set := 255, ctx := 1 })] } (pk 1 0x0508 2 [(16, 4, 0x10003), (24, 8, 0x10000)]) (fun s p => ((pStrm p s).map fun e => e.2.claimed.isNone) == some true && (chkStrmRead p s).isNone) = true ∧
    meets { live with models.sets := [(255, { ctx := 1, layers := [(16, 1)] })], models.streams := [(3, { set := 255, ctx := 1, claimed := some 1 })] } (pk 1 0x0508 2 [(16, 4, 0x10003), (24, 8, 0x10000)]) (fun s p => ((pStrm p s).map fun e => e.2.claimed.isSome && (firstFails ([[(decide (64 ≤ strmQueued s e.2.set), .eBusy, 0xFFFF)]] : List (List (Bool × Code × Nat)))).isNone) == some true) = true ∧
    meets { live with models.sets := [(255, { ctx := 1, layers := [(16, 1)] })], models.streams := [(3, { set := 255, ctx := 1 })] } (pk 1 0x0509 3 [(16, 4, 0x10003), (24, 8, 0x10000), (32, 8, 0x10000)]) (fun s p => ((pStrm p s).map fun e => e.2.claimed.isNone) == some true && (chkStrmExport p s).isNone) = true ∧
    meets { live with models.sets := [(255, { ctx := 1, layers := [(16, 1)] })], models.streams := [(3, { set := 255, ctx := 1, claimed := some 1 })] } (pk 1 0x0509 3 [(16, 4, 0x10003), (24, 8, 0x10000), (32, 8, 0x10000)]) (fun s p => ((pStrm p s).map fun e => e.2.claimed.isSome && (firstFails ([[(decide (64 ≤ strmQueued s e.2.set), .eBusy, 0xFFFF)]] : List (List (Bool × Code × Nat)))).isNone) == some true) = true ∧
    meets live (pk 1 0x050B 2 []) (fun s p => (chkStrmPeer p s).isNone) = true := by
  refine ⟨?_, ?_, ?_, ?_, ?_, ?_, ?_, ?_, ?_, ?_, ?_, ?_, ?_, ?_⟩ <;> decide +kernel

/-- Each command of CameraCommandsComplete passes its checks in some state. -/
theorem witness_CameraCommandsComplete :
    meets { live with cams.ports := [(11, { owner := 1, state := 1, port := some { lanes := 4, dt := 0x2A, width := 64, height := 64, pattern := 1 } })] } (pk 1 0x0600 2 [(16, 1, 11)]) (fun s p => (chkCamQuery p s).isNone) = true ∧
    meets { live with cams.ports := [(11, { owner := 1, state := 1, port := some { lanes := 4, dt := 0x2A, width := 64, height := 64, pattern := 1 } })] } (pk 0 0x0601 2 [(16, 1, 11), (18, 2, 1)]) (fun s p => (chkCamAssign p s).isNone && decide ((camOf s (pPort p)).owner = fld p 18 2)) = true ∧
    meets { live with cams.ports := [(11, { owner := 1, state := 1, port := some { lanes := 4, dt := 0x2A, width := 64, height := 64, pattern := 1 } })] } (pk 0 0x0601 2 [(16, 1, 11), (18, 2, 0)]) (fun s p => (chkCamAssign p s).isNone && decide ((camOf s (pPort p)).owner ≠ fld p 18 2)) = true ∧
    meets { live with cams.ports := [(11, { owner := 1, state := 1, port := some { lanes := 4, dt := 0x2A, width := 64, height := 64, pattern := 1 } })] } (pk 1 0x0602 3 [(16, 1, 11), (17, 1, 4), (18, 1, 42), (19, 1, 3), (20, 2, 64), (22, 2, 64), (24, 1, 4), (28, 2, 0x1194)]) (fun s p => (chkCamPort p s).isNone) = true ∧
    meets { live with cams.ports := [(11, { owner := 1, state := 1, port := some { lanes := 4, dt := 0x2A, width := 64, height := 64, pattern := 1 } })] } (pk 1 0x0603 2 [(16, 1, 11), (24, 8, 0x10000)]) (fun s p => (chkCamParams p s).isNone) = true ∧
    meets { live with cams.ports := [(11, { owner := 1, state := 1, port := some { lanes := 4, dt := 0x2A, width := 64, height := 64, pattern := 1 } })], store.objs := [(1, { ctx := 1, va := 0x10000, pages := 4, write := true })] } (pk 1 0x0604 5 [(16, 1, 11), (17, 1, 3), (18, 1, 2), (20, 8, 0x10000), (40, 2, 64), (42, 2, 64), (48, 2, 64), (50, 2, 64), (52, 1, 0), (53, 1, 16)]) (fun s p => (chkCamOutput p s).isNone) = true ∧
    meets { live with cams.ports := [(11, { owner := 1, state := 1, port := some { lanes := 4, dt := 0x2A, width := 64, height := 64, pattern := 1 }, out := some { slots := 3, ring := 0x10000, size := 65536 } })] } (pk 1 0x0605 2 [(16, 1, 11)]) (fun s p => (chkCamStart p s).isNone) = true ∧
    meets { live with cams.ports := [(11, { owner := 1, state := 2, port := some { lanes := 4, dt := 0x2A, width := 64, height := 64, pattern := 1 }, out := some { slots := 3, ring := 0x10000, size := 65536 }, frame := some {} })] } (pk 1 0x0606 2 [(16, 1, 11)]) (fun s p => (chkCamStop p s).isNone && ((camOf s (pPort p)).frame.isSome)) = true ∧
    meets { live with cams.ports := [(11, { owner := 1, state := 2, port := some { lanes := 4, dt := 0x2A, width := 64, height := 64, pattern := 1 }, out := some { slots := 3, ring := 0x10000, size := 65536 } })] } (pk 1 0x0606 2 [(16, 1, 11)]) (fun s p => (chkCamStop p s).isNone && ((camOf s (pPort p)).frame).isNone) = true ∧
    meets { live with cams.ports := [(11, { owner := 1, state := 1, port := some { lanes := 4, dt := 0x2A, width := 64, height := 64, pattern := 1 } })] } (pk 1 0x0607 2 [(16, 1, 11), (17, 1, 1)]) (fun s p => (chkCamPower p s).isNone) = true ∧
    meets { live with cams.ports := [(11, { owner := 1, state := 1, port := some { lanes := 4, dt := 0x2A, width := 64, height := 64, pattern := 1 } })], net.evs := [(31, { owner := 1 })] } (pk 1 0x0608 2 [(16, 1, 11), (17, 1, 31), (18, 1, 1), (20, 2, 1)]) (fun s p => (chkCamSync p s).isNone) = true ∧
    meets { live with cams.ports := [(11, { owner := 1, state := 1, port := some { lanes := 4, dt := 0x2A, width := 64, height := 64, pattern := 1 }, out := some { slots := 3, ring := 0x10000, size := 65536 } })], cams.windows := [(9, { port := 11, ctx := 1, va := 0x400000 })] } (pk 1 0x0609 2 [(16, 1, 11), (17, 1, 1), (18, 2, 9)]) (fun s p => (chkCamWindow p s).isNone && (winDestroy p)) = true ∧
    meets { live with cams.ports := [(11, { owner := 1, state := 1, port := some { lanes := 4, dt := 0x2A, width := 64, height := 64, pattern := 1 }, out := some { slots := 3, ring := 0x10000, size := 65536 } })], cams.windows := [(9, { port := 11, ctx := 1, va := 0x400000 })] } (pk 1 0x0609 2 [(16, 1, 11), (24, 8, 0x800000)]) (fun s p => (chkCamWindow p s).isNone && !(winDestroy p)) = true ∧
    meets { live with cams.ports := [(11, { owner := 1, state := 1, port := some { lanes := 4, dt := 0x2A, width := 64, height := 64, pattern := 1 }, out := some { slots := 3, ring := 0x10000, size := 65536 } })], cams.windows := [(9, { port := 11, ctx := 1, va := 0x400000 })] } (pk 1 0x060A 2 [(16, 2, 9)]) (fun s p => (chkCamAttach p s).isNone) = true ∧
    meets { live with cams.ports := [(11, { owner := 1, state := 2, port := some { lanes := 4, dt := 0x2A, width := 64, height := 64, pattern := 1 }, out := some { slots := 3, ring := 0x10000, size := 65536 }, slots := [(0, { number := 4, order := 1 })] })] } (pk 1 0x060B 2 [(16, 1, 11), (24, 8, 4)]) (fun s p => (chkCamWait p s).isNone && (waitSlot (camOf s (pPort p)) (fld p 24 8)).isSome) = true ∧
    meets { live with cams.ports := [(11, { owner := 1, state := 2, port := some { lanes := 4, dt := 0x2A, width := 64, height := 64, pattern := 1 }, out := some { slots := 3, ring := 0x10000, size := 65536 } })] } (pk 1 0x060B 2 [(16, 1, 11), (24, 8, 4)]) (fun s p => (chkCamWait p s).isNone && (waitSlot (camOf s (pPort p)) (fld p 24 8)).isNone) = true ∧
    meets live (pk 0 0x060C 2 [(16, 1, 1), (22, 2, 0x5dc)]) (fun s p => (chkCamPresence p s).isNone) = true := by
  refine ⟨?_, ?_, ?_, ?_, ?_, ?_, ?_, ?_, ?_, ?_, ?_, ?_, ?_, ?_, ?_, ?_, ?_⟩ <;> decide +kernel

/-- Each command of AudioCommandsComplete passes its checks in some state. -/
theorem witness_AudioCommandsComplete :
    meets live (pk 0 0x0700 2 []) (fun _ _ => true) = true ∧
    meets live (pk 0 0x0701 2 [(16, 1, 2), (18, 2, 1)]) (fun s p => (chkAudAssign p s).isNone) = true ∧
    meets live (pk 0 0x0702 2 [(16, 1, 2)]) (fun s p => (chkAudClock p s).isNone) = true ∧
    meets lpState (pk 0 0x0703 2 [(16, 8, 0x10000)]) (fun s p => (chkAudLp p s).isNone) = true ∧
    meets live (pk 0 0x0704 2 [(16, 1, 7), (24, 8, 0x10000)]) (fun s p => (chkAudBeam p s).isNone) = true ∧
    meets live (pk 1 0x0705 4 [(16, 1, 7)]) (fun s p => (chkAudCapture p s).isNone && decide (fld p 17 1 = 0)) = true ∧
    meets { live with audio.arrayOwner := 1, store.objs := [(1, { ctx := 1, va := 0x10000, pages := 4, write := true })] } (pk 1 0x0705 4 [(16, 1, 7), (17, 1, 1), (20, 4, 4), (24, 8, 0x10000), (32, 1, 0)]) (fun s p => (chkAudCapture p s).isNone && decide (fld p 17 1 ≠ 0)) = true ∧
    meets { live with audio.arrayOwner := 1, audio.rings := [(7, { owner := 1, sources := [0], running := false })] } (pk 1 0x0706 2 [(16, 1, 7)]) (fun s p => (chkAudStart p s).isNone) = true ∧
    meets { live with audio.arrayOwner := 1, audio.rings := [(7, { owner := 1, sources := [0], running := true })] } (pk 1 0x0707 2 [(16, 1, 7)]) (fun s p => (chkAudStop p s).isNone) = true ∧
    meets { live with audio.i2s := [(1, { owner := 1 })] } (pk 1 0x0708 2 [(16, 1, 1), (17, 1, 2), (20, 1, 16), (21, 1, 32), (22, 1, 24)]) (fun s p => (chkAudI2s p s).isNone) = true ∧
    meets { live with audio.i2s := [(1, { owner := 1 })] } (pk 1 0x0709 3 [(16, 1, 1), (17, 1, 1)]) (fun s p => (chkAudPlay p s).isNone && (playStop p)) = true ∧
    meets { live with audio.i2s := [(1, { owner := 1, configured := true })], store.objs := [(1, { ctx := 1, va := 0x10000, pages := 4, write := true })] } (pk 1 0x0709 3 [(16, 1, 1), (20, 4, 2), (24, 8, 0x10000)]) (fun s p => (chkAudPlay p s).isNone && !(playStop p)) = true ∧
    meets { live with audio.arrayOwner := 1, audio.rings := [(7, { owner := 1, sources := [0], running := true, block := 5 })] } (pk 1 0x070A 2 [(16, 1, 7), (24, 8, 5)]) (fun s p => (chkAudWait p s).isNone && (tget s.audio.rings (fld p 16 1)).isSome && ringHolds s (fld p 16 1) (fld p 24 8)) = true ∧
    meets { live with audio.arrayOwner := 1, audio.rings := [(7, { owner := 1, sources := [0], running := true, block := 5 })] } (pk 1 0x070A 2 [(16, 1, 7), (24, 8, 6)]) (fun s p => (chkAudWait p s).isNone && (tget s.audio.rings (fld p 16 1)).isSome && !ringHolds s (fld p 16 1) (fld p 24 8)) = true := by
  refine ⟨?_, ?_, ?_, ?_, ?_, ?_, ?_, ?_, ?_, ?_, ?_, ?_, ?_, ?_⟩ <;> decide +kernel

/-- Each command of TimeAndEventCommandsComplete passes its checks in some state. -/
theorem witness_TimeAndEventCommandsComplete :
    meets live (pk 1 0x0800 2 [(16, 8, 0x10000)]) (fun s p => (chkTkQuery p s).isNone) = true ∧
    meets live (pk 0 0x0801 2 [(16, 1, 127), (17, 1, 127), (20, 2, 0x3e8), (22, 2, 0xfc18)]) (fun s p => (chkTkConfig p s).isNone) = true ∧
    meets live (pk 0 0x0802 2 [(16, 1, 2)]) (fun s p => (chkTkSelect p s).isNone) = true ∧
    meets live (pk 0 0x0803 2 [(16, 1, 31), (18, 2, 1)]) (fun s p => (chkEvAssign p s).isNone) = true ∧
    meets { live with net.evs := [(31, { owner := 1 })] } (pk 1 0x0804 3 [(16, 1, 31), (20, 4, 1), (36, 6, 0x3e8), (44, 4, 8)]) (fun s p => (chkEvConfig p s).isNone) = true ∧
    meets { live with net.evs := [(31, { owner := 1 })] } (pk 1 0x0805 2 [(16, 1, 31), (24, 8, 0x10000)]) (fun s p => (chkEvQuery p s).isNone) = true ∧
    meets { live with net.evs := [(31, { owner := 1, fifo := [5] })] } (pk 1 0x0806 2 [(16, 1, 31), (17, 1, 16), (24, 8, 0x10000)]) (fun s p => (chkEvReadCapture p s).isNone) = true := by
  refine ⟨?_, ?_, ?_, ?_, ?_, ?_, ?_⟩ <;> decide +kernel

/-- Each command of NetworkCommandsComplete passes its checks in some state. -/
theorem witness_NetworkCommandsComplete :
    meets portState (pk 0 0x0807 2 [(16, 1, 1), (24, 8, 0x10000)]) (fun s p => (chkNetConfig p s).isNone) = true ∧
    meets live (pk 0 0x0808 2 [(16, 1, 1)]) (fun s p => (chkNetQuery p s).isNone) = true ∧
    meets { live with net.socks := [(256, { ctx := 1, port := 1, udp := 5000 })] } (pk 1 0x0809 3 [(16, 1, 1), (22, 2, 0x100)]) (fun s p => (chkNetBind p s).isNone && (bindClose p)) = true ∧
    meets live (pk 1 0x0809 3 [(17, 1, 1), (18, 1, 8), (20, 2, 0x400), (24, 2, 2), (28, 4, 128), (32, 8, 0x10000)]) (fun s p => (chkNetBind p s).isNone && !(bindClose p)) = true ∧
    meets { live with net.socks := [(256, { ctx := 1, port := 1, udp := 5000 })], net.eths := [(1, { up := true })] } (pk 1 0x080A 4 [(16, 2, 0x100), (18, 1, 1), (40, 8, 0x10000), (48, 2, 0x5ac)]) (fun s p => (chkNetSend p s).isNone) = true ∧
    meets { live with net.socks := [(256, { ctx := 1, port := 1, udp := 5000 })], net.eths := [(1, { up := true })] } (pk 1 0x080A 4 [(16, 2, 0x100), (18, 1, 1), (40, 8, 0x10000), (48, 2, 0x5ac)]) (fun s p => (chkNetSend p s).isNone) = true ∧
    meets live (pk 0 0x080B 2 [(16, 1, 2), (18, 2, 0xfff), (20, 4, 1)]) (fun s p => (chkGwFleet p s).isNone) = true ∧
    meets live (pk 1 0x080C 3 [(18, 2, 1), (20, 4, 2), (24, 4, 0x10000), (32, 8, 0x10000)]) (fun s p => (chkGwInbox p s).isNone && decide (gwOp p = 0)) = true ∧
    meets { live with net.inboxes := [(1, { ctx := 1, slots := 2 })] } (pk 1 0x080C 3 [(16, 1, 1), (18, 2, 1)]) (fun s p => (chkGwInbox p s).isNone && decide (gwOp p = 1)) = true ∧
    meets { live with net.inboxes := [(1, { ctx := 1, slots := 2 })] } (pk 1 0x080C 3 [(16, 1, 2), (18, 2, 1), (20, 4, 1)]) (fun s p => (chkGwInbox p s).isNone && decide (2 ≤ gwOp p)) = true ∧
    meets gwState (pk 1 0x080D 3 [(16, 2, 0xfff), (20, 4, 0xea60), (24, 8, 0x10000), (32, 4, 12)]) (fun s p => (chkGwSend p s).isNone) = true ∧
    meets live (pk 1 0x080E 2 []) (fun _ _ => true) = true := by
  refine ⟨?_, ?_, ?_, ?_, ?_, ?_, ?_, ?_, ?_, ?_, ?_, ?_⟩ <;> decide +kernel

/-- Each command of SafetyCommandsComplete passes its checks in some state. -/
theorem witness_SafetyCommandsComplete :
    meets live (pk 1 0x0900 2 []) (fun _ _ => true) = true ∧
    meets { live with safe.log := [{ seq := 1 }] } (pk 0 0x0901 2 [(20, 2, 0x400), (24, 8, 0x10000)]) (fun s p => (chkSafeLogRead p s).isNone) = true ∧
    meets live (pk 0 0x0902 2 [(16, 8, 0x10000)]) (fun s p => (chkSafeChannels p s).isNone) = true ∧
    meets safeCfgState (pk 0 0x0903 2 [(16, 8, 0x10000)]) (fun s p => (chkSafeConfig p s).isNone) = true ∧
    meets live (pk 0 0x0904 2 [(16, 1, 1), (17, 1, 33)]) (fun s p => (chkSafeRetire p s).isNone) = true ∧
    meets live (pk 0 0x0905 2 []) (fun s _ => (chkSafeClear s).isNone) = true ∧
    meets live (pk 0 0x0906 2 [(16, 1, 1), (17, 1, 33), (18, 1, 6)]) (fun s p => (chkSafeInject p s).isNone) = true ∧
    meets { live with sched.binds := [(64, { ctx := 1 })] } (pk 1 0x0907 2 [(16, 1, 64)]) (fun s p => (chkSafeE2e p s).isNone) = true ∧
    meets live (pk 0 0x0908 2 []) (fun _ _ => true) = true ∧
    meets live (pk 0 0x0909 2 [(16, 1, 2)]) (fun s p => (chkSafeSelftest p s).isNone) = true := by
  refine ⟨?_, ?_, ?_, ?_, ?_, ?_, ?_, ?_, ?_, ?_⟩ <;> decide +kernel

/-- Each command of PowerCommandsComplete passes its checks in some state. -/
theorem witness_PowerCommandsComplete :
    meets live (pk 1 0x0B00 2 [(16, 8, 0x10000)]) (fun s p => (chkPwrQuery p s).isNone) = true ∧
    meets live (pk 0 0x0B01 2 [(16, 1, 15), (17, 1, 6)]) (fun _ p => (chkPwrCap p).isNone) = true ∧
    meets live (pk 0 0x0B02 2 [(16, 1, 4)]) (fun _ p => (chkPwrPolicy p).isNone) = true ∧
    meets live (pk 0 0x0B03 2 [(16, 1, 136)]) (fun s p => (chkPwrWake p s).isNone) = true ∧
    meets { live with power.floor := 4 } (pk 0 0x0B04 2 [(16, 1, 4), (18, 2, 0xea60)]) (fun s p => (chkPwrEnter p s).isNone) = true ∧
    meets { live with power.held := 63 } (pk 0 0x0B05 2 [(16, 1, 63)]) (fun s p => (chkPadsRelease p s).isNone) = true ∧
    meets live (pk 0 0x0B06 2 []) (fun _ _ => true) = true := by
  refine ⟨?_, ?_, ?_, ?_, ?_, ?_, ?_⟩ <;> decide +kernel

/-- Each command of SecurityAndUpdateCommandsComplete passes its checks in some state. -/
theorem witness_SecurityAndUpdateCommandsComplete :
    meets { live with boot.journal := [{}] } (pk 0 0x0C00 2 [(24, 8, 0x10000)]) (fun s p => (chkBootJournal p s).isNone) = true ∧
    meets live (pk 0 0x0C01 2 [(16, 4, 0x1ffff)]) (fun _ p => (chkBootRetry p).isNone) = true ∧
    meets live (pk 0 0x0C02 2 [(16, 8, 0x10000)]) (fun s p => (chkSecCert p s).isNone) = true ∧
    meets live (pk 1 0x0C03 4 [(16, 2, 1), (24, 8, 0x10000)]) (fun s p => (chkSecAttest p s).isNone) = true ∧
    meets live (pk 0 0x0C04 2 []) (fun s _ => (chkSecPair s).isNone) = true ∧
    meets { live with boot.paired := true } (pk 0 0x0C05 2 [(16, 8, 0x10000)]) (fun s p => (chkSecOwner p s).isNone) = true ∧
    meets { live with boot.paired := true } (pk 0 0x0C07 2 []) (fun s _ => (chkSecFloor s).isNone) = true ∧
    meets { live with boot.updStage := 1 } (pk 0 0x0C09 2 []) (fun s _ => (chkUpdActivate s).isNone) = true ∧
    meets { live with boot.updStage := 1 } (pk 0 0x0C0A 2 []) (fun s _ => (chkUpdCancel s).isNone) = true ∧
    meets live (pk 0 0x0C0B 2 []) (fun s _ => (chkUpdQuery s).isNone) = true := by
  refine ⟨?_, ?_, ?_, ?_, ?_, ?_, ?_, ?_, ?_, ?_⟩ <;> decide +kernel

/-- Each command of StatisticsCommandsComplete passes its checks in some state. -/
theorem witness_StatisticsCommandsComplete :
    meets live (pk 1 0x0D00 2 [(20, 1, 255), (22, 2, 0x1000)]) (fun s p => (chkQstatArm p s).isNone) = true ∧
    meets { live with models.qslots := [(256, { ctx := 1, channels := 4 })] } (pk 1 0x0D01 2 [(16, 2, 0x100)]) (fun s p => (firstFails [slotChk p s]).isNone) = true ∧
    meets { live with models.qslots := [(256, { ctx := 1, channels := 4 })] } (pk 1 0x0D02 2 [(16, 2, 0x100), (20, 2, 3), (22, 2, 1), (24, 8, 0x10000)]) (fun s p => (chkQstatRead p s).isNone) = true ∧
    meets { live with models.qslots := [(256, { ctx := 1, channels := 4 })] } (pk 1 0x0D03 2 [(16, 2, 0x100)]) (fun s p => (firstFails [slotChk p s]).isNone) = true ∧
    meets live (pk 1 0x0D04 4 [(16, 8, 0x10000), (24, 8, 0x20000), (40, 4, 16), (44, 4, 1), (48, 1, 1), (49, 1, 2)]) (fun s p => (chkQconvert p s).isNone && (freeDma (pinDma p true s)).isSome) = true := by
  refine ⟨?_, ?_, ?_, ?_, ?_⟩ <;> decide +kernel

/-- memAlloc, whatever the part's memory (R289). -/
theorem witness_memAlloc : meets live (pk 1 0x0200 3 [(16, 8, 0x200000), (24, 8, 0x10000), (32, 1, 3)]) (fun s p => (chkMemAlloc p s).isNone) = true := by
  have e : framesPerChannel = 58254 ∨ framesPerChannel = 29127 := by unfold framesPerChannel; split <;> simp
  simp only [meets, chkMemAlloc, freeFrames]
  rcases e with e | e <;> simp only [e] <;> decide +kernel

/-- kvPoolCreate, whatever the part's memory (R289). -/
theorem witness_kvPoolCreate : meets live (pk 1 0x0400 2 [(16, 2, 0x400), (18, 1, 33), (19, 1, 128), (20, 1, 128), (24, 4, 64)]) (fun s p => (chkKvPoolCreate p s).isNone) = true := by
  have e : framesPerChannel = 58254 ∨ framesPerChannel = 29127 := by unfold framesPerChannel; split <;> simp
  simp only [meets, chkKvPoolCreate, freeFrames]
  rcases e with e | e <;> simp only [e] <;> decide +kernel

/-- strmPause, whatever the part's memory (R289). -/
theorem witness_strmPause : meets ({ live with models.sets := [(255, { ctx := 1, layers := [(16, 1)] })], models.streams := [(3, { set := 255, ctx := 1 })] }) (pk 1 0x0503 2 [(16, 4, 0x10003)]) (fun s p => ((pStrm p s).map fun e => e.2.claimed.isNone) == some true && (chkStrmPause p s).isNone) = true := by
  have e : framesPerChannel = 58254 ∨ framesPerChannel = 29127 := by unfold framesPerChannel; split <;> simp
  simp only [meets, chkStrmPause, idleLimits, freeFrames]
  rcases e with e | e <;> simp only [e] <;> decide +kernel

/-- live with a parcel header of type `type` and 372 bytes at 0x10000 of context 1, a pool 255 and a stream set 255. -/
def parcelState (type : Byte) : State := { live with
  store.mem := memWrite [] 0x11000000 [0x50, 0x52, 0x50, 0x33, 0, 1, type, 0, 0x74, 1]
  models.pools := [(255, { ctx := 1 })]
  models.sets := [(255, { ctx := 1, layers := [(16, 1)] })] }

/-- live, paired and owned by key ID 1, with a configuration record of 532 bytes at 0x10000. -/
def configState : State := { live with
  boot.paired := true
  boot.owner := 1
  store.mem := memWrite (memWrite [] 0x10000000 [0x47, 0x46, 0x43, 0x33, 0, 1]) 0x10000012 [8] }

/-- live with an image of 4,484 bytes at 0x10000. -/
def imageState : State := { live with
  store.mem := memWrite (memWrite [] 0x10000000 [0x47, 0x4D, 0x49, 0x33, 0, 1]) 0x10000011 [0x10] }

/-- The packets that need what the part's own keys and drives decide: DEV_KEY_ENROLL with a key on the curve. -/
theorem witness_devKeyEnroll (h : Config.onCurve (slice (vread live 0 65536 256) 0 133) = true) :
    meets live (pk 0 0x0005 2 [(16, 8, 65536)]) (fun s p => (chkDevKeyEnroll p s).isNone) = true := by
  have f : fld (pk 0 0x0005 2 [(16, 8, 65536)]) 16 8 = 65536 := by decide +kernel
  simp only [meets, chkDevKeyEnroll, f, keyChk, h]
  decide +kernel

/-- MEM_COLD_IO on a drive of 512-byte blocks. -/
theorem witness_memColdIo (h : Config.lbaBytes 3 = 512) :
    meets { live with link.x4x4 := true, link.rpUp := true } (pk 0 0x020A 3 [(16, 1, 3), (17, 1, 1), (32, 4, 1), (40, 8, 65536)])
      (fun s p => (chkMemColdIo p s).isNone) = true := by
  have e : ioBytes (pk 0 0x020A 3 [(16, 1, 3), (17, 1, 1), (32, 4, 1), (40, 8, 65536)]) = 1 * Config.lbaBytes 3 := rfl
  rw [h] at e
  simp only [meets, chkMemColdIo, e]
  decide +kernel

/-- KV_IMPORT of an empty bundle whose signature and tag hold. -/
theorem witness_kvImport (h1 : parcelSigned (parcelState 2) (pk 1 0x040C 2 [(16, 8, 65536), (24, 1, 255)]) (parcelAt (parcelState 2) 1 65536) = true)
    (h2 : deviceId = 0)
    (h3 : parcelOpen (parcelAt (parcelState 2) 1 65536) = some (fit 32 [16, 0, 0x20, 0, 1])) :
    meets (parcelState 2) (pk 1 0x040C 2 [(16, 8, 65536), (24, 1, 255)]) (fun s p => (chkKvImport p s).isNone) = true := by
  have f : fld (pk 1 0x040C 2 [(16, 8, 65536), (24, 1, 255)]) 16 8 = 65536 := by decide +kernel
  have g : (pk 1 0x040C 2 [(16, 8, 65536), (24, 1, 255)]).ctx = 1 := rfl
  simp only [meets, chkKvImport, parcelChk, bundleOf, f, g, h1, h2, h3]
  decide +kernel

/-- STRM_IMPORT of a parcel of the set's shape whose signature and tag hold. -/
theorem witness_strmImport (pl : List Byte)
    (h1 : parcelSigned (parcelState 1) (pk 1 0x050A 2 [(16, 8, 65536), (24, 1, 255)]) (parcelAt (parcelState 1) 1 65536) = true)
    (h2 : deviceId = 0) (h3 : parcelOpen (parcelAt (parcelState 1) 1 65536) = some pl)
    (h4 : strmFits (tgetD (parcelState 1).models.sets 255) pl = true) :
    meets (parcelState 1) (pk 1 0x050A 2 [(16, 8, 65536), (24, 1, 255)]) (fun s p => (chkStrmImport p s).isNone) = true := by
  have f : fld (pk 1 0x050A 2 [(16, 8, 65536), (24, 1, 255)]) 16 8 = 65536 := by decide +kernel
  have k : fld (pk 1 0x050A 2 [(16, 8, 65536), (24, 1, 255)]) 24 1 = 255 := by decide +kernel
  have g : (pk 1 0x050A 2 [(16, 8, 65536), (24, 1, 255)]).ctx = 1 := rfl
  simp only [meets, chkStrmImport, parcelChk, f, g, k, h1, h2, h3, Option.getD_some, Option.isNone_some, h4]
  decide +kernel

/-- SEC_CONFIG of a record that its owner signed. -/
theorem witness_secConfig
    (h1 : keyIdOf (slice (vread configState 0 65536 532) (recordSig (vread configState 0 65536 532) + 8) 133) = 1)
    (h2 : recordSigned (vread configState 0 65536 532) = true) :
    meets configState (pk 0 0x0C06 2 [(16, 8, 65536), (24, 4, 532)]) (fun s p => (chkSecConfig p s).isNone) = true := by
  have e : recordBytes (pk 0 0x0C06 2 [(16, 8, 65536), (24, 4, 532)]) configState = vread configState 0 65536 532 := by
    have f : fld (pk 0 0x0C06 2 [(16, 8, 65536), (24, 4, 532)]) 16 8 = 65536 := by decide +kernel
    have g : fld (pk 0 0x0C06 2 [(16, 8, 65536), (24, 4, 532)]) 24 4 = 532 := by decide +kernel
    rw [recordBytes, f, g]
  simp only [meets, chkSecConfig, e, configChk, h1, h2]
  decide +kernel

/-- UPD_STAGE of an image that the firmware key signed. -/
theorem witness_updStage (b : List Byte) (hb : b = vread imageState 0 65536 4484)
    (h : (Config.sha512 (slice b 32 133) != Config.firmwareKey
      || slice b 192 64 != toLE 64 (Config.sha512 (slice b 256 (imgBody b))).toNat
      || !Config.ecdsaVerify (slice b 32 133) (slice b 0 (256 + imgBody b)) (slice b (256 + imgBody b) 132)) = false) :
    meets imageState (pk 0 0x0C08 2 [(16, 8, 65536), (24, 4, 4484)]) (fun s p => (chkUpdStage p s).isNone) = true := by
  have e : stageBytes (pk 0 0x0C08 2 [(16, 8, 65536), (24, 4, 4484)]) imageState = b := by
    have f : fld (pk 0 0x0C08 2 [(16, 8, 65536), (24, 4, 4484)]) 16 8 = 65536 := by decide +kernel
    have g : fld (pk 0 0x0C08 2 [(16, 8, 65536), (24, 4, 4484)]) 24 4 = 4484 := by decide +kernel
    rw [stageBytes, f, g, hb]
  simp only [meets, chkUpdStage, e, imageCode, h]
  rw [hb]
  decide +kernel

/-- Each clause of StartAndResetEventsComplete that has hypotheses is met in some state. -/
theorem witness_StartAndResetEventsComplete :
    holdsIn { live with cmd.devReset := some (false, 5) } (fun s => let t := 5; decide (s.cmd.devReset = some (false, t))) = true ∧
    holdsIn { live with cmd.devReset := some (false, 5) } (fun s => let cause := WarmCause.devReset; decide (s.boot.phase ≠ .reset) && decide (cause = .devReset) && decide (s.cmd.devReset.isSome = true)) = true ∧
    holdsIn live (fun s => let cause := WarmCause.journal; decide (s.boot.phase ≠ .reset) && decide (cause ≠ .devReset) && decide (cause ≠ .sysreset)) = true ∧
    holdsIn live (fun s => decide (s.boot.phase ≠ .reset)) = true ∧
    holdsIn State.reset (fun s => decide (s.boot.phase = .reset)) = true ∧
    holdsIn { live with boot.phase := .step 1 } (fun s => let n := 1; let o : StepOut := { pass := true, units := [], code := 0, detail := 0 }; decide (s.boot.phase = .step n) && decide (o.pass = true) && decide (passCode n o s = none)) = true ∧
    holdsIn { live with boot.phase := .step 4, boot.requireSe := true } (fun s => let n := 4; let o : StepOut := { pass := true, units := [], code := 0, detail := 0 }; let c := (passCode n o s).getD 0; decide (s.boot.phase = .step n) && decide (o.pass = true) && decide (passCode n o s = some c)) = true ∧
    holdsIn { live with boot.phase := .step 9 } (fun s => let n := 9; let o : StepOut := { pass := false, units := [], code := 0, detail := 0 }; decide (s.boot.phase = .step n) && decide (o.pass = false)) = true ∧
    holdsIn { live with boot.phase := .step 9 } (fun s => let n := 9; decide (s.boot.phase = .step n)) = true ∧
    holdsIn { live with boot.phase := .hostWait, store.mem := memWrite [] 0 [0x59, 0x54, 0x42, 0x33, 0, 0, 0, 0, 0, 0, 1] } (fun s => let c := (hostImageCode s).getD .ok; decide (s.boot.phase = .hostWait) && decide (num (physRead s 0 64) 0 4 = 0x33425459) && decide (hostImageCode s = some c)) = true ∧
    holdsIn { live with boot.updStage := 1, boot.updBusy := true } (fun s => decide (s.boot.updStage = 1) && decide (s.boot.updBusy = true)) = true ∧
    holdsIn { live with boot.updStage := 2, boot.updBusy := true } (fun s => decide (2 ≤ s.boot.updStage) && decide (s.boot.updBusy = true) && decide (s.safe.standby = true)) = true ∧
    holdsIn { live with boot.updStage := 2, boot.updBusy := true } (fun s => decide (2 ≤ s.boot.updStage) && decide (s.boot.updBusy = true)) = true := by
  refine ⟨?_, ?_, ?_, ?_, ?_, ?_, ?_, ?_, ?_, ?_, ?_, ?_, ?_⟩ <;> decide +kernel

/-- Each clause of CascadeEventsComplete that has hypotheses is met in some state. -/
theorem witness_CascadeEventsComplete :
    holdsIn { live with power.state := .sample, casc.sources := [(0, { enable := true, lift := 0 })] } (fun s => let level := 0; decide (s.power.state = .sample) && decide ((srcCfg s 0 0).enable = true) && decide ((srcCfg s 0 0).lift ≤ heldScore s 0 level)) = true ∧
    holdsIn { live with power.state := .moor, casc.sources := [(0, { enable := true, lift := 0 })] } (fun s => let level := 0; decide (s.power.state = .moor) && decide ((srcCfg s 0 0).enable = true) && decide ((srcCfg s 0 0).lift ≤ heldScore s 0 level)) = true ∧
    holdsIn live (fun s => let reason := 1; decide (0 < reason) && decide (reason ≤ 3) && decide (detectorRuns s = true)) = true ∧
    holdsIn { live with power.state := .moor, power.floor := 3, casc.sampleEn := true } (fun s => decide (s.power.state = .moor) && decide (s.power.move = none) && decide (s.casc.sampleEn = true) && decide (3 ≤ s.power.floor) && decide (tiersUp s = false)) = true ∧
    holdsIn { live with casc.tiers := [(16, { state := .warm, windowEnd := some 5 })] } (fun s => let tier := 16; let e := 5; decide (noTier tier = false) && decide ((tierOf s tier).windowEnd = some e) && decide ((tierOf s tier).state = .warming ∨ (tierOf s tier).state = .warm) && decide ((tierOf s tier).lift = none)) = true ∧
    holdsIn { live with casc.tiers := [(16, { state := .warming })] } (fun s => let tier := 16; decide (noTier tier = false) && decide ((tierOf s tier).state = .warming) && decide ((tierOf s tier).lift = none)) = true ∧
    holdsIn { live with casc.tiers := [(16, { state := .warming, lift := some {} })] } (fun s => let tier := 16; let l : LiftRec := {}; decide (noTier tier = false) && decide ((tierOf s tier).state = .warming) && decide ((tierOf s tier).lift = some l)) = true ∧
    holdsIn { live with casc.tiers := [(16, { state := .arming })] } (fun s => let tier := 16; decide (noTier tier = false) && decide ((tierOf s tier).state = .arming)) = true ∧
    holdsIn { live with casc.tiers := [(16, { state := .idle })] } (fun s => let tier := 16; decide (noTier tier = false) && decide (holdOf s tier ≠ 0xFFFFFFFF) && decide ((tierOf s tier).state = .idle)) = true ∧
    holdsIn { live with casc.tiers := [(16, { state := .sinking })] } (fun s => let tier := 16; decide (noTier tier = false) && decide ((tierOf s tier).state = .falling ∨ (tierOf s tier).state = .sinking)) = true ∧
    holdsIn { live with reel.readers := [(1, {})], reel.blocks := [{}], casc.tiers := [(1, { state := .active, run := some 1 })], sched.runs := [(1, { kind := .cascade 1, ring := some {} })] } (fun s => let tier := 1; let q : ReelReader := {}; let b : ReelBlock := {}; decide (tget s.reel.readers tier = some q) && decide (reelBlock s (max q.next (oldestBlock s)) = some b) && decide (tierServes (tierOf s tier) = true) && decide (((tierOf s tier).run.map (ringRoom s)).getD false = true)) = true ∧
    holdsIn { live with casc.alarm := some 0, casc.sources := [(4, { enable := true })] } (fun s => let a := 0; decide (s.casc.alarm = some a) && decide ((srcCfg s 0 4).enable = true)) = true ∧
    holdsIn { live with casc.alarm := some 0 } (fun s => let a := 0; decide (s.casc.alarm = some a) && decide ((srcCfg s 0 4).enable = false)) = true ∧
    holdsIn { live with power.gpio := 128 } (fun s => let pin := 7; let level := true; decide (pin ≤ 7) && decide (s.power.gpio.testBit pin = level)) = true ∧
    holdsIn { live with power.gpio := 128 } (fun s => let pin := 7; let level := false; decide (pin ≤ 7) && decide (s.power.gpio.testBit pin ≠ level)) = true ∧
    holdsIn { live with cams.presFlags := 1 } (fun s => decide (presenceOn s = true)) = true ∧
    holdsIn { live with reel.copy := some { pkt := pk 1 1 1 [] } } (fun s => let c : ReelCopy := { pkt := pk 1 1 1 [] }; decide (s.reel.copy = some c) && decide (held s = false ∨ rangeHost s c.pkt.ctx c.dest (1296 * c.count) = false)) = true ∧
    holdsIn { live with ctxs := [(1, { state := .opened, pages := [(1, { read := true, write := true, host := true })] })], link.hold := .linkReset false, reel.copy := some { pkt := pk 1 1 1 [], dest := 0x10000, count := 1 } } (fun s => let c : ReelCopy := { pkt := pk 1 1 1 [], dest := 0x10000, count := 1 }; decide (s.reel.copy = some c) && decide (held s = true) && decide (rangeHost s c.pkt.ctx c.dest (1296 * c.count) = true)) = true := by
  refine ⟨?_, ?_, ?_, ?_, ?_, ?_, ?_, ?_, ?_, ?_, ?_, ?_, ?_, ?_, ?_, ?_, ?_, ?_⟩ <;> decide +kernel

/-- Each clause of HostAttachmentEventsComplete that has hypotheses is met in some state. -/
theorem witness_HostAttachmentEventsComplete :
    holdsIn live (fun s => decide (s.link.mse = true)) = true ∧
    holdsIn live (fun s => decide (s.link.mse = true)) = true ∧
    holdsIn live (fun s => let off := 0x01FFFFFC; decide (s.link.mse = true) && decide (off < 0x02000000) && decide (off % 4 = 0)) = true ∧
    holdsIn live (fun s => let off := 0x01FFFFF8; decide (s.link.mse = true) && decide (off < 0x02000000) && decide (off % 8 = 0)) = true ∧
    holdsIn { live with link.mse := false } (fun s => decide (s.link.mse = false)) = true ∧
    holdsIn live (fun s => decide (s.link.mse = true)) = true ∧
    holdsIn live (fun s => decide (s.link.mse = true)) = true ∧
    holdsIn live (fun s => decide (s.link.mse = true)) = true ∧
    holdsIn { live with link.hold := .linkReset true } (fun s => let b := true; decide (s.link.mse = true) && decide (s.link.hold = .linkReset b)) = true ∧
    holdsIn { live with link.hold := .linkReset false } (fun s => let b := false; decide (s.link.mse = true) && decide (s.link.hold = .linkReset b)) = true ∧
    holdsIn live (fun s => decide (s.link.mse = true)) = true ∧
    holdsIn { live with glb.mring := 0x80000000 } (fun s => decide (s.link.mse = true) && decide (mringOn s = true)) = true ∧
    holdsIn live (fun s => decide (s.link.mse = true) && decide (mringOn s = false)) = true ∧
    holdsIn { live with ctxs := live.ctxs ++ [(512, { state := .opened, queues := [(7, {})] })] } (fun s => let page := 512; let queue := 7; let value := 256; let x : Queue := {}; decide (s.link.mse = true) && decide (page ≤ 512) && decide (queue ≤ 7) && decide (tget (ctxOf s page).queues queue = some x) && decide (pageOpen s page = true) && decide ((BitVec.ofNat 32 value - x.tail).msb = false) && decide ((BitVec.ofNat 32 value - x.tail).toNat ≤ 2 ^ x.log2)) = true ∧
    holdsIn { live with ctxs := live.ctxs ++ [(512, { state := .opened, queues := [(7, {})] })] } (fun s => let page := 512; let value := 0; decide (s.link.mse = true) && decide (page ≤ 512) && decide (pageOpen s page = true) && decide ((BitVec.ofNat 32 value - (ctxOf s page).ring.head).msb = false) && decide (((ctxOf s page).ring.written - BitVec.ofNat 32 (heldEntries s page) - BitVec.ofNat 32 value).msb = false)) = true ∧
    holdsIn live (fun s => let off := 0x3FFFFFFF; let size := 1; decide (s.link.mse = true) && decide (off + size ≤ 0x40000000)) = true ∧
    holdsIn live (fun s => let off := 0x3FFFFFFF; let data : List Byte := [1]; decide (s.link.mse = true) && decide (off + data.length ≤ 0x40000000)) = true ∧
    holdsIn { live with link.up := true } (fun s => decide (cfgAnswers s = true)) = true ∧
    holdsIn live (fun s => let v := 1023; decide (s.link.mse = true) && decide (v ≤ 1023)) = true ∧
    holdsIn { live with link.up := true } (fun s => decide (cfgAnswers s = true)) = true ∧
    holdsIn { live with link.up := true, link.d3hot := true } (fun s => decide (s.link.d3hot = true) && decide (cfgAnswers s = true)) = true ∧
    holdsIn { live with ctxs := live.ctxs ++ [(512, { state := .opened, queues := [(7, {})] })] } (fun _ => let ctx := 512; decide (ctx ≤ 512)) = true ∧
    holdsIn { live with ctxs := live.ctxs ++ [(512, { state := .opened, queues := [(7, {})] })] } (fun s => let ctx := 512; let what := ReadFor.leg 16; decide (ctx ≤ 512) && decide ((match what with | .leg g => g | _ => 0) ≤ 16) && decide (ctx ≠ 0) && decide ((ctxOf s ctx).state ≠ .closed)) = true ∧
    holdsIn { live with sched.gangs := [(16, { kind := 1, owner := 1, cur := some { run := 1, phase := .executing } })], sched.runs := [(1, { kind := .packet (pk 0 1 1 []), ctx := 0, state := .committed })] } (fun s => let kind := ReadFail.ur; let g := 16; let c := ((gangOf s 16).bind Gang.cur).getD {}; decide (g ≤ 16) && decide ((gangOf (readFailed kind s) g).bind Gang.cur = some c) && decide (((runOf (readFailed kind s) c.run).map fun r => r.ctx == 0).getD false = true)) = true ∧
    holdsIn { live with store.dma := [(0, { pkt := pk 0 1 1 [] })] } (fun s => let kind := ReadFail.ur; let tag := 7; let e := (0, ({ pkt := pk 0 1 1 [] } : Dma)); decide ((readFailed kind s).store.dma.find? (fun e => e.2.ctx == 0 && pTag e.2.pkt == tag) = some e)) = true ∧
    holdsIn { live with cmd.flights := [{ pkt := pk 0 1 1 [] }] } (fun s => let kind := ReadFail.ur; let tag := 7; let f : Flight := { pkt := pk 0 1 1 [] }; decide ((readFailed kind s).store.dma.find? (fun e => e.2.ctx == 0 && pTag e.2.pkt == tag) = none) && decide ((inFlight (readFailed kind s) 0).find? (fun f => pTag f.pkt == tag) = some f)) = true ∧
    holdsIn { live with link.rpUp := true } (fun s => decide (s.link.rpUp = true)) = true ∧
    holdsIn { live with link.x4x4 := true } (fun s => decide (s.link.x4x4 = true) && decide (s.link.rpUp = false) && decide (chanRetired s 7 1 = false) && decide (startPast s 0x0A = true) && decide (s.boot.missing.contains 0x0A = false)) = true ∧
    holdsIn { live with link.up := true } (fun s => decide (cfgAnswers (tryTrain s) = true)) = true ∧
    holdsIn { live with boot.phase := .step 3 } (fun s => decide (cfgAnswers (tryTrain s) = false)) = true := by
  refine ⟨?_, ?_, ?_, ?_, ?_, ?_, ?_, ?_, ?_, ?_, ?_, ?_, ?_, ?_, ?_, ?_, ?_, ?_, ?_, ?_, ?_, ?_, ?_, ?_, ?_, ?_, ?_, ?_, ?_, ?_⟩ <;> decide +kernel

/-- Each clause of QueueAndSessionEventsComplete that has hypotheses is met in some state. -/
theorem witness_QueueAndSessionEventsComplete :
    holdsIn { live with glb.ready := true, ctxs := [(1, { state := .opened, queues := [(7, { tail := 1 })] })] } (fun s => let p : Pkt := { pk 1 1 1 [] with queue := 7 }; let chain : List Pkt := []; let q : Queue := { tail := 1 }; let given := (p :: chain).map ringPkt; let units := (given.map pLen).foldl (· + ·) 0; let s1 := ringPut s p.ctx q q.fetched.toNat (given.map Pkt.bytes).flatten; let ps := cutPkts p.ctx p.queue given.length (ringGet s1 p.ctx q q.fetched.toNat units); decide (tget (ctxOf s p.ctx).queues p.queue = some q) && decide (fetching s = true) && decide (held s = false) && decide (p.ctx ≠ 0 ∨ s.cmd.ringFailed = false) && decide (pageOpen s p.ctx = true) && decide (p.queue ≤ 7) && decide (chainShape given = true) && decide (units ≤ (q.tail - q.fetched).toNat) && decide (q.badChain = false) && decide (chainBad ps = false) && decide (flightRoom s p.ctx ps.length = true)) = true ∧
    holdsIn { live with glb.ready := true, ctxs := [(1, { state := .opened, queues := [(7, { tail := 1, badChain := true })] })] } (fun s => let p : Pkt := { pk 1 1 1 [] with queue := 7 }; let chain : List Pkt := []; let q : Queue := { tail := 1, badChain := true }; let given := (p :: chain).map ringPkt; let units := (given.map pLen).foldl (· + ·) 0; let s1 := ringPut s p.ctx q q.fetched.toNat (given.map Pkt.bytes).flatten; let ps := cutPkts p.ctx p.queue given.length (ringGet s1 p.ctx q q.fetched.toNat units); decide (tget (ctxOf s p.ctx).queues p.queue = some q) && decide (fetching s = true) && decide (held s = false) && decide (p.ctx ≠ 0 ∨ s.cmd.ringFailed = false) && decide (pageOpen s p.ctx = true) && decide (p.queue ≤ 7) && decide (chainShape given = true) && decide (units ≤ (q.tail - q.fetched).toNat) && decide ((q.badChain || chainBad ps) = true)) = true ∧
    holdsIn { live with glb.ready := true, ctxs := [(1, { state := .opened, ring := { written := 256 }, queues := [(7, { tail := 1 })] })] } (fun s => let p : Pkt := { pk 1 1 1 [] with queue := 7 }; let chain : List Pkt := []; let q : Queue := { tail := 1 }; let given := (p :: chain).map ringPkt; let units := (given.map pLen).foldl (· + ·) 0; let s1 := ringPut s p.ctx q q.fetched.toNat (given.map Pkt.bytes).flatten; let ps := cutPkts p.ctx p.queue given.length (ringGet s1 p.ctx q q.fetched.toNat units); decide (tget (ctxOf s p.ctx).queues p.queue = some q) && decide (fetching s = true) && decide (held s = false) && decide (p.ctx ≠ 0 ∨ s.cmd.ringFailed = false) && decide (pageOpen s p.ctx = true) && decide (p.queue ≤ 7) && decide (chainShape given = true) && decide (units ≤ (q.tail - q.fetched).toNat) && decide (q.badChain = false) && decide (chainBad ps = false) && decide (flightRoom s p.ctx ps.length = false)) = true ∧
    holdsIn { live with cmd.flights := [{ pkt := pk 1 1 1 [] }] } (fun s => let ctx := 1; let tag := 7; let f : Flight := { pkt := pk 1 1 1 [] }; decide ((inFlight s ctx).find? (fun f => pTag f.pkt == tag) = some f) && decide (f.dispatched = false) && decide (bridleOn s = true) && decide (s.safe.takeover ≠ some false) && decide (queueLets s f = true) && decide (chainWaits s f = false) && decide (s.safe.safeState = false ∨ safeServed (pOp f.pkt) = true) && decide (chainDead s f = false) && decide (depState s f.pkt = .met) && decide (dispatchSlot s f = true)) = true ∧
    holdsIn { live with cmd.flights := [{ pkt := pk 1 0x0500 1 [] }], safe.safeState := true } (fun s => let ctx := 1; let tag := 7; let f : Flight := { pkt := pk 1 0x0500 1 [] }; decide ((inFlight s ctx).find? (fun f => pTag f.pkt == tag) = some f) && decide (f.dispatched = false) && decide (bridleOn s = true) && decide (s.safe.takeover ≠ some false) && decide (queueLets s f = true) && decide (chainWaits s f = false) && decide (s.safe.safeState = true) && decide (safeServed (pOp f.pkt) = false)) = true ∧
    holdsIn { live with cmd.flights := [{ pkt := pk 1 1 1 [], chainPrev := some 9 }], cmd.chainFailed := [9] } (fun s => let ctx := 1; let tag := 7; let f : Flight := { pkt := pk 1 1 1 [], chainPrev := some 9 }; decide ((inFlight s ctx).find? (fun f => pTag f.pkt == tag) = some f) && decide (f.dispatched = false) && decide (bridleOn s = true) && decide (s.safe.takeover ≠ some false) && decide (queueLets s f = true) && decide (chainWaits s f = false) && decide (s.safe.safeState = false ∨ safeServed (pOp f.pkt) = true) && decide (chainDead s f = true)) = true ∧
    holdsIn { live with cmd.flights := [{ pkt := pk 1 1 1 [(12, 4, 7)] }] } (fun s => let ctx := 1; let tag := 7; let f : Flight := { pkt := pk 1 1 1 [(12, 4, 7)] }; decide ((inFlight s ctx).find? (fun f => pTag f.pkt == tag) = some f) && decide (f.dispatched = false) && decide (bridleOn s = true) && decide (s.safe.takeover ≠ some false) && decide (queueLets s f = true) && decide (chainWaits s f = false) && decide (s.safe.safeState = false ∨ safeServed (pOp f.pkt) = true) && decide (chainDead s f = false) && decide (depState s f.pkt = .failed)) = true ∧
    holdsIn { live with cmd.flights := [{ pkt := pk 1 1 1 [(12, 4, 5)] }, { pkt := pk 1 1 1 [(4, 4, 5)] , order := 1 }] } (fun s => let ctx := 1; let tag := 7; let f : Flight := { pkt := pk 1 1 1 [(12, 4, 5)] }; decide ((inFlight s ctx).find? (fun f => pTag f.pkt == tag) = some f) && decide (f.dispatched = false) && decide (bridleOn s = true) && decide (s.safe.takeover ≠ some false) && decide (queueLets s f = true) && decide (chainWaits s f = false) && decide (s.safe.safeState = false ∨ safeServed (pOp f.pkt) = true) && decide (chainDead s f = false) && decide (depState s f.pkt = .waits)) = true ∧
    holdsIn { live with cmd.flights := [{ pkt := pk 1 1 1 [(12, 4, 5)] }] } (fun s => let ctx := 1; let tag := 7; let f : Flight := { pkt := pk 1 1 1 [(12, 4, 5)] }; decide ((inFlight s ctx).find? (fun f => pTag f.pkt == tag) = some f) && decide (f.dispatched = false) && decide (bridleOn s = true) && decide (s.safe.takeover ≠ some false) && decide (queueLets s f = true) && decide (chainWaits s f = false) && decide (s.safe.safeState = false ∨ safeServed (pOp f.pkt) = true) && decide (chainDead s f = false) && decide (depState s f.pkt = .unknown)) = true ∧
    holdsIn { live with cmd.flights := { pkt := pk 1 1 1 [] } :: (List.range 63).map fun i => { pkt := pk 0 1 1 [(4, 4, i)], dispatched := true, slot := true, order := i } } (fun s => let ctx := 1; let tag := 7; let f : Flight := { pkt := pk 1 1 1 [] }; decide ((inFlight s ctx).find? (fun f => pTag f.pkt == tag) = some f) && decide (f.dispatched = false) && decide (bridleOn s = true) && decide (s.safe.takeover ≠ some false) && decide (queueLets s f = true) && decide (chainWaits s f = false) && decide (s.safe.safeState = false ∨ safeServed (pOp f.pkt) = true) && decide (chainDead s f = false) && decide (depState s f.pkt = .met) && decide (dispatchSlot s f = false)) = true ∧
    holdsIn { live with cmd.flights := [{ pkt := pk 1 1 1 [(12, 4, 5)], depSince := some 3 }] } (fun s => let ctx := 1; let tag := 7; let f : Flight := { pkt := pk 1 1 1 [(12, 4, 5)], depSince := some 3 }; let t := 3; decide ((inFlight s ctx).find? (fun f => pTag f.pkt == tag) = some f) && decide (f.depSince = some t) && decide (depState s f.pkt = .unknown)) = true ∧
    holdsIn { live with stolp.enable := 1 } (fun s => let d : Dgram := { port := 0, ip := [], udp := 0, data := [] }; decide (s.stolp.enable.testBit d.port = true) && decide (chanRetired s 6 d.port = false) && decide (s.boot.missing.contains 0x10 = false) && decide (¬(d.data.length = 192 ∧ num d.data 0 1 = 2 ∧ num d.data 1 1 = 0x10 ∧ num d.data 4 4 = 0 ∧ (keyOf s (num d.data 16 8)).isSome = true ∧ Config.onCurve (slice d.data 56 133) = true ∧ (s.stolp.hellos.filter fun t => s.time.now < t + 10 ^ 9).length < 16))) = true ∧
    holdsIn live (fun s => let d : Dgram := { port := 0, ip := [], udp := 0, data := [] }; decide (tget s.stolp.pending (num d.data 4 4) = none)) = true ∧
    holdsIn live (fun s => let d : Dgram := { port := 0, ip := [], udp := 0, data := [] }; decide (dgramFits s d = true) && decide (openDgram s d 1 = none)) = true ∧
    holdsIn live (fun s => let d : Dgram := { port := 0, ip := [], udp := 0, data := List.replicate 2000 0 }; decide (dgramFits s d = false)) = true ∧
    holdsIn { live with stolp.pending := [(1, {})] } (fun s => let session := 1; let h : Handshake := {}; decide (tget s.stolp.pending session = some h)) = true ∧
    holdsIn { live with stolp.sessions := [(1, {})] } (fun s => let session := 1; let q : Session := {}; decide (tget s.stolp.sessions session = some q)) = true ∧
    holdsIn { live with cmd.flights := [{ pkt := { pk 1 1 1 [] with queue := 8, session := 1 } }] } (fun s => let session := 1; decide (s.cmd.flights.any (fun f => f.pkt.queue == 8 && f.pkt.session == session) = true)) = true := by
  refine ⟨?_, ?_, ?_, ?_, ?_, ?_, ?_, ?_, ?_, ?_, ?_, ?_, ?_, ?_, ?_, ?_, ?_, ?_⟩ <;> decide +kernel

/-- Each clause of ContextEventsComplete that has hypotheses is met in some state. -/
theorem witness_ContextEventsComplete :
    holdsIn { live with ctxs := [(512, { state := .closing, closing := some { pkt := pk 1 1 1 [], graceEnd := some 5 } })] } (fun s => let ctx := 512; let t := 5; let k : Closing := { pkt := pk 1 1 1 [], graceEnd := some 5 }; decide (ctx ≤ 512) && decide ((ctxOf s ctx).closing = some k) && decide (k.graceEnd = some t)) = true ∧
    holdsIn { live with sched.leases := [(0, { owner := 1, limit := 1 })] } (fun s => let lease := 0; let l : Lease := { owner := 1, limit := 1 }; decide (tget s.sched.leases lease = some l) && decide (l.limit ≠ 0) && decide (leaseWaits s l = false) && decide (l.owner ≠ 0) && decide (s.safe.takeover ≠ some true)) = true ∧
    holdsIn { live with sched.leases := [(0, { limit := 1 })] } (fun s => let lease := 0; let l : Lease := { limit := 1 }; decide (tget s.sched.leases lease = some l) && decide (l.limit ≠ 0) && decide (leaseWaits s l = false) && decide (l.owner = 0) && decide (s.safe.takeover ≠ some true)) = true ∧
    holdsIn { live with store.scrubs := [(512, 1)] } (fun s => let ctx := 512; let side := 1; decide (ctx ≤ 512) && decide (s.store.scrubs.head? = some (ctx, side))) = true ∧
    holdsIn { live with ctxs := live.ctxs ++ [(512, { state := .opened, queues := [(7, {})] })] } (fun _ => let ctx := 512; let gang : Option Nat := some 16; let channel : Option Nat := some 31; decide (ctx ≤ 512) && decide (gang.getD 0 ≤ 16) && decide (channel.getD 0 ≤ 31) && decide (ctx ≠ 0)) = true ∧
    holdsIn { live with sched.gangs := [(16, { kind := 1, owner := 1, cur := some { run := 1, phase := .executing } })], sched.runs := [(1, { kind := .packet (pk 0 1 1 []), ctx := 0, state := .committed })] } (fun s => let x := (gangOf s 16).getD {}; let c := x.cur.getD {}; let g := 16; let channel : Option Nat := none; decide (g ≤ 16) && decide (channel.getD 0 ≤ 31) && decide (gangOf s g = some x) && decide (x.cur = some c) && decide (((runOf s c.run).map fun r => r.ctx == 0).getD false = true)) = true ∧
    holdsIn { live with store.dma := [(31, { pkt := pk 0 1 1 [] })] } (fun s => let n := 31; let d : Dma := { pkt := pk 0 1 1 [] }; decide (n ≤ 31) && decide (tget s.store.dma n = some d) && decide (d.ctx = 0)) = true ∧
    holdsIn { live with cmd.flights := [{ pkt := pk 0 1 1 [] }] } (fun s => let tag := 7; let f : Flight := { pkt := pk 0 1 1 [] }; decide ((inFlight s 0).find? (fun f => pTag f.pkt == tag) = some f)) = true := by
  refine ⟨?_, ?_, ?_, ?_, ?_, ?_, ?_, ?_⟩ <;> decide +kernel

/-- Each clause of LegEventsComplete that has hypotheses is met in some state. -/
theorem witness_LegEventsComplete :
    holdsIn { live with sched.gangs := [(16, { kind := 1, owner := 1, cur := some { run := 1, phase := .executing } })], sched.runs := [(1, { kind := .packet (pk 1 1 1 []), ctx := 1, state := .committed, snap := some { legs := [fit 64 []] } })] } (fun s => let e : LegEnd := { gang := 16, errs := [], fail := .none, writes := [], notes := 0, stats := [], cells := [], emptyRows := [], unchecked := [], elapsed := 0 }; let x := (gangOf s 16).getD {}; let c := x.cur.getD {}; let r := (runOf s c.run).getD { kind := .bound 0 }; let p := runPlan s r; let leg := legOf p r.counter; let s1 := elapseTo (c.startAt + e.elapsed) s; decide (e.gang ≤ 16) && decide (gangOf s e.gang = some x) && decide (x.cur = some c) && decide (c.phase = .executing) && decide (runOf s c.run = some r) && decide (aboveScaled s1 e.gang leg (num leg 4 4) e.elapsed = false) && decide (failCode e.fail = none) && decide (legBad s1 r p leg = []) && decide (legWaits s r = false)) = true ∧
    holdsIn { live with sched.gangs := [(16, { kind := 1, owner := 1, cur := some { run := 1, phase := .executing } })], sched.runs := [(1, { kind := .packet (pk 1 1 1 []), ctx := 1, state := .committed, snap := some { legs := [fit 64 []] } })] } (fun s => let e : LegEnd := { gang := 16, errs := [], fail := .none, writes := [], notes := 0, stats := [], cells := [], emptyRows := [], unchecked := [], elapsed := 1 }; let x := (gangOf s 16).getD {}; let c := x.cur.getD {}; let r := (runOf s c.run).getD { kind := .bound 0 }; let p := runPlan s r; let leg := legOf p r.counter; let s1 := elapseTo (c.startAt + e.elapsed) s; decide (e.gang ≤ 16) && decide (gangOf s e.gang = some x) && decide (x.cur = some c) && decide (c.phase = .executing) && decide (runOf s c.run = some r) && decide (aboveScaled s1 e.gang leg (num leg 4 4) e.elapsed = true)) = true ∧
    holdsIn { live with sched.gangs := [(16, { kind := 1, owner := 1, cur := some { run := 1, phase := .executing } })], sched.runs := [(1, { kind := .packet (pk 1 1 1 []), ctx := 1, state := .committed, snap := some { legs := [fit 64 []] } })] } (fun s => let e : LegEnd := { gang := 16, errs := [], fail := .internal, writes := [], notes := 0, stats := [], cells := [], emptyRows := [], unchecked := [], elapsed := 0 }; let code := Code.eInternal; let x := (gangOf s 16).getD {}; let c := x.cur.getD {}; let r := (runOf s c.run).getD { kind := .bound 0 }; let p := runPlan s r; let leg := legOf p r.counter; let s1 := elapseTo (c.startAt + e.elapsed) s; decide (e.gang ≤ 16) && decide (gangOf s e.gang = some x) && decide (x.cur = some c) && decide (c.phase = .executing) && decide (runOf s c.run = some r) && decide (aboveScaled s1 e.gang leg (num leg 4 4) e.elapsed = false) && decide (failCode e.fail = some code) && decide (legWaits s r = false)) = true ∧
    holdsIn { live with sched.gangs := [(16, { kind := 1, owner := 1, cur := some { run := 1, phase := .executing } })], sched.runs := [(1, { kind := .packet (pk 1 1 1 []), ctx := 1, state := .committed, snap := some (planOfCont testPlan 1) })], ctxs := [(1, { state := .opened, pages := [(1, { read := true, write := true, host := true })] })], link.hold := .linkReset false } (fun s => let e : LegEnd := { gang := 16, errs := [], fail := .none, writes := [], notes := 0, stats := [], cells := [], emptyRows := [], unchecked := [], elapsed := 0 }; let x := (gangOf s 16).getD {}; let c := x.cur.getD {}; let r := (runOf s c.run).getD { kind := .bound 0 }; let p := runPlan s r; let leg := legOf p r.counter; let s1 := elapseTo (c.startAt + e.elapsed) s; decide (e.gang ≤ 16) && decide (gangOf s e.gang = some x) && decide (x.cur = some c) && decide (c.phase = .executing) && decide (runOf s c.run = some r) && decide (aboveScaled s1 e.gang leg (num leg 4 4) e.elapsed = false) && decide (legWaits s r = true)) = true ∧
    holdsIn { live with sched.gangs := [(16, { kind := 1, owner := 1, cur := some { run := 1, phase := .stalled } })], sched.runs := [(1, { kind := .packet (pk 1 1 1 []), ctx := 1, state := .committed, snap := some { legs := [fit 64 []] } })] } (fun s => let gang := 16; let stall := 0; let x := (gangOf s 16).getD {}; let c := x.cur.getD {}; let r := (runOf s c.run).getD { kind := .bound 0 }; let leg := legOf (runPlan s r) r.counter; let s1 := elapseTo (c.commitAt + stall) s; decide (gang ≤ 16) && decide (gangOf s gang = some x) && decide (x.cur = some c) && decide (runOf s c.run = some r) && decide (c.phase = .stalled) && decide (aboveScaled s1 gang leg (num leg 12 4) stall = false) && decide (legWaits s r = false) && decide (c.attempt ≠ 0 ∨ (ctxOf s r.ctx).state ≠ .closing)) = true ∧
    holdsIn { live with sched.gangs := [(1, { kind := 1, owner := 1, cur := some { run := 1, phase := .executing } })], sched.runs := [(1, { kind := .packet (pk 1 1 1 []), ctx := 1, gang := 1, state := .committed }), (2, { kind := .packet (pk 1 1 1 []), ctx := 1, gang := 1, snap := some { legs := [fit 64 []] } })] } (fun s => let gang := 1; let x := (gangOf s 1).getD {}; let c := x.cur.getD {}; let r := (runOf s c.run).getD { kind := .bound 0 }; let nqb := ((pickLeg (predicted s gang) gang).1).getD (0, { kind := .bound 0 }, 0); let n := nqb.1; let q := nqb.2.1; let b := nqb.2.2; decide (gang ≤ 16) && decide (gangOf s gang = some x) && decide (x.cur = some c) && decide (runOf s c.run = some r) && decide (c.phase = .executing) && decide ((pickLeg (predicted s gang) gang).1 = some (n, q, b))) = true ∧
    holdsIn { live with sched.gangs := [(16, { kind := 1, owner := 1, cur := some { run := 1, phase := .stalled } })], sched.runs := [(1, { kind := .packet (pk 1 1 1 []), ctx := 1, state := .committed, snap := some { legs := [fit 64 []] } })] } (fun s => let gang := 16; let stall := 1; let x := (gangOf s 16).getD {}; let c := x.cur.getD {}; let r := (runOf s c.run).getD { kind := .bound 0 }; let leg := legOf (runPlan s r) r.counter; let s1 := elapseTo (c.commitAt + stall) s; decide (gang ≤ 16) && decide (gangOf s gang = some x) && decide (x.cur = some c) && decide (runOf s c.run = some r) && decide (c.phase = .stalled) && decide (aboveScaled s1 gang leg (num leg 12 4) stall = true)) = true ∧
    holdsIn { live with sched.gangs := [(16, { kind := 1, owner := 1, cur := some { run := 1, phase := .stalled } })], sched.runs := [(1, { kind := .packet (pk 1 1 1 []), ctx := 1, state := .committed, snap := some { legs := [fit 64 []] } })], ctxs := [(1, { state := .closing })] } (fun s => let gang := 16; let stall := 0; let x := (gangOf s 16).getD {}; let c := x.cur.getD {}; let r := (runOf s c.run).getD { kind := .bound 0 }; let leg := legOf (runPlan s r) r.counter; let s1 := elapseTo (c.commitAt + stall) s; decide (gang ≤ 16) && decide (gangOf s gang = some x) && decide (x.cur = some c) && decide (runOf s c.run = some r) && decide (c.phase = .stalled) && decide (aboveScaled s1 gang leg (num leg 12 4) stall = false) && decide ((legWaits s r || (c.attempt == 0 && (ctxOf s r.ctx).state == .closing)) = true)) = true ∧
    holdsIn { live with sched.gangs := [(16, { kind := 1, owner := 1, cur := some { run := 1, phase := .stalled } })], sched.runs := [(1, { kind := .packet (pk 1 1 1 []), ctx := 1, state := .committed })] } (fun s => let gang := 16; let x := (gangOf s 16).getD {}; let c := x.cur.getD {}; let r := (runOf s c.run).getD { kind := .bound 0 }; decide (gang ≤ 16) && decide (gangOf s gang = some x) && decide (x.cur = some c) && decide (runOf s c.run = some r) && decide (c.phase = .stalled)) = true ∧
    holdsIn { live with sched.gangs := [(16, { kind := 1, owner := 1, cur := some { run := 1, phase := .executing } })], sched.runs := [(1, { kind := .packet (pk 1 1 1 []), ctx := 1, state := .committed })] } (fun s => let gang := 16; let x := (gangOf s 16).getD {}; let c := x.cur.getD {}; let r := (runOf s c.run).getD { kind := .bound 0 }; decide (gang ≤ 16) && decide (gangOf s gang = some x) && decide (x.cur = some c) && decide (runOf s c.run = some r) && decide (c.phase = .executing)) = true ∧
    holdsIn { live with models.kvPages := [(1048575, { state := 3 })] } (fun s => let page := 1048575; let q : KvPage := { state := 3 }; decide (page < 1048576) && decide (tget s.models.kvPages page = some q) && decide (reclaimable s q = true)) = true ∧
    holdsIn { live with sched.gangs := [(16, { kind := 1, owner := 1, cur := some { run := 1, phase := .executing } })], sched.runs := [(1, { kind := .packet (pk 1 1 1 []), ctx := 1, state := .committed, snap := some { legs := [patch (fit 240 [1, 0, 2]) 24 [3]] } })] } (fun s => let gang := 16; let stripe := 1; let x := (gangOf s 16).getD {}; let c := x.cur.getD {}; let r := (runOf s c.run).getD { kind := .bound 0 }; let p := runPlan s r; let leg := legOf p r.counter; decide (gang ≤ 16) && decide (gangOf s gang = some x) && decide (x.cur = some c) && decide (runOf s c.run = some r) && decide (c.phase = .executing) && decide (num leg 24 1 = 3) && decide (stripe < num leg 2 2)) = true ∧
    holdsIn { live with sched.gangs := [(16, { kind := 1, owner := 1, cur := some { run := 1, phase := .executing } })], sched.runs := [(1, { kind := .packet (pk 1 1 1 []), ctx := 1, state := .committed, snap := some { legs := [patch (fit 240 [1]) 64 [4]], descs := [[0, 1]] }, step := some { cell := some 0x10000 } })], store.mem := memWrite [] 0x11000004 [1] } (fun s => let stage := 0; let x := (gangOf s 16).getD {}; let c := x.cur.getD {}; let r := (runOf s c.run).getD { kind := .bound 0 }; let p := runPlan s r; let sts := stagesOf (legOf p r.counter); let steps := match r.step.bind StepInfo.cell with | some a => num (vread s r.ctx (a + 4) 2) 0 2 | none => 0; let done := fun i => (tget x.stages i).getD 0; decide ((sts.all fun st => num st 0 1 == 4 && (num (descOf p st) 1 1).testBit 0) = true) && decide (stage < sts.length) && decide (done stage < steps) && decide ((stage = 0 ∨ done stage < done (stage - 1)))) = true ∧
    holdsIn { live with sched.panels := [(34, { scrub := true })] } (fun s => let panel := 34; decide (panel ≤ 34) && decide ((panelOf s panel).scrub = true)) = true := by
  refine ⟨?_, ?_, ?_, ?_, ?_, ?_, ?_, ?_, ?_, ?_, ?_, ?_, ?_, ?_⟩ <;> decide +kernel

/-- Each clause of MemoryEventsComplete that has hypotheses is met in some state. -/
theorem witness_MemoryEventsComplete :
    holdsIn { live with store.dma := [(30, { pkt := pk 1 1 1 [] })] } (fun s => let channel := 30; let d : Dma := { pkt := pk 1 1 1 [] }; let outcome := Done.ok; decide (channel ≤ 30) && decide (tget s.store.dma channel = some d) && decide (held s = false ∨ dmaHost s d = false) && decide (dmaBad s d.pkt = []) && decide (doneCode outcome = none) && decide (keeperOn s = true)) = true ∧
    holdsIn { live with store.dma := [(30, { pkt := pk 1 0x0204 3 [(16, 8, 0x10000), (24, 8, 0x20000), (32, 8, 16)], ctx := 1 })], store.words := [(0x1100000, wordEnc 0 0x1100000 ^^^ 3)] } (fun s => let channel := 30; let d : Dma := (tget s.store.dma 30).getD { pkt := pk 1 1 1 [] }; let outcome := Done.ok; let w := (dmaBad s d.pkt).headD 0; let ws := (dmaBad s d.pkt).tail; decide (channel ≤ 30) && decide (tget s.store.dma channel = some d) && decide (held s = false ∨ dmaHost s d = false) && decide (dmaBad s d.pkt = w :: ws) && decide (doneCode outcome = none) && decide (keeperOn s = true)) = true ∧
    holdsIn { live with store.dma := [(30, { pkt := pk 1 1 1 [] })] } (fun s => let channel := 30; let d : Dma := { pkt := pk 1 1 1 [] }; let outcome := Done.lowerTier; let code := Code.eLowerTier; decide (channel ≤ 30) && decide (tget s.store.dma channel = some d) && decide (held s = false ∨ dmaHost s d = false) && decide (doneCode outcome = some code)) = true ∧
    holdsIn { live with ctxs := [(1, { state := .opened, pages := [(1, { read := true, write := true, host := true })] })], link.hold := .linkReset false, store.dma := [(30, { pkt := pk 1 0x0204 3 [(16, 8, 0x10000), (24, 8, 0x20000), (32, 8, 16)], ctx := 1 })] } (fun s => let channel := 30; let d : Dma := { pkt := pk 1 0x0204 3 [(16, 8, 0x10000), (24, 8, 0x20000), (32, 8, 16)], ctx := 1 }; decide (channel ≤ 30) && decide (tget s.store.dma channel = some d) && decide (held s = true) && decide (dmaHost s d = true)) = true ∧
    holdsIn { live with store.retiring := some {}, store.objs := [(1, { ctx := 1, dram := [(dramBase + 0x800000) / 65536] })], store.frames := [((dramBase + 0x800000) / 65536, 1)] } (fun s => let r : Retiring := {}; let x := (nextMigrate s r.channel).getD (.object 0, 0, 0); let owner := x.1; let i := x.2.1; let f := x.2.2; decide (s.safe.safeState = false ∨ s.safe.moveDone = false) && decide (s.store.retiring = some r) && decide (nextMigrate { s with safe.moveDone := s.safe.safeState } r.channel = some (owner, i, f))) = true ∧
    holdsIn { live with store.moves := [{ obj := 1, target := 1, running := true }], store.objs := [(1, { ctx := 1, va := 0x10000, mstate := 2, store := [3], tier := 0 })], ctxs := live.ctxs.map fun e => if e.1 = 1 then (1, { e.2 with pages := [(1, { read := true, write := true, frame := 0x1100 })] }) else e } (fun s => let object := 1; let m := (moveOf s object).getD {}; let o := (tget s.store.objs object).getD {}; let i := (nextPage s o (stepTier o m.target)).getD 0; decide (s.safe.safeState = false ∨ s.safe.moveDone = false) && decide ((s.store.retiring.bind fun r => (nextMigrate { s with safe.moveDone := s.safe.safeState } r.channel).map fun x => (r, x)) = none) && decide (engineObj { s with safe.moveDone := s.safe.safeState } = some object) && decide (moveOf s object = some m) && decide (tget s.store.objs object = some o) && decide (nextPage { s with safe.moveDone := s.safe.safeState } o (stepTier o m.target) = some i)) = true ∧
    holdsIn { live with store.moves := [{ obj := 1, target := 1, running := true }], store.objs := [(1, { ctx := 1, va := 0x10000, mstate := 2, pages := 0 })] } (fun s => let object := 1; let m := (moveOf s object).getD {}; let o := (tget s.store.objs object).getD {}; decide (s.safe.safeState = false ∨ s.safe.moveDone = false) && decide ((s.store.retiring.bind fun r => (nextMigrate { s with safe.moveDone := s.safe.safeState } r.channel).map fun x => (r, x)) = none) && decide (engineObj { s with safe.moveDone := s.safe.safeState } = some object) && decide (moveOf s object = some m) && decide (tget s.store.objs object = some o) && decide (nextPage { s with safe.moveDone := s.safe.safeState } o (stepTier o m.target) = none)) = true ∧
    holdsIn { live with safe.safeState := true, safe.moveDone := true } (fun s => decide (s.safe.safeState = true) && decide (s.safe.moveDone = true)) = true ∧
    holdsIn live (fun s => decide (s.safe.safeState = false)) = true ∧
    holdsIn { live with safe.safeState := true } (fun s => decide (s.safe.safeState = true)) = true ∧
    holdsIn { live with store.cold := [{}] } (fun s => let c : ColdOp := {}; decide (oldestIo s = some c) && decide (ioWaits c s = false)) = true ∧
    holdsIn { live with store.moves := [{ obj := 1, target := 1, running := true }], store.objs := [(1, { ctx := 1, va := 0x10000, mstate := 2 })], store.cold := [{ obj := some 1 }] } (fun s => let object := 1; let m := (moveOf s object).getD {}; let o := (tget s.store.objs object).getD {}; let c : ColdOp := { obj := some 1 }; let ok := false; decide (object ≠ 0) && decide (s.store.cold.find? (fun c => c.obj == some object) = some c) && decide (tget s.store.objs object = some o) && decide (moveOf s object = some m) && decide (ok = false ∨ m.freeing.isSome = true)) = true ∧
    holdsIn { live with store.moves := [{ obj := 1, target := 1, running := true }], store.objs := [(1, { ctx := 1, va := 0x10000, mstate := 2, pages := 2 })], store.cold := [{ obj := some 1 }] } (fun s => let object := 1; let m := (moveOf s object).getD {}; let o := (tget s.store.objs object).getD {}; let c : ColdOp := { obj := some 1 }; decide (object ≠ 0) && decide (s.store.cold.find? (fun c => c.obj == some object) = some c) && decide (tget s.store.objs object = some o) && decide (moveOf s object = some m) && decide (m.freeing = none) && decide (c.done + 1 < o.pages) && decide (m.stopping = false)) = true ∧
    holdsIn { live with store.moves := [{ obj := 1, target := 1, running := true }], store.objs := [(1, { ctx := 1, va := 0x10000, mstate := 2 })], store.cold := [{ obj := some 1 }] } (fun s => let object := 1; let m := (moveOf s object).getD {}; let o := (tget s.store.objs object).getD {}; let c : ColdOp := { obj := some 1 }; decide (object ≠ 0) && decide (s.store.cold.find? (fun c => c.obj == some object) = some c) && decide (tget s.store.objs object = some o) && decide (moveOf s object = some m) && decide (m.freeing = none) && decide (o.pages ≤ c.done + 1)) = true ∧
    holdsIn { live with store.moves := [{ obj := 1, target := 1, running := true, stopping := true }], store.objs := [(1, { ctx := 1, va := 0x10000, mstate := 2, pages := 2 })], store.cold := [{ obj := some 1 }] } (fun s => let object := 1; let m := (moveOf s object).getD {}; let o := (tget s.store.objs object).getD {}; let c : ColdOp := { obj := some 1 }; decide (object ≠ 0) && decide (s.store.cold.find? (fun c => c.obj == some object) = some c) && decide (tget s.store.objs object = some o) && decide (moveOf s object = some m) && decide (m.freeing = none) && decide (c.done + 1 < o.pages) && decide (m.stopping = true)) = true ∧
    holdsIn { live with store.cold := [{}] } (fun s => let c : ColdOp := {}; decide (oldestIo s = some c) && decide (ioWaits c s = false)) = true ∧
    holdsIn { live with store.cold := [{ obj := some 1 }] } (fun s => let c : ColdOp := { obj := some 1 }; let object := 1; decide (object ≠ 0) && decide (s.store.cold.find? (fun c => c.obj == some object) = some c)) = true ∧
    holdsIn { live with store.retiring := some {} } (fun s => let r : Retiring := {}; decide (s.store.retiring = some r) && decide (nextMigrate s r.channel = none)) = true ∧
    holdsIn { live with store.words := [(0x17FFFF, wordEnc 0 0x17FFFF ^^^ 1)] } (fun s => let word := 0x17FFFF; decide (word * 16 < 0x1800000) && decide (dramChannel (word * 16) = none) && decide (addrReserved (word * 16) = false) && decide (wordAt s (word * 16) = .corrected)) = true ∧
    holdsIn live (fun _ => let word := 0x1800000 / 16; decide (word * 16 < 2 ^ 40) && decide (addrReserved (word * 16) = true)) = true := by
  refine ⟨?_, ?_, ?_, ?_, ?_, ?_, ?_, ?_, ?_, ?_, ?_, ?_, ?_, ?_, ?_, ?_, ?_, ?_, ?_, ?_⟩ <;> decide +kernel

/-- Each clause of CameraEventsComplete that has hypotheses is met in some state. -/
theorem witness_CameraEventsComplete :
    holdsIn { live with cams.ports := [(11, { state := 2, port := some {} })] } (fun s => let port := 11; decide (port ≤ 11) && decide (camReceives s port = true)) = true ∧
    holdsIn { live with cams.ports := [(11, { state := 2, port := some {} })] } (fun s => let port := 11; let vc := 1; let ecc := CsiEcc.good; decide (port ≤ 11) && decide (camReceives s port = true) && decide (ecc ≠ .bad) && decide (vc ≠ ((camOf s port).port.getD {}).vc)) = true ∧
    holdsIn { live with cams.ports := [(11, { state := 2, port := some {} })] } (fun s => let port := 11; let vc := 0; let ecc := CsiEcc.good; decide (port ≤ 11) && decide (camReceives s port = true) && decide (vc = ((camOf s port).port.getD {}).vc) && decide (ecc ≠ .bad) && decide ((camOf (endLines port fTruncated s) port).state = 2)) = true ∧
    holdsIn { live with cams.ports := [(11, { state := 2, port := some {} })] } (fun s => let l : CsiLine := { port := 11, vc := 0, dt := 0, ecc := .bad, payload := [], crcOk := true, pixels := 0, gap := 0 }; decide (l.port ≤ 11) && decide (camReceives s l.port = true) && decide (l.ecc = .bad)) = true ∧
    holdsIn { live with cams.ports := [(11, { state := 2, port := some { embedded := true } })] } (fun s => let l : CsiLine := { port := 11, vc := 0, dt := 18, ecc := .good, payload := [], crcOk := true, pixels := 0, gap := 0 }; decide (l.port ≤ 11) && decide (camReceives s l.port = true) && decide (l.ecc ≠ .bad) && decide (l.vc = ((camOf s l.port).port.getD {}).vc) && decide (l.dt = 0x12) && decide (((camOf s l.port).port.getD {}).embedded = true)) = true ∧
    holdsIn { live with cams.ports := [(11, { state := 2, port := some {} })] } (fun s => let l : CsiLine := { port := 11, vc := 0, dt := 0, ecc := .good, payload := [], crcOk := true, pixels := 0, gap := 0 }; decide (l.port ≤ 11) && decide (camReceives s l.port = true) && decide (l.ecc ≠ .bad) && decide (l.vc = ((camOf s l.port).port.getD {}).vc) && decide (¬(l.dt = 0x12 ∧ ((camOf s l.port).port.getD {}).embedded = true)) && decide (l.dt = ((camOf s l.port).port.getD {}).dt)) = true ∧
    holdsIn { live with cams.ports := [(11, { state := 2, port := some {} })] } (fun s => let l : CsiLine := { port := 11, vc := 0, dt := 1, ecc := .good, payload := [], crcOk := true, pixels := 0, gap := 0 }; decide (l.port ≤ 11) && decide (camReceives s l.port = true) && decide (l.ecc ≠ .bad) && decide (l.vc = ((camOf s l.port).port.getD {}).vc) && decide (¬(l.dt = 0x12 ∧ ((camOf s l.port).port.getD {}).embedded = true)) && decide (l.dt ≠ ((camOf s l.port).port.getD {}).dt)) = true ∧
    holdsIn { live with cams.ports := [(11, { state := 2, port := some {} })] } (fun s => let port := 11; let vc := 0; decide (port ≤ 11) && decide (camReceives s port = true) && decide (vc = ((camOf s port).port.getD {}).vc)) = true ∧
    holdsIn { live with cams.ports := [(11, { state := 2, port := some {} })] } (fun s => let port := 11; let vc := 0; decide (port ≤ 11) && decide (camReceives s port = true) && decide (vc = ((camOf s port).port.getD {}).vc)) = true ∧
    holdsIn { live with cams.ports := [(11, { state := 2, port := some {} })] } (fun s => let port := 11; decide (port ≤ 11) && decide (camReceives s port = true)) = true ∧
    holdsIn { live with cams.ports := [(11, { state := 2, port := some {}, finishing := [{}] })] } (fun s => let port := 11; let f : CamFrame := {}; let rest : List CamFrame := []; decide (port ≤ 11) && decide ((camOf s port).finishing = f :: rest)) = true ∧
    holdsIn { live with cams.ports := [(11, { state := 2, port := some {}, frame := some {} })] } (fun s => let port := 11; let f : CamFrame := {}; decide (port ≤ 11) && decide ((camOf s port).finishing = []) && decide ((camOf s port).frame = some f)) = true ∧
    holdsIn { live with cams.ports := [(11, { state := 2, port := some { maxUs := 1 } })] } (fun s => let port := 11; decide (port ≤ 11) && decide (camReceives s port = true) && decide (((camOf s port).port.getD {}).maxUs ≠ 0)) = true ∧
    holdsIn { live with cams.ports := [(11, { state := 2, port := some {} })], cams.gate := true } (fun s => let port := 11; decide (port ≤ 11) && decide (s.cams.gate = true) && decide ((camOf s port).state = 2) && decide ((camOf s port).sync = none)) = true ∧
    holdsIn live (fun s => decide (s.cams.pin = false)) = true ∧
    holdsIn { live with cams.pin := true } (fun s => decide (s.cams.pin = true)) = true := by
  refine ⟨?_, ?_, ?_, ?_, ?_, ?_, ?_, ?_, ?_, ?_, ?_, ?_, ?_, ?_, ?_, ?_⟩ <;> decide +kernel

/-- Each clause of AudioEventsComplete that has hypotheses is met in some state. -/
theorem witness_AudioEventsComplete :
    holdsIn { live with audio.i2s := [(1, { play := some { running := true } })] } (fun s => let port := 1; let g : Play := { running := true }; decide (port ≤ 1) && decide ((i2sOf s port).play = some g) && decide (g.running = true) && decide ((i2sOf s port).lost = false) && decide (s.safe.safeState = false) && decide (g.last = false) && decide ((held s && rangeHost s (i2sOf s port).owner g.addr 64) = false)) = true ∧
    holdsIn { live with audio.i2s := [(1, { play := some { running := true, last := true } })] } (fun s => let port := 1; let g : Play := { running := true, last := true }; decide (port ≤ 1) && decide ((i2sOf s port).play = some g) && decide (g.running = true) && decide (g.last = true)) = true ∧
    holdsIn { live with audio.i2s := [(1, { target := true })] } (fun s => let port := 1; decide (port ≤ 1) && decide ((i2sOf s port).target = true) && decide ((i2sOf s port).lost = false)) = true ∧
    holdsIn { live with audio.i2s := [(1, { lost := true })] } (fun s => let port := 1; decide (port ≤ 1) && decide ((i2sOf s port).lost = true)) = true ∧
    holdsIn live (fun s => decide (s.audio.pin = false)) = true ∧
    holdsIn { live with audio.pin := true } (fun s => decide (s.audio.pin = true)) = true := by
  refine ⟨?_, ?_, ?_, ?_, ?_, ?_⟩ <;> decide +kernel

/-- Each clause of TimekeeperEventsComplete that has hypotheses is met in some state. -/
theorem witness_TimekeeperEventsComplete :
    holdsIn { live with net.evs := [(31, { ctl := 0x81 })] } (fun s => let channel := 31; decide (channel ≤ 31) && decide (keeperOn s = true) && decide (evMode (evOf s channel) = 1) && decide (evArm (evOf s channel) = true)) = true ∧
    holdsIn { live with net.evs := [(31, { ctl := 2 ||| (1 <<< 2) ||| (3 <<< 3) ||| (1 <<< 4), lastEdge := some 0 })] } (fun s => let channel := 31; let rising := true; let time := 39; decide (channel ≤ 31) && decide (keeperOn s = true) && decide (takesEdge (evOf s channel) rising = true) && decide (edgeLost (evOf s channel) time = true)) = true ∧
    holdsIn { live with net.evs := [(31, { ctl := 2 ||| (1 <<< 2) ||| (3 <<< 3) ||| (1 <<< 4), lastEdge := some 0 })] } (fun s => let channel := 31; let rising := true; let time := 40; decide (channel ≤ 31) && decide (keeperOn s = true) && decide (takesEdge (evOf s channel) rising = true) && decide (edgeLost (evOf s channel) time = false)) = true ∧
    holdsIn { live with net.eths := [(1, { enable := true, up := true })], time.domB := { state := 3, ports := 2 } } (fun s => let m : SyncMsg := { domain := 1, port := 1, domainTime := 0, interval := 1, receiptTimeout := 1 }; decide (m.domain ≤ 1) && decide (m.port ≤ 1) && decide (syncFollowed s m.domain m.port = true)) = true ∧
    holdsIn { live with net.eths := [(1, { enable := true, up := true })], time.domB := { state := 3, ports := 3, heard := [(0, 0, 0)] } } (fun s => let m : SyncMsg := { domain := 1, port := 1, domainTime := 0, interval := 1, receiptTimeout := 1 }; decide (m.domain ≤ 1) && decide (m.port ≤ 1) && decide (syncFollowed s m.domain m.port = false)) = true ∧
    holdsIn { live with net.eths := [(1, { enable := true, up := true })], time.domB := { state := 3, ports := 2 } } (fun s => let domain := 1; let port := 1; decide (domain ≤ 1) && decide (port ≤ 1) && decide (gptpHears s domain port = true)) = true ∧
    holdsIn { live with net.eths := [(1, { enable := true, up := true })], time.domB := { state := 3, ports := 2 } } (fun s => let port := 1; decide (port ≤ 1) && decide (keeperOn s = true) && decide ((ethOf s port).up = true)) = true ∧
    holdsIn { live with net.eths := [(1, { enable := true, up := true })], time.domB := { state := 3, ports := 2 } } (fun s => let port := 1; decide (port ≤ 1) && decide (keeperOn s = true) && decide ((ethOf s port).up = true)) = true ∧
    holdsIn { live with net.eths := [(1, { enable := true, up := true })], time.domB := { state := 3, ports := 2 } } (fun s => let domain := 1; decide (domain ≤ 1) && decide (2 ≤ (domOf s domain).state)) = true ∧
    holdsIn { live with time.revertive := true, time.sel := 1, time.domA := { state := 3 } } (fun s => decide (s.time.revertive = true) && decide (s.time.forced = false) && decide (s.time.sel < 2) && decide (s.time.sel ≠ preferred s) && decide (domLocked s (preferred s) = true)) = true ∧
    holdsIn { live with net.evs := [(31, { pulse := true })] } (fun s => let n := 31; decide (n ≤ 31) && decide ((evOf s n).pulse = true)) = true ∧
    holdsIn { live with cams.ports := [(11, { fsync := true })] } (fun s => let n := 11; decide (n ≤ 11) && decide ((camOf s n).fsync = true)) = true := by
  refine ⟨?_, ?_, ?_, ?_, ?_, ?_, ?_, ?_, ?_, ?_, ?_, ?_⟩ <;> decide +kernel

/-- Each clause of NetworkEventsComplete that has hypotheses is met in some state. -/
theorem witness_NetworkEventsComplete :
    holdsIn { live with net.eths := [(1, { enable := true, up := true })] } (fun s => let f : EthFrame := { port := 1, kind := .udp, dst := List.replicate 6 0xFF, tag := none, length := 1522, srcIp := [], srcUdp := 0, dstIp := [], dstUdp := 0, payload := [], time := 0 }; decide (f.port ≤ 1) && decide (ethLive s f.port = true) && decide (f.kind ≠ .badFcs) && decide (frameFits (ethOf (elapseTo f.time s) f.port) f = true)) = true ∧
    holdsIn { live with net.eths := [(1, { enable := true, up := true })] } (fun s => let f : EthFrame := { port := 1, kind := .badFcs, dst := List.replicate 6 0xFF, tag := none, length := 64, srcIp := [], srcUdp := 0, dstIp := [], dstUdp := 0, payload := [], time := 0 }; decide (f.port ≤ 1) && decide (ethLive s f.port = true) && decide (f.kind = .badFcs)) = true ∧
    holdsIn { live with net.eths := [(1, { enable := true, up := true })] } (fun s => let f : EthFrame := { port := 1, kind := .udp, dst := List.replicate 6 0xFF, tag := none, length := 1523, srcIp := [], srcUdp := 0, dstIp := [], dstUdp := 0, payload := [], time := 0 }; decide (f.port ≤ 1) && decide (ethLive s f.port = true) && decide (f.kind ≠ .badFcs) && decide (frameFits (ethOf (elapseTo f.time s) f.port) f = false)) = true ∧
    holdsIn { live with net.eths := [(1, { enable := true, up := true, sending := [{ pkt := pk 1 1 1 [] }] })] } (fun s => let port := 1; let x : Sending := { pkt := pk 1 1 1 [] }; decide (port ≤ 1) && decide (ethLive s port = true) && decide ((ethOf s port).gptp = []) && decide (nextSending (ethOf s port) = some x)) = true ∧
    holdsIn { live with net.eths := [(1, { enable := true, up := true, gptp := [.pdelayResp 0] })] } (fun s => let port := 1; let g := GptpFrame.pdelayResp 0; let rest : List GptpFrame := []; decide (port ≤ 1) && decide (ethLive s port = true) && decide ((ethOf s port).gptp = g :: rest)) = true ∧
    holdsIn { live with net.eths := [(1, { enable := true })] } (fun s => let port := 1; decide (port ≤ 1) && decide ((ethOf s port).enable = true) && decide (chanRetired s 6 port = false) && decide (keeperOn s = true) && decide ((ethOf s port).up = false)) = true ∧
    holdsIn { live with net.eths := [(1, { enable := true, up := true })] } (fun s => let port := 1; decide (port ≤ 1) && decide ((ethOf s port).enable = true) && decide (chanRetired s 6 port = false) && decide (keeperOn s = true) && decide ((ethOf s port).up = true)) = true ∧
    holdsIn live (fun _ => let port := 1; decide (port ≤ 1)) = true ∧
    holdsIn live (fun _ => let m : GwMsg := { peer := 4095, session := 1, type := 2, counter := 1, authentic := true, data := [] }; decide (m.type = 2)) = true ∧
    holdsIn live (fun _ => let m : GwMsg := { peer := 4095, session := 1, type := 3, counter := 1, authentic := true, data := [] }; decide (m.type = 3)) = true ∧
    holdsIn live (fun _ => let m : GwMsg := { peer := 4095, session := 1, type := 4, counter := 1, authentic := true, data := [] }; decide (m.type = 4)) = true ∧
    holdsIn { live with net.gws := [(1, { peer := 4095, wire := 1, phase := 3 })] } (fun s => let m : GwMsg := { peer := 4095, session := 1, type := 7, counter := 1, authentic := true, data := [] }; let id := 1; decide (gwOpen m 7 s = some id)) = true ∧
    holdsIn { live with net.gws := [(1, { peer := 4095, wire := 1, phase := 3 })] } (fun s => let m : GwMsg := { peer := 4095, session := 1, type := 8, counter := 1, authentic := true, data := [] }; let id := 1; decide (gwOpen m 8 s = some id)) = true ∧
    holdsIn { live with net.gws := [(1, { peer := 4095, wire := 1, phase := 3 })] } (fun s => let m : GwMsg := { peer := 4095, session := 1, type := 1, counter := 1, authentic := true, data := [] }; let id := 1; decide (gwOpen m 1 s = some id)) = true ∧
    holdsIn { live with net.gws := [(1, { peer := 4095, wire := 1, phase := 3 })] } (fun s => let m : GwMsg := { peer := 4095, session := 1, type := 5, counter := 1, authentic := true, data := [] }; let id := 1; decide (gwOpen m 5 s = some id)) = true ∧
    holdsIn { live with net.gws := [(1, { peer := 4095, wire := 1, phase := 3 })] } (fun s => let m : GwMsg := { peer := 4095, session := 1, type := 6, counter := 1, authentic := true, data := [] }; let id := 1; decide (gwOpen m 6 s = some id)) = true ∧
    holdsIn { live with net.gwIn := [{ session := 1, id := 1, unacked := 1 }] } (fun s => let session := 1; let transfer := 1; let x : GwIn := { session := 1, id := 1, unacked := 1 }; decide (inOf s session transfer = some x) && decide (x.unacked ≠ 0)) = true ∧
    holdsIn { live with net.gwOut := [{ pkt := pk 1 1 1 [], session := 1, id := 1, phase := 2, sent := 1 }] } (fun s => let session := 1; let transfer := 1; let chunk := 0; let x : GwOut := { pkt := pk 1 1 1 [], session := 1, id := 1, phase := 2, sent := 1 }; decide (outOf s session transfer = some x) && decide (x.phase = 2) && decide (chunk < x.sent) && decide (x.acked ≤ chunk) && decide (¬(x.acked < chunk ∧ x.bitmap.testBit (chunk - x.acked - 1) = true))) = true ∧
    holdsIn { live with net.gwOut := [{ pkt := pk 1 1 1 [], session := 1, id := 1, phase := 2, sent := 1 }] } (fun s => let session := 1; let transfer := 1; let x : GwOut := { pkt := pk 1 1 1 [], session := 1, id := 1, phase := 2, sent := 1 }; decide (outOf s session transfer = some x)) = true ∧
    holdsIn { live with net.gwIn := [{ session := 1, id := 1 }] } (fun s => let session := 1; let transfer := 1; let x : GwIn := { session := 1, id := 1 }; decide (inOf s session transfer = some x)) = true ∧
    holdsIn { live with net.gws := [(1, {})] } (fun s => let session := 1; let q : GwSession := {}; decide (tget s.net.gws session = some q)) = true := by
  refine ⟨?_, ?_, ?_, ?_, ?_, ?_, ?_, ?_, ?_, ?_, ?_, ?_, ?_, ?_, ?_, ?_, ?_, ?_, ?_, ?_, ?_⟩ <;> decide +kernel

/-- Each clause of SafetyEventsComplete that has hypotheses is met in some state. -/
theorem witness_SafetyEventsComplete :
    holdsIn { live with sched.panels := [(33, { state := .inGang, gang := 1 })], sched.gangs := [(1, { kind := 1, awaiting := [(33, 0, 0)] })] } (fun s => let panel := 33; let n := 0; let pos := 0; let x : Gang := (gangOf s 1).getD {}; decide (panel ≤ 33) && decide (gangOf s (panelOf s panel).gang = some x) && decide (x.awaiting.find? (fun e => e.1 == panel) = some (panel, n, pos))) = true ∧
    holdsIn { live with sched.panels := [(33, { state := .inGang, gang := 1 })], sched.gangs := [(1, { kind := 1, awaiting := [(33, 0, 0)] })] } (fun s => let panel := 33; let n := 0; let pos := 0; let x : Gang := (gangOf s 1).getD {}; decide (panel ≤ 33) && decide (gangOf s (panelOf s panel).gang = some x) && decide (x.awaiting.find? (fun e => e.1 == panel) = some (panel, n, pos))) = true ∧
    holdsIn { live with safe.device := [(1, 5)] } (fun s => let t := 5; decide ((leakTimes s).min? = some t)) = true ∧
    holdsIn { live with sched.panels := [(33, { state := .inGang, gang := 1, powered := true })], sched.gangs := [(1, { kind := 1, panels := [33] })] } (fun s => let type := 1; let index := 33; decide (type = 1 ∧ index < 34 ∨ type = 2 ∧ index = 0) && decide (testedUnit s type index = true) && decide ((tgetD s.safe.tests (chKey type index)).degraded = false)) = true ∧
    holdsIn { live with cams.ports := [(11, { state := 2, port := some {}, finishing := [{}] })] } (fun s => let n := 11; let f : CamFrame := {}; decide (n ≤ 11) && decide ((camOf s n).finishing.find? (fun f => !f.late) = some f)) = true ∧
    holdsIn { live with sched.panels := [(33, { state := .inGang, gang := 16 })], sched.gangs := [(16, { kind := 1, panels := [33], cur := some {} })] } (fun s => let n := 33; let x := (gangOf s 16).getD {}; let c := x.cur.getD {}; decide (n ≤ 33) && decide ((panelOf s n).state = .inGang) && decide (gangOf s (panelOf s n).gang = some x) && decide ((panelOf s n).gang ≤ 16) && decide (x.cur = some c) && decide (x.panels.contains n = true)) = true ∧
    holdsIn { live with sched.gangs := [(0, { cur := some {} })] } (fun s => let x := (gangOf s 0).getD {}; let c := x.cur.getD {}; decide (gangOf s 0 = some x) && decide (x.cur = some c)) = true ∧
    holdsIn { live with store.dma := [(30, { pkt := pk 1 1 1 [] })] } (fun s => let n := 30; let d : Dma := { pkt := pk 1 1 1 [] }; decide (n ≤ 30) && decide (tget s.store.dma n = some d)) = true ∧
    holdsIn { live with net.eths := [(1, { enable := true, up := true, sending := [{ pkt := pk 1 1 1 [] }] })] } (fun s => let n := 1; let x : Sending := { pkt := pk 1 1 1 [] }; decide (n ≤ 1) && decide ((ethOf s n).sending.find? (fun x => !x.late) = some x) && decide ((ethOf s n).up = true)) = true ∧
    holdsIn live (fun _ => let ring := 7; decide (ring ≤ 7)) = true ∧
    holdsIn live (fun s => let role := PairRole.standby; decide (role = .standby) && decide (s.safe.standby = true)) = true ∧
    holdsIn { live with safe.standby := false } (fun s => let role := PairRole.safety; decide (role ≠ .standby) && decide (standbyFree s = false)) = true ∧
    holdsIn live (fun s => let role := PairRole.command; decide (role ≠ .standby) && decide (standbyFree s = true)) = true ∧
    holdsIn { live with safe.takeover := some true } (fun s => let safety := true; decide (s.safe.takeover = some safety)) = true ∧
    holdsIn { live with safe.standby := false } (fun s => decide (s.safe.takeover = none) && decide (s.safe.standby = false) && decide (s.safe.pairsOut = 0)) = true ∧
    holdsIn live (fun s => let rail := Rail.aon; let below50 := false; decide (s.boot.phase ≠ .reset) && decide (rail = .aon ∨ rail = .aonio ∨ (below50 = true ∧ rail ≠ .bal ∧ rail ≠ .ser ∧ rail ≠ .hser ∧ rail ≠ .phy18))) = true ∧
    holdsIn live (fun s => let rail := Rail.bal; let below50 := true; decide (s.boot.phase ≠ .reset) && decide (¬(rail = .aon ∨ rail = .aonio ∨ (below50 = true ∧ rail ≠ .bal ∧ rail ≠ .ser ∧ rail ≠ .hser ∧ rail ≠ .phy18)))) = true ∧
    holdsIn live (fun _ => let n := 33; decide (n ≤ 33)) = true ∧
    holdsIn live (fun _ => let n := 11; decide (n ≤ 11)) = true ∧
    holdsIn live (fun _ => let u := ClockUnit.memory; decide (u = .stateStore ∨ u = .memory)) = true ∧
    holdsIn { live with safe.tests := [(chKey 1 33, { running := true })] } (fun s => let type := 1; let index := 33; decide (type = 1 ∧ index < 34 ∨ type = 2 ∧ index = 0) && decide ((tgetD s.safe.tests (chKey type index)).running = true)) = true := by
  refine ⟨?_, ?_, ?_, ?_, ?_, ?_, ?_, ?_, ?_, ?_, ?_, ?_, ?_, ?_, ?_, ?_, ?_, ?_, ?_, ?_, ?_⟩ <;> decide +kernel

/-- Each clause of PowerEventsComplete that has hypotheses is met in some state. -/
theorem witness_PowerEventsComplete :
    holdsIn { live with power.enter := some (3, 5) } (fun s => let a := 3; let t := 5; decide (s.power.enter = some (a, t))) = true ∧
    holdsIn { live with power.floor := 2 } (fun s => decide (moorReady s = true) && decide (s.power.move = none)) = true ∧
    holdsIn { live with power.state := .sample, power.floor := 4, power.dormantS := 1 } (fun s => decide (s.power.state = .moor ∨ s.power.state = .sample) && decide (s.power.move = none) && decide (s.power.floor = 4) && decide (s.power.dormantS ≠ 0)) = true ∧
    holdsIn { live with power.state := .moor, power.i2c := 0x88 } (fun s => let address := 8; decide (wakeArmed s = true) && decide (s.power.i2c.testBit 7 = true) && decide (s.power.i2c % 128 = address)) = true ∧
    holdsIn { live with power.state := .moor, power.wakeFlags := 1 } (fun s => decide (wakeArmed s = true) && decide (s.power.wakeFlags.testBit 0 = true) && decide (s.link.wakeDriven = false)) = true ∧
    holdsIn live (fun s => let power := 100000; let s1 := takeSample power (elapseTo (nextGrid 1000000 s) s); let t := (throttle s1).getD default; decide (effCap s1 * 1000 < power) && decide (throttle s1 = some t)) = true ∧
    holdsIn { live with power.pt0 := 5 } (fun s => let power := 0; let roomed := 0; let s1 := takeSample power (elapseTo (nextGrid 1000000 s) s); let t := (unthrottle s1).getD default; decide (power ≤ effCap s1 * 1000) && decide (roomed + 1000 ≤ effCap s1 * 1000) && decide (unthrottle s1 = some t)) = true ∧
    holdsIn { live with power.pt0 := 5 } (fun s => let power := 60000; let roomed := 59001; let s1 := takeSample power (elapseTo (nextGrid 1000000 s) s); decide (power ≤ effCap s1 * 1000) && decide (effCap s1 * 1000 < roomed + 1000)) = true ∧
    holdsIn live (fun s => decide (keeperOn s = true)) = true ∧
    holdsIn { live with power.floor := 2, power.move := some { target := .moor } } (fun s => let m : PMove := { target := .moor }; decide (s.power.move = some m) && decide (s.power.state = .run ∨ s.power.state = .trim) && decide (m.target = .moor) && decide (moorReady s = true) && decide (s.reel.source ≠ 2)) = true ∧
    holdsIn { live with power.floor := 2, power.move := some { target := .moor }, reel.source := 2 } (fun s => let m : PMove := { target := .moor }; decide (s.power.move = some m) && decide (s.power.state = .run ∨ s.power.state = .trim) && decide (m.target = .moor) && decide (moorReady s = true) && decide (s.reel.source = 2)) = true ∧
    holdsIn { live with power.move := some { target := .trim } } (fun s => let m : PMove := { target := .trim }; decide (s.power.move = some m) && decide (s.power.state = .run ∨ s.power.state = .trim) && decide (¬(m.target = .moor ∧ moorReady s = true))) = true ∧
    holdsIn { live with power.state := .dormant, power.move := some { target := .run, origin := .dormant } } (fun s => let m : PMove := { target := .run, origin := .dormant }; decide (s.power.move = some m) && decide (s.power.state ≠ .run) && decide (s.power.state ≠ .trim) && decide (viaMoor s m = true)) = true ∧
    holdsIn { live with power.state := .moor, power.move := some { target := .run, origin := .moor } } (fun s => let m : PMove := { target := .run, origin := .moor }; decide (s.power.move = some m) && decide (s.power.state ≠ .run) && decide (s.power.state ≠ .trim) && decide (viaMoor s m = false)) = true := by
  refine ⟨?_, ?_, ?_, ?_, ?_, ?_, ?_, ?_, ?_, ?_, ?_, ?_, ?_, ?_⟩ <;> decide +kernel

/-- PATROL_SCRUB of the first word of a DRAM channel. -/
theorem witness_patrolScrub :
    holdsIn { live with store.words := [(dramBase / 16, wordEnc 0 (dramBase / 16) ^^^ 1)] } (fun s =>
      decide (dramChannel dramBase = some 0) && decide (dramFrame dramBase < 128) && decide (wordAt s dramBase = .corrected)) = true ∧
    dramFrame dramBase < framesPerChannel := by
  have e : framesPerChannel = 58254 ∨ framesPerChannel = 29127 := by unfold framesPerChannel; split <;> simp
  refine ⟨by decide +kernel, ?_⟩
  rcases e with e | e <;> rw [e] <;> decide +kernel

/-- A hello of 192 bytes of key ID 0 (R95). -/
def helloDgram : Dgram := { port := 0, ip := [], udp := 0, data := fit 192 [2, 0x10] }

/-- live with port 0 open to sessions and key ID 0 enrolled. -/
def helloState : State := { live with stolp.enable := 1, stolp.keys := [{}] }

/-- STOLP_HELLO of an enrolled key whose point is on the curve: a new handshake, and a repeated one. -/
theorem witness_stolpHello (h : Config.onCurve (List.replicate 133 0) = true) :
    holdsIn helloState (fun s => s.stolp.enable.testBit helloDgram.port && !chanRetired s 6 helloDgram.port && !s.boot.missing.contains 0x10 &&
      decide (helloDgram.data.length = 192 ∧ num helloDgram.data 0 1 = 2 ∧ num helloDgram.data 1 1 = 0x10 ∧ num helloDgram.data 4 4 = 0) &&
      (keyOf s (num helloDgram.data 16 8)).isSome && (s.stolp.hellos.filter fun t => s.time.now < t + 10 ^ 9).length < 16 &&
      (s.stolp.pending.find? (fun e => e.2.keyId == num helloDgram.data 16 8 && e.2.nonce == slice helloDgram.data 24 32)).isNone &&
      s.stolp.sessions.length < min s.stolp.limit 16) = true ∧
    holdsIn { helloState with stolp.pending := [(1, { nonce := List.replicate 32 0 })] } (fun s =>
      (s.stolp.pending.find? (fun e => e.2.keyId == num helloDgram.data 16 8 && e.2.nonce == slice helloDgram.data 24 32)).isSome) = true ∧
    Config.onCurve (slice helloDgram.data 56 133) = true := by
  have e : slice helloDgram.data 56 133 = List.replicate 133 0 := by decide +kernel
  refine ⟨by decide +kernel, by decide +kernel, ?_⟩
  rw [e, h]

/-- STOLP_FINISH of a pending handshake: what the peer's key and the secret decide is met where their functions say so (R96). -/
theorem witness_stolpFinish :
    holdsIn { live with stolp.pending := [(0, {})] } (fun s =>
      let d : Dgram := { port := 0, ip := [], udp := 0, data := fit 164 [4, 0x10] }
      decide (tget s.stolp.pending (num d.data 4 4) = some {}) && decide (d.data.length = 164) && decide (num d.data 0 1 = 4) &&
        decide (num d.data 1 1 = 0x10) && decide (num d.data 8 8 = 0)) = true := by decide +kernel

/-- A datagram of `type` of session 0, with a counter of 1. -/
def sessDgram (type : Byte) : Dgram := { port := 0, ip := [], udp := 0, data := fit 32 [type, 0x10, 0, 0, 0, 0, 0, 0, 1] }

/-- STOLP_DATA and STOLP_CLOSE whose tag holds: an open session, a fresh counter, a device that fetches and one that does not. -/
theorem witness_stolpData (b : List Byte)
    (h1 : openUp [] (slice (sessDgram 1).data 0 16) ((sessDgram 1).data.drop 16) = some b)
    (h2 : openUp [] (slice (sessDgram 6).data 0 16) ((sessDgram 6).data.drop 16) = some b) :
    openDgram { live with stolp.sessions := [(0, {})], glb.ready := true } (sessDgram 1) 1 = some (0, b) ∧
    openDgram { live with stolp.sessions := [(0, {})] } (sessDgram 6) 6 = some (0, b) ∧
    dgramFits { live with stolp.sessions := [(0, {})], glb.ready := true } (sessDgram 1) = true ∧
    fetching (noteDgram 0 1 { live with stolp.sessions := [(0, {})], glb.ready := true }) = true ∧
    fetching (noteDgram 0 1 { live with stolp.sessions := [(0, {})] }) = false := by
  have e (t : State) (h : t.stolp.sessions = [(0, {})]) (type : Byte) (n : Nat)
      (k : num (sessDgram type).data 4 4 = 0 ∧ (sessDgram type).data.length = 32 ∧ num (sessDgram type).data 0 1 = n ∧
        num (sessDgram type).data 1 1 = 0x10 ∧ num (sessDgram type).data 8 8 = 1)
      (g : openUp [] (slice (sessDgram type).data 0 16) ((sessDgram type).data.drop 16) = some b) :
      openDgram t (sessDgram type) n = some (0, b) := by
    obtain ⟨k1, k2, k3, k4, k5⟩ := k
    simp only [openDgram, h, k1, k2, k3, k4, k5, tget]
    simp [sessDgram, counterFresh]
    simpa [sessDgram] using g
  exact ⟨e _ rfl 1 1 (by decide +kernel) h1, e _ rfl 6 6 (by decide +kernel) h2, by decide +kernel, by decide +kernel, by decide +kernel⟩

/-- A host boot descriptor and its image of 4,484 bytes, which the firmware key signed (R432). -/
def hostBootState : State := { live with
  boot.phase := .hostWait
  store.mem := memWrite (memWrite (memWrite [] 0 [0x59, 0x54, 0x42, 0x33, 0x84, 0x11]) 0x10000 [0x47, 0x4D, 0x49, 0x33, 0, 1]) 0x10011 [0x10] }

/-- HOST_BOOT_DESCRIPTOR_POLL that accepts the image. -/
theorem witness_hostBoot (b : List Byte) (hb : b = hostImage hostBootState)
    (h : (Config.sha512 (slice b 32 133) != Config.firmwareKey
      || slice b 192 64 != toLE 64 (Config.sha512 (slice b 256 (imgBody b))).toNat
      || !Config.ecdsaVerify (slice b 32 133) (slice b 0 (256 + imgBody b)) (slice b (256 + imgBody b) 132)) = false) :
    hostBootState.boot.phase = .hostWait ∧ num (physRead hostBootState 0 64) 0 4 = 0x33425459 ∧ hostImageCode hostBootState = none := by
  refine ⟨by decide +kernel, by decide +kernel, ?_⟩
  have e : ¬(storeBytes - 0x10000 < num (physRead hostBootState 0 64) 4 4 ∨ num (physRead hostBootState 0 64) 10 54 ≠ 0) := by decide +kernel
  have k : num b 0 4 = 0x33494D47 ∧ num b 5 1 = 1 ∧ num b 6 2 = 0 ∧ num b 20 4 = 0 ∧ num b 165 27 = 0 ∧ imgBody b = 4096 ∧ b.length = 4484 := by
    rw [hb]
    decide +kernel
  obtain ⟨k1, k2, k3, k4, k5, k6, k7⟩ := k
  have z : hostBootState.boot.fwFloor = 0 := by decide +kernel
  unfold hostImageCode
  rw [← hb]
  simp only [e, if_false, imageCode, h, z]
  simp [k1, k2, k3, k4, k5, k6, k7]

/-- ResetIsWellFormed is a witness of the invariant's premise, and a step from reset answers a next state. -/
theorem witness_StepKeepsWf : State.reset.wf ∧ ∃ t, step State.reset = .next t :=
  ⟨by unfold State.wf State.memWf State.tblWf State.glbWf State.gateWf Tbl.wf; decide +kernel, ⟨_, rfl⟩⟩

/-- FailedSharedCheckChangesNothing: a packet in flight that has not been dispatched; a length that DEV_INFO does not take; a camera
command while the cameras' start step is missing. -/
theorem witness_FailedSharedCheck :
    IsPacketCommand (pk 0 1 5 []) (.devInfo (pk 0 1 5 [])) ∧
    mayAct (pk 0 1 2 []) { live with cmd.flights := [{ pkt := pk 0 1 2 [] }] } = false ∧
    mayAct (pk 0 1 5 []) live = true ∧ cmdGate (pk 0 1 5 []) live = some { code := .eLength, off := 2 } ∧
    cmdGate (pk 0 0x0600 2 []) { live with boot.missing := [0x0E] } = none ∧
    unitsOut (pk 0 0x0600 2 []) { live with boot.missing := [0x0E] } = true :=
  ⟨.inl (by simp [IsDeviceCommand]), by decide +kernel, by decide +kernel, by decide +kernel, by decide +kernel, by decide +kernel⟩

/-- FailedOwnCheckChangesNothing: DEV_NOP's packet with a failing check; a held host-memory request, and an effect that holds one more. -/
theorem witness_FailedOwnCheck :
    Passes (pk 0 0 1 []) live ∧ ({ code := .eRange, off := 16 } : Fail).code ≠ .ok ∧ held live = false ∧
    Passes (pk 0 0 1 []) { live with link.hold := .linkReset false } ∧ held { live with link.hold := .linkReset false } = true ∧
    heldWrites { live with link.hold := .linkReset false } <
      heldWrites (emitHost (.hostWrite 0 []) { live with link.hold := .linkReset false }) :=
  ⟨by unfold Passes; decide +kernel, by decide, by decide +kernel, by unfold Passes; decide +kernel, by decide +kernel, by decide +kernel⟩

/-- DoorbellRejections: each clause of both doorbells, at the ends of the page and queue ranges. -/
theorem witness_DoorbellRejections :
    holdsIn { live with ctxs := [(512, { state := .opened, queues := [(7, { log2 := 4 })], ring := { written := 1 } }), (511, { queues := [(0, {})] })] } (fun s =>
      (tget (ctxOf s 512).queues 0).isNone && (tget (ctxOf s 512).queues 7).isSome && pageOpen s 512 && !pageOpen s 511 &&
      (tget (ctxOf s 511).queues 0).isSome && (BitVec.ofNat 32 (2 ^ 32 - 1) - (0 : Word)).msb && decide (2 ^ 4 < (BitVec.ofNat 32 17 - (0 : Word)).toNat) &&
      ((ctxOf s 512).ring.written - BitVec.ofNat 32 2).msb && (BitVec.ofNat 32 (2 ^ 32 - 1) - (ctxOf s 512).ring.head).msb) = true := by decide +kernel

/-- PrivacyGatesHold: the camera gate holds while CAM_POWER passes its checks, and the microphone pin is up. -/
theorem witness_PrivacyGates :
    holdsIn { live with cams.gate := true, cams.ports := [(11, { owner := 0 })] } (fun s => s.cams.gate && !s.audio.pin) = true ∧
    Passes (pk 0 0x0607 2 [(16, 1, 11)]) { live with cams.gate := true, cams.ports := [(11, { owner := 0 })] } ∧
    chkCamPower (pk 0 0x0607 2 [(16, 1, 11)]) { live with cams.gate := true, cams.ports := [(11, { owner := 0 })] } = none :=
  ⟨by decide +kernel, by unfold Passes; decide +kernel, by decide +kernel⟩

/-- StatusEntryIsWritten and RejectLogKeepsSixtyFour: a live context with a full reject log. -/
theorem witness_StatusEntry :
    entriesDiscarded live 1 = false ∧ held live = false ∧
    (ctxOf { live with ctxs := [(1, { rejLog := List.replicate 64 {} })] } 1).rejLog.length = 64 := by decide +kernel

/-- A packet command answers a next state. -/
theorem runsPkt_next {p : Pkt} {s : State} {r : Res} (h : RunsPkt p s r) : ∃ t, r = .next t := by
  obtain ⟨host, chk, act, rfl | rfl⟩ := h
  · unfold runHost runCmd
    repeat' first | exact ⟨_, rfl⟩ | split
  · unfold runCmd
    repeat' first | exact ⟨_, rfl⟩ | split

/-- The frames' premise: one command of each frame statement answers a next state. -/
theorem witness_frames (p : Pkt) :
    (∃ t, exec (.devNop p) live = .next t) ∧ (∃ t, exec (.cascQuery p) live = .next t) ∧ (∃ t, exec (.gangQuery p) live = .next t) ∧
    (∃ t, exec (.kvPoolQuery p) live = .next t) ∧ (∃ t, exec (.camQuery p) live = .next t) ∧ (∃ t, exec (.audQuery p) live = .next t) ∧
    (∃ t, exec (.tkQuery p) live = .next t) ∧ (∃ t, exec (.safeQuery p) live = .next t) ∧
    (∃ t, exec (.handshakeTimeout 1) live = .next t) ∧ (∃ t, exec (.linkReset .perst) live = .next t) ∧
    (∃ t, exec .revertiveTimer live = .next t) := by
  refine ⟨?_, ?_, ?_, ?_, ?_, ?_, ?_, ?_, ⟨_, rfl⟩, ⟨_, rfl⟩, ⟨_, rfl⟩⟩
  · exact runsPkt_next (deviceCommand_runsPkt (p := p) _ (by simp [IsDeviceCommand]))
  · exact runsPkt_next (cascadeCommand_runsPkt (p := p) _ (by simp [IsCascadeCommand]))
  · exact runsPkt_next (contextAndGangCommand_runsPkt (p := p) _ (by simp [IsContextAndGangCommand]))
  · exact runsPkt_next (attentionPoolCommand_runsPkt (p := p) _ (by simp [IsAttentionPoolCommand]))
  · exact runsPkt_next (cameraCommand_runsPkt (p := p) _ (by simp [IsCameraCommand]))
  · exact runsPkt_next (audioCommand_runsPkt (p := p) _ (by simp [IsAudioCommand]))
  · exact runsPkt_next (timeAndEventCommand_runsPkt (p := p) _ (by simp [IsTimeAndEventCommand]))
  · exact runsPkt_next (safetyCommand_runsPkt (p := p) _ (by simp [IsSafetyCommand]))

/-- COLD_TIER_COMPLETION and COLD_TIER_DEADLINE of a MEM_COLD_IO that reads a drive of 512-byte blocks into a HOST page, while requests are held (R482). -/
theorem witness_coldTierCompletion (h : Config.lbaBytes 3 = 512) :
    holdsIn { live with
      link.hold := .linkReset false
      ctxs := [(0, { state := .opened, pages := [(1, { read := true, write := true, host := true })] })] } (fun s =>
        ioWaits { pkt := some (pk 0 0x020A 3 [(16, 1, 3), (32, 4, 1), (40, 8, 65536)]) } s) = true := by
  have e : ioBytes (pk 0 0x020A 3 [(16, 1, 3), (32, 4, 1), (40, 8, 65536)]) = 1 * Config.lbaBytes 3 := rfl
  rw [h] at e
  simp only [holdsIn, ioWaits, e]
  decide +kernel

/-- THERMAL_TRIP and THERMAL_TRIP_RELEASE at the ends of their ranges, whatever the part's limit (R428). -/
theorem witness_thermalTrip : tjMax + 20 ≤ tjMax + 20 ∧ live.power.tripped = false ∧ tjMax - 33 < tjMax - 32 := by
  refine ⟨Int.le_refl _, rfl, ?_⟩
  omega


end Sys2Proof.Machine
end

namespace Sys2Proof.Machine

/-! ### Every step keeps the state well formed -/

section

variable {fl : Floors}

/-- The row's arm by rewriting: to compare `exec (.kvImport p) s` with `execKvImport p s` by unfolding evaluates the whole import. -/
theorem exec_kvImport (p : Pkt) (s : State) : exec (.kvImport p) s = execKvImport p s := by simp only [exec]

/-- As `exec_kvImport`, for a stream's import. -/
theorem exec_strmImport (p : Pkt) (s : State) : exec (.strmImport p) s = execStrmImport p s := by simp only [exec]

/-- Every row keeps the invariant: row by row as Machine/Dispatch.lean gives each command its meaning. -/
theorem exec_wf (c : Instr) (s : State) (hs : s.inv fl) : Res.wf fl (exec c s) := by
  cases c with
  | devNop p => exact execDevNop_wf p s hs
  | devInfo p => exact execDevInfo_wf p s hs
  | devStats p => exact execDevStats_wf p s hs
  | devRejectLog p => exact execDevRejectLog_wf p s hs
  | devReset p => exact execDevReset_wf p s hs
  | devResetGraceEnd p => exact execDevResetGraceEnd_wf p s hs
  | devKeyEnroll p => exact execDevKeyEnroll_wf p s hs
  | devKeyRevoke p => exact execDevKeyRevoke_wf p s hs
  | devKeyList p => exact execDevKeyList_wf p s hs
  | devNetConfig p => exact execDevNetConfig_wf p s hs
  | devSessions p => exact execDevSessions_wf p s hs
  | devSessionClose p => exact execDevSessionClose_wf p s hs
  | cascQuery p => exact execCascQuery_wf p s hs
  | cascSetSource p => exact execCascSetSource_wf p s hs
  | cascBind p => exact execCascBind_wf p s hs
  | cascSetHold p => exact execCascSetHold_wf p s hs
  | cascLift p => exact execCascLift_wf p s hs
  | cascBallast p => exact execCascBallast_wf p s hs
  | cascReadLog p => exact execCascReadLog_wf p s hs
  | cascReadReel p => exact execCascReadReel_wf p s hs
  | cascCounters p => exact execCascCounters_wf p s hs
  | cascSetTimer p => exact execCascSetTimer_wf p s hs
  | energyGateDecision level => exact execEnergyGateDecision_wf level s hs
  | detectorDecision reason score input trigger frame => exact execDetectorDecision_wf reason score input trigger frame s hs
  | sampleHoldEnd => exact execSampleHoldEnd_wf s hs
  | updraftWindowEnd tier => exact execUpdraftWindowEnd_wf tier s hs
  | warmUpComplete tier => exact execWarmUpComplete_wf tier s hs
  | armingComplete tier => exact execArmingComplete_wf tier s hs
  | idleHoldEnd tier => exact execIdleHoldEnd_wf tier s hs
  | tierPowerDownComplete tier => exact execTierPowerDownComplete_wf tier s hs
  | reelSourceHandover => exact execReelSourceHandover_wf s hs
  | reelReaderSupply tier => exact execReelReaderSupply_wf tier s hs
  | rtcAlarm => exact execRtcAlarm_wf s hs
  | aonGpioEdge pin level => exact execAonGpioEdge_wf pin level s hs
  | presenceFrame payload => exact execPresenceFrame_wf payload s hs
  | bar0UnsupportedAccess write => exact execBar0UnsupportedAccess_wf write s hs
  | registerWrite off width value => exact execRegisterWrite_wf off width value s hs
  | glbTimeLoRead wide => exact execGlbTimeLoRead_wf wide s hs
  | glbEventClear value hwSets => exact execGlbEventClear_wf value hwSets s hs
  | glbErrClear value hwSets => exact execGlbErrClear_wf value hwSets s hs
  | resume => exact execResume_wf s hs
  | abandon => exact execAbandon_wf s hs
  | mgmtRingEnable value => exact execMgmtRingEnable_wf value s hs
  | mgmtRingDisable value => exact execMgmtRingDisable_wf value s hs
  | dbSqWrite page queue value => exact execDbSqWrite_wf page queue value s hs
  | dbSrWrite page value => exact execDbSrWrite_wf page value s hs
  | bar2Read off size => exact execBar2Read_wf off size s hs
  | bar2Write off data => exact execBar2Write_wf off data s hs
  | msixEntryUnmask vector => exact execMsixEntryUnmask_wf vector s hs
  | linkReset kind => exact execLinkReset_wf kind s hs
  | d3hotEntry => exact execD3hotEntry_wf s hs
  | d0Resume busMaster => exact execD0Resume_wf busMaster s hs
  | atsInvalidation ctx page => exact execAtsInvalidation_wf ctx page s hs
  | hostReadFailure ctx kind what => exact execHostReadFailure_wf ctx kind what s hs
  | rootPortLinkDown => exact execRootPortLinkDown_wf s hs
  | rootPortRetrain up speed width => exact execRootPortRetrain_wf up speed width s hs
  | packetFetch p chain => exact execPacketFetch_wf p chain s hs
  | packetDispatch ctx tag => exact execPacketDispatch_wf ctx tag s hs
  | dependencyTimeout ctx tag => exact execDependencyTimeout_wf ctx tag s hs
  | stolpHello d => exact execStolpHello_wf d s hs
  | stolpFinish d => exact execStolpFinish_wf d s hs
  | stolpData d => exact execStolpData_wf d s hs
  | stolpClose d => exact execStolpClose_wf d s hs
  | handshakeTimeout session => exact execHandshakeTimeout_wf session s hs
  | sessionIdleTimeout session => exact execSessionIdleTimeout_wf session s hs
  | creditTimer session => exact execCreditTimer_wf session s hs
  | replyBatchTimeout session => exact execReplyBatchTimeout_wf session s hs
  | ctxOpen p => exact execCtxOpen_wf p s hs
  | ctxClose p => exact execCtxClose_wf p s hs
  | ctxCloseGraceEnd ctx => exact execCtxCloseGraceEnd_wf ctx s hs
  | ctxQuery p => exact execCtxQuery_wf p s hs
  | ctxSetQuota p => exact execCtxSetQuota_wf p s hs
  | ctxSeal p => exact execCtxSeal_wf p s hs
  | ctxQueueCreate p => exact execCtxQueueCreate_wf p s hs
  | ctxQueueDestroy p => exact execCtxQueueDestroy_wf p s hs
  | gangCreate p => exact execGangCreate_wf p s hs
  | gangDestroy p => exact execGangDestroy_wf p s hs
  | gangQuery p => exact execGangQuery_wf p s hs
  | ctxLeases p => exact execCtxLeases_wf p s hs
  | ctxXlate p => exact execCtxXlate_wf p s hs
  | leaseLimitExpiry lease => exact execLeaseLimitExpiry_wf lease s hs
  | ripcordScrubComplete ctx => exact execRipcordScrubComplete_wf ctx s hs
  | legAccessFault ctx gang channel command => exact execLegAccessFault_wf ctx gang channel s command hs
  | legEnd e => exact execLegEnd_wf e s hs
  | prefetchComplete gang stall => exact execPrefetchComplete_wf gang stall s hs
  | stallLimitExpiry gang => exact execStallLimitExpiry_wf gang s hs
  | legLateLimit gang => exact execLegLateLimit_wf gang s hs
  | pageReclaim page => exact execPageReclaim_wf page s hs
  | stripeGroupStart gang stripe tiles => exact execStripeGroupStart_wf gang stripe s tiles hs
  | pipelineStageStep gang stage => exact execPipelineStageStep_wf gang stage s hs
  | qstatArm p => exact execQstatArm_wf p s hs
  | qstatDisarm p => exact execQstatDisarm_wf p s hs
  | qstatRead p => exact execQstatRead_wf p s hs
  | qstatQuery p => exact execQstatQuery_wf p s hs
  | qconvert p => exact execQconvert_wf p s hs
  | dmaTransferComplete channel outcome => exact execDmaTransferComplete_wf channel outcome s hs
  | planLoad p => exact execPlanLoad_wf p s hs
  | planUnload p => exact execPlanUnload_wf p s hs
  | planQuery p => exact execPlanQuery_wf p s hs
  | planRun p => exact execPlanRun_wf p s hs
  | planStop p => exact execPlanStop_wf p s hs
  | planFeed p => exact execPlanFeed_wf p s hs
  | planBindEvent p => exact execPlanBindEvent_wf p s hs
  | planUnbind p => exact execPlanUnbind_wf p s hs
  | gangStats p => exact execGangStats_wf p s hs
  | panelQuery p => exact execPanelQuery_wf p s hs
  | planReload p => exact execPlanReload_wf p s hs
  | moorLoad p => exact execMoorLoad_wf p s hs
  | moorQuery p => exact execMoorQuery_wf p s hs
  | kvPoolCreate p => exact execKvPoolCreate_wf p s hs
  | kvPoolDestroy p => exact execKvPoolDestroy_wf p s hs
  | kvSeqCreate p => exact execKvSeqCreate_wf p s hs
  | kvFork p => exact execKvFork_wf p s hs
  | kvTruncate p => exact execKvTruncate_wf p s hs
  | kvFree p => exact execKvFree_wf p s hs
  | kvSeqQuery p => exact execKvSeqQuery_wf p s hs
  | kvPageQuery p => exact execKvPageQuery_wf p s hs
  | kvRead p => exact execKvRead_wf p s hs
  | kvWait p => exact execKvWait_wf p s hs
  | kvPoolQuery p => exact execKvPoolQuery_wf p s hs
  | kvExport p => exact execKvExport_wf p s hs
  | kvImport p => rw [exec_kvImport]; with_reducible exact execKvImport_wf p s hs
  | strmSetCreate p => exact execStrmSetCreate_wf p s hs
  | strmSetDestroy p => exact execStrmSetDestroy_wf p s hs
  | strmStart p => exact execStrmStart_wf p s hs
  | strmPause p => exact execStrmPause_wf p s hs
  | strmResume p => exact execStrmResume_wf p s hs
  | strmEnd p => exact execStrmEnd_wf p s hs
  | strmQuery p => exact execStrmQuery_wf p s hs
  | strmSentinel p => exact execStrmSentinel_wf p s hs
  | strmRead p => exact execStrmRead_wf p s hs
  | strmExport p => exact execStrmExport_wf p s hs
  | strmImport p => rw [exec_strmImport]; with_reducible exact execStrmImport_wf p s hs
  | strmPeer p => exact execStrmPeer_wf p s hs
  | memAlloc p => exact execMemAlloc_wf p s hs
  | memFree p => exact execMemFree_wf p s hs
  | memMapHost p => exact execMemMapHost_wf p s hs
  | memProtect p => exact execMemProtect_wf p s hs
  | memCopy p => exact execMemCopy_wf p s hs
  | memPlace p => exact execMemPlace_wf p s hs
  | memPin p => exact execMemPin_wf p s hs
  | memQuery p => exact execMemQuery_wf p s hs
  | memChannels p => exact execMemChannels_wf p s hs
  | memChannelRetire p => exact execMemChannelRetire_wf p s hs
  | memColdIo p => exact execMemColdIo_wf p s hs
  | memMovePageComplete owner readable => exact execMemMovePageComplete_wf owner readable s hs
  | firmwarePlacement => exact execFirmwarePlacement_wf s hs
  | coldTierCompletion object ok => exact execColdTierCompletion_wf object ok s hs
  | coldTierDeadline object => exact execColdTierDeadline_wf object s hs
  | channelRetirementComplete => exact execChannelRetirementComplete_wf s hs
  | patrolScrub word => exact execPatrolScrub_wf word s hs
  | camQuery p => exact execCamQuery_wf p s hs
  | camAssign p => exact execCamAssign_wf p s hs
  | camPort p => exact execCamPort_wf p s hs
  | camParams p => exact execCamParams_wf p s hs
  | camOutput p => exact execCamOutput_wf p s hs
  | camStart p => exact execCamStart_wf p s hs
  | camStop p => exact execCamStop_wf p s hs
  | camPower p => exact execCamPower_wf p s hs
  | camSync p => exact execCamSync_wf p s hs
  | camWindow p => exact execCamWindow_wf p s hs
  | camAttach p => exact execCamAttach_wf p s hs
  | camWait p => exact execCamWait_wf p s hs
  | camPresence p => exact execCamPresence_wf p s hs
  | csiFrameStart port vc ecc => exact execCsiFrameStart_wf port vc ecc s hs
  | csiLine l => exact execCsiLine_wf l s hs
  | csiFrameEnd port vc ecc => exact execCsiFrameEnd_wf port vc ecc s hs
  | slotComplete port => exact execSlotComplete_wf port s hs
  | frameIntervalTimeout port => exact execFrameIntervalTimeout_wf port s hs
  | mutedFrameTimer port => exact execMutedFrameTimer_wf port s hs
  | privCamAssert => exact execPrivCamAssert_wf s hs
  | privCamRelease => exact execPrivCamRelease_wf s hs
  | audQuery p => exact execAudQuery_wf p s hs
  | audAssign p => exact execAudAssign_wf p s hs
  | audClock p => exact execAudClock_wf p s hs
  | audLp p => exact execAudLp_wf p s hs
  | audBeam p => exact execAudBeam_wf p s hs
  | audCapture p => exact execAudCapture_wf p s hs
  | audStart p => exact execAudStart_wf p s hs
  | audStop p => exact execAudStop_wf p s hs
  | audI2s p => exact execAudI2s_wf p s hs
  | audPlay p => exact execAudPlay_wf p s hs
  | audWait p => exact execAudWait_wf p s hs
  | audioBlockEnd b => exact execAudioBlockEnd_wf b s hs
  | playbackBlockFetch port => exact execPlaybackBlockFetch_wf port s hs
  | i2sClockLoss port => exact execI2sClockLoss_wf port s hs
  | privMicAssert => exact execPrivMicAssert_wf s hs
  | privMicRelease => exact execPrivMicRelease_wf s hs
  | tkQuery p => exact execTkQuery_wf p s hs
  | tkConfig p => exact execTkConfig_wf p s hs
  | tkSelect p => exact execTkSelect_wf p s hs
  | evAssign p => exact execEvAssign_wf p s hs
  | evConfig p => exact execEvConfig_wf p s hs
  | evQuery p => exact execEvQuery_wf p s hs
  | evReadCapture p => exact execEvReadCapture_wf p s hs
  | eventTriggerFire channel => exact execEventTriggerFire_wf channel s hs
  | eventCaptureEdge channel rising time => exact execEventCaptureEdge_wf channel rising time s hs
  | gptpSync m => exact execGptpSync_wf m s hs
  | gptpAnnounce domain port grandmaster receiptTimeout => exact execGptpAnnounce_wf domain port grandmaster receiptTimeout s hs
  | gptpPdelay port delay => exact execGptpPdelay_wf port delay s hs
  | syncReceiptTimeout domain => exact execSyncReceiptTimeout_wf domain s hs
  | revertiveTimer => exact execRevertiveTimer_wf s hs
  | netConfig p => exact execNetConfig_wf p s hs
  | netQuery p => exact execNetQuery_wf p s hs
  | netBind p => exact execNetBind_wf p s hs
  | netSend p => exact execNetSend_wf p s hs
  | ethFrameReceive f => exact execEthFrameReceive_wf f s hs
  | ethFrameDepart port time => exact execEthFrameDepart_wf port time s hs
  | ethLinkChange port up => exact execEthLinkChange_wf port up s hs
  | neighborResolutionTimeout port ip => exact execNeighborResolutionTimeout_wf port ip s hs
  | gwFleet p => exact execGwFleet_wf p s hs
  | gwInbox p => exact execGwInbox_wf p s hs
  | gwSend p => exact execGwSend_wf p s hs
  | gwQuery p => exact execGwQuery_wf p s hs
  | gwHandshakeMessage m => exact execGwHandshakeMessage_wf m s hs
  | gwOffer m => exact execGwOffer_wf m s hs
  | gwAnswer m => exact execGwAnswer_wf m s hs
  | gwData m => exact execGwData_wf m s hs
  | gwAck m => exact execGwAck_wf m s hs
  | gwClose m => exact execGwClose_wf m s hs
  | gwAckTimer session transfer => exact execGwAckTimer_wf session transfer s hs
  | gwChunkRetransmit session transfer chunk => exact execGwChunkRetransmit_wf session transfer chunk s hs
  | gwTransferDeadline session transfer sender => exact execGwTransferDeadline_wf session transfer sender s hs
  | gwSessionIdleTimeout session => exact execGwSessionIdleTimeout_wf session s hs
  | safeQuery p => exact execSafeQuery_wf p s hs
  | safeLogRead p => exact execSafeLogRead_wf p s hs
  | safeChannels p => exact execSafeChannels_wf p s hs
  | safeConfig p => exact execSafeConfig_wf p s hs
  | safeRetire p => exact execSafeRetire_wf p s hs
  | safeClear p => exact execSafeClear_wf p s hs
  | safeInject p => exact execSafeInject_wf p s hs
  | safeE2e p => exact execSafeE2e_wf p s hs
  | safeEnter p => exact execSafeEnter_wf p s hs
  | safeSelftest p => exact execSafeSelftest_wf p s hs
  | spareReady panel passed => exact execSpareReady_wf panel passed s hs
  | scoreLeak => exact execScoreLeak_wf s hs
  | selfTestDeadline type index => exact execSelfTestDeadline_wf type index s hs
  | windowWatchdogLate unit => exact execWindowWatchdogLate_wf unit s hs
  | lockstepMismatch role => exact execLockstepMismatch_wf role s hs
  | standbyTakeover passed => exact execStandbyTakeover_wf passed s hs
  | supplyExcursion rail below50 => exact execSupplyExcursion_wf rail below50 s hs
  | clockMonitorFault unit => exact execClockMonitorFault_wf unit s hs
  | pwrQuery p => exact execPwrQuery_wf p s hs
  | pwrCap p => exact execPwrCap_wf p s hs
  | pwrPolicy p => exact execPwrPolicy_wf p s hs
  | pwrWake p => exact execPwrWake_wf p s hs
  | pwrEnter p => exact execPwrEnter_wf p s hs
  | pwrEnterDeadline => exact execPwrEnterDeadline_wf s hs
  | padsRelease p => exact execPadsRelease_wf p s hs
  | pwrPads p => exact execPwrPads_wf p s hs
  | moorEntry => exact execMoorEntry_wf s hs
  | dormantDelayExpiry => exact execDormantDelayExpiry_wf s hs
  | i2c0AddressMatch address argument => exact execI2c0AddressMatch_wf address argument s hs
  | pePerst0Deassert => exact execPePerst0Deassert_wf s hs
  | peWakeNSense => exact execPeWakeNSense_wf s hs
  | governorTick power roomed => exact execGovernorTick_wf power roomed s hs
  | thermalCapTick others panels => exact execThermalCapTick_wf others s panels hs
  | thermalTrip hottest => exact execThermalTrip_wf hottest s hs
  | thermalTripRelease hottest => exact execThermalTripRelease_wf hottest s hs
  | powerOnReset => exact execPowerOnReset_wf s hs
  | warmReset cause => exact execWarmReset_wf cause s hs
  | startStepComplete o => exact execStartStepComplete_wf o s hs
  | startStepLimit => exact execStartStepLimit_wf s hs
  | hostBootDescriptorPoll => exact execHostBootDescriptorPoll_wf s hs
  | bootJournal p => exact execBootJournal_wf p s hs
  | bootRetry p => exact execBootRetry_wf p s hs
  | secCert p => exact execSecCert_wf p s hs
  | secAttest p => exact execSecAttest_wf p s hs
  | secPair p => exact execSecPair_wf p s hs
  | secOwner p => exact execSecOwner_wf p s hs
  | secConfig p => exact execSecConfig_wf p s hs
  | secFloor p => exact execSecFloor_wf p s hs
  | updStage p => exact execUpdStage_wf p s hs
  | updActivate p => exact execUpdActivate_wf p s hs
  | updCancel p => exact execUpdCancel_wf p s hs
  | updQuery p => exact execUpdQuery_wf p s hs
  | updateStageComplete passed => exact execUpdateStageComplete_wf passed s hs
  | reelReaderCopyComplete => exact execReelReaderCopyComplete_wf s hs
  | busMasterEnableSet w => exact execBusMasterEnableSet_wf s w hs
  | scratchpadScrubComplete panel => exact execScratchpadScrubComplete_wf panel s hs
  | selfTestSliceComplete type index passed => exact execSelfTestSliceComplete_wf type index passed s hs
  | i2sClockResume port => exact execI2sClockResume_wf port s hs
  | outputPulseEnd channel camera => exact execOutputPulseEnd_wf channel camera s hs
  | powerStateMoveComplete => exact execPowerStateMoveComplete_wf s hs
  | bootRomStart bootSrc => exact execBootRomStart_wf bootSrc s hs

/-- One step, a command or a tick, keeps the invariant and lowers no floor. -/
theorem step_wf (s : State) (hs : s.inv fl) : Res.wf fl (step s) := by
  unfold step
  split
  case h_1 => exact idle_wf s hs
  case h_2 c rest _ => exact exec_wf c { s with pending := rest } hs

theorem inv_of_step {s t : State} (hs : s.inv fl) (ht : step s = .next t) : t.inv fl := by
  have h : Res.wf fl (step s) := step_wf s hs
  rw [ht] at h
  exact h

theorem wf_of_inv {s : State} (hs : s.inv fl) : s.wf := by
  obtain ⟨hmem, htbl, hglb, hgate, -⟩ := hs
  exact ⟨hmem, htbl, hglb, hgate⟩

/-- A well-formed state meets the invariant with its own counts as the floors. -/
theorem inv_floors_of_wf {s : State} (hs : s.wf) : s.inv s.floors := by
  obtain ⟨hmem, htbl, hglb, hgate⟩ := hs
  exact ⟨hmem, htbl, hglb, hgate, le_refl _, le_refl _, le_refl _⟩

end

/-- Settles O5: the invariant `State.inv`, which adds the floors to `State.wf`, passes through every row. -/
theorem stepKeepsWf : Obligations.StepKeepsWf :=
  fun _ _ hs ht => wf_of_inv (inv_of_step (inv_floors_of_wf hs) ht)

/-! ### No row is refused -/

/-- The row has a meaning: its answer is a next state or a fault. -/
def NotRefused (r : Res) : Prop := ∀ x, r ≠ .refused x

theorem notRefused_next (t : State) : NotRefused (.next t) := nofun

theorem notRefused_fault (f : Fault) : NotRefused (.fault f) := nofun

theorem notRefused_ite {c : Prop} [Decidable c] {a b : Res} (ha : NotRefused a) (hb : NotRefused b) :
    NotRefused (if c then a else b) := by
  split
  · exact ha
  · exact hb

theorem runCmd_next (p : Pkt) (s : State) (chk : Option Fail) (act : State → State) : ∃ t, runCmd p s chk act = .next t := by
  unfold runCmd
  split
  · exact ⟨_, rfl⟩
  split
  · exact ⟨_, rfl⟩
  split
  · exact ⟨_, rfl⟩
  split
  · exact ⟨_, rfl⟩
  · exact ⟨_, rfl⟩

theorem runHost_next (p : Pkt) (s : State) (host : Bool) (chk : Option Fail) (act : State → State) :
    ∃ t, runHost p s host chk act = .next t := by
  unfold runHost
  split
  · exact ⟨_, rfl⟩
  · exact runCmd_next p s chk _

/-- What runs as a packet command always answers a next state: the packet waits, is answered, or acts (R77, R80). -/
theorem next_of_runsPkt {p : Pkt} {s : State} {r : Res} (h : RunsPkt p s r) : ∃ t, r = .next t := by
  obtain ⟨host, chk, act, rfl | rfl⟩ := h
  · exact runHost_next p s host chk act
  · exact runCmd_next p s chk act

theorem notRefused_of_runsPkt {p : Pkt} {s : State} {r : Res} (h : RunsPkt p s r) : NotRefused r := by
  obtain ⟨t, rfl⟩ := next_of_runsPkt h
  exact notRefused_next t

theorem gwTake_notRefused (m : GwMsg) (type : Nat) (act : Nat → State → State) (s : State) : NotRefused (gwTake m type act s) := by
  unfold gwTake
  split
  · exact notRefused_next _
  · exact notRefused_next _

theorem execLegEnd_notRefused (e : LegEnd) (s : State) : NotRefused (execLegEnd e s) := by
  unfold execLegEnd
  dsimp only
  repeat' first
    | with_reducible exact notRefused_next _ | with_reducible exact notRefused_fault _
    | with_reducible refine notRefused_ite ?_ ?_ | split

/-- A late Tail ends the leg, so it answers as LEG_END does. -/
theorem tailLate_notRefused (g unit pos n : Nat) (s : State) : NotRefused (tailLate g unit pos n s) := by
  unfold tailLate
  split
  · exact notRefused_next _
  · exact execLegEnd_notRefused _ s

theorem execWindowWatchdogLate_notRefused (u : Watched) (s : State) : NotRefused (execWindowWatchdogLate u s) := by
  cases u with
  | camera n => exact notRefused_ite (notRefused_fault _) (notRefused_next _)
  | tail n => exact notRefused_ite (notRefused_fault _) (notRefused_ite (notRefused_next _) (tailLate_notRefused _ _ _ _ s))
  | kiteTail => exact tailLate_notRefused 0 0 0 2 s
  | dmaEarly c =>
    refine notRefused_ite (notRefused_fault _) ?_
    split
    · exact notRefused_next _
    · exact notRefused_next _
  | ethernet n => exact notRefused_ite (notRefused_fault _) (notRefused_next _)
  | audio r => exact notRefused_ite (notRefused_fault _) (notRefused_next _)

/-- No row is refused. The packet commands run by `runCmd` or `runHost`; an event row that does not hand its answer
to a shared operation is a tree of tests whose ends are next states and the fault. -/
theorem exec_notRefused (c : Instr) (s : State) : NotRefused (exec c s) := by
  cases c
  case devNop p | devInfo p | devStats p | devRejectLog p | devReset p | devKeyEnroll p | devKeyRevoke p | devKeyList p | devNetConfig p |
    devSessions p | devSessionClose p =>
    exact notRefused_of_runsPkt (deviceCommand_runsPkt (p := p) s (by simp [IsDeviceCommand]))
  case cascQuery p | cascSetSource p | cascBind p | cascSetHold p | cascLift p | cascBallast p | cascReadLog p | cascReadReel p |
    cascCounters p | cascSetTimer p =>
    exact notRefused_of_runsPkt (cascadeCommand_runsPkt (p := p) s (by simp [IsCascadeCommand]))
  case ctxOpen p | ctxClose p | ctxQuery p | ctxSetQuota p | ctxSeal p | ctxQueueCreate p | ctxQueueDestroy p | gangCreate p |
    gangDestroy p | gangQuery p | ctxLeases p | ctxXlate p =>
    exact notRefused_of_runsPkt (contextAndGangCommand_runsPkt (p := p) s (by simp [IsContextAndGangCommand]))
  case memAlloc p | memFree p | memMapHost p | memProtect p | memCopy p | memPlace p | memPin p | memQuery p | memChannels p |
    memChannelRetire p | memColdIo p =>
    exact notRefused_of_runsPkt (memoryCommand_runsPkt (p := p) s (by simp [IsMemoryCommand]))
  case planLoad p | planUnload p | planQuery p | planRun p | planStop p | planFeed p | planBindEvent p | planUnbind p | gangStats p |
    panelQuery p | planReload p | moorLoad p | moorQuery p =>
    exact notRefused_of_runsPkt (planCommand_runsPkt (p := p) s (by simp [IsPlanCommand]))
  case kvPoolCreate p | kvPoolDestroy p | kvSeqCreate p | kvFork p | kvTruncate p | kvFree p | kvSeqQuery p | kvPageQuery p | kvRead p |
    kvWait p | kvPoolQuery p | kvExport p | kvImport p =>
    exact notRefused_of_runsPkt (attentionPoolCommand_runsPkt (p := p) s (by simp [IsAttentionPoolCommand]))
  case strmSetCreate p | strmSetDestroy p | strmStart p | strmPause p | strmResume p | strmEnd p | strmQuery p | strmSentinel p |
    strmRead p | strmExport p | strmImport p | strmPeer p =>
    exact notRefused_of_runsPkt (streamCommand_runsPkt (p := p) s (by simp [IsStreamCommand]))
  case camQuery p | camAssign p | camPort p | camParams p | camOutput p | camStart p | camStop p | camPower p | camSync p | camWindow p |
    camAttach p | camWait p | camPresence p =>
    exact notRefused_of_runsPkt (cameraCommand_runsPkt (p := p) s (by simp [IsCameraCommand]))
  case audQuery p | audAssign p | audClock p | audLp p | audBeam p | audCapture p | audStart p | audStop p | audI2s p | audPlay p |
    audWait p =>
    exact notRefused_of_runsPkt (audioCommand_runsPkt (p := p) s (by simp [IsAudioCommand]))
  case tkQuery p | tkConfig p | tkSelect p | evAssign p | evConfig p | evQuery p | evReadCapture p =>
    exact notRefused_of_runsPkt (timeAndEventCommand_runsPkt (p := p) s (by simp [IsTimeAndEventCommand]))
  case netConfig p | netQuery p | netBind p | netSend p | gwFleet p | gwInbox p | gwSend p | gwQuery p =>
    exact notRefused_of_runsPkt (networkCommand_runsPkt (p := p) s (by simp [IsNetworkCommand]))
  case safeQuery p | safeLogRead p | safeChannels p | safeConfig p | safeRetire p | safeClear p | safeInject p | safeE2e p | safeEnter p |
    safeSelftest p =>
    exact notRefused_of_runsPkt (safetyCommand_runsPkt (p := p) s (by simp [IsSafetyCommand]))
  case pwrQuery p | pwrCap p | pwrPolicy p | pwrWake p | pwrEnter p | padsRelease p | pwrPads p =>
    exact notRefused_of_runsPkt (powerCommand_runsPkt (p := p) s (by simp [IsPowerCommand]))
  case bootJournal p | bootRetry p | secCert p | secAttest p | secPair p | secOwner p | secConfig p | secFloor p | updStage p |
    updActivate p | updCancel p | updQuery p =>
    exact notRefused_of_runsPkt (securityAndUpdateCommand_runsPkt (p := p) s (by simp [IsSecurityAndUpdateCommand]))
  case qstatArm p | qstatDisarm p | qstatRead p | qstatQuery p | qconvert p =>
    exact notRefused_of_runsPkt (statisticsCommand_runsPkt (p := p) s (by simp [IsStatisticsCommand]))
  case reelSourceHandover | d3hotEntry | replyBatchTimeout | firmwarePlacement | gwHandshakeMessage | powerOnReset =>
    exact notRefused_next _
  case gwOffer | gwAnswer | gwData | gwAck | gwClose =>
    exact gwTake_notRefused _ _ _ s
  case legEnd e => exact execLegEnd_notRefused e s
  case windowWatchdogLate u => exact execWindowWatchdogLate_notRefused u s
  all_goals
    dsimp only [exec, barAccess, execDevResetGraceEnd, execEnergyGateDecision, execDetectorDecision, execSampleHoldEnd,
      execUpdraftWindowEnd, execWarmUpComplete, execArmingComplete, execIdleHoldEnd, execTierPowerDownComplete, execReelReaderSupply,
      execRtcAlarm, execAonGpioEdge, execPresenceFrame, execBar0UnsupportedAccess, execRegisterWrite, execGlbTimeLoRead,
      execGlbEventClear, execGlbErrClear, execResume, execAbandon, execMgmtRingEnable, execMgmtRingDisable, execDbSqWrite, execDbSrWrite,
      execBar2Read, execBar2Write, execMsixEntryUnmask, execLinkReset, execD0Resume, execAtsInvalidation, execHostReadFailure,
      execRootPortLinkDown, execRootPortRetrain, execPacketFetch, execPacketDispatch, execDependencyTimeout, execStolpHello,
      execStolpFinish, execStolpData, execStolpClose, execHandshakeTimeout, execSessionIdleTimeout, execCreditTimer, execCtxCloseGraceEnd,
      execLeaseLimitExpiry, execRipcordScrubComplete, execLegAccessFault, execPrefetchComplete, execStallLimitExpiry, execLegLateLimit,
      execPageReclaim, execStripeGroupStart, execPipelineStageStep, execDmaTransferComplete, execMemMovePageComplete,
      execColdTierCompletion, execColdTierDeadline, execChannelRetirementComplete, execPatrolScrub, execCsiFrameStart, execCsiLine,
      execCsiFrameEnd, execSlotComplete, execFrameIntervalTimeout, execMutedFrameTimer, execPrivCamAssert, execPrivCamRelease,
      execAudioBlockEnd, execPlaybackBlockFetch, execI2sClockLoss, execPrivMicAssert, execPrivMicRelease, execEventTriggerFire,
      execEventCaptureEdge, execGptpSync, execGptpAnnounce, execGptpPdelay, execSyncReceiptTimeout, execRevertiveTimer,
      execEthFrameReceive, execEthFrameDepart, execEthLinkChange, execNeighborResolutionTimeout, execGwAckTimer, execGwChunkRetransmit,
      execGwTransferDeadline, execGwSessionIdleTimeout, execSpareReady, execScoreLeak, execSelfTestDeadline, execLockstepMismatch,
      execStandbyTakeover, execSupplyExcursion, execClockMonitorFault, execPwrEnterDeadline, execMoorEntry, execDormantDelayExpiry,
      execI2c0AddressMatch, execPePerst0Deassert, execPeWakeNSense, execGovernorTick, execThermalCapTick, execThermalTrip,
      execThermalTripRelease, execWarmReset, execStartStepComplete, execStartStepLimit, execHostBootDescriptorPoll,
      execUpdateStageComplete, execReelReaderCopyComplete, execBusMasterEnableSet, execScratchpadScrubComplete, execSelfTestSliceComplete,
      execI2sClockResume, execOutputPulseEnd, execPowerStateMoveComplete, execBootRomStart]
    repeat' first
      | with_reducible exact notRefused_next _ | with_reducible exact notRefused_fault _
      | with_reducible refine notRefused_ite ?_ ?_ | split

/-- Settles O7: no row is refused, there is the one fault, and the packet commands run by `runCmd` or `runHost`, which always answer a
next state. -/
theorem commandsNeverStop : Obligations.CommandsNeverStop := by
  refine ⟨fun c s => ⟨exec_notRefused c s, fun f _ => ?_⟩, fun p c s hc => next_of_runsPkt (packetCommand_runsPkt s hc)⟩
  cases f
  rfl

/-! ### Rows of units that no part has -/

/-- Settles O8: each row's first test is whether the part has the unit, and each clause's premise is that test. -/
theorem eventsOnMissingUnitsFault : Obligations.EventsOnMissingUnitsFault := by
  intro s
  exact ⟨
    -- the cascade and the always-on pins
    fun _ _ _ _ _ h => if_pos h,
    fun _ h => if_pos h,
    fun _ h => if_pos h,
    fun _ h => if_pos h,
    fun _ h => if_pos h,
    fun _ h => if_pos h,
    fun _ _ h => if_pos h,
    -- host attachment, memory words and contexts
    fun _ _ h => if_pos h,
    fun _ _ _ h => if_pos (.inl h),
    fun _ _ _ h => if_pos (.inr h),
    fun _ h => if_pos h,
    fun _ h => if_pos h,
    fun _ h => if_pos h,
    fun _ _ _ _ h => if_pos h,
    -- gangs, panels and channels
    fun _ h => if_pos h,
    fun _ _ h => if_pos h,
    fun _ h => if_pos h,
    fun _ h => if_pos h,
    fun _ h => if_pos h,
    fun _ _ _ h => if_pos h,
    fun _ _ h => if_pos h,
    fun _ h => if_pos h,
    fun _ _ h => if_pos h,
    -- cameras
    fun _ _ _ h => if_pos h,
    fun _ _ _ h => if_pos h,
    fun _ h => if_pos h,
    fun _ h => if_pos h,
    fun _ h => if_pos h,
    fun _ h => if_pos h,
    -- audio
    fun _ h => if_pos h,
    fun _ h => if_pos h,
    fun _ h => if_pos h,
    -- event channels, time and network
    fun _ h => if_pos h,
    fun _ _ _ h => if_pos h,
    fun _ h => if_pos h,
    fun _ _ _ _ h => if_pos h,
    fun _ _ h => if_pos h,
    fun _ h => if_pos h,
    fun _ h => if_pos h,
    fun _ _ h => if_pos h,
    fun _ _ h => if_pos h,
    fun _ _ h => if_pos h,
    -- safety
    fun _ _ h => if_pos h,
    fun _ _ h => if_pos (by rw [decide_eq_false h]; rfl),
    fun _ _ _ h => if_pos (by rw [decide_eq_false h]; rfl),
    fun _ h => if_pos h,
    fun _ h => if_pos h,
    fun _ h => if_pos h,
    fun _ h => if_pos h,
    fun _ h => if_pos h,
    fun _ h => if_pos h,
    fun _ h => if_pos h,
    -- output pulses
    fun _ _ h => if_pos (by simp [h]),
    fun _ _ h => if_pos (by simp [h])⟩

end Sys2Proof.Machine

namespace Sys2Proof.Machine

/-! ### A tick of the oscillator: the next state of an empty queue (R17, R361, R363, R406) -/

/-- With an empty queue a step is a tick (log 1). -/
theorem step_of_pending_nil {s : State} (h : s.pending = []) : step s = .next (idle s) := by
  unfold step
  rw [h]

@[simp] theorem tick_ticks (s : State) : (tick s).time.ticks = s.time.ticks + 1 := rfl

/-- The rate that working time keeps while no domain is selected (R363). -/
theorem baseRate_of_two_le_sel {s : State} (h : 2 ≤ s.time.sel) : baseRate s = s.time.rate := by
  have hA : s.time.sel ≠ 0 := by omega
  have hB : s.time.sel ≠ 1 := by omega
  rw [baseRate, if_neg hA, if_neg hB]

/-- While no domain is selected nothing is slewed away: a tick adds its own length and what the kept rate makes of it (R361, R363). -/
theorem tick_now_of_two_le_sel {s : State} (h : 2 ≤ s.time.sel) :
    (tick s).time.now = s.time.now +
      ((tickNs s.time.ticks : Int) + if keeperOn s then (tickNs s.time.ticks : Int) * s.time.rate / 10 ^ 9 else 0).toNat := by
  have hsel : ¬ s.time.sel < 2 := Nat.not_lt.mpr h
  simp only [tick, slewFor, if_neg hsel, baseRate_of_two_le_sel h, Int.add_zero]

/-- A tick changes only the time block. -/
theorem tick_frame (s : State) : { tick s with time := s.time } = s := rfl

@[simp] theorem safetyPins_time (s : State) : (safetyPins s).time = s.time := by
  unfold safetyPins
  split
  · rfl
  · rfl

/-- SAFE_FAULT_N and SAFE_STATE are pins, and `safetyPins` changes nothing else. -/
theorem safetyPins_frame (s : State) : { safetyPins s with pins := s.pins } = s := by
  unfold safetyPins
  split
  · rfl
  · rfl

theorem idle_time (s : State) : (idle s).time = (tick s).time := safetyPins_time (tick s)

/-- An idle step changes only the time block, by its tick, and the pins. -/
theorem idle_frame (s : State) : { idle s with time := s.time, pins := s.pins } = s :=
  calc { idle s with time := s.time, pins := s.pins }
    _ = { { safetyPins (tick s) with pins := (tick s).pins } with time := s.time } := rfl
    _ = { tick s with time := s.time } := by rw [safetyPins_frame]
    _ = s := tick_frame s

/-- Settles O2: the tick gives the time block (R17's increment is `tickNs`), and the pins of R406 leave it as it is. -/
theorem idleStepTicks : Obligations.IdleStepTicks := by
  intro s hpending
  refine ⟨step_of_pending_nil hpending, ?_, fun hsel => ?_, idle_frame s⟩
  · rw [idle_time, tick_ticks]
  · rw [idle_time]
    exact tick_now_of_two_le_sel hsel

end Sys2Proof.Machine

namespace Sys2Proof.Machine

/-! ### The shared run of a packet command: no effect, a failed word, or the command's own effect -/

section

variable {c : Instr} {p : Pkt} {s t u : State} {host : Bool} {chk : Option Fail} {act : State → State}

/-- A failed list check meets no failed word: only the check of a memory range does (R297). -/
theorem firstFail_word {l : List (Bool × Code × Nat)} {f : Fail} (h : firstFail l = some f) : f.word = none := by
  induction l with
  | nil => cases h
  | cons e r ih =>
    obtain ⟨bad, code, off⟩ := e
    cases bad with
    | true => cases h; rfl
    | false => exact ih h

theorem firstFails_word {l : List (List (Bool × Code × Nat))} {f : Fail} (h : firstFails l = some f) : f.word = none :=
  firstFail_word h

/-- A refusal whose check met no failed word is a plain rejection. -/
theorem refuse_of_no_word {f : Fail} (p : Pkt) (s : State) (h : f.word = none) : refuse p f s = reject p f 0 s := by
  simp only [refuse, h]

/-- A failed word that the check met is charged before the packet is rejected (R297). -/
theorem refuse_of_word {f : Fail} {w : Nat} (p : Pkt) (s : State) (h : f.word = some w) :
    refuse p f s = reject p f 0 (wordEvent w p.ctx s) := by
  simp only [refuse, h]

/-- All that the run of a command can come to: the device untouched, a failed word charged to its channel, or the command's effect. -/
inductive RunEnds (p : Pkt) (s : State) (chk : Option Fail) (act : State → State) (t : State) : Prop
  | untouched (h : SameDevice p s t)
  | badWord {f : Fail} {w : Nat} (hchk : chk = some f) (hw : f.word = some w) (h : SameDevice p (wordEvent w p.ctx s) t)
  | acts (hp : Passes p s) (hchk : chk = none) (h : t = act s)

/-- A packet that may not act yet, or that fails a check, leaves at most a failed word (R80, R81, R87, R297). -/
theorem runEnds_of_runCmd (h : runCmd p s chk act = .next t) : RunEnds p s chk act t := by
  unfold runCmd at h
  split at h
  case isTrue => cases h; exact .untouched (SameDevice.refl p s)
  case isFalse hm =>
    split at h
    next f _ => cases h; exact .untouched (sameDevice_reject p f 0 s)
    next hg =>
      cases chk with
      | some f =>
        cases h
        cases hw : f.word with
        | none => rw [refuse_of_no_word p s hw]; exact .untouched (sameDevice_reject p f 0 s)
        | some w => rw [refuse_of_word p s hw]; exact .badWord rfl hw (sameDevice_reject p f 0 _)
      | none =>
        dsimp only at h
        split at h
        case isTrue => cases h; exact .untouched (sameDevice_reject p _ 0 s)
        case isFalse hu => cases h; exact .acts ⟨hg, by simpa using hu, by simpa using hm⟩ rfl rfl

/-- A wait at a held host-memory request touches only the packet's flight (R482). -/
theorem runEnds_of_runHost (h : runHost p s host chk act = .next t) : RunEnds p s chk act t := by
  unfold runHost at h
  split at h
  case isTrue => cases h; exact .untouched (sameDevice_hostWait p s)
  case isFalse =>
    cases runEnds_of_runCmd h with
    | untouched hs => exact .untouched hs
    | badWord hchk hw hs => exact .badWord hchk hw hs
    | acts hp hchk ht =>
      subst ht
      unfold actHost
      dsimp only
      split
      case isTrue => exact .untouched (sameDevice_hostWait p s)
      case isFalse => exact .acts hp hchk rfl

/-! ### A command whose effect ends in its reply -/

theorem doesThen_of_next {post : State → State} {notes w0 w1 w2 : Nat}
    (he : exec c s = .next (post (answerPkt p .ok notes w0 w1 w2 u))) : DoesThen c p s notes w0 w1 w2 u post :=
  ⟨_, he, answered_answerPkt p notes w0 w1 w2 u, sameDevice_answerPkt p .ok notes w0 w1 w2 u⟩

theorem does_of_next {notes w0 w1 w2 : Nat} (he : exec c s = .next (answerPkt p .ok notes w0 w1 w2 u)) :
    Does c p s notes w0 w1 w2 u :=
  doesThen_of_next (post := id) he

theorem waits_of_next (he : exec c s = .next (handOn p u)) : Waits c p s u :=
  ⟨_, he, handedOn_handOn p u, sameDevice_handOn p u⟩

end

/-! ### The rows of the cascade commands (R46) -/

theorem exec_cascQuery (p : Pkt) (s : State) : exec (.cascQuery p) s = runCmd p s none (actCascQuery p) := rfl

theorem exec_cascSetSource (p : Pkt) (s : State) :
    exec (.cascSetSource p) s = runCmd p s (chkCascSetSource p s) (actCascSetSource p) := rfl

theorem exec_cascBind (p : Pkt) (s : State) :
    exec (.cascBind p) s = runHost p s (bindHost p s) (chkCascBind p s) (actCascBind p) := rfl

theorem exec_cascSetHold (p : Pkt) (s : State) :
    exec (.cascSetHold p) s = runCmd p s (chkCascSetHold p s) (actCascSetHold p) := rfl

theorem exec_cascLift (p : Pkt) (s : State) : exec (.cascLift p) s = runCmd p s (chkTier p s) (actCascLift p) := rfl

theorem exec_cascBallast (p : Pkt) (s : State) : exec (.cascBallast p) s = runCmd p s (chkTier p s) (actCascBallast p) := rfl

theorem exec_cascReadLog (p : Pkt) (s : State) :
    exec (.cascReadLog p) s = runHost p s false (chkCascReadLog p s) (actCascReadLog p) := rfl

theorem exec_cascReadReel (p : Pkt) (s : State) :
    exec (.cascReadReel p) s = runCmd p s (chkCascReadReel p s) (actCascReadReel p) := rfl

theorem exec_cascCounters (p : Pkt) (s : State) : exec (.cascCounters p) s = runCmd p s none (actCascCounters p) := rfl

theorem exec_cascSetTimer (p : Pkt) (s : State) : exec (.cascSetTimer p) s = runCmd p s none (actCascSetTimer p) := rfl

/-- Settles O12: a command that passes its checks acts at once, and each effect is a reply after the changes that the clause writes out,
but for CASC_READ_REEL, which is handed on to its copy. -/
theorem cascadeCommandsComplete : Obligations.CascadeCommandsComplete := by
  intro p s hp
  refine ⟨?query, fun hc => ?source, fun hh hc => ?bind, fun hc => ?hold, fun hc => ?lift, fun hc => ?ballast, fun hh hc => ?log,
    fun hc => ?reel, ?counters, ?timer⟩
  case query => exact does_of_next ((exec_cascQuery p s).trans (runCmd_of_passes hp rfl))
  case source => exact does_of_next ((exec_cascSetSource p s).trans (runCmd_of_passes hp hc))
  case bind => exact does_of_next ((exec_cascBind p s).trans (runHost_of_passes ⟨hp, hh⟩ hc))
  case hold => exact does_of_next ((exec_cascSetHold p s).trans (runCmd_of_passes hp hc))
  case lift => exact does_of_next ((exec_cascLift p s).trans (runCmd_of_passes hp hc))
  case ballast => exact doesThen_of_next ((exec_cascBallast p s).trans (runCmd_of_passes hp hc))
  case log => exact does_of_next ((exec_cascReadLog p s).trans (runHost_of_passes ⟨hp, hh⟩ hc))
  case reel => exact waits_of_next ((exec_cascReadReel p s).trans (runCmd_of_passes hp hc))
  case counters => exact does_of_next ((exec_cascCounters p s).trans (runCmd_of_passes hp rfl))
  case timer => exact does_of_next ((exec_cascSetTimer p s).trans (runCmd_of_passes hp rfl))

/-! ### What a cascade command leaves unchanged -/

/-- The parts of the device that no configuration or query command of the cascade reaches. -/
structure SameBesideCascade (s t : State) : Prop where
  pending : t.pending = s.pending
  glb : t.glb = s.glb
  sched : t.sched = s.sched
  models : t.models = s.models
  cams : t.cams = s.cams
  audio : t.audio = s.audio
  time : t.time = s.time
  net : t.net = s.net
  safe : t.safe = s.safe
  power : t.power = s.power
  boot : t.boot = s.boot
  pins : t.pins = s.pins
  freeCtr : t.freeCtr = s.freeCtr

section

variable {p : Pkt} {s t u : State} {chk : Option Fail} {act : State → State}

theorem SameBesideCascade.refl (s : State) : SameBesideCascade s s := by
  constructor <;> rfl

theorem SameBesideCascade.trans (h : SameBesideCascade s t) (k : SameBesideCascade t u) : SameBesideCascade s u where
  pending := k.pending.trans h.pending
  glb := k.glb.trans h.glb
  sched := k.sched.trans h.sched
  models := k.models.trans h.models
  cams := k.cams.trans h.cams
  audio := k.audio.trans h.audio
  time := k.time.trans h.time
  net := k.net.trans h.net
  safe := k.safe.trans h.safe
  power := k.power.trans h.power
  boot := k.boot.trans h.boot
  pins := k.pins.trans h.pins
  freeCtr := k.freeCtr.trans h.freeCtr

theorem SameDevice.sameBesideCascade (h : SameDevice p s t) : SameBesideCascade s t :=
  ⟨h.pending, h.glb, h.sched, h.models, h.cams, h.audio, h.time, h.net, h.safe, h.power, h.boot, h.pins, h.freeCtr⟩

/-- The changes of cascade, Reel and memory alone. -/
theorem sameBesideCascade_update (s : State) (casc : Casc) (reel : Reel) (store : Store) :
    SameBesideCascade s { s with casc := casc, reel := reel, store := store } := by
  constructor <;> rfl

theorem sameBesideCascade_ite {b : Prop} [Decidable b] (ht : SameBesideCascade s t) (hu : SameBesideCascade s u) :
    SameBesideCascade s (if b then t else u) := by
  split
  · exact ht
  · exact hu

theorem sameBesideCascade_foldl {α : Type} {f : State → α → State} (hf : ∀ t a, SameBesideCascade t (f t a)) (l : List α)
    (s : State) : SameBesideCascade s (l.foldl f s) := by
  induction l generalizing s with
  | nil => exact .refl s
  | cons a r ih => exact (hf s a).trans (ih _)

/-- A write of a context reaches memory and, for a page of the host, the link alone (R113, R226). -/
theorem sameBesideCascade_vwrite (h va : Nat) (bs : List Byte) (s : State) : SameBesideCascade s (vwrite h va bs s) := by
  refine (sameBesideCascade_foldl (fun t piece => ?_) _ s).trans (sameBesideCascade_update _ _ _ _)
  obtain ⟨l, lo, k⟩ := piece
  exact sameBesideCascade_ite (sameDevice_emitHost ⟨0, 0, 0, []⟩ _ t).sameBesideCascade (sameBesideCascade_update t _ _ _)

theorem SameBesideCascade.completeOk (h : SameBesideCascade s u) (p : Pkt) (w0 w1 w2 : Nat) :
    SameBesideCascade s (completeOk p w0 w1 w2 u) :=
  h.trans (sameDevice_completeOk p w0 w1 w2 u).sameBesideCascade

/-- A command whose checks meet no failed word reaches only what its effect reaches. -/
theorem RunEnds.sameBesideCascade (h : RunEnds p s chk act t) (hword : ∀ f, chk = some f → f.word = none)
    (hact : SameBesideCascade s (act s)) : SameBesideCascade s t := by
  cases h with
  | untouched hs => exact hs.sameBesideCascade
  | @badWord f w hchk hw hs =>
    rw [hword f hchk] at hw
    cases hw
  | acts hp hchk ht =>
    subst ht
    exact hact

end

/-! #### The effects -/

section

variable (p : Pkt) (s : State)

theorem sameBesideCascade_actCascBind : SameBesideCascade s (actCascBind p s) :=
  (sameBesideCascade_ite (sameBesideCascade_update s _ _ _) (sameBesideCascade_update s _ _ _)).completeOk p 0 0 0

theorem sameBesideCascade_actCascReadLog : SameBesideCascade s (actCascReadLog p s) :=
  (sameBesideCascade_vwrite _ _ _ s).completeOk p _ _ _

/-- The copy is opened, and the packet handed on to it (R31). -/
theorem sameBesideCascade_actCascReadReel : SameBesideCascade s (actCascReadReel p s) :=
  (sameBesideCascade_update s _ _ _).trans (sameDevice_handOn p _).sameBesideCascade

theorem sameBesideCascade_actCascCounters : SameBesideCascade s (actCascCounters p s) :=
  (sameBesideCascade_ite (sameBesideCascade_update s _ _ _) (.refl s)).completeOk p _ _ _

end

/-- Settles O40: a command that does not act touches no part of the device, since no check of a cascade command meets a failed word;
and each effect is confined to the cascade, the Reel and memory. -/
theorem cascadeCommandsFrame : Obligations.CascadeCommandsFrame := by
  intro p c s t hc h
  suffices hs : SameBesideCascade s t from
    ⟨hs.pending, hs.glb, hs.sched, hs.models, hs.cams, hs.audio, hs.time, hs.net, hs.safe, hs.power, hs.boot, hs.pins, hs.freeCtr⟩
  rcases hc with rfl | rfl | rfl | rfl | rfl | rfl | rfl | rfl
  · rw [exec_cascQuery] at h
    exact (runEnds_of_runCmd h).sameBesideCascade nofun ((SameBesideCascade.refl s).completeOk p _ _ _)
  · rw [exec_cascSetSource] at h
    exact (runEnds_of_runCmd h).sameBesideCascade (fun _ => firstFail_word) ((sameBesideCascade_update s _ _ _).completeOk p 0 0 0)
  · rw [exec_cascBind] at h
    exact (runEnds_of_runHost h).sameBesideCascade (fun _ => firstFail_word) (sameBesideCascade_actCascBind p s)
  · rw [exec_cascSetHold] at h
    exact (runEnds_of_runCmd h).sameBesideCascade (fun _ => firstFail_word) ((sameBesideCascade_update s _ _ _).completeOk p 0 0 0)
  · rw [exec_cascReadLog] at h
    exact (runEnds_of_runHost h).sameBesideCascade (fun _ => firstFails_word) (sameBesideCascade_actCascReadLog p s)
  · rw [exec_cascReadReel] at h
    exact (runEnds_of_runCmd h).sameBesideCascade (fun _ => firstFails_word) (sameBesideCascade_actCascReadReel p s)
  · rw [exec_cascCounters] at h
    exact (runEnds_of_runCmd h).sameBesideCascade nofun (sameBesideCascade_actCascCounters p s)
  · rw [exec_cascSetTimer] at h
    exact (runEnds_of_runCmd h).sameBesideCascade nofun ((sameBesideCascade_update s _ _ _).completeOk p 0 0 0)

/-! ### The rows of the cascade events -/

section

variable {s : State}

@[simp] theorem elapseTo_casc (t : Nat) (s : State) : (elapseTo t s).casc = s.casc := by
  unfold elapseTo
  split
  · dsimp only
    split <;> rfl
  · rfl

/-- A block whose level reaches the enabled energy gate acts by the power state (R25). -/
theorem execEnergyGateDecision_of_reached {level : Nat} (hen : (srcCfg s 0 0).enable = true)
    (hlift : (srcCfg s 0 0).lift ≤ heldScore s 0 level) :
    execEnergyGateDecision level s =
      if s.power.state = .sample then .next (wakeTo .moor 1 0 s)
      else if s.power.state = .moor then .next { s with casc.gateFrom := s.time.now } else .next s :=
  if_neg (by simp [hen, hlift])

/-- A tier that warms up clears its start of warm-up at the end of it, and goes on by the Lift that waits (R37, R44). -/
theorem execWarmUpComplete_of_warming {k : Nat} (hk : noTier k = false) (hst : (tierOf s k).state = .warming) :
    execWarmUpComplete k s =
      let u := elapseTo ((tierOf s k).warmFrom.getD (tierOf s k).since + warmNs k) s
      let s1 := modTier k (fun t => { t with warmFrom := none }) u
      match (tierOf s k).lift with
      | none => .next (enterTier k .warm id s1)
      | some l =>
        if (l.bind.map fun b => bindValid s1 l.target b).getD false then .next (armTier k l s1)
        else .next (ballast k 6 l.rewind s1) :=
  (if_neg (by simp [hk])).trans (if_neg (by simp [hst]))

/-- A due alarm sets the next one and raises its Lift while the timer source is enabled (R46). -/
theorem execRtcAlarm_of_alarm {a : Nat} (ha : s.casc.alarm = some a) :
    execRtcAlarm s =
      let s1 := elapseTo a s
      let s2 := { s1 with casc.alarm := if s.casc.period = 0 then none else some (nextAlarm a s.casc.period s1.time.now) }
      .next (if (srcCfg s 0 4).enable then plainLift 4 0 s2 else s2) := by
  unfold execRtcAlarm
  rw [ha]
  simp [srcCfg]

end

/-- Settles O27: each clause's hypotheses decide the row's tests, and what is left is the answer that the clause writes out. -/
theorem cascadeEventsComplete : Obligations.CascadeEventsComplete := by
  intro s
  refine ⟨?gateSample, ?gateMoor, ?detector, ?sampleHold, ?window, ?warm, ?warmLift, ?arming, ?idleHold, ?powerDown, rfl, ?supply,
    ?alarm, ?alarmOff, ?sameLevel, ?edge, ?presence, ?copy, ?copyHeld⟩
  case gateSample =>
    intro level hst hen hl
    exact (execEnergyGateDecision_of_reached hen hl).trans (if_pos hst)
  case gateMoor =>
    intro level hst hen hl
    have hns : s.power.state ≠ .sample := by simp [hst]
    exact (execEnergyGateDecision_of_reached hen hl).trans ((if_neg hns).trans (if_pos hst))
  case detector =>
    intro reason score input trigger frame hpos hle hruns
    have hreason : ¬(reason = 0 ∨ 3 < reason) := by omega
    exact (if_neg hreason).trans (if_neg (by simp [hruns]))
  case sampleHold =>
    intro hst hmove hen hfloor htiers
    exact if_pos ⟨hst, by simp [hmove], hen, hfloor, by simp [htiers]⟩
  case window =>
    intro tier e hk he hst hl
    have hcond : (((tierOf s tier).state == .warming || (tierOf s tier).state == .warm) && (tierOf s tier).lift.isNone) = true := by
      simpa [hl] using hst
    show execUpdraftWindowEnd tier s = _
    unfold execUpdraftWindowEnd
    rw [if_neg (by simp [hk])]
    dsimp only
    rw [he]
    exact if_pos hcond
  case warm =>
    intro tier hk hst hl
    refine (execWarmUpComplete_of_warming hk hst).trans ?_
    rw [hl]
  case warmLift =>
    intro tier l hk hst hl
    refine (execWarmUpComplete_of_warming hk hst).trans ?_
    rw [hl]
    exact (apply_ite Host.Outcome.next _ _ _).symm
  case arming =>
    intro tier hk hst
    exact (if_neg (by simp [hk])).trans (if_neg (by simp [hst]))
  case idleHold =>
    intro tier hk hhold hst
    exact (if_neg (by simp [hk])).trans ((if_neg hhold).trans (if_neg (by simp [hst])))
  case powerDown =>
    intro tier hk hst
    have hdown : ¬((tierOf s tier).state ≠ .falling ∧ (tierOf s tier).state ≠ .sinking) := by
      rintro ⟨hf, hs⟩
      exact hst.elim hf hs
    exact (if_neg (by simp [hk])).trans (if_neg hdown)
  case supply =>
    intro tier q b hq hb hserves hroom
    show execReelReaderSupply tier s = _
    unfold execReelReaderSupply
    rw [hq]
    dsimp only
    rw [hb]
    exact if_pos (by simp [hserves, hroom])
  case alarm =>
    intro a ha hen
    exact (execRtcAlarm_of_alarm ha).trans (congrArg Host.Outcome.next (if_pos hen))
  case alarmOff =>
    intro a ha hen
    have hoff : ¬(srcCfg s 0 4).enable = true := by simp [hen]
    exact (execRtcAlarm_of_alarm ha).trans (congrArg Host.Outcome.next (if_neg hoff))
  case sameLevel =>
    intro pin level hpin hlevel
    exact (if_neg (by omega)).trans (if_pos hlevel)
  case edge =>
    intro pin level hpin hlevel
    refine ((if_neg (by omega)).trans (if_neg hlevel)).trans ?_
    rw [apply_ite Host.Outcome.next, apply_ite Host.Outcome.next]
  case presence =>
    intro payload hon
    exact if_neg (by simp [hon])
  case copy =>
    intro c hc hf
    have hwait : ¬(held s = true ∧ rangeHost s c.pkt.ctx c.dest (1296 * c.count) = true) := by
      rintro ⟨hh, hr⟩
      simp [hh, hr] at hf
    show execReelReaderCopyComplete s = _
    unfold execReelReaderCopyComplete
    rw [hc]
    exact if_neg hwait
  case copyHeld =>
    intro c hc hh hr
    show execReelReaderCopyComplete s = _
    unfold execReelReaderCopyComplete
    rw [hc]
    exact if_pos ⟨hh, hr⟩

end Sys2Proof.Machine

namespace Sys2Proof.Machine

/-! ### Messages and event flags: what a hardware set changes (R63, R64, R70, R71, R73) -/

section

variable (k v : Nat) (s : State)

/-- A raised vector is pending or sent, and nothing else happens. -/
theorem raiseVec_frame : { raiseVec v s with link := s.link, out := s.out } = s := by
  unfold raiseVec
  dsimp only
  split
  · rfl
  · rfl

@[simp] theorem raiseVec_glb : (raiseVec v s).glb = s.glb := (congrArg State.glb (raiseVec_frame v s) :)

/-- A hardware set of GLB_EVENT changes global registers and raises at most a vector. -/
theorem glbEvent_frame : { glbEvent k s with glb := s.glb, link := s.link, out := s.out } = s := by
  unfold glbEvent
  dsimp only
  split
  · exact congrArg (fun t : State => { t with glb := s.glb }) (raiseVec_frame k _)
  · rfl

theorem glbErr_frame : { glbErr k s with glb := s.glb, link := s.link, out := s.out } = s := by
  unfold glbErr
  dsimp only
  split
  · exact congrArg (fun t : State => { t with glb := s.glb }) (glbEvent_frame 9 _)
  · rfl

@[simp] theorem glbEvent_ctxs : (glbEvent k s).ctxs = s.ctxs := (congrArg State.ctxs (glbEvent_frame k s) :)

@[simp] theorem glbEvent_event : (glbEvent k s).glb.event = s.glb.event ||| (BitVec.ofNat 32 (1 <<< k) &&& 0x3FF) := by
  unfold glbEvent
  dsimp only
  split
  · rw [raiseVec_glb]
  · rfl

@[simp] theorem glbEvent_evCnt : (glbEvent k s).glb.evCnt = tmod s.glb.evCnt k (· + 1) := by
  unfold glbEvent
  dsimp only
  split
  · rw [raiseVec_glb]
  · rfl

@[simp] theorem glbEvent_err : (glbEvent k s).glb.err = s.glb.err := by
  unfold glbEvent
  dsimp only
  split
  · rw [raiseVec_glb]
  · rfl

@[simp] theorem glbEvent_errCnt : (glbEvent k s).glb.errCnt = s.glb.errCnt := by
  unfold glbEvent
  dsimp only
  split
  · rw [raiseVec_glb]
  · rfl

@[simp] theorem glbErr_err : (glbErr k s).glb.err = s.glb.err ||| (BitVec.ofNat 32 (1 <<< k) &&& 0xFF) := by
  unfold glbErr
  dsimp only
  split
  · rw [glbEvent_err]
  · rfl

@[simp] theorem glbErr_errCnt : (glbErr k s).glb.errCnt = tmod s.glb.errCnt k (· + 1) := by
  unfold glbErr
  dsimp only
  split
  · rw [glbEvent_errCnt]
  · rfl

end

/-! ### W1C flags: one hardware set, and all those of a cycle (R73) -/

/-- Bit `k` below `w`, under the mask of the `w` flags of a register. -/
theorem getLsbD_maskedBit {w k : Nat} (hk : k < w) (hw : w ≤ 32) (j : Nat) :
    (BitVec.ofNat 32 (1 <<< k) &&& BitVec.ofNat 32 (2 ^ w - 1)).getLsbD j = decide (j = k) := by
  rw [BitVec.getLsbD_and, BitVec.getLsbD_ofNat, BitVec.getLsbD_ofNat, Nat.one_shiftLeft, Nat.testBit_two_pow,
    Nat.testBit_two_pow_sub_one]
  by_cases hj : j = k
  · have hk32 : k < 32 := by omega
    simp [hj, hk, hk32]
  · have hkj : k ≠ j := Ne.symm hj
    simp [hj, hkj]

/-- `set` is the hardware set of one of `w` flags: `flags` is the register that holds them, and `cnt` their counters. -/
structure SetsFlag (w : Nat) (set : Nat → State → State) (flags : State → Word) (cnt : State → Tbl (BitVec 16)) : Prop where
  flag : ∀ {k : Nat}, k < w → ∀ (s : State) (j : Nat), (flags (set k s)).getLsbD j = ((flags s).getLsbD j || decide (j = k))
  count : ∀ (k : Nat) (s : State), cnt (set k s) = tmod (cnt s) k (· + 1)

theorem glbEvent_setsFlag : SetsFlag 10 glbEvent (fun s => s.glb.event) (fun s => s.glb.evCnt) where
  flag hk s j := by
    show (glbEvent _ s).glb.event.getLsbD j = _
    rw [glbEvent_event, BitVec.getLsbD_or]
    exact congrArg _ (getLsbD_maskedBit hk (by decide) j)
  count := glbEvent_evCnt

theorem glbErr_setsFlag : SetsFlag 8 glbErr (fun s => s.glb.err) (fun s => s.glb.errCnt) where
  flag hk s j := by
    show (glbErr _ s).glb.err.getLsbD j = _
    rw [glbErr_err, BitVec.getLsbD_or]
    exact congrArg _ (getLsbD_maskedBit hk (by decide) j)
  count := glbErr_errCnt

theorem mem_bitsOf {w m j : Nat} : j ∈ bitsOf w m ↔ j < w ∧ m.testBit j = true := by
  simp [bitsOf]

theorem nodup_bitsOf (w m : Nat) : (bitsOf w m).Nodup := List.Nodup.filter _ List.nodup_range

section

variable {w : Nat} {set : Nat → State → State} {flags : State → Word} {cnt : State → Tbl (BitVec 16)}

/-- After a list of sets a flag is 1 if it was, or if the list names it. -/
theorem SetsFlag.foldl_flag (h : SetsFlag w set flags cnt) {l : List Nat} (hl : ∀ k ∈ l, k < w) (s : State) (j : Nat) :
    (flags (l.foldl (fun t k => set k t) s)).getLsbD j = ((flags s).getLsbD j || decide (j ∈ l)) := by
  induction l generalizing s with
  | nil => simp
  | cons k r ih =>
    rw [List.foldl_cons, ih (fun i hi => hl i (List.mem_cons_of_mem k hi)), h.flag (hl k List.mem_cons_self), Bool.or_assoc]
    simp [List.mem_cons]

/-- A counter rises by the number of times that a list of sets names its flag. -/
theorem SetsFlag.foldl_count (h : SetsFlag w set flags cnt) (l : List Nat) (s : State) (j : Nat) :
    tgetD (cnt (l.foldl (fun t k => set k t) s)) j = tgetD (cnt s) j + BitVec.ofNat 16 (l.count j) := by
  induction l generalizing s with
  | nil => simp
  | cons k r ih =>
    rw [List.foldl_cons, ih, h.count]
    by_cases hj : j = k
    · subst hj
      rw [tgetD_tmod_self, List.count_cons_self, BitVec.add_assoc, BitVec.ofNat_add, BitVec.add_comm 1]
      rfl
    · rw [tgetD_tmod_other _ _ hj, List.count_cons_of_ne (Ne.symm hj)]

/-- The sets of one cycle: each flag below `w` whose bit in `m` is 1 is set, and counted once. -/
theorem SetsFlag.cycle (h : SetsFlag w set flags cnt) {m k : Nat} (hk : k < w) (s : State) :
    (flags ((bitsOf w m).foldl (fun t k => set k t) s)).getLsbD k = (m.testBit k || (flags s).getLsbD k) ∧
      tgetD (cnt ((bitsOf w m).foldl (fun t k => set k t) s)) k = tgetD (cnt s) k + if m.testBit k then 1 else 0 := by
  constructor
  · rw [h.foldl_flag (fun i hi => (mem_bitsOf.mp hi).1), Bool.or_comm]
    simp [mem_bitsOf, hk]
  · rw [h.foldl_count, (nodup_bitsOf w m).count]
    simp only [mem_bitsOf, hk, true_and]
    split <;> rfl

end

/-- The flag that a write of 1s clears (R73). -/
theorem getLsbD_cleared {a : Word} {v k : Nat} (hk : k < 32) :
    (a &&& ~~~(BitVec.ofNat 32 v)).getLsbD k = (a.getLsbD k && !v.testBit k) := by
  rw [BitVec.getLsbD_and, BitVec.getLsbD_not, BitVec.getLsbD_ofNat]
  simp [hk]

/-! ### Accesses through a BAR (R51, R481) -/

section

variable {s t u v : State}

/-- `barAccess` written out: while Memory Space Enable is set an access does what it does. -/
theorem access_of_mse (hm : s.link.mse = true) (h : u = v) : (.next (if s.link.mse = true then u else s) : Res) = .next v :=
  congrArg Host.Outcome.next ((if_pos hm).trans h)

theorem exec_dbSqWrite {n q : Nat} (v : Nat) (hm : s.link.mse = true) (hn : n ≤ 512) (hq : q ≤ 7) :
    exec (.dbSqWrite n q v) s = .next (writeTail n q v s) :=
  access_of_mse hm (if_neg (by omega))

theorem exec_dbSrWrite {n : Nat} (v : Nat) (hm : s.link.mse = true) (hn : n ≤ 512) :
    exec (.dbSrWrite n v) s = .next (writeHead n v s) :=
  access_of_mse hm (if_neg (by omega))

end

/-- Settles O56: the write clears first, and the sets of its cycle come after it, each counted. -/
theorem setWinsOverClear : Obligations.SetWinsOverClear := by
  intro s value sets k hm
  refine ⟨fun hk => ⟨_, access_of_mse hm rfl, ?_⟩, fun hk => ⟨_, access_of_mse hm rfl, ?_⟩⟩
  · obtain ⟨hflag, hcnt⟩ := glbEvent_setsFlag.cycle (m := sets) hk { s with glb.event := s.glb.event &&& ~~~(BitVec.ofNat 32 value) }
    exact ⟨hflag.trans (congrArg _ (getLsbD_cleared (by omega))), hcnt⟩
  · obtain ⟨hflag, hcnt⟩ := glbErr_setsFlag.cycle (m := sets) hk { s with glb.err := s.glb.err &&& ~~~(BitVec.ofNat 32 value) }
    exact ⟨hflag.trans (congrArg _ (getLsbD_cleared (by omega))), hcnt⟩

/-! ### Doorbell writes (R61, R62) -/

section

variable {s : State} {n q v : Nat} {x : Queue}

theorem ctxOf_rejectDoorbell_self (n : Nat) (s : State) :
    ctxOf (rejectDoorbell n s) n = { ctxOf s n with dbReject := (ctxOf s n).dbReject + 1 } := by
  rw [rejectDoorbell, ctxOf, glbEvent_ctxs]
  exact ctxOf_modCtx_self n _ s

theorem ctxOf_rejectDoorbell_other {h : Nat} (s : State) (hh : h ≠ n) : ctxOf (rejectDoorbell n s) h = ctxOf s h := by
  rw [rejectDoorbell, ctxOf, glbEvent_ctxs]
  exact ctxOf_modCtx_other _ s hh

theorem rejectDoorbell_event (n : Nat) (s : State) : (rejectDoorbell n s).glb.event.getLsbD 7 = true := by
  simp [rejectDoorbell]

theorem rejectDoorbell_frame (n : Nat) (s : State) :
    { rejectDoorbell n s with glb := s.glb, link := s.link, ctxs := s.ctxs, out := s.out } = s :=
  congrArg (fun t : State => { t with ctxs := s.ctxs }) (glbEvent_frame 7 (modCtx n _ s))

theorem writeTail_of_no_queue (v : Nat) (h : tget (ctxOf s n).queues q = none) : writeTail n q v s = rejectDoorbell n s := by
  unfold writeTail
  dsimp only
  rw [h]

/-- A tail write to a queue that exists is rejected on a page that is not open, backward, and too far ahead; else it is taken. -/
theorem writeTail_of_queue (v : Nat) (h : tget (ctxOf s n).queues q = some x) :
    writeTail n q v s =
      if pageOpen s n = false ∨ (BitVec.ofNat 32 v - x.tail).msb = true ∨ 2 ^ x.log2 < (BitVec.ofNat 32 v - x.tail).toNat then
        rejectDoorbell n s
      else modCtx n (fun c => { c with queues := tput c.queues q { x with tail := BitVec.ofNat 32 v } })
        { s with cmd.ringFailed := s.cmd.ringFailed && n != 0 } := by
  unfold writeTail
  dsimp only
  rw [h]
  simp [or_assoc]

/-- A head write is rejected on a page that is not open, backward, and past the entries written to host memory. -/
theorem writeHead_eq (n v : Nat) (s : State) :
    writeHead n v s =
      if pageOpen s n = false ∨ (BitVec.ofNat 32 v - (ctxOf s n).ring.head).msb = true ∨
          ((ctxOf s n).ring.written - BitVec.ofNat 32 (heldEntries s n) - BitVec.ofNat 32 v).msb = true then
        rejectDoorbell n s
      else modCtx n (fun c => { c with ring.head := BitVec.ofNat 32 v }) s := by
  simp [writeHead, or_assoc]

/-- An unchanged value is neither backward nor ahead, so an open page takes it. -/
theorem writeTail_of_unchanged (hx : tget (ctxOf s n).queues q = some x) (ho : pageOpen s n = true) (hv : BitVec.ofNat 32 v = x.tail) :
    writeTail n q v s =
      modCtx n (fun c => { c with queues := tput c.queues q x }) { s with cmd.ringFailed := s.cmd.ringFailed && n != 0 } := by
  rw [writeTail_of_queue v hx, hv, if_neg]
  simp [ho]

/-- To set an entry to its own value changes no entry. -/
theorem tget_tput_of_tget {α : Type} {t : Tbl α} {k : Nat} {a : α} (h : tget t k = some a) (j : Nat) :
    tget (tput t k a) j = tget t j := by
  by_cases hj : j = k
  · rw [hj, tget_tput_self, h]
  · exact tget_tput_other t a hj

end

/-- Settles O55: a rejected write counts in its page and sets its flag, and the tests of a tail or head write are those of R62. -/
theorem doorbellRejections : Obligations.DoorbellRejections := by
  intro s n q v hm hn hq
  refine ⟨⟨?count, rejectDoorbell_event n s, ?page, fun h hh => ctxOf_rejectDoorbell_other s hh, rejectDoorbell_frame n s⟩,
    fun hx => ?noQueue, fun x hx => ⟨fun hr => ?tail, fun ho hv => ?unchanged⟩, fun hr => ?head⟩
  case count => rw [ctxOf_rejectDoorbell_self]
  case page => rw [ctxOf_rejectDoorbell_self]
  case noQueue => rw [exec_dbSqWrite v hm hn hq, writeTail_of_no_queue v hx]
  case tail => rw [exec_dbSqWrite v hm hn hq, writeTail_of_queue v hx, if_pos hr]
  case unchanged =>
    refine ⟨_, (exec_dbSqWrite v hm hn hq).trans (congrArg Host.Outcome.next (writeTail_of_unchanged hx ho hv)), fun k => ?_, ?_,
      fun h hh => ctxOf_modCtx_other _ _ hh, rfl⟩
    · rw [ctxOf_modCtx_self]
      exact tget_tput_of_tget hx k
    · rw [ctxOf_modCtx_self]
      rfl
  case head => rw [exec_dbSrWrite v hm hn, writeHead_eq, if_pos hr]

/-! ### Link resets (R51, R52) -/

/-- What every kind of link reset comes to: `t` is `s` but for its link, whose configuration space is reset and whose hold is in force. -/
structure LinkWasReset (s t : State) : Prop where
  device : { t with link := s.link } = s
  bme : t.link.bme = false
  mse : t.link.mse = false
  pasid : t.link.pasid = false
  ats : t.link.ats = false
  bar0 : t.link.bar0 = 0
  bar2 : t.link.bar2 = 0
  d3hot : t.link.d3hot = false
  hold : held t = true
  table : t.link.msixTable = []

/-- The state that each kind of link reset starts from. -/
def resetLink (s : State) : State := { resetConfigSpace (beginHold s) with link.hold := .linkReset false, link.d3hold := false }

theorem beginHold_frame (s : State) : { beginHold s with link := s.link } = s := by
  unfold beginHold
  split
  · rfl
  · rfl

section

variable {s t : State}

theorem linkWasReset_resetLink (s : State) : LinkWasReset s (resetLink s) where
  device := beginHold_frame s
  bme := rfl
  mse := rfl
  pasid := rfl
  ats := rfl
  bar0 := rfl
  bar2 := rfl
  d3hot := rfl
  hold := rfl
  table := rfl

theorem LinkWasReset.assertPerst (h : LinkWasReset s t) : LinkWasReset s { t with link.perst0 := true } :=
  ⟨h.device, h.bme, h.mse, h.pasid, h.ats, h.bar0, h.bar2, h.d3hot, h.hold, h.table⟩

theorem LinkWasReset.linkDown (h : LinkWasReset s t) : LinkWasReset s (linkDown t) := by
  unfold Machine.linkDown
  split
  · exact ⟨h.device, h.bme, h.mse, h.pasid, h.ats, h.bar0, h.bar2, h.d3hot, h.hold, h.table⟩
  · exact h

/-- What each kind of link reset leads to: PE_PERST0_N and a loss of link take the link down (R51). -/
def linkResetTo (kind : LinkReset) (s : State) : State :=
  match kind with
  | .perst => linkDown { resetLink s with link.perst0 := true }
  | .linkLoss => linkDown (resetLink s)
  | .hotReset | .flr => resetLink s

theorem exec_linkReset (kind : LinkReset) (s : State) : exec (.linkReset kind) s = .next (linkResetTo kind s) := by
  cases kind <;> rfl

theorem linkWasReset_linkResetTo (kind : LinkReset) (s : State) : LinkWasReset s (linkResetTo kind s) := by
  cases kind with
  | perst => exact (linkWasReset_resetLink s).assertPerst.linkDown
  | linkLoss => exact (linkWasReset_resetLink s).linkDown
  | hotReset => exact linkWasReset_resetLink s
  | flr => exact linkWasReset_resetLink s

/-- An empty MSI-X table is all reset values: each vector control word is 1, masked (R481). -/
theorem vectorMasked_of_table_nil (h : s.link.msixTable = []) (v : Nat) : (msixWord s (4 * v + 3)).getLsbD 0 = true := by
  have hv : (4 * v + 3) % 4 = 3 := by omega
  simp [msixWord, h, tget, hv]

end

/-- Settles O50: each kind of link reset leaves a reset configuration space, a hold and an empty MSI-X table, and changes the link alone. -/
theorem linkResetKeepsTheDevice : Obligations.LinkResetKeepsTheDevice := by
  intro kind s
  have h := linkWasReset_linkResetTo kind s
  exact ⟨_, exec_linkReset kind s, h.device, h.bme, h.mse, h.pasid, h.ats, h.bar0, h.bar2, h.d3hot, h.hold,
    vectorMasked_of_table_nil h.table⟩

/-! ### What register, doorbell and link events leave unchanged -/

/-- `t` with those parts of `s` that hold the host attachment: registers, link, contexts, command pair and output. -/
def attachedAs (s t : State) : State :=
  { t with glb := s.glb, link := s.link, ctxs := s.ctxs, cmd := s.cmd, out := s.out }

/-- From `s` to `t` only the host attachment changes. -/
def SameUnits (s t : State) : Prop := attachedAs s t = s

section

variable {s t u : State}

theorem SameUnits.refl (s : State) : SameUnits s s := rfl

theorem SameUnits.trans (h : SameUnits s t) (k : SameUnits t u) : SameUnits s u :=
  (congrArg (attachedAs s) k).trans h

theorem sameUnits_update (s : State) (glb : Glb) (link : Link) (ctxs : Tbl Ctx) (cmd : Cmd) (out : List Out) :
    SameUnits s { s with glb := glb, link := link, ctxs := ctxs, cmd := cmd, out := out } := rfl

theorem sameUnits_ite {c : Prop} [Decidable c] (ht : SameUnits s t) (hu : SameUnits s u) : SameUnits s (if c then t else u) := by
  split
  · exact ht
  · exact hu

theorem sameUnits_foldl {α : Type} {f : State → α → State} (hf : ∀ t a, SameUnits t (f t a)) (l : List α) (s : State) :
    SameUnits s (l.foldl f s) := by
  induction l generalizing s with
  | nil => exact .refl s
  | cons a r ih => exact (hf s a).trans (ih _)

theorem sameUnits_glbEvent (k : Nat) (s : State) : SameUnits s (glbEvent k s) :=
  (congrArg (attachedAs s) (glbEvent_frame k s) :)

theorem sameUnits_glbErr (k : Nat) (s : State) : SameUnits s (glbErr k s) :=
  (congrArg (attachedAs s) (glbErr_frame k s) :)

theorem sameUnits_rejectDoorbell (n : Nat) (s : State) : SameUnits s (rejectDoorbell n s) :=
  (congrArg (attachedAs s) (rejectDoorbell_frame n s) :)

theorem sameUnits_clearEvent (v sets : Nat) (s : State) : SameUnits s (clearEvent v sets s) :=
  (sameUnits_update s _ _ _ _ _).trans (sameUnits_foldl (fun t k => sameUnits_glbEvent k t) _ _)

theorem sameUnits_clearErr (v sets : Nat) (s : State) : SameUnits s (clearErr v sets s) :=
  (sameUnits_update s _ _ _ _ _).trans (sameUnits_foldl (fun t k => sameUnits_glbErr k t) _ _)

theorem sameUnits_writeMring (v : Nat) (s : State) : SameUnits s (writeMring v s) :=
  sameUnits_ite (sameUnits_ite (.refl s) (sameUnits_update s _ _ _ _ _)) <|
    sameUnits_ite (sameUnits_update s _ _ _ _ _) <|
      sameUnits_ite ((sameUnits_update s _ _ _ _ _).trans (sameUnits_glbErr 6 _)) (sameUnits_update s _ _ _ _ _)

theorem sameUnits_writeTail (n q v : Nat) (s : State) : SameUnits s (writeTail n q v s) := by
  cases hx : tget (ctxOf s n).queues q with
  | none =>
    rw [writeTail_of_no_queue v hx]
    exact sameUnits_rejectDoorbell n s
  | some x =>
    rw [writeTail_of_queue v hx]
    exact sameUnits_ite (sameUnits_rejectDoorbell n s) (sameUnits_update s _ _ _ _ _)

theorem sameUnits_writeHead (n v : Nat) (s : State) : SameUnits s (writeHead n v s) := by
  rw [writeHead_eq]
  exact sameUnits_ite (sameUnits_rejectDoorbell n s) (sameUnits_update s _ _ _ _ _)

theorem sameUnits_of_next (h : .next u = (.next t : Res)) (hu : SameUnits s u) : SameUnits s t := by
  cases h
  exact hu

theorem sameUnits_of_access (h : .next (if s.link.mse = true then u else s) = (.next t : Res)) (hu : SameUnits s u) : SameUnits s t :=
  sameUnits_of_next h (sameUnits_ite hu (.refl s))

theorem sameUnits_beginHold (s : State) : SameUnits s (beginHold s) := (congrArg (attachedAs s) (beginHold_frame s) :)

theorem sameUnits_linkResetTo (kind : LinkReset) (s : State) : SameUnits s (linkResetTo kind s) :=
  (congrArg (attachedAs s) (linkWasReset_linkResetTo kind s).device :)

theorem sameUnits_of_msixEntryUnmask {vector : Option Nat} (h : execMsixEntryUnmask vector s = .next t) : SameUnits s t := by
  cases vector with
  | none => exact sameUnits_of_next h (sameUnits_ite (sameUnits_update s _ _ _ _ _) (.refl s))
  | some v => exact sameUnits_of_access h (sameUnits_ite (.refl s) (sameUnits_update s _ _ _ _ _))

theorem sameUnits_of_atsInvalidation {ctx page : Nat} (h : execAtsInvalidation ctx page s = .next t) : SameUnits s t := by
  unfold execAtsInvalidation at h
  split at h
  · cases h
  · exact sameUnits_of_next h (sameUnits_update s _ _ _ _ _)

/-- The 100 ms of R54 move the time block alone. -/
theorem elapseTo_frame (n : Nat) (s : State) : { elapseTo n s with time := s.time } = s := by
  unfold elapseTo
  split
  · dsimp only
    split
    · rfl
    · rfl
  · rfl

/-- A root port that comes up passes 100 ms before it does (R54). -/
theorem sameUnits_of_rootPortRetrain {up : Bool} {speed width : Nat} (h : execRootPortRetrain up speed width s = .next t) :
    SameUnits s t ∨ SameUnits (elapseTo 100000000 s) t := by
  unfold execRootPortRetrain at h
  split at h
  · exact .inl (sameUnits_of_next h (.refl s))
  · exact .inr (sameUnits_of_next h ((sameUnits_update _ _ _ _ _ _).trans (sameUnits_glbEvent 8 _)))

/-- `attachedAs` with the time block of `s` as well. -/
def attachedAndTimedAs (s t : State) : State := { attachedAs s t with time := s.time }

/-- From `s` to `t` only the host attachment and the time block change. -/
def SameUnitsBesideTime (s t : State) : Prop := attachedAndTimedAs s t = s

theorem SameUnits.besideTime (h : SameUnits s t) : SameUnitsBesideTime s t := (congrArg (attachedAndTimedAs s) h :)

theorem SameUnits.besideTime_of_elapseTo {n : Nat} (h : SameUnits (elapseTo n s) t) : SameUnitsBesideTime s t :=
  (congrArg (attachedAndTimedAs s) h :).trans (congrArg (attachedAs s) (elapseTo_frame n s) :)

theorem SameUnits.time (h : SameUnits s t) : t.time = s.time := (congrArg State.time h :)

end

/-- Settles O48: each row changes the host attachment alone, but that the root port's retraining passes time as well. -/
theorem registerEventsFrame : Obligations.RegisterEventsFrame := by
  intro c s t hc h
  suffices hs : SameUnits s t ∨ (∃ up speed width, c = .rootPortRetrain up speed width) ∧ SameUnits (elapseTo 100000000 s) t by
    have hb : SameUnitsBesideTime s t := hs.elim (·.besideTime) (·.2.besideTime_of_elapseTo)
    exact ⟨(congrArg State.pending hb :), (congrArg State.casc hb :), (congrArg State.reel hb :), (congrArg State.sched hb :),
      (congrArg State.models hb :), (congrArg State.cams hb :), (congrArg State.audio hb :),
      hs.imp (·.time) (And.imp_right (·.time)), (congrArg State.net hb :), (congrArg State.safe hb :), (congrArg State.power hb :),
      (congrArg State.boot hb :), (congrArg State.pins hb :), (congrArg State.freeCtr hb :)⟩
  obtain ⟨write, rfl⟩ | ⟨wide, rfl⟩ | ⟨value, sets, rfl⟩ | ⟨value, sets, rfl⟩ | ⟨value, rfl⟩ | ⟨value, rfl⟩ |
    ⟨page, queue, value, rfl⟩ | ⟨page, value, rfl⟩ | ⟨vector, rfl⟩ | ⟨kind, rfl⟩ | rfl | ⟨ctx, page, rfl⟩ |
    ⟨up, speed, width, rfl⟩ := hc
  -- the registers
  · refine .inl (sameUnits_of_access h ?_)
    exact (sameUnits_ite (.refl s) (sameUnits_update s _ _ _ _ _)).trans (sameUnits_glbErr 0 _)
  · exact .inl (sameUnits_of_access h (sameUnits_update s _ _ _ _ _))
  · exact .inl (sameUnits_of_access h (sameUnits_clearEvent value sets s))
  · exact .inl (sameUnits_of_access h (sameUnits_clearErr value sets s))
  · exact .inl (sameUnits_of_access h (sameUnits_writeMring _ s))
  · exact .inl (sameUnits_of_access h (sameUnits_writeMring _ s))
  -- the doorbells
  · exact .inl (sameUnits_of_access h (sameUnits_ite (.refl s) (sameUnits_writeTail page queue value s)))
  · exact .inl (sameUnits_of_access h (sameUnits_ite (.refl s) (sameUnits_writeHead page value s)))
  -- messages, the link and D3hot
  · exact .inl (sameUnits_of_msixEntryUnmask h)
  · exact .inl (sameUnits_of_next ((exec_linkReset kind s).symm.trans h) (sameUnits_linkResetTo kind s))
  · refine .inl (sameUnits_of_next h (sameUnits_ite ?_ (.refl s)))
    exact (sameUnits_beginHold s).trans (sameUnits_update _ _ _ _ _ _)
  · exact .inl (sameUnits_of_atsInvalidation h)
  · exact (sameUnits_of_rootPortRetrain h).imp_right fun ht => ⟨⟨up, speed, width, rfl⟩, ht⟩

/-! ### The state after reset (R66, R481) -/

/-- At reset the management context alone exists (R108). -/
theorem ctxOf_reset_of_ne_zero {h : Nat} (hh : h ≠ 0) : ctxOf State.reset h = {} := by
  have hget : tget State.reset.ctxs h = none := if_neg (Ne.symm hh)
  rw [ctxOf, tgetD, hget]
  rfl

/-- Settles O3: the MSI-X table holds no word, the context table the management context alone, and each other value is a field's default. -/
theorem resetState : Obligations.ResetState :=
  ⟨rfl, rfl, vectorMasked_of_table_nil rfl, rfl, rfl, rfl, rfl, rfl, rfl, rfl, rfl, rfl, rfl, rfl, rfl, rfl, rfl, rfl, rfl, rfl,
    fun _ hh => congrArg Ctx.state (ctxOf_reset_of_ne_zero hh)⟩

/-- Settles O4: both memories and the table of stored words are empty, the context table has the one entry, and the registers are 0. -/
theorem resetIsWellFormed : Obligations.ResetIsWellFormed :=
  ⟨⟨rfl, rfl⟩, ⟨tput_wf [] 0 _ tbl_wf_nil, tbl_wf_nil⟩, ⟨rfl, rfl, rfl, rfl, rfl, rfl, rfl, rfl, rfl⟩, rfl, rfl⟩

/-! ### The rows of host attachment (03) -/

section

variable {s : State}

/-- A write with ENABLE 0 turns the management ring off; while the ring is off, it sets the sizes (R72). -/
theorem writeMring_of_disable {v : Nat} (hv : v.testBit 31 = false) :
    writeMring v s =
      if mringOn s then { s with glb.mring := s.glb.mring &&& 0x7FFFFFFF } else { s with glb.mring := BitVec.ofNat 32 v &&& 0x1F1F } := by
  simp [writeMring, hv]

theorem testBit_mod_two_pow_self (v n : Nat) : (v % 2 ^ n).testBit n = false := by
  rw [Nat.testBit_mod_two_pow, decide_eq_false (Nat.lt_irrefl n), Bool.false_and]

/-- HOST_READ_FAILURE of the management context passes the tests that concern a tenant context (R65). -/
theorem ite_of_management {α : Type} {gang : Nat} {closed : Prop} [Decidable closed] {a b c d : α} (hg : gang ≤ 16) :
    (if 512 < 0 ∨ gang > 16 then a else if (0 : Nat) ≠ 0 ∧ closed then b else if (0 : Nat) ≠ 0 then c else d) = d :=
  (if_neg (by omega)).trans ((if_neg fun h => h.1 rfl).trans (if_neg fun h => h rfl))

end

/-- Settles O28: each clause's hypotheses decide the row's tests, and what is left is the answer that the clause writes out. -/
theorem hostAttachmentEventsComplete : Obligations.HostAttachmentEventsComplete := by
  intro s
  refine ⟨?bar0Write, ?bar0Read, ?write32, ?write64, ?writeOff, ?timeLo, ?eventClear, ?errClear, ?resume, ?abandon, ?ringEnable,
    ?ringDisable, ?ringStaysOff, ?tail, ?head, ?winRead, ?winWrite, ?unmaskFunction, ?unmaskEntry, rfl, rfl, rfl, rfl, ?d3hot, ?d0,
    ?ats, ?tenantRead, ?ringRead, ?legRead, ?dmaRead, ?commandRead, ?rpDown, ?rpRetrain, ?busMaster, ?busMasterUnanswered⟩
  case bar0Write => exact fun hm => access_of_mse hm rfl
  case bar0Read => exact fun hm => access_of_mse hm rfl
  case write32 =>
    intro off value hm hoff hal
    exact access_of_mse hm ((if_neg (by omega)).trans (if_pos ⟨rfl, hal⟩))
  case write64 =>
    intro off value hm hoff hal
    exact access_of_mse hm ((if_neg (by omega)).trans ((if_neg (by omega)).trans (if_pos ⟨rfl, hal⟩)))
  case writeOff =>
    intro off width value hm
    exact congrArg Host.Outcome.next (if_neg (by simp [hm]))
  case timeLo => exact fun wide hm => access_of_mse hm rfl
  case eventClear => exact fun value sets hm => access_of_mse hm rfl
  case errClear => exact fun value sets hm => access_of_mse hm rfl
  case resume =>
    intro b hm hh
    refine access_of_mse hm ?_
    rw [writeResume, hh]
  case abandon =>
    intro b hm hh
    refine access_of_mse hm ?_
    rw [writeAbandon, hh]
  case ringEnable => exact fun value hm => access_of_mse hm rfl
  case ringDisable =>
    intro value hm hon
    exact access_of_mse hm ((writeMring_of_disable (testBit_mod_two_pow_self value 31)).trans (if_pos hon))
  case ringStaysOff =>
    intro value hm hoff
    exact access_of_mse hm ((writeMring_of_disable (testBit_mod_two_pow_self value 31)).trans (if_neg (by simp [hoff])))
  case tail =>
    intro page queue value x hm hp hq hx ho hb ha
    have htaken : ¬(pageOpen s page = false ∨ (BitVec.ofNat 32 value - x.tail).msb = true ∨
        2 ^ x.log2 < (BitVec.ofNat 32 value - x.tail).toNat) :=
      not_or.mpr ⟨by simp [ho], not_or.mpr ⟨by simp [hb], Nat.not_lt.mpr ha⟩⟩
    rw [exec_dbSqWrite value hm hp hq, writeTail_of_queue value hx, if_neg htaken]
  case head =>
    intro page value hm hp ho hb ha
    rw [exec_dbSrWrite value hm hp, writeHead_eq, if_neg]
    simp [ho, hb, ha]
  case winRead => exact fun off size hm hin => access_of_mse hm (if_neg (by omega))
  case winWrite => exact fun off data hm hin => access_of_mse hm (if_neg (by omega))
  case unmaskFunction => exact fun ha => congrArg Host.Outcome.next (if_pos ha)
  case unmaskEntry => exact fun v hm hv => access_of_mse hm (if_neg (by omega))
  case d3hot => exact fun ha => congrArg Host.Outcome.next (if_pos ha)
  case d0 => exact fun busMaster hd ha => if_neg (by simp [hd, ha])
  case ats => exact fun ctx page hc => if_neg (by omega)
  case tenantRead =>
    intro ctx kind what hc hg h0 hst
    refine (if_neg ?_).trans ((if_neg fun h => hst h.2).trans (if_pos h0))
    rintro (hfar | hgang)
    · exact Nat.not_lt.mpr hc hfar
    · cases what <;> exact Nat.not_lt.mpr hg hgang
  case ringRead => exact fun kind => rfl
  case legRead =>
    intro kind g c hg hc hr
    show execHostReadFailure 0 kind (.leg g) s = _
    unfold execHostReadFailure
    rw [ite_of_management hg]
    dsimp only
    rw [hc]
    exact if_pos hr
  case dmaRead =>
    intro kind tag e he
    show execHostReadFailure 0 kind (.command tag) s = _
    unfold execHostReadFailure
    rw [ite_of_management (Nat.zero_le 16)]
    dsimp only
    rw [he]
  case commandRead =>
    intro kind tag f hd hf
    show execHostReadFailure 0 kind (.command tag) s = _
    unfold execHostReadFailure
    rw [ite_of_management (Nat.zero_le 16)]
    dsimp only
    rw [hd]
    dsimp only
    rw [hf]
  case rpDown => exact fun hup => if_neg (by simp [hup])
  case rpRetrain =>
    intro speed width hx hup hret hpast hmiss
    refine if_neg ?_
    rw [hx, hup, hret, hpast, hmiss]
    decide
  case busMaster => exact fun w ha => if_neg (by simp [ha])
  case busMasterUnanswered => exact fun w ha => if_pos (by simp [ha])

end Sys2Proof.Machine

namespace Sys2Proof.Machine

/-! ### The reject log and the status ring (R84, R102) -/

/-- A log of at most 64 records that takes one more loses its oldest exactly when it is full. -/
theorem drop_append_of_length_le {α : Type} {l : List α} {n : Nat} (h : l.length ≤ n) (hn : 0 < n) (e : α) :
    (l ++ [e]).drop (l.length + 1 - n) = (if l.length = n then l.drop 1 else l) ++ [e] := by
  split
  next hl =>
    have h1 : l.length + 1 - n = 1 := by omega
    rw [h1, List.drop_append_of_le_length (by omega)]
  next hl =>
    have h0 : l.length + 1 - n = 0 := by omega
    rw [h0, List.drop_zero]

theorem rejLog_logReject (p : Pkt) (f : Fail) (s : State) :
    let e : RejRec := { header := fit 16 p.bytes, code := f.code, queue := p.queue, off := f.off, time := s.time.now }
    (ctxOf (logReject p f s) p.ctx).rejLog = ((ctxOf s p.ctx).rejLog ++ [e]).drop ((ctxOf s p.ctx).rejLog.length + 1 - 64) := by
  simp [logReject]

/-- Settles O60: the log takes the record at its end and drops what goes beyond 64, which is at most its first record. -/
theorem rejectLogKeepsSixtyFour : Obligations.RejectLogKeepsSixtyFour := by
  intro p f s h e t
  have hlog := (rejLog_logReject p f s).trans (drop_append_of_length_le h (by omega) e)
  refine ⟨hlog, ?_⟩
  rw [hlog, List.length_append, List.length_singleton]
  split
  · rw [List.length_drop]
    omega
  · omega

section

variable (h : Nat) (r : Reply) (s : State)

@[simp] theorem toLE_length (n k : Nat) : (toLE n k).length = n := by
  induction n generalizing k with
  | zero => rfl
  | succ n ih => rw [toLE, List.length_cons, ih]

theorem replyBytes_length (phase : Bool) : (replyBytes r phase).length = 32 := by
  simp [replyBytes]

/-- The PHASE bit of a lap of the ring is 1 on the first lap and alternates (R84). -/
theorem phaseOf_eq (i log2 : Nat) : phaseOf i log2 = (i / 2 ^ log2 % 2 == 0) := by
  rw [phaseOf, Nat.shiftRight_eq_div_pow]
  rcases Nat.mod_two_eq_zero_or_one (i / 2 ^ log2) with hm | hm
  · rw [hm]
    rfl
  · rw [hm]
    rfl

/-- The message of a status entry reaches no memory. -/
theorem statusMsg_store : (statusMsg h s).store = s.store := by
  unfold statusMsg
  split
  · rfl
  · exact (congrArg State.store (raiseVec_frame (64 + h) s) :)

/-- A status entry that goes out at once: the entry, the count of entries, and the message that NOTIFY asks for (R63, R84). -/
theorem statusWrite_of_free (notify : Bool) (hd : entriesDiscarded s h = false) (hh : held s = false) :
    statusWrite h r notify s =
      let i := (ctxOf s h).ring.written.toNat
      let u := modCtx h (fun c => { c with ring.written := c.ring.written + 1 }) (perform (.status h i (phaseOf i (statusRing s h).2) r) s)
      if notify then statusMsg h u else u := by
  simp [statusWrite, emitHost, hd, hh]

end

/-- Settles O59: the entry is one write of 32 bytes of host memory, and neither the count of entries nor the message reaches memory. -/
theorem statusEntryIsWritten : Obligations.StatusEntryIsWritten := by
  intro h r notify s hd hh i ring key t
  let ph := phaseOf i ring.2
  let u := modCtx h (fun c => { c with ring.written := c.ring.written + 1 }) (perform (.status h i ph r) s)
  have ht : t = if notify then statusMsg h u else u := statusWrite_of_free h r s notify hd hh
  have hctxs : t.ctxs = u.ctxs := by
    rw [ht]
    split
    · exact statusMsg_ctxs h u
    · rfl
  have hhost : t.store.host = memWrite s.store.host key (replyBytes r ph) := by
    rw [ht]
    split
    · exact congrArg Store.host (statusMsg_store h u)
    · rfl
  have hbytes (x : Nat) : memGet t.store.host x =
      if key ≤ x ∧ x < key + 32 then (replyBytes r ph).getD (x - key) 0 else memGet s.store.host x := by
    rw [hhost, memGet_memWrite, replyBytes_length]
  refine ⟨?_, fun j hj => ?_, fun x hx => (hbytes x).trans (if_neg hx)⟩
  · calc (ctxOf t h).ring.written
      _ = (ctxOf u h).ring.written := by rw [ctxOf, hctxs]; rfl
      _ = (ctxOf s h).ring.written + 1 := by rw [ctxOf_modCtx_self]; rfl
  · rw [hbytes, if_pos (by omega), Nat.add_sub_cancel_left, ← phaseOf_eq]

/-! ### A packet that does not act (R80, R81, R87, R434, R482) -/

section

variable {p : Pkt} {s : State} {r : Res} {host : Bool} {chk : Option Fail} {act : State → State} {f : Fail}

theorem runCmd_of_waiting (h : mayAct p s = false) : runCmd p s chk act = .next s := by
  simp [runCmd, h]

/-- A packet that may not act yet waits, held requests or not (R87). -/
theorem runsPkt_of_waiting (h : mayAct p s = false) (hr : RunsPkt p s r) : r = .next s := by
  obtain ⟨host, chk, act, rfl | rfl⟩ := hr
  · unfold runHost
    rw [if_neg (by simp [h]), runCmd_of_waiting h]
  · exact runCmd_of_waiting h

theorem runCmd_of_cmdGate (h : mayAct p s = true) (hg : cmdGate p s = some f) : runCmd p s chk act = .next (reject p f 0 s) := by
  simp [runCmd, h, hg]

/-- A failing shared check comes before a held request (R81, R482). -/
theorem runsPkt_of_cmdGate (h : mayAct p s = true) (hg : cmdGate p s = some f) (hr : RunsPkt p s r) : r = .next (reject p f 0 s) := by
  obtain ⟨host, chk, act, rfl | rfl⟩ := hr
  · unfold runHost
    rw [if_neg (by simp [hg]), runCmd_of_cmdGate h hg]
  · exact runCmd_of_cmdGate h hg

theorem firstFail_code_ne_ok {l : List (Bool × Code × Nat)} (hl : ∀ e ∈ l, e.2.1 ≠ .ok) (h : firstFail l = some f) :
    f.code ≠ .ok := by
  induction l with
  | nil => cases h
  | cons e l ih =>
    obtain ⟨bad, code, off⟩ := e
    obtain ⟨he, htail⟩ := List.forall_mem_cons.mp hl
    cases bad with
    | true => cases h; exact he
    | false => exact ih htail h

theorem hdrFail_code_ne_ok (h : hdrFail p = some f) : f.code ≠ .ok := by
  unfold hdrFail at h
  split at h
  · cases h
    nofun
  · exact firstFail_code_ne_ok (by simp) h

theorem cmdGate_code_ne_ok (h : cmdGate p s = some f) : f.code ≠ .ok := by
  unfold cmdGate at h
  split at h
  next g hg =>
    cases h
    exact hdrFail_code_ne_ok hg
  next =>
    split at h
    · cases h; nofun
    split at h
    · cases h; nofun
    split at h
    · cases h
    · obtain ⟨o, -, rfl⟩ := Option.map_eq_some_iff.mp h
      nofun

/-- What a packet command can come to, whichever way it runs. -/
theorem runEnds_of_runsPkt {t : State} (hr : RunsPkt p s r) (h : r = .next t) : ∃ chk act, RunEnds p s chk act t := by
  obtain ⟨host, chk, act, rfl | rfl⟩ := hr
  · exact ⟨chk, act, runEnds_of_runHost h⟩
  · exact ⟨chk, act, runEnds_of_runCmd h⟩

/-- A refusal is an answer with the failing code, after the error event of a failed word that the check met (R80, R297). -/
theorem refuses_of_refuse (hf : f.code ≠ .ok) (hr : r = .next (refuse p f s)) :
    ∃ t, r = .next t ∧ Refused p f.code 0 t ∧
      SameDevice p (match f.word with | some w => wordEvent w p.ctx s | none => s) t :=
  ⟨_, hr, refused_reject p f 0 _ hf, sameDevice_reject p f 0 _⟩

/-- A command that reads host memory waits at a held request before its own checks run (R482). -/
theorem runHost_of_held (hp : Passes p s) (hh : held s = true) : runHost p s true chk act = .next (hostWait p s) := by
  obtain ⟨hg, hu, hm⟩ := hp
  exact if_pos (by simp [hg, hm, hh])

/-- A command whose effect would write held host memory waits, and has done nothing (R482). -/
theorem runHost_of_heldWrite (hp : Passes p s) (hh : held s = true) (hw : heldWrites s < heldWrites (act s)) :
    runHost p s false none act = .next (hostWait p s) := by
  refine (runCmd_of_passes hp rfl).trans (congrArg _ (if_pos ?_))
  simp [hh, hw]

end

/-- Settles O9: every packet command runs by the shared dispatch, which tests dispatch, then the shared checks, then the command's own
checks, and last the units that it needs. -/
theorem failedSharedCheckChangesNothing : Obligations.FailedSharedCheckChangesNothing := by
  intro p s c hc
  have hr := packetCommand_runsPkt s hc
  refine ⟨fun hm => runsPkt_of_waiting hm hr, fun f hm hg => ?_, fun hm hg hu => ?_⟩
  · exact ⟨_, runsPkt_of_cmdGate hm hg hr, refused_reject p f 0 s (cmdGate_code_ne_ok hg), sameDevice_reject p f 0 s⟩
  · obtain ⟨t, ht⟩ := next_of_runsPkt hr
    obtain ⟨chk, act, hends⟩ := runEnds_of_runsPkt hr ht
    cases hends with
    | untouched hs => exact ⟨t, s, ht, .inl rfl, hs⟩
    | badWord hchk hw hs => exact ⟨t, _, ht, .inr ⟨_, rfl⟩, hs⟩
    | acts hp hchk hact =>
      obtain ⟨-, hin, -⟩ := hp
      rw [hin] at hu
      cases hu

/-- Settles O10: a failed check of its own ends the packet by a refusal, and a held request comes before the check. -/
theorem failedOwnCheckChangesNothing : Obligations.FailedOwnCheckChangesNothing := by
  intro p s f act hp hf u
  exact ⟨refuses_of_refuse hf (runCmd_of_fail hp), fun host hh => refuses_of_refuse hf (runHost_of_fail ⟨hp, hh⟩),
    fun hh => ⟨fun chk => runHost_of_held hp hh, runHost_of_heldWrite hp hh, sameDevice_hostWait p s⟩⟩

/-! ### A packet command whose own checks pass: it acts, and its effect ends in a reply, in a wait or in a failing code (R77, R81, R482) -/

section

variable {c : Instr} {p : Pkt} {s u : State} {host : Bool} {chk : Option Fail} {act : State → State} {notes w0 w1 w2 : Nat}
  {post : State → State}

/-- A command that passes its checks acts at once. -/
theorem exec_of_runCmd (hp : Passes p s) (hc : chk = none) (he : exec c s = runCmd p s chk act) : exec c s = .next (act s) :=
  he.trans (runCmd_of_passes hp hc)

/-- So does one that may meet host memory, while no request is held. -/
theorem exec_of_runHost (hp : PassesHost p s) (hc : chk = none) (he : exec c s = runHost p s host chk act) :
    exec c s = .next (act s) :=
  he.trans (runHost_of_passes hp hc)

theorem next_of_act {t : State} (he : exec c s = .next (act s)) (ha : act s = t) : exec c s = .next t :=
  he.trans (congrArg _ ha)

theorem doesThen_of_act (he : exec c s = .next (act s)) (ha : act s = post (answerPkt p .ok notes w0 w1 w2 u)) :
    DoesThen c p s notes w0 w1 w2 u post :=
  doesThen_of_next (he.trans (congrArg _ ha))

theorem does_of_act (he : exec c s = .next (act s)) (ha : act s = answerPkt p .ok notes w0 w1 w2 u) :
    Does c p s notes w0 w1 w2 u :=
  does_of_next (he.trans (congrArg _ ha))

theorem waits_of_act (he : exec c s = .next (act s)) (ha : act s = handOn p u) : Waits c p s u :=
  waits_of_next (he.trans (congrArg _ ha))

/-- The packet is handed on, and more work follows. -/
theorem handsOn_of_act (he : exec c s = .next (act s)) (ha : act s = post (handOn p u)) :
    ∃ t, exec c s = .next (post t) ∧ HandedOn p t ∧ SameDevice p u t :=
  ⟨_, he.trans (congrArg _ ha), handedOn_handOn p u, sameDevice_handOn p u⟩

/-- The command acts, and its effect is a failing code. -/
theorem refuses_of_act {f : Fail} (he : exec c s = .next (act s)) (ha : act s = reject p f w2 u) (hf : f.code ≠ .ok) :
    ∃ t, exec c s = .next t ∧ Refused p f.code w2 t ∧ SameDevice p u t :=
  ⟨_, next_of_act he ha, refused_reject p f w2 u hf, sameDevice_reject p f w2 u⟩

end

/-! ### The commands, chapter by chapter -/

/-- Settles O11: each effect is a reply after the changes that the clause writes out, with the end of work or of sessions after it. -/
theorem deviceCommandsComplete : Obligations.DeviceCommandsComplete := by
  intro p s hp
  refine ⟨?nop, ?info, ?stats, ?rejectLog, ?reset, ?keyEnroll, ?keyRevoke, ?keyList, ?netConfig, ?sessions, ?sessionClose⟩
  case nop => exact does_of_act (exec_of_runCmd hp rfl rfl) rfl
  case info | rejectLog | keyList | sessions => exact fun hh hc => does_of_act (exec_of_runHost (host := false) ⟨hp, hh⟩ hc rfl) rfl
  case stats | keyRevoke => exact fun hc => does_of_act (exec_of_runCmd hp hc rfl) rfl
  case reset => exact fun hc hst => doesThen_of_act (exec_of_runCmd hp hc rfl) (if_neg (by simp [hst]))
  case keyEnroll => exact fun hh hc => does_of_act (exec_of_runHost ⟨hp, hh⟩ hc rfl) rfl
  case netConfig | sessionClose => exact fun hc => doesThen_of_act (exec_of_runCmd hp hc rfl) rfl

/-- Settles O13: each effect is a reply after the changes that the clause writes out; CTX_CLOSE is handed on to the end of its work, and
CTX_SEAL does not act while management work touches its context. -/
theorem contextAndGangCommandsComplete : Obligations.ContextAndGangCommandsComplete := by
  intro p s hp
  refine ⟨?ctxOpen, ?ctxClose, ?ctxQuery, ?setQuota, ?sealNow, ?sealWaits, ?queueCreate, ?queueDestroy, ?gangCreate, ?gangDestroy,
    ?kiteQuery, ?gangQuery, ?leases, ?xlate⟩
  case ctxOpen | setQuota => exact fun hh hc => does_of_act (exec_of_runHost ⟨hp, hh⟩ hc rfl) rfl
  case ctxClose => exact fun hc => handsOn_of_act (exec_of_runCmd hp hc rfl) rfl
  case ctxQuery | queueCreate | queueDestroy | gangCreate | gangDestroy | xlate =>
    exact fun hc => does_of_act (exec_of_runCmd hp hc rfl) rfl
  case sealNow => exact fun hc hm => does_of_act (exec_of_runCmd hp hc rfl) (if_neg (by simp [hm]))
  case sealWaits => exact fun hc hm => next_of_act (exec_of_runCmd hp hc rfl) (if_pos hm)
  case kiteQuery => exact fun hc hg => does_of_act (exec_of_runCmd hp hc rfl) (if_pos hg)
  case gangQuery => exact fun hc hg => does_of_act (exec_of_runCmd hp hc rfl) (if_neg hg)
  case leases => exact fun hh hc => does_of_act (exec_of_runHost (host := false) ⟨hp, hh⟩ hc rfl) rfl

/-! ### Rows whose effect needs a lemma of its own -/

/-- Starting a retirement does not look at the packets in flight. -/
theorem startRetire_handOn (c : Nat) (q : Option Pkt) (p : Pkt) (s : State) :
    startRetire c q (handOn p s) = handOn p (startRetire c q s) := by
  have hr : (handOn p s).store.retiring = s.store.retiring := rfl
  unfold startRetire
  rw [hr]
  cases s.store.retiring with
  | none => rfl
  | some r =>
    dsimp only
    split
    · rfl
    · rfl

/-- Settles O14: each effect is a reply after the changes that the clause writes out, or the packet is handed on to the work it started;
MEM_PLACE splits by the move that its object is on. -/
theorem memoryCommandsComplete : Obligations.MemoryCommandsComplete := by
  intro p s hp
  refine ⟨?alloc, ?freeWaits, ?freeNow, ?mapHost, ?protect, ?copy, ?place, ?placeStops, ?placeAfter, ?placeBehind, ?placeJoins, ?pin,
    ?query, ?channels, ?channelRetire, ?coldIo⟩
  case alloc => exact fun hh hc => doesThen_of_act (exec_of_runHost ⟨hp, hh⟩ hc rfl) rfl
  case freeWaits => exact fun hc hb => waits_of_act (exec_of_runCmd hp hc rfl) (if_pos hb)
  case freeNow => exact fun hc hb => does_of_act (exec_of_runCmd hp hc rfl) (if_neg hb)
  case mapHost | protect | pin | query => exact fun hc => does_of_act (exec_of_runCmd hp hc rfl) rfl
  case copy =>
    intro c hc hd
    refine waits_of_act (exec_of_runCmd hp hc rfl) ?_
    simp only [actMemCopy, takeDma, hd]
  case place =>
    intro hc hm
    refine handsOn_of_act (exec_of_runCmd hp hc rfl) ?_
    simp only [actMemPlace, hm]
    rfl
  case placeStops =>
    intro x hc hm hx ho hb
    refine waits_of_act (exec_of_runCmd hp hc rfl) ?_
    simp only [actMemPlace, hm, hx, ho]
    exact if_pos hb
  case placeAfter =>
    intro x hc hm hx ho hb
    refine handsOn_of_act (exec_of_runCmd hp hc rfl) ?_
    simp only [actMemPlace, hm, hx, ho]
    exact if_neg hb
  case placeBehind =>
    intro x hc hm hx hj
    refine waits_of_act (exec_of_runCmd hp hc rfl) ?_
    simp only [actMemPlace, hm, hj]
    exact (if_neg (by simpa [imp_iff_not_or] using hx)).trans (if_neg nofun)
  case placeJoins =>
    intro x hc hm hx hj
    refine waits_of_act (exec_of_runCmd hp hc rfl) ?_
    simp only [actMemPlace, hm, hj]
    exact (if_neg (by simpa [imp_iff_not_or] using hx)).trans (if_pos trivial)
  case channels => exact fun hh hc => does_of_act (exec_of_runHost (host := false) ⟨hp, hh⟩ hc rfl) rfl
  case channelRetire => exact fun hc => waits_of_act (exec_of_runCmd hp hc rfl) (startRetire_handOn _ _ p s)
  case coldIo => exact fun hh hc => waits_of_act (exec_of_runHost ⟨hp, hh⟩ hc rfl) rfl

/-- Settles O15: each effect is a reply after the changes that the clause writes out. The containers are checked in full as PLAN_LOAD and
PLAN_RELOAD act, and runs go on at a boundary after their packet is handed on. -/
theorem planCommandsComplete : Obligations.PlanCommandsComplete := by
  intro p s hp
  refine ⟨?load, ?loadRefused, ?unload, ?query, ?runs, ?stop, ?feed, ?bindEvent, ?unbind, ?gangStats, ?panelQuery, ?reload, ?moorLoad,
    ?moorQuery⟩
  case load =>
    intro hh hc c hk
    refine does_of_act (act := actPlanLoad p) (exec_of_runHost (host := rangeHost s p.ctx (fld p 16 8) (fld p 24 4))
      ⟨hp, hh⟩ hc rfl) ?_
    unfold actPlanLoad
    dsimp only
    rw [show contCheck s p.ctx (vread s p.ctx (fld p 16 8) (fld p 24 4)) none = none from hk]
    rfl
  case loadRefused =>
    intro f hh hc hk hf
    have ha : actPlanLoad p s = contReject p 16 f s := by
      simp only [actPlanLoad, hk]
    exact refuses_of_act (f := { code := f.1, off := 16 }) (exec_of_runHost (host := rangeHost s p.ctx (fld p 16 8) (fld p 24 4))
      ⟨hp, hh⟩ hc rfl) ha hf
  case unload | query | bindEvent | unbind | gangStats => exact fun hc => does_of_act (exec_of_runCmd hp hc rfl) rfl
  case runs => exact fun hc => handsOn_of_act (exec_of_runCmd hp hc rfl) rfl
  case stop =>
    intro k r hc hr
    refine handsOn_of_act (exec_of_runCmd hp hc rfl) ?_
    simp only [actPlanStop, hr]
    rfl
  case feed =>
    intro k r hc hr
    refine doesThen_of_act (exec_of_runCmd hp hc rfl) ?_
    simp only [actPlanFeed, hr]
    rfl
  case panelQuery => exact fun hh hc => does_of_act (exec_of_runHost (host := false) ⟨hp, hh⟩ hc rfl) rfl
  case reload =>
    intro hh hc c old hk
    refine does_of_act (act := actPlanReload p) (exec_of_runHost (host := rangeHost s p.ctx (fld p 24 8) (fld p 20 4))
      ⟨hp, hh⟩ hc rfl) ?_
    unfold actPlanReload
    dsimp only
    rw [show contCheck s p.ctx (vread s p.ctx (fld p 24 8) (fld p 20 4)) (some (pPlanD p s)) = none from hk]
    rfl
  case moorLoad => exact fun hh hc => does_of_act (exec_of_runHost ⟨hp, hh⟩ hc rfl) rfl
  case moorQuery => exact does_of_act (exec_of_runCmd hp rfl rfl) rfl

section

variable {p : Pkt} {s : State} {host : Bool} {static : List (List (Bool × Code × Nat))} {chk : Option Fail} {act : State → State}

theorem kvOrQueue_of_unclaimed (h : ∀ k q, pSeq p s = some (k, q) → q.claimed = none) :
    kvOrQueue p s host static chk act = runHost p s host chk act := by
  unfold kvOrQueue
  split
  next k q hq => exact if_neg (by simp [h k q hq])
  next => rfl

/-- The packet waits for the step that has claimed its sequence (R254). -/
theorem kvOrQueue_of_claimed {k : Nat} {q : KvSeq} (hq : pSeq p s = some (k, q)) (hcl : q.claimed.isSome = true) :
    kvOrQueue p s host static chk act =
      runHost p s host (firstFails (static ++ ([[(64 ≤ kvQueued s q.pool, .eBusy, 0xFFFF)]] : List (List (Bool × Code × Nat)))))
        fun t => handOn p (pinKv p { t with models.kvQueue := t.models.kvQueue ++ [(k, p)] }) := by
  unfold kvOrQueue
  rw [hq]
  exact if_pos hcl

theorem strmOrQueue_of_unclaimed (h : ∀ k x, pStrm p s = some (k, x) → x.claimed = none) :
    strmOrQueue p s host chk act = runHost p s host chk act := by
  unfold strmOrQueue
  split
  next k x hx => exact if_neg (by simp [h k x hx])
  next => rfl

/-- The packet waits for the step that has claimed its stream (R268). -/
theorem strmOrQueue_of_claimed {k : Nat} {x : Stream} (hx : pStrm p s = some (k, x)) (hcl : x.claimed.isSome = true) :
    strmOrQueue p s host chk act =
      runHost p s host (firstFails [[(64 ≤ strmQueued s x.set, .eBusy, 0xFFFF)]])
        fun t => handOn p (pinStrm p { t with models.strmQueue := t.models.strmQueue ++ [(k, p)] }) := by
  unfold strmOrQueue
  rw [hx]
  exact if_pos hcl

end

/-- Settles O16: a command on a sequence that a step has claimed is queued; every other one acts, and its effect is a reply after the
changes that the clause writes out, or a wait for the run's head. -/
theorem attentionPoolCommandsComplete : Obligations.AttentionPoolCommandsComplete := by
  intro p s hp
  refine ⟨?poolCreate, ?poolDestroy, ?seqCreate, ?fork, ?forkWaits, ?truncate, ?truncateWaits, ?free, ?freeWaits, ?seqQuery,
    ?pageUnknown, ?pageQuery, ?read, ?readWaits, ?waitMet, ?waits, ?poolQuery, ?exports, ?imports⟩
  case poolCreate | poolDestroy | seqCreate | poolQuery => exact fun hc => does_of_act (exec_of_runCmd hp hc rfl) rfl
  case fork | truncate | free | read => exact fun hh hq hc => does_of_act (exec_of_runHost ⟨hp, hh⟩ hc (kvOrQueue_of_unclaimed hq)) rfl
  case forkWaits | truncateWaits | freeWaits | readWaits =>
    exact fun k q hh hq hcl hc => waits_of_act (exec_of_runHost ⟨hp, hh⟩ hc (kvOrQueue_of_claimed hq hcl)) rfl
  case seqQuery | exports => exact fun hh hc => does_of_act (exec_of_runHost (host := false) ⟨hp, hh⟩ hc rfl) rfl
  case pageUnknown =>
    intro hc hq
    refine does_of_act (act := actKvPageQuery p) (exec_of_runCmd hp hc rfl) ?_
    simp only [actKvPageQuery, hq]
    rfl
  case pageQuery =>
    intro q hc hq
    refine does_of_act (act := actKvPageQuery p) (exec_of_runCmd hp hc rfl) ?_
    simp only [actKvPageQuery, hq]
    rfl
  case waitMet =>
    intro k r hc hr hle
    refine does_of_act (act := actKvWait p) (exec_of_runCmd hp hc rfl) ?_
    simp only [actKvWait, hr]
    exact if_pos hle
  case waits =>
    intro k r hc hr hlt
    refine waits_of_act (act := actKvWait p) (exec_of_runCmd hp hc rfl) ?_
    simp only [actKvWait, hr]
    exact if_neg (Nat.not_le.mpr hlt)
  case imports =>
    intro hh hc
    dsimp only
    refine does_of_act (act := actKvImport p) (exec_of_runHost
      (host := rangeHost s p.ctx (fld p 16 8) (num (vread s p.ctx (fld p 16 8) 12) 8 4)) ⟨hp, hh⟩ hc rfl) ?_
    dsimp only [actKvImport]
    rfl

/-- Settles O17: a command on a stream that a step has claimed is queued; every other one acts, and its effect is a reply after the
changes that the clause writes out. -/
theorem streamCommandsComplete : Obligations.StreamCommandsComplete := by
  intro p s hp
  refine ⟨?setCreate, ?setDestroy, ?start, ?pause, ?pauseWaits, ?resume, ?ends, ?endWaits, ?query, ?sentinel, ?read, ?readWaits,
    ?exports, ?exportWaits, ?imports, ?peer⟩
  case setCreate | start | peer => exact fun hh hc => does_of_act (exec_of_runHost ⟨hp, hh⟩ hc rfl) rfl
  case setDestroy | resume | query | sentinel => exact fun hc => does_of_act (exec_of_runCmd hp hc rfl) rfl
  case pause | ends | read | exports =>
    exact fun hh hx hc => does_of_act (exec_of_runHost ⟨hp, hh⟩ hc (strmOrQueue_of_unclaimed hx)) rfl
  case pauseWaits | endWaits | readWaits | exportWaits =>
    exact fun k x hh hx hcl hc => waits_of_act (exec_of_runHost ⟨hp, hh⟩ hc (strmOrQueue_of_claimed hx hcl)) rfl
  case imports =>
    intro hh hc
    dsimp only
    refine does_of_act (act := actStrmImport p) (exec_of_runHost
      (host := rangeHost s p.ctx (fld p 16 8) (num (vread s p.ctx (fld p 16 8) 12) 8 4)) ⟨hp, hh⟩ hc rfl) ?_
    dsimp only [actStrmImport]
    rfl

section

variable (n : Nat) (s : State)

@[simp] theorem camOf_modCam_self (f : Cam → Cam) : camOf (modCam n f s) n = f (camOf s n) := by
  simp [camOf, modCam]

/-- A port that stops for one CAM_STOP, with no CAM_WAIT outstanding, answers that packet alone (R333). -/
theorem stopCam_of_single {p : Pkt} (hs : (camOf s n).stop = [p]) (hw : (camOf s n).waits = []) :
    stopCam n s = completeOk p ((((newestSlot (camOf s n)).map fun e => e.2.number).getD 0) % 2 ^ 32) 0 0 (modCam n (fun c =>
      { c with state := if c.state = 2 then 1 else c.state, frame := none, finishing := [], stop := [], waits := [] }) s) := by
  have hc : tgetD s.cams.ports n = camOf s n := rfl
  unfold stopCam
  rw [hc]
  dsimp only
  rw [hs, hw]
  rfl

end

/-- Settles O18: each effect is a reply after the changes that the clause writes out, or the packet waits for the frame that it names; a
CAM_STOP with no open frame answers itself alone. -/
theorem cameraCommandsComplete : Obligations.CameraCommandsComplete := by
  intro p s hp
  refine ⟨?query, ?assignSame, ?assign, ?port, ?params, ?output, ?start, ?stopOpenFrame, ?stop, ?power, ?sync, ?windowDestroy, ?window,
    ?attach, ?waitMet, ?waits, ?presence⟩
  case query | port | output | start | power | sync | attach => exact fun hc => does_of_act (exec_of_runCmd hp hc rfl) rfl
  case assignSame => exact fun hc ho => does_of_act (exec_of_runCmd hp hc rfl) (if_pos ho)
  case assign => exact fun hc ho => does_of_act (exec_of_runCmd hp hc rfl) (if_neg ho)
  case params | presence => exact fun hh hc => does_of_act (exec_of_runHost ⟨hp, hh⟩ hc rfl) rfl
  case stopOpenFrame =>
    exact fun hc hf => waits_of_act (exec_of_runCmd hp hc rfl) (if_neg (by simp [Option.isSome_iff_ne_none.mp hf]))
  case stop =>
    intro hc hf n hs hw
    refine does_of_act (act := actCamStop p) (exec_of_runCmd hp hc rfl) ?_
    have hcam := camOf_modCam_self n s fun c => { c with stop := c.stop ++ [p] }
    refine (if_pos (by simp [hf])).trans ((stopCam_of_single _ _ (p := p) ?_ ?_).trans ?_)
    · rw [hcam, hs, List.nil_append]
    · rw [hcam, hw]
    · rw [hcam]
      rfl
  case windowDestroy => exact fun hc hd => does_of_act (exec_of_runCmd hp hc rfl) (if_pos hd)
  case window => exact fun hc hd => does_of_act (exec_of_runCmd hp hc rfl) (if_neg (by simp [hd]))
  case waitMet =>
    intro i x hc hw
    refine does_of_act (act := actCamWait p) (exec_of_runCmd hp hc rfl) ?_
    simp only [actCamWait, hw]
    rfl
  case waits =>
    intro hc hw
    refine waits_of_act (act := actCamWait p) (exec_of_runCmd hp hc rfl) ?_
    simp only [actCamWait, hw]

/-- Settles O19: each effect is a reply after the changes that the clause writes out, or the packet waits for a block of its ring. -/
theorem audioCommandsComplete : Obligations.AudioCommandsComplete := by
  intro p s hp
  refine ⟨?query, ?assign, ?clock, ?lp, ?beam, ?captureEnd, ?capture, ?start, ?stop, ?i2s, ?playStop, ?play, ?waitMet, ?waits⟩
  case query => exact does_of_act (exec_of_runCmd hp rfl rfl) rfl
  case assign | clock | start | i2s => exact fun hc => does_of_act (exec_of_runCmd hp hc rfl) rfl
  case lp | beam => exact fun hh hc => does_of_act (exec_of_runHost ⟨hp, hh⟩ hc rfl) rfl
  case captureEnd => exact fun hc hn => does_of_act (exec_of_runCmd hp hc rfl) (if_pos hn)
  case capture => exact fun hc hn => does_of_act (exec_of_runCmd hp hc rfl) (if_neg hn)
  case stop => exact fun hc => waits_of_act (exec_of_runCmd hp hc rfl) rfl
  case playStop => exact fun hh hc hs => does_of_act (exec_of_runHost (host := false) ⟨hp, hh⟩ hc rfl) (if_pos hs)
  case play => exact fun hh hc hs => does_of_act (exec_of_runHost (host := false) ⟨hp, hh⟩ hc rfl) (if_neg (by simp [hs]))
  case waitMet =>
    intro c hc hr hw
    refine does_of_act (act := actAudWait p) (exec_of_runCmd hp hc rfl) ?_
    simp only [actAudWait, hr]
    exact if_pos hw
  case waits =>
    intro c hc hr hw
    refine waits_of_act (act := actAudWait p) (exec_of_runCmd hp hc rfl) ?_
    simp only [actAudWait, hr]
    exact if_neg (by simp [hw])

/-- Settles O20: each effect is a reply after the changes that the clause writes out. -/
theorem timeAndEventCommandsComplete : Obligations.TimeAndEventCommandsComplete := by
  intro p s hp
  refine ⟨?tkQuery, ?tkConfig, ?tkSelect, ?assign, ?config, ?query, ?readCapture⟩
  case tkQuery | query | readCapture => exact fun hh hc => does_of_act (exec_of_runHost (host := false) ⟨hp, hh⟩ hc rfl) rfl
  case tkConfig | tkSelect | assign | config => exact fun hc => does_of_act (exec_of_runCmd hp hc rfl) rfl

/-- What has left the device is no part of SameDevice. -/
theorem SameDevice.withOut {p : Pkt} {s t : State} {x y : List Out} (h : SameDevice p s t) :
    SameDevice p { s with out := x } { t with out := y } :=
  { h with }

/-- Settles O21: each effect is a reply after the changes that the clause writes out; NET_SEND and GW_SEND are handed on to what they
send. -/
theorem networkCommandsComplete : Obligations.NetworkCommandsComplete := by
  intro p s hp
  refine ⟨?config, ?query, ?bindClose, ?bind, ?send, ?sendResolves, ?fleet, ?inboxOpen, ?inboxClose, ?inboxFree, ?gwSend, ?gwQuery⟩
  case config | fleet => exact fun hh hc => does_of_act (exec_of_runHost ⟨hp, hh⟩ hc rfl) rfl
  case query => exact fun hc => does_of_act (exec_of_runCmd hp hc rfl) rfl
  case bindClose => exact fun hc hb => does_of_act (exec_of_runCmd hp hc rfl) (if_pos hb)
  case bind => exact fun hc hb => does_of_act (exec_of_runCmd hp hc rfl) (if_neg (by simp [hb]))
  case send => exact fun hh hc hn => waits_of_act (exec_of_runHost ⟨hp, hh⟩ hc rfl) (if_pos hn)
  case sendResolves =>
    intro hh hc v n hop data x hn
    let u := modEth n (fun e => { e with resolving := e.resolving ++ [x] }) v
    exact ⟨_, next_of_act (act := actNetSend p) (exec_of_runHost ⟨hp, hh⟩ hc rfl) (if_neg (ne_true_of_eq_false hn)),
      handedOn_handOn p u, (sameDevice_handOn p u).withOut⟩
  case inboxOpen | inboxClose =>
    intro hh hc ho
    refine does_of_act (act := actGwInbox p) (exec_of_runHost (host := false) ⟨hp, hh⟩ hc rfl) ?_
    simp only [actGwInbox, ho]
    rfl
  case inboxFree =>
    intro hh hc ho
    obtain ⟨n, hn⟩ := Nat.exists_eq_add_of_le' ho
    refine does_of_act (act := actGwInbox p) (exec_of_runHost (host := false) ⟨hp, hh⟩ hc rfl) ?_
    simp only [actGwInbox, hn]
    rfl
  case gwSend => exact fun hh hc => handsOn_of_act (exec_of_runHost ⟨hp, hh⟩ hc rfl) rfl
  case gwQuery => exact does_of_act (exec_of_runCmd hp rfl rfl) rfl

/-- Settles O22: each effect is a reply after the changes that the clause writes out, or the packet is handed on to a retirement, an
injection or a self-test that follows. -/
theorem safetyCommandsComplete : Obligations.SafetyCommandsComplete := by
  intro p s hp
  refine ⟨?query, ?logRead, ?channels, ?config, ?retire, ?clear, ?inject, ?e2e, ?enter, ?selftest⟩
  case query => exact does_of_act (exec_of_runCmd hp rfl rfl) rfl
  case logRead | channels => exact fun hh hc => does_of_act (exec_of_runHost (host := false) ⟨hp, hh⟩ hc rfl) rfl
  case config => exact fun hh hc => does_of_act (exec_of_runHost ⟨hp, hh⟩ hc rfl) rfl
  case retire | inject | selftest => exact fun hc => handsOn_of_act (exec_of_runCmd hp hc rfl) rfl
  case clear | e2e => exact fun hc => does_of_act (exec_of_runCmd hp hc rfl) rfl
  case enter => exact doesThen_of_act (exec_of_runCmd hp rfl rfl) rfl

/-- A reply reaches no power state, so that a change of it may follow the reply. -/
theorem SameDevice.withPower {p : Pkt} {s t : State} {x y : Power} (h : SameDevice p s t) (hxy : y = x) :
    SameDevice p { s with power := x } { t with power := y } :=
  { h with power := hxy }

/-- Settles O23: each effect is a reply after the changes that the clause writes out; PWR_ENTER notes its request after its reply, which
reaches no power state. -/
theorem powerCommandsComplete : Obligations.PowerCommandsComplete := by
  intro p s hp
  refine ⟨?query, fun hc => ⟨?capRaises, ?cap⟩, ?policy, ?wake, ?enter, ?release, ?pads⟩
  case query => exact fun hh hc => does_of_act (exec_of_runHost (host := false) ⟨hp, hh⟩ hc rfl) rfl
  case capRaises => exact fun hlt => doesThen_of_act (exec_of_runCmd hp hc rfl) (if_pos hlt)
  case cap => exact fun hle => does_of_act (exec_of_runCmd hp hc rfl) (if_neg (Nat.not_lt.mpr hle))
  case policy | wake | release => exact fun hc => does_of_act (exec_of_runCmd hp hc rfl) rfl
  case enter =>
    intro hc
    have hs := sameDevice_completeOk p 0 0 0 s
    exact ⟨_, exec_of_runCmd (act := actPwrEnter p) hp hc rfl, answered_completeOk p 0 0 0 s, hs.withPower (by rw [hs.power])⟩
  case pads => exact does_of_act (exec_of_runCmd hp rfl rfl) rfl

/-- Two requests to the secure element, one after the other. -/
theorem seAnswers_two (n : Nat) :
    ((List.range 2).all fun i => Config.seAnswers (n + i)) = (Config.seAnswers n && Config.seAnswers (n + 1)) := by
  simp [List.range_succ]

/-- The secure element does not answer (R442). -/
theorem transient_of_act {c : Instr} {p : Pkt} {s u : State} {act : State → State} (he : exec c s = .next (act s))
    (ha : act s = reject p { code := .eTransient } 0 u) : ∃ t, exec c s = .next t ∧ Refused p .eTransient 0 t ∧ SameDevice p u t :=
  refuses_of_act (f := { code := .eTransient }) he ha nofun

/-- Settles O24: each effect is a reply after the changes that the clause writes out, a wait for the update's stage, or, where the secure
element or the NOR flash fails, that failing code. -/
theorem securityAndUpdateCommandsComplete : Obligations.SecurityAndUpdateCommandsComplete := by
  intro p s hp
  refine ⟨?journal, ?retry, ?cert, ?attest, fun hc => ⟨?pair, ?pairFails⟩, fun hh hc => ⟨?owner, ?ownerFails⟩,
    fun hh hc => ⟨?config, ?configNotKept, ?configFails⟩, fun hc => ⟨?floor, ?floorFails⟩, ?stage, ?activate, ?cancel, ?query⟩
  case journal | cert | attest => exact fun hh hc => does_of_act (exec_of_runHost (host := false) ⟨hp, hh⟩ hc rfl) rfl
  case retry | cancel | query => exact fun hc => does_of_act (exec_of_runCmd hp hc rfl) rfl
  case pair => exact fun hg => does_of_act (exec_of_runCmd hp hc rfl) (if_pos hg)
  case pairFails =>
    exact fun hg => transient_of_act (act := actSecPair p) (exec_of_runCmd hp hc rfl) (if_neg (ne_true_of_eq_false hg))
  case owner => exact fun hg => does_of_act (act := actSecOwner p) (exec_of_runHost ⟨hp, hh⟩ hc rfl) (if_pos hg)
  case ownerFails =>
    exact fun hg => transient_of_act (act := actSecOwner p) (exec_of_runHost ⟨hp, hh⟩ hc rfl) (if_neg (ne_true_of_eq_false hg))
  case config =>
    intro hg hk
    refine does_of_act (act := actSecConfig p) (exec_of_runHost ⟨hp, hh⟩ hc rfl) ?_
    exact (if_pos ((seAnswers_two s.freeCtr).trans hg)).trans (if_pos hk)
  case configNotKept =>
    intro hg hk
    refine refuses_of_act (f := { code := .eLowerTier }) (act := actSecConfig p) (exec_of_runHost ⟨hp, hh⟩ hc rfl) ?_ nofun
    exact (if_pos ((seAnswers_two s.freeCtr).trans hg)).trans (if_neg (by simpa using hk))
  case configFails =>
    exact fun hg => transient_of_act (act := actSecConfig p) (exec_of_runHost ⟨hp, hh⟩ hc rfl)
      (if_neg (ne_true_of_eq_false ((seAnswers_two s.freeCtr).trans hg)))
  case floor => exact fun hg => does_of_act (act := actSecFloor p) (exec_of_runCmd hp hc rfl) (if_pos hg)
  case floorFails =>
    exact fun hg => transient_of_act (act := actSecFloor p) (exec_of_runCmd hp hc rfl) (if_neg (ne_true_of_eq_false hg))
  case stage => exact fun hh hc => waits_of_act (exec_of_runHost ⟨hp, hh⟩ hc rfl) rfl
  case activate => exact fun hc => waits_of_act (exec_of_runCmd hp hc rfl) rfl

/-- Settles O25: each effect is a reply after the changes that the clause writes out; QCONVERT is handed on to a DMA channel. -/
theorem statisticsCommandsComplete : Obligations.StatisticsCommandsComplete := by
  intro p s hp
  refine ⟨?arm, ?disarm, ?read, ?query, ?convert⟩
  case arm | disarm | query => exact fun hc => does_of_act (exec_of_runCmd hp hc rfl) rfl
  case read => exact fun hh hc => does_of_act (exec_of_runHost (host := false) ⟨hp, hh⟩ hc rfl) rfl
  case convert =>
    intro c hc hd
    refine waits_of_act (exec_of_runCmd hp hc rfl) ?_
    simp only [actQconvert, takeDma, hd]

end Sys2Proof.Machine

namespace Sys2Proof.Machine

/-! ### The rows of start, reset and update (R103, R431–R449) -/

section

variable {s : State}

/-- Boot ROM takes up a descriptor that carries its mark (R432). -/
theorem descriptor_taken (hs : s.boot.phase = .hostWait) (hd : num (physRead s 0 64) 0 4 = 0x33425459) :
    ¬(s.boot.phase ≠ .hostWait ∨ num (physRead s 0 64) 0 4 ≠ 0x33425459) := by
  simp [hs, hd]

/-- A stage that ends once the image is staged: the standby takes over, or the update is cancelled (R449). -/
theorem execUpdateStageComplete_of_activating (hu : 2 ≤ s.boot.updStage) (hb : s.boot.updBusy = true) (passed : Bool) :
    execUpdateStageComplete passed s =
      if passed ∧ s.safe.standby then .next (stagePasses s)
      else .next (cancelUpdate .eCheck { s with safe.standby := false, safe.pairsOut := s.safe.pairsOut + b2n s.safe.standby }) := by
  have hstage : ¬(s.boot.updStage = 0 ∨ (!s.boot.updBusy) = true) := by
    rintro (h | h)
    · omega
    · simp [hb] at h
  exact (if_neg hstage).trans (if_neg (by omega))

end

/-- Settles O26: each clause's hypotheses decide the row's tests, and what is left is the answer that the clause writes out. -/
theorem startAndResetEventsComplete : Obligations.StartAndResetEventsComplete := by
  intro s
  refine ⟨?graceEnd, rfl, ?devReset, ?warm, ?sysreset, ?bootRom, ?stepPasses, ?stepCode, ?stepFails, ?stepLimit, ?badImage, ?image,
    ?staged, ?activated, ?notActivated⟩
  case graceEnd =>
    intro p t hr
    show execDevResetGraceEnd p s = _
    unfold execDevResetGraceEnd
    rw [hr]
  case devReset => exact fun cause hph hcause hr => (if_neg hph).trans (if_pos ⟨hcause, hr⟩)
  case warm =>
    intro cause hph hdev hsys
    exact (if_neg hph).trans ((if_neg fun h => hdev h.1).trans (congrArg Host.Outcome.next (if_neg hsys)))
  case sysreset => exact fun hph => (if_neg hph).trans (if_neg (by simp))
  case bootRom => exact fun bootSrc hph => if_neg (not_not.mpr hph)
  case stepPasses =>
    intro o n hs hp hc
    show execStartStepComplete o s = _
    simp only [execStartStepComplete, hs, hp, hc, if_true]
  case stepCode =>
    intro o n c hs hp hc
    show execStartStepComplete o s = _
    simp only [execStartStepComplete, hs, hp, hc, if_true]
  case stepFails =>
    intro o n hs hp
    show execStartStepComplete o s = _
    simp only [execStartStepComplete, hs, hp, Bool.false_eq_true, if_false]
  case stepLimit =>
    intro n hs
    show execStartStepLimit s = _
    unfold execStartStepLimit
    rw [hs]
  case badImage =>
    intro c hs hd hc
    show execHostBootDescriptorPoll s = _
    unfold execHostBootDescriptorPoll
    rw [if_neg (descriptor_taken hs hd), hc]
  case image =>
    intro hs hd hc
    show execHostBootDescriptorPoll s = _
    unfold execHostBootDescriptorPoll
    rw [if_neg (descriptor_taken hs hd), hc]
  case staged => exact fun passed hu hb => (if_neg (by simp [hu, hb])).trans (if_pos hu)
  case activated => exact fun hu hb hst => (execUpdateStageComplete_of_activating hu hb true).trans (if_pos ⟨rfl, hst⟩)
  case notActivated => exact fun hu hb => (execUpdateStageComplete_of_activating hu hb false).trans (if_neg nofun)

/-! ### The packet queue and session events (R81, R87, R93–R99) -/

/-- What keeps a fetch from starting, none of which holds here (R68, R82, R91, R103). -/
theorem fetchGuard_eq_false {s : State} {p : Pkt} {shape : Bool} (hf : fetching s = true) (hh : held s = false)
    (hr : p.ctx ≠ 0 ∨ s.cmd.ringFailed = false) (ho : pageOpen s p.ctx = true) (hq : p.queue ≤ 7) (hs : shape = true) :
    (!fetching s || held s || (decide (p.ctx = 0) && s.cmd.ringFailed) || !pageOpen s p.ctx || !shape || decide (7 < p.queue)) = false := by
  have hring : (decide (p.ctx = 0) && s.cmd.ringFailed) = false := by
    rcases hr with h | h
    · simp [h]
    · simp [h]
  simp [hf, hh, hring, ho, hs, hq]

/-- The ring of context and queue of `p` once the host has written the chain into its units. -/
def fetchedRing (s : State) (p : Pkt) (chain : List Pkt) (q : Queue) : State :=
  ringPut s p.ctx q q.fetched.toNat (((p :: chain).map ringPkt).map Pkt.bytes).flatten

/-- The packets that the fetch cuts from that ring. -/
def fetchedPkts (s : State) (p : Pkt) (chain : List Pkt) (q : Queue) : List Pkt :=
  cutPkts p.ctx p.queue ((p :: chain).map ringPkt).length
    (ringGet (fetchedRing s p chain q) p.ctx q q.fetched.toNat ((((p :: chain).map ringPkt).map pLen).foldl (· + ·) 0))

theorem exec_packetFetch_of_room {s : State} {p : Pkt} {chain : List Pkt} {q : Queue}
    (hq : tget (ctxOf s p.ctx).queues p.queue = some q) (hf : fetching s = true) (hh : held s = false)
    (hr : p.ctx ≠ 0 ∨ s.cmd.ringFailed = false) (ho : pageOpen s p.ctx = true) (hn : p.queue ≤ 7)
    (hs : chainShape ((p :: chain).map ringPkt) = true)
    (hu : (((p :: chain).map ringPkt).map pLen).foldl (· + ·) 0 ≤ (q.tail - q.fetched).toNat) :
    exec (.packetFetch p chain) s =
      if q.badChain || chainBad (fetchedPkts s p chain q) then .next (fetchBad (fetchedPkts s p chain q) (fetchedRing s p chain q))
      else if !flightRoom s p.ctx (fetchedPkts s p chain q).length then .next (modCtx p.ctx (fun c => { c with pauses := c.pauses + 1 }) s)
      else .next (fetchAll false (fetchedPkts s p chain q) (fetchedRing s p chain q)) := by
  show execPacketFetch p chain s = _
  unfold execPacketFetch
  dsimp only
  rw [hq]
  dsimp only
  rw [fetchGuard_eq_false hf hh hr ho hn hs, if_neg Bool.false_ne_true, if_neg (Nat.not_lt.mpr hu)]
  rfl

/-- What keeps a packet from its dispatch whatever it holds, none of which holds here (R68, R87, R91, R400). -/
theorem dispatchGuard_eq_false {s : State} {f : Flight} (hd : f.dispatched = false) (hb : bridleOn s = true)
    (ht : s.safe.takeover ≠ some false) (hq : queueLets s f = true) (hc : chainWaits s f = false) :
    (f.dispatched || !bridleOn s || s.safe.takeover == some false || !queueLets s f || chainWaits s f) = false := by
  have htake : (s.safe.takeover == some false) = false := beq_eq_false_iff_ne.mpr ht
  simp [hd, hb, htake, hq, hc]

section

variable {s : State} {ctx tag : Nat} {f : Flight} (hfind : (inFlight s ctx).find? (fun f => pTag f.pkt == tag) = some f)

include hfind

/-- A packet whose order and chain let it go and that the safe state serves comes down to its chain and its dependency (R87-R91, R407). -/
theorem exec_packetDispatch_of_free
    (hguard : (f.dispatched || !bridleOn s || s.safe.takeover == some false || !queueLets s f || chainWaits s f) = false)
    (hsafe : s.safe.safeState = false ∨ safeServed (pOp f.pkt) = true) :
    exec (.packetDispatch ctx tag) s =
      if chainDead s f then .next (endMember f s)
      else match depState s f.pkt with
        | .failed => .next (endDependent f.pkt s)
        | .waits => .next (modFlight f.pkt (fun f => { f with depSince := none }) s)
        | .unknown => .next (modFlight f.pkt (fun f => { f with depSince := some (f.depSince.getD s.time.now) }) s)
        | .met =>
          if !dispatchSlot s f then .next s
          else .next (modFlight f.pkt (fun g => { g with dispatched := true, slot := true, peers := peersAt f.pkt s }) s) := by
  have hserved : (s.safe.safeState && !safeServed (pOp f.pkt)) = false := by
    rcases hsafe with h | h
    · simp [h]
    · simp [h]
  show execPacketDispatch ctx tag s = _
  unfold execPacketDispatch
  rw [hfind]
  dsimp only
  rw [hguard, if_neg Bool.false_ne_true, hserved]
  exact if_neg Bool.false_ne_true

end

/-- A well-formed hello (R95, R96): its header, a key that the device knows, a point of the curve, and room among the hellos of the last
second. -/
def HelloGood (s : State) (d : Dgram) : Prop :=
  d.data.length = 192 ∧ num d.data 0 1 = 2 ∧ num d.data 1 1 = 0x10 ∧ num d.data 4 4 = 0 ∧ (keyOf s (num d.data 16 8)).isSome = true ∧
    Config.onCurve (slice d.data 56 133) = true ∧ (s.stolp.hellos.filter fun t => s.time.now < t + 10 ^ 9).length < 16

/-- The device once the hello has been counted. -/
def countHello (s : State) : State :=
  { s with stolp.hellos := (s.stolp.hellos.filter fun t => s.time.now < t + 10 ^ 9) ++ [s.time.now] }

/-- The row's test of a hello is `HelloGood`. -/
theorem helloTest_iff (s : State) (d : Dgram) :
    (d.data.length == 192 && num d.data 0 1 == 2 && num d.data 1 1 == 0x10 && num d.data 4 4 == 0
      && (keyOf s (num d.data 16 8)).isSome && Config.onCurve (slice d.data 56 133)
      && decide ((s.stolp.hellos.filter fun t => s.time.now < t + 10 ^ 9).length < 16)) = true ↔ HelloGood s d := by
  simp only [HelloGood, Bool.and_eq_true, beq_iff_eq, decide_eq_true_eq, and_assoc]

section

variable {s : State} {d : Dgram} (he : s.stolp.enable.testBit d.port = true) (hr : chanRetired s 6 d.port = false)
  (hm : s.boot.missing.contains 0x10 = false)

include he hr hm

theorem exec_stolpHello_of_not_good (hg : ¬HelloGood s d) : exec (.stolpHello d) s = .next (discard (countHello s)) := by
  show execStolpHello d s = _
  unfold execStolpHello
  rw [he, hr, hm]
  have htest := Bool.eq_false_iff.mpr (mt (helloTest_iff s d).mp hg)
  dsimp only
  rw [htest]
  rfl

theorem exec_stolpHello_of_good (hg : HelloGood s d) :
    exec (.stolpHello d) s =
      match s.stolp.pending.find? fun e => e.2.keyId == num d.data 16 8 && e.2.nonce == slice d.data 24 32 with
      | some e => .next { countHello s with
          out := (countHello s).out ++ [.dgram 0 d.port d.ip d.udp e.2.reply (vlanTag (countHello s) d.port)] }
      | none =>
        if min s.stolp.limit 16 ≤ s.stolp.sessions.length then .next (discard (countHello s))
        else .next { countHello s with
          out := (countHello s).out ++ [.dgram 0 d.port d.ip d.udp (helloReply d (countHello s)).1 (vlanTag (countHello s) d.port)]
          stolp.pending := tput s.stolp.pending s.stolp.nextId (helloReply d (countHello s)).2
          stolp.nextId := s.stolp.nextId + 1
          freeCtr := s.freeCtr + 2 } := by
  show execStolpHello d s = _
  unfold execStolpHello
  rw [he, hr, hm]
  have htest := (helloTest_iff s d).mpr hg
  dsimp only
  rw [htest]
  cases s.stolp.pending.find? fun e => e.2.keyId == num d.data 16 8 && e.2.nonce == slice d.data 24 32 with
  | none => rfl
  | some e => rfl

end

/-- Settles O29: each clause's hypotheses decide the row's tests, and what is left is the answer that the clause writes out. -/
theorem queueAndSessionEventsComplete : Obligations.QueueAndSessionEventsComplete := by
  intro s
  refine ⟨?fetched, ?badChain, ?noRoom, ?dispatched, ?notServed, ?deadChain, ?depFailed, ?depWaits, ?depUnknown, ?noSlot, ?depTimeout,
    ?badHello, ?sameHello, ?newHello, ?finished, ?noHandshake, ?data, ?noSession, ?tooLong, ?notFetching, ?closed, ?handshakeTimeout,
    ?idle, ?credit, fun _ => rfl⟩
  case fetched =>
    intro p chain q hq hf hh hr ho hn given units s1 ps hs hu hb hc hroom
    have hbad : (q.badChain || chainBad (fetchedPkts s p chain q)) = false := Bool.or_eq_false_iff.mpr ⟨hb, hc⟩
    have hroom' : flightRoom s p.ctx (fetchedPkts s p chain q).length = true := hroom
    rw [exec_packetFetch_of_room hq hf hh hr ho hn hs hu, hbad, hroom']
    rfl
  case badChain =>
    intro p chain q hq hf hh hr ho hn given units s1 ps hs hu hb
    rw [exec_packetFetch_of_room hq hf hh hr ho hn hs hu]
    exact if_pos hb
  case noRoom =>
    intro p chain q hq hf hh hr ho hn given units s1 ps hs hu hb hc hroom
    have hbad : (q.badChain || chainBad (fetchedPkts s p chain q)) = false := Bool.or_eq_false_iff.mpr ⟨hb, hc⟩
    have hroom' : flightRoom s p.ctx (fetchedPkts s p chain q).length = false := hroom
    rw [exec_packetFetch_of_room hq hf hh hr ho hn hs hu, hbad, hroom']
    rfl
  case dispatched =>
    intro ctx tag f hfind hd hb ht hq hc hsafe hdead hdep hslot
    rw [exec_packetDispatch_of_free hfind (dispatchGuard_eq_false hd hb ht hq hc) hsafe, hdead, hdep, hslot]
    rfl
  case notServed =>
    intro ctx tag f hfind hd hb ht hq hc hsafe hserved
    show execPacketDispatch ctx tag s = _
    unfold execPacketDispatch
    rw [hfind]
    dsimp only
    rw [dispatchGuard_eq_false hd hb ht hq hc, hsafe, hserved]
    rfl
  case deadChain =>
    intro ctx tag f hfind hd hb ht hq hc hsafe hdead
    rw [exec_packetDispatch_of_free hfind (dispatchGuard_eq_false hd hb ht hq hc) hsafe, hdead]
    rfl
  case depFailed =>
    intro ctx tag f hfind hd hb ht hq hc hsafe hdead hdep
    rw [exec_packetDispatch_of_free hfind (dispatchGuard_eq_false hd hb ht hq hc) hsafe, hdead, hdep]
    rfl
  case depWaits =>
    intro ctx tag f hfind hd hb ht hq hc hsafe hdead hdep
    rw [exec_packetDispatch_of_free hfind (dispatchGuard_eq_false hd hb ht hq hc) hsafe, hdead, hdep]
    rfl
  case depUnknown =>
    intro ctx tag f hfind hd hb ht hq hc hsafe hdead hdep
    rw [exec_packetDispatch_of_free hfind (dispatchGuard_eq_false hd hb ht hq hc) hsafe, hdead, hdep]
    rfl
  case noSlot =>
    intro ctx tag f hfind hd hb ht hq hc hsafe hdead hdep hslot
    rw [exec_packetDispatch_of_free hfind (dispatchGuard_eq_false hd hb ht hq hc) hsafe, hdead, hdep, hslot]
    rfl
  case depTimeout =>
    intro ctx tag t f hfind hsince hdep
    show execDependencyTimeout ctx tag s = _
    unfold execDependencyTimeout
    rw [hfind]
    dsimp only
    rw [hsince]
    exact if_pos hdep
  case badHello => exact fun d he hr hm hg => exec_stolpHello_of_not_good he hr hm hg
  case sameHello =>
    intro d e he hr hm hg hsame
    rw [exec_stolpHello_of_good he hr hm hg, hsame]
    rfl
  case newHello =>
    intro d he hr hm hg hnew hlimit
    rw [exec_stolpHello_of_good he hr hm hg, hnew]
    exact if_neg (Nat.not_le.mpr hlimit)
  case finished =>
    intro d h sig hp t secret key hlen htype hver hctr hport hip hudp hopen hsig
    show execStolpFinish d s = _
    unfold execStolpFinish
    dsimp only
    rw [hp]
    dsimp only
    rw [hopen]
    have hgood : (d.data.length == 164 && num d.data 0 1 == 4 && num d.data 1 1 == 0x10 && num d.data 8 8 == 0
        && h.port == d.port && h.ip == d.ip && h.udp == d.udp && Config.ecdsaVerify key (t ++ slice d.data 0 16) sig) = true := by
      simp only [Bool.and_eq_true, beq_iff_eq, and_assoc]
      exact ⟨hlen, htype, hver, hctr, hport, hip, hudp, hsig⟩
    dsimp only
    rw [hgood]
    rfl
  case noHandshake =>
    intro d hd
    show execStolpFinish d s = _
    unfold execStolpFinish
    dsimp only
    rw [hd]
  case data =>
    intro d o hfits ho hf r
    show execStolpData d s = _
    unfold execStolpData
    rw [hfits, ho]
    dsimp only
    rw [hf]
    rfl
  case noSession =>
    intro d hfits ho
    show execStolpData d s = _
    unfold execStolpData
    rw [hfits, ho]
    rfl
  case tooLong =>
    intro d hfits
    show execStolpData d s = _
    unfold execStolpData
    rw [hfits]
    rfl
  case notFetching =>
    intro d o hfits ho hf
    show execStolpData d s = _
    unfold execStolpData
    rw [hfits, ho]
    dsimp only
    rw [hf]
    rfl
  case closed =>
    intro d o ho
    show execStolpClose d s = _
    unfold execStolpClose
    rw [ho]
  case handshakeTimeout =>
    intro session h hp
    show execHandshakeTimeout session s = _
    unfold execHandshakeTimeout
    rw [hp]
  case idle =>
    intro session q hq
    show execSessionIdleTimeout session s = _
    unfold execSessionIdleTimeout
    rw [hq]
  case credit => exact fun session h => if_pos h

/-! ### What fetch, dispatch and session events leave unchanged (R81, R87, R93, R96) -/

/-- `t` with those parts of `s` that packets and sessions reach: link, contexts, command pair, sessions, memory, time, output and
the free values. -/
def transportAs (s t : State) : State :=
  { t with link := s.link, ctxs := s.ctxs, cmd := s.cmd, stolp := s.stolp, store := s.store, time := s.time, out := s.out,
           freeCtr := s.freeCtr }

/-- From `s` to `t` only the transport of packets and the time change. -/
def SameBesideTransport (s t : State) : Prop := transportAs s t = s

/-- An answer whose next state, where it has one, keeps every unit. -/
def KeepsUnits (s : State) (r : Res) : Prop := ∀ t, r = .next t → SameBesideTransport s t

section

variable {s t u : State}

theorem SameBesideTransport.refl (s : State) : SameBesideTransport s s := rfl

theorem SameBesideTransport.trans (h : SameBesideTransport s t) (k : SameBesideTransport t u) : SameBesideTransport s u :=
  (congrArg (transportAs s) k).trans h

theorem SameDevice.besideTransport {p : Pkt} (h : SameDevice p s t) : SameBesideTransport s t := by
  unfold SameBesideTransport transportAs
  rw [h.pending, h.glb, h.casc, h.reel, h.sched, h.models, h.cams, h.audio, h.net, h.safe, h.power, h.boot, h.pins]

theorem sameBesideTransport_update (s : State) (ctxs : Tbl Ctx) (cmd : Cmd) (stolp : Stolp) (store : Store) (out : List Out)
    (freeCtr : Nat) :
    SameBesideTransport s { s with ctxs := ctxs, cmd := cmd, stolp := stolp, store := store, out := out, freeCtr := freeCtr } := rfl

theorem sameBesideTransport_ite {c : Prop} [Decidable c] (ht : SameBesideTransport s t) (hu : SameBesideTransport s u) :
    SameBesideTransport s (if c then t else u) := by
  split
  · exact ht
  · exact hu

theorem sameBesideTransport_ite_snd {β : Type} {c : Prop} [Decidable c] {a b : β × State} (ha : SameBesideTransport s a.2)
    (hb : SameBesideTransport s b.2) : SameBesideTransport s (if c then a else b).2 := by
  split
  · exact ha
  · exact hb

theorem sameBesideTransport_foldl {α : Type} {f : State → α → State} (hf : ∀ t a, SameBesideTransport t (f t a)) (l : List α)
    (s : State) : SameBesideTransport s (l.foldl f s) := by
  induction l generalizing s with
  | nil => exact .refl s
  | cons a r ih => exact (hf s a).trans (ih _)

/-- A fold that carries a value beside the state. -/
theorem sameBesideTransport_foldl_snd {α β : Type} {f : β × State → α → β × State} (hf : ∀ b a, SameBesideTransport b.2 (f b a).2)
    (l : List α) (b : β × State) : SameBesideTransport b.2 (l.foldl f b).2 := by
  induction l generalizing b with
  | nil => exact .refl b.2
  | cons a r ih => exact (hf b a).trans (ih _)

theorem SameBesideTransport.keepsUnits (h : SameBesideTransport s t) : KeepsUnits s (.next t) :=
  fun _ ht => Host.Outcome.next.inj ht ▸ h

theorem keepsUnits_ite {c : Prop} [Decidable c] {a b : Res} (ha : KeepsUnits s a) (hb : KeepsUnits s b) :
    KeepsUnits s (if c then a else b) := by
  split
  · exact ha
  · exact hb

theorem sameBesideTransport_elapseTo (n : Nat) (s : State) : SameBesideTransport s (elapseTo n s) :=
  (congrArg (transportAs s) (elapseTo_frame n s) :)

theorem sameBesideTransport_modCtx (n : Nat) (f : Ctx → Ctx) (s : State) : SameBesideTransport s (modCtx n f s) := rfl

theorem sameBesideTransport_modFlight (p : Pkt) (f : Flight → Flight) (s : State) : SameBesideTransport s (modFlight p f s) := rfl

theorem sameBesideTransport_reject (p : Pkt) (f : Fail) (w2 : Nat) (s : State) : SameBesideTransport s (reject p f w2 s) :=
  (sameDevice_reject p f w2 s).besideTransport

theorem sameBesideTransport_deliver (p : Pkt) (r : Reply) (s : State) : SameBesideTransport s (deliver p r s) :=
  (sameDevice_deliver p r s).besideTransport

theorem sameBesideTransport_sendSess (id type : Nat) (payload : List Byte) (s : State) :
    SameBesideTransport s (sendSess id type payload s) :=
  (sameDevice_sendSess ⟨0, 0, 0, []⟩ id type payload s).besideTransport

theorem sameBesideTransport_closeSession (id : Nat) (s : State) : SameBesideTransport s (closeSession id s) := rfl

theorem sameBesideTransport_discard (s : State) : SameBesideTransport s (discard s) := rfl

theorem sameBesideTransport_sendCredit (id : Nat) (s : State) : SameBesideTransport s (sendCredit id s) := by
  unfold sendCredit
  split
  · exact .refl s
  · exact sameBesideTransport_sendSess id 5 _ s

theorem sameBesideTransport_endDependent (p : Pkt) (s : State) : SameBesideTransport s (endDependent p s) :=
  (sameBesideTransport_modCtx p.ctx _ s).trans (sameBesideTransport_reject p _ 0 _)

theorem sameBesideTransport_endMember (f : Flight) (s : State) : SameBesideTransport s (endMember f s) :=
  (sameBesideTransport_reject f.pkt _ 0 s).trans (sameBesideTransport_update _ _ _ _ _ _ _)

/-! #### Fetch -/

theorem sameBesideTransport_endAtFetch (p : Pkt) (f : Fail) (dup : Bool) (s : State) : SameBesideTransport s (endAtFetch p f dup s) := by
  unfold endAtFetch
  refine sameBesideTransport_ite (sameBesideTransport_deliver p _ s) (sameBesideTransport_ite ?_ (sameBesideTransport_reject p f 0 s))
  exact (sameDevice_logReject p f s).besideTransport.trans
    ((sameDevice_recordTag p _ true _).besideTransport.trans (sameBesideTransport_deliver p _ _))

theorem sameBesideTransport_countFetch (p : Pkt) (s : State) : SameBesideTransport s (countFetch p s) :=
  SameBesideTransport.trans (sameBesideTransport_ite (.refl s) (sameBesideTransport_modCtx p.ctx _ s))
    (sameBesideTransport_update _ _ _ _ _ _ _)

theorem sameBesideTransport_fetchOne (bad taken : Bool) (acc : Option Nat × State) (p : Pkt) :
    SameBesideTransport acc.2 (fetchOne bad taken acc p).2 := by
  unfold fetchOne
  have hcount := sameBesideTransport_countFetch p acc.2
  dsimp only
  split
  · exact hcount.trans ((sameBesideTransport_ite (sameBesideTransport_update _ _ _ _ _ _ _) (.refl _)).trans
      (sameBesideTransport_endAtFetch p _ _ _))
  · exact hcount.trans (sameBesideTransport_update _ _ _ _ _ _ _)

theorem sameBesideTransport_fetchAll (bad : Bool) (ps : List Pkt) (s : State) : SameBesideTransport s (fetchAll bad ps s) :=
  sameBesideTransport_foldl_snd (sameBesideTransport_fetchOne bad false) ps (none, s)

theorem sameBesideTransport_fetchNet (bad : Bool) (taken : List Nat) (ps : List Pkt) (s : State) :
    SameBesideTransport s (fetchNet bad taken ps s) := by
  unfold fetchNet
  exact sameBesideTransport_foldl_snd (fun acc (x : Pkt × Nat) => sameBesideTransport_fetchOne bad _ acc x.1) _ (none, s)

theorem sameBesideTransport_fetchBad (ps : List Pkt) (s : State) : SameBesideTransport s (fetchBad ps s) := by
  induction ps generalizing s with
  | nil => exact .refl s
  | cons p rest ih =>
    refine sameBesideTransport_ite ?_ (sameBesideTransport_modCtx p.ctx _ s)
    exact (sameBesideTransport_fetchAll true [p] s).trans ((sameBesideTransport_modCtx p.ctx _ _).trans (ih _))

theorem sameBesideTransport_ringPut (h : Nat) (q : Queue) (i : Nat) (bs : List Byte) (s : State) :
    SameBesideTransport s (ringPut s h q i bs) :=
  sameBesideTransport_foldl (fun t _ => sameBesideTransport_update t _ _ _ _ _ _) _ s

theorem keepsUnits_packetFetch (p : Pkt) (chain : List Pkt) : KeepsUnits s (execPacketFetch p chain s) := by
  unfold execPacketFetch
  have hself := (SameBesideTransport.refl s).keepsUnits
  dsimp only
  split
  · exact hself
  next q hq =>
    refine keepsUnits_ite hself (keepsUnits_ite hself (keepsUnits_ite ?bad (keepsUnits_ite ?noRoom ?fetched)))
    case bad => exact ((sameBesideTransport_ringPut _ q _ _ s).trans (sameBesideTransport_fetchBad _ _)).keepsUnits
    case noRoom => exact (sameBesideTransport_modCtx p.ctx _ s).keepsUnits
    case fetched => exact ((sameBesideTransport_ringPut _ q _ _ s).trans (sameBesideTransport_fetchAll false _ _)).keepsUnits

/-! #### Dispatch -/

theorem keepsUnits_packetDispatch (ctx tag : Nat) : KeepsUnits s (execPacketDispatch ctx tag s) := by
  unfold execPacketDispatch
  have hself := (SameBesideTransport.refl s).keepsUnits
  split
  · exact hself
  next f hf =>
    refine keepsUnits_ite hself (keepsUnits_ite ?notServed (keepsUnits_ite (sameBesideTransport_endMember f s).keepsUnits ?dependency))
    case notServed => exact (sameBesideTransport_reject f.pkt _ 0 s).keepsUnits
    case dependency =>
      split
      · exact (sameBesideTransport_endDependent f.pkt s).keepsUnits
      · exact (sameBesideTransport_modFlight f.pkt _ s).keepsUnits
      · exact (sameBesideTransport_modFlight f.pkt _ s).keepsUnits
      · exact keepsUnits_ite hself (sameBesideTransport_modFlight f.pkt _ s).keepsUnits

theorem keepsUnits_dependencyTimeout (ctx tag : Nat) : KeepsUnits s (execDependencyTimeout ctx tag s) := by
  unfold execDependencyTimeout
  have hself := (SameBesideTransport.refl s).keepsUnits
  split
  · exact hself
  next f hf =>
    split
    · exact keepsUnits_ite ((sameBesideTransport_elapseTo _ s).trans (sameBesideTransport_endDependent f.pkt _)).keepsUnits hself
    · exact hself

/-! #### Sessions -/

theorem keepsUnits_stolpHello (d : Dgram) : KeepsUnits s (execStolpHello d s) := by
  unfold execStolpHello
  have hdiscard : ∀ stolp, KeepsUnits s (.next (discard { s with stolp := stolp })) := fun _ => SameBesideTransport.keepsUnits rfl
  refine keepsUnits_ite (SameBesideTransport.refl s).keepsUnits (keepsUnits_ite (hdiscard _) ?_)
  split
  · exact (sameBesideTransport_update s _ _ _ _ _ _).keepsUnits
  · exact keepsUnits_ite (hdiscard _) (sameBesideTransport_update s _ _ _ _ _ _).keepsUnits

theorem keepsUnits_stolpFinish (d : Dgram) : KeepsUnits s (execStolpFinish d s) := by
  unfold execStolpFinish
  dsimp only
  have hdiscard := (sameBesideTransport_discard s).keepsUnits
  split
  · exact hdiscard
  · exact keepsUnits_ite hdiscard
      ((sameBesideTransport_update s _ _ _ _ _ _).trans (sameBesideTransport_sendCredit _ _)).keepsUnits

theorem sameBesideTransport_noteDgram (id n : Nat) (s : State) : SameBesideTransport s (noteDgram id n s) :=
  sameBesideTransport_ite (sameBesideTransport_update s _ _ _ _ _ _) (sameBesideTransport_update s _ _ _ _ _ _)

theorem sameBesideTransport_netTake (taken : Bool) (p : Pkt) (s : State) : SameBesideTransport s (netTake taken p s) := by
  have hfetch : ∀ f bad tk ps, SameBesideTransport s (fetchNet bad tk ps (modCtx p.ctx f s)) := fun f bad tk ps =>
    (sameBesideTransport_modCtx p.ctx f s).trans (sameBesideTransport_fetchNet bad tk ps _)
  exact sameBesideTransport_ite (hfetch _ _ _ _) (sameBesideTransport_ite (sameBesideTransport_modCtx p.ctx _ s) (hfetch _ _ _ _))

theorem sameBesideTransport_netPacket (id : Nat) (b : List Byte) (s : State) : SameBesideTransport s (netPacket id b s).2 := by
  unfold netPacket
  have htake : ∀ taken p, SameBesideTransport s (netTake taken p s) := fun taken p => sameBesideTransport_netTake taken p s
  dsimp only
  split
  · exact .refl s
  next q hq =>
    refine sameBesideTransport_ite_snd (.refl s) (sameBesideTransport_ite_snd (.refl s) (sameBesideTransport_ite_snd (htake true _) ?_))
    split
    · exact sameBesideTransport_ite_snd (sameBesideTransport_sendSess id 1 _ s) (htake _ _)
    · exact htake false _

/-- The packets of a datagram one by one; the Boolean says that one was discarded for want of window (R97). -/
def takePacket (id : Nat) (acc : Bool × State) (x : List Byte) : Bool × State :=
  ((acc.1 || (netPacket id x acc.2).1), (netPacket id x acc.2).2)

theorem keepsUnits_stolpData (d : Dgram) : KeepsUnits s (execStolpData d s) := by
  unfold execStolpData
  refine keepsUnits_ite (SameBesideTransport.refl s).keepsUnits ?_
  split
  · exact (sameBesideTransport_discard s).keepsUnits
  next id b ho =>
    have hnote := sameBesideTransport_noteDgram id (num d.data 8 8) s
    refine keepsUnits_ite hnote.keepsUnits ?_
    split
    next lost s2 hfold =>
      have hpackets := sameBesideTransport_foldl_snd (f := takePacket id) (fun acc x => sameBesideTransport_netPacket id x acc.2)
        (splitPackets (b.length / 16) b) (false, noteDgram id (num d.data 8 8) s)
      have hlast : ((splitPackets (b.length / 16) b).foldl (takePacket id) (false, noteDgram id (num d.data 8 8) s)).2 = s2 :=
        congrArg Prod.snd hfold
      rw [hlast] at hpackets
      have hs2 := hnote.trans hpackets
      exact (hs2.trans (sameBesideTransport_ite (sameBesideTransport_sendCredit id s2) (.refl s2))).keepsUnits

theorem keepsUnits_stolpClose (d : Dgram) : KeepsUnits s (execStolpClose d s) := by
  unfold execStolpClose
  split
  · exact (sameBesideTransport_discard s).keepsUnits
  · exact (sameBesideTransport_closeSession _ s).keepsUnits

theorem keepsUnits_handshakeTimeout (session : Nat) : KeepsUnits s (execHandshakeTimeout session s) := by
  unfold execHandshakeTimeout
  split
  · exact (SameBesideTransport.refl s).keepsUnits
  · exact ((sameBesideTransport_elapseTo _ s).trans (sameBesideTransport_update _ _ _ _ _ _ _)).keepsUnits

theorem keepsUnits_sessionIdleTimeout (session : Nat) : KeepsUnits s (execSessionIdleTimeout session s) := by
  unfold execSessionIdleTimeout
  split
  · exact (SameBesideTransport.refl s).keepsUnits
  · exact ((sameBesideTransport_elapseTo _ s).trans ((sameBesideTransport_sendSess session 6 _ _).trans
      (sameBesideTransport_closeSession session _))).keepsUnits

theorem keepsUnits_creditTimer (session : Nat) : KeepsUnits s (execCreditTimer session s) :=
  keepsUnits_ite (sameBesideTransport_sendCredit session s).keepsUnits (SameBesideTransport.refl s).keepsUnits

theorem keepsUnits_replyBatchTimeout (session : Nat) : KeepsUnits s (execReplyBatchTimeout session s) :=
  (sameDevice_flushBatch ⟨0, 0, 0, []⟩ session s).besideTransport.keepsUnits

end

/-- Settles O47: each event keeps every unit, since fetching, answering and the sessions reach only the transport of packets, and the
timeouts beside them the time. -/
theorem sessionEventsFrame : Obligations.SessionEventsFrame := by
  intro c s t hc h
  suffices hs : SameBesideTransport s t from
    ⟨(congrArg State.pending hs :), (congrArg State.glb hs :), (congrArg State.casc hs :), (congrArg State.reel hs :),
      (congrArg State.sched hs :), (congrArg State.models hs :), (congrArg State.cams hs :), (congrArg State.audio hs :),
      (congrArg State.net hs :), (congrArg State.safe hs :), (congrArg State.power hs :), (congrArg State.boot hs :),
      (congrArg State.pins hs :)⟩
  rcases hc with ⟨p, chain, rfl⟩ | ⟨ctx, tag, rfl⟩ | ⟨ctx, tag, rfl⟩ | ⟨d, rfl⟩ | ⟨d, rfl⟩ | ⟨d, rfl⟩ | ⟨d, rfl⟩ | ⟨session, rfl⟩ |
    ⟨session, rfl⟩ | ⟨session, rfl⟩ | ⟨session, rfl⟩
  · exact keepsUnits_packetFetch p chain t h
  · exact keepsUnits_packetDispatch ctx tag t h
  · exact keepsUnits_dependencyTimeout ctx tag t h
  · exact keepsUnits_stolpHello d t h
  · exact keepsUnits_stolpFinish d t h
  · exact keepsUnits_stolpData d t h
  · exact keepsUnits_stolpClose d t h
  · exact keepsUnits_handshakeTimeout session t h
  · exact keepsUnits_sessionIdleTimeout session t h
  · exact keepsUnits_creditTimer session t h
  · exact keepsUnits_replyBatchTimeout session t h

/-! ### What the device, context and memory-map commands leave unchanged (R80, R101, R106, R136, R312) -/

/-- `t` with those parts of `s` that serve the host side: link, contexts, command pair, sessions, memory and output. -/
def hostSideAs (s t : State) : State :=
  { t with link := s.link, ctxs := s.ctxs, cmd := s.cmd, stolp := s.stolp, store := s.store, out := s.out }

/-- From `s` to `t` only the host side changes. -/
def SameBesideHostSide (s t : State) : Prop := hostSideAs s t = s

/-- `t` with those parts of `s` that serve the host side or take the report of a memory word. -/
def wordReportAs (s t : State) : State := { hostSideAs s t with glb := s.glb, safe := s.safe, pins := s.pins }

/-- From `s` to `t` only the host side changes and what the report of a memory word reaches. -/
def SameBesideWordReport (s t : State) : Prop := wordReportAs s t = s

section

variable {s t u : State}

theorem SameBesideHostSide.refl (s : State) : SameBesideHostSide s s := rfl

theorem SameBesideHostSide.trans (h : SameBesideHostSide s t) (k : SameBesideHostSide t u) : SameBesideHostSide s u :=
  (congrArg (hostSideAs s) k).trans h

theorem SameDevice.besideHostSide {p : Pkt} (h : SameDevice p s t) : SameBesideHostSide s t := by
  unfold SameBesideHostSide hostSideAs
  rw [h.pending, h.glb, h.casc, h.reel, h.sched, h.models, h.cams, h.audio, h.time, h.net, h.safe, h.power, h.boot, h.pins, h.freeCtr]

theorem sameBesideHostSide_update (s : State) (ctxs : Tbl Ctx) (stolp : Stolp) (store : Store) (out : List Out) :
    SameBesideHostSide s { s with ctxs := ctxs, stolp := stolp, store := store, out := out } := rfl

theorem sameBesideHostSide_ite {c : Prop} [Decidable c] (ht : SameBesideHostSide s t) (hu : SameBesideHostSide s u) :
    SameBesideHostSide s (if c then t else u) := by
  split
  · exact ht
  · exact hu

theorem sameBesideHostSide_foldl {α : Type} {f : State → α → State} (hf : ∀ t a, SameBesideHostSide t (f t a)) (l : List α)
    (s : State) : SameBesideHostSide s (l.foldl f s) := by
  induction l generalizing s with
  | nil => exact .refl s
  | cons a r ih => exact (hf s a).trans (ih _)

theorem sameBesideHostSide_modCtx (n : Nat) (f : Ctx → Ctx) (s : State) : SameBesideHostSide s (modCtx n f s) := rfl

theorem sameBesideHostSide_completeOk (p : Pkt) (w0 w1 w2 : Nat) (s : State) : SameBesideHostSide s (completeOk p w0 w1 w2 s) :=
  (sameDevice_completeOk p w0 w1 w2 s).besideHostSide

theorem SameBesideHostSide.completeOk (h : SameBesideHostSide s t) (p : Pkt) (w0 w1 w2 : Nat) :
    SameBesideHostSide s (completeOk p w0 w1 w2 t) :=
  h.trans (sameBesideHostSide_completeOk p w0 w1 w2 t)

theorem sameBesideHostSide_handOn (p : Pkt) (s : State) : SameBesideHostSide s (handOn p s) := (sameDevice_handOn p s).besideHostSide

theorem sameBesideHostSide_flushBatch (id : Nat) (s : State) : SameBesideHostSide s (flushBatch id s) :=
  (sameDevice_flushBatch ⟨0, 0, 0, []⟩ id s).besideHostSide

theorem sameBesideHostSide_sendSess (id type : Nat) (payload : List Byte) (s : State) :
    SameBesideHostSide s (sendSess id type payload s) :=
  (sameDevice_sendSess ⟨0, 0, 0, []⟩ id type payload s).besideHostSide

theorem sameBesideHostSide_vwrite (h va : Nat) (bs : List Byte) (s : State) : SameBesideHostSide s (vwrite h va bs s) := by
  refine (sameBesideHostSide_foldl (fun t piece => ?_) _ s).trans (sameBesideHostSide_update _ _ _ _ _)
  obtain ⟨l, lo, k⟩ := piece
  exact sameBesideHostSide_ite (sameDevice_emitHost ⟨0, 0, 0, []⟩ _ t).besideHostSide (sameBesideHostSide_update t _ _ _ _)

theorem sameBesideHostSide_mapPages (k : Nat) (frames : List Nat) (s : State) : SameBesideHostSide s (mapPages k frames s) := by
  refine sameBesideHostSide_foldl (fun t (x : Nat × Nat) => ?_) _ s
  unfold mapPage
  dsimp only
  split
  · exact .refl t
  · exact sameBesideHostSide_modCtx _ _ t

theorem sameBesideHostSide_pinIo (p : Pkt) (up : Bool) (s : State) : SameBesideHostSide s (pinIo p up s) :=
  sameBesideHostSide_foldl (fun t _ => sameBesideHostSide_update t _ _ _ _) _ s

theorem sameBesideHostSide_startRetire (c : Nat) (q : Option Pkt) (s : State) : SameBesideHostSide s (startRetire c q s) := by
  unfold startRetire
  split
  · exact sameBesideHostSide_update s _ _ _ _
  · exact sameBesideHostSide_ite (sameBesideHostSide_update s _ _ _ _) (sameBesideHostSide_update s _ _ _ _)

/-! #### The report of a memory word (R297, R308, R399, R405) -/

theorem SameBesideWordReport.refl (s : State) : SameBesideWordReport s s := rfl

theorem SameBesideWordReport.trans (h : SameBesideWordReport s t) (k : SameBesideWordReport t u) : SameBesideWordReport s u :=
  (congrArg (wordReportAs s) k).trans h

theorem SameBesideHostSide.besideWordReport (h : SameBesideHostSide s t) : SameBesideWordReport s t := (congrArg (wordReportAs s) h :)

theorem sameBesideWordReport_update (s : State) (store : Store) (safe : Safe) (pins : Pins) :
    SameBesideWordReport s { s with store := store, safe := safe, pins := pins } := rfl

theorem sameBesideWordReport_ite {c : Prop} [Decidable c] (ht : SameBesideWordReport s t) (hu : SameBesideWordReport s u) :
    SameBesideWordReport s (if c then t else u) := by
  split
  · exact ht
  · exact hu

theorem sameBesideWordReport_glbEvent (k : Nat) (s : State) : SameBesideWordReport s (glbEvent k s) :=
  (congrArg (wordReportAs s) (glbEvent_frame k s) :)

/-- A safety record is kept, raises GLB_EVENT and may assert the fault signal. -/
theorem sameBesideWordReport_logEvent (kind ty ix action ctx score detail loc : Nat) (s : State) :
    SameBesideWordReport s (logEvent kind ty ix action ctx score detail loc s) :=
  (sameBesideWordReport_update s _ _ _).trans ((sameBesideWordReport_glbEvent 2 _).trans
    (sameBesideWordReport_ite (sameBesideWordReport_update _ _ _ _) (.refl _)))

theorem sameBesideWordReport_deviceLimit (before : Nat) (s : State) : SameBesideWordReport s (deviceLimit before s) :=
  sameBesideWordReport_ite (sameBesideWordReport_logEvent _ _ _ _ _ _ _ _ s) (.refl s)

theorem sameBesideWordReport_chanEvent (kind ty ix action ctx weight detail loc : Nat) (s : State) :
    SameBesideWordReport s (chanEvent kind ty ix action ctx weight detail loc s) :=
  (sameBesideWordReport_update s _ _ _).trans (sameBesideWordReport_logEvent _ _ _ _ _ _ _ _ _)

theorem sameBesideWordReport_deviceEvent (kind action ctx weight detail loc : Nat) (s : State) :
    SameBesideWordReport s (deviceEvent kind action ctx weight detail loc s) := by
  unfold deviceEvent
  exact (sameBesideWordReport_update s _ _ _).trans
    ((sameBesideWordReport_logEvent _ _ _ _ _ _ _ _ _).trans (sameBesideWordReport_deviceLimit _ _))

theorem sameBesideWordReport_correctedLog (ty ix sc : Nat) (s : State) : SameBesideWordReport s (correctedLog ty ix sc s) :=
  sameBesideWordReport_ite (sameBesideWordReport_update s _ _ _) (sameBesideWordReport_logEvent _ _ _ _ _ _ _ _ s)

theorem sameBesideWordReport_correctedEvent (ty ix : Nat) (s : State) : SameBesideWordReport s (correctedEvent ty ix s) :=
  (sameBesideWordReport_update s _ _ _).trans (sameBesideWordReport_correctedLog ty ix _ _)

theorem sameBesideWordReport_correctedDevice (s : State) : SameBesideWordReport s (correctedDevice s) :=
  (sameBesideWordReport_update s _ _ _).trans ((sameBesideWordReport_correctedLog 0 0 _ _).trans (sameBesideWordReport_deviceLimit _ _))

/-- A failed word is charged to its channel, or to the device. -/
theorem sameBesideWordReport_wordEvent (w ctx : Nat) (s : State) : SameBesideWordReport s (wordEvent w ctx s) := by
  unfold wordEvent
  dsimp only
  split
  · exact (sameBesideWordReport_update s _ _ _).trans (sameBesideWordReport_chanEvent _ _ _ _ _ _ _ _ _)
  · exact sameBesideWordReport_deviceEvent _ _ _ _ _ _ s

/-- So is each corrected word. -/
theorem sameBesideWordReport_correctedWords (ws : List Nat) (s : State) : SameBesideWordReport s (correctedWords ws s) := by
  induction ws generalizing s with
  | nil => exact .refl s
  | cons w rest ih =>
    refine SameBesideWordReport.trans ?_ (ih _)
    dsimp only
    split
    · exact (sameBesideWordReport_update s _ _ _).trans (sameBesideWordReport_correctedEvent _ _ _)
    · exact sameBesideWordReport_correctedDevice s

/-! #### How a run ends -/

variable {p : Pkt} {chk : Option Fail} {act : State → State}

/-- A command whose checks meet no failed word and whose effect is confined to the host side is confined to it. -/
theorem RunEnds.sameBesideHostSide (h : RunEnds p s chk act t) (hword : ∀ f, chk = some f → f.word = none)
    (hact : SameBesideHostSide s (act s)) : SameBesideHostSide s t := by
  cases h with
  | untouched hs => exact hs.besideHostSide
  | @badWord f w hchk hw hs =>
    rw [hword f hchk] at hw
    cases hw
  | acts hp hchk ht =>
    subst ht
    exact hact

/-- `u` is `s` with the words reported that a command meets: none, one that fails its checks, or those that it reads corrected. -/
def WordsReported (p : Pkt) (s u : State) : Prop := u = s ∨ (∃ w, u = wordEvent w p.ctx s) ∨ ∃ ws, u = correctedWords ws s

theorem WordsReported.besideWordReport (h : WordsReported p s u) : SameBesideWordReport s u := by
  obtain rfl | ⟨w, rfl⟩ | ⟨ws, rfl⟩ := h
  · exact .refl u
  · exact sameBesideWordReport_wordEvent w p.ctx s
  · exact sameBesideWordReport_correctedWords ws s

theorem wordsReported_readWords (p : Pkt) (h va n : Nat) (s : State) : WordsReported p s (readWords h va n s) := by
  unfold readWords
  split
  · exact .inl rfl
  · exact .inr (.inr ⟨_, rfl⟩)

/-- A command that reads memory is confined to the host side once its words are reported. -/
theorem RunEnds.wordsReported (h : RunEnds p s chk act t) (hact : ∃ u, WordsReported p s u ∧ SameBesideHostSide u (act s)) :
    ∃ u, WordsReported p s u ∧ SameBesideHostSide u t := by
  cases h with
  | untouched hs => exact ⟨s, .inl rfl, hs.besideHostSide⟩
  | badWord hchk hw hs => exact ⟨_, .inr (.inl ⟨_, rfl⟩), hs.besideHostSide⟩
  | acts hp hchk ht =>
    subst ht
    exact hact

end

/-! #### The effects -/

section

variable (p : Pkt) (s : State)

theorem sameBesideHostSide_actDevInfo : SameBesideHostSide s (actDevInfo p s) :=
  (sameBesideHostSide_ite (.refl s) (sameBesideHostSide_vwrite _ _ _ s)).completeOk p _ _ _

theorem sameBesideHostSide_actDevStats : SameBesideHostSide s (actDevStats p s) :=
  (sameBesideHostSide_ite (sameBesideHostSide_modCtx _ _ s) (.refl s)).completeOk p _ _ _

theorem sameBesideHostSide_actDevRejectLog : SameBesideHostSide s (actDevRejectLog p s) :=
  ((sameBesideHostSide_modCtx _ _ s).trans (sameBesideHostSide_vwrite _ _ _ _)).completeOk p _ _ _

theorem sameBesideHostSide_actDevKeyRevoke : SameBesideHostSide s (actDevKeyRevoke p s) :=
  ((sameBesideHostSide_foldl (fun t _ => sameBesideHostSide_update t _ _ _ _) _ s).trans
    (sameBesideHostSide_update _ _ _ _ _)).completeOk p _ _ _

/-- The session that carried the packet gets its replies before its port closes (R106). -/
theorem sameBesideHostSide_actDevNetConfig : SameBesideHostSide s (actDevNetConfig p s) :=
  ((sameBesideHostSide_update s _ _ _ _).completeOk p 0 0 0).trans
    ((sameBesideHostSide_ite (sameBesideHostSide_flushBatch _ _) (.refl _)).trans
      (sameBesideHostSide_foldl (fun t _ => sameBesideHostSide_update t _ _ _ _) _ _))

theorem sameBesideHostSide_actDevSessionClose : SameBesideHostSide s (actDevSessionClose p s) :=
  (sameBesideHostSide_completeOk p 0 0 0 s).trans
    ((sameBesideHostSide_ite (sameBesideHostSide_flushBatch _ _) (.refl _)).trans
      ((sameBesideHostSide_sendSess _ 6 _ _).trans (sameBesideHostSide_update _ _ _ _ _)))

theorem sameBesideHostSide_actCtxSeal : SameBesideHostSide s (actCtxSeal p s) :=
  sameBesideHostSide_ite (.refl s) ((sameBesideHostSide_update s _ _ _ _).completeOk p _ _ _)

theorem sameBesideHostSide_actMemMapHost : SameBesideHostSide s (actMemMapHost p s) :=
  ((sameBesideHostSide_update s _ _ _ _).trans (sameBesideHostSide_mapPages _ _ _)).completeOk p _ _ _

theorem sameBesideHostSide_actMemChannels : SameBesideHostSide s (actMemChannels p s) :=
  ((sameBesideHostSide_vwrite _ _ _ s).trans (sameBesideHostSide_ite (sameBesideHostSide_update _ _ _ _ _) (.refl _))).completeOk p _ _ _

theorem sameBesideHostSide_actMemChannelRetire : SameBesideHostSide s (actMemChannelRetire p s) :=
  (sameBesideHostSide_handOn p s).trans (sameBesideHostSide_startRetire _ _ _)

theorem wordsReported_actDevKeyEnroll : ∃ u, WordsReported p s u ∧ SameBesideHostSide u (actDevKeyEnroll p s) :=
  ⟨_, wordsReported_readWords p 0 (fld p 16 8) 256 s, (sameBesideHostSide_update _ _ _ _ _).completeOk p _ _ _⟩

theorem wordsReported_actCtxSetQuota : ∃ u, WordsReported p s u ∧ SameBesideHostSide u (actCtxSetQuota p s) :=
  ⟨_, wordsReported_readWords p 0 (fld p 24 8) 64 s, (sameBesideHostSide_modCtx _ _ _).completeOk p 0 0 0⟩

/-- Only a transfer to the drive reads memory (R313). -/
theorem wordsReported_actMemColdIo : ∃ u, WordsReported p s u ∧ SameBesideHostSide u (actMemColdIo p s) := by
  have hrest : ∀ u, SameBesideHostSide u (handOn p { pinIo p true u with
      store.cold := (pinIo p true u).store.cold ++ [{ pkt := some p, deadline := (pinIo p true u).time.now + 1000000000 }]
      out := (pinIo p true u).out ++ [.nvme 0 (fld p 17 1) [fld p 16 1, fld p 20 4, fld p 24 8, fld p 32 4]] }) := fun u =>
    (sameBesideHostSide_pinIo p true u).trans ((sameBesideHostSide_update _ _ _ _ _).trans (sameBesideHostSide_handOn p _))
  refine ⟨_, ?_, hrest _⟩
  split
  · exact wordsReported_readWords p 0 _ _ s
  · exact .inl rfl

end

/-- The command reads words of memory, as its checks and its effect do. -/
def ReadsWords (p : Pkt) (c : Instr) : Prop := c = .devKeyEnroll p ∨ c = .ctxSetQuota p ∨ c = .memColdIo p

/-- A host-side command is confined to the host side, once the words that a reading one meets are reported. -/
theorem hostSide_of_next {p : Pkt} {c : Instr} {s t : State}
    (hc : c = .devNop p ∨ c = .devInfo p ∨ c = .devStats p ∨ c = .devRejectLog p ∨ c = .devKeyEnroll p ∨ c = .devKeyRevoke p ∨
      c = .devKeyList p ∨ c = .devNetConfig p ∨ c = .devSessions p ∨ c = .devSessionClose p ∨ c = .ctxQuery p ∨
      c = .ctxSetQuota p ∨ c = .ctxSeal p ∨ c = .ctxQueueCreate p ∨ c = .ctxQueueDestroy p ∨ c = .ctxLeases p ∨
      c = .ctxXlate p ∨ c = .memMapHost p ∨ c = .memProtect p ∨ c = .memPin p ∨ c = .memQuery p ∨ c = .memChannels p ∨
      c = .memChannelRetire p ∨ c = .memColdIo p) (h : exec c s = .next t) :
    SameBesideHostSide s t ∨ ReadsWords p c ∧ ∃ u, WordsReported p s u ∧ SameBesideHostSide u t := by
  rcases hc with rfl | rfl | rfl | rfl | rfl | rfl | rfl | rfl | rfl | rfl | rfl | rfl | rfl | rfl | rfl | rfl | rfl | rfl | rfl | rfl |
    rfl | rfl | rfl | rfl
  · exact .inl ((runEnds_of_runCmd (chk := none) (act := completeOk p (pLen p) 0 0) h).sameBesideHostSide nofun
      (sameBesideHostSide_completeOk p _ _ _ s))
  · refine .inl ((runEnds_of_runHost (host := false) (chk := chkDevInfo p s) (act := actDevInfo p) h).sameBesideHostSide (fun f hf => ?_)
      (sameBesideHostSide_actDevInfo p s))
    unfold chkDevInfo at hf
    split at hf
    · cases hf
    · exact firstFails_word hf
  · exact .inl ((runEnds_of_runCmd h).sameBesideHostSide (fun _ => firstFails_word) (sameBesideHostSide_actDevStats p s))
  · exact .inl ((runEnds_of_runHost (host := false) h).sameBesideHostSide (fun _ => firstFails_word) (sameBesideHostSide_actDevRejectLog p s))
  · exact .inr ⟨.inl rfl, (runEnds_of_runHost h).wordsReported (wordsReported_actDevKeyEnroll p s)⟩
  · exact .inl ((runEnds_of_runCmd h).sameBesideHostSide (fun _ => firstFail_word) (sameBesideHostSide_actDevKeyRevoke p s))
  · exact .inl ((runEnds_of_runHost (host := false) h).sameBesideHostSide (fun _ => firstFails_word)
      ((sameBesideHostSide_vwrite _ _ _ s).completeOk p _ _ _))
  · exact .inl ((runEnds_of_runCmd h).sameBesideHostSide (fun _ => firstFail_word) (sameBesideHostSide_actDevNetConfig p s))
  · exact .inl ((runEnds_of_runHost (host := false) h).sameBesideHostSide (fun _ => firstFails_word)
      ((sameBesideHostSide_vwrite _ _ _ s).completeOk p _ _ _))
  · exact .inl ((runEnds_of_runCmd h).sameBesideHostSide (fun _ => firstFail_word) (sameBesideHostSide_actDevSessionClose p s))
  · exact .inl ((runEnds_of_runCmd h).sameBesideHostSide (fun _ => firstFails_word) (sameBesideHostSide_completeOk p _ _ _ s))
  · exact .inr ⟨.inr (.inl rfl), (runEnds_of_runHost h).wordsReported (wordsReported_actCtxSetQuota p s)⟩
  · exact .inl ((runEnds_of_runCmd h).sameBesideHostSide (fun _ => firstFails_word) (sameBesideHostSide_actCtxSeal p s))
  · exact .inl ((runEnds_of_runCmd h).sameBesideHostSide (fun _ => firstFails_word)
      ((sameBesideHostSide_modCtx _ _ s).completeOk p _ _ _))
  · exact .inl ((runEnds_of_runCmd h).sameBesideHostSide (fun _ => firstFails_word)
      ((sameBesideHostSide_modCtx _ _ s).completeOk p _ _ _))
  · exact .inl ((runEnds_of_runHost (host := false) h).sameBesideHostSide (fun _ => firstFails_word)
      ((sameBesideHostSide_vwrite _ _ _ s).completeOk p _ _ _))
  · exact .inl ((runEnds_of_runCmd h).sameBesideHostSide (fun _ => firstFails_word) (sameBesideHostSide_completeOk p _ _ _ s))
  · exact .inl ((runEnds_of_runCmd h).sameBesideHostSide (fun _ => firstFails_word) (sameBesideHostSide_actMemMapHost p s))
  · exact .inl ((runEnds_of_runCmd h).sameBesideHostSide (fun _ => firstFails_word)
      ((sameBesideHostSide_update s _ _ _ _).completeOk p 0 0 0))
  · exact .inl ((runEnds_of_runCmd h).sameBesideHostSide (fun _ => firstFails_word)
      ((sameBesideHostSide_update s _ _ _ _).completeOk p _ _ _))
  · exact .inl ((runEnds_of_runCmd h).sameBesideHostSide (fun _ => firstFails_word) (sameBesideHostSide_completeOk p _ _ _ s))
  · exact .inl ((runEnds_of_runHost (host := false) h).sameBesideHostSide (fun _ => firstFails_word) (sameBesideHostSide_actMemChannels p s))
  · exact .inl ((runEnds_of_runCmd h).sameBesideHostSide (fun _ => firstFail_word) (sameBesideHostSide_actMemChannelRetire p s))
  · exact .inr ⟨.inr (.inr rfl), (runEnds_of_runHost h).wordsReported (wordsReported_actMemColdIo p s)⟩

/-- Settles O39: such a command is confined to the host side of the state that reports its words, and a report reaches beside it only the
global registers, the safety state and the pins. -/
theorem hostSideCommandsFrame : Obligations.HostSideCommandsFrame := by
  intro p c s t hc h
  obtain ⟨u, hu, hw, hs⟩ : ∃ u, (u = s ∨ (ReadsWords p c ∧ ∃ w, u = wordEvent w p.ctx s) ∨
      (ReadsWords p c ∧ ∃ ws, u = correctedWords ws s)) ∧ SameBesideWordReport s u ∧ SameBesideHostSide u t := by
    obtain hs | ⟨hr, u, hu, hs⟩ := hostSide_of_next hc h
    · exact ⟨s, .inl rfl, .refl s, hs⟩
    · exact ⟨u, hu.imp id (.imp (.intro hr) (.intro hr)), hu.besideWordReport, hs⟩
  have hd := hw.trans hs.besideWordReport
  exact ⟨(congrArg State.pending hd :), (congrArg State.casc hd :), (congrArg State.reel hd :), (congrArg State.sched hd :),
    (congrArg State.models hd :), (congrArg State.cams hd :), (congrArg State.audio hd :), (congrArg State.time hd :),
    (congrArg State.net hd :), (congrArg State.power hd :), (congrArg State.boot hd :), (congrArg State.freeCtr hd :),
    u, hu, (congrArg State.glb hs :), (congrArg State.safe hs :), (congrArg State.pins hs :)⟩

end Sys2Proof.Machine

namespace Sys2Proof.Machine

/-! ### The rows of the context and lease events (R115, R130, R132, R134) -/

section

variable {s : State}

/-- What keeps a lease at its limit: no limit, a held request, or the safety role's takeover (R130, R400, R482). -/
theorem lease_not_kept {l : Lease} (hlimit : l.limit ≠ 0) (hwaits : leaseWaits s l = false) (htake : s.safe.takeover ≠ some true) :
    ¬(l.limit = 0 ∨ leaseWaits s l = true ∨ s.safe.takeover = some true) := by
  simp [hlimit, hwaits, htake]

/-- The leg of the management context that executes on gang `g`, as an access fault names it (R115). -/
theorem managementRun_eq_some {g : Nat} {x : Gang} {c : Cur} (hx : gangOf s g = some x) (hc : x.cur = some c)
    (hr : ((runOf s c.run).map fun r => r.ctx == 0).getD false = true) :
    ((gangOf s g).bind fun x => x.cur.bind fun c => if ((runOf s c.run).map fun r => r.ctx == 0).getD false then some c.run else none) =
      some c.run := by
  rw [hx, Option.bind_some, hc, Option.bind_some]
  exact if_pos hr

end

/-- Settles O30: each clause's hypotheses decide the row's tests, and what is left is the answer that the clause writes out. -/
theorem contextEventsComplete : Obligations.ContextEventsComplete := by
  intro s
  refine ⟨?grace, ?tenantLease, ?ownLease, ?scrub, ?tenantFault, ?runFault, ?dmaFault, ?commandFault⟩
  case grace =>
    intro ctx t k hctx hk ht
    show execCtxCloseGraceEnd ctx s = _
    unfold execCtxCloseGraceEnd
    rw [if_neg (Nat.not_lt.mpr hctx), hk]
    dsimp only
    rw [ht]
  case tenantLease =>
    intro lease l hl hlimit hwaits howner htake
    show execLeaseLimitExpiry lease s = _
    unfold execLeaseLimitExpiry
    rw [hl]
    exact (if_neg (lease_not_kept hlimit hwaits htake)).trans (if_neg howner)
  case ownLease =>
    intro lease l hl hlimit hwaits howner htake
    show execLeaseLimitExpiry lease s = _
    unfold execLeaseLimitExpiry
    rw [hl]
    exact (if_neg (lease_not_kept hlimit hwaits htake)).trans (if_pos howner)
  case scrub =>
    intro ctx side hctx hhead
    show execRipcordScrubComplete ctx s = _
    unfold execRipcordScrubComplete
    rw [if_neg (Nat.not_lt.mpr hctx), hhead]
    exact if_pos rfl
  case tenantFault =>
    intro ctx gang channel command hctx hgang hchan hne
    have hunits : ¬(512 < ctx ∨ 16 < gang.getD 0 ∨ 31 < channel.getD 0) := by omega
    exact (if_neg hunits).trans (if_pos hne)
  case runFault =>
    intro g channel command x c hgang hchan hx hc hr
    have hunits : ¬(512 < 0 ∨ 16 < (some g).getD 0 ∨ 31 < channel.getD 0) := by simp [hgang, hchan]
    show execLegAccessFault 0 (some g) channel s command = _
    unfold execLegAccessFault
    rw [if_neg hunits, if_neg (not_not.mpr rfl)]
    simp only [Option.bind_some]
    rw [managementRun_eq_some hx hc hr]
  case dmaFault =>
    intro n command d hn hd hctx
    have hunits : ¬(512 < 0 ∨ 16 < (none : Option Nat).getD 0 ∨ 31 < (some n).getD 0) := by simp [hn]
    show execLegAccessFault 0 none (some n) s command = _
    unfold execLegAccessFault
    rw [if_neg hunits, if_neg (not_not.mpr rfl)]
    simp only [Option.bind_none]
    rw [hd]
    exact if_pos hctx
  case commandFault =>
    intro tag f hf
    have hunits : ¬(512 < 0 ∨ 16 < (none : Option Nat).getD 0 ∨ 31 < (none : Option Nat).getD 0) := by simp
    show execLegAccessFault 0 none none s (some tag) = _
    unfold execLegAccessFault
    rw [if_neg hunits, if_neg (not_not.mpr rfl)]
    simp only [Option.bind_none, Option.bind_some]
    rw [hf]

/-! ### The rows of the leg, page and scratchpad events (R125, R171, R196–R198, R224, R255, R270) -/

section

variable {s : State} {g : Nat} {x : Gang} {c : Cur} {r : Run}

/-- The leg under way on a gang, as the leg events look it up. -/
theorem cur_of_gang (hx : gangOf s g = some x) (hc : x.cur = some c) : (gangOf s g).bind Gang.cur = some c := by
  rw [hx, Option.bind_some, hc]

/-- An executing leg that ends passes its late limit, waits at a held request, fails, or comes to its comparison (R182, R198, R482). -/
theorem exec_legEnd_of_executing {e : LegEnd} (hg : e.gang ≤ 16) (hx : gangOf s e.gang = some x) (hc : x.cur = some c)
    (hph : c.phase = .executing) (hr : runOf s c.run = some r) :
    exec (.legEnd e) s =
      let p := runPlan s r
      let leg := legOf p r.counter
      let s1 := elapseTo (c.startAt + e.elapsed) s
      let bad := legBad s1 r p leg
      let own := checkErrs s1 e.gang c.attempt (computeLeg e.gang c.run r p leg c.draw s1).out
      let hard := gangErrs s1 e.gang e.errs
      let a : Attempt := { e := e, n := c.draw, sound := hard.isEmpty, no := c.attempt }
      if aboveScaled s1 e.gang leg (num leg 4 4) e.elapsed then .next (lateLeg e.gang c s1)
      else if legWaits s r then .next s
      else
        match failCode e.fail, bad with
        | some code, _ => .next (faultLeg c.run r code bad s1)
        | none, w :: _ => .next (faultLeg c.run r (wordCode w) bad s1)
        | none, [] =>
          .next (if (hard ++ own).isEmpty then agreeLeg e.gang c.run r c a s1 else disagreeLeg e.gang c.run r c (hard ++ own) a s1) := by
  show execLegEnd e s = _
  unfold execLegEnd
  rw [if_neg (Nat.not_lt.mpr hg), cur_of_gang hx hc]
  dsimp only
  rw [if_neg (not_not.mpr hph), hr] <;> rfl

/-- A stalled leg whose words have come passes its stall limit, waits or is not begun, or executes (R134, R196, R197, R482). -/
theorem exec_prefetchComplete_of_stalled {stall : Nat} (hg : g ≤ 16) (hx : gangOf s g = some x) (hc : x.cur = some c)
    (hr : runOf s c.run = some r) (hph : c.phase = .stalled) :
    exec (.prefetchComplete g stall) s =
      let leg := legOf (runPlan s r) r.counter
      let s1 := elapseTo (c.commitAt + stall) s
      if aboveScaled s1 g leg (num leg 12 4) stall then .next (stallOver c r s1)
      else if legWaits s r || (c.attempt == 0 && (ctxOf s r.ctx).state == .closing) then .next s
      else .next (startLeg g (countMiss g c stall s1)) := by
  show execPrefetchComplete g stall s = _
  unfold execPrefetchComplete
  rw [if_neg (Nat.not_lt.mpr hg), cur_of_gang hx hc]
  dsimp only
  rw [hr]
  dsimp only
  rw [hph]

end

/-- Settles O31: each clause's hypotheses decide the row's tests, and what is left is the answer that the clause writes out. -/
theorem legEventsComplete : Obligations.LegEventsComplete := by
  intro s
  refine ⟨?compared, ?late, ?failed, ?legHeld, ?started, ?fetched, ?stalledLate, ?notBegun, ?stallLimit, ?lateLimit, ?reclaimed, ?stripe,
    ?stage, ?scrubbed⟩
  case compared =>
    intro e x c r hg hx hc hph hr p leg s1 own hard a hlate hfail hbad hwaits
    rw [exec_legEnd_of_executing hg hx hc hph hr]
    dsimp only
    rw [if_neg (Bool.eq_false_iff.mp hlate), if_neg (Bool.eq_false_iff.mp hwaits), hfail, hbad]
  case late =>
    intro e x c r hg hx hc hph hr p leg s1 hlate
    exact (exec_legEnd_of_executing hg hx hc hph hr).trans (if_pos hlate)
  case failed =>
    intro e x c r code hg hx hc hph hr p leg s1 hlate hfail hwaits
    rw [exec_legEnd_of_executing hg hx hc hph hr]
    dsimp only
    rw [if_neg (Bool.eq_false_iff.mp hlate), if_neg (Bool.eq_false_iff.mp hwaits), hfail]
  case legHeld =>
    intro e x c r hg hx hc hph hr p leg s1 hlate hwaits
    exact (exec_legEnd_of_executing hg hx hc hph hr).trans ((if_neg (Bool.eq_false_iff.mp hlate)).trans (if_pos hwaits))
  case started =>
    intro g stall x c r hg hx hc hr hph leg s1 hlate hwaits hbegun
    have hgo : ¬(legWaits s r || (c.attempt == 0 && (ctxOf s r.ctx).state == .closing)) = true := by
      simpa [hwaits, imp_iff_not_or] using hbegun
    exact (exec_prefetchComplete_of_stalled hg hx hc hr hph).trans ((if_neg (Bool.eq_false_iff.mp hlate)).trans (if_neg hgo))
  case fetched =>
    intro g stall n x c r q b hg hx hc hr hph hpick
    show execPrefetchComplete g stall s = _
    unfold execPrefetchComplete
    rw [if_neg (Nat.not_lt.mpr hg), cur_of_gang hx hc]
    dsimp only
    rw [hr]
    dsimp only
    rw [hph, hpick]
  case stalledLate =>
    intro g stall x c r hg hx hc hr hph leg s1 hlate
    exact (exec_prefetchComplete_of_stalled hg hx hc hr hph).trans (if_pos hlate)
  case notBegun =>
    intro g stall x c r hg hx hc hr hph leg s1 hlate hstays
    exact (exec_prefetchComplete_of_stalled hg hx hc hr hph).trans ((if_neg (Bool.eq_false_iff.mp hlate)).trans (if_pos hstays))
  case stallLimit =>
    intro g x c r hg hx hc hr hph leg
    show execStallLimitExpiry g s = _
    unfold execStallLimitExpiry
    rw [if_neg (Nat.not_lt.mpr hg), cur_of_gang hx hc]
    dsimp only
    rw [hr]
    exact if_neg (not_not.mpr hph)
  case lateLimit =>
    intro g x c r hg hx hc hr hph leg
    show execLegLateLimit g s = _
    unfold execLegLateLimit
    rw [if_neg (Nat.not_lt.mpr hg), cur_of_gang hx hc]
    dsimp only
    rw [hr]
    exact if_neg (not_not.mpr hph)
  case reclaimed =>
    intro page q hpage hq hfree
    show execPageReclaim page s = _
    unfold execPageReclaim
    rw [if_neg (Nat.not_le.mpr hpage), hq]
    exact congrArg Host.Outcome.next (if_pos hfree)
  case stripe =>
    intro g stripe tiles x c r hg hx hc hr hph p leg q0 order res q s1 k mates go y hstripes hstripe
    show execStripeGroupStart g stripe s tiles = _
    unfold execStripeGroupStart
    rw [if_neg (Nat.not_lt.mpr hg), hx]
    dsimp only
    rw [hc]
    dsimp only
    rw [hr]
    refine if_neg ?_
    rintro (h | h | h)
    · exact h hph
    · exact h hstripes
    · exact absurd hstripe (Nat.not_lt.mpr h)
  case stage =>
    intro g stage x c r hg hx hc hr hph p sts steps done hpiped hstage hdone hbefore
    show execPipelineStageStep g stage s = _
    unfold execPipelineStageStep
    rw [if_neg (Nat.not_lt.mpr hg), hx]
    dsimp only
    rw [hc]
    dsimp only
    rw [hr]
    refine if_neg ?_
    rintro (h | h | h | h | h)
    · exact h hph
    · exact absurd hpiped (by simpa only [Bool.not_eq_true', Bool.not_eq_true] using h)
    · exact absurd hstage (Nat.not_lt.mpr h)
    · exact absurd hdone (Nat.not_lt.mpr h)
    · exact absurd hbefore (by simpa using h)
  case scrubbed =>
    intro panel hpanel hscrub
    exact (if_neg (Nat.not_lt.mpr hpanel)).trans (if_neg (by simp [hscrub]))

/-! ### What a write of device memory reaches (R111, R113, R296) -/

section

variable (s : State) (bs : List Byte) (a : Nat)

/-- A read after the bytes at chosen offsets have been stored one by one: a chosen offset holds its byte, every other address what stood
there before. -/
theorem memGet_foldl_memSet (cells : List Nat) (m : Mem) (x : Nat) :
    memGet (cells.foldl (fun m i => memSet m (a + i) (bs.getD i 0)) m) x =
      if a ≤ x ∧ x - a ∈ cells then bs.getD (x - a) 0 else memGet m x := by
  induction cells generalizing m with
  | nil => simp
  | cons i rest ih =>
    rw [List.foldl_cons, ih, memGet_memSet]
    by_cases hrest : a ≤ x ∧ x - a ∈ rest
    · rw [if_pos hrest, if_pos ⟨hrest.1, List.mem_cons_of_mem _ hrest.2⟩]
    · rw [if_neg hrest]
      by_cases hx : x = a + i
      · subst hx
        rw [if_pos rfl, Nat.add_sub_cancel_left, if_pos ⟨Nat.le_add_right a i, List.mem_cons_self⟩]
      · have hout : ¬(a ≤ x ∧ x - a ∈ i :: rest) := by
          rintro ⟨hle, hmem⟩
          rcases List.mem_cons.mp hmem with h | h
          · omega
          · exact hrest ⟨hle, h⟩
        rw [if_neg hx, if_neg hout]

/-- A physical write stores a byte of its range unless the byte's word is failed and the write covers only a part of it (R296). -/
theorem memGet_physWrite (x : Nat) :
    memGet (physWrite a bs s).store.mem x =
      if (a ≤ x ∧ x < a + bs.length) ∧ (wordBad s x = false ∨ wordCovered a bs.length x = true) then bs.getD (x - a) 0
      else memGet s.store.mem x := by
  refine (memGet_foldl_memSet bs a _ s.store.mem x).trans (if_congr ?_ rfl rfl)
  simp only [List.mem_filter, List.mem_range, Bool.or_eq_true, Bool.not_eq_true', and_assoc]
  refine and_congr_right fun hle => ?_
  rw [Nat.add_sub_cancel' hle]
  exact and_congr_left fun _ => by omega

theorem memGet_physWrite_of_outside {x : Nat} (hx : ¬(a ≤ x ∧ x < a + bs.length)) :
    memGet (physWrite a bs s).store.mem x = memGet s.store.mem x := by
  rw [memGet_physWrite, if_neg fun h => hx h.1]

theorem memGet_physWrite_of_kept {i : Nat} (hi : i < bs.length)
    (hkept : wordBad s (a + i) = false ∨ wordCovered a bs.length (a + i) = true) :
    memGet (physWrite a bs s).store.mem (a + i) = bs.getD i 0 := by
  rw [memGet_physWrite, if_pos ⟨⟨by omega, by omega⟩, hkept⟩, Nat.add_sub_cancel_left]

end

section

variable {s t u : State}

/-- `t` with the memory, the link and the output of `s`. -/
def memorySideAs (s t : State) : State := { t with store := s.store, link := s.link, out := s.out }

/-- From `s` to `t` only memory, the link and the output change. -/
def SameBesideMemory (s t : State) : Prop := memorySideAs s t = s

theorem SameBesideMemory.trans (h : SameBesideMemory s t) (k : SameBesideMemory t u) : SameBesideMemory s u :=
  (congrArg (memorySideAs s) k).trans h

theorem sameBesideMemory_update (s : State) (store : Store) (link : Link) (out : List Out) :
    SameBesideMemory s { s with store := store, link := link, out := out } := rfl

/-- A write to the host's memory leaves the device's as it is, held or not (R52, R53). -/
theorem emitHost_hostWrite_mem (key : Nat) (d : List Byte) (s : State) : (emitHost (.hostWrite key d) s).store.mem = s.store.mem := by
  unfold emitHost
  split
  · rfl
  · rfl

theorem sameBesideMemory_emitHost_hostWrite (key : Nat) (d : List Byte) (s : State) :
    SameBesideMemory s (emitHost (.hostWrite key d) s) := by
  unfold emitHost
  split
  · exact sameBesideMemory_update s _ _ _
  · exact sameBesideMemory_update s _ _ _

/-- The part of a write that goes to one piece of its range: to the host's memory or to the device's (R113). -/
def writePiece (h va : Nat) (bs : List Byte) (s t : State) (piece : Leaf × Nat × Nat) : State :=
  let part := (bs.drop (piece.2.1 - va)).take piece.2.2
  if piece.1.host then emitHost (.hostWrite (hostKey s h (piece.1.frame * 65536 + piece.2.1 % 65536)) part) t
  else physWrite (piece.1.frame * 65536 + piece.2.1 % 65536) part t

variable (h va : Nat) (bs : List Byte) (s : State)

theorem vwrite_eq_foldl_writePiece :
    vwrite h va bs s = touchGuards h va bs.length ((vpieces s h va bs.length).foldl (writePiece h va bs s) s) := rfl

theorem sameBesideMemory_writePiece (t : State) (piece : Leaf × Nat × Nat) : SameBesideMemory t (writePiece h va bs s t piece) := by
  unfold writePiece
  dsimp only
  split
  · exact sameBesideMemory_emitHost_hostWrite _ _ t
  · exact sameBesideMemory_update t _ _ _

theorem sameBesideMemory_writePieces (pieces : List (Leaf × Nat × Nat)) (t : State) :
    SameBesideMemory t (pieces.foldl (writePiece h va bs s) t) := by
  induction pieces generalizing t with
  | nil => rfl
  | cons piece rest ih => exact (sameBesideMemory_writePiece h va bs s t piece).trans (ih _)

/-- A write at a virtual address leaves every control of the device as it is. -/
theorem sameBesideMemory_vwrite : SameBesideMemory s (vwrite h va bs s) :=
  (sameBesideMemory_writePieces h va bs s _ s).trans (sameBesideMemory_update _ _ _ _)

/-- A piece of a range is the part of it on one page: its leaf maps the page, and the whole part lies on it and in the range (R113). -/
theorem mem_vpieces {n : Nat} {piece : Leaf × Nat × Nat} (hp : piece ∈ vpieces s h va n) :
    ∃ page, tget (ctxOf s h).pages page = some piece.1 ∧ va ≤ piece.2.1 ∧ page * 65536 ≤ piece.2.1 ∧
      ∀ j < piece.2.2, piece.2.1 + j < va + n ∧ piece.2.1 + j < (page + 1) * 65536 := by
  obtain ⟨page, -, hpage⟩ := List.mem_filterMap.mp hp
  obtain ⟨l, hl, rfl⟩ := Option.map_eq_some_iff.mp hpage
  dsimp only
  exact ⟨page, hl, by omega, by omega, fun j hj => by omega⟩

/-- Byte `j` of a device piece lies where the translation of its virtual address says (R111). -/
theorem locate_of_mem_vpieces {n j : Nat} {piece : Leaf × Nat × Nat} (hp : piece ∈ vpieces s h va n) (hdev : piece.1.host = false)
    (hj : j < piece.2.2) : locate s h (piece.2.1 + j) = some (.dev (piece.1.frame * 65536 + piece.2.1 % 65536 + j)) := by
  obtain ⟨page, hleaf, -, hlo, hin⟩ := mem_vpieces h va s hp
  obtain ⟨-, hhi⟩ := hin j hj
  have hdiv : (piece.2.1 + j) / 65536 = page := by omega
  have hmod : (piece.2.1 + j) % 65536 = piece.2.1 % 65536 + j := by omega
  unfold locate leafOf
  rw [hdiv, hleaf, Option.map_some, hdev, hmod, Nat.add_assoc]
  rfl

/-- A piece changes a byte of device memory only if the byte is the translation of one of its addresses. -/
theorem memGet_writePiece {piece : Leaf × Nat × Nat} (hp : piece ∈ vpieces s h va bs.length) {x : Nat}
    (hx : ∀ i, i < bs.length → locate s h (va + i) ≠ some (.dev x)) (t : State) :
    memGet (writePiece h va bs s t piece).store.mem x = memGet t.store.mem x := by
  unfold writePiece
  dsimp only
  split
  case isTrue => rw [emitHost_hostWrite_mem]
  case isFalse hdev =>
    refine memGet_physWrite_of_outside t _ _ ?_
    rintro ⟨hle, hlt⟩
    let j := x - (piece.1.frame * 65536 + piece.2.1 % 65536)
    have hj : j < piece.2.2 := by
      rw [List.length_take] at hlt
      omega
    obtain ⟨page, -, hva, -, hin⟩ := mem_vpieces h va s hp
    obtain ⟨hend, -⟩ := hin j hj
    refine hx (piece.2.1 + j - va) (by omega) ?_
    rw [Nat.add_sub_cancel' (by omega), locate_of_mem_vpieces h va s hp (Bool.eq_false_iff.mpr hdev) hj, Nat.add_sub_cancel' hle]

/-- So do all the pieces of a write. -/
theorem memGet_vwrite_of_not_located {x : Nat} (hx : ∀ i, i < bs.length → locate s h (va + i) ≠ some (.dev x)) :
    memGet (vwrite h va bs s).store.mem x = memGet s.store.mem x := by
  rw [vwrite_eq_foldl_writePiece]
  show memGet ((vpieces s h va bs.length).foldl (writePiece h va bs s) s).store.mem x = _
  refine List.foldlRecOn (motive := fun (t : State) => memGet t.store.mem x = memGet s.store.mem x) _ _ rfl ?_
  exact fun t ht piece hp => (memGet_writePiece h va bs s hp hx t).trans ht

end

/-- Settles O58: a physical write stores the bytes of its range whose words it keeps and no other, and a virtual write is physical writes
to the pieces of its range, each where the translation of its addresses says. -/
theorem memoryWritesStayInRange : Obligations.MemoryWritesStayInRange := fun s bs a h va =>
  ⟨fun _ hx => memGet_physWrite_of_outside s bs a hx, fun _ hi hkept => memGet_physWrite_of_kept s bs a hi hkept,
    fun _ hx => memGet_vwrite_of_not_located h va bs s hx, sameBesideMemory_vwrite h va bs s⟩

/-! ### What the plan, copy, conversion and move commands leave unchanged (R80, R136, R163, R312) -/

/-- `t` with those parts of `s` that serve the host side or the schedule: plans, runs, gangs and leases. -/
def scheduleSideAs (s t : State) : State := { hostSideAs s t with sched := s.sched }

/-- From `s` to `t` only the host side and the schedule change. -/
def SameBesideSchedule (s t : State) : Prop := scheduleSideAs s t = s

section

variable {s t u : State}

theorem SameBesideSchedule.refl (s : State) : SameBesideSchedule s s := rfl

theorem SameBesideSchedule.trans (h : SameBesideSchedule s t) (k : SameBesideSchedule t u) : SameBesideSchedule s u :=
  (congrArg (scheduleSideAs s) k).trans h

theorem SameBesideHostSide.besideSchedule (h : SameBesideHostSide s t) : SameBesideSchedule s t := (congrArg (scheduleSideAs s) h :)

theorem SameDevice.besideSchedule {p : Pkt} (h : SameDevice p s t) : SameBesideSchedule s t := h.besideHostSide.besideSchedule

theorem sameBesideSchedule_update (s : State) (ctxs : Tbl Ctx) (store : Store) (sched : Sched) (out : List Out) :
    SameBesideSchedule s { s with ctxs := ctxs, store := store, sched := sched, out := out } := rfl

theorem sameBesideSchedule_ite {c : Prop} [Decidable c] (ht : SameBesideSchedule s t) (hu : SameBesideSchedule s u) :
    SameBesideSchedule s (if c then t else u) := by
  split
  · exact ht
  · exact hu

theorem sameBesideSchedule_foldl {α : Type} {f : State → α → State} (hf : ∀ t a, SameBesideSchedule t (f t a)) (l : List α)
    (s : State) : SameBesideSchedule s (l.foldl f s) := by
  induction l generalizing s with
  | nil => exact .refl s
  | cons a r ih => exact (hf s a).trans (ih _)

end

section

variable (s : State)

theorem sameBesideSchedule_modObj (k : Nat) (f : MemObj → MemObj) : SameBesideSchedule s (modObj k f s) := rfl

theorem sameBesideSchedule_complete (p : Pkt) (code : Code) (notes w0 w1 w2 : Nat) :
    SameBesideSchedule s (complete p code notes w0 w1 w2 s) := (sameDevice_complete p code notes w0 w1 w2 s).besideSchedule

theorem sameBesideSchedule_completeOk (p : Pkt) (w0 w1 w2 : Nat) : SameBesideSchedule s (completeOk p w0 w1 w2 s) :=
  (sameDevice_completeOk p w0 w1 w2 s).besideSchedule

theorem sameBesideSchedule_handOn (p : Pkt) : SameBesideSchedule s (handOn p s) := (sameDevice_handOn p s).besideSchedule

theorem SameBesideSchedule.completeOk {s t : State} (h : SameBesideSchedule s t) (p : Pkt) (w0 w1 w2 : Nat) :
    SameBesideSchedule s (completeOk p w0 w1 w2 t) := h.trans (sameBesideSchedule_completeOk t p w0 w1 w2)

theorem sameBesideSchedule_freePanels (g : Nat) : SameBesideSchedule s (freePanels g s) :=
  sameBesideSchedule_foldl (fun t _ => sameBesideSchedule_ite (sameBesideSchedule_update t _ _ _ _) (.refl t)) _ s

theorem sameBesideSchedule_removeGang (g : Nat) : SameBesideSchedule s (removeGang g s) := by
  have hgone (u : State) : SameBesideSchedule u (dropLease 2 g { u with sched.gangs := tdel u.sched.gangs g }) :=
    sameBesideSchedule_update u _ _ _ _
  exact (sameBesideSchedule_freePanels s g).trans (hgone _)

/-! #### Pins and DMA channels (R186, R301, R313) -/

theorem sameBesideSchedule_storePlan (p : Pkt) (slot : Nat) (q : Plan) (c : List Byte) : SameBesideSchedule s (storePlan p slot q c s) :=
  (sameBesideSchedule_update s _ _ _ _).trans
    ((sameBesideSchedule_foldl (fun t k => sameBesideSchedule_modObj t k _) _ _).trans (sameBesideSchedule_update _ _ _ _ _))

theorem sameBesideSchedule_pinRange (h va n : Nat) (up : Bool) : SameBesideSchedule s (pinRange h va n up s) :=
  sameBesideSchedule_foldl (fun t k => sameBesideSchedule_modObj t k _) _ s

theorem sameBesideSchedule_pinDma (p : Pkt) (up : Bool) : SameBesideSchedule s (pinDma p up s) :=
  sameBesideSchedule_foldl (fun t _ => sameBesideSchedule_ite (.refl t) (sameBesideSchedule_pinRange t _ _ _ _)) _ s

theorem sameBesideSchedule_takeDma (p : Pkt) (ns : Nat) (convert : Bool) : SameBesideSchedule s (takeDma p ns convert s) := by
  unfold takeDma
  split
  · exact .refl s
  · exact (sameBesideSchedule_update s _ _ _ _).trans (sameBesideSchedule_handOn _ p)

/-! #### Objects, their frames and extents (R120, R290, R304, R305) -/

theorem sameBesideSchedule_freeFramesOf (fs : List Nat) : SameBesideSchedule s (freeFramesOf fs s) :=
  sameBesideSchedule_foldl (fun t _ => sameBesideSchedule_update t _ _ _ _) fs s

theorem sameBesideSchedule_dropStore (k : Nat) : SameBesideSchedule s (dropStore k s) := by
  unfold dropStore
  split
  · exact .refl s
  · exact ((sameBesideSchedule_freeFramesOf s _).trans (sameBesideSchedule_foldl (fun t _ => sameBesideSchedule_update t _ _ _ _) _ _)).trans
      (sameBesideSchedule_modObj _ _ _)

theorem sameBesideSchedule_dropDram (k : Nat) : SameBesideSchedule s (dropDram k s) := by
  unfold dropDram
  split
  · exact .refl s
  · exact (sameBesideSchedule_freeFramesOf s _).trans (sameBesideSchedule_modObj _ _ _)

theorem sameBesideSchedule_dropExtents (k : Nat) : SameBesideSchedule s (dropExtents k s) := by
  unfold dropExtents
  split
  · exact .refl s
  · exact sameBesideSchedule_ite (.refl s) (sameBesideSchedule_update s _ _ _ _)

theorem sameBesideSchedule_unmapObj (o : MemObj) : SameBesideSchedule s (unmapObj o s) := rfl

/-- The packets of the object's moves end, and its mappings, frames, leases and extents go. -/
theorem sameBesideSchedule_releaseObj (k : Nat) : SameBesideSchedule s (releaseObj k s) := by
  unfold releaseObj
  split
  · exact .refl s
  next o _ =>
    have hended := fun (ps : List Pkt) (u : State) =>
      sameBesideSchedule_foldl (fun t p => sameBesideSchedule_complete t p .eHandle 0 0 0 0) ps u
    refine (SameBesideSchedule.trans ?_ ((sameBesideSchedule_dropStore _ k).trans ((sameBesideSchedule_dropDram _ k).trans
      (sameBesideSchedule_dropExtents _ k)))).trans (sameBesideSchedule_update _ _ _ _ _)
    exact ((sameBesideSchedule_update s _ _ _ _).trans (hended _ _)).trans (sameBesideSchedule_unmapObj _ o)

theorem sameBesideSchedule_finishFree (k : Nat) (p : Pkt) : SameBesideSchedule s (finishFree k p s) :=
  (sameBesideSchedule_releaseObj s k).completeOk p _ _ _

theorem sameBesideSchedule_allocFrames (h n : Nat) : SameBesideSchedule s (allocFrames h n s).2 := by
  induction n generalizing s with
  | zero => exact .refl s
  | succ n ih =>
    unfold allocFrames
    dsimp only
    split
    · exact .refl s
    · exact (sameBesideSchedule_update s _ _ _ _).trans (ih _)

theorem sameBesideSchedule_allocStore (h n : Nat) : SameBesideSchedule s (allocStore h n s).2 := by
  induction n generalizing s with
  | zero => exact .refl s
  | succ n ih =>
    unfold allocStore
    split
    · exact .refl s
    · exact (sameBesideSchedule_update s _ _ _ _).trans (ih _)

theorem sameBesideSchedule_takeStore (k h n : Nat) : SameBesideSchedule s (takeStore k h n s) :=
  (sameBesideSchedule_allocStore s h n).trans ((sameBesideSchedule_modObj _ k _).trans
    (sameBesideSchedule_foldl (fun t _ => sameBesideSchedule_update t _ _ _ _) _ _))

/-! #### Moves (R302, R304) -/

theorem sameBesideSchedule_modMove (k : Nat) (f : Move → Move) : SameBesideSchedule s (modMove k f s) := by
  unfold modMove
  split
  · exact .refl s
  · exact sameBesideSchedule_update s _ _ _ _

theorem sameBesideSchedule_popMove (k : Nat) : SameBesideSchedule s (popMove k s) := by
  unfold popMove
  split
  · exact .refl s
  · exact sameBesideSchedule_update s _ _ _ _

/-- A step takes frames of the state store with their leases, extents, or frames of DRAM. -/
theorem sameBesideSchedule_startStep (k : Nat) (m : Move) (o : MemObj) : SameBesideSchedule s (startStep k m o s) := by
  have hstate : SameBesideSchedule s (modObj k (fun x => { x with mstate := stepState o m.target }) { s with store.rest := false }) :=
    sameBesideSchedule_update s _ _ _ _
  unfold startStep
  dsimp only
  refine sameBesideSchedule_ite (sameBesideSchedule_ite (hstate.trans (sameBesideSchedule_takeStore _ k _ _)) hstate)
    (sameBesideSchedule_ite (sameBesideSchedule_update s _ _ _ _) (sameBesideSchedule_ite ?_ hstate))
  refine SameBesideSchedule.trans ?_ (sameBesideSchedule_update _ _ _ _ _)
  split
  · exact hstate.trans (sameBesideSchedule_allocFrames _ _ _)
  · exact hstate

theorem sameBesideSchedule_endMove (k : Nat) (m : Move) (code : Option Code) : SameBesideSchedule s (endMove k m code s) := by
  refine ((sameBesideSchedule_modObj s k _).trans (sameBesideSchedule_popMove _ k)).trans (sameBesideSchedule_foldl (fun t p => ?_) _ _)
  split
  · exact sameBesideSchedule_complete t p _ _ _ _ _
  · exact sameBesideSchedule_complete t p _ _ _ _ _

theorem sameBesideSchedule_runMoves (fuel k : Nat) : SameBesideSchedule s (runMoves fuel k s) := by
  induction fuel generalizing s with
  | zero => exact .refl s
  | succ fuel ih =>
    have ended : ∀ {u : State} (m : Move) (code : Option Code), SameBesideSchedule s u →
        SameBesideSchedule s (runMoves fuel k (endMove k m code u)) := fun m code hu =>
      hu.trans ((sameBesideSchedule_endMove _ k m code).trans (ih _))
    unfold runMoves
    split
    case h_2 => exact .refl s
    case h_1 m o _ _ =>
      refine sameBesideSchedule_ite ?waiting (sameBesideSchedule_ite (.refl s) (sameBesideSchedule_ite (.refl s) ?stepDone))
      case waiting =>
        have hmanual : SameBesideSchedule s (if m.pkts.isEmpty then s else modObj k (fun x => { x with manual := true }) s) :=
          sameBesideSchedule_ite (.refl s) (sameBesideSchedule_modObj s k _)
        refine sameBesideSchedule_ite (.refl s) (sameBesideSchedule_ite (ended m none (sameBesideSchedule_modObj s k _))
          (sameBesideSchedule_ite (ended m _ (.refl s)) (sameBesideSchedule_ite
            (ended m none (hmanual.trans (sameBesideSchedule_dropDram _ k))) (sameBesideSchedule_ite (ended m none hmanual) ?_))))
        split
        · exact ended m _ (.refl s)
        · exact (hmanual.trans ((sameBesideSchedule_modMove _ k _).trans (sameBesideSchedule_startStep _ k m o))).trans (ih _)
      case stepDone =>
        have htier : ∀ {c : Prop} [Decidable c] (f : MemObj → MemObj),
            SameBesideSchedule s (if c then dropStore k (modObj k f s) else modObj k f s) := fun f =>
          sameBesideSchedule_ite ((sameBesideSchedule_modObj s k f).trans (sameBesideSchedule_dropStore _ k))
            (sameBesideSchedule_modObj s k f)
        refine sameBesideSchedule_ite (ended m m.code (htier _)) (sameBesideSchedule_ite (htier _) ?_)
        split
        · exact htier _
        next o2 _ =>
          split
          · exact ended m _ (htier _)
          · exact (htier _).trans (sameBesideSchedule_startStep _ k m o2)

theorem sameBesideSchedule_serveMoves (k : Nat) : SameBesideSchedule s (serveMoves k s) := sameBesideSchedule_runMoves s _ k

end

/-! #### How a run ends -/

section

variable {p : Pkt} {s t : State} {chk : Option Fail} {act : State → State} {R : State → State → Prop}

/-- A command whose checks meet no failed word changes no more than its effect does, beside the parts that SameDevice leaves out. -/
theorem RunEnds.confined (h : RunEnds p s chk act t) (hdev : ∀ {u v}, SameDevice p u v → R u v)
    (hword : ∀ f, chk = some f → f.word = none) (hact : R s (act s)) : R s t := by
  cases h with
  | untouched hs => exact hdev hs
  | @badWord f w hchk hw hs =>
    rw [hword f hchk] at hw
    cases hw
  | acts hp hchk ht =>
    subst ht
    exact hact

/-- So does a command that reads memory, once its words are reported. -/
theorem RunEnds.confined_of_words (h : RunEnds p s chk act t) (hdev : ∀ {u v}, SameDevice p u v → R u v)
    (hact : ∃ u, WordsReported p s u ∧ R u (act s)) : ∃ u, WordsReported p s u ∧ R u t := by
  cases h with
  | untouched hs => exact ⟨s, .inl rfl, hdev hs⟩
  | badWord hchk hw hs => exact ⟨_, .inr (.inl ⟨_, rfl⟩), hdev hs⟩
  | acts hp hchk ht =>
    subst ht
    exact hact

theorem RunEnds.sameBesideSchedule (h : RunEnds p s chk act t) (hword : ∀ f, chk = some f → f.word = none)
    (hact : SameBesideSchedule s (act s)) : SameBesideSchedule s t := h.confined SameDevice.besideSchedule hword hact

end

/-! #### The effects -/

section

variable (p : Pkt) (s : State)

theorem sameBesideSchedule_actGangQuery : SameBesideSchedule s (actGangQuery p s) :=
  sameBesideSchedule_ite (sameBesideSchedule_completeOk s p _ _ _) (sameBesideSchedule_completeOk s p _ _ _)

theorem sameBesideSchedule_actGangDestroy : SameBesideSchedule s (actGangDestroy p s) :=
  (sameBesideSchedule_removeGang s _).completeOk p 0 0 0

theorem sameBesideSchedule_actMemFree : SameBesideSchedule s (actMemFree p s) :=
  sameBesideSchedule_ite ((sameBesideSchedule_modMove s _ _).trans (sameBesideSchedule_handOn _ p)) (sameBesideSchedule_finishFree s _ p)

theorem sameBesideSchedule_actMemCopy : SameBesideSchedule s (actMemCopy p s) :=
  (sameBesideSchedule_pinDma s p true).trans (sameBesideSchedule_takeDma _ p _ false)

/-- A request starts, takes the place of a firmware move, joins one like it, or waits behind it (R304). -/
theorem sameBesideSchedule_actMemPlace : SameBesideSchedule s (actMemPlace p s) := by
  have added : ∀ {u : State} (ms : List Move), SameBesideSchedule s u → SameBesideSchedule s { handOn p u with store.moves := ms } :=
    fun _ hu => (hu.trans (sameBesideSchedule_handOn _ p)).trans (sameBesideSchedule_update _ _ _ _ _)
  unfold actMemPlace
  dsimp only
  split
  · exact (added _ (.refl s)).trans (sameBesideSchedule_serveMoves _ _)
  · refine sameBesideSchedule_ite (sameBesideSchedule_ite ?gives ?replaced) (sameBesideSchedule_ite ?joins ?waits)
    case gives => exact added _ (sameBesideSchedule_modMove s _ _)
    case replaced =>
      exact (added _ ((sameBesideSchedule_modObj s _ _).trans (sameBesideSchedule_popMove _ _))).trans (sameBesideSchedule_serveMoves _ _)
    case joins => exact (sameBesideSchedule_modMove s _ _).trans (sameBesideSchedule_handOn _ p)
    case waits => exact added _ (.refl s)

theorem sameBesideSchedule_actGangStats : SameBesideSchedule s (actGangStats p s) :=
  (sameBesideSchedule_ite (sameBesideSchedule_update s _ _ _ _) (.refl s)).completeOk p _ _ _

theorem sameBesideSchedule_actPanelQuery : SameBesideSchedule s (actPanelQuery p s) :=
  (sameBesideHostSide_vwrite _ _ _ s).besideSchedule.completeOk p _ _ _

theorem sameBesideSchedule_actQconvert : SameBesideSchedule s (actQconvert p s) :=
  (sameBesideSchedule_pinDma s p true).trans (sameBesideSchedule_takeDma _ p _ true)

/-- A container that fails its check is rejected before its words count as read (R185). -/
theorem wordsReported_actPlanLoad : ∃ u, WordsReported p s u ∧ SameBesideSchedule u (actPlanLoad p s) := by
  unfold actPlanLoad
  dsimp only
  split
  · exact ⟨s, .inl rfl, (sameDevice_reject p _ _ s).besideSchedule⟩
  · exact ⟨_, wordsReported_readWords p p.ctx (fld p 16 8) (fld p 24 4) s,
      ((sameBesideSchedule_update _ _ _ _ _).trans (sameBesideSchedule_storePlan _ p _ _ _)).completeOk p _ _ _⟩

theorem wordsReported_actMoorLoad : ∃ u, WordsReported p s u ∧ SameBesideSchedule u (actMoorLoad p s) :=
  ⟨_, wordsReported_readWords p 0 (fld p 16 8) (fld p 24 4) s, (sameBesideSchedule_update _ _ _ _ _).completeOk p _ _ _⟩

end

/-- The command loads a container or a record whose words it reads, as its checks do. -/
def LoadsWords (p : Pkt) (c : Instr) : Prop := c = .planLoad p ∨ c = .moorLoad p

/-- A schedule command is confined to the host side and the schedule, once the words that a loading one meets are reported. -/
theorem scheduleSide_of_next {p : Pkt} {c : Instr} {s t : State}
    (hc : c = .gangQuery p ∨ c = .gangDestroy p ∨ c = .memFree p ∨ c = .memCopy p ∨ c = .memPlace p ∨ c = .planLoad p ∨
      c = .planQuery p ∨ c = .planBindEvent p ∨ c = .gangStats p ∨ c = .panelQuery p ∨ c = .moorLoad p ∨ c = .moorQuery p ∨
      c = .safeE2e p ∨ c = .qconvert p) (h : exec c s = .next t) :
    SameBesideSchedule s t ∨ LoadsWords p c ∧ ∃ u, WordsReported p s u ∧ SameBesideSchedule u t := by
  rcases hc with rfl | rfl | rfl | rfl | rfl | rfl | rfl | rfl | rfl | rfl | rfl | rfl | rfl | rfl
  · exact .inl ((runEnds_of_runCmd h).sameBesideSchedule (fun _ => firstFail_word) (sameBesideSchedule_actGangQuery p s))
  · exact .inl ((runEnds_of_runCmd h).sameBesideSchedule (fun _ => firstFail_word) (sameBesideSchedule_actGangDestroy p s))
  · exact .inl ((runEnds_of_runCmd h).sameBesideSchedule (fun _ => firstFails_word) (sameBesideSchedule_actMemFree p s))
  · exact .inl ((runEnds_of_runCmd h).sameBesideSchedule (fun _ => firstFails_word) (sameBesideSchedule_actMemCopy p s))
  · exact .inl ((runEnds_of_runCmd h).sameBesideSchedule (fun _ => firstFails_word) (sameBesideSchedule_actMemPlace p s))
  · exact .inr ⟨.inl rfl, (runEnds_of_runHost h).confined_of_words SameDevice.besideSchedule (wordsReported_actPlanLoad p s)⟩
  · exact .inl ((runEnds_of_runCmd h).sameBesideSchedule (fun _ => firstFails_word) (sameBesideSchedule_completeOk s p _ _ _))
  · exact .inl ((runEnds_of_runCmd h).sameBesideSchedule (fun _ => firstFails_word)
      ((sameBesideSchedule_update s _ _ _ _).completeOk p _ 0 0))
  · exact .inl ((runEnds_of_runCmd h).sameBesideSchedule (fun _ => firstFail_word) (sameBesideSchedule_actGangStats p s))
  · exact .inl ((runEnds_of_runHost (host := false) h).sameBesideSchedule (fun _ => firstFails_word) (sameBesideSchedule_actPanelQuery p s))
  · exact .inr ⟨.inr rfl, (runEnds_of_runHost h).confined_of_words SameDevice.besideSchedule (wordsReported_actMoorLoad p s)⟩
  · exact .inl ((runEnds_of_runCmd (chk := none) (act := actMoorQuery p) h).sameBesideSchedule nofun
      (sameBesideSchedule_completeOk s p _ _ _))
  · exact .inl ((runEnds_of_runCmd h).sameBesideSchedule (fun _ => firstFail_word)
      ((sameBesideSchedule_update s _ _ _ _).completeOk p 0 0 0))
  · exact .inl ((runEnds_of_runCmd h).sameBesideSchedule (fun _ => firstFails_word) (sameBesideSchedule_actQconvert p s))

/-- Settles O41: such a command is confined to the host side and the schedule of the state that reports its words, and a report reaches
beside them only the global registers, the safety state and the pins. -/
theorem scheduleCommandsFrame : Obligations.ScheduleCommandsFrame := by
  intro p c s t hc h
  obtain ⟨u, hu, hw, hs⟩ : ∃ u, (u = s ∨ (LoadsWords p c ∧ ∃ w, u = wordEvent w p.ctx s) ∨
      (LoadsWords p c ∧ ∃ ws, u = correctedWords ws s)) ∧ SameBesideWordReport s u ∧ SameBesideSchedule u t := by
    obtain hs | ⟨hr, u, hu, hs⟩ := scheduleSide_of_next hc h
    · exact ⟨s, .inl rfl, .refl s, hs⟩
    · exact ⟨u, hu.imp id (.imp (.intro hr) (.intro hr)), hu.besideWordReport, hs⟩
  have same {α : Type} (f : State → α) (ht : f (scheduleSideAs u t) = f t) (hu : f (wordReportAs s u) = f u) : f t = f s :=
    ht.symm.trans ((congrArg f hs).trans (hu.symm.trans (congrArg f hw)))
  exact ⟨same State.pending rfl rfl, same State.casc rfl rfl, same State.reel rfl rfl, same State.models rfl rfl,
    same State.cams rfl rfl, same State.audio rfl rfl, same State.time rfl rfl, same State.net rfl rfl, same State.power rfl rfl,
    same State.boot rfl rfl, same State.freeCtr rfl rfl, u, hu, (congrArg State.glb hs :), (congrArg State.safe hs :),
    (congrArg State.pins hs :)⟩

end Sys2Proof.Machine

namespace Sys2Proof.Machine

/-! ### What the key-value, stream and statistics commands leave unchanged (R80, R163) -/

/-- `t` with those parts of `s` that serve the host side, the schedule or model state: pools, sequences, streams, slots and the number of
the next free value. -/
def modelSideAs (s t : State) : State := { scheduleSideAs s t with models := s.models, freeCtr := s.freeCtr }

/-- From `s` to `t` only the host side, the schedule and model state change. -/
def SameBesideModels (s t : State) : Prop := modelSideAs s t = s

section

variable {s t u : State}

theorem SameBesideModels.refl (s : State) : SameBesideModels s s := rfl

theorem SameBesideModels.trans (h : SameBesideModels s t) (k : SameBesideModels t u) : SameBesideModels s u :=
  (congrArg (modelSideAs s) k).trans h

theorem SameBesideSchedule.besideModels (h : SameBesideSchedule s t) : SameBesideModels s t := (congrArg (modelSideAs s) h :)

theorem SameDevice.besideModels {p : Pkt} (h : SameDevice p s t) : SameBesideModels s t := h.besideSchedule.besideModels

theorem sameBesideModels_update (s : State) (ctxs : Tbl Ctx) (store : Store) (sched : Sched) (models : Models) (freeCtr : Nat) :
    SameBesideModels s { s with ctxs := ctxs, store := store, sched := sched, models := models, freeCtr := freeCtr } := rfl

theorem sameBesideModels_foldl {α : Type} {f : State → α → State} (hf : ∀ t a, SameBesideModels t (f t a)) (l : List α) (s : State) :
    SameBesideModels s (l.foldl f s) := by
  induction l generalizing s with
  | nil => exact .refl s
  | cons a r ih => exact (hf s a).trans (ih _)

/-- A fold that also collects a result changes no more than its steps do. -/
theorem sameBesideModels_foldl_pair {α β : Type} {f : β × State → α → β × State} (hf : ∀ b t a, SameBesideModels t (f (b, t) a).2)
    (l : List α) (b : β) (s : State) : SameBesideModels s (l.foldl f (b, s)).2 := by
  induction l generalizing b s with
  | nil => exact .refl s
  | cons a r ih => exact (hf b s a).trans (ih _ _)

theorem SameBesideModels.completeOk (h : SameBesideModels s t) (p : Pkt) (w0 w1 w2 : Nat) :
    SameBesideModels s (completeOk p w0 w1 w2 t) := h.trans (sameBesideSchedule_completeOk t p w0 w1 w2).besideModels

theorem SameBesideModels.vwrite (h : SameBesideModels s t) (n va : Nat) (bs : List Byte) : SameBesideModels s (vwrite n va bs t) :=
  h.trans (sameBesideHostSide_vwrite n va bs t).besideSchedule.besideModels

end

section

variable (s : State)

theorem sameBesideModels_completeOk (p : Pkt) (w0 w1 w2 : Nat) : SameBesideModels s (completeOk p w0 w1 w2 s) :=
  (SameBesideModels.refl s).completeOk p w0 w1 w2

theorem sameBesideModels_handOn (p : Pkt) : SameBesideModels s (handOn p s) := (sameDevice_handOn p s).besideModels

theorem sameBesideModels_allocFrames (h n : Nat) : SameBesideModels s (allocFrames h n s).2 :=
  (sameBesideSchedule_allocFrames s h n).besideModels

theorem sameBesideModels_freeFramesOf (fs : List Nat) : SameBesideModels s (freeFramesOf fs s) :=
  (sameBesideSchedule_freeFramesOf s fs).besideModels

/-! #### Sequences and pages (R230, R233, R255) -/

theorem sameBesideModels_modSeq (k : Nat) (f : KvSeq → KvSeq) : SameBesideModels s (modSeq k f s) := rfl

theorem sameBesideModels_newSeq (q : KvSeq) : SameBesideModels s (newSeq q s).2 := rfl

theorem sameBesideModels_dropBeyond (k n : Nat) : SameBesideModels s (dropBeyond k n s).2 :=
  (sameBesideModels_modSeq s k _).trans (sameBesideModels_foldl (fun t _ => sameBesideModels_update t _ _ _ _ _) _ _)

theorem sameBesideModels_allocPage (k l : Nat) : SameBesideModels s (allocPage k l s).2 := by
  unfold allocPage
  split
  · exact .refl s
  · exact sameBesideModels_update s _ _ _ _ _

theorem sameBesideModels_writeSlot (P : KvPool) (i j : Nat) (bs : List Byte) : SameBesideModels s (writeSlot P i j bs s) :=
  sameBesideModels_foldl (fun t _ => sameBesideModels_update t _ _ _ _ _) _ s

theorem sameBesideModels_importPage (P : KvPool) (k l : Nat) (rows : List (List Byte)) (full : Bool) :
    SameBesideModels s (importPage P k l rows full s).2 :=
  ((sameBesideModels_allocPage s k l).trans (sameBesideModels_foldl (fun t _ => sameBesideModels_writeSlot t P _ _ _) _ _)).trans
    (sameBesideModels_update _ _ _ _ _ _)

theorem sameBesideModels_importLayer (P : KvPool) (k l : Nat) (pl : List Byte) : SameBesideModels s (importLayer P k l pl s).2 :=
  sameBesideModels_foldl_pair (fun _ t _ => sameBesideModels_importPage t P k l _ _) _ _ s

/-! #### Streams and their places (R260, R261, R281) -/

theorem sameBesideModels_modStrm (k : Nat) (f : Stream → Stream) : SameBesideModels s (modStrm k f s) := rfl

theorem sameBesideModels_takeUnit (k u : Nat) : SameBesideModels s (takeUnit k u s) := by
  unfold takeUnit
  dsimp only
  split
  · exact .refl s
  · exact sameBesideModels_update s _ _ _ _ _

theorem sameBesideModels_trimSet (k : Nat) : SameBesideModels s (trimSet k s) :=
  sameBesideModels_foldl (fun t _ => sameBesideModels_update t _ _ _ _ _) _ s

theorem sameBesideModels_seatStrm (k : Nat) : SameBesideModels s (seatStrm k s) :=
  (sameBesideModels_foldl (fun t u => sameBesideModels_takeUnit t _ u) _ s).trans (sameBesideModels_modStrm _ k _)

theorem sameBesideModels_parkStrm (k : Nat) : SameBesideModels s (parkStrm k s) :=
  (sameBesideModels_allocFrames s _ _).trans (sameBesideModels_modStrm _ k _)

theorem sameBesideModels_strmPut (x : Stream) (bs : List Byte) : SameBesideModels s (strmPut x bs s) :=
  sameBesideModels_foldl (fun t _ => sameBesideModels_update t _ _ _ _ _) _ s

theorem sameBesideModels_moveStrm (old : List Nat) (k : Nat) : SameBesideModels s (moveStrm old k s) :=
  sameBesideModels_foldl (fun t _ => sameBesideModels_update t _ _ _ _ _) _ s

theorem sameBesideModels_pauseStrm (k : Nat) : SameBesideModels s (pauseStrm k s) :=
  ((sameBesideModels_parkStrm s k).trans (sameBesideModels_moveStrm _ _ k)).trans (sameBesideModels_trimSet _ _)

theorem sameBesideModels_resumeStrm (k : Nat) : SameBesideModels s (resumeStrm k s) := by
  unfold resumeStrm
  dsimp only
  split
  · exact .refl s
  · exact ((sameBesideModels_seatStrm s k).trans (sameBesideModels_moveStrm _ _ k)).trans
      ((sameBesideModels_freeFramesOf _ _).trans (sameBesideModels_modStrm _ k _))

theorem sameBesideModels_endStrm (k : Nat) : SameBesideModels s (endStrm k s) :=
  ((sameBesideModels_freeFramesOf s _).trans (sameBesideModels_update _ _ _ _ _ _)).trans (sameBesideModels_trimSet _ _)

theorem sameBesideModels_newStrm (x : Stream) (state : List Byte) : SameBesideModels s (newStrm x state s).2 := by
  have hseated (k : Nat) (v : State) : SameBesideModels v (if x.active then seatStrm k v else parkStrm k v) := by
    split
    · exact sameBesideModels_seatStrm v k
    · exact sameBesideModels_parkStrm v k
  exact ((sameBesideModels_update s _ _ _ _ _).trans (hseated _ _)).trans (sameBesideModels_strmPut _ _ _)

/-! #### Parcels (R274, R277) -/

theorem sameBesideModels_noteImport (h kind : Nat) (b : List Byte) : SameBesideModels s (noteImport h kind b s) := rfl

/-! #### Commands that wait for a step (R254, R268, R301) -/

theorem sameBesideModels_pinQueued (p : Pkt) (va n : Nat) : SameBesideModels s (pinQueued p va n s) :=
  (sameBesideModels_update s _ _ _ _ _).trans (sameBesideSchedule_pinRange _ _ _ _ _).besideModels

theorem sameBesideModels_pinKv (p : Pkt) : SameBesideModels s (pinKv p s) := by
  unfold pinKv
  split
  · exact sameBesideModels_pinQueued s p _ _
  · exact .refl s

theorem sameBesideModels_pinStrm (p : Pkt) : SameBesideModels s (pinStrm p s) := by
  unfold pinStrm
  dsimp only
  split
  · exact sameBesideModels_pinQueued s p _ _
  · split
    · exact sameBesideModels_pinQueued s p _ _
    · exact .refl s

variable {s} {t : State} {p : Pkt} {host : Bool} {static : List (List (Bool × Code × Nat))} {chk : Option Fail} {act : State → State}

/-- A command whose checks meet no failed word changes no more than its effect does. -/
theorem RunEnds.sameBesideModels (h : RunEnds p s chk act t) (hword : ∀ f, chk = some f → f.word = none)
    (hact : SameBesideModels s (act s)) : SameBesideModels s t := h.confined SameDevice.besideModels hword hact

/-- A command that reads memory is confined once its words are reported. -/
theorem RunEnds.confinedOfWords (h : RunEnds p s chk act t) (hact : ∃ u, WordsReported p s u ∧ SameBesideModels u (act s)) :
    ∃ u, WordsReported p s u ∧ SameBesideModels u t := h.confined_of_words SameDevice.besideModels hact

/-- A command whose checks meet no failed word changes no more than its effect does, also where it may wait for a step. -/
theorem sameBesideModels_of_queued_or_runEnds (h : SameBesideModels s t ∨ RunEnds p s chk act t)
    (hword : ∀ f, chk = some f → f.word = none) (hact : SameBesideModels s (act s)) : SameBesideModels s t :=
  h.elim id fun hr => hr.sameBesideModels hword hact

/-- A key-value command on a sequence that a step has claimed waits for the step; every other one runs. -/
theorem queued_or_runEnds_of_kvOrQueue (h : kvOrQueue p s host static chk act = .next t) :
    SameBesideModels s t ∨ RunEnds p s chk act t := by
  unfold kvOrQueue at h
  split at h
  case h_1 =>
    split at h
    case isTrue =>
      exact .inl ((runEnds_of_runHost h).sameBesideModels (fun _ => firstFails_word)
        (((sameBesideModels_update s _ _ _ _ _).trans (sameBesideModels_pinKv _ p)).trans (sameBesideModels_handOn _ p)))
    case isFalse => exact .inr (runEnds_of_runHost h)
  case h_2 => exact .inr (runEnds_of_runHost h)

/-- So does a stream command on a claimed stream. -/
theorem queued_or_runEnds_of_strmOrQueue (h : strmOrQueue p s host chk act = .next t) :
    SameBesideModels s t ∨ RunEnds p s chk act t := by
  unfold strmOrQueue at h
  split at h
  case h_1 =>
    split at h
    case isTrue =>
      exact .inl ((runEnds_of_runHost h).sameBesideModels (fun _ => firstFails_word)
        (((sameBesideModels_update s _ _ _ _ _).trans (sameBesideModels_pinStrm _ p)).trans (sameBesideModels_handOn _ p)))
    case isFalse => exact .inr (runEnds_of_runHost h)
  case h_2 => exact .inr (runEnds_of_runHost h)

end

/-! #### The words that a command reads (R297) -/

section

variable (s : State)

theorem readPhys_eq_correctedWords (as : List Nat) : ∃ ws, readPhys as s = correctedWords ws s := by
  unfold readPhys
  split
  · exact ⟨[], rfl⟩
  · exact ⟨_, rfl⟩

/-- Reads one after the other count the words of all of them. -/
theorem foldl_kvFound_eq_correctedWords (q : KvSeq) (from_ n : Nat) (ls : List Nat) :
    ∃ ws, ls.foldl (fun t l => kvFound q l from_ n t) s = correctedWords ws s := by
  induction ls generalizing s with
  | nil => exact ⟨[], rfl⟩
  | cons l rest ih =>
    obtain ⟨ws, hws⟩ := readPhys_eq_correctedWords s ((List.range n).map fun i => tokenWords s q l (from_ + i)).flatten
    obtain ⟨ws', hws'⟩ := ih (kvFound q l from_ n s)
    refine ⟨ws ++ ws', hws'.trans ?_⟩
    rw [kvFound, hws]
    exact List.foldl_append.symm

end

/-! #### The effects -/

section

variable (p : Pkt) (s : State)

theorem sameBesideModels_actKvPoolCreate : SameBesideModels s (actKvPoolCreate p s) :=
  ((sameBesideModels_allocFrames s _ _).trans (sameBesideModels_update _ _ _ _ _ _)).completeOk p _ _ _

theorem sameBesideModels_actKvPoolDestroy : SameBesideModels s (actKvPoolDestroy p s) :=
  ((sameBesideModels_freeFramesOf s _).trans (sameBesideModels_update _ _ _ _ _ _)).completeOk p _ _ _

theorem sameBesideModels_actKvFork : SameBesideModels s (actKvFork p s) :=
  ((sameBesideModels_foldl (fun t _ => sameBesideModels_update t _ _ _ _ _) _ s).trans (sameBesideModels_newSeq _ _)).completeOk p _ _ _

theorem sameBesideModels_actKvTruncate : SameBesideModels s (actKvTruncate p s) :=
  ((sameBesideModels_dropBeyond s _ _).trans (sameBesideModels_modSeq _ _ _)).completeOk p _ _ _

theorem sameBesideModels_actKvFree : SameBesideModels s (actKvFree p s) :=
  ((sameBesideModels_dropBeyond s _ _).trans (sameBesideModels_update _ _ _ _ _ _)).completeOk p _ _ _

theorem sameBesideModels_actKvSeqQuery : SameBesideModels s (actKvSeqQuery p s) := by
  have htable {c : Prop} [Decidable c] (va : Nat) (bs : List Byte) : SameBesideModels s (if c then s else vwrite p.ctx va bs s) := by
    split
    · exact .refl s
    · exact (SameBesideModels.refl s).vwrite _ _ _
  exact (htable _ _).completeOk p _ _ _

theorem sameBesideModels_actKvPageQuery : SameBesideModels s (actKvPageQuery p s) := by
  unfold actKvPageQuery
  split
  · exact sameBesideModels_completeOk s p _ _ _
  · exact sameBesideModels_completeOk s p _ _ _

/-- The command waits where the head has not come (R253). -/
theorem sameBesideModels_actKvWait : SameBesideModels s (actKvWait p s) := by
  unfold actKvWait
  split
  case h_1 => exact .refl s
  case h_2 =>
    split
    · exact sameBesideModels_completeOk s p _ _ _
    · exact (sameBesideModels_update s _ _ _ _ _).trans (sameBesideModels_handOn _ p)

theorem wordsReported_actKvRead : ∃ u, WordsReported p s u ∧ SameBesideModels u (actKvRead p s) :=
  ⟨_, .inr (.inr (readPhys_eq_correctedWords s _)), ((SameBesideModels.refl _).vwrite _ _ _).completeOk p _ _ _⟩

/-- KV_EXPORT reads the rows of every layer (R276). -/
theorem wordsReported_actKvExport : ∃ u, WordsReported p s u ∧ SameBesideModels u (actKvExport p s) :=
  ⟨_, .inr (.inr (foldl_kvFound_eq_correctedWords s _ _ _ _)), ((sameBesideModels_update _ _ _ _ _ _).vwrite _ _ _).completeOk p _ _ _⟩

theorem wordsReported_actKvImport : ∃ u, WordsReported p s u ∧ SameBesideModels u (actKvImport p s) := by
  unfold actKvImport
  dsimp only
  exact ⟨_, wordsReported_readWords p p.ctx (fld p 16 8) (parcelAt s p.ctx (fld p 16 8)).length s,
    (((sameBesideModels_foldl_pair (fun _ t _ => sameBesideModels_importLayer t _ _ _ _) _ _ _).trans
      (sameBesideModels_newSeq _ _)).trans (sameBesideModels_noteImport _ _ _ _)).completeOk p _ _ _⟩

theorem wordsReported_actStrmSetCreate : ∃ u, WordsReported p s u ∧ SameBesideModels u (actStrmSetCreate p s) :=
  ⟨_, wordsReported_readWords p p.ctx (fld p 24 8) (4 * fld p 16 1) s, (sameBesideModels_update _ _ _ _ _ _).completeOk p _ _ _⟩

theorem sameBesideModels_actStrmSetDestroy : SameBesideModels s (actStrmSetDestroy p s) :=
  ((sameBesideModels_foldl (fun t i => sameBesideModels_endStrm t i) _ s).trans (sameBesideModels_update _ _ _ _ _ _)).completeOk p _ _ _

theorem sameBesideModels_actStrmPause : SameBesideModels s (actStrmPause p s) :=
  (sameBesideModels_pauseStrm s _).completeOk p _ _ _

theorem sameBesideModels_actStrmResume : SameBesideModels s (actStrmResume p s) :=
  (sameBesideModels_resumeStrm s _).completeOk p _ _ _

theorem sameBesideModels_actStrmEnd : SameBesideModels s (actStrmEnd p s) := (sameBesideModels_endStrm s _).completeOk p _ _ _

/-- Only a start from an image reads memory (R261). -/
theorem wordsReported_actStrmStart : ∃ u, WordsReported p s u ∧ SameBesideModels u (actStrmStart p s) := by
  refine ⟨_, ?_, (sameBesideModels_newStrm _ _ _).completeOk p _ _ _⟩
  split
  · exact .inl rfl
  · exact wordsReported_readWords p _ _ _ s

theorem wordsReported_actStrmRead : ∃ u, WordsReported p s u ∧ SameBesideModels u (actStrmRead p s) :=
  ⟨_, .inr (.inr (readPhys_eq_correctedWords s _)), ((SameBesideModels.refl _).vwrite _ _ _).completeOk p _ _ _⟩

/-- END_AFTER ends the stream (R274). -/
theorem wordsReported_actStrmExport : ∃ u, WordsReported p s u ∧ SameBesideModels u (actStrmExport p s) := by
  have hended {c : Prop} [Decidable c] (k : Nat) (v : State) : SameBesideModels v (if c then endStrm k v else v) := by
    split
    · exact sameBesideModels_endStrm v k
    · exact .refl v
  exact ⟨_, .inr (.inr (readPhys_eq_correctedWords s _)),
    (((sameBesideModels_update _ _ _ _ _ _).vwrite _ _ _).trans (hended _ _)).completeOk p _ _ _⟩

theorem wordsReported_actStrmImport : ∃ u, WordsReported p s u ∧ SameBesideModels u (actStrmImport p s) :=
  ⟨_, wordsReported_readWords p p.ctx (fld p 16 8) (parcelAt s p.ctx (fld p 16 8)).length s,
    ((sameBesideModels_newStrm _ _ _).trans (sameBesideModels_noteImport _ _ _ _)).completeOk p _ _ _⟩

/-- A null address reads no peer record (R281). -/
theorem wordsReported_actStrmPeer : ∃ u, WordsReported p s u ∧ SameBesideModels u (actStrmPeer p s) := by
  refine ⟨_, ?_, (sameBesideModels_update _ _ _ _ _ _).completeOk p _ _ _⟩
  split
  · exact .inl rfl
  · exact wordsReported_readWords p _ _ _ s

theorem sameBesideModels_actQstatRead : SameBesideModels s (actQstatRead p s) := by
  have hcleared {c : Prop} [Decidable c] (ms : Models) (v : State) : SameBesideModels v (if c then { v with models := ms } else v) := by
    split
    · exact sameBesideModels_update v _ _ _ _ _
    · exact .refl v
  exact (((SameBesideModels.refl s).vwrite _ _ _).trans (hcleared _ _)).completeOk p _ _ _

end

/-- The command reads words of memory, as its checks do. -/
def ReadsModelWords (p : Pkt) (c : Instr) : Prop :=
  c = .kvRead p ∨ c = .kvExport p ∨ c = .kvImport p ∨ c = .strmSetCreate p ∨ c = .strmStart p ∨ c = .strmRead p ∨ c = .strmExport p ∨
    c = .strmImport p ∨ c = .strmPeer p

/-- Such a command is confined to the host side, the schedule and model state, once the words that a reading one meets are reported. -/
theorem modelSide_of_next {p : Pkt} {c : Instr} {s t : State}
    (hc : c = .kvPoolCreate p ∨ c = .kvPoolDestroy p ∨ c = .kvSeqCreate p ∨ c = .kvFork p ∨ c = .kvTruncate p ∨ c = .kvFree p ∨
      c = .kvSeqQuery p ∨ c = .kvPageQuery p ∨ c = .kvRead p ∨ c = .kvWait p ∨ c = .kvPoolQuery p ∨ c = .kvExport p ∨
      c = .kvImport p ∨ c = .strmSetCreate p ∨ c = .strmSetDestroy p ∨ c = .strmStart p ∨ c = .strmPause p ∨
      c = .strmResume p ∨ c = .strmEnd p ∨ c = .strmQuery p ∨ c = .strmSentinel p ∨ c = .strmRead p ∨ c = .strmExport p ∨
      c = .strmImport p ∨ c = .strmPeer p ∨ c = .qstatArm p ∨ c = .qstatDisarm p ∨ c = .qstatRead p ∨ c = .qstatQuery p)
    (h : exec c s = .next t) : SameBesideModels s t ∨ ReadsModelWords p c ∧ ∃ u, WordsReported p s u ∧ SameBesideModels u t := by
  rcases hc with rfl | rfl | rfl | rfl | rfl | rfl | rfl | rfl | rfl | rfl | rfl | rfl | rfl | rfl | rfl | rfl | rfl | rfl | rfl | rfl |
    rfl | rfl | rfl | rfl | rfl | rfl | rfl | rfl | rfl
  · exact .inl ((runEnds_of_runCmd h).sameBesideModels (fun _ => firstFail_word) (sameBesideModels_actKvPoolCreate p s))
  · exact .inl ((runEnds_of_runCmd h).sameBesideModels (fun _ => firstFails_word) (sameBesideModels_actKvPoolDestroy p s))
  · exact .inl ((runEnds_of_runCmd h).sameBesideModels (fun _ => firstFails_word)
      ((sameBesideModels_newSeq s _).completeOk p _ _ _))
  · exact .inl (sameBesideModels_of_queued_or_runEnds (queued_or_runEnds_of_kvOrQueue h) (fun _ => firstFails_word)
      (sameBesideModels_actKvFork p s))
  · exact .inl (sameBesideModels_of_queued_or_runEnds (queued_or_runEnds_of_kvOrQueue h) (fun _ => firstFails_word)
      (sameBesideModels_actKvTruncate p s))
  · exact .inl (sameBesideModels_of_queued_or_runEnds (queued_or_runEnds_of_kvOrQueue h) (fun _ => firstFails_word)
      (sameBesideModels_actKvFree p s))
  · exact .inl ((runEnds_of_runHost (host := false) h).sameBesideModels (fun _ => firstFails_word) (sameBesideModels_actKvSeqQuery p s))
  · exact .inl ((runEnds_of_runCmd h).sameBesideModels (fun _ => firstFail_word) (sameBesideModels_actKvPageQuery p s))
  · exact (queued_or_runEnds_of_kvOrQueue h).imp_right fun hr =>
      ⟨by simp [ReadsModelWords], hr.confinedOfWords (wordsReported_actKvRead p s)⟩
  · exact .inl ((runEnds_of_runCmd h).sameBesideModels (fun _ => firstFail_word) (sameBesideModels_actKvWait p s))
  · exact .inl ((runEnds_of_runCmd h).sameBesideModels (fun _ => firstFails_word) (sameBesideModels_completeOk s p _ _ _))
  · exact .inr ⟨by simp [ReadsModelWords], (runEnds_of_runHost (host := false) h).confinedOfWords (wordsReported_actKvExport p s)⟩
  · rw [exec_kvImport] at h
    exact .inr ⟨by simp [ReadsModelWords], (runEnds_of_runHost h).confinedOfWords (wordsReported_actKvImport p s)⟩
  · exact .inr ⟨by simp [ReadsModelWords], (runEnds_of_runHost h).confinedOfWords (wordsReported_actStrmSetCreate p s)⟩
  · exact .inl ((runEnds_of_runCmd h).sameBesideModels (fun _ => firstFails_word) (sameBesideModels_actStrmSetDestroy p s))
  · exact .inr ⟨by simp [ReadsModelWords], (runEnds_of_runHost h).confinedOfWords (wordsReported_actStrmStart p s)⟩
  · exact .inl (sameBesideModels_of_queued_or_runEnds (queued_or_runEnds_of_strmOrQueue h) (fun _ => firstFails_word)
      (sameBesideModels_actStrmPause p s))
  · exact .inl ((runEnds_of_runCmd h).sameBesideModels (fun _ => firstFails_word) (sameBesideModels_actStrmResume p s))
  · exact .inl (sameBesideModels_of_queued_or_runEnds (queued_or_runEnds_of_strmOrQueue h) (fun _ => firstFails_word)
      (sameBesideModels_actStrmEnd p s))
  · exact .inl ((runEnds_of_runCmd h).sameBesideModels (fun _ => firstFails_word) (sameBesideModels_completeOk s p _ _ _))
  · exact .inl ((runEnds_of_runCmd h).sameBesideModels (fun _ => firstFails_word)
      ((sameBesideModels_modStrm s _ _).completeOk p _ _ _))
  · exact (queued_or_runEnds_of_strmOrQueue h).imp_right fun hr =>
      ⟨by simp [ReadsModelWords], hr.confinedOfWords (wordsReported_actStrmRead p s)⟩
  · exact (queued_or_runEnds_of_strmOrQueue h).imp_right fun hr =>
      ⟨by simp [ReadsModelWords], hr.confinedOfWords (wordsReported_actStrmExport p s)⟩
  · rw [exec_strmImport] at h
    exact .inr ⟨by simp [ReadsModelWords], (runEnds_of_runHost h).confinedOfWords (wordsReported_actStrmImport p s)⟩
  · exact .inr ⟨by simp [ReadsModelWords], (runEnds_of_runHost h).confinedOfWords (wordsReported_actStrmPeer p s)⟩
  · exact .inl ((runEnds_of_runCmd h).sameBesideModels (fun _ => firstFail_word)
      ((sameBesideModels_update s _ _ _ _ _).completeOk p _ _ _))
  · exact .inl ((runEnds_of_runCmd h).sameBesideModels (fun _ => firstFails_word)
      ((sameBesideModels_update s _ _ _ _ _).completeOk p _ _ _))
  · exact .inl ((runEnds_of_runHost (host := false) h).sameBesideModels (fun _ => firstFails_word) (sameBesideModels_actQstatRead p s))
  · exact .inl ((runEnds_of_runCmd h).sameBesideModels (fun _ => firstFails_word) (sameBesideModels_completeOk s p _ _ _))

/-- Settles O42: such a command is confined to the host side, the schedule and model state of the state that reports its words, and a
report reaches beside them only the global registers, the safety state and the pins. -/
theorem modelStateCommandsFrame : Obligations.ModelStateCommandsFrame := by
  intro p c s t hc h
  obtain ⟨u, hu, hw, hs⟩ : ∃ u, (u = s ∨ (ReadsModelWords p c ∧ ∃ w, u = wordEvent w p.ctx s) ∨
      (ReadsModelWords p c ∧ ∃ ws, u = correctedWords ws s)) ∧ SameBesideWordReport s u ∧ SameBesideModels u t := by
    obtain hs | ⟨hr, u, hu, hs⟩ := modelSide_of_next hc h
    · exact ⟨s, .inl rfl, .refl s, hs⟩
    · exact ⟨u, hu.imp id (.imp (.intro hr) (.intro hr)), hu.besideWordReport, hs⟩
  have same {α : Type} (f : State → α) (ht : f (modelSideAs u t) = f t) (hu : f (wordReportAs s u) = f u) : f t = f s :=
    ht.symm.trans ((congrArg f hs).trans (hu.symm.trans (congrArg f hw)))
  exact ⟨same State.pending rfl rfl, same State.casc rfl rfl, same State.reel rfl rfl, same State.cams rfl rfl,
    same State.audio rfl rfl, same State.time rfl rfl, same State.net rfl rfl, same State.power rfl rfl, same State.boot rfl rfl,
    u, hu, (congrArg State.glb hs :), (congrArg State.safe hs :), (congrArg State.pins hs :)⟩

end Sys2Proof.Machine

namespace Sys2Proof.Machine

/-! ### Codes of the grids, and the Bell codes (R145, R146, R147, R155) -/

/-- A Bell code has its sign bit set only over an index other than 0 (R147). -/
theorem codeOf_bell4_ne {i : Nat} (hi : i < 8) (n : Bool) : codeOf 0x30 i n ≠ 8 := by
  show (if n = true ∧ i ≠ 0 then 8 + i else i) ≠ 8
  split <;> omega

theorem codeOf_bell3_ne {i : Nat} (hi : i < 4) (n : Bool) : codeOf 0x31 i n ≠ 4 := by
  show (if n = true ∧ i ≠ 0 then 4 + i else i) ≠ 4
  split <;> omega

theorem Grid.nearest_lt (g : Grid) (num den : Nat) (h : g.mags ≠ []) : g.nearest num den < g.mags.length := by
  have hpos := List.length_pos_of_ne_nil h
  calc g.nearest num den
    _ ≤ (g.mags.zip (g.mags.drop 1)).length := List.length_filter_le _ _
    _ ≤ (g.mags.drop 1).length := by rw [List.length_zip]; exact Nat.min_le_right _ _
    _ < g.mags.length := by rw [List.length_drop]; omega

theorem Grid.below_lt (g : Grid) (num den : Nat) (h : g.mags ≠ []) : g.below num den < g.mags.length := by
  have hpos := List.length_pos_of_ne_nil h
  calc g.below num den
    _ ≤ (g.mags.drop 1).length := List.length_filter_le _ _
    _ < g.mags.length := by rw [List.length_drop]; omega

/-- The last magnitude has none above it to round to. -/
theorem Grid.stoch_lt (g : Grid) (u num den : Nat) (h : g.mags ≠ []) : g.stoch u num den < g.mags.length := by
  have hlt := g.below_lt num den h
  unfold Grid.stoch
  dsimp only
  split
  case isTrue => exact hlt
  case isFalse hb =>
    have hnext : g.below num den + 1 < g.mags.length := by
      by_contra hend
      rw [List.getD_eq_default _ _ (Nat.not_lt.mp hend)] at hb
      exact hb le_rfl
    split
    · exact hnext
    · exact hlt

/-- Outside FP8 an encoded element is 0 or the code of an index of the grid, whatever the value, its scale and the rounding (R147, R155). -/
theorem encodeVal_code {f : Nat} (h20 : f ≠ 0x20) (h21 : f ≠ 0x21) (hg : (gridOf f).mags ≠ []) (draw : Draw) (v s : Val) :
    (encodeVal f draw v s).code = 0 ∨ ∃ i n, i < (gridOf f).mags.length ∧ (encodeVal f draw v s).code = codeOf f i n := by
  have hlast : (gridOf f).mags.length - 1 < (gridOf f).mags.length := Nat.sub_one_lt (List.length_eq_zero_iff.not.mpr hg)
  unfold encodeVal
  cases s with
  | nan | inf => exact .inl rfl
  | fin _ sm se =>
    cases v with
    | nan n =>
      dsimp only
      split
      · exact absurd rfl h20
      · exact absurd rfl h21
      · exact .inl rfl
    | inf n => exact .inr ⟨_, n, hlast, if_neg h21⟩
    | fin n m e =>
      dsimp only
      split
      case isTrue => exact .inr ⟨_, n, hlast, rfl⟩
      case isFalse =>
        cases draw with
        | none => exact .inr ⟨_, n, (gridOf f).nearest_lt _ _ hg, rfl⟩
        | some u => exact .inr ⟨_, n, (gridOf f).stoch_lt u _ _ hg, rfl⟩

theorem encodeVal_bell4_ne (draw : Draw) (v s : Val) : (encodeVal 0x30 draw v s).code ≠ 8 := by
  obtain h | ⟨i, n, hi, h⟩ := encodeVal_code (f := 0x30) (by decide) (by decide) (by decide) draw v s
  · rw [h]; decide
  · rw [h]; exact codeOf_bell4_ne hi n

theorem encodeVal_bell3_ne (draw : Draw) (v s : Val) : (encodeVal 0x31 draw v s).code ≠ 4 := by
  obtain h | ⟨i, n, hi, h⟩ := encodeVal_code (f := 0x31) (by decide) (by decide) (by decide) draw v s
  · rw [h]; decide
  · rw [h]; exact codeOf_bell3_ne hi n

/-- Settles O54: an encoded element is 0 or has the code of an index of the grid, whose sign bit is set only over an index other than 0;
the values of the sixteen and the eight codes, and the codes of these values, are evaluated (log 27 for the zero with its sign bit set). -/
theorem bellCodesDecodeAndEncode : Obligations.BellCodesDecodeAndEncode := by
  refine ⟨?bell4Values, ?bell3Values, fun draw v s => ⟨encodeVal_bell4_ne draw v s, encodeVal_bell3_ne draw v s⟩,
    ?bell4Back, ?bell3Back⟩
  case bell4Values | bell3Values | bell4Back | bell3Back => decide

/-! ### The block scales (R149) -/

theorem scaleVal_e8m0 (k : Nat) :
    scaleVal false k = if k % 256 = 255 then .nan false else .fin false 1 (((k % 256 : Nat) : Int) - 127) := rfl

theorem scaleVal_e8m0_of_lt {e : Nat} (he : e < 255) : scaleVal false e = .fin false 1 ((e : Int) - 127) := by
  have hexp : e % 256 = e := Nat.mod_eq_of_lt (by omega)
  rw [scaleVal_e8m0, hexp, if_neg he.ne]

/-- Exponent and fraction of a stored E8M3 scale; bits 15:11 do not count. -/
theorem scaleVal_e8m3 (k : Nat) : scaleVal true k =
    if k / 8 % 256 = 255 then .nan false else .fin false (8 + k % 8) (((k / 8 % 256 : Nat) : Int) - 130) := rfl

theorem scaleVal_e8m3_of_fields {e m : Nat} (he : e < 255) (hm : m < 8) :
    scaleVal true (8 * e + m) = .fin false (8 + m) ((e : Int) - 130) := by
  have hexp : (8 * e + m) / 8 % 256 = e := by omega
  have hfrac : (8 * e + m) % 8 = m := by omega
  rw [scaleVal_e8m3, hexp, hfrac, if_neg he.ne]

theorem scaleVal_e8m3_nan {m : Nat} (hm : m < 8) : scaleVal true (0x7F8 + m) = .nan false := by
  rw [scaleVal_e8m3, if_pos (by omega)]

theorem scaleVal_e8m3_reserved (k r : Nat) : scaleVal true (k + 2 ^ 11 * r) = scaleVal true k := by
  have hexp : (k + 2 ^ 11 * r) / 8 % 256 = k / 8 % 256 := by omega
  have hfrac : (k + 2 ^ 11 * r) % 8 = k % 8 := by omega
  rw [scaleVal_e8m3, scaleVal_e8m3, hexp, hfrac]

/-- The model counts the exponents as integers. -/
theorem scaleFor_e8m0 (num den : Nat) :
    scaleFor false num den = ((List.range 255).filter fun e : Nat => leRatio 1 ((e : Int) - 127) num den).length - 1 := by
  simp only [scaleFor, Bool.false_eq_true, if_false, List.bind_eq_flatMap, List.pure_def, ← List.map_eq_flatMap, List.filter_map,
    List.length_map, Function.comp_def]

/-- The exponent of an E8M3 scale is the E8M0 scale of the same number (R153). -/
theorem scaleFor_e8m3 (num den : Nat) : scaleFor true num den = 8 * scaleFor false num den +
    (((List.range 8).filter fun m => leRatio (8 + m) ((scaleFor false num den : Int) - 130) num den).length - 1) := rfl

theorem length_filter_range_sub_one_lt {n : Nat} (hn : 0 < n) (q : Nat → Bool) : ((List.range n).filter q).length - 1 < n := by
  have hle := List.length_filter_le q (List.range n)
  rw [List.length_range] at hle
  omega

/-- A chosen scale is no NaN. -/
theorem scaleFor_e8m0_lt (num den : Nat) : scaleFor false num den < 255 := by
  rw [scaleFor_e8m0]
  exact length_filter_range_sub_one_lt (by decide) _

theorem scaleFor_e8m3_fields (num den : Nat) : ∃ e m, e < 255 ∧ m < 8 ∧ scaleFor true num den = 8 * e + m := by
  refine ⟨_, _, scaleFor_e8m0_lt num den, ?_, scaleFor_e8m3 num den⟩
  exact length_filter_range_sub_one_lt (n := 8) (by decide) _

/-- Settles O53: a stored scale is read by its exponent and fraction fields alone, and a chosen one has an exponent of at most 254. -/
theorem scalesHaveTheirValues : Obligations.ScalesHaveTheirValues := by
  refine ⟨rfl, rfl, fun e he => scaleVal_e8m0_of_lt he, scaleVal_e8m0 255, fun e m he hm => scaleVal_e8m3_of_fields he hm,
    fun m hm => scaleVal_e8m3_nan hm, fun k r _ _ => scaleVal_e8m3_reserved k r, fun num den => ?chosen, rfl, rfl,
    scaleVal_e8m0 0, scaleVal_e8m3 0, scaleVal_e8m0 254, scaleVal_e8m3 0x7F7⟩
  case chosen =>
    obtain ⟨e, m, he, hm, h⟩ := scaleFor_e8m3_fields num den
    exact ⟨by omega, by omega, scaleFor_e8m0_lt num den⟩

end Sys2Proof.Machine

namespace Sys2Proof.Machine

/-! ### The rows of the safety events (R199, R386, R389, R393, R400, R401, R463) -/

section

variable {s : State}

/-- The end of a leg on a gang that the part has always answers a next state, whether or not a leg executes there. -/
theorem execLegEnd_next {e : LegEnd} (hg : e.gang ≤ 16) : ∃ t, execLegEnd e s = .next t := by
  unfold execLegEnd
  rw [if_neg (Nat.not_lt.mpr hg)]
  split
  case h_1 => exact ⟨_, rfl⟩
  case h_2 c _ =>
    split
    case isTrue => exact ⟨_, rfl⟩
    case isFalse =>
      split
      case h_1 => exact ⟨_, rfl⟩
      case h_2 r _ =>
        dsimp only
        split
        · exact ⟨_, rfl⟩
        split
        · exact ⟨_, rfl⟩
        split
        · exact ⟨_, rfl⟩
        · exact ⟨_, rfl⟩
        · exact ⟨_, rfl⟩

/-- The LEG_END that a Tail watchdog's expiry stands for: the leg under way ends now, with the one error of the slice that `unit` at
position `pos` of `n` works on (R389, R394). -/
def tailEnd (s : State) (c : Cur) (g unit pos n : Nat) : LegEnd :=
  { gang := g, errs := [{ slice := sliceAt n c.attempt pos, panel := unit, kind := .tailWatchdog }], fail := .none, writes := []
    notes := 0, stats := [], cells := [], emptyRows := [], unchecked := [], elapsed := s.time.now - c.startAt }

/-- A Tail watchdog that expires during an attempt is that attempt's LEG_END (R389). -/
theorem tailLate_eq_legEnd {g unit pos n : Nat} {x : Gang} {c : Cur} (hg : g ≤ 16) (hx : gangOf s g = some x) (hc : x.cur = some c) :
    ∃ t, tailLate g unit pos n s = .next t ∧ exec (.legEnd (tailEnd s c g unit pos n)) s = .next t := by
  obtain ⟨t, ht⟩ := execLegEnd_next (s := s) (e := tailEnd s c g unit pos n) hg
  refine ⟨t, ?_, ht⟩
  unfold tailLate
  rw [cur_of_gang hx hc]
  exact ht

/-- A late slot is marked and charged to its camera once (R389). -/
theorem slotLate_of_unmarked {n : Nat} {f : CamFrame} (hf : (camOf s n).finishing.find? (fun f => !f.late) = some f) :
    slotLate n s =
      let s2 := modCam n (fun c =>
        { c with finishing := c.finishing.map fun x => if x.number = f.number then { x with late := true } else x })
        (elapseTo (f.ended.getD 0 + 5000000) s)
      settle (chanEvent 0x07 4 n 0 (camOf s n).owner s2.safe.cfg.wWatchdog 0 f.number s2) := by
  unfold slotLate
  dsimp only
  rw [hf]

/-- A send that is late while its link is up is marked and charged to its port once (R389). -/
theorem sendLate_of_unmarked {n : Nat} {x : Sending} (hx : (ethOf s n).sending.find? (fun x => !x.late) = some x)
    (hup : (ethOf s n).up = true) :
    sendLate n s =
      let s2 := modEth n (fun e =>
        { e with sending := e.sending.map fun y => if y.pkt == x.pkt then { y with late := true } else y }) (elapseTo (x.time + 1000000) s)
      settle (chanEvent 0x07 6 n 0 x.pkt.ctx s2.safe.cfg.wWatchdog 0 0 s2) := by
  unfold sendLate
  dsimp only
  rw [hx]
  exact if_neg (by simp [hup])

/-- The rails of R463's first row reset the part, those of its second row only below 50 %, and those of the other rows never. -/
theorem execSupplyExcursion_of_running {rail : Rail} {below50 : Bool} (hph : s.boot.phase ≠ .reset) :
    execSupplyExcursion rail below50 s =
      if rail = .aon ∨ rail = .aonio ∨ (below50 = true ∧ rail ≠ .bal ∧ rail ≠ .ser ∧ rail ≠ .hser ∧ rail ≠ .phy18) then
        .next (powerState s)
      else .next (railStop rail (deviceEvent 0x14 0 0xFFFF s.safe.cfg.wLoss 0 0 s)) := by
  refine (if_neg hph).trans ?_
  cases rail <;> simp

/-- The state of a mismatch before the standby pair acts: noted, logged, its fault asserted and an activating update cancelled (R400, R449). -/
def mismatchNoted (role : PairRole) (s : State) : State :=
  let s1 := noteMismatch (pairNo role) s
  let s2 := logEvent 0x0E 0 0 0 0xFFFF (deviceScore s1) 0 0 (if role = .safety then assertFault true s1 else s1)
  if 2 ≤ s.boot.updStage then cancelUpdate .eCheck s2 else s2

/-- The standby pair's own mismatch takes it out of use; that of another role is taken over, or enters the safe state (R400). -/
theorem execLockstepMismatch_of_watched {role : PairRole} (h : role ≠ .standby ∨ s.safe.standby = true) :
    execLockstepMismatch role s =
      let s3 := mismatchNoted role s
      if role = .standby then .next { s3 with safe.standby := false }
      else if !standbyFree s then .next (workEnded (enterSafe s3))
      else
        let s4 := { s3 with safe.standby := false, safe.takeover := some (decide (role = .safety)) }
        .next (if role = .command then endInterpretation s4 else s4) := by
  refine if_neg ?_
  rintro ⟨hrole, hstandby⟩
  rcases h with h | h
  · exact h hrole
  · simp [h] at hstandby

/-- A unit that runs self-test passes: a panel or Kite (R401). -/
theorem selfTest_unit_present {type index : Nat} (h : type = 1 ∧ index < 34 ∨ type = 2 ∧ index = 0) :
    ¬(!decide (type = 1 ∧ index < 34 ∨ type = 2 ∧ index = 0)) = true := by
  simp [h]

/-- The spare that a gang awaits, as SPARE_READY looks it up (R199). -/
theorem awaited_of_gang {g panel : Nat} {x : Gang} {e : Nat × Nat × Nat} (hx : gangOf s g = some x)
    (he : x.awaiting.find? (fun e => e.1 == panel) = some e) :
    ((gangOf s g).bind fun x => x.awaiting.find? fun e => e.1 == panel) = some e := by
  rw [hx]
  exact he

end

/-- Settles O37: each clause's hypotheses decide the row's tests, and what is left is the answer that the clause writes out; a Tail
watchdog's expiry is the LEG_END that its clause names. -/
theorem safetyEventsComplete : Obligations.SafetyEventsComplete := by
  intro s
  refine ⟨?spare, ?spareFails, ?leak, ?deadline, ?camera, ?tail, ?kiteTail, ?dmaEarly, ?ethernet, ?audio, ?standbyOut, ?noStandby,
    ?takenOver, ?takeover, ?newPair, ?railResets, ?railStops, ?panelClock, rfl, ?cameraClock, rfl, rfl, rfl, ?memoryClock, rfl, rfl, rfl,
    ?slice⟩
  case spare =>
    intro panel n pos x hpanel hx he
    show execSpareReady panel true s = _
    unfold execSpareReady
    rw [if_neg (Nat.not_lt.mpr hpanel)]
    dsimp only
    rw [awaited_of_gang hx he]
    exact if_pos rfl
  case spareFails =>
    intro panel n pos x hpanel hx he
    show execSpareReady panel false s = _
    unfold execSpareReady
    rw [if_neg (Nat.not_lt.mpr hpanel)]
    dsimp only
    rw [awaited_of_gang hx he]
    exact if_neg Bool.false_ne_true
  case leak =>
    intro t ht
    show execScoreLeak s = _
    unfold execScoreLeak
    rw [ht]
  case deadline =>
    intro type index hunit htested hdegraded
    refine (if_neg (selfTest_unit_present hunit)).trans (if_neg ?_)
    simp [htested, hdegraded]
  case camera =>
    intro n f hn hf
    exact (if_neg (Nat.not_lt.mpr hn)).trans (congrArg Host.Outcome.next (slotLate_of_unmarked hf))
  case tail =>
    intro n x c hn hst hx hg hc hmem
    have hrow : exec (.windowWatchdogLate (.tail n)) s =
        tailLate (panelOf s n).gang n (x.panels.findIdx (· == n)) x.panels.length s := by
      show execWindowWatchdogLate (.tail n) s = _
      unfold execWindowWatchdogLate
      dsimp only
      rw [if_neg (Nat.not_lt.mpr hn), hx, Option.map_some, Option.getD_some]
      exact if_neg (by simp [hst, List.contains_iff_mem.mp hmem])
    rw [hrow]
    exact tailLate_eq_legEnd hg hx hc
  case kiteTail =>
    intro x c hx hc
    exact tailLate_eq_legEnd (Nat.zero_le 16) hx hc
  case dmaEarly =>
    intro n d hn hd
    refine (if_neg (Nat.not_lt.mpr hn)).trans ?_
    rw [hd]
  case ethernet =>
    intro n x hn hx hup
    exact (if_neg (Nat.not_lt.mpr hn)).trans (congrArg Host.Outcome.next (sendLate_of_unmarked hx hup))
  case audio => exact fun ring hring => if_neg (Nat.not_lt.mpr hring)
  case standbyOut =>
    intro role hrole hstandby
    exact (execLockstepMismatch_of_watched (.inr hstandby)).trans (if_pos hrole)
  case noStandby =>
    intro role hrole hfree
    exact (execLockstepMismatch_of_watched (.inl hrole)).trans ((if_neg hrole).trans (if_pos (by simp [hfree])))
  case takenOver =>
    intro role hrole hfree
    exact (execLockstepMismatch_of_watched (.inl hrole)).trans ((if_neg hrole).trans (if_neg (by simp [hfree])))
  case takeover =>
    intro passed safety htake
    show execStandbyTakeover passed s = _
    unfold execStandbyTakeover
    rw [htake]
  case newPair =>
    intro passed htake hstandby hout
    show execStandbyTakeover passed s = _
    unfold execStandbyTakeover
    rw [htake]
    exact congrArg Host.Outcome.next (if_pos (by simp [hstandby, hout]))
  case railResets =>
    intro rail below50 hph hrail
    exact (execSupplyExcursion_of_running hph).trans (if_pos hrail)
  case railStops =>
    intro rail below50 hph hrail
    exact (execSupplyExcursion_of_running hph).trans (if_neg hrail)
  case panelClock => exact fun n hn => if_neg (Nat.not_lt.mpr hn)
  case cameraClock => exact fun n hn => if_neg (Nat.not_lt.mpr hn)
  case memoryClock =>
    rintro u (rfl | rfl)
    · rfl
    · rfl
  case slice =>
    intro type index passed hunit hrunning
    show execSelfTestSliceComplete type index passed s = _
    unfold execSelfTestSliceComplete
    rw [if_neg (selfTest_unit_present hunit)]
    dsimp only
    rw [hrunning, apply_ite Host.Outcome.next, apply_ite Host.Outcome.next]
    exact if_neg (by simp)

end Sys2Proof.Machine

namespace Sys2Proof.Machine

/-! ### Parities, and the address tag (R292) -/

/-- The word-address bits that tag bit `i` sums. -/
def tagBits (i : Nat) : List Nat := (List.range 36).filter (· % 7 == i)

theorem parity_cons (b : Bool) (l : List Bool) : parity (b :: l) = (b ^^ parity l) := by
  show l.foldl xor (false ^^ b) = _
  rw [Bool.xor_comm false b, List.foldl_assoc, parity]

theorem parity_append_singleton (l : List Bool) (b : Bool) : parity (l ++ [b]) = (parity l ^^ b) := by
  simp only [parity, List.foldl_append, List.foldl_cons, List.foldl_nil]

/-- The parity of chosen bits is linear. -/
theorem parity_map_testBit_xor (l : List Nat) (x y : Nat) :
    parity (l.map (x ^^^ y).testBit) = (parity (l.map x.testBit) ^^ parity (l.map y.testBit)) := by
  induction l with
  | nil => rfl
  | cons k l ih =>
    simp only [List.map_cons, parity_cons, Nat.testBit_xor, ih, Bool.xor_assoc, Bool.xor_left_comm]

/-- The number whose bits below `n` are those of `b`, as `wordTag` adds it up. -/
def bitSum (b : Nat → Bool) (n : Nat) : Nat := ((List.range n).map fun i => if b i then 2 ^ i else 0).foldl (· + ·) 0

theorem bitSum_succ (b : Nat → Bool) (n : Nat) : bitSum b (n + 1) = bitSum b n + if b n then 2 ^ n else 0 := by
  simp only [bitSum, List.range_succ, List.map_append, List.foldl_append, List.map_cons, List.map_nil, List.foldl_cons, List.foldl_nil]

theorem bitSum_lt (b : Nat → Bool) (n : Nat) : bitSum b n < 2 ^ n := by
  induction n with
  | zero => exact Nat.one_pos
  | succ n ih =>
    rw [bitSum_succ, Nat.pow_succ]
    split <;> omega

theorem testBit_bitSum {b : Nat → Bool} {n i : Nat} (hi : i < n) : (bitSum b n).testBit i = b i := by
  induction n with
  | zero => exact absurd hi (Nat.not_lt_zero i)
  | succ n ih =>
    have htop : bitSum b (n + 1) = 2 ^ n * (b n).toNat + bitSum b n := by
      rw [bitSum_succ]
      cases b n <;> simp [Nat.add_comm]
    rw [htop, Nat.testBit_two_pow_mul_add _ (bitSum_lt b n)]
    split
    case isTrue hlt => exact ih hlt
    case isFalse hge =>
      obtain rfl : i = n := by omega
      cases b i <;> simp

theorem wordTag_eq_bitSum (w : Nat) : wordTag w = bitSum (fun i => parity ((tagBits i).map w.testBit)) 7 := rfl

theorem wordTag_lt (w : Nat) : wordTag w < 2 ^ 7 := wordTag_eq_bitSum w ▸ bitSum_lt _ 7

theorem testBit_wordTag (w : Nat) {i : Nat} (hi : i < 7) : (wordTag w).testBit i = parity ((tagBits i).map w.testBit) := by
  rw [wordTag_eq_bitSum, testBit_bitSum hi]

/-- Each address bit is summed by one tag bit. -/
theorem parity_tagBits_two_pow : ∀ j < 36, parity ((tagBits (j % 7)).map (2 ^ j).testBit) = true := by decide

/-- A wrong address bit inverts the tag bit that sums it. -/
theorem wordTag_xor_two_pow_ne (w : Nat) {j : Nat} (hj : j < 36) : wordTag (w ^^^ 2 ^ j) ≠ wordTag w := by
  intro h
  have hi : j % 7 < 7 := Nat.mod_lt j (by decide)
  have hbit := congrArg (·.testBit (j % 7)) h
  simp [testBit_wordTag _ hi, parity_map_testBit_xor, parity_tagBits_two_pow j hj] at hbit

/-- Settles O51: the tag's bits are the parities of R292, and a single address bit inverts one of them. -/
theorem addressTagIsTheXor : Obligations.AddressTagIsTheXor := by
  intro w _
  exact ⟨wordTag_lt w, fun i hi => testBit_wordTag w hi, fun j hj => wordTag_xor_two_pow_ne w hj⟩

/-! ### The word code's sums over the bits of a stored word (R293, R294) -/

theorem parityOf_succ (n x : Nat) : parityOf (n + 1) x = (parityOf n x ^^ x.testBit n) := by
  rw [parityOf, List.range_succ, List.map_append, List.map_singleton, parity_append_singleton, parityOf]

theorem parityOf_xor (n x y : Nat) : parityOf n (x ^^^ y) = (parityOf n x ^^ parityOf n y) := parity_map_testBit_xor _ x y

theorem parityOf_two_pow (n k : Nat) : parityOf n (2 ^ k) = decide (k < n) := by
  induction n with
  | zero => rfl
  | succ n ih =>
    rw [parityOf_succ, ih, Nat.testBit_two_pow]
    by_cases h : k = n
    · simp [h]
    · simp [h, Nat.le_iff_lt_or_eq]

/-- The XOR of the Hamming positions of the bits below `n` that are set: `wordCheck` is that of all 135 covered bits. -/
def checkSum (n x : Nat) : Nat := ((List.range n).filter x.testBit).foldl (fun s k => s ^^^ hamPos k) 0

theorem checkSum_succ (n x : Nat) : checkSum (n + 1) x = checkSum n x ^^^ if x.testBit n then hamPos n else 0 := by
  rw [checkSum, List.range_succ, List.filter_append, List.foldl_append, ← checkSum]
  cases hbit : x.testBit n <;> simp [hbit]

theorem checkSum_xor (n x y : Nat) : checkSum n (x ^^^ y) = checkSum n x ^^^ checkSum n y := by
  induction n with
  | zero => exact (Nat.xor_self 0).symm
  | succ n ih =>
    have hterm : (if (x ^^^ y).testBit n then hamPos n else 0)
        = (if x.testBit n then hamPos n else 0) ^^^ (if y.testBit n then hamPos n else 0) := by
      rw [Nat.testBit_xor]
      cases x.testBit n <;> cases y.testBit n <;> simp
    rw [checkSum_succ, checkSum_succ, checkSum_succ, ih, hterm]
    ac_rfl

theorem checkSum_two_pow (n k : Nat) : checkSum n (2 ^ k) = if k < n then hamPos k else 0 := by
  induction n with
  | zero => rfl
  | succ n ih =>
    rw [checkSum_succ, ih, Nat.testBit_two_pow]
    by_cases h : k = n
    · simp [h]
    · simp [h, Nat.le_iff_lt_or_eq]

theorem checkSum_lt (n x : Nat) (hn : n ≤ 135) : checkSum n x < 2 ^ 8 := by
  induction n with
  | zero => exact Nat.two_pow_pos 8
  | succ n ih =>
    have hpos : hamPos n < 2 ^ 8 := by
      unfold hamPos
      split_ifs <;> omega
    rw [checkSum_succ]
    refine Nat.xor_lt_two_pow (ih (by omega)) ?_
    split
    · exact hpos
    · exact Nat.two_pow_pos 8

theorem wordCheck_xor (x y : Nat) : wordCheck (x ^^^ y) = wordCheck x ^^^ wordCheck y := checkSum_xor 135 x y

theorem wordCheck_two_pow {k : Nat} (hk : k < 135) : wordCheck (2 ^ k) = hamPos k :=
  (checkSum_two_pow 135 k).trans (if_pos hk)

theorem wordCheck_lt (x : Nat) : wordCheck x < 2 ^ 8 := checkSum_lt 135 x le_rfl

/-! ### Hamming positions (R293): distinct, never 0, never a power of two -/

theorem hamPos_strictMono : StrictMono hamPos := by
  intro j k hjk
  unfold hamPos
  split_ifs <;> omega

theorem three_le_hamPos (k : Nat) : 3 ≤ hamPos k := hamPos_strictMono.monotone (Nat.zero_le k)

theorem hamPos_le {k : Nat} (hk : k < 135) : hamPos k ≤ 143 := hamPos_strictMono.monotone (Nat.le_pred_of_lt hk)

theorem hamPos_ne_two_pow (k : Nat) {i : Nat} (hi : i < 8) : hamPos k ≠ 2 ^ i := by
  unfold hamPos
  interval_cases i <;> simp only [Nat.reducePow] <;> split_ifs <;> omega

/-! ### What an error adds to the syndrome (R294) -/

/-- The check bits that an error pattern leaves in the syndrome: those of a stored word whose bits are all taken as uncomplemented. -/
def errSyndrome (e : Nat) : Nat := e / 2 ^ 135 % 2 ^ 8 ^^^ wordCheck (e % 2 ^ 135)

/-- The syndrome of one wrong bit: its Hamming position, a check bit's own power of two, or nothing for P. -/
def bitSyndrome (k : Nat) : Nat := if k < 135 then hamPos k else if k < 143 then 2 ^ (k - 135) else 0

theorem errSyndrome_xor (x y : Nat) : errSyndrome (x ^^^ y) = errSyndrome x ^^^ errSyndrome y := by
  simp only [errSyndrome, Nat.xor_div_two_pow, Nat.xor_mod_two_pow, wordCheck_xor]
  ac_rfl

theorem wordSyndrome_eq (x : Nat) :
    wordSyndrome x = (errSyndrome (x ^^^ 511 * 2 ^ 135), parityOf 144 (x ^^^ 511 * 2 ^ 135)) := rfl

/-- The syndrome is linear in the error. -/
theorem wordSyndrome_xor (x e : Nat) :
    wordSyndrome (x ^^^ e) = ((wordSyndrome x).1 ^^^ errSyndrome e, (wordSyndrome x).2 ^^ parityOf 144 e) := by
  have hswap : x ^^^ e ^^^ 511 * 2 ^ 135 = x ^^^ 511 * 2 ^ 135 ^^^ e := by ac_rfl
  rw [wordSyndrome_eq, wordSyndrome_eq, hswap, errSyndrome_xor, parityOf_xor]

theorem errSyndrome_covered {k : Nat} (hk : k < 135) : errSyndrome (2 ^ k) = hamPos k := by
  have hlt : 2 ^ k < 2 ^ 135 := Nat.pow_lt_pow_right (by decide) hk
  rw [errSyndrome, Nat.div_eq_of_lt hlt, Nat.mod_eq_of_lt hlt, wordCheck_two_pow hk, Nat.zero_mod, Nat.zero_xor]

theorem two_pow_mod_covered {k : Nat} (hk : 135 ≤ k) : 2 ^ k % 2 ^ 135 = 0 := Nat.mod_eq_zero_of_dvd (Nat.pow_dvd_pow 2 hk)

theorem errSyndrome_uncovered {k : Nat} (hk : 135 ≤ k) : errSyndrome (2 ^ k) = 2 ^ (k - 135) % 2 ^ 8 := by
  rw [errSyndrome, two_pow_mod_covered hk, Nat.pow_div hk (by decide)]
  exact Nat.xor_zero _

theorem errSyndrome_two_pow {k : Nat} (hk : k < 144) : errSyndrome (2 ^ k) = bitSyndrome k := by
  unfold bitSyndrome
  split_ifs with hcov hcheck
  · exact errSyndrome_covered hcov
  · rw [errSyndrome_uncovered (Nat.not_lt.mp hcov)]
    exact Nat.mod_eq_of_lt (Nat.pow_lt_pow_right (by decide) (by omega))
  · obtain rfl : k = 143 := by omega
    exact errSyndrome_uncovered (by decide)

/-- Two wrong bits never cancel in the syndrome. -/
theorem bitSyndrome_inj {j k : Nat} (hj : j < 144) (hk : k < 144) (h : bitSyndrome j = bitSyndrome k) : j = k := by
  have hpos := three_le_hamPos
  unfold bitSyndrome at h
  split_ifs at h
  · exact hamPos_strictMono.injective h
  · exact absurd h (hamPos_ne_two_pow j (by omega))
  · have hj3 := hpos j
    omega
  · exact absurd h.symm (hamPos_ne_two_pow k (by omega))
  · have hsub := Nat.pow_right_injective le_rfl h
    omega
  · exact absurd h (Nat.two_pow_pos _).ne'
  · have hk3 := hpos k
    omega
  · exact absurd h.symm (Nat.two_pow_pos _).ne'
  · omega

theorem bitSyndrome_le (k : Nat) : bitSyndrome k ≤ 143 := by
  unfold bitSyndrome
  split_ifs with hcov hcheck
  · exact hamPos_le hcov
  · exact (Nat.pow_le_pow_right (n := 2) (by decide) (show k - 135 ≤ 7 by omega)).trans (by decide)
  · exact Nat.zero_le _

/-! ### A stored word without error (R291–R293) -/

/-- The 135 covered bits of the word that `wordEnc` stores. -/
def covered (d w : Nat) : Nat := d % 2 ^ 128 + wordTag w * 2 ^ 128

/-- The covered and the uncomplemented check bits of the word that `wordEnc` stores: what P sums. -/
def checked (d w : Nat) : Nat := covered d w + wordCheck (covered d w) * 2 ^ 135

/-- The stored word with its check bits and P uncomplemented (R294). -/
def plainWord (d w : Nat) : Nat := 2 ^ 143 * (parityOf 143 (checked d w)).toNat + checked d w

theorem covered_lt (d w : Nat) : covered d w < 2 ^ 135 := by
  have htag := wordTag_lt w
  have hdata : d % 2 ^ 128 < 2 ^ 128 := Nat.mod_lt d (by decide)
  unfold covered
  omega

theorem checked_lt (d w : Nat) : checked d w < 2 ^ 143 := by
  have hcov := covered_lt d w
  have hcheck := wordCheck_lt (covered d w)
  unfold checked
  omega

theorem wordEnc_eq (d w : Nat) :
    wordEnc d w = 2 ^ 135 * (2 ^ 8 * b2n (!parityOf 143 (checked d w)) + (255 - wordCheck (covered d w))) + covered d w := by
  show covered d w + (255 - wordCheck (covered d w)) * 2 ^ 135 + b2n (!parityOf 143 (checked d w)) * 2 ^ 143 = _
  ring

/-- Low and high parts of a number are XORed apart. -/
theorem two_pow_mul_add_xor {n b b' : Nat} (hb : b < 2 ^ n) (hb' : b' < 2 ^ n) (a a' : Nat) :
    (2 ^ n * a + b) ^^^ (2 ^ n * a' + b') = 2 ^ n * (a ^^^ a') + (b ^^^ b') := by
  refine Nat.eq_of_testBit_eq fun j => ?_
  rw [Nat.testBit_xor, Nat.testBit_two_pow_mul_add a hb, Nat.testBit_two_pow_mul_add a' hb',
    Nat.testBit_two_pow_mul_add _ (Nat.xor_lt_two_pow hb hb'), Nat.testBit_xor, Nat.testBit_xor]
  split <;> rfl

/-- A complement is undone by inverting every bit. -/
theorem complement_xor {n c : Nat} (hc : c < 2 ^ n) : (2 ^ n - 1 - c) ^^^ (2 ^ n - 1) = c := by
  refine Nat.eq_of_testBit_eq fun j => ?_
  rw [Nat.testBit_xor, Nat.sub_sub, Nat.add_comm 1, Nat.testBit_two_pow_sub_succ hc, Nat.testBit_two_pow_sub_one]
  by_cases hj : j < n
  · simp [hj]
  · simp [hj, Nat.testBit_eq_false_of_lt (hc.trans_le (Nat.pow_le_pow_right two_pos (Nat.not_lt.mp hj)))]

theorem wordEnc_xor_mask (d w : Nat) : wordEnc d w ^^^ 511 * 2 ^ 135 = plainWord d w := by
  have hcheck := wordCheck_lt (covered d w)
  have hinv : 255 - wordCheck (covered d w) < 2 ^ 8 := by omega
  have hflip : ∀ p : Bool, b2n (!p) ^^^ 1 = p.toNat := by decide
  have hinvert : (255 - wordCheck (covered d w)) ^^^ 255 = wordCheck (covered d w) := complement_xor (n := 8) hcheck
  have hmask : 511 * 2 ^ 135 = 2 ^ 135 * (2 ^ 8 * 1 + 255) + 0 := by norm_num
  calc wordEnc d w ^^^ 511 * 2 ^ 135
    _ = (2 ^ 135 * (2 ^ 8 * b2n (!parityOf 143 (checked d w)) + (255 - wordCheck (covered d w))) + covered d w)
          ^^^ (2 ^ 135 * (2 ^ 8 * 1 + 255) + 0) := by
      rw [wordEnc_eq, hmask]
    _ = 2 ^ 135 * (2 ^ 8 * (parityOf 143 (checked d w)).toNat + wordCheck (covered d w)) + covered d w := by
      rw [two_pow_mul_add_xor (covered_lt d w) (Nat.two_pow_pos _), two_pow_mul_add_xor hinv (by decide),
        hflip, hinvert, Nat.xor_zero]
    _ = plainWord d w := by
      unfold plainWord checked
      ring

theorem parityOf_congr {n x y : Nat} (h : ∀ k < n, x.testBit k = y.testBit k) : parityOf n x = parityOf n y :=
  congrArg parity (List.map_congr_left fun k hk => h k (List.mem_range.mp hk))

/-- The check bits of a word as stored are those of its covered bits. -/
theorem errSyndrome_plainWord (d w : Nat) : errSyndrome (plainWord d w) = 0 := by
  have hcov := covered_lt d w
  have hcheck := wordCheck_lt (covered d w)
  have hhigh : plainWord d w / 2 ^ 135 % 2 ^ 8 = wordCheck (covered d w) := by
    unfold plainWord checked
    omega
  have hlow : plainWord d w % 2 ^ 135 = covered d w := by
    unfold plainWord checked
    omega
  rw [errSyndrome, hhigh, hlow, Nat.xor_self]

/-- P makes the parity of the other 143 bits even. -/
theorem parityOf_plainWord (d w : Nat) : parityOf 144 (plainWord d w) = false := by
  have hbits := Nat.testBit_two_pow_mul_add (parityOf 143 (checked d w)).toNat (checked_lt d w)
  have hlow : parityOf 143 (plainWord d w) = parityOf 143 (checked d w) := parityOf_congr fun k hk => (hbits k).trans (if_pos hk)
  have htop : (plainWord d w).testBit 143 = parityOf 143 (checked d w) := by
    rw [plainWord, hbits, if_neg (Nat.lt_irrefl _), Nat.sub_self]
    cases parityOf 143 (checked d w) <;> rfl
  rw [parityOf_succ 143, hlow, htop, Bool.xor_self]

/-- A word as stored has syndrome 0 and even parity. -/
theorem wordSyndrome_wordEnc (d w : Nat) : wordSyndrome (wordEnc d w) = (0, false) := by
  rw [wordSyndrome_eq, wordEnc_xor_mask, errSyndrome_plainWord, parityOf_plainWord]

theorem wordEnc_mod_covered (d w : Nat) : wordEnc d w % 2 ^ 135 = covered d w := by
  rw [wordEnc_eq, Nat.mul_add_mod, Nat.mod_eq_of_lt (covered_lt d w)]

theorem covered_div (d w : Nat) : covered d w / 2 ^ 128 = wordTag w := by
  have hdata : d % 2 ^ 128 < 2 ^ 128 := Nat.mod_lt d (by decide)
  unfold covered
  omega

theorem covered_mod {d : Nat} (hd : d < 2 ^ 128) (w : Nat) : covered d w % 2 ^ 128 = d := by
  unfold covered
  omega

/-- What an error pattern makes of the syndrome of a stored word: the data and the address do not count. -/
theorem wordSyndrome_wordEnc_xor (d w e : Nat) : wordSyndrome (wordEnc d w ^^^ e) = (errSyndrome e, parityOf 144 e) := by
  rw [wordSyndrome_xor, wordSyndrome_wordEnc, Nat.zero_xor, Bool.false_xor]

theorem wordSyndrome_one_bit (d w : Nat) {k : Nat} (hk : k < 144) : wordSyndrome (wordEnc d w ^^^ 2 ^ k) = (bitSyndrome k, true) := by
  rw [wordSyndrome_wordEnc_xor, errSyndrome_two_pow hk, parityOf_two_pow, decide_eq_true hk]

/-! ### What the consumer makes of a syndrome (R294) -/

section

variable {x s : Nat}

theorem wordCovBits_of_even (h : wordSyndrome x = (s, false)) : wordCovBits x = x % 2 ^ 135 := by
  unfold wordCovBits
  rw [h]
  rfl

theorem wordCovBits_of_hamPos {k : Nat} (hk : k < 135) (h : wordSyndrome x = (hamPos k, true)) :
    wordCovBits x = x % 2 ^ 135 ^^^ 2 ^ k := by
  have hpos : hamPos k ≠ 0 := (Nat.zero_lt_of_lt (three_le_hamPos k)).ne'
  have hfind : (List.range 135).find? (fun j => hamPos j == hamPos k) = some k := by
    refine List.find?_range_eq_some.mpr ⟨beq_self_eq_true _, List.mem_range.mpr hk, fun j hj => ?_⟩
    simpa using (hamPos_strictMono hj).ne
  unfold wordCovBits
  rw [h]
  dsimp only
  rw [hfind]
  exact if_pos (by simp [hpos])

theorem wordCovBits_of_not_hamPos (hs : ∀ k < 135, hamPos k ≠ s) (h : wordSyndrome x = (s, true)) :
    wordCovBits x = x % 2 ^ 135 := by
  have hfind : (List.range 135).find? (fun j => hamPos j == s) = none :=
    List.find?_range_eq_none.mpr fun k hk => by simpa using hs k hk
  unfold wordCovBits
  rw [h]
  dsimp only
  rw [hfind]
  exact ite_self _

theorem wordDec_of_zero_even (h : wordSyndrome x = (0, false)) (v : Nat) :
    wordDec x v = if wordCovBits x / 2 ^ 128 = wordTag v then .clean else .address := by
  unfold wordDec
  rw [h]
  simp

theorem wordDec_of_odd (h : wordSyndrome x = (s, true)) (hs : s ≤ 143) (v : Nat) :
    wordDec x v = if wordCovBits x / 2 ^ 128 = wordTag v then .corrected else .address := by
  unfold wordDec
  rw [h]
  simp [hs]

theorem wordDec_of_even (h : wordSyndrome x = (s, false)) (hs : s ≠ 0) (v : Nat) : wordDec x v = .uncorrectable := by
  unfold wordDec
  rw [h]
  simp [hs]

theorem wordDec_of_beyond (h : wordSyndrome x = (s, true)) (hs : 143 < s) (v : Nat) : wordDec x v = .uncorrectable := by
  unfold wordDec
  rw [h]
  simp [hs]

end

/-! ### What the consumer finds (R294, R296) -/

/-- No covered bit has the syndrome of a wrong check bit or of a wrong P. -/
theorem hamPos_ne_bitSyndrome {j k : Nat} (hk : ¬k < 135) : hamPos j ≠ bitSyndrome k := by
  have hpos := three_le_hamPos j
  rw [bitSyndrome, if_neg hk]
  split
  · exact hamPos_ne_two_pow j (by omega)
  · omega

/-- The covered bits of a stored word come back when any one of its bits is wrong. -/
theorem wordCovBits_wordEnc_xor_two_pow (d w : Nat) {k : Nat} (hk : k < 144) :
    wordCovBits (wordEnc d w ^^^ 2 ^ k) = covered d w := by
  have hsyn := wordSyndrome_one_bit d w hk
  by_cases hcov : k < 135
  case pos =>
    rw [bitSyndrome, if_pos hcov] at hsyn
    rw [wordCovBits_of_hamPos hcov hsyn, Nat.xor_mod_two_pow, wordEnc_mod_covered,
      Nat.mod_eq_of_lt (Nat.pow_lt_pow_right (by decide) hcov), Nat.xor_xor_cancel_right]
  case neg =>
    rw [wordCovBits_of_not_hamPos (fun j _ => hamPos_ne_bitSyndrome hcov) hsyn, Nat.xor_mod_two_pow, wordEnc_mod_covered,
      two_pow_mod_covered (Nat.not_lt.mp hcov), Nat.xor_zero]

theorem wordCovBits_wordEnc (d w : Nat) : wordCovBits (wordEnc d w) = covered d w :=
  (wordCovBits_of_even (wordSyndrome_wordEnc d w)).trans (wordEnc_mod_covered d w)

/-- A stored word is clean where the tags agree, and an address error elsewhere. -/
theorem wordDec_wordEnc (d w v : Nat) : wordDec (wordEnc d w) v = if wordTag w = wordTag v then .clean else .address := by
  rw [wordDec_of_zero_even (wordSyndrome_wordEnc d w), wordCovBits_wordEnc, covered_div]

theorem wordDec_wordEnc_xor_two_pow (d w : Nat) {k : Nat} (hk : k < 144) : wordDec (wordEnc d w ^^^ 2 ^ k) w = .corrected := by
  rw [wordDec_of_odd (wordSyndrome_one_bit d w hk) (bitSyndrome_le k), wordCovBits_wordEnc_xor_two_pow d w hk, covered_div, if_pos rfl]

/-- Two wrong bits leave the parity even and the syndrome other than 0. -/
theorem wordDec_wordEnc_xor_two_bits (d w v : Nat) {j k : Nat} (hj : j < 144) (hk : k < 144) (hjk : j ≠ k) :
    wordDec (wordEnc d w ^^^ 2 ^ j ^^^ 2 ^ k) v = .uncorrectable := by
  have hsyn : wordSyndrome (wordEnc d w ^^^ 2 ^ j ^^^ 2 ^ k) = (bitSyndrome j ^^^ bitSyndrome k, false) := by
    rw [Nat.xor_assoc, wordSyndrome_wordEnc_xor, errSyndrome_xor, errSyndrome_two_pow hj, errSyndrome_two_pow hk, parityOf_xor,
      parityOf_two_pow, parityOf_two_pow, decide_eq_true hj, decide_eq_true hk, Bool.xor_self]
  exact wordDec_of_even hsyn (fun h => hjk (bitSyndrome_inj hj hk (Nat.xor_eq_zero_iff.mp h))) v

/-- Zeros have odd parity, since C and P are stored complemented, and a syndrome that names no bit. -/
theorem wordDec_zero (v : Nat) : wordDec 0 v = .uncorrectable := by
  have hsyn : wordSyndrome 0 = (255, true) := by decide +kernel
  exact wordDec_of_beyond hsyn (by decide) v

/-- A poisoned word has two wrong bits, c0 and c1. -/
theorem wordDec_poisonWord (w v : Nat) : wordDec (poisonWord w) v = .uncorrectable := by
  have htwo : 3 * 2 ^ 135 = 2 ^ 135 ^^^ 2 ^ 136 := by decide
  rw [poisonWord, htwo, ← Nat.xor_assoc]
  exact wordDec_wordEnc_xor_two_bits 0 w v (by decide) (by decide) (by decide)

/-- Settles O52: the syndrome is linear in the error, single wrong bits have distinct syndromes, and an address bit changes the tag. -/
theorem wordCodeCorrectsOneDetectsTwo : Obligations.WordCodeCorrectsOneDetectsTwo := by
  intro d w hd _
  refine ⟨⟨?clean, ?data⟩, fun k hk => ⟨?corrected, ?correctedData⟩, fun j k hj hk hjk => ?two, fun j hj => ?address,
    fun v => ⟨?zero, ?poisoned⟩⟩
  case clean => exact (wordDec_wordEnc d w w).trans (if_pos rfl)
  case data => rw [wordCovBits_wordEnc, covered_mod hd]
  case corrected => exact wordDec_wordEnc_xor_two_pow d w hk
  case correctedData => rw [wordCovBits_wordEnc_xor_two_pow d w hk, covered_mod hd]
  case two => exact wordDec_wordEnc_xor_two_bits d w w hj hk hjk
  case address => exact (wordDec_wordEnc d w _).trans (if_neg (wordTag_xor_two_pow_ne w hj).symm)
  case zero => exact wordDec_zero v
  case poisoned => exact wordDec_poisonWord w v

end Sys2Proof.Machine

namespace Sys2Proof.Machine

/-! ### The rows of the memory events (R298, R302–R308) -/

section

variable {s : State}

/-- What a transfer that ends on channel `channel` leaves: its failure with the outcome's code or with that of its first failed word, or
its result (R297, R312). -/
def transferEnd (channel : Nat) (outcome : Done) (d : Dma) (s : State) : State :=
  match doneCode outcome, dmaBad s d.pkt with
  | some code, _ =>
    failDma channel d code (match (dmaBad s d.pkt).find? fun w => wordCode w == code with | some w => wordEvent w d.ctx s | none => s)
  | none, w :: _ => failDma channel d (wordCode w) (wordEvent w d.ctx s)
  | none, [] =>
    let t := correctedWords (dmaCorrected s d.pkt) (dropDma channel s)
    if d.convert then finishConvert d.pkt d.arms t else finishCopy d.pkt t

/-- A transfer ends that neither waits at held host memory nor would complete with its islands off (R15, R482). -/
theorem exec_dmaTransferComplete_of_going {channel : Nat} {outcome : Done} {d : Dma} (hc : channel ≤ 30)
    (hd : tget s.store.dma channel = some d) (hfree : held s = false ∨ dmaHost s d = false)
    (hkeeper : keeperOn s = true ∨ (doneCode outcome).isNone = false) :
    exec (.dmaTransferComplete channel outcome) s = .next (workEnded (settle (transferEnd channel outcome d s))) := by
  have hgo : ¬(held s = true ∧ dmaHost s d = true ∨ (!keeperOn s) = true ∧ (doneCode outcome).isNone = true) := by
    rintro (⟨hheld, hhost⟩ | ⟨hoff, hok⟩)
    · rcases hfree with h | h <;> simp [h] at hheld hhost
    · rcases hkeeper with h | h <;> simp [h] at hoff hok
  show execDmaTransferComplete channel outcome s = _
  unfold execDmaTransferComplete
  rw [if_neg (Nat.not_lt.mpr hc), hd]
  dsimp only
  rw [if_neg hgo] <;> rfl

/-- A transfer that fails by itself ends with its own code, whatever words it has met (R312). -/
theorem transferEnd_of_code {channel : Nat} {outcome : Done} {d : Dma} {code : Code} (hcode : doneCode outcome = some code) :
    transferEnd channel outcome d s =
      failDma channel d code
        (match (dmaBad s d.pkt).find? (fun w => wordCode w == code) with | some w => wordEvent w d.ctx s | none => s) := by
  rw [transferEnd, hcode]

/-- The state in which a page's copy ends: a copy that ends in the safe state was the last (R407). -/
def pageCopied (s : State) : State := { s with safe.moveDone := s.safe.safeState }

/-- A page of the first move in request order moves, where no retiring channel has a frame to move; a step with no page left to move ends
(R302, R307). -/
theorem exec_memMovePageComplete_of_engine {object : Nat} {readable : Bool} {m : Move} {o : MemObj}
    (hgo : s.safe.safeState = false ∨ s.safe.moveDone = false)
    (hretire : (s.store.retiring.bind fun r => (nextMigrate (pageCopied s) r.channel).map fun x => (r, x)) = none)
    (hengine : engineObj (pageCopied s) = some object) (hm : moveOf s object = some m) (ho : tget s.store.objs object = some o) :
    exec (.memMovePageComplete (.object object) readable) s =
      match nextPage (pageCopied s) o (stepTier o m.target) with
      | some i => .next (workEnded (settle (afterPage object (movePage object i (stepTier o m.target) o (pageCopied s)))))
      | none => .next (workEnded (afterPage object (pageCopied s))) := by
  have hm' : moveOf (pageCopied s) object = some m := hm
  have ho' : tget (pageCopied s).store.objs object = some o := ho
  show execMemMovePageComplete (.object object) readable s = _
  unfold execMemMovePageComplete
  rw [if_neg (by rcases hgo with h | h <;> simp [h])]
  dsimp only [pageCopied] at *
  rw [hretire]
  dsimp only
  rw [if_neg (not_not.mpr hengine), hm', ho'] <;> rfl

/-- The frame of the retiring channel that MEM_MOVE_PAGE_COMPLETE looks up before any move (R307). -/
theorem migration_of_retiring {r : Retiring} {x : PageOwner × Nat × Nat} (hr : s.store.retiring = some r)
    (hx : nextMigrate (pageCopied s) r.channel = some x) :
    (s.store.retiring.bind fun r => (nextMigrate (pageCopied s) r.channel).map fun x => (r, x)) = some (r, x) := by
  rw [hr, Option.bind_some, hx, Option.map_some]

/-- An operation of an object's move fails, gives way after its extent, goes on with the next, or ends (R304, R305, R306). -/
theorem exec_coldTierCompletion_of_move {object : Nat} {ok : Bool} {c : ColdOp} {o : MemObj} {m : Move} (hobj : object ≠ 0)
    (hc : s.store.cold.find? (fun c => c.obj == some object) = some c) (ho : tget s.store.objs object = some o)
    (hm : moveOf s object = some m) :
    exec (.coldTierCompletion object ok) s =
      if !ok ∨ m.freeing.isSome then .next (workEnded (failColdOp object .eLowerTier s))
      else if c.done + 1 < o.pages ∧ m.stopping then .next (workEnded (pausePromote object (c.done + 1) s))
      else if c.done + 1 < o.pages then
        .next { s with store.cold := s.store.cold.map fun x => if x.obj == some object then { x with done := x.done + 1 } else x }
      else .next (workEnded (settle (if o.tier = 2 then finishPromote object o s else finishEvict object o s))) := by
  show execColdTierCompletion object ok s = _
  unfold execColdTierCompletion
  rw [if_neg hobj, hc, ho, hm]

/-- The scrubber rewrites and counts a corrected word of memory in use (R298). -/
theorem exec_patrolScrub_of_corrected {word : Nat} (hlt : word * 16 < 2 ^ 40) (hres : addrReserved (word * 16) = false)
    (huse : (match dramChannel (word * 16) with
      | some c => !chRetired s c && (dramFrame (word * 16) < 128 || thas s.store.frames (word * 16 / 65536))
      | none => decide (word * 16 < 0x1800000)) = true)
    (hword : wordAt s (word * 16) = .corrected) :
    exec (.patrolScrub word) s = .next (settled (correctedWords [word] { s with store.words := tdel s.store.words word })) := by
  refine (if_neg (Nat.not_le.mpr hlt)).trans ((if_neg (Bool.eq_false_iff.mp hres)).trans (if_pos ?_))
  exact Bool.and_eq_true_iff.mpr ⟨huse, beq_iff_eq.mpr hword⟩

end

/-- Settles O32: each clause's hypotheses decide the row's tests, and what is left is the answer that the clause writes out. -/
theorem memoryEventsComplete : Obligations.MemoryEventsComplete := by
  intro s
  refine ⟨?copied, ?badWord, ?failed, ?dmaHeld, ?migrated, ?moved, ?noPage, ?lastCopied, ?placed, ?notPlaced, ?ioEnds, ?ioHeld,
    ?operationFails, ?nextExtent, ?lastExtent, ?givesWay, ?ioLate, ?operationLate, ?ioLateHeld, ?retired, ?storeWord, ?dramWord, ?reserved⟩
  case copied =>
    intro channel d outcome hc hd hfree hbad hok hkeeper t
    rw [exec_dmaTransferComplete_of_going hc hd hfree (.inl hkeeper), transferEnd, hok, hbad]
  case badWord =>
    intro channel w ws d outcome hc hd hfree hbad hok hkeeper
    rw [exec_dmaTransferComplete_of_going hc hd hfree (.inl hkeeper), transferEnd, hok, hbad]
  case failed =>
    intro channel d outcome code hc hd hfree hcode
    rw [exec_dmaTransferComplete_of_going hc hd hfree (.inr (by rw [hcode]; rfl)), transferEnd_of_code hcode] <;> rfl
  case dmaHeld =>
    intro channel d outcome hc hd hheld hhost
    show execDmaTransferComplete channel outcome s = _
    unfold execDmaTransferComplete
    rw [if_neg (Nat.not_lt.mpr hc), hd]
    exact if_pos (.inl ⟨hheld, hhost⟩)
  case migrated =>
    intro owner i f readable r hgo hr hnext
    show execMemMovePageComplete owner readable s = _
    unfold execMemMovePageComplete
    rw [if_neg (by rcases hgo with h | h <;> simp [h])]
    have hfirst := migration_of_retiring hr hnext
    dsimp only [pageCopied] at hfirst ⊢
    rw [hfirst]
    exact if_pos rfl
  case moved =>
    intro object i readable m o hgo hretire hengine hm ho hpage
    exact (exec_memMovePageComplete_of_engine hgo hretire hengine hm ho).trans (by rw [pageCopied, hpage])
  case noPage =>
    intro object readable m o hgo hretire hengine hm ho hpage
    exact (exec_memMovePageComplete_of_engine hgo hretire hengine hm ho).trans (by rw [pageCopied, hpage])
  case lastCopied => exact fun owner readable hsafe hdone => if_pos (by rw [hsafe, hdone]; rfl)
  case placed => exact fun hsafe => congrArg Host.Outcome.next (if_neg (Bool.eq_false_iff.mp hsafe))
  case notPlaced => exact fun hsafe => congrArg Host.Outcome.next (if_pos hsafe)
  case ioEnds =>
    intro ok c hc hgo
    show execColdTierCompletion 0 ok s = _
    unfold execColdTierCompletion
    rw [if_pos rfl, hc]
    exact if_neg (Bool.eq_false_iff.mp hgo)
  case ioHeld =>
    intro ok c hc hwaits
    show execColdTierCompletion 0 ok s = _
    unfold execColdTierCompletion
    rw [if_pos rfl, hc]
    exact if_pos hwaits
  case operationFails =>
    intro object ok c o m hobj hc ho hm hfails
    exact (exec_coldTierCompletion_of_move hobj hc ho hm).trans (if_pos (by simpa using hfails))
  case nextExtent =>
    intro object c o m hobj hc ho hm hfree hdone hstop
    rw [exec_coldTierCompletion_of_move hobj hc ho hm, if_neg (by simp [hfree]), if_neg (by simp [hstop]), if_pos hdone]
  case lastExtent =>
    intro object c o m hobj hc ho hm hfree hdone
    have hlast := Nat.not_lt.mpr hdone
    rw [exec_coldTierCompletion_of_move hobj hc ho hm, if_neg (by simp [hfree]), if_neg (fun h => hlast h.1), if_neg hlast]
  case givesWay =>
    intro object c o m hobj hc ho hm hfree hdone hstop
    rw [exec_coldTierCompletion_of_move hobj hc ho hm, if_neg (by simp [hfree]), if_pos ⟨hdone, hstop⟩]
  case ioLate =>
    intro c hc hgo
    show execColdTierDeadline 0 s = _
    unfold execColdTierDeadline
    rw [if_pos rfl, hc]
    exact congrArg Host.Outcome.next (if_neg (Bool.eq_false_iff.mp hgo))
  case operationLate =>
    intro object c hobj hc
    show execColdTierDeadline object s = _
    unfold execColdTierDeadline
    rw [if_neg hobj, hc]
  case ioLateHeld =>
    intro c hc hwaits
    show execColdTierDeadline 0 s = _
    unfold execColdTierDeadline
    rw [if_pos rfl, hc]
    exact congrArg Host.Outcome.next (if_pos hwaits)
  case retired =>
    intro r hr hnone s1 s2
    show execChannelRetirementComplete s = _
    unfold execChannelRetirementComplete
    rw [hr]
    exact if_neg (by simp [hnone])
  case storeWord =>
    intro word hlt hch hres hword
    exact exec_patrolScrub_of_corrected (hlt.trans (by decide)) hres (by rw [hch]; exact decide_eq_true hlt) hword
  case dramWord =>
    intro word ch hlt hres hch hret huse hword
    exact exec_patrolScrub_of_corrected hlt hres (by rw [hch]; simp [hret, huse]) hword
  case reserved =>
    intro word hlt hres
    exact (if_neg (Nat.not_le.mpr hlt)).trans (if_pos hres)

end Sys2Proof.Machine

namespace Sys2Proof.Machine

/-! ### What the camera commands leave unchanged (R80, R332) -/

/-- `t` with those parts of `s` that serve the host side, the schedule or the cameras: CAM_ATTACH and a dropped window change the plans
bound to a window beside the cameras. -/
def cameraSideAs (s t : State) : State := { scheduleSideAs s t with cams := s.cams }

/-- From `s` to `t` only the host side, the schedule and the cameras change. -/
def SameBesideCameras (s t : State) : Prop := cameraSideAs s t = s

section

variable {s t u : State}

theorem SameBesideCameras.refl (s : State) : SameBesideCameras s s := rfl

theorem SameBesideCameras.trans (h : SameBesideCameras s t) (k : SameBesideCameras t u) : SameBesideCameras s u :=
  (congrArg (cameraSideAs s) k).trans h

theorem SameDevice.besideCameras {p : Pkt} (h : SameDevice p s t) : SameBesideCameras s t :=
  (congrArg (cameraSideAs s) h.besideSchedule :)

theorem sameBesideCameras_update (s : State) (ctxs : Tbl Ctx) (sched : Sched) (cams : Cams) :
    SameBesideCameras s { s with ctxs := ctxs, sched := sched, cams := cams } := rfl

theorem sameBesideCameras_foldl {α : Type} {f : State → α → State} (hf : ∀ t a, SameBesideCameras t (f t a)) (l : List α) (s : State) :
    SameBesideCameras s (l.foldl f s) := by
  induction l generalizing s with
  | nil => exact .refl s
  | cons a r ih => exact (hf s a).trans (ih _)

theorem SameBesideCameras.completeOk (h : SameBesideCameras s t) (p : Pkt) (w0 w1 w2 : Nat) :
    SameBesideCameras s (completeOk p w0 w1 w2 t) := h.trans (sameDevice_completeOk p w0 w1 w2 t).besideCameras

end

section

variable (s : State)

theorem sameBesideCameras_completeOk (p : Pkt) (w0 w1 w2 : Nat) : SameBesideCameras s (completeOk p w0 w1 w2 s) :=
  (SameBesideCameras.refl s).completeOk p w0 w1 w2

theorem sameBesideCameras_handOn (p : Pkt) : SameBesideCameras s (handOn p s) := (sameDevice_handOn p s).besideCameras

theorem sameBesideCameras_modCtx (h : Nat) (f : Ctx → Ctx) : SameBesideCameras s (modCtx h f s) := rfl

theorem sameBesideCameras_modCam (n : Nat) (f : Cam → Cam) : SameBesideCameras s (modCam n f s) := rfl

/-- A port that stops answers its packets that wait (R332). -/
theorem sameBesideCameras_stopCam (n : Nat) : SameBesideCameras s (stopCam n s) :=
  ((sameBesideCameras_modCam s n _).trans (sameBesideCameras_foldl (fun t p => sameBesideCameras_completeOk t p _ 0 0) _ _)).trans
    (sameBesideCameras_foldl (fun t (e : Nat × Pkt) => (sameDevice_complete e.2 .eState 0 0 0 0 t).besideCameras) _ _)

/-- A dropped window leaves its context's pages and the plans bound to it (R328). -/
theorem sameBesideCameras_dropWindow (w : Nat) : SameBesideCameras s (dropWindow w s) := by
  unfold dropWindow
  split
  · exact .refl s
  · exact sameBesideCameras_update s _ _ _

/-- A window that moves maps pages of its context (R328). -/
theorem sameBesideCameras_mapWindow (w slot : Nat) : SameBesideCameras s (mapWindow w slot s) := by
  refine (sameBesideCameras_update s _ _ _).trans (sameBesideCameras_foldl (fun t i => ?_) _ _)
  split
  · exact .refl t
  · exact sameBesideCameras_modCtx t _ _

end

/-! #### How a run ends -/

section

variable {p : Pkt} {s t : State} {chk : Option Fail} {act : State → State}

/-- A camera command whose checks meet no failed word changes no more than its effect does. -/
theorem RunEnds.sameBesideCameras (h : RunEnds p s chk act t) (hword : ∀ f, chk = some f → f.word = none)
    (hact : SameBesideCameras s (act s)) : SameBesideCameras s t := h.confined SameDevice.besideCameras hword hact

/-- Neither a dropped window nor a new one is checked against words of memory. -/
theorem chkCamWindow_word {f : Fail} (h : chkCamWindow p s = some f) : f.word = none := by
  unfold chkCamWindow at h
  dsimp only at h
  split at h
  · exact firstFails_word h
  · exact firstFails_word h

end

/-! #### The words that a camera command reads (R297) -/

section

variable (p : Pkt) (s : State)

theorem readWords_eq_correctedWords (h va n : Nat) : ∃ ws, readWords h va n s = correctedWords ws s := by
  unfold readWords
  split
  · exact ⟨[], rfl⟩
  · exact ⟨_, rfl⟩

/-- Ranges read one after the other count the words of all of them. -/
theorem foldl_readWords_eq_correctedWords {α : Type} (h : Nat) (va n : α → Nat) (l : List α) :
    ∃ ws, l.foldl (fun t i => readWords h (va i) (n i) t) s = correctedWords ws s := by
  induction l generalizing s with
  | nil => exact ⟨[], rfl⟩
  | cons i rest ih =>
    obtain ⟨ws, hws⟩ := readWords_eq_correctedWords s h (va i) (n i)
    obtain ⟨ws', hws'⟩ := ih (readWords h (va i) (n i) s)
    refine ⟨ws ++ ws', hws'.trans ?_⟩
    rw [hws]
    exact List.foldl_append.symm

/-- So do a block and the tables that its sections name (R319). -/
theorem wordsReported_readBlock {α : Type} (h va n : Nat) (tva tn : α → Nat) (l : List α) :
    WordsReported p s (l.foldl (fun t i => readWords h (tva i) (tn i) t) (readWords h va n s)) := by
  obtain ⟨ws, hws⟩ := readWords_eq_correctedWords s h va n
  obtain ⟨ws', hws'⟩ := foldl_readWords_eq_correctedWords (readWords h va n s) h tva tn l
  refine .inr (.inr ⟨ws ++ ws', hws'.trans ?_⟩)
  rw [hws]
  exact List.foldl_append.symm

/-! #### The effects -/

/-- A new owner takes the port without its windows (R328). -/
theorem sameBesideCameras_actCamAssign : SameBesideCameras s (actCamAssign p s) := by
  unfold actCamAssign
  dsimp only
  split
  · exact sameBesideCameras_completeOk s p 0 0 0
  · exact ((sameBesideCameras_foldl (fun t w => sameBesideCameras_dropWindow t w) _ s).trans
      (sameBesideCameras_modCam _ _ _)).completeOk p 0 0 0

theorem wordsReported_actCamParams : ∃ u, WordsReported p s u ∧ SameBesideCameras u (actCamParams p s) :=
  ⟨_, wordsReported_readBlock p s p.ctx (fld p 24 8) 160 _ _ (loadedSections p), (sameBesideCameras_modCam _ _ _).completeOk p _ 0 0⟩

/-- The windows of the port leave the old ring and move onto the new one (R321). -/
theorem sameBesideCameras_actCamOutput : SameBesideCameras s (actCamOutput p s) :=
  (((sameBesideCameras_foldl (fun t _ => sameBesideCameras_modCtx t _ _) _ s).trans (sameBesideCameras_modCam _ _ _)).trans
    (sameBesideCameras_foldl (fun t w => sameBesideCameras_mapWindow t w 0) _ _)).completeOk p _ 0 0

/-- With a frame in progress the packet waits for its end (R332). -/
theorem sameBesideCameras_actCamStop : SameBesideCameras s (actCamStop p s) := by
  unfold actCamStop
  dsimp only
  split
  · exact (sameBesideCameras_modCam s _ _).trans (sameBesideCameras_stopCam _ _)
  · exact (sameBesideCameras_modCam s _ _).trans (sameBesideCameras_handOn _ p)

theorem sameBesideCameras_actCamWindow : SameBesideCameras s (actCamWindow p s) := by
  unfold actCamWindow
  split
  · exact (sameBesideCameras_dropWindow s _).completeOk p _ 0 0
  · exact ((sameBesideCameras_update s _ _ _).trans (sameBesideCameras_mapWindow _ _ 0)).completeOk p _ 0 0

/-- Without a slot of the frame asked for, the packet waits (R332). -/
theorem sameBesideCameras_actCamWait : SameBesideCameras s (actCamWait p s) := by
  unfold actCamWait
  dsimp only
  split
  · exact (sameDevice_complete p _ _ _ _ _ s).besideCameras
  · exact (sameBesideCameras_modCam s _ _).trans (sameBesideCameras_handOn _ p)

/-- A null address reads no curve (R331). -/
theorem wordsReported_actCamPresence : ∃ u, WordsReported p s u ∧ SameBesideCameras u (actCamPresence p s) := by
  refine ⟨_, ?_, (sameBesideCameras_update _ _ _ _).completeOk p 0 0 0⟩
  split
  · exact .inl rfl
  · exact wordsReported_readWords p _ _ _ s

end

/-- The command reads words of memory, as its checks do. -/
def ReadsCameraWords (p : Pkt) (c : Instr) : Prop := c = .camParams p ∨ c = .camPresence p

/-- A camera command is confined to the host side, the schedule and the cameras, once the words that a reading one meets are reported. -/
theorem cameraSide_of_next {p : Pkt} {c : Instr} {s t : State}
    (hc : c = .camQuery p ∨ c = .camAssign p ∨ c = .camPort p ∨ c = .camParams p ∨ c = .camOutput p ∨ c = .camStart p ∨
      c = .camStop p ∨ c = .camPower p ∨ c = .camSync p ∨ c = .camWindow p ∨ c = .camAttach p ∨ c = .camWait p ∨
      c = .camPresence p) (h : exec c s = .next t) :
    SameBesideCameras s t ∨ ReadsCameraWords p c ∧ ∃ u, WordsReported p s u ∧ SameBesideCameras u t := by
  rcases hc with rfl | rfl | rfl | rfl | rfl | rfl | rfl | rfl | rfl | rfl | rfl | rfl | rfl
  · exact .inl ((runEnds_of_runCmd h).sameBesideCameras (fun _ => firstFails_word) (sameBesideCameras_completeOk s p _ _ _))
  · exact .inl ((runEnds_of_runCmd h).sameBesideCameras (fun _ => firstFails_word) (sameBesideCameras_actCamAssign p s))
  · exact .inl ((runEnds_of_runCmd h).sameBesideCameras (fun _ => firstFails_word) ((sameBesideCameras_modCam s _ _).completeOk p 0 0 0))
  · exact .inr ⟨.inl rfl, (runEnds_of_runHost h).confined_of_words SameDevice.besideCameras (wordsReported_actCamParams p s)⟩
  · exact .inl ((runEnds_of_runCmd h).sameBesideCameras (fun _ => firstFails_word) (sameBesideCameras_actCamOutput p s))
  · exact .inl ((runEnds_of_runCmd h).sameBesideCameras (fun _ => firstFails_word) ((sameBesideCameras_modCam s _ _).completeOk p 0 0 0))
  · exact .inl ((runEnds_of_runCmd h).sameBesideCameras (fun _ => firstFails_word) (sameBesideCameras_actCamStop p s))
  · exact .inl ((runEnds_of_runCmd h).sameBesideCameras (fun _ => firstFails_word) ((sameBesideCameras_modCam s _ _).completeOk p 0 0 0))
  · exact .inl ((runEnds_of_runCmd h).sameBesideCameras (fun _ => firstFails_word) ((sameBesideCameras_modCam s _ _).completeOk p 0 0 0))
  · exact .inl ((runEnds_of_runCmd h).sameBesideCameras (fun _ => chkCamWindow_word) (sameBesideCameras_actCamWindow p s))
  · exact .inl ((runEnds_of_runCmd h).sameBesideCameras (fun _ => firstFail_word) ((sameBesideCameras_update s _ _ _).completeOk p 0 0 0))
  · exact .inl ((runEnds_of_runCmd h).sameBesideCameras (fun _ => firstFails_word) (sameBesideCameras_actCamWait p s))
  · exact .inr ⟨.inr rfl, (runEnds_of_runHost h).confined_of_words SameDevice.besideCameras (wordsReported_actCamPresence p s)⟩

/-- Settles O43: such a command is confined to the host side, the schedule and the cameras of the state that reports its words, and a
report reaches beside them only the global registers, the safety state and the pins. -/
theorem cameraCommandsFrame : Obligations.CameraCommandsFrame := by
  intro p c s t hc h
  obtain ⟨u, hu, hw, hs⟩ : ∃ u, (u = s ∨ (ReadsCameraWords p c ∧ ∃ w, u = wordEvent w p.ctx s) ∨
      (ReadsCameraWords p c ∧ ∃ ws, u = correctedWords ws s)) ∧ SameBesideWordReport s u ∧ SameBesideCameras u t := by
    obtain hs | ⟨hr, u, hu, hs⟩ := cameraSide_of_next hc h
    · exact ⟨s, .inl rfl, .refl s, hs⟩
    · exact ⟨u, hu.imp id (.imp (.intro hr) (.intro hr)), hu.besideWordReport, hs⟩
  have same {α : Type} (f : State → α) (ht : f (cameraSideAs u t) = f t) (hu : f (wordReportAs s u) = f u) : f t = f s :=
    ht.symm.trans ((congrArg f hs).trans (hu.symm.trans (congrArg f hw)))
  exact ⟨same State.pending rfl rfl, same State.casc rfl rfl, same State.reel rfl rfl, same State.models rfl rfl,
    same State.audio rfl rfl, same State.time rfl rfl, same State.net rfl rfl, same State.power rfl rfl, same State.boot rfl rfl,
    same State.freeCtr rfl rfl, u, hu, (congrArg State.glb hs :), (congrArg State.safe hs :), (congrArg State.pins hs :)⟩

/-! ### The privacy gates (R68, R329, R349) -/

section

variable {s : State} {p : Pkt} {n : Nat}

theorem camReceives_of_gate (hg : s.cams.gate = true) : camReceives s n = false := by
  simp [camReceives, hg]

/-- A port whose receiver is off takes no packet, whatever the row would do with it (R316, R329). -/
theorem portRow_of_notReceiving {r : Res} (hn : n ≤ 11) (hr : camReceives s n = false) :
    (if 11 < n then .fault .noSuchUnit else if !camReceives s n then .next s else r) = .next s := by
  rw [if_neg (Nat.not_lt.mpr hn), hr]
  rfl

/-- A port that receives runs the rest of its row. -/
theorem portRow_of_receiving {r : Res} (hn : n ≤ 11) (hr : camReceives s n = true) :
    (if 11 < n then .fault .noSuchUnit else if !camReceives s n then .next s else r) = r := by
  rw [if_neg (Nat.not_lt.mpr hn), hr]
  rfl

@[simp] theorem camOf_completeOk (w0 w1 w2 : Nat) (s : State) : camOf (completeOk p w0 w1 w2 s) n = camOf s n := by
  unfold camOf
  rw [(sameDevice_completeOk p w0 w1 w2 s).cams]

/-- CAM_POWER sets the wanted level alone while the gate holds (R329). -/
theorem pwrEn_actCamPower_of_gate (hg : s.cams.gate = true) : (camOf (actCamPower p s) (pPort p)).pwrEn = false := by
  unfold actCamPower
  rw [camOf_completeOk, camOf_modCam_self]
  exact if_pos hg

@[simp] theorem glbEvent_audio (k : Nat) (s : State) : (glbEvent k s).audio = s.audio := (congrArg State.audio (glbEvent_frame k s) :)

@[simp] theorem glbEvent_pins (k : Nat) (s : State) : (glbEvent k s).pins = s.pins := (congrArg State.pins (glbEvent_frame k s) :)

/-- The microphone outputs are inactive while the gate holds, whichever paths run (R349). -/
theorem micPins_of_gate (hg : s.audio.gate = true) :
    (micPins s).pins.pdm0 = false ∧ (micPins s).pins.pdm1 = false ∧ (micPins s).pins.micPwr = false := by
  simp [micPins, hg]

end

/-- Settles O57: a gated camera port does not receive, CAM_POWER tests the gate, and the asserted microphone gate sets the outputs anew. -/
theorem privacyGatesHold : Obligations.PrivacyGatesHold := by
  intro s
  refine ⟨fun hg => ⟨fun n vc ecc hn => ⟨?frameStart, ?frameEnd⟩, fun l hn => ?line, fun p t hp hc ht => ?power⟩, fun hpin => ?mic⟩
  case frameStart | frameEnd | line => exact portRow_of_notReceiving hn (camReceives_of_gate hg)
  case power =>
    have hact : exec (.camPower p) s = .next (actCamPower p s) := exec_of_runCmd hp hc rfl
    cases hact.symm.trans ht
    exact pwrEn_actCamPower_of_gate hg
  case mic =>
    refine ⟨_, if_neg (Bool.eq_false_iff.mp hpin), ?_⟩
    rw [glbEvent_audio, glbEvent_pins]
    exact ⟨rfl, micPins_of_gate rfl⟩

/-! ### The rows of the camera events (R316, R322, R329, R330, R332) -/

/-- A header that is not beyond correction is sound or has been corrected (R316). -/
theorem ecc_good_or_corrected {ecc : CsiEcc} (h : ecc ≠ .bad) : ecc = .good ∨ ecc = .corrected := by
  cases ecc with
  | good => exact .inl rfl
  | corrected => exact .inr rfl
  | bad => exact absurd rfl h

/-- Settles O33: each clause's hypotheses decide the row's tests, and what is left is the answer that the clause writes out. -/
theorem cameraEventsComplete : Obligations.CameraEventsComplete := by
  intro s
  refine ⟨?startBadHeader, ?startOtherChannel, ?start, ?lineBadHeader, ?embeddedLine, ?imageLine, ?lineOtherType, ?frameEnd,
    ?frameEndCorrected, ?frameEndBadHeader, ?slot, ?slotTooEarly, ?interval, ?muted, ?gateAsserted, ?gateReleased⟩
  case startBadHeader => exact fun port vc hn hr => portRow_of_receiving hn hr
  case startOtherChannel =>
    intro port vc ecc hn hr hecc hvc
    refine (portRow_of_receiving hn hr).trans ?_
    obtain rfl | rfl := ecc_good_or_corrected hecc
    · exact if_pos hvc
    · exact if_pos hvc
  case start =>
    intro port vc ecc hn hr hvc hecc hstate s1 now cfg early s3 s4
    refine (portRow_of_receiving hn hr).trans ?_
    obtain rfl | rfl := ecc_good_or_corrected hecc
    · exact (if_neg (not_not.mpr hvc)).trans (if_neg (not_not.mpr hstate))
    · exact (if_neg (not_not.mpr hvc)).trans (if_neg (not_not.mpr hstate))
  case lineBadHeader =>
    exact fun l hn hr hecc => (portRow_of_receiving hn hr).trans (if_pos hecc)
  case embeddedLine =>
    exact fun l hn hr hecc hvc hdt hemb => (portRow_of_receiving hn hr).trans ((if_neg hecc).trans
      ((if_neg (not_not.mpr hvc)).trans (if_pos ⟨hdt, hemb⟩)))
  case imageLine =>
    exact fun l hn hr hecc hvc hemb hdt => (portRow_of_receiving hn hr).trans ((if_neg hecc).trans
      ((if_neg (not_not.mpr hvc)).trans ((if_neg hemb).trans (if_neg (not_not.mpr hdt)))))
  case lineOtherType =>
    exact fun l hn hr hecc hvc hemb hdt => (portRow_of_receiving hn hr).trans ((if_neg hecc).trans
      ((if_neg (not_not.mpr hvc)).trans ((if_neg hemb).trans (if_pos hdt))))
  case frameEnd | frameEndCorrected =>
    exact fun port vc hn hr hvc => (portRow_of_receiving hn hr).trans (if_neg (not_not.mpr hvc))
  case frameEndBadHeader => exact fun port vc hn hr => portRow_of_receiving hn hr
  case slot =>
    intro port f rest hn hfin
    refine (if_neg (Nat.not_lt.mpr hn)).trans ?_
    rw [hfin]
  case slotTooEarly =>
    intro port f hn hfin hf
    refine (if_neg (Nat.not_lt.mpr hn)).trans ?_
    rw [hfin]
    dsimp only
    rw [hf]
  case interval =>
    exact fun port hn hr hmax => (if_neg (Nat.not_lt.mpr hn)).trans (if_neg (by simp [hr, hmax]))
  case muted =>
    exact fun port hn hg hstate hsync => (if_neg (Nat.not_lt.mpr hn)).trans (if_neg (by simp [hg, hstate, hsync]))
  case gateAsserted => exact fun hpin => if_neg (Bool.eq_false_iff.mp hpin)
  case gateReleased => exact fun hpin => if_neg (by simp [hpin])

end Sys2Proof.Machine

namespace Sys2Proof.Machine

/-! ### What the audio commands leave unchanged (R80, R342, R345, R347, R352) -/

/-- `t` with those parts of `s` that serve the host side or the audio. -/
def audioSideAs (s t : State) : State := { hostSideAs s t with audio := s.audio }

/-- From `s` to `t` only the host side and the audio block change. -/
def SameBesideAudio (s t : State) : Prop := audioSideAs s t = s

section

variable {s t u : State}

theorem SameBesideAudio.refl (s : State) : SameBesideAudio s s := rfl

theorem SameBesideAudio.trans (h : SameBesideAudio s t) (k : SameBesideAudio t u) : SameBesideAudio s u :=
  (congrArg (audioSideAs s) k).trans h

theorem SameBesideHostSide.besideAudio (h : SameBesideHostSide s t) : SameBesideAudio s t := (congrArg (audioSideAs s) h :)

theorem SameDevice.besideAudio {p : Pkt} (h : SameDevice p s t) : SameBesideAudio s t := h.besideHostSide.besideAudio

theorem sameBesideAudio_update (s : State) (audio : Audio) : SameBesideAudio s { s with audio := audio } := rfl

theorem sameBesideAudio_modI2s (n : Nat) (f : I2s → I2s) (s : State) : SameBesideAudio s (modI2s n f s) := rfl

theorem sameBesideAudio_ite {c : Prop} [Decidable c] (ht : SameBesideAudio s t) (hu : SameBesideAudio s u) :
    SameBesideAudio s (if c then t else u) := by
  split
  · exact ht
  · exact hu

theorem SameBesideAudio.completeOk (h : SameBesideAudio s t) (p : Pkt) (w0 w1 w2 : Nat) : SameBesideAudio s (completeOk p w0 w1 w2 t) :=
  h.trans (sameDevice_completeOk p w0 w1 w2 t).besideAudio

theorem SameBesideAudio.handOn (h : SameBesideAudio s t) (p : Pkt) : SameBesideAudio s (handOn p t) :=
  h.trans (sameDevice_handOn p t).besideAudio

end

/-! #### How a run ends -/

section

variable {p : Pkt} {s t : State} {chk : Option Fail} {act : State → State}

/-- An audio command whose checks meet no failed word changes no more than its effect does. -/
theorem RunEnds.sameBesideAudio (h : RunEnds p s chk act t) (hword : ∀ f, chk = some f → f.word = none)
    (hact : SameBesideAudio s (act s)) : SameBesideAudio s t := h.confined SameDevice.besideAudio hword hact

/-- Neither a ring that is released nor one that is set up is checked against words of memory. -/
theorem chkAudCapture_word {f : Fail} (h : chkAudCapture p s = some f) : f.word = none := by
  unfold chkAudCapture at h
  dsimp only at h
  split at h
  · exact firstFail_word h
  · exact firstFails_word h

/-- Nor is a playback that stops or starts. -/
theorem chkAudPlay_word {f : Fail} (h : chkAudPlay p s = some f) : f.word = none := by
  unfold chkAudPlay at h
  dsimp only at h
  split at h
  · exact firstFail_word h
  · exact firstFails_word h

/-- A run that is confined, or confined once the words that a reading command meets are reported, is confined to what the state with its
reports leaves. -/
theorem exists_reported_of_confined {R : State → State → Prop} {reads : Prop}
    (h : R s t ∨ reads ∧ ∃ u, WordsReported p s u ∧ R u t) :
    ∃ u, (u = s ∨ (reads ∧ ∃ w, u = wordEvent w p.ctx s) ∨ (reads ∧ ∃ ws, u = correctedWords ws s)) ∧ SameBesideWordReport s u ∧ R u t := by
  obtain hs | ⟨hr, u, hu, hs⟩ := h
  · exact ⟨s, .inl rfl, .refl s, hs⟩
  · exact ⟨u, hu.imp id (.imp (.intro hr) (.intro hr)), hu.besideWordReport, hs⟩

end

/-! #### The effects -/

section

variable (p : Pkt) (s : State)

/-- A unit given to the context that owns it stays as it is (R352). -/
theorem sameBesideAudio_actAudAssign : SameBesideAudio s (actAudAssign p s) :=
  (sameBesideAudio_ite (sameBesideAudio_update s _) (sameBesideAudio_ite (.refl s) (sameBesideAudio_modI2s _ _ s))).completeOk p 0 0 0

theorem wordsReported_actAudLp : ∃ u, WordsReported p s u ∧ SameBesideAudio u (actAudLp p s) :=
  ⟨_, wordsReported_readWords p p.ctx (fld p 16 8) 64 s, (sameBesideAudio_update _ _).completeOk p 0 0 0⟩

theorem wordsReported_actAudBeam : ∃ u, WordsReported p s u ∧ SameBesideAudio u (actAudBeam p s) :=
  ⟨_, wordsReported_readWords p p.ctx (fld p 24 8) 64 s, (sameBesideAudio_update _ _).completeOk p 0 0 0⟩

/-- With no channels the ring is released, otherwise it is set up (R342). -/
theorem sameBesideAudio_actAudCapture : SameBesideAudio s (actAudCapture p s) :=
  sameBesideAudio_ite ((sameBesideAudio_update s _).completeOk p 0 0 0) ((sameBesideAudio_update s _).completeOk p _ 0 0)

/-- A playback that starts clears the counts of its control area in memory (R347, R348). -/
theorem sameBesideAudio_actAudPlay : SameBesideAudio s (actAudPlay p s) :=
  sameBesideAudio_ite ((sameBesideAudio_modI2s _ _ s).completeOk p _ 0 0)
    (((sameBesideHostSide_vwrite _ _ _ s).besideAudio.trans (sameBesideAudio_modI2s _ _ _)).completeOk p _ 0 0)

/-- Without the block asked for, the packet waits in its ring (R352). -/
theorem sameBesideAudio_actAudWait : SameBesideAudio s (actAudWait p s) := by
  unfold actAudWait
  dsimp only
  split
  · exact .refl s
  · exact sameBesideAudio_ite (sameDevice_complete p _ _ _ _ _ s).besideAudio ((sameBesideAudio_update s _).handOn p)

end

/-- The command reads a record of memory, as its checks do. -/
def ReadsAudioRecord (p : Pkt) (c : Instr) : Prop := c = .audLp p ∨ c = .audBeam p

/-- An audio command is confined to the host side and the audio block, once the words that a reading one meets are reported. -/
theorem audioSide_of_next {p : Pkt} {c : Instr} {s t : State}
    (hc : c = .audQuery p ∨ c = .audAssign p ∨ c = .audClock p ∨ c = .audLp p ∨ c = .audBeam p ∨ c = .audCapture p ∨
      c = .audStart p ∨ c = .audStop p ∨ c = .audI2s p ∨ c = .audPlay p ∨ c = .audWait p) (h : exec c s = .next t) :
    SameBesideAudio s t ∨ ReadsAudioRecord p c ∧ ∃ u, WordsReported p s u ∧ SameBesideAudio u t := by
  rcases hc with rfl | rfl | rfl | rfl | rfl | rfl | rfl | rfl | rfl | rfl | rfl
  · exact .inl ((runEnds_of_runCmd (chk := none) (act := actAudQuery p) h).sameBesideAudio nofun ((SameBesideAudio.refl s).completeOk p _ _ _))
  · exact .inl ((runEnds_of_runCmd h).sameBesideAudio (fun _ => firstFail_word) (sameBesideAudio_actAudAssign p s))
  · exact .inl ((runEnds_of_runCmd h).sameBesideAudio (fun _ => firstFail_word) ((sameBesideAudio_update s _).completeOk p 0 0 0))
  · exact .inr ⟨.inl rfl, (runEnds_of_runHost h).confined_of_words SameDevice.besideAudio (wordsReported_actAudLp p s)⟩
  · exact .inr ⟨.inr rfl, (runEnds_of_runHost h).confined_of_words SameDevice.besideAudio (wordsReported_actAudBeam p s)⟩
  · exact .inl ((runEnds_of_runCmd h).sameBesideAudio (fun _ => chkAudCapture_word) (sameBesideAudio_actAudCapture p s))
  · exact .inl ((runEnds_of_runCmd h).sameBesideAudio (fun _ => firstFails_word) ((sameBesideAudio_update s _).completeOk p 0 0 0))
  · exact .inl ((runEnds_of_runCmd h).sameBesideAudio (fun _ => firstFails_word) ((sameBesideAudio_update s _).handOn p))
  · exact .inl ((runEnds_of_runCmd h).sameBesideAudio (fun _ => firstFail_word) ((sameBesideAudio_modI2s _ _ s).completeOk p 0 0 0))
  · exact .inl ((runEnds_of_runHost (host := false) h).sameBesideAudio (fun _ => chkAudPlay_word) (sameBesideAudio_actAudPlay p s))
  · exact .inl ((runEnds_of_runCmd h).sameBesideAudio (fun _ => firstFails_word) (sameBesideAudio_actAudWait p s))

/-- Settles O44: such a command is confined to the host side and the audio block of the state that reports its words, and a report
reaches beside them only the global registers, the safety state and the pins. -/
theorem audioCommandsFrame : Obligations.AudioCommandsFrame := by
  intro p c s t hc h
  obtain ⟨u, hu, hw, hs⟩ := exists_reported_of_confined (audioSide_of_next hc h)
  have same {α : Type} (f : State → α) (ht : f (audioSideAs u t) = f t) (hu : f (wordReportAs s u) = f u) : f t = f s :=
    ht.symm.trans ((congrArg f hs).trans (hu.symm.trans (congrArg f hw)))
  exact ⟨same State.pending rfl rfl, same State.casc rfl rfl, same State.reel rfl rfl, same State.sched rfl rfl,
    same State.models rfl rfl, same State.cams rfl rfl, same State.time rfl rfl, same State.net rfl rfl, same State.power rfl rfl,
    same State.boot rfl rfl, same State.freeCtr rfl rfl, u, hu, (congrArg State.glb hs :), (congrArg State.safe hs :),
    (congrArg State.pins hs :)⟩

/-! ### The rows of the audio events (R344, R346, R347, R348, R349) -/

section

variable {s : State} {n : Nat} {g : Play}

/-- PLAYBACK_BLOCK_FETCH of a port whose ring runs: it stops after the LAST block, fetches nothing while it outputs nothing or its ring is
held, and plays the head or zeros otherwise. -/
theorem exec_playbackBlockFetch_of_running (hn : n ≤ 1) (hplay : (i2sOf s n).play = some g) (hrun : g.running = true) :
    exec (.playbackBlockFetch n) s =
      if g.last then .next (modI2s n (fun q => { q with play := some { g with running := false } }) (elapseTo g.point s))
      else if (i2sOf s n).lost || s.safe.safeState || (held s && rangeHost s (i2sOf s n).owner g.addr 64) then .next s
      else .next (
        let s1 := elapseTo (g.point - 1000000) s
        if num (vread s1 (i2sOf s n).owner g.addr 4) 0 4 = g.head then playZeros n (i2sOf s n) g s1
        else playBlock n (i2sOf s n) g s1) := by
  show execPlaybackBlockFetch n s = _
  unfold execPlaybackBlockFetch
  rw [if_neg (Nat.not_lt.mpr hn)]
  dsimp only
  rw [hplay]
  dsimp only
  rw [hrun]
  rfl

end

/-- Settles O34: each clause's hypotheses decide the row's tests, and what is left is the answer that the clause writes out. -/
theorem audioEventsComplete : Obligations.AudioEventsComplete := by
  intro s
  refine ⟨?blockEnd, ?fetch, ?fetchAfterLast, ?clockLoss, ?clockResume, ?gateAsserted, ?gateReleased⟩
  case blockEnd => exact fun b => rfl
  case fetch =>
    intro port g hn hplay hrun hlost hsafe hlast hheld s1
    rw [exec_playbackBlockFetch_of_running hn hplay hrun, if_neg (Bool.eq_false_iff.mp hlast), hlost, hsafe, hheld]
    rfl
  case fetchAfterLast =>
    exact fun port g hn hplay hrun hlast => (exec_playbackBlockFetch_of_running hn hplay hrun).trans (if_pos hlast)
  case clockLoss =>
    exact fun port hn htarget hlost => (if_neg (Nat.not_lt.mpr hn)).trans (if_pos (by rw [htarget, hlost]; rfl))
  case clockResume => exact fun port hn hlost => (if_neg (Nat.not_lt.mpr hn)).trans (if_pos hlost)
  case gateAsserted => exact fun hpin => if_neg (Bool.eq_false_iff.mp hpin)
  case gateReleased => exact fun hpin => if_neg (by simp [hpin])

end Sys2Proof.Machine

namespace Sys2Proof.Machine

/-! ### One step: the front command, and the counts that no step lowers (R274, R443) -/

/-- Settles O1: a step's match on its queue takes the front command. -/
theorem stepRunsFrontCommand : Obligations.StepRunsFrontCommand := fun _ _ _ => rfl

/-- Settles O6: the invariant `State.inv`, met with the state's own counts as its floors, passes through every row and every tick. -/
theorem stepNeverLowersFloors : Obligations.StepNeverLowersFloors := by
  intro s t hs ht
  obtain ⟨-, -, -, -, habove⟩ := inv_of_step (inv_floors_of_wf hs) ht
  exact habove

end Sys2Proof.Machine

namespace Sys2Proof.Machine

/-! ### The rows of the time and event channel events (R358, R359, R362, R369, R370) -/

section

variable {c : Bool} {r r' : Res}

/-- A row that runs where its one test holds. -/
theorem guardedRow_of_holds (h : c = true) : (if !c then r else r') = r' := by
  rw [h]
  rfl

end

/-- Settles O35: each clause's hypotheses decide the row's tests, and what is left is the answer that the clause writes out. -/
theorem timekeeperEventsComplete : Obligations.TimekeeperEventsComplete := by
  intro s
  refine ⟨?trigger, ?edgeLost, ?edge, ?sync, ?syncOfAnother, ?announce, ?delay, ?request, ?receipt, ?revert, ?pulse, ?fsync⟩
  case trigger =>
    exact fun n hn hon hmode harm => (if_neg (Nat.not_lt.mpr hn)).trans (if_pos (by simp [hon, hmode, harm]))
  case edgeLost =>
    exact fun n rising time hn hon htakes hlost => (if_neg (Nat.not_lt.mpr hn)).trans
      ((guardedRow_of_holds (by rw [hon, htakes]; rfl)).trans (if_pos hlost))
  case edge =>
    exact fun n rising time hn hon htakes hlost => (if_neg (Nat.not_lt.mpr hn)).trans
      ((guardedRow_of_holds (by rw [hon, htakes]; rfl)).trans (if_neg (Bool.eq_false_iff.mp hlost)))
  case sync =>
    exact fun m hd hp hf => (if_neg (by omega)).trans (guardedRow_of_holds hf)
  case syncOfAnother =>
    exact fun m hd hp hf => (if_neg (by omega)).trans (if_pos (by rw [hf]; rfl))
  case announce =>
    exact fun d n timeout gm hd hn hhears => (if_neg (by omega)).trans (guardedRow_of_holds hhears)
  case delay | request =>
    exact fun n x hn hon hup => (if_neg (Nat.not_lt.mpr hn)).trans (guardedRow_of_holds (by rw [hon, hup]; rfl))
  case receipt =>
    exact fun d hd hstate => (if_neg (Nat.not_lt.mpr hd)).trans (if_neg (Nat.not_lt.mpr hstate))
  case revert =>
    exact fun hrev hforced hsel hother hlocked => if_pos (by simp [hrev, hforced, hsel, hother, hlocked])
  case pulse =>
    intro n hn hpulse
    refine (if_neg (by simpa using hn)).trans ?_
    dsimp only
    rw [if_pos hpulse]
  case fsync =>
    intro n hn hfsync
    refine (if_neg (by simpa using hn)).trans ?_
    dsimp only
    rw [if_pos hfsync]

/-! ### The rows of the Ethernet and Gweug events (R355, R357, R373, R378, R379, R380) -/

section

variable {s : State}

/-- A frame that reaches a live port with a good check sequence is taken or dropped by its size and address (R355). -/
theorem exec_ethFrameReceive_of_sound {f : EthFrame} (hn : f.port ≤ 1) (hlive : ethLive s f.port = true) (hkind : f.kind ≠ .badFcs) :
    exec (.ethFrameReceive f) s = .next (if frameFits (ethOf (elapseTo f.time s) f.port) f then deliverFrame f (elapseTo f.time s)
      else dropFrame f.port (elapseTo f.time s)) := by
  refine (if_neg (Nat.not_lt.mpr hn)).trans ((guardedRow_of_holds hlive).trans ?_)
  cases hk : f.kind with
  | badFcs => exact absurd hk hkind
  | _ => rfl

end

/-- Settles O36: each clause's hypotheses decide the row's tests, and what is left is the answer that the clause writes out. -/
theorem networkEventsComplete : Obligations.NetworkEventsComplete := by
  intro s
  refine ⟨?received, ?badFcs, ?unfit, ?departed, ?departedGptp, ?linkUp, ?linkDown, ?unresolved, ?hello, ?reply, ?finish, ?offer,
    ?answer, ?data, ?ack, ?close, ?ackTimer, ?retransmit, ?sendDeadline, ?receiveDeadline, ?idle⟩
  case received =>
    exact fun f hn hlive hkind hfits => (exec_ethFrameReceive_of_sound hn hlive hkind).trans (by rw [if_pos hfits])
  case badFcs =>
    intro f hn hlive hkind s1
    refine (if_neg (Nat.not_lt.mpr hn)).trans ((guardedRow_of_holds hlive).trans ?_)
    rw [hkind]
  case unfit =>
    exact fun f hn hlive hkind hfits => (exec_ethFrameReceive_of_sound hn hlive hkind).trans (by rw [if_neg (Bool.eq_false_iff.mp hfits)])
  case departed =>
    intro n time x hn hlive hgptp hx s0 td data sum s1 s3
    refine (if_neg (Nat.not_lt.mpr hn)).trans ((guardedRow_of_holds hlive).trans ?_)
    rw [hgptp, hx]
  case departedGptp =>
    intro n time g rest hn hlive hgptp
    refine (if_neg (Nat.not_lt.mpr hn)).trans ((guardedRow_of_holds hlive).trans ?_)
    rw [hgptp]
  case linkUp =>
    exact fun n hn hen hret hon hup => (if_neg (Nat.not_lt.mpr hn)).trans ((if_neg (by simp [hen, hret, hon, hup])).trans rfl)
  case linkDown =>
    exact fun n hn hen hret hon hup => (if_neg (Nat.not_lt.mpr hn)).trans ((if_neg (by simp [hen, hret, hon, hup])).trans rfl)
  case unresolved => exact fun n ip hn => if_neg (Nat.not_lt.mpr hn)
  case hello | reply | finish =>
    intro m htype
    show execGwHandshakeMessage m s = _
    unfold execGwHandshakeMessage
    rw [htype]
    rfl
  case offer | answer | data | ack | close =>
    intro m id hid
    show gwTake m _ _ s = _
    unfold gwTake
    rw [hid]
  case ackTimer =>
    intro session transfer x hx hunacked
    show execGwAckTimer session transfer s = _
    unfold execGwAckTimer
    rw [hx]
    dsimp only
    rw [if_neg hunacked]
  case retransmit =>
    intro session transfer chunk x hx hphase hsent hacked hbit s1
    show execGwChunkRetransmit session transfer chunk s = _
    unfold execGwChunkRetransmit
    rw [hx]
    refine if_neg ?_
    rintro (hother | hbeyond | hcovered)
    · exact hother hphase
    · exact absurd hsent (Nat.not_lt.mpr hbeyond)
    · simp only [Bool.or_eq_true, Bool.and_eq_true, decide_eq_true_eq] at hcovered
      exact hcovered.elim (Nat.not_lt.mpr hacked) hbit
  case sendDeadline =>
    intro session transfer x hx
    show execGwTransferDeadline session transfer true s = _
    unfold execGwTransferDeadline
    rw [if_pos rfl, hx]
  case receiveDeadline =>
    intro session transfer x hx
    show execGwTransferDeadline session transfer false s = _
    unfold execGwTransferDeadline
    rw [if_neg Bool.false_ne_true, hx]
  case idle =>
    intro session q hq
    show execGwSessionIdleTimeout session s = _
    unfold execGwSessionIdleTimeout
    rw [hq]

/-! ### The rows of the power events (R413, R415, R418, R419, R425, R427, R428, R429) -/

section

variable {s : State}

/-- The end of a power state's move from Run or Trim (R429). -/
theorem exec_powerStateMoveComplete_of_high {m : PMove} (hm : s.power.move = some m)
    (hstate : s.power.state = .run ∨ s.power.state = .trim) :
    exec .powerStateMoveComplete s =
      if m.target ≠ .moor ∨ !moorReady s then .next (keepHq { s with power.move := none })
      else if s.reel.source = 2 then .next (leaveHq s)
      else .next (enterMoor s) := by
  show execPowerStateMoveComplete s = _
  unfold execPowerStateMoveComplete
  rw [hm]
  exact if_pos hstate

end

/-- Settles O38: each clause's hypotheses decide the row's tests, and what is left is the answer that the clause writes out. -/
theorem powerEventsComplete : Obligations.PowerEventsComplete := by
  intro s
  refine ⟨?enterDeadline, ?moorEntry, ?dormant, ?i2c, ?perst, ?wake, ?throttled, ?unthrottled, ?kept, ?thermalCap, ?trip, ?tripRelease,
    ?toMoor, ?toMoorHq, ?staysHigh, ?viaMoor, ?low⟩
  case enterDeadline =>
    intro a t henter
    show execPwrEnterDeadline s = _
    unfold execPwrEnterDeadline
    rw [henter]
  case moorEntry => exact fun hready hmove => if_pos (by rw [hready, hmove]; rfl)
  case dormant =>
    exact fun hstate hmove hfloor hdelay => if_pos ⟨hstate, by rw [hmove]; rfl, hfloor, hdelay⟩
  case i2c => exact fun address argument harmed hon haddr => if_neg (by simp [harmed, hon, haddr])
  case perst => rfl
  case wake => exact fun harmed hflag hdriven => if_pos (by rw [harmed, hflag, hdriven]; rfl)
  case throttled =>
    intro power roomed t hon s1 hover ht
    refine (guardedRow_of_holds hon).trans ?_
    rw [if_pos hover, ht]
  case unthrottled =>
    intro power roomed t hon s1 hunder hroom ht
    refine (guardedRow_of_holds hon).trans ?_
    rw [if_neg (Nat.not_lt.mpr hunder), if_pos hroom, ht]
  case kept =>
    intro power roomed hon s1 hunder hfull
    refine (guardedRow_of_holds hon).trans ?_
    rw [if_neg (Nat.not_lt.mpr hunder), if_neg (Nat.not_le.mpr hfull)]
  case thermalCap => exact fun others panels hon => guardedRow_of_holds hon
  case trip =>
    exact fun hottest hhot htripped => if_neg (by simp [htripped, hhot])
  case tripRelease =>
    exact fun hottest hcool htripped => if_neg (not_or.mpr ⟨Int.not_le.mpr hcool, by rw [htripped]; exact Bool.false_ne_true⟩)
  case toMoor =>
    exact fun m hm hstate htarget hready hsource => (exec_powerStateMoveComplete_of_high hm hstate).trans
      ((if_neg (by simp [htarget, hready])).trans (if_neg hsource))
  case toMoorHq =>
    exact fun m hm hstate htarget hready hsource => (exec_powerStateMoveComplete_of_high hm hstate).trans
      ((if_neg (by simp [htarget, hready])).trans (if_pos hsource))
  case staysHigh =>
    exact fun m hm hstate hstays => (exec_powerStateMoveComplete_of_high hm hstate).trans (if_pos (by simpa [imp_iff_not_or] using hstays))
  case viaMoor =>
    intro m hm hrun htrim hvia
    show execPowerStateMoveComplete s = _
    unfold execPowerStateMoveComplete
    rw [hm]
    exact (if_neg (not_or.mpr ⟨hrun, htrim⟩)).trans (if_pos hvia)
  case low =>
    intro m hm hrun htrim hvia
    show execPowerStateMoveComplete s = _
    unfold execPowerStateMoveComplete
    rw [hm]
    refine (if_neg (not_or.mpr ⟨hrun, htrim⟩)).trans ((if_neg (Bool.eq_false_iff.mp hvia)).trans ?_)
    cases m.target with
    | _ => rfl

end Sys2Proof.Machine

namespace Sys2Proof.Machine

/-! ### What the time and network commands and events leave unchanged (R80, R359, R362, R378, R380, R382) -/

/-- `t` with those parts of `s` that serve packets and sessions, the time, the network or the global flags. -/
def netSideAs (s t : State) : State := { transportAs s t with glb := s.glb, net := s.net }

/-- From `s` to `t` only the transport of packets, the time, the network and the global flags change. -/
def SameBesideNet (s t : State) : Prop := netSideAs s t = s

section

variable {s t u : State}

theorem SameBesideNet.refl (s : State) : SameBesideNet s s := rfl

theorem SameBesideNet.trans (h : SameBesideNet s t) (k : SameBesideNet t u) : SameBesideNet s u := (congrArg (netSideAs s) k).trans h

theorem SameBesideTransport.besideNet (h : SameBesideTransport s t) : SameBesideNet s t := (congrArg (netSideAs s) h :)

theorem SameBesideHostSide.besideNet (h : SameBesideHostSide s t) : SameBesideNet s t := (congrArg (netSideAs s) h :)

theorem SameDevice.besideNet {p : Pkt} (h : SameDevice p s t) : SameBesideNet s t := h.besideTransport.besideNet

theorem sameBesideNet_update (s : State) (stolp : Stolp) (time : Time) (net : Net) (out : List Out) (freeCtr : Nat) :
    SameBesideNet s { s with stolp := stolp, time := time, net := net, out := out, freeCtr := freeCtr } := rfl

theorem sameBesideNet_ite {c : Prop} [Decidable c] (ht : SameBesideNet s t) (hu : SameBesideNet s u) :
    SameBesideNet s (if c then t else u) := by
  split
  · exact ht
  · exact hu

theorem sameBesideNet_foldl {α : Type} {f : State → α → State} (hf : ∀ t a, SameBesideNet t (f t a)) (l : List α) (s : State) :
    SameBesideNet s (l.foldl f s) := by
  induction l generalizing s with
  | nil => exact .refl s
  | cons a r ih => exact (hf s a).trans (ih _)

theorem SameBesideNet.completeOk (h : SameBesideNet s t) (p : Pkt) (w0 w1 w2 : Nat) : SameBesideNet s (completeOk p w0 w1 w2 t) :=
  h.trans (sameDevice_completeOk p w0 w1 w2 t).besideNet

end

section

variable (s : State)

theorem sameBesideNet_completeOk (p : Pkt) (w0 w1 w2 : Nat) : SameBesideNet s (completeOk p w0 w1 w2 s) :=
  (SameBesideNet.refl s).completeOk p w0 w1 w2

theorem sameBesideNet_complete (p : Pkt) (code : Code) (notes w0 w1 w2 : Nat) : SameBesideNet s (complete p code notes w0 w1 w2 s) :=
  (sameDevice_complete p code notes w0 w1 w2 s).besideNet

theorem sameBesideNet_handOn (p : Pkt) : SameBesideNet s (handOn p s) := (sameDevice_handOn p s).besideNet

theorem sameBesideNet_vwrite (h va : Nat) (bs : List Byte) : SameBesideNet s (vwrite h va bs s) :=
  (sameBesideHostSide_vwrite h va bs s).besideNet

theorem sameBesideNet_elapseTo (n : Nat) : SameBesideNet s (elapseTo n s) := (sameBesideTransport_elapseTo n s).besideNet

theorem sameBesideNet_discard : SameBesideNet s (discard s) := (sameBesideTransport_discard s).besideNet

theorem sameBesideNet_glbEvent (k : Nat) : SameBesideNet s (glbEvent k s) := (congrArg (netSideAs s) (glbEvent_frame k s) :)

theorem sameBesideNet_modEth (n : Nat) (f : Eth → Eth) : SameBesideNet s (modEth n f s) := rfl

theorem sameBesideNet_modEv (n : Nat) (f : Ev → Ev) : SameBesideNet s (modEv n f s) := rfl

/-! #### The selection of a time domain (R362, R363) -/

theorem sameBesideNet_modDom (d : Nat) (f : Domain → Domain) : SameBesideNet s (modDom d f s) :=
  sameBesideNet_ite (sameBesideNet_update s _ _ _ _ _) (sameBesideNet_update s _ _ _ _ _)

theorem sameBesideNet_selectDom (d : Nat) : SameBesideNet s (selectDom d s) := by
  unfold selectDom
  split
  · exact sameBesideNet_update s _ _ _ _ _
  · exact sameBesideNet_update s _ _ _ _ _

theorem sameBesideNet_leaveDom : SameBesideNet s (leaveDom s) := rfl

/-- A departure from the selected domain raises GLB_EVENT; a selection while none is selected does not (R362, R363). -/
theorem sameBesideNet_reselect : SameBesideNet s (reselect s) := by
  have hleave (d : Nat) : SameBesideNet s (selectDom d (leaveDom s)) := (sameBesideNet_leaveDom s).trans (sameBesideNet_selectDom _ d)
  refine sameBesideNet_ite (sameBesideNet_ite (sameBesideNet_ite ?back (.refl s)) (sameBesideNet_ite ?other ?lost))
    (sameBesideNet_ite (sameBesideNet_selectDom s _) (sameBesideNet_ite (sameBesideNet_selectDom s _) (.refl s)))
  case back => exact (sameBesideNet_selectDom s _).trans (sameBesideNet_glbEvent _ 5)
  case other => exact (hleave _).trans (sameBesideNet_glbEvent _ 5)
  case lost => exact (sameBesideNet_update s _ _ _ _ _).trans (sameBesideNet_glbEvent _ 5)

/-! #### Gweug sessions and transfers (R378–R381) -/

theorem sameBesideNet_gwDrop (id : Nat) : SameBesideNet s (gwDrop id s) := rfl

theorem sameBesideNet_gwEmit (k : Nat) (bs : List Byte) : SameBesideNet s (gwEmit k bs s) := rfl

theorem sameBesideNet_gwSend (id type : Nat) (payload : List Byte) : SameBesideNet s (gwSend id type payload s) := by
  unfold gwSend
  split
  · exact .refl s
  · have hsent (net : Net) (k : Nat) (bs : List Byte) : SameBesideNet s (gwEmit k bs { s with net := net }) := rfl
    exact sameBesideNet_ite ((hsent _ _ _).trans (sameBesideNet_gwDrop _ id)) (hsent _ _ _)

theorem sameBesideNet_modGw (id : Nat) (f : GwSession → GwSession) : SameBesideNet s (modGw id f s) := rfl

theorem sameBesideNet_modOut (id t : Nat) (f : GwOut → GwOut) : SameBesideNet s (modOut id t f s) := rfl

theorem sameBesideNet_modIn (id t : Nat) (f : GwIn → GwIn) : SameBesideNet s (modIn id t f s) := rfl

theorem sameBesideNet_dropOut (id t : Nat) : SameBesideNet s (dropOut id t s) := rfl

theorem sameBesideNet_freeSlot (x : GwIn) : SameBesideNet s (freeSlot x s) := rfl

theorem sameBesideNet_fillWindow (id t : Nat) : SameBesideNet s (fillWindow id t s) := by
  unfold fillWindow
  split
  · exact .refl s
  · exact (sameBesideNet_foldl (fun t i => sameBesideNet_gwSend t _ 1 _) _ s).trans (sameBesideNet_modOut _ _ _ _)

theorem sameBesideNet_offer (x : GwOut) : SameBesideNet s (offer x s) :=
  (sameBesideNet_gwSend s _ 7 _).trans (sameBesideNet_modOut _ _ _ _)

theorem sameBesideNet_offerAll (id : Nat) : SameBesideNet s (offerAll id s) :=
  sameBesideNet_foldl (fun t x => sameBesideNet_offer t x) _ s

theorem sameBesideNet_sendAck (x : GwIn) (flags : Nat) : SameBesideNet s (sendAck x flags s) :=
  (sameBesideNet_gwSend s _ 5 _).trans (sameBesideNet_modIn _ _ _ _)

/-- The record, the payload and the done word are written to the inbox, the transfer is acked and its slot freed (R381). -/
theorem sameBesideNet_deliverParcel (x : GwIn) (peer : Nat) : SameBesideNet s (deliverParcel x peer s) := by
  have hfreed (u : State) : SameBesideNet u
      { freeSlot x u with net.inboxes := tupd (freeSlot x u).net.inboxes x.inbox fun b => { b with full := b.full ++ [x.slot] } } := rfl
  exact ((sameBesideNet_vwrite s _ _ _).trans ((sameBesideNet_vwrite _ _ _ _).trans (sameBesideNet_vwrite _ _ _ _))).trans
    ((sameBesideNet_sendAck _ x 1).trans (hfreed _))

theorem sameBesideNet_closeInbox (n : Nat) : SameBesideNet s (closeInbox n s) :=
  (sameBesideNet_foldl (fun t _ => sameBesideNet_gwSend t _ 5 _) _ s).trans (sameBesideNet_update _ _ _ _ _ _)

theorem sameBesideNet_gwNote (id n : Nat) : SameBesideNet s (gwNote id n s) :=
  sameBesideNet_ite (sameBesideNet_update s _ _ _ _ _) (sameBesideNet_modGw s _ _)

end

/-! #### How a run of a command ends -/

section

variable {p : Pkt} {s t : State} {chk : Option Fail} {act : State → State}

/-- A command whose checks meet no failed word changes no more than its effect does. -/
theorem RunEnds.sameBesideNet (h : RunEnds p s chk act t) (hword : ∀ f, chk = some f → f.word = none)
    (hact : SameBesideNet s (act s)) : SameBesideNet s t := h.confined SameDevice.besideNet hword hact

/-- Neither a socket that closes nor one that is bound is checked against words of memory. -/
theorem chkNetBind_word {f : Fail} (h : chkNetBind p s = some f) : f.word = none := by
  unfold chkNetBind at h
  dsimp only at h
  split at h
  · exact firstFail_word h
  · exact firstFails_word h

/-- No operation on an inbox is checked against words of memory. -/
theorem chkGwInbox_word {f : Fail} (h : chkGwInbox p s = some f) : f.word = none := by
  unfold chkGwInbox at h
  dsimp only at h
  split at h
  · exact firstFails_word h
  · exact firstFail_word h
  · exact firstFail_word h
  · cases h
    rfl

end

/-! #### The effects of the commands -/

section

variable (p : Pkt) (s : State)

theorem sameBesideNet_actTkQuery : SameBesideNet s (actTkQuery p s) := (sameBesideNet_vwrite s _ _ _).completeOk p _ _ _

theorem sameBesideNet_actTkConfig : SameBesideNet s (actTkConfig p s) :=
  ((sameBesideNet_update s _ _ _ _ _).trans (sameBesideNet_reselect _)).completeOk p 0 0 0

/-- The forced domain, or automatic selection again (R362). -/
theorem sameBesideNet_actTkSelect : SameBesideNet s (actTkSelect p s) := by
  have hforced (u : State) : SameBesideNet u { u with time.forced := true } := sameBesideNet_update u _ _ _ _ _
  have hmoved : SameBesideNet s { selectDom (fld p 16 1) (leaveDom s) with time.forced := true } :=
    ((sameBesideNet_leaveDom s).trans (sameBesideNet_selectDom _ _)).trans (hforced _)
  exact (sameBesideNet_ite ((sameBesideNet_update s _ _ _ _ _).trans (sameBesideNet_reselect _))
    (sameBesideNet_ite (hforced s) (sameBesideNet_ite (hmoved.trans (sameBesideNet_glbEvent _ 5)) hmoved))).completeOk p 0 0 0

theorem sameBesideNet_actEvQuery : SameBesideNet s (actEvQuery p s) := (sameBesideNet_vwrite s _ _ _).completeOk p _ _ _

theorem sameBesideNet_actEvReadCapture : SameBesideNet s (actEvReadCapture p s) :=
  ((sameBesideNet_vwrite s _ _ _).trans (sameBesideNet_modEv _ _ _)).completeOk p _ 0 0

/-- A port that is no longer enabled closes its sessions (R99, R378, R382). -/
theorem wordsReported_actNetConfig : ∃ u, WordsReported p s u ∧ SameBesideNet u (actNetConfig p s) := by
  refine ⟨_, wordsReported_readWords p p.ctx (fld p 24 8) 256 s, ?_⟩
  have hclosed (u : State) (n : Nat) : SameBesideNet u (closeGwPort n (closePort n u)) := sameBesideNet_update u _ _ _ _ _
  exact (((sameBesideNet_ite (.refl _) (hclosed _ _)).trans (sameBesideNet_modEth _ _ _)).trans
    (sameBesideNet_update _ _ _ _ _ _)).completeOk p 0 0 0

theorem sameBesideNet_actNetQuery : SameBesideNet s (actNetQuery p s) :=
  (sameBesideNet_ite (sameBesideNet_modEth s _ _) (.refl s)).completeOk p _ _ _

theorem sameBesideNet_actNetBind : SameBesideNet s (actNetBind p s) :=
  sameBesideNet_ite ((sameBesideNet_update s _ _ _ _ _).completeOk p _ 0 0) ((sameBesideNet_update s _ _ _ _ _).completeOk p _ 0 0)

/-- A datagram joins the sends of its port, or waits there for its next hop's address (R373). -/
theorem wordsReported_actNetSend : ∃ u, WordsReported p s u ∧ SameBesideNet u (actNetSend p s) := by
  refine ⟨_, wordsReported_readWords p p.ctx (fld p 40 8) (fld p 48 2) s, ?_⟩
  exact sameBesideNet_ite ((sameBesideNet_handOn _ p).trans (sameBesideNet_modEth _ _ _))
    ((sameBesideNet_handOn _ p).trans ((sameBesideNet_modEth _ _ _).trans (sameBesideNet_update _ _ _ _ _ _)))

/-- Only the entries that operation 1 loads are read from memory (R377). -/
theorem wordsReported_actGwFleet : ∃ u, WordsReported p s u ∧ SameBesideNet u (actGwFleet p s) := by
  refine ⟨if gwOp p = 1 then readWords p.ctx (fld p 24 8) (160 * fld p 20 4) s else s, ?reported, ?effect⟩
  case reported =>
    split
    · exact wordsReported_readWords p p.ctx _ _ s
    · exact .inl rfl
  case effect =>
    refine SameBesideNet.completeOk ?_ p _ 0 0
    generalize (if gwOp p = 1 then readWords p.ctx (fld p 24 8) (160 * fld p 20 4) s else s) = v
    split
    · exact sameBesideNet_update _ _ _ _ _ _
    · exact sameBesideNet_update _ _ _ _ _ _
    · exact sameBesideNet_update _ _ _ _ _ _

/-- An opened inbox and a released slot have their done words cleared in memory (R381). -/
theorem sameBesideNet_actGwInbox : SameBesideNet s (actGwInbox p s) := by
  unfold actGwInbox
  dsimp only
  split
  · exact ((sameBesideNet_foldl (fun t _ => sameBesideNet_vwrite t _ _ _) _ s).trans (sameBesideNet_update _ _ _ _ _ _)).completeOk p 0 0 0
  · exact (sameBesideNet_closeInbox s _).completeOk p 0 0 0
  · exact ((sameBesideNet_ite (sameBesideNet_vwrite s _ _ _) (.refl s)).trans (sameBesideNet_update _ _ _ _ _ _)).completeOk p _ 0 0

/-- A transfer to a member without a session begins with a hello to it (R378). -/
theorem wordsReported_actGwSend : ∃ u, WordsReported p s u ∧ SameBesideNet u (actGwSend p s) := by
  refine ⟨_, wordsReported_readWords p p.ctx (fld p 24 8) (fld p 32 4) s, ?_⟩
  unfold actGwSend
  dsimp only
  generalize readWords p.ctx (fld p 24 8) (fld p 32 4) s = v
  have hqueued {w : State} (hw : SameBesideNet v w) (id : Nat) (f : GwSession → GwSession) (l : List GwOut) :
      SameBesideNet v { modGw id f (handOn p w) with net.gwOut := l } :=
    (hw.trans (sameBesideNet_handOn w p)).trans (sameBesideNet_update _ _ _ _ _ _)
  split
  · exact sameBesideNet_ite ((hqueued (.refl v) _ _ _).trans (sameBesideNet_offer _ _)) (hqueued (.refl v) _ _ _)
  · have hhello : SameBesideNet v (sendHello (fld p 16 2) v).2 := sameBesideNet_update v _ _ _ _ _
    exact sameBesideNet_ite ((hqueued hhello _ _ _).trans (sameBesideNet_offer _ _)) (hqueued hhello _ _ _)

end

/-- The command reads words of memory, as its checks do. -/
def ReadsNetWords (p : Pkt) (c : Instr) : Prop := c = .netConfig p ∨ c = .netSend p ∨ c = .gwFleet p ∨ c = .gwSend p

/-- A time or network command is confined to the transport of packets, the time, the network and the global flags, once the words that a
reading one meets are reported. -/
theorem netSide_of_next {p : Pkt} {c : Instr} {s t : State}
    (hc : c = .tkQuery p ∨ c = .tkConfig p ∨ c = .tkSelect p ∨ c = .evAssign p ∨ c = .evQuery p ∨ c = .evReadCapture p ∨
      c = .netConfig p ∨ c = .netQuery p ∨ c = .netBind p ∨ c = .netSend p ∨ c = .gwFleet p ∨ c = .gwInbox p ∨
      c = .gwSend p ∨ c = .gwQuery p) (h : exec c s = .next t) :
    SameBesideNet s t ∨ ReadsNetWords p c ∧ ∃ u, WordsReported p s u ∧ SameBesideNet u t := by
  rcases hc with rfl | rfl | rfl | rfl | rfl | rfl | rfl | rfl | rfl | rfl | rfl | rfl | rfl | rfl
  · exact .inl ((runEnds_of_runHost (host := false) h).sameBesideNet (fun _ => firstFails_word) (sameBesideNet_actTkQuery p s))
  · exact .inl ((runEnds_of_runCmd h).sameBesideNet (fun _ => firstFail_word) (sameBesideNet_actTkConfig p s))
  · exact .inl ((runEnds_of_runCmd h).sameBesideNet (fun _ => firstFail_word) (sameBesideNet_actTkSelect p s))
  · exact .inl ((runEnds_of_runCmd h).sameBesideNet (fun _ => firstFails_word) ((sameBesideNet_modEv s _ _).completeOk p 0 0 0))
  · exact .inl ((runEnds_of_runHost (host := false) h).sameBesideNet (fun _ => firstFails_word) (sameBesideNet_actEvQuery p s))
  · exact .inl ((runEnds_of_runHost (host := false) h).sameBesideNet (fun _ => firstFails_word) (sameBesideNet_actEvReadCapture p s))
  · exact .inr ⟨.inl rfl, (runEnds_of_runHost h).confined_of_words SameDevice.besideNet (wordsReported_actNetConfig p s)⟩
  · exact .inl ((runEnds_of_runCmd h).sameBesideNet (fun _ => firstFail_word) (sameBesideNet_actNetQuery p s))
  · exact .inl ((runEnds_of_runCmd h).sameBesideNet (fun _ => chkNetBind_word) (sameBesideNet_actNetBind p s))
  · exact .inr ⟨.inr (.inl rfl), (runEnds_of_runHost h).confined_of_words SameDevice.besideNet (wordsReported_actNetSend p s)⟩
  · exact .inr ⟨.inr (.inr (.inl rfl)), (runEnds_of_runHost h).confined_of_words SameDevice.besideNet (wordsReported_actGwFleet p s)⟩
  · exact .inl ((runEnds_of_runHost (host := false) h).sameBesideNet (fun _ => chkGwInbox_word) (sameBesideNet_actGwInbox p s))
  · exact .inr ⟨.inr (.inr (.inr rfl)), (runEnds_of_runHost h).confined_of_words SameDevice.besideNet (wordsReported_actGwSend p s)⟩
  · exact .inl ((runEnds_of_runCmd (chk := none) (act := actGwQuery p) h).sameBesideNet nofun (sameBesideNet_completeOk s p _ _ _))

/-- Settles O45: such a command is confined to the transport of packets, the time, the network and the global flags of the state that
reports its words, and a report reaches beside them only the safety state and the pins. -/
theorem timeAndNetworkCommandsFrame : Obligations.TimeAndNetworkCommandsFrame := by
  intro p c s t hc h
  obtain ⟨u, hu, hw, hs⟩ := exists_reported_of_confined (netSide_of_next hc h)
  have same {α : Type} (f : State → α) (ht : f (netSideAs u t) = f t) (hu : f (wordReportAs s u) = f u) : f t = f s :=
    ht.symm.trans ((congrArg f hs).trans (hu.symm.trans (congrArg f hw)))
  exact ⟨same State.pending rfl rfl, same State.casc rfl rfl, same State.reel rfl rfl, same State.sched rfl rfl,
    same State.models rfl rfl, same State.cams rfl rfl, same State.audio rfl rfl, same State.power rfl rfl, same State.boot rfl rfl,
    u, hu, (congrArg State.safe hs :), (congrArg State.pins hs :)⟩

/-! #### No end of work is awaited (R103, R134) -/

/-- No graceful device reset and no context close waits for work to end. -/
def NoEndAwaited (s : State) : Prop := s.cmd.devReset = none ∧ ∀ h, (ctxOf s h).closing = none

section

variable {s t : State}

theorem NoEndAwaited.of_eq (hs : NoEndAwaited s) (hcmd : t.cmd = s.cmd) (hctxs : t.ctxs = s.ctxs) : NoEndAwaited t := by
  obtain ⟨hreset, hclosing⟩ := hs
  unfold NoEndAwaited ctxOf
  rw [hcmd, hctxs]
  exact ⟨hreset, hclosing⟩

/-- An answered packet sets no reset and no close under way. -/
theorem NoEndAwaited.of_sameDevice {p : Pkt} (hs : NoEndAwaited s) (h : SameDevice p s t) : NoEndAwaited t := by
  obtain ⟨hreset, hclosing⟩ := hs
  have hcmd : t.cmd.devReset = s.cmd.devReset := (congrArg Cmd.devReset h.cmd :)
  have hown : (ctxOf t p.ctx).closing = (ctxOf s p.ctx).closing := (congrArg Ctx.closing h.own :)
  refine ⟨hcmd.trans hreset, fun k => ?_⟩
  by_cases hk : k = p.ctx
  · rw [hk, hown, hclosing]
  · rw [h.others k hk, hclosing]

theorem NoEndAwaited.modEth (hs : NoEndAwaited s) (n : Nat) (f : Eth → Eth) : NoEndAwaited (modEth n f s) := hs

theorem NoEndAwaited.dropOut (hs : NoEndAwaited s) (id t : Nat) : NoEndAwaited (dropOut id t s) := hs

theorem NoEndAwaited.elapseTo (hs : NoEndAwaited s) (n : Nat) : NoEndAwaited (elapseTo n s) :=
  hs.of_eq (congrArg State.cmd (elapseTo_frame n s) :) (congrArg State.ctxs (elapseTo_frame n s) :)

theorem NoEndAwaited.gwNote (hs : NoEndAwaited s) (id n : Nat) : NoEndAwaited (gwNote id n s) := by
  unfold Machine.gwNote
  dsimp only
  split
  · exact hs
  · exact hs

theorem NoEndAwaited.foldl {α : Type} {f : State → α → State} (hf : ∀ t a, NoEndAwaited t → NoEndAwaited (f t a)) (l : List α)
    (hs : NoEndAwaited s) : NoEndAwaited (l.foldl f s) := by
  induction l generalizing s with
  | nil => exact hs
  | cons a r ih => exact ih (hf s a hs)

theorem gracefulCheck_of_noEndAwaited (hs : NoEndAwaited s) (h : Nat) : gracefulCheck h s = s := by
  unfold gracefulCheck
  rw [hs.2 h]

/-- The end of work then ends nothing else. -/
theorem workEnded_of_noEndAwaited (hs : NoEndAwaited s) : workEnded s = s := by
  have hfold : ∀ l : List Nat, l.foldl (fun t h => gracefulCheck h t) s = s := by
    intro l
    induction l with
    | nil => rfl
    | cons h r ih => rw [List.foldl_cons, gracefulCheck_of_noEndAwaited hs h, ih]
  unfold workEnded
  rw [hfold]
  unfold resetCheck
  rw [hs.1]

theorem sameBesideNet_workEnded (hs : NoEndAwaited s) : SameBesideNet s (workEnded s) := by
  rw [workEnded_of_noEndAwaited hs]
  exact .refl s

/-- A transfer that is no longer sent and whose packet is answered ends no other work. -/
theorem NoEndAwaited.besideNet_of_dropOut {p : Pkt} {id n : Nat} (hs : NoEndAwaited s) (h : SameDevice p (Machine.dropOut id n s) t) :
    SameBesideNet s (workEnded t) :=
  ((sameBesideNet_dropOut s id n).trans h.besideNet).trans (sameBesideNet_workEnded ((hs.dropOut id n).of_sameDevice h))

end

/-! #### The events -/

/-- An answer whose next state, where it has one, differs by the transport of packets, the time, the network and the global flags. -/
def KeepsBesideNet (s : State) (r : Res) : Prop := ∀ t, r = .next t → SameBesideNet s t

section

variable {s t : State}

theorem SameBesideNet.keeps (h : SameBesideNet s t) : KeepsBesideNet s (.next t) := fun _ ht => Host.Outcome.next.inj ht ▸ h

theorem keepsBesideNet_self (s : State) : KeepsBesideNet s (.next s) := (SameBesideNet.refl s).keeps

theorem keepsBesideNet_fault (s : State) (f : Fault) : KeepsBesideNet s (.fault f) := by
  intro t ht
  cases ht

theorem keepsBesideNet_ite {c : Prop} [Decidable c] {a b : Res} (ha : KeepsBesideNet s a) (hb : KeepsBesideNet s b) :
    KeepsBesideNet s (if c then a else b) := by
  split
  · exact ha
  · exact hb

theorem keepsBesideNet_gptpSync (m : SyncMsg) : KeepsBesideNet s (execGptpSync m s) :=
  keepsBesideNet_ite (keepsBesideNet_fault s _) (keepsBesideNet_ite (keepsBesideNet_self s)
    (((sameBesideNet_modDom s _ _).trans (sameBesideNet_ite (sameBesideNet_update _ _ _ _ _ _) (.refl _))).trans
      (sameBesideNet_reselect _)).keeps)

theorem keepsBesideNet_gptpAnnounce (d n : Nat) (a : Announced) (timeout : Nat) : KeepsBesideNet s (execGptpAnnounce d n a timeout s) :=
  keepsBesideNet_ite (keepsBesideNet_fault s _) (keepsBesideNet_ite (keepsBesideNet_self s)
    ((sameBesideNet_modDom s _ _).trans (sameBesideNet_reselect _)).keeps)

theorem keepsBesideNet_gptpPdelay (n : Nat) (x : Pdelay) : KeepsBesideNet s (execGptpPdelay n x s) := by
  refine keepsBesideNet_ite (keepsBesideNet_fault s _) (keepsBesideNet_ite (keepsBesideNet_self s) ?_)
  cases x with
  | measured d => exact (sameBesideNet_update s _ _ _ _ _).keeps
  | request t => exact ((sameBesideNet_elapseTo s t).trans (sameBesideNet_modEth _ _ _)).keeps

theorem keepsBesideNet_syncReceiptTimeout (d : Nat) : KeepsBesideNet s (execSyncReceiptTimeout d s) :=
  keepsBesideNet_ite (keepsBesideNet_fault s _) (keepsBesideNet_ite (keepsBesideNet_self s)
    (((sameBesideNet_elapseTo s _).trans (sameBesideNet_modDom _ d _)).trans (sameBesideNet_reselect _)).keeps)

theorem keepsBesideNet_revertiveTimer : KeepsBesideNet s (execRevertiveTimer s) :=
  keepsBesideNet_ite (((sameBesideNet_elapseTo s _).trans (sameBesideNet_selectDom _ _)).trans (sameBesideNet_glbEvent _ 5)).keeps
    (keepsBesideNet_self s)

/-- The sends that wait for the neighbour end, and no other work with them. -/
theorem keepsBesideNet_neighborResolutionTimeout (hs : NoEndAwaited s) (n : Nat) (ip : List Byte) :
    KeepsBesideNet s (execNeighborResolutionTimeout n ip s) := by
  refine keepsBesideNet_ite (keepsBesideNet_fault s _) ?_
  have hanswered {u : State} (hu : SameBesideNet s u) (hn : NoEndAwaited u) (f : Eth → Eth) (l : List Sending) :
      KeepsBesideNet s (.next (workEnded (l.foldl (fun t x => complete x.pkt .eTimeout 0 0 0 0 t) (modEth n f u)))) :=
    (((hu.trans (sameBesideNet_modEth u n f)).trans (sameBesideNet_foldl (fun t _ => sameBesideNet_complete t _ _ _ _ _ _) l _)).trans
      (sameBesideNet_workEnded ((hn.modEth n f).foldl
        (fun t x ht => ht.of_sameDevice (sameDevice_complete x.pkt .eTimeout 0 0 0 0 t)) l))).keeps
  dsimp only
  generalize (ethOf s n).resolving.filter (fun x => x.hop == ip) = gone
  cases gone with
  | nil => exact hanswered (.refl s) hs _ []
  | cons x rest => exact hanswered (sameBesideNet_elapseTo s _) (hs.elapseTo _) _ (x :: rest)

/-- A datagram of no open session is discarded; one of an open session is noted in it and takes its effect (R378). -/
theorem keepsBesideNet_gwTake {m : GwMsg} {type : Nat} {act : Nat → State → State}
    (hact : ∀ id, SameBesideNet (gwNote id m.counter s) (act id (gwNote id m.counter s))) : KeepsBesideNet s (gwTake m type act s) := by
  unfold gwTake
  split
  · exact (sameBesideNet_discard s).keeps
  next id _ => exact ((sameBesideNet_gwNote s id _).trans (hact id)).keeps

end

/-! #### The effects of the Gweug messages (R378–R381) -/

section

variable (m : GwMsg) (s : State)

/-- A hello is answered, answered again, or discarded (R378). -/
theorem sameBesideNet_takeHello : SameBesideNet s (takeHello m s) := by
  have hdiscard := sameBesideNet_discard s
  have hreply (id : Nat) : SameBesideNet s (sendReply id m.peer m.data s) := sameBesideNet_update s _ _ _ _ _
  refine sameBesideNet_ite hdiscard ?_
  split
  · exact sameBesideNet_ite hdiscard (sameBesideNet_update s _ _ _ _ _)
  · exact sameBesideNet_ite (sameBesideNet_ite hdiscard (hreply _)) (sameBesideNet_ite (sameBesideNet_gwEmit s _ _) hdiscard)

/-- The initiator sends its finish and offers what waited (R95). -/
theorem sameBesideNet_takeReply : SameBesideNet s (takeReply m s) := by
  unfold takeReply
  split
  · exact sameBesideNet_discard s
  · exact sameBesideNet_ite (((sameBesideNet_update s _ _ _ _ _).trans (sameBesideNet_gwSend _ _ 4 _)).trans
      (sameBesideNet_offerAll _ _)) (sameBesideNet_discard s)

/-- The responder offers what waited (R95). -/
theorem sameBesideNet_takeFinish : SameBesideNet s (takeFinish m s) := by
  unfold takeFinish
  split
  · exact sameBesideNet_discard s
  · exact sameBesideNet_ite ((sameBesideNet_modGw s _ _).trans (sameBesideNet_offerAll _ _)) (sameBesideNet_discard s)

theorem sameBesideNet_takeOffer (id : Nat) : SameBesideNet s (takeOffer m id s) := by
  have hanswer (t : Nat) (c : Code) (slot : Nat) (u : State) : SameBesideNet u (answer id t c slot u) := sameBesideNet_gwSend u id 8 _
  unfold takeOffer
  dsimp only
  split
  · exact hanswer _ _ _ s
  · exact hanswer _ _ _ s
  · refine sameBesideNet_ite (hanswer _ _ _ s) ?_
    split
    · exact hanswer _ _ _ s
    · exact (sameBesideNet_update s _ _ _ _ _).trans (hanswer _ _ _ _)

/-- OK starts the chunks; another status ends GW_SEND with its code (R380). -/
theorem sameBesideNet_takeAnswer (hs : NoEndAwaited s) (id : Nat) : SameBesideNet s (takeAnswer m id s) := by
  unfold takeAnswer
  split
  · refine sameBesideNet_ite (.refl s) (sameBesideNet_ite ?started ?ended)
    case started => exact (sameBesideNet_modOut s _ _ _).trans (sameBesideNet_fillWindow _ _ _)
    case ended => exact hs.besideNet_of_dropOut (sameDevice_complete _ _ _ _ _ _ _)
  · exact .refl s

/-- A chunk is stored; the last one delivers the parcel, and each eighth is acked (R380). -/
theorem sameBesideNet_takeData (id : Nat) : SameBesideNet s (takeData m id s) := by
  unfold takeData
  dsimp only
  split
  · exact .refl s
  · have hstored := fun t y => sameBesideNet_modIn s id t y
    exact sameBesideNet_ite (.refl s) (sameBesideNet_ite ((hstored _ _).trans (sameBesideNet_deliverParcel _ _ _))
      (sameBesideNet_ite ((hstored _ _).trans (sameBesideNet_sendAck _ _ 0)) (hstored _ _)))

/-- COMPLETE and ABORT end GW_SEND; otherwise the window advances (R380). -/
theorem sameBesideNet_takeAck (hs : NoEndAwaited s) (id : Nat) : SameBesideNet s (takeAck m id s) := by
  unfold takeAck
  split
  · exact .refl s
  · refine sameBesideNet_ite ?abort (sameBesideNet_ite ?complete (sameBesideNet_ite (.refl s) ?advance))
    case abort => exact hs.besideNet_of_dropOut (sameDevice_complete _ _ _ _ _ _ _)
    case complete => exact hs.besideNet_of_dropOut (sameDevice_completeOk _ _ _ _ _)
    case advance => exact (sameBesideNet_modOut s _ _ _).trans (sameBesideNet_fillWindow _ _ _)

end

/-! #### The Gweug events (R378–R381) -/

section

variable {s : State}

theorem keepsBesideNet_gwHandshakeMessage (m : GwMsg) : KeepsBesideNet s (execGwHandshakeMessage m s) := by
  refine SameBesideNet.keeps ?_
  split
  · exact sameBesideNet_takeHello m s
  · exact sameBesideNet_takeReply m s
  · exact sameBesideNet_takeFinish m s
  · exact sameBesideNet_discard s

theorem keepsBesideNet_gwAckTimer (session transfer : Nat) : KeepsBesideNet s (execGwAckTimer session transfer s) := by
  unfold execGwAckTimer
  split
  · exact keepsBesideNet_self s
  · exact (sameBesideNet_ite (.refl s) ((sameBesideNet_elapseTo s _).trans (sameBesideNet_sendAck _ _ 0))).keeps

theorem keepsBesideNet_gwChunkRetransmit (session transfer chunk : Nat) :
    KeepsBesideNet s (execGwChunkRetransmit session transfer chunk s) := by
  unfold execGwChunkRetransmit
  split
  · exact keepsBesideNet_self s
  · exact keepsBesideNet_ite (keepsBesideNet_self s)
      (((sameBesideNet_elapseTo s _).trans (sameBesideNet_gwSend _ _ 1 _)).trans (sameBesideNet_modOut _ _ _ _)).keeps

/-- The sender's packet is answered, or the receiver's slot freed (R380). -/
theorem keepsBesideNet_gwTransferDeadline (hs : NoEndAwaited s) (session transfer : Nat) (sender : Bool) :
    KeepsBesideNet s (execGwTransferDeadline session transfer sender s) := by
  refine keepsBesideNet_ite ?sender ?receiver
  case sender =>
    split
    · exact keepsBesideNet_self s
    · exact ((sameBesideNet_elapseTo s _).trans ((hs.elapseTo _).besideNet_of_dropOut (sameDevice_complete _ _ _ _ _ _ _))).keeps
  case receiver =>
    split
    · exact keepsBesideNet_self s
    · exact (sameBesideNet_freeSlot s _).keeps

theorem keepsBesideNet_gwSessionIdleTimeout (session : Nat) : KeepsBesideNet s (execGwSessionIdleTimeout session s) := by
  unfold execGwSessionIdleTimeout
  split
  · exact keepsBesideNet_self s
  · exact ((sameBesideNet_elapseTo s _).trans ((sameBesideNet_ite (sameBesideNet_gwSend _ _ 6 _) (.refl _)).trans
      (sameBesideNet_gwDrop _ _))).keeps

end

/-- Settles O49: each event is confined to the transport of packets, the time, the network and the global flags. Those that end a packet
end no reset and no close with it, since none waits. -/
theorem networkEventsFrame : Obligations.NetworkEventsFrame := by
  intro c s t hc h
  suffices hs : SameBesideNet s t from
    ⟨(congrArg State.pending hs :), (congrArg State.casc hs :), (congrArg State.reel hs :), (congrArg State.sched hs :),
      (congrArg State.models hs :), (congrArg State.cams hs :), (congrArg State.audio hs :), (congrArg State.safe hs :),
      (congrArg State.power hs :), (congrArg State.boot hs :), (congrArg State.pins hs :)⟩
  rcases hc with ⟨m, rfl⟩ | ⟨d, n, gm, timeout, rfl⟩ | ⟨n, x, rfl⟩ | ⟨d, rfl⟩ | rfl | ⟨hreset, hclosing, n, ip, rfl⟩ | ⟨m, rfl⟩ |
    ⟨m, rfl⟩ | ⟨hreset, hclosing, m, rfl⟩ | ⟨m, rfl⟩ | ⟨hreset, hclosing, m, rfl⟩ | ⟨m, rfl⟩ | ⟨session, transfer, rfl⟩ |
    ⟨session, transfer, chunk, rfl⟩ | ⟨hreset, hclosing, session, transfer, sender, rfl⟩ | ⟨session, rfl⟩
  · exact keepsBesideNet_gptpSync m t h
  · exact keepsBesideNet_gptpAnnounce d n gm timeout t h
  · exact keepsBesideNet_gptpPdelay n x t h
  · exact keepsBesideNet_syncReceiptTimeout d t h
  · exact keepsBesideNet_revertiveTimer t h
  · exact keepsBesideNet_neighborResolutionTimeout ⟨hreset, hclosing⟩ n ip t h
  · exact keepsBesideNet_gwHandshakeMessage m t h
  · exact keepsBesideNet_gwTake (fun id => sameBesideNet_takeOffer m _ id) t h
  · exact keepsBesideNet_gwTake (fun id => sameBesideNet_takeAnswer m _ (NoEndAwaited.gwNote ⟨hreset, hclosing⟩ id _) id) t h
  · exact keepsBesideNet_gwTake (fun id => sameBesideNet_takeData m _ id) t h
  · exact keepsBesideNet_gwTake (fun id => sameBesideNet_takeAck m _ (NoEndAwaited.gwNote ⟨hreset, hclosing⟩ id _) id) t h
  · exact keepsBesideNet_gwTake (fun id => sameBesideNet_gwDrop _ id) t h
  · exact keepsBesideNet_gwAckTimer session transfer t h
  · exact keepsBesideNet_gwChunkRetransmit session transfer chunk t h
  · exact keepsBesideNet_gwTransferDeadline ⟨hreset, hclosing⟩ session transfer sender t h
  · exact keepsBesideNet_gwSessionIdleTimeout session t h

end Sys2Proof.Machine

namespace Sys2Proof.Machine

/-! ### What the safety, power and security commands leave unchanged (R80, R408, R429, R450) -/

/-- `t` with those parts of `s` that serve the host side, take the report of a memory word, or hold the power state, start-up and security;
the levels of the cameras' pads follow those that the power unit holds (R422). -/
def controlSideAs (s t : State) : State := { wordReportAs s t with cams := s.cams, power := s.power, boot := s.boot, freeCtr := s.freeCtr }

/-- From `s` to `t` only those parts change. -/
def SameBesideControl (s t : State) : Prop := controlSideAs s t = s

section

variable {s t u : State}

theorem SameBesideControl.refl (s : State) : SameBesideControl s s := rfl

theorem SameBesideControl.trans (h : SameBesideControl s t) (k : SameBesideControl t u) : SameBesideControl s u :=
  (congrArg (controlSideAs s) k).trans h

theorem SameBesideWordReport.besideControl (h : SameBesideWordReport s t) : SameBesideControl s t := (congrArg (controlSideAs s) h :)

theorem SameDevice.besideControl {p : Pkt} (h : SameDevice p s t) : SameBesideControl s t := h.besideHostSide.besideWordReport.besideControl

theorem sameBesideControl_update (s : State) (glb : Glb) (cams : Cams) (safe : Safe) (power : Power) (boot : Boot) (freeCtr : Nat) :
    SameBesideControl s { s with glb := glb, cams := cams, safe := safe, power := power, boot := boot, freeCtr := freeCtr } := rfl

theorem sameBesideControl_ite {c : Prop} [Decidable c] (ht : SameBesideControl s t) (hu : SameBesideControl s u) :
    SameBesideControl s (if c then t else u) := by
  split
  · exact ht
  · exact hu

theorem SameBesideControl.completeOk (h : SameBesideControl s t) (p : Pkt) (w0 w1 w2 : Nat) :
    SameBesideControl s (completeOk p w0 w1 w2 t) := h.trans (sameDevice_completeOk p w0 w1 w2 t).besideControl

/-- A failed word of a command's checks is charged, and its packet answered, within the same confines as its effect. -/
theorem RunEnds.sameBesideControl {p : Pkt} {chk : Option Fail} {act : State → State} (h : RunEnds p s chk act t)
    (hact : SameBesideControl s (act s)) : SameBesideControl s t := by
  cases h with
  | untouched hs => exact hs.besideControl
  | badWord hchk hw hs => exact (sameBesideWordReport_wordEvent _ _ s).besideControl.trans hs.besideControl
  | acts hp hchk ht =>
    subst ht
    exact hact

end

section

variable (s : State)

theorem sameBesideControl_completeOk (p : Pkt) (w0 w1 w2 : Nat) : SameBesideControl s (completeOk p w0 w1 w2 s) :=
  (SameBesideControl.refl s).completeOk p w0 w1 w2

theorem sameBesideControl_handOn (p : Pkt) : SameBesideControl s (handOn p s) := (sameDevice_handOn p s).besideControl

theorem sameBesideControl_vwrite (h va : Nat) (bs : List Byte) : SameBesideControl s (vwrite h va bs s) :=
  (sameBesideHostSide_vwrite h va bs s).besideWordReport.besideControl

theorem sameBesideControl_readWords (h va n : Nat) : SameBesideControl s (readWords h va n s) := by
  obtain ⟨ws, hws⟩ := readWords_eq_correctedWords s h va n
  rw [hws]
  exact (sameBesideWordReport_correctedWords ws s).besideControl

theorem sameBesideControl_safetyPins : SameBesideControl s (safetyPins s) := (congrArg (controlSideAs s) (safetyPins_frame s) :)

theorem sameBesideControl_releasePads (mask : Nat) : SameBesideControl s (releasePads mask s) :=
  (sameBesideControl_update s _ _ _ _ _ _).trans (sameBesideControl_safetyPins _)

theorem sameBesideControl_swapPairs (a b : Nat) : SameBesideControl s (swapPairs a b s) := rfl

/-- A cancelled update undoes its stages and answers the packet that waits for it (R449). -/
theorem sameBesideControl_cancelUpdate (code : Code) : SameBesideControl s (cancelUpdate code s) := by
  have hpairs := sameBesideControl_ite (c := 5 ≤ s.boot.updStage) (sameBesideControl_swapPairs s 1 2) (.refl s)
  have hcleared {u : State} (hu : SameBesideControl s u) (glb : Glb) (boot : Boot) :
      SameBesideControl s { (if 4 ≤ s.boot.updStage then { swapPairs 0 2 u with glb := glb } else u) with boot := boot } :=
    (sameBesideControl_ite (hu.trans (sameBesideControl_update u _ _ _ _ _ _)) hu).trans (sameBesideControl_update _ _ _ _ _ _ _)
  refine sameBesideControl_ite (.refl s) ?_
  cases s.boot.updPkt with
  | none => exact hcleared hpairs _ _
  | some p => exact (hcleared hpairs _ _).trans (sameDevice_complete p code 0 0 0 0 _).besideControl

/-- The effect runs if the secure element answers, and the packet is rejected otherwise (R442, R451). -/
theorem sameBesideControl_withSe {act : State → State} (hact : ∀ t, SameBesideControl t (act t)) (n : Nat) (p : Pkt) :
    SameBesideControl s (withSe n p act s) :=
  (sameBesideControl_update s _ _ _ _ _ _).trans (sameBesideControl_ite (hact _) (sameDevice_reject p _ 0 _).besideControl)

end

/-! #### The effects -/

section

variable (p : Pkt) (s : State)

theorem sameBesideControl_actSafeLogRead : SameBesideControl s (actSafeLogRead p s) :=
  (sameBesideControl_vwrite s _ _ _).completeOk p _ _ _

theorem sameBesideControl_actSafeChannels : SameBesideControl s (actSafeChannels p s) :=
  (sameBesideControl_vwrite s _ _ _).completeOk p _ _ _

/-- Address 0 restores the reset values and reads nothing. -/
theorem sameBesideControl_actSafeConfig : SameBesideControl s (actSafeConfig p s) :=
  ((sameBesideControl_ite (.refl s) (sameBesideControl_readWords s _ _ _)).trans
    (sameBesideControl_update _ _ _ _ _ _ _)).completeOk p 0 0 0

theorem sameBesideControl_actSafeClear : SameBesideControl s (actSafeClear p s) :=
  ((sameBesideControl_update s _ _ _ _ _ _).trans (sameBesideControl_safetyPins _)).completeOk p 0 0 0

theorem sameBesideControl_actPwrQuery : SameBesideControl s (actPwrQuery p s) :=
  (sameBesideControl_ite (.refl s) (sameBesideControl_vwrite s _ _ _)).completeOk p _ _ _

/-- A cap whose floor is at most the P0 point now sets the cap alone (R425). -/
theorem sameBesideControl_actPwrCap (h : fld p 17 1 ≤ s.power.pt0) : SameBesideControl s (actPwrCap p s) := by
  unfold actPwrCap
  dsimp only
  rw [if_neg (Nat.not_lt.mpr h)]
  exact (sameBesideControl_update s _ _ _ _ _ _).completeOk p 0 0 0

theorem sameBesideControl_actPwrEnter : SameBesideControl s (actPwrEnter p s) :=
  (sameBesideControl_completeOk s p 0 0 0).trans (sameBesideControl_update _ _ _ _ _ _ _)

theorem sameBesideControl_actPadsRelease : SameBesideControl s (actPadsRelease p s) :=
  (sameBesideControl_releasePads s _).completeOk p _ _ 0

theorem sameBesideControl_actPwrPads : SameBesideControl s (actPwrPads p s) :=
  ((sameBesideControl_update s _ _ _ _ _ _).trans (sameBesideControl_releasePads _ _)).completeOk p 0 0 0

theorem sameBesideControl_actBootJournal : SameBesideControl s (actBootJournal p s) :=
  (sameBesideControl_vwrite s _ _ _).completeOk p _ _ 0

theorem sameBesideControl_actSecCert : SameBesideControl s (actSecCert p s) := (sameBesideControl_vwrite s _ _ _).completeOk p _ 0 0

/-- The signature draws a free value (R446). -/
theorem sameBesideControl_actSecAttest : SameBesideControl s (actSecAttest p s) :=
  ((sameBesideControl_update s _ _ _ _ _ _).trans (sameBesideControl_vwrite _ _ _ _)).completeOk p _ 0 0

theorem sameBesideControl_actSecPair : SameBesideControl s (actSecPair p s) :=
  sameBesideControl_withSe s (fun t => (sameBesideControl_update t _ _ _ _ _ _).completeOk p 1 0 0) 1 p

theorem sameBesideControl_actSecOwner : SameBesideControl s (actSecOwner p s) :=
  sameBesideControl_withSe s (fun t => ((sameBesideControl_update t _ _ _ _ _ _).trans
    (sameBesideControl_readWords _ _ _ _)).completeOk p _ _ 0) 1 p

/-- A copy whose NOR write verifies is stored; otherwise the packet is rejected (R441). -/
theorem sameBesideControl_actSecConfig : SameBesideControl s (actSecConfig p s) := by
  unfold actSecConfig
  refine sameBesideControl_withSe s (fun t => ?_) 2 p
  have hdrawn (boot : Boot) : SameBesideControl t { t with freeCtr := t.freeCtr + 1, boot := boot } :=
    sameBesideControl_update t _ _ _ _ _ _
  dsimp only
  split
  · exact ((hdrawn _).trans (sameBesideControl_readWords _ _ _ _)).completeOk p _ 0 0
  · exact (hdrawn t.boot).trans (sameDevice_reject p _ 0 _).besideControl

theorem sameBesideControl_actSecFloor : SameBesideControl s (actSecFloor p s) :=
  sameBesideControl_withSe s (fun t => (sameBesideControl_update t _ _ _ _ _ _).completeOk p _ _ 0) _ p

theorem sameBesideControl_actUpdStage : SameBesideControl s (actUpdStage p s) :=
  ((sameBesideControl_readWords s _ _ _).trans (sameBesideControl_update _ _ _ _ _ _ _)).trans (sameBesideControl_handOn _ p)

theorem sameBesideControl_actUpdActivate : SameBesideControl s (actUpdActivate p s) :=
  (sameBesideControl_update s _ _ _ _ _ _).trans (sameBesideControl_handOn _ p)

theorem sameBesideControl_actUpdCancel : SameBesideControl s (actUpdCancel p s) :=
  (sameBesideControl_cancelUpdate s .eCheck).completeOk p _ 0 0

end

/-- A safety, power or security command is confined to the host side and to the parts that it controls. -/
theorem sameBesideControl_of_next {p : Pkt} {c : Instr} {s t : State}
    (hc : c = .safeQuery p ∨ c = .safeLogRead p ∨ c = .safeChannels p ∨ c = .safeConfig p ∨ c = .safeClear p ∨ c = .pwrQuery p ∨
      (c = .pwrCap p ∧ fld p 17 1 ≤ s.power.pt0) ∨ c = .pwrPolicy p ∨ c = .pwrWake p ∨ c = .pwrEnter p ∨
      c = .padsRelease p ∨ c = .pwrPads p ∨ c = .bootJournal p ∨ c = .bootRetry p ∨ c = .secCert p ∨ c = .secAttest p ∨
      c = .secPair p ∨ c = .secOwner p ∨ c = .secConfig p ∨ c = .secFloor p ∨ c = .updStage p ∨ c = .updActivate p ∨
      c = .updCancel p ∨ c = .updQuery p) (h : exec c s = .next t) : SameBesideControl s t := by
  rcases hc with rfl | rfl | rfl | rfl | rfl | rfl | ⟨rfl, hcap⟩ | rfl | rfl | rfl | rfl | rfl | rfl | rfl | rfl | rfl | rfl | rfl | rfl |
    rfl | rfl | rfl | rfl | rfl
  · exact (runEnds_of_runCmd (chk := none) (act := actSafeQuery p) h).sameBesideControl (sameBesideControl_completeOk s p _ _ _)
  · exact (runEnds_of_runHost (host := false) h).sameBesideControl (sameBesideControl_actSafeLogRead p s)
  · exact (runEnds_of_runHost (host := false) h).sameBesideControl (sameBesideControl_actSafeChannels p s)
  · exact (runEnds_of_runHost h).sameBesideControl (sameBesideControl_actSafeConfig p s)
  · exact (runEnds_of_runCmd h).sameBesideControl (sameBesideControl_actSafeClear p s)
  · exact (runEnds_of_runHost (host := false) h).sameBesideControl (sameBesideControl_actPwrQuery p s)
  · exact (runEnds_of_runCmd h).sameBesideControl (sameBesideControl_actPwrCap p s hcap)
  · exact (runEnds_of_runCmd h).sameBesideControl ((sameBesideControl_update s _ _ _ _ _ _).completeOk p 0 0 0)
  · exact (runEnds_of_runCmd h).sameBesideControl ((sameBesideControl_update s _ _ _ _ _ _).completeOk p 0 0 0)
  · exact (runEnds_of_runCmd h).sameBesideControl (sameBesideControl_actPwrEnter p s)
  · exact (runEnds_of_runCmd h).sameBesideControl (sameBesideControl_actPadsRelease p s)
  · exact (runEnds_of_runCmd (chk := none) (act := actPwrPads p) h).sameBesideControl (sameBesideControl_actPwrPads p s)
  · exact (runEnds_of_runHost (host := false) h).sameBesideControl (sameBesideControl_actBootJournal p s)
  · exact (runEnds_of_runCmd h).sameBesideControl ((sameBesideControl_update s _ _ _ _ _ _).completeOk p _ 0 0)
  · exact (runEnds_of_runHost (host := false) h).sameBesideControl (sameBesideControl_actSecCert p s)
  · exact (runEnds_of_runHost (host := false) h).sameBesideControl (sameBesideControl_actSecAttest p s)
  · exact (runEnds_of_runCmd h).sameBesideControl (sameBesideControl_actSecPair p s)
  · exact (runEnds_of_runHost h).sameBesideControl (sameBesideControl_actSecOwner p s)
  · exact (runEnds_of_runHost h).sameBesideControl (sameBesideControl_actSecConfig p s)
  · exact (runEnds_of_runCmd h).sameBesideControl (sameBesideControl_actSecFloor p s)
  · exact (runEnds_of_runHost h).sameBesideControl (sameBesideControl_actUpdStage p s)
  · exact (runEnds_of_runCmd h).sameBesideControl (sameBesideControl_actUpdActivate p s)
  · exact (runEnds_of_runCmd h).sameBesideControl (sameBesideControl_actUpdCancel p s)
  · exact (runEnds_of_runCmd h).sameBesideControl (sameBesideControl_completeOk s p _ _ _)

/-- Settles O46: such a command is confined to the host side, the safety state, the power state, start-up and security with the pads and
pins that follow them, and so is the report of the words that it meets. -/
theorem safetyPowerAndSecurityCommandsFrame : Obligations.SafetyPowerAndSecurityCommandsFrame := by
  intro p c s t hc h
  have hs := sameBesideControl_of_next hc h
  exact ⟨(congrArg State.pending hs :), (congrArg State.casc hs :), (congrArg State.reel hs :), (congrArg State.sched hs :),
    (congrArg State.models hs :), (congrArg State.audio hs :), (congrArg State.time hs :), (congrArg State.net hs :)⟩

end Sys2Proof.Machine
